-- ==== Sys2Proof/Word.lean ====
section
/-! DEFINITION. The word types of the module: a byte, the 64-bit register and op word (R13, R71), the
FP32 bit pattern (R88). -/
namespace Sys2Proof

/-- A byte. -/
abbrev Byte := BitVec 8
/-- A register of the configuration window (R13), and an op word (R71). -/
abbrev Word := BitVec 64
/-- A 32-bit word: an FP32 bit pattern (R88), a scalar register (R55), an event counter (R167). -/
abbrev W32 := BitVec 32
/-- A 42-bit logical address (R35, R253). -/
abbrev LAddr := BitVec 42
/-- A place in a tier (R254). -/
abbrev Place := BitVec 42

end Sys2Proof
end

