-- ==== Sys2Proof/Machine/NetWire.lean ====
section
/-! DEFINITION. Packets of the network ports as commands name them: pennants (R315), CST packets (R493), RoCEv2 packets
(R500), surface packets (R508). Checks that belong to the link itself (CRC, version, fragments) are their verdict. -/
namespace Sys2Proof.Machine

/-- A pennant and the payload behind it (R315). -/
structure Penn where
  kind : Nat
  chan : Nat
  coll : Nat
  group : Nat
  cseq : Nat
  hash : Nat
  gen : Nat
  low : Nat := 0
  contrib : Nat := 0
  segment : Nat := 0
  block : Nat := 0
  count : Nat := 0
  sender : Nat
  payload : List Byte := []
  deriving DecidableEq, Repr

/-- A CST packet received (R493): `good` is the verdict of R490 and R494 on fragment, options, VER, OP and CRC; `ce` the
congestion mark of R492; `bitmap` the offsets of the selective bitmap above ACK_PSN + 1. -/
structure CstPkt where
  src : Nat
  conn : Nat
  psn : Nat
  ack : Nat
  len : Nat := 0
  tag : Nat := 0
  addr : Nat := 0
  comp : Bool := false
  ackreq : Bool := false
  bitmap : List Nat := []
  penn : Option Penn := none
  payload : List Byte := []
  ce : Bool := false
  good : Bool := true
  deriving DecidableEq, Repr

/-- What a RoCEv2 packet is (R500, R501): the data of a read, an acknowledgement, a NAK with its code by IBTA, or the
congestion notification of Annex A17. -/
inductive RoceKind where
  | readData
  | ack
  | nak (code : Nat)
  | cnp
  deriving DecidableEq, Repr

/-- A RoCEv2 packet received. -/
structure RocePkt where
  src : Nat
  qpn : Nat
  psn : Nat
  kind : RoceKind
  payload : List Byte := []
  ce : Bool := false
  good : Bool := true
  deriving DecidableEq, Repr

/-- How a training of an edge port or of a sublink ends (R485, R488, R507, R514): in service; without reaching its mode; or
with a self-test that fails. -/
inductive TrainEnd where
  | up
  | noMode
  | testFail
  deriving DecidableEq, Repr

/-- A surface packet (R508) with the credits that its flit returns (R507): class and count. KIND 0 stands for a flit
without a packet; `detour` says that the packet belongs to a binding of the partner field (R512); `good` is the verdict of the flit's
CRC. -/
structure SurfPkt where
  kind : Nat
  bind : Nat := 0
  last : Bool := false
  tseq : Nat := 0
  offset : Nat := 0
  penn : Option Penn := none
  payload : List Byte := []
  credClass : Nat := 0
  credits : Nat := 0
  detour : Bool := false
  good : Bool := true
  deriving DecidableEq, Repr

/-- The identity flit of a sublink's training (R507): unit, port and sublink of the peer; `half`: one pair has failed. -/
structure PeerId where
  unitId : Word
  port : Nat
  sub : Nat
  half : Bool := false
  deriving DecidableEq, Repr

/-- What an engine measures at one fibre (R515): return loss in 0.5 dB units, received power as two's complement. -/
structure FibreRead where
  rl : Nat
  power : BitVec 16 := 0
  deriving DecidableEq, Repr

end Sys2Proof.Machine
end

