-- ==== Sys2Proof/Machine/Assoc.lean ====
section
/-! DEFINITION. Sparse data by key: a list of (key, value) pairs whose keys rise strictly and in which no entry
holds the default value of an unlisted key. Every sparse store of State (memories, register words, counters,
per-unit records) is one of these. -/
namespace Sys2Proof.Machine

/-- A sparse store. -/
abbrev Assoc (α : Type) := List (Nat × α)

/-- The value listed under `k`, if any. -/
def find {α : Type} : Assoc α → Nat → Option α
  | [], _ => none
  | (j, v) :: m, k => if k = j then some v else find m k

/-- The value under `k`, or the default `d`. -/
def getD {α : Type} (m : Assoc α) (k : Nat) (d : α) : α := (find m k).getD d

/-- The store without key `k`. -/
def erase {α : Type} : Assoc α → Nat → Assoc α
  | [], _ => []
  | (j, v) :: m, k => if k = j then erase m k else (j, v) :: erase m k

/-- The store with `v` listed under `k`. -/
def insert {α : Type} : Assoc α → Nat → α → Assoc α
  | [], k, v => [(k, v)]
  | (j, w) :: m, k, v =>
    if k = j then (k, v) :: m else if k < j then (k, v) :: (j, w) :: m else (j, w) :: insert m k v

/-- Write `v` under `k` in a store whose unlisted keys hold `d`: writing `d` removes the entry. -/
def put {α : Type} [DecidableEq α] (m : Assoc α) (k : Nat) (v d : α) : Assoc α :=
  if v = d then erase m k else insert m k v

/-- The keys of a store rise strictly. -/
def sortedKeys {α : Type} : Assoc α → Bool
  | [] => true
  | [_] => true
  | (i, _) :: (j, w) :: m => decide (i < j) && sortedKeys ((j, w) :: m)

/-- The canonical form for default `d`: keys strictly rising, no entry equal to `d`. -/
def canon {α : Type} [DecidableEq α] (d : α) (m : Assoc α) : Bool :=
  sortedKeys m && m.all (fun e => decide (e.2 ≠ d))

/-- A byte memory: unlisted addresses read 0 (R364, R371, R461). -/
abbrev Memory := List Host.Cell

/-- The canonical form of a byte memory. -/
def Memory.wf (m : Memory) : Bool := canon (0 : Byte) m

/-- Read one byte. -/
def rdByte (m : Memory) (a : Nat) : Byte := getD m a 0

/-- Write one byte. -/
def wrByte (m : Memory) (a : Nat) (v : Byte) : Memory := put m a v 0

/-- Write bytes upwards from `a`. -/
def wrBytes (m : Memory) (a : Nat) : List Byte → Memory
  | [] => m
  | b :: bs => wrBytes (wrByte m a b) (a + 1) bs

/-- Read `n` bytes upwards from `a`. -/
def rdBytes (m : Memory) (a n : Nat) : List Byte := (List.range n).map (fun i => rdByte m (a + i))

end Sys2Proof.Machine
end

