-- ==== Sys2Proof/Machine/Wire.lean ====
section
/-! DEFINITION. What commands name and what travels between units: tiles, mesh packets (R80), events seen by a
checker. The bits of a packet that the model holds as fields of their own are named in log entry 9. -/
namespace Sys2Proof.Machine

/-- A physical tile: field and position within it (R12, R25). -/
structure TileId where
  fid : Fin 48
  pt : Fin 700
  deriving DecidableEq, Repr

/-- The number of a tile over the whole wafer. -/
def TileId.gid (t : TileId) : Nat := t.fid.val * 700 + t.pt.val

/-- A disturbance that a checker of the tile meets while an op runs (R54, R67). -/
inductive Upset where
  | none
  | parity
  | residue
  deriving DecidableEq, Repr

/-- What happens to a Brois link around RECOVER (R480): lock lost or no good flit for 1 µs; an attempt that ends with
the lanes that failed it; an attempt that fails. -/
inductive RecoverEvent where
  | enter
  | done (bad : BitVec 16)
  | fail
  deriving DecidableEq, Repr

/-- A sample of the power controller's sensors (R521): input voltage in mV; a blade's current in 0.1 A; a field rail in mV and
0.1 A; the four Tj sensors of a field as PWR_FLD_TJ shows them; a stack case in 0.1 °C; the coolant in 0.1 °C and 0.1 L/min. -/
inductive Telem where
  | input (vin : Nat)
  | blade (b : Fin 16) (current : Nat)
  | rail (f : Fin 48) (v i : Nat)
  | tj (f : Fin 48) (q : BitVec 64)
  | stack (c : Fin 4) (k : Fin 6) (t : BitVec 16)
  | coolant (inlet outlet : BitVec 16) (flow : Nat)
  deriving DecidableEq, Repr

/-- A crescent checker that failed its self-test at a cold start (R379): crescent, row of the table, bank, channel or adder. -/
structure CheckFail where
  cres : Fin 4
  row : Nat
  number : Nat
  deriving DecidableEq, Repr

/-- How stage A of a field ends (R448, R450): passed; converters tripped; no clock source; a checker of R379 failed (its row, and the
number of its bank, channel, buffer or engine); the pattern test failed. -/
inductive StageEnd where
  | pass
  | trip
  | noClock
  | checker (row number : Nat)
  | pattern
  deriving DecidableEq, Repr

/-- The five ports of a router (R78); the crescent link of a border tile is the port that faces the crescent (R27). -/
inductive Port where
  | n | e | s | w | local
  deriving DecidableEq, Repr

/-- Port number in the order of TIL_ERR.LINK_DOWN, then the local port. -/
def Port.num : Port → Nat
  | .n => 0 | .e => 1 | .s => 2 | .w => 3 | .local => 4

/-- The port across a link. -/
def Port.opposite : Port → Port
  | .n => .s | .e => .w | .s => .n | .w => .e | .local => .local

/-- A mesh packet: the header fields of R80, the page bits of R367, the payload, and what the model keeps beside
the header (log entry 9): the full logical address and length of a request, the amount of an increment, the poison
flag of a response, and whether an op of the sending tile's NET pipe sent it. -/
structure Packet where
  typ : Nat
  cls : Nat
  routed : Bool
  last : Bool := false
  stream : Nat := 0
  dx : Nat := 0
  dy : Nat := 0
  dcres : Bool := false
  dc : Nat := 0
  flits : Nat := 0
  sx : Nat := 0
  sy : Nat := 0
  addr : Nat := 0
  tag : Nat := 0
  page : Nat := 0
  payload : List Byte := []
  laddr : Nat := 0
  units : Nat := 0
  amount : W32 := 0
  poison : Bool := false
  own : Bool := false
  deriving DecidableEq, Repr

/-- Packet types of R80. -/
def tyStream : Nat := 1
def tyWrite : Nat := 2
def tyReadReq : Nat := 3
def tyReadResp : Nat := 4
def tyIncr : Nat := 5
def tyPennant : Nat := 6

/-- A packet on a link: the router it comes from (none: a crescent), flits received so far, and failed attempts of the next
flit (R84). -/
structure Wired where
  pkt : Packet
  src : Option Nat := none
  got : Nat := 0
  tries : Nat := 0
  deriving DecidableEq, Repr

/-- A packet at a router input: its flits that have arrived, and for each output that its header has taken the flits sent there
(R79); outputs 0 to 4 are ports by their number, 5 discards (R568). -/
structure InPkt where
  pkt : Packet
  arr : Nat
  outs : List (Nat × Nat) := []
  deriving DecidableEq, Repr

/-- A packet on its way out of the local port into the tile: the input it comes from and the flits that have arrived. -/
structure LocalPkt where
  pkt : Packet
  src : Nat
  arr : Nat
  deriving DecidableEq, Repr

end Sys2Proof.Machine
end

