-- ==== Sys2Proof/Syntax.lean ====
section
/-! DEFINITION. The commands: one constructor for each row of the table of operations and events, in its order. A command
is an event of the block together with what the outside decides about it; DESIGN CHOICES of operands: log entry 8. -/
namespace Sys2Proof
open Sys2Proof.Machine

/-- The commands of the block. Each docstring is the row's mnemonic and governing rule. -/
inductive Instr where
  /-- NOP (R75). -/
  | nop (t : TileId) (w : Word)
  /-- LDI (R55). -/
  | ldi (t : TileId) (w : Word)
  /-- ADDI (R55). -/
  | addi (t : TileId) (w : Word)
  /-- MOV (R75). -/
  | mov (t : TileId) (w : Word)
  /-- FILL (R75). -/
  | fill (t : TileId) (w : Word)
  /-- CVT (R102). -/
  | cvt (t : TileId) (w : Word)
  /-- MM (R64). -/
  | mm (t : TileId) (w : Word) (x : Upset)
  /-- DRAIN (R68). -/
  | drain (t : TileId) (w : Word)
  /-- DRAINR (R186). -/
  | drainr (t : TileId) (w : Word)
  /-- DRAINT (R191). -/
  | draint (t : TileId) (w : Word)
  /-- ACCLD (R100). -/
  | accld (t : TileId) (w : Word)
  /-- ACCST (R100). -/
  | accst (t : TileId) (w : Word)
  /-- VBIN (R109). -/
  | vbin (t : TileId) (w : Word)
  /-- VFMA (R109). -/
  | vfma (t : TileId) (w : Word)
  /-- VFN (R110). -/
  | vfn (t : TileId) (w : Word)
  /-- VRED (R69). -/
  | vred (t : TileId) (w : Word)
  /-- VSCAN (R109). -/
  | vscan (t : TileId) (w : Word)
  /-- VQUANT (R287). -/
  | vquant (t : TileId) (w : Word)
  /-- SPMM (R207). -/
  | spmm (t : TileId) (w : Word) (x : Upset)
  /-- BMAP (R205). -/
  | bmap (t : TileId) (w : Word)
  /-- BPRED (R206). -/
  | bpred (t : TileId) (w : Word)
  /-- COMPACT (R221). -/
  | compact (t : TileId) (w : Word)
  /-- EXPAND (R222). -/
  | expand (t : TileId) (w : Word)
  /-- FEED (R57). -/
  | feed (t : TileId) (w : Word)
  /-- SEND (R116). -/
  | send (t : TileId) (w : Word)
  /-- RECV (R118). -/
  | recv (t : TileId) (w : Word)
  /-- TSWAP (R52). -/
  | tswap (t : TileId) (w : Word)
  /-- TREL (R130). -/
  | trel (t : TileId) (w : Word)
  /-- RGET (R265). -/
  | rget (t : TileId) (w : Word)
  /-- RPUT (R265). -/
  | rput (t : TileId) (w : Word)
  /-- FENCE (R59). -/
  | fence (t : TileId) (w : Word)
  /-- EVSIG (R76). -/
  | evsig (t : TileId) (w : Word)
  /-- EVWAIT (R75). -/
  | evwait (t : TileId) (w : Word)
  /-- LOOP (R75). -/
  | loop (t : TileId) (w : Word)
  /-- HOIST (R246). -/
  | hoist (t : TileId) (w : Word)
  /-- HALT (R75). -/
  | halt (t : TileId) (w : Word)
  /-- RINIT (R340). -/
  | rinit (t : TileId) (w : Word)
  /-- RBITS (R343). -/
  | rbits (t : TileId) (w : Word)
  /-- RUNIF (R345). -/
  | runif (t : TileId) (w : Word)
  /-- RSR (R343). -/
  | rsr (t : TileId) (w : Word)
  /-- STOPK (R351). -/
  | stopk (t : TileId) (w : Word)
  /-- SPUT (R352). -/
  | sput (t : TileId) (w : Word)
  /-- SGET (R356). -/
  | sget (t : TileId) (w : Word)
  /-- HANG_TIMER_EXPIRY (R62). -/
  | hangTimerExpiry (t : TileId)
  /-- FLIT_RECEIVE (R84); `p` local names the crescent's end of the tile's border link (log entry 142). -/
  | flitReceive (t : TileId) (p : Port) (vc : Fin 4) (crcOk : Bool)
  /-- STATIC_ROUTE_FORWARD (R82). -/
  | staticRouteForward (t : TileId) (p : Port) (vc : Fin 4)
  /-- COORDINATE_ROUTE_FORWARD (R81). -/
  | coordinateRouteForward (t : TileId) (p : Port) (vc : Fin 4)
  /-- STREAM_PACKET_ACCEPT (R117). -/
  | streamPacketAccept (t : TileId) (k : Nat)
  /-- RECV_TIMEOUT (R123). -/
  | recvTimeout (t : TileId)
  /-- TSWAP_TIMEOUT (R131). -/
  | tswapTimeout (t : TileId)
  /-- HOIST_TIMEOUT (R247). -/
  | hoistTimeout (t : TileId)
  /-- POUR_PACKET_LAND (R130). -/
  | pourPacketLand (t : TileId) (k : Nat)
  /-- EVENT_INCREMENT_TILE (R76). -/
  | eventIncrementTile (t : TileId) (k : Nat)
  /-- REMOTE_READ_REQUEST (R265). -/
  | remoteReadRequest (t : TileId) (k : Nat)
  /-- REMOTE_WRITE_REQUEST (R265). -/
  | remoteWriteRequest (t : TileId) (k : Nat)
  /-- READ_RESPONSE_RECEIVE (R171). -/
  | readResponseReceive (t : TileId) (k : Nat)
  /-- POISON_NOTICE (R367). -/
  | poisonNotice (k : Nat)
  /-- FENCE_PACKET (R384). -/
  | fencePacket (t : TileId)
  /-- TIL_CTRL_RUN (R63). -/
  | tilCtrlRun (t : TileId) (v : Bool)
  /-- TIL_CTRL_QUIESCE (R61). -/
  | tilCtrlQuiesce (t : TileId) (v : Bool)
  /-- QUIESCE_COMPLETE (R61). -/
  | quiesceComplete (t : TileId)
  /-- TIL_CTRL_RESET (R461). -/
  | tilCtrlReset (t : TileId)
  /-- TIL_RESEND (R122). -/
  | tilResend (t : TileId) (v : Word)
  /-- REGISTER_WRITE (R15). -/
  | registerWrite (a : BitVec 48) (v : Word)
  /-- UNDECODED_ACCESS (R18). -/
  | undecodedAccess (a : BitVec 48) (wr : Bool) (link : Fin 2)
  /-- GLB_CQ_TAIL_WRITE (R147). -/
  | glbCqTailWrite (n : Fin 64) (v : W32)
  /-- GLB_CQ_CHEAD_WRITE (R154). -/
  | glbCqCheadWrite (n : Fin 64) (v : W32)
  /-- RESTART (R164). -/
  | cqRestart (n : Fin 64)
  /-- GLB_EVC_ADD (R167). -/
  | glbEvcAdd (n : Fin 65536) (v : W32)
  /-- GLB_EVR_HEAD_WRITE (R178). -/
  | glbEvrHeadWrite (v : W32)
  /-- COMMAND_FETCH (R153). -/
  | commandFetch (n : Fin 64)
  /-- COMMAND_START (R151). -/
  | commandStart (n : Fin 64)
  /-- WAIT_TIMEOUT (R163). -/
  | waitTimeout (n : Fin 64)
  /-- NOP_COMMAND (R156). -/
  | nopCommand (n : Fin 64) (ix : W32)
  /-- EVADD (R157). -/
  | evadd (n : Fin 64) (ix : W32)
  /-- RUN (R158). -/
  | cmdRun (n : Fin 64) (ix : W32)
  /-- REQUEST (R174). -/
  | cmdRequest (n : Fin 64) (ix : W32)
  /-- REQUEST_ADMISSION (R175). -/
  | requestAdmission (n : Fin 64)
  /-- POUR (R128). -/
  | cmdPour (n : Fin 64) (ix : W32)
  /-- DESCRIPTOR_READ (R128). -/
  | descriptorRead (c : Fin 4) (k : Nat)
  /-- POUR_START (R128). -/
  | pourStart (c : Fin 4) (k : Nat)
  /-- CHUNK_ISSUE (R125). -/
  | chunkIssue (c : Fin 4) (k : Nat)
  /-- POUR_COMPLETE (R127). -/
  | pourComplete (c : Fin 4) (k : Nat)
  /-- DEADLINE_MISS (R134). -/
  | deadlineMiss (c : Fin 4) (k : Nat)
  /-- STK_POUR_STOP_GO (R138). -/
  | stkPourStopGo (c : Fin 4) (desc : LAddr)
  /-- GLB_MARK_CLEAR (R251). -/
  | glbMarkClear (k : Fin 16)
  /-- EVENT_INCREMENT_RECEIVE (R169). -/
  | eventIncrementReceive (k : Nat)
  /-- EVENT_RECORD_RECEIVE (R178). -/
  | eventRecordReceive (k : Nat)
  /-- MIGRATE (R270). -/
  | migrate (n : Fin 64) (ix : W32)
  /-- FETCH (R271). -/
  | migFetch (n : Fin 64) (ix : W32)
  /-- EVICT (R271). -/
  | migEvict (n : Fin 64) (ix : W32)
  /-- MOVE_HOME (R271). -/
  | moveHome (n : Fin 64) (ix : W32)
  /-- REPLICATE (R271). -/
  | replicate (n : Fin 64) (ix : W32)
  /-- DROP_REPL (R271). -/
  | dropRepl (n : Fin 64) (ix : W32)
  /-- ASSIGN (R271). -/
  | migAssign (n : Fin 64) (ix : W32)
  /-- UNMAP (R271). -/
  | unmap (n : Fin 64) (ix : W32)
  /-- WRITEBACK (R276). -/
  | writeback (n : Fin 64) (ix : W32)
  /-- PAGE_COPY_SWITCH (R273). -/
  | pageCopySwitch (n : Fin 64) (ix : W32)
  /-- ENTRY_CHANGE (R259). -/
  | entryChange (k : Nat)
  /-- ENTRY_INVALIDATION (R259). -/
  | entryInvalidation (k : Nat) (u : Fin 5)
  /-- GLB_PT_INDEX_WRITE (R261). -/
  | glbPtIndexWrite (v : BitVec 24)
  /-- PT_SNAPSHOT (R261). -/
  | ptSnapshot
  /-- SATURATION_WINDOW_END (R279). -/
  | saturationWindowEnd (c : Fin 4) (tier : Fin 3)
  /-- ADDER_COMBINE (R295). -/
  | adderCombine (a : Nat)
  /-- ADDER_BLOCK_RECEIVE (R294). -/
  | adderBlockReceive (a : Nat) (k : Nat)
  /-- REDUCE_SCATTER (R319). -/
  | reduceScatter (n : Fin 64) (ix : W32)
  /-- ALL_GATHER (R322). -/
  | allGather (n : Fin 64) (ix : W32)
  /-- BROADCAST (R322). -/
  | broadcast (n : Fin 64) (ix : W32)
  /-- DATA (R327). -/
  | pennantData (k : Nat)
  /-- ACK (R322). -/
  | pennantAck (k : Nat)
  /-- QUERY (R326). -/
  | pennantQuery (k : Nat)
  /-- STATE (R326). -/
  | pennantState (k : Nat)
  /-- JOIN (R331). -/
  | pennantJoin (k : Nat)
  /-- REFORM_REQ (R330). -/
  | reformReq (k : Nat)
  /-- REFORM (R331). -/
  | reform (k : Nat)
  /-- ABORT (R328). -/
  | pennantAbort (k : Nat)
  /-- DONE (R324). -/
  | pennantDone (k : Nat)
  /-- FINISH (R324). -/
  | pennantFinish (k : Nat)
  /-- QUERY_TIMER_EXPIRY (R326). -/
  | queryTimerExpiry (k : Nat)
  /-- COLLECTIVE_TIMEOUT (R326). -/
  | collectiveTimeout (k : Nat)
  /-- HOP_TIMEOUT (R323). -/
  | hopTimeout (k : Nat)
  /-- GROUP_TIMEOUT (R326). -/
  | groupTimeout (k : Nat)
  /-- SETTLE_TIME_EXPIRY (R330). -/
  | settleTimeExpiry (k : Nat)
  /-- REFORM_REQ_TIMEOUT (R330). -/
  | reformReqTimeout (k : Nat)
  /-- ABORT_ENTRY_EXPIRY (R328). -/
  | abortEntryExpiry (k : Nat)
  /-- SAMPLE_HEADER_RECEIVE (R353). -/
  | sampleHeaderReceive (f : Fin 48) (k : Nat)
  /-- SAMPLE_RESULT_RECEIVE (R356). -/
  | sampleResultReceive (t : TileId) (k : Nat)
  /-- SESSION_TIMEOUT (R357). -/
  | sessionTimeout (f : Fin 48) (ses : Fin 8)
  /-- SGET_TIMEOUT (R357). -/
  | sgetTimeout (t : TileId)
  /-- TILE_FETTLER_LINE (R374). -/
  | tileFettlerLine (t : TileId) (line : Fin 16384) (hard : Bool)
  /-- STACK_FETTLER_GRANULE (R375). -/
  | stackFettlerGranule (c : Fin 4) (ch : Fin 192) (slot : Fin 1048576) (g : Fin 64) (hard : Bool)
  /-- STACK_READ (R372). -/
  | stackRead (c : Fin 4) (ch : Fin 192) (slot : Fin 1048576) (g : Fin 64) (hard : Bool)
  /-- REPAIR_LIST_APPEND (R378). -/
  | repairListAppend
  /-- INCIDENT_HANDOFF (R388). -/
  | incidentHandoff
  /-- AUTOMATIC_RECOVERY (R389). -/
  | automaticRecovery (ok : Bool)
  /-- RETEST_COMPLETE (R389). -/
  | retestComplete (pass : Bool)
  /-- COLUMN_RETIRE (R390). -/
  | columnRetire (ok : Bool)
  /-- INCIDENT_CLOSE (R392). -/
  | incidentClose
  /-- CLOSE (R401). -/
  | recClose
  /-- CTX_SAVE (R393). -/
  | ctxSave (n : Fin 64) (ix : W32) (ok : Bool)
  /-- CTX_RESTORE (R394). -/
  | ctxRestore (n : Fin 64) (ix : W32)
  /-- FIELD_LOSS (R399). -/
  | fieldLoss (f : Fin 48) (cause : Fin 8)
  /-- CLOCK_SOURCE_LOST (R400). -/
  | clockSourceLost (f : Fin 48)
  /-- BROIS_BOTH_LOST (R409). -/
  | broisBothLost
  /-- CFG_STAGE_GO (R425). -/
  | cfgStageGo (v : Word)
  /-- CFG_STAGE_ABORT (R425). -/
  | cfgStageAbort
  /-- STAGING_COMPLETE (R425). -/
  | stagingComplete
  /-- CFG_ADOPT (R429). -/
  | cfgAdopt (d : Fin 64)
  /-- COMMIT (R438). -/
  | cfgCommit (d : Fin 54) (v : Word)
  /-- PATCH (R430). -/
  | patch (n : Fin 64) (ix : W32)
  /-- LOAD (R431). -/
  | imgLoad (n : Fin 64) (ix : W32)
  /-- APPLY (R432). -/
  | imgApply (n : Fin 64) (ix : W32)
  /-- UNLOAD (R436). -/
  | imgUnload (n : Fin 64) (ix : W32)
  /-- INPUT_QUALIFIED (R446). -/
  | inputQualified
  /-- COLD_START (R447). -/
  | coldStart (bad : List CheckFail)
  /-- STAGE_A (R450). -/
  | stageA (f : Fin 48) (e : StageEnd)
  /-- STAGE_B (R451). -/
  | stageB (f : Fin 48) (pass : Bool)
  /-- ARM (R455). -/
  | resetArm
  /-- WARM (R456). -/
  | resetWarm
  /-- COLD (R455). -/
  | resetCold
  /-- FLD_RESET_GO (R458). -/
  | fldResetGo (f : Fin 48)
  /-- GLB_TRESET_GO (R460). -/
  | glbTresetGo (v : Word)
  /-- PRT_PORT_RESET_GO (R463). -/
  | prtPortResetGo (v : Word)
  /-- WIN_RD (R478). -/
  | winRd (link : Fin 2) (a : BitVec 52) (tag : Fin 4096) (form : Bool)
  /-- WIN_WR (R478). -/
  | winWr (link : Fin 2) (a : BitVec 52) (v : Word) (tag : Fin 4096) (form : Bool) (resend : Bool)
  /-- MEM_RDATA (R479). -/
  | memRdata (k : Nat) (rstat : Nat) (data : List Byte)
  /-- MEM_ACK (R478). -/
  | memAck (k : Nat) (rstat : Nat)
  /-- BROIS_FLIT_RECEIVE (R472). -/
  | broisFlitReceive (link : Fin 2) (h : W32) (fixed : Bool) (crcOk : Bool)
  /-- BROIS_REPLAY_TIMEOUT (R472). -/
  | broisReplayTimeout (link : Fin 2)
  /-- RETRAIN (R480). -/
  | broisRetrain (link : Fin 2)
  /-- RECOVER (R480). -/
  | broisRecover (link : Fin 2) (ev : RecoverEvent)
  /-- BROIS_LINK_LOSS (R481). -/
  | broisLinkLoss (link : Fin 2)
  /-- BROIS_TRAINING (R468). -/
  | broisTraining (link : Fin 2) (bad : BitVec 16) (ok : Bool)
  /-- EDGE_PORT_TRAINING (R485). -/
  | edgePortTraining (p : Fin 32) (e : TrainEnd)
  /-- EDGE_PORT_DOWN (R487). -/
  | edgePortDown (p : Fin 32) (n : Nat) (lock : Bool)
  /-- WRITE (R494). -/
  | cstWrite (p : Fin 32) (k : CstPkt)
  /-- READ_REQ (R494). -/
  | readReq (p : Fin 32) (k : CstPkt)
  /-- READ_RESP (R498). -/
  | readResp (p : Fin 32) (k : CstPkt)
  /-- CST_ACK (R495). -/
  | cstAck (p : Fin 32) (k : CstPkt)
  /-- NAK (R497). -/
  | nak (p : Fin 32) (k : CstPkt)
  /-- CNP (R492). -/
  | cnp (p : Fin 32) (k : CstPkt)
  /-- COLL (R505). -/
  | coll (p : Fin 32) (k : CstPkt)
  /-- RTO_EXPIRY (R495). -/
  | rtoExpiry (k : Nat)
  /-- ACK_TIMER_EXPIRY (R495). -/
  | ackTimerExpiry (k : Nat)
  /-- RATE_RAISE (R492). -/
  | rateRaise (k : Nat)
  /-- OPEN (R499). -/
  | connOpen (v : Word)
  /-- CLOSE_CONNECTION (R499). -/
  | connClose (v : Word)
  /-- INVAL (R503). -/
  | inval
  /-- ROCE_RESPONSE (R500). -/
  | roceResponse (p : Fin 32) (k : RocePkt)
  /-- ROCE_INBOUND_REQUEST (R500). -/
  | roceInboundRequest (p : Fin 32) (k : RocePkt)
  /-- SURFACE_PACKET_RECEIVE (R508). -/
  | surfacePacketReceive (f : Fin 48) (k : Fin 8) (x : SurfPkt)
  /-- RX_INJECT (R510). -/
  | rxInject (f : Fin 48) (j : Fin 16)
  /-- SUBLINK_TRAINING (R507). -/
  | sublinkTraining (f : Fin 48) (k : Fin 8) (e : TrainEnd) (x : PeerId)
  /-- SUBLINK_LOSS (R512). -/
  | sublinkLoss (f : Fin 48) (k : Fin 8)
  /-- RETURN_LOSS_MEASURE (R515). -/
  | returnLossMeasure (f : Fin 48) (m : List FibreRead)
  /-- NOW (R515). -/
  | optNow (f : Fin 48) (m : List FibreRead)
  /-- TELEMETRY_SAMPLE (R521). -/
  | telemetrySample (x : Telem)
  /-- SUPPLY_STAGE_CHANGE (R523). -/
  | supplyStageChange
  /-- HEAT_RESTORE (R525). -/
  | heatRestore (f : Fin 48)
  /-- COOLANT_LIMIT (R528). -/
  | coolantLimit
  /-- LAST_BREATH (R529). -/
  | lastBreath (ok : Bool)
  /-- GAUGE_SWEEP (R530). -/
  | gaugeSweep (f : Fin 48) (m : List Nat)
  /-- PLAN (R531). -/
  | fieldPlan (f : Fin 48)
  /-- FIRST_PLAN (R533). -/
  | firstPlan (f : Fin 48)
  /-- LEDGER_SNAPSHOT (R535). -/
  | ledgerSnapshot (ok : Bool)
  /-- LIF_SNAP_NOW (R535). -/
  | lifSnapNow
  /-- LIF_CALENDAR_WRITE (R540). -/
  | lifCalendarWrite (v : Word)
  /-- THERMAL_BAND_COUNT (R537). -/
  | thermalBandCount (f : Fin 48)
  /-- REF_A_FAILURE (R40). -/
  | refAFailure
  /-- CRESCENT_OR_PORT_COMPLEX_FAILURE (R386). -/
  | crescentOrPortComplexFailure (u : Fin 5)
  /-- PFC_FRAME_RECEIVE (R491). -/
  | pfcFrameReceive (p : Fin 32) (on : BitVec 8) (off : BitVec 8)
  /-- ARP_REQUEST (R489). -/
  | arpRequest (p : Fin 32) (v6 : Bool) (a : BitVec 128)
  /-- ROCE_ACK_TIMEOUT (R500). -/
  | roceAckTimeout (k : Nat)
  deriving DecidableEq, Repr

end Sys2Proof
end

