-- ==== Sys2Proof/Decode.lean ====
section
/-! DEFINITION. The table of operations and events gives no row any bits: a row is an event of the block, not a word. No
word spells a command. -/
namespace Sys2Proof

/-- The command that a word of the table's bits spells: the table gives bits to no row, so none. -/
def decodeTableWord (_nbits _w : Nat) : Option Instr := none

end Sys2Proof
end

