-- ==== Sys2Proof/Config.lean ====
section
/-! DEFINITION. What a particular module fixes and the spec leaves open: fused values and free values.
An opaque constant has no body: no proof can see its value. -/
namespace Sys2Proof.Config

/-- The fused unit identity before the guarantee of R417 that no unit carries 0 (log entry 4). -/
opaque fusedUnit : BitVec 64
/-- CFG_UNIT_ID (15_images.md): fused and never 0. -/
def unitId : BitVec 64 := if fusedUnit = 0 then 1 else fusedUnit
/-- CFG_ROOT_w: the fused SHA-256 of the root public key (R421), word w (log entry 4). -/
opaque rootHash : Nat → BitVec 64
/-- PRT_MAC.BASE: the fused MAC address of edge port 0 (18_ports.md; log entry 4). -/
opaque macBase : BitVec 48
/-- The fused factory voltage of a field in mV (R533; log entry 4). -/
opaque factoryVoltage : Nat → Nat
/-- How far, in units in the last place, the trim unit's result of function code `f` lies from the exactly
rounded one for an operand pattern (R110, R112). The model clips it to the bound of R110, so every value within
the bound is allowed and none is chosen (log entry 5). -/
opaque trimOffset : Nat → BitVec 32 → Int
/-- As `trimOffset`, for a derivative form applied to an accumulator and a saved operand (R192, R193). -/
opaque derivOffset : Nat → BitVec 32 → BitVec 32 → Int
/-- The n-th free value of 64 bits: used where the spec states no value and the machine goes on (log entry 6). -/
opaque freeValue : Nat → BitVec 64

/-- What the active frame slot of the flash holds at delivery (log entry 33). -/
opaque factoryFrame : List (BitVec 8)
/-- The tile that the frame image names as gauge `g` of a field (R530; log entry 34). -/
opaque gaugeTile : Nat → Nat → Nat

end Sys2Proof.Config
end

