-- ==== Sys2Proof/Machine/RegMap.lean ====
section
/-! DEFINITION. The register map of the configuration window (R542, and the register tables of every chapter):
for each register its region, offset, instances and fields with access code (R15) and reset value. -/
namespace Sys2Proof.Machine

/-- Access codes of R15. -/
inductive Access where | RO | RW | W1C | WO | RWS | RWC
  deriving DecidableEq, Repr

/-- Regions of the configuration window (R19, R542). -/
inductive Region where | glb | fld | til | stk | prt | cfg
  deriving DecidableEq, Repr

/-- One field of a register: lowest bit, width, access code, reset value. -/
structure FieldRow where
  lo : Nat
  w : Nat
  acc : Access
  reset : Nat
  deriving DecidableEq, Repr

/-- One row of the register map. Instance `i` lies at `base + (i / c1) * s1 + (i % c1) * s0` of its region. -/
structure RegRow where
  region : Region
  base : Nat
  count : Nat
  s0 : Nat
  c1 : Nat
  s1 : Nat
  fields : List FieldRow
  deriving DecidableEq, Repr

/-- The registers of the module, one name per row of the map. -/
inductive RegName where
  | TIL_CTRL | TIL_STATUS | TIL_PROG | TIL_LOGXY | TIL_HANG | TIL_ERR | TIL_ROUTE | TIL_FLAGS 
  | FLD_STREAM_TMO | TIL_TUNDISH | TIL_RXWAIT | TIL_RESEND | STK_POUR_STAT | STK_POUR_STOP | GLB_CQ_BASE 
  | GLB_CQ_CBASE | GLB_CQ_CFG | GLB_CQ_TAIL | GLB_CQ_STAT | GLB_CQ_PACE | GLB_CQ_ENTRY | GLB_CQ_CTRL 
  | GLB_CQ_CHEAD | GLB_EVR_BASE | GLB_EVR_CFG | GLB_EVR_HEAD | GLB_EVR_TAIL | GLB_EVR_LOST | GLB_IRQ_ADDR 
  | GLB_IRQ_DATA | GLB_EVC | TIL_RIDDLE | TIL_HOIST | GLB_MARK | GLB_PT_INDEX | GLB_PT_ENTRY | GLB_T1_SPLIT 
  | GLB_QUOTA_CTX | GLB_QUOTA | PRT_FAR_BASE | PRT_FAR_ATTR | STK_PC_STAT | STK_SAT_CFG | STK_TIER 
  | STK_REDIRECTS | PRT_RED_CFG | PRT_RED_STAT | PRT_RED_ERR | FLD_RED_ERR | COL_TMO | COL_GROUP_TMO 
  | COL_ERR | COL_CHAN | SMP_CFG | SMP_STAT | SMP_ERR | TIL_SAMPLE | FLD_FETTLE | TIL_MEM_ERR | TIL_MEM_LAST 
  | TIL_REMAP | TIL_MEM_INJ | STK_FETTLE | STK_INJ | STK_CH_ERR | GLB_REC_CFG | GLB_REC_SAVE | GLB_REC_STAT 
  | GLB_REC_CTRL | FLD_STATE | FLD_CLK | TIL_REC | CFG_TYPE | CFG_UNIT_ID | CFG_ROOT | CFG_STAGE_SRC 
  | CFG_STAGE_CTRL | CFG_STAGE_STAT | CFG_ADOPT | CFG_COMMIT | CFG_GEN | CFG_EPOCH | CFG_MI_STAT 
  | CFG_MI_FAMILY | CFG_MI_LAYOUT | GLB_RESET | GLB_START_STAT | GLB_FLD_SLOW | GLB_FLD_FULL | GLB_TRESET 
  | FLD_RESET | PRT_PORT_RESET | BRL_CTRL | BRL_STAT | BRL_ERR | BRL_HOSTERR | PRT_EPORT_CFG | PRT_EPORT_STAT 
  | PRT_MAC | PRT_ADDR4 | PRT_ADDR6 | PRT_NET_CFG | PRT_CST_CFG | PRT_CONN_BASE | PRT_RET_BASE 
  | PRT_CONN_CTRL | PRT_RET_CTRL | OPT_BIND | OPT_SUB | OPT_PEER | OPT_RL_CFG | OPT_RL | OPT_ERR | PWR_IN 
  | PWR_CFG | PWR_COOL | PWR_BLADE | PWR_FLD_RAIL | PWR_FLD_TJ | PWR_FLD_PLAN | PWR_FLD_T0 | PWR_GAUGE 
  | LIF_CALENDAR | LIF_CAL_TICK | LIF_STAT | LIF_SNAP | LIF_LB | GLB_ELOG_SUPP | FLD_ELOG_SUPP 
  | STK_ELOG_SUPP | PRT_ELOG_SUPP | CFG_ELOG_SUPP | GLB_ELOG_UNDEC | GLB_ELOG_ADDR | FLD_ELOG_DISC 
  | STK_ELOG_DISC | PRT_ELOG_DISC
  deriving DecidableEq, Repr

/-- Each register as its chapter gives it. -/
def regRow : RegName → RegRow
  | .TIL_CTRL => ⟨.til, 0x0, 1, 8, 1, 0,
      [⟨0, 1, .RW, 0⟩, ⟨1, 1, .RW, 0⟩, ⟨2, 1, .WO, 0⟩]⟩
  | .TIL_STATUS => ⟨.til, 0x8, 1, 8, 1, 0,
      [⟨0, 1, .RO, 0⟩, ⟨1, 1, .RO, 0⟩, ⟨2, 1, .RO, 0⟩, ⟨3, 1, .RO, 0⟩, ⟨4, 4, .RO, 0⟩, ⟨8, 8, .RO, 0⟩, ⟨16, 20, .RO, 0⟩]⟩
  | .TIL_PROG => ⟨.til, 0x10, 1, 8, 1, 0,
      [⟨0, 20, .RWC, 0⟩]⟩
  | .TIL_LOGXY => ⟨.til, 0x18, 1, 8, 1, 0,
      [⟨0, 8, .RWC, 0⟩, ⟨8, 8, .RWC, 0⟩, ⟨16, 1, .RWC, 0⟩]⟩
  | .TIL_HANG => ⟨.til, 0x20, 1, 8, 1, 0,
      [⟨0, 16, .RW, 0x3b6⟩]⟩
  | .TIL_ERR => ⟨.til, 0x28, 1, 8, 1, 0,
      [⟨0, 1, .W1C, 0⟩, ⟨1, 1, .W1C, 0⟩, ⟨2, 1, .W1C, 0⟩, ⟨3, 1, .W1C, 0⟩, ⟨4, 1, .W1C, 0⟩, ⟨5, 1, .W1C, 0⟩, ⟨6, 1, .W1C, 0⟩, ⟨7, 4, .W1C, 0⟩, ⟨11, 1, .W1C, 0⟩]⟩
  | .TIL_ROUTE => ⟨.til, 0x1000, 256, 8, 256, 0,
      [⟨0, 1, .RWC, 0⟩, ⟨1, 5, .RWC, 0⟩, ⟨6, 2, .RWC, 0⟩]⟩
  | .TIL_FLAGS => ⟨.til, 0x30, 1, 8, 1, 0,
      [⟨0, 1, .W1C, 0⟩, ⟨1, 1, .W1C, 0⟩, ⟨2, 1, .W1C, 0⟩, ⟨3, 1, .W1C, 0⟩]⟩
  | .FLD_STREAM_TMO => ⟨.fld, 0x400, 1, 8, 1, 0,
      [⟨0, 32, .RW, 0x4e20⟩, ⟨32, 32, .RW, 0xf4240⟩]⟩
  | .TIL_TUNDISH => ⟨.til, 0x38, 1, 8, 1, 0,
      [⟨0, 3, .RO, 6⟩, ⟨3, 3, .RO, 0⟩, ⟨6, 1, .RO, 0⟩, ⟨7, 1, .W1C, 0⟩, ⟨8, 16, .RO, 0⟩]⟩
  | .TIL_RXWAIT => ⟨.til, 0x40, 1, 8, 1, 0,
      [⟨0, 8, .RO, 0⟩, ⟨8, 1, .RO, 0⟩, ⟨16, 16, .RO, 0⟩, ⟨32, 16, .RO, 0⟩]⟩
  | .TIL_RESEND => ⟨.til, 0x48, 1, 8, 1, 0,
      [⟨0, 8, .WO, 0⟩, ⟨16, 16, .WO, 0⟩]⟩
  | .STK_POUR_STAT => ⟨.stk, 0x2000, 1, 8, 1, 0,
      [⟨0, 9, .RO, 0⟩, ⟨32, 32, .W1C, 0⟩]⟩
  | .STK_POUR_STOP => ⟨.stk, 0x2038, 1, 8, 1, 0,
      [⟨0, 42, .RW, 0⟩, ⟨42, 1, .WO, 0⟩, ⟨43, 1, .RO, 0⟩, ⟨44, 1, .W1C, 0⟩]⟩
  | .GLB_CQ_BASE => ⟨.glb, 0x10000, 64, 64, 64, 0,
      [⟨0, 52, .RWC, 0⟩]⟩
  | .GLB_CQ_CBASE => ⟨.glb, 0x10008, 64, 64, 64, 0,
      [⟨0, 52, .RWC, 0⟩]⟩
  | .GLB_CQ_CFG => ⟨.glb, 0x10010, 64, 64, 64, 0,
      [⟨0, 17, .RWC, 0⟩, ⟨32, 16, .RWC, 0⟩, ⟨48, 2, .RWC, 0⟩, ⟨50, 1, .RWC, 0⟩, ⟨51, 1, .RWC, 0⟩, ⟨52, 8, .RWC, 0⟩]⟩
  | .GLB_CQ_TAIL => ⟨.glb, 0x10018, 64, 64, 64, 0,
      [⟨0, 32, .RW, 0⟩]⟩
  | .GLB_CQ_STAT => ⟨.glb, 0x10020, 64, 64, 64, 0,
      [⟨0, 32, .RO, 0⟩, ⟨32, 9, .RO, 0⟩, ⟨41, 1, .RO, 0⟩, ⟨42, 1, .RO, 0⟩, ⟨43, 1, .W1C, 0⟩, ⟨44, 1, .W1C, 0⟩, ⟨45, 1, .W1C, 0⟩]⟩
  | .GLB_CQ_PACE => ⟨.glb, 0x10028, 64, 64, 64, 0,
      [⟨0, 32, .RWC, 0⟩, ⟨32, 16, .RWC, 0⟩]⟩
  | .GLB_CQ_ENTRY => ⟨.glb, 0x10030, 64, 64, 64, 0,
      [⟨0, 8, .RWC, 0⟩, ⟨8, 8, .RWC, 0⟩, ⟨16, 4, .RWC, 0⟩, ⟨20, 24, .RWC, 0⟩]⟩
  | .GLB_CQ_CTRL => ⟨.glb, 0x10038, 64, 64, 64, 0,
      [⟨0, 1, .WO, 0⟩, ⟨32, 32, .RW, 0x5f5e100⟩]⟩
  | .GLB_CQ_CHEAD => ⟨.glb, 0x11000, 64, 8, 64, 0,
      [⟨0, 32, .RW, 0⟩]⟩
  | .GLB_EVR_BASE => ⟨.glb, 0x20000, 1, 8, 1, 0,
      [⟨0, 52, .RWC, 0⟩]⟩
  | .GLB_EVR_CFG => ⟨.glb, 0x20008, 1, 8, 1, 0,
      [⟨0, 17, .RWC, 0⟩, ⟨17, 8, .RWC, 0⟩]⟩
  | .GLB_EVR_HEAD => ⟨.glb, 0x20010, 1, 8, 1, 0,
      [⟨0, 32, .RW, 0⟩]⟩
  | .GLB_EVR_TAIL => ⟨.glb, 0x20018, 1, 8, 1, 0,
      [⟨0, 32, .RO, 0⟩]⟩
  | .GLB_EVR_LOST => ⟨.glb, 0x20020, 1, 8, 1, 0,
      [⟨0, 32, .RO, 0⟩, ⟨32, 16, .RO, 0⟩]⟩
  | .GLB_IRQ_ADDR => ⟨.glb, 0x30000, 256, 16, 256, 0,
      [⟨0, 64, .RW, 0⟩]⟩
  | .GLB_IRQ_DATA => ⟨.glb, 0x30008, 256, 16, 256, 0,
      [⟨0, 32, .RW, 0⟩]⟩
  | .GLB_EVC => ⟨.glb, 0x100000, 65536, 8, 4096, 65536,
      [⟨0, 32, .RO, 0⟩, ⟨32, 32, .WO, 0⟩]⟩
  | .TIL_RIDDLE => ⟨.til, 0x50, 1, 8, 1, 0,
      [⟨0, 32, .W1C, 0⟩, ⟨32, 32, .W1C, 0⟩]⟩
  | .TIL_HOIST => ⟨.til, 0x58, 1, 8, 1, 0,
      [⟨0, 15, .RO, 0⟩]⟩
  | .GLB_MARK => ⟨.glb, 0x40000, 16, 8, 16, 0,
      [⟨0, 16, .RO, 0⟩, ⟨16, 16, .RO, 0⟩, ⟨32, 1, .W1C, 0⟩]⟩
  | .GLB_PT_INDEX => ⟨.glb, 0x60000, 1, 8, 1, 0,
      [⟨0, 24, .RW, 0⟩, ⟨24, 1, .RO, 0⟩]⟩
  | .GLB_PT_ENTRY => ⟨.glb, 0x60008, 4, 8, 4, 0,
      [⟨0, 64, .RO, 0⟩]⟩
  | .GLB_T1_SPLIT => ⟨.glb, 0x60030, 1, 8, 1, 0,
      [⟨0, 21, .RO, 0x40000⟩]⟩
  | .GLB_QUOTA_CTX => ⟨.glb, 0x50000, 256, 32, 256, 0,
      [⟨0, 16, .RWC, 0⟩, ⟨16, 1, .RWC, 0⟩]⟩
  | .GLB_QUOTA => ⟨.glb, 0x50008, 768, 8, 3, 32,
      [⟨0, 32, .RWC, 0⟩, ⟨32, 32, .RO, 0⟩]⟩
  | .PRT_FAR_BASE => ⟨.prt, 0x10000, 4096, 8, 4096, 0,
      [⟨0, 64, .RWC, 0⟩]⟩
  | .PRT_FAR_ATTR => ⟨.prt, 0x20000, 4096, 8, 4096, 0,
      [⟨0, 1, .RWC, 0⟩, ⟨1, 1, .RWC, 0⟩, ⟨16, 16, .RWC, 0⟩]⟩
  | .STK_PC_STAT => ⟨.stk, 0x2008, 1, 8, 1, 0,
      [⟨0, 32, .W1C, 0⟩, ⟨32, 32, .W1C, 0⟩]⟩
  | .STK_SAT_CFG => ⟨.stk, 0x2010, 1, 8, 1, 0,
      [⟨0, 32, .RW, 0x186a0⟩, ⟨32, 8, .RW, 0x40⟩, ⟨40, 8, .RW, 0xa⟩, ⟨48, 1, .RW, 1⟩, ⟨49, 15, .RW, 0x3e8⟩]⟩
  | .STK_TIER => ⟨.stk, 0x2018, 3, 8, 3, 0,
      [⟨0, 32, .RO, 0⟩, ⟨32, 8, .RO, 0⟩]⟩
  | .STK_REDIRECTS => ⟨.stk, 0x2030, 1, 8, 1, 0,
      [⟨0, 32, .W1C, 0⟩]⟩
  | .PRT_RED_CFG => ⟨.prt, 0x4000, 1, 8, 1, 0,
      [⟨0, 3, .RW, 1⟩]⟩
  | .PRT_RED_STAT => ⟨.prt, 0x4008, 1, 8, 1, 0,
      [⟨0, 32, .W1C, 0⟩, ⟨32, 16, .W1C, 0⟩, ⟨48, 16, .W1C, 0⟩]⟩
  | .PRT_RED_ERR => ⟨.prt, 0x4010, 1, 8, 1, 0,
      [⟨0, 16, .W1C, 0⟩, ⟨16, 16, .W1C, 0⟩, ⟨32, 16, .W1C, 0⟩]⟩
  | .FLD_RED_ERR => ⟨.fld, 0x410, 1, 8, 1, 0,
      [⟨0, 16, .W1C, 0⟩, ⟨16, 16, .W1C, 0⟩, ⟨32, 16, .W1C, 0⟩]⟩
  | .COL_TMO => ⟨.prt, 0x5000, 1, 8, 1, 0,
      [⟨0, 32, .RW, 0x4e20⟩, ⟨32, 32, .RW, 0x1388⟩]⟩
  | .COL_GROUP_TMO => ⟨.prt, 0x5008, 1, 8, 1, 0,
      [⟨0, 32, .RW, 0x23c34600⟩]⟩
  | .COL_ERR => ⟨.prt, 0x5010, 1, 8, 1, 0,
      [⟨0, 16, .W1C, 0⟩, ⟨16, 16, .W1C, 0⟩, ⟨32, 16, .W1C, 0⟩, ⟨48, 16, .W1C, 0⟩]⟩
  | .COL_CHAN => ⟨.prt, 0x5100, 16, 8, 16, 0,
      [⟨0, 1, .RO, 0⟩, ⟨1, 1, .RO, 0⟩, ⟨2, 2, .RO, 0⟩, ⟨16, 16, .RO, 0⟩, ⟨32, 32, .RO, 0⟩]⟩
  | .SMP_CFG => ⟨.fld, 0x800, 1, 8, 1, 0,
      [⟨0, 32, .RW, 0x2710⟩, ⟨32, 32, .RW, 0x186a0⟩]⟩
  | .SMP_STAT => ⟨.fld, 0x808, 1, 8, 1, 0,
      [⟨0, 8, .RO, 0⟩, ⟨32, 32, .W1C, 0⟩]⟩
  | .SMP_ERR => ⟨.fld, 0x810, 1, 8, 1, 0,
      [⟨0, 16, .W1C, 0⟩, ⟨16, 16, .W1C, 0⟩, ⟨32, 16, .W1C, 0⟩, ⟨48, 16, .W1C, 0⟩]⟩
  | .TIL_SAMPLE => ⟨.til, 0x60, 1, 8, 1, 0,
      [⟨0, 3, .RO, 0⟩, ⟨3, 1, .RO, 0⟩, ⟨4, 1, .RO, 0⟩, ⟨32, 32, .RO, 0⟩]⟩
  | .FLD_FETTLE => ⟨.fld, 0x420, 1, 8, 1, 0,
      [⟨0, 32, .RW, 0xf4240⟩]⟩
  | .TIL_MEM_ERR => ⟨.til, 0x68, 1, 8, 1, 0,
      [⟨0, 32, .W1C, 0⟩, ⟨32, 16, .W1C, 0⟩, ⟨48, 4, .RO, 0⟩, ⟨52, 1, .W1C, 0⟩, ⟨53, 1, .W1C, 0⟩]⟩
  | .TIL_MEM_LAST => ⟨.til, 0x70, 1, 8, 1, 0,
      [⟨0, 24, .RO, 0⟩, ⟨24, 7, .RO, 0⟩, ⟨31, 1, .RO, 0⟩, ⟨32, 1, .RO, 0⟩, ⟨33, 2, .RO, 0⟩]⟩
  | .TIL_REMAP => ⟨.til, 0x80, 8, 8, 8, 0,
      [⟨0, 4, .RO, 0⟩, ⟨4, 10, .RO, 0⟩, ⟨14, 1, .RO, 0⟩]⟩
  | .TIL_MEM_INJ => ⟨.til, 0xc0, 1, 8, 1, 0,
      [⟨0, 13, .RW, 0⟩, ⟨13, 6, .RW, 0⟩, ⟨19, 1, .RW, 0⟩, ⟨20, 14, .RW, 0⟩]⟩
  | .STK_FETTLE => ⟨.stk, 0x2040, 1, 8, 1, 0,
      [⟨0, 32, .RW, 0x15180⟩]⟩
  | .STK_INJ => ⟨.stk, 0x2048, 1, 8, 1, 0,
      [⟨0, 8, .RW, 0⟩, ⟨8, 20, .RW, 0⟩, ⟨28, 6, .RW, 0⟩, ⟨34, 3, .RW, 0⟩, ⟨37, 7, .RW, 0⟩, ⟨44, 7, .RW, 0x7f⟩, ⟨51, 1, .RW, 0⟩]⟩
  | .STK_CH_ERR => ⟨.stk, 0x3000, 192, 8, 192, 0,
      [⟨0, 32, .W1C, 0⟩, ⟨32, 16, .W1C, 0⟩, ⟨48, 5, .RO, 0⟩]⟩
  | .GLB_REC_CFG => ⟨.glb, 0x70000, 1, 8, 1, 0,
      [⟨0, 1, .RW, 1⟩, ⟨1, 1, .RW, 1⟩]⟩
  | .GLB_REC_SAVE => ⟨.glb, 0x70008, 1, 8, 1, 0,
      [⟨0, 42, .RW, 0⟩, ⟨42, 22, .RW, 0⟩]⟩
  | .GLB_REC_STAT => ⟨.glb, 0x70010, 1, 8, 1, 0,
      [⟨0, 1, .RO, 0⟩, ⟨1, 2, .RO, 0⟩, ⟨3, 6, .RO, 0⟩, ⟨9, 10, .RO, 0⟩, ⟨32, 32, .W1C, 0⟩]⟩
  | .GLB_REC_CTRL => ⟨.glb, 0x70018, 1, 8, 1, 0,
      [⟨0, 1, .WO, 0⟩]⟩
  | .FLD_STATE => ⟨.fld, 0x430, 1, 8, 1, 0,
      [⟨0, 1, .RO, 0⟩, ⟨1, 4, .RO, 0⟩, ⟨5, 5, .RO, 0x18⟩]⟩
  | .FLD_CLK => ⟨.fld, 0x438, 1, 8, 1, 0,
      [⟨0, 2, .RO, 0⟩, ⟨2, 1, .RO, 0⟩, ⟨3, 1, .RO, 0⟩, ⟨16, 16, .W1C, 0⟩]⟩
  | .TIL_REC => ⟨.til, 0xc8, 1, 8, 1, 0,
      [⟨0, 1, .RWS, 0⟩, ⟨8, 8, .RWS, 0⟩]⟩
  | .CFG_TYPE => ⟨.cfg, 0x0, 1, 8, 1, 0,
      [⟨0, 48, .RO, 0x542d38345743⟩, ⟨48, 8, .RO, 0xa1⟩]⟩
  | .CFG_UNIT_ID => ⟨.cfg, 0x8, 1, 8, 1, 0,
      [⟨0, 64, .RO, Config.unitId.toNat⟩]⟩
  | .CFG_ROOT => ⟨.cfg, 0x10, 4, 8, 4, 0,
      [⟨0, 64, .RO, 0⟩]⟩
  | .CFG_STAGE_SRC => ⟨.cfg, 0x100, 1, 8, 1, 0,
      [⟨0, 42, .RW, 0⟩]⟩
  | .CFG_STAGE_CTRL => ⟨.cfg, 0x108, 1, 8, 1, 0,
      [⟨0, 1, .WO, 0⟩, ⟨1, 1, .WO, 0⟩]⟩
  | .CFG_STAGE_STAT => ⟨.cfg, 0x110, 1, 8, 1, 0,
      [⟨0, 3, .RO, 0⟩, ⟨3, 1, .RO, 0⟩, ⟨16, 16, .RO, 0⟩, ⟨32, 32, .RO, 0⟩]⟩
  | .CFG_ADOPT => ⟨.cfg, 0x120, 1, 8, 1, 0,
      [⟨0, 6, .WO, 0⟩]⟩
  | .CFG_COMMIT => ⟨.cfg, 0x1000, 54, 8, 54, 0,
      [⟨0, 16, .WO, 0⟩]⟩
  | .CFG_GEN => ⟨.cfg, 0x1200, 54, 8, 54, 0,
      [⟨0, 16, .RO, 0⟩, ⟨16, 1, .W1C, 0⟩, ⟨17, 1, .RO, 0⟩, ⟨32, 32, .W1C, 0⟩]⟩
  | .CFG_EPOCH => ⟨.cfg, 0x1400, 54, 8, 54, 0,
      [⟨0, 16, .RO, 0⟩, ⟨16, 1, .RO, 0⟩]⟩
  | .CFG_MI_STAT => ⟨.cfg, 0x2000, 16, 32, 16, 0,
      [⟨0, 2, .RO, 0⟩, ⟨2, 6, .RO, 0x3f⟩, ⟨8, 8, .RO, 0⟩, ⟨16, 8, .RO, 0⟩]⟩
  | .CFG_MI_FAMILY => ⟨.cfg, 0x2008, 16, 32, 16, 0,
      [⟨0, 64, .RO, 0⟩]⟩
  | .CFG_MI_LAYOUT => ⟨.cfg, 0x2010, 16, 32, 16, 0,
      [⟨0, 64, .RO, 0⟩]⟩
  | .GLB_RESET => ⟨.glb, 0x80000, 1, 8, 1, 0,
      [⟨0, 1, .WO, 0⟩, ⟨1, 1, .WO, 0⟩, ⟨2, 1, .WO, 0⟩]⟩
  | .GLB_START_STAT => ⟨.glb, 0x80008, 1, 8, 1, 0,
      [⟨0, 2, .RO, 0⟩, ⟨2, 3, .RO, 0⟩, ⟨5, 1, .RO, 0⟩, ⟨6, 8, .RO, 0⟩, ⟨14, 2, .RO, 0⟩, ⟨16, 16, .W1C, 0⟩]⟩
  | .GLB_FLD_SLOW => ⟨.glb, 0x80010, 1, 8, 1, 0,
      [⟨0, 48, .RO, 0⟩]⟩
  | .GLB_FLD_FULL => ⟨.glb, 0x80018, 1, 8, 1, 0,
      [⟨0, 48, .RO, 0⟩]⟩
  | .GLB_TRESET => ⟨.glb, 0x80020, 1, 8, 1, 0,
      [⟨0, 8, .RW, 0⟩, ⟨8, 8, .RW, 0⟩, ⟨16, 8, .RW, 0⟩, ⟨24, 8, .RW, 0⟩, ⟨32, 1, .WO, 0⟩, ⟨33, 1, .RO, 0⟩, ⟨34, 1, .W1C, 0⟩]⟩
  | .FLD_RESET => ⟨.fld, 0x440, 1, 8, 1, 0,
      [⟨0, 1, .WO, 0⟩, ⟨1, 1, .RO, 0⟩, ⟨2, 3, .RO, 0⟩]⟩
  | .PRT_PORT_RESET => ⟨.prt, 0x6000, 1, 8, 1, 0,
      [⟨0, 6, .RW, 0⟩, ⟨6, 1, .RW, 0⟩, ⟨7, 1, .WO, 0⟩, ⟨8, 1, .RO, 0⟩]⟩
  | .BRL_CTRL => ⟨.prt, 0x7000, 2, 64, 2, 0,
      [⟨0, 1, .RW, 1⟩, ⟨1, 1, .WO, 0⟩, ⟨2, 1, .RW, 1⟩]⟩
  | .BRL_STAT => ⟨.prt, 0x7008, 2, 64, 2, 0,
      [⟨0, 3, .RO, 0⟩, ⟨3, 1, .RO, 0⟩, ⟨4, 1, .RO, 0⟩, ⟨16, 16, .RO, 0⟩, ⟨32, 7, .RO, 0⟩, ⟨39, 9, .RO, 0⟩]⟩
  | .BRL_ERR => ⟨.prt, 0x7010, 2, 64, 2, 0,
      [⟨0, 16, .W1C, 0⟩, ⟨16, 16, .W1C, 0⟩, ⟨32, 16, .W1C, 0⟩, ⟨48, 8, .W1C, 0⟩, ⟨56, 8, .W1C, 0⟩]⟩
  | .BRL_HOSTERR => ⟨.prt, 0x7080, 1, 8, 1, 0,
      [⟨0, 16, .W1C, 0⟩, ⟨16, 16, .W1C, 0⟩, ⟨32, 16, .W1C, 0⟩]⟩
  | .PRT_EPORT_CFG => ⟨.prt, 0x30000, 32, 64, 32, 0,
      [⟨0, 2, .RWC, 3⟩, ⟨2, 1, .RWC, 1⟩, ⟨3, 13, .RWC, 0x64⟩, ⟨16, 48, .RWC, 0⟩]⟩
  | .PRT_EPORT_STAT => ⟨.prt, 0x30008, 32, 64, 32, 0,
      [⟨0, 2, .RO, 0⟩, ⟨2, 1, .RO, 0⟩, ⟨16, 16, .W1C, 0⟩, ⟨32, 32, .W1C, 0⟩]⟩
  | .PRT_MAC => ⟨.prt, 0x40000, 1, 8, 1, 0,
      [⟨0, 48, .RO, Config.macBase.toNat⟩]⟩
  | .PRT_ADDR4 => ⟨.prt, 0x40008, 1, 8, 1, 0,
      [⟨0, 64, .RWC, 0⟩]⟩
  | .PRT_ADDR6 => ⟨.prt, 0x40010, 2, 8, 2, 0,
      [⟨0, 64, .RWC, 0⟩]⟩
  | .PRT_NET_CFG => ⟨.prt, 0x40020, 1, 8, 1, 0,
      [⟨0, 12, .RWC, 0⟩, ⟨12, 3, .RWC, 6⟩, ⟨15, 3, .RWC, 5⟩, ⟨18, 3, .RWC, 3⟩, ⟨32, 16, .RWC, 0xb1c5⟩]⟩
  | .PRT_CST_CFG => ⟨.prt, 0x40028, 1, 8, 1, 0,
      [⟨0, 16, .RWC, 0xbb8⟩, ⟨16, 4, .RWC, 7⟩, ⟨20, 5, .RWC, 8⟩, ⟨32, 8, .RWC, 5⟩]⟩
  | .PRT_CONN_BASE => ⟨.prt, 0x40030, 1, 8, 1, 0,
      [⟨0, 42, .RWC, 0⟩]⟩
  | .PRT_RET_BASE => ⟨.prt, 0x40038, 1, 8, 1, 0,
      [⟨0, 42, .RWC, 0⟩]⟩
  | .PRT_CONN_CTRL => ⟨.prt, 0x40040, 1, 8, 1, 0,
      [⟨0, 14, .RW, 0⟩, ⟨14, 1, .WO, 0⟩, ⟨15, 1, .WO, 0⟩, ⟨16, 2, .RO, 0⟩]⟩
  | .PRT_RET_CTRL => ⟨.prt, 0x40048, 1, 8, 1, 0,
      [⟨0, 1, .WO, 0⟩]⟩
  | .OPT_BIND => ⟨.fld, 0xc00, 16, 8, 16, 0,
      [⟨0, 1, .RWC, 0⟩, ⟨1, 1, .RWC, 0⟩, ⟨2, 4, .RWC, 0⟩, ⟨8, 8, .RWC, 0⟩, ⟨16, 8, .RWC, 0⟩, ⟨24, 8, .RWC, 0⟩, ⟨32, 4, .RWC, 0⟩]⟩
  | .OPT_SUB => ⟨.fld, 0xc80, 8, 8, 8, 0,
      [⟨0, 3, .RO, 0⟩, ⟨3, 1, .RO, 0⟩, ⟨4, 1, .RO, 0⟩, ⟨5, 1, .RO, 0⟩, ⟨8, 6, .RO, 0⟩, ⟨14, 3, .RO, 0⟩]⟩
  | .OPT_PEER => ⟨.fld, 0xcc0, 8, 8, 8, 0,
      [⟨0, 64, .RO, 0⟩]⟩
  | .OPT_RL_CFG => ⟨.fld, 0xd00, 1, 8, 1, 0,
      [⟨0, 8, .RW, 0x64⟩, ⟨8, 1, .WO, 0⟩, ⟨32, 32, .RW, 0xe10⟩]⟩
  | .OPT_RL => ⟨.fld, 0xd08, 32, 8, 32, 0,
      [⟨0, 8, .RO, 0⟩, ⟨8, 1, .RO, 0⟩, ⟨16, 16, .RO, 0⟩]⟩
  | .OPT_ERR => ⟨.fld, 0xe00, 1, 8, 1, 0,
      [⟨0, 16, .W1C, 0⟩, ⟨16, 16, .W1C, 0⟩, ⟨32, 16, .W1C, 0⟩]⟩
  | .PWR_IN => ⟨.glb, 0x90000, 1, 8, 1, 0,
      [⟨0, 16, .RO, 0⟩, ⟨16, 16, .RO, 0⟩, ⟨32, 16, .RO, 0⟩, ⟨48, 3, .RO, 0⟩, ⟨51, 5, .RO, 0⟩]⟩
  | .PWR_CFG => ⟨.glb, 0x90008, 1, 8, 1, 0,
      [⟨0, 16, .RWC, 0x7530⟩, ⟨16, 8, .RWC, 0x28⟩, ⟨24, 8, .RWC, 0x50⟩, ⟨32, 8, .RWC, 0xa⟩, ⟨40, 10, .RWC, 0x15e⟩, ⟨50, 10, .RWC, 0x190⟩]⟩
  | .PWR_COOL => ⟨.glb, 0x90010, 1, 8, 1, 0,
      [⟨0, 16, .RO, 0⟩, ⟨16, 16, .RO, 0⟩, ⟨32, 16, .RO, 0⟩, ⟨48, 16, .RO, 0⟩]⟩
  | .PWR_BLADE => ⟨.glb, 0x90100, 16, 8, 16, 0,
      [⟨0, 12, .RO, 0⟩, ⟨12, 1, .RO, 0⟩]⟩
  | .PWR_FLD_RAIL => ⟨.fld, 0x600, 1, 8, 1, 0,
      [⟨0, 16, .RO, 0⟩, ⟨16, 16, .RO, 0⟩, ⟨32, 16, .RO, 0⟩, ⟨48, 1, .RO, 0⟩, ⟨49, 2, .RO, 0⟩, ⟨51, 1, .RO, 0⟩, ⟨52, 3, .RO, 0⟩]⟩
  | .PWR_FLD_TJ => ⟨.fld, 0x608, 1, 8, 1, 0,
      [⟨0, 64, .RO, 0⟩]⟩
  | .PWR_FLD_PLAN => ⟨.fld, 0x610, 1, 8, 1, 0,
      [⟨0, 16, .RO, 0x320⟩, ⟨16, 16, .RO, 0⟩, ⟨32, 2, .RO, 0⟩, ⟨34, 1, .RO, 0⟩, ⟨35, 5, .RO, 0⟩, ⟨40, 24, .RO, 0⟩]⟩
  | .PWR_FLD_T0 => ⟨.fld, 0x618, 1, 8, 1, 0,
      [⟨0, 64, .RO, 0⟩]⟩
  | .PWR_GAUGE => ⟨.fld, 0x620, 16, 8, 16, 0,
      [⟨0, 12, .RO, 0⟩, ⟨12, 10, .RO, 0⟩, ⟨22, 1, .RO, 0⟩, ⟨23, 1, .RO, 0⟩]⟩
  | .LIF_CALENDAR => ⟨.glb, 0xa0000, 1, 8, 1, 0,
      [⟨0, 64, .RW, 0⟩]⟩
  | .LIF_CAL_TICK => ⟨.glb, 0xa0008, 1, 8, 1, 0,
      [⟨0, 64, .RO, 0⟩]⟩
  | .LIF_STAT => ⟨.glb, 0xa0010, 1, 8, 1, 0,
      [⟨0, 40, .RO, 0⟩, ⟨40, 24, .RO, 0⟩]⟩
  | .LIF_SNAP => ⟨.glb, 0xa0018, 1, 8, 1, 0,
      [⟨0, 48, .RO, 0⟩, ⟨48, 1, .WO, 0⟩, ⟨49, 1, .W1C, 0⟩]⟩
  | .LIF_LB => ⟨.glb, 0xa0020, 1, 8, 1, 0,
      [⟨0, 1, .RO, 0⟩, ⟨1, 3, .RO, 0⟩, ⟨32, 32, .RO, 0⟩]⟩
  | .GLB_ELOG_SUPP => ⟨.glb, 0xf00, 1, 8, 1, 0,
      [⟨0, 32, .W1C, 0⟩, ⟨32, 16, .RO, 0⟩, ⟨48, 16, .RO, 0⟩]⟩
  | .FLD_ELOG_SUPP => ⟨.fld, 0xf00, 1, 8, 1, 0,
      [⟨0, 32, .W1C, 0⟩, ⟨32, 16, .RO, 0⟩, ⟨48, 16, .RO, 0⟩]⟩
  | .STK_ELOG_SUPP => ⟨.stk, 0xf00, 1, 8, 1, 0,
      [⟨0, 32, .W1C, 0⟩, ⟨32, 16, .RO, 0⟩, ⟨48, 16, .RO, 0⟩]⟩
  | .PRT_ELOG_SUPP => ⟨.prt, 0xf00, 1, 8, 1, 0,
      [⟨0, 32, .W1C, 0⟩, ⟨32, 16, .RO, 0⟩, ⟨48, 16, .RO, 0⟩]⟩
  | .CFG_ELOG_SUPP => ⟨.cfg, 0xf00, 1, 8, 1, 0,
      [⟨0, 32, .W1C, 0⟩, ⟨32, 16, .RO, 0⟩, ⟨48, 16, .RO, 0⟩]⟩
  | .GLB_ELOG_UNDEC => ⟨.glb, 0xf08, 1, 8, 1, 0,
      [⟨0, 32, .W1C, 0⟩, ⟨32, 16, .W1C, 0⟩]⟩
  | .GLB_ELOG_ADDR => ⟨.glb, 0xf10, 1, 8, 1, 0,
      [⟨0, 48, .RO, 0⟩, ⟨48, 1, .RO, 0⟩, ⟨49, 1, .RO, 0⟩, ⟨50, 1, .RO, 0⟩, ⟨51, 1, .RO, 0⟩]⟩
  | .FLD_ELOG_DISC => ⟨.fld, 0xf08, 1, 8, 1, 0,
      [⟨0, 16, .W1C, 0⟩, ⟨16, 16, .W1C, 0⟩, ⟨32, 16, .W1C, 0⟩, ⟨48, 16, .W1C, 0⟩]⟩
  | .STK_ELOG_DISC => ⟨.stk, 0xf08, 1, 8, 1, 0,
      [⟨0, 32, .W1C, 0⟩, ⟨32, 32, .W1C, 0⟩]⟩
  | .PRT_ELOG_DISC => ⟨.prt, 0xf08, 1, 8, 1, 0,
      [⟨0, 16, .W1C, 0⟩, ⟨16, 16, .W1C, 0⟩, ⟨32, 16, .W1C, 0⟩, ⟨48, 16, .W1C, 0⟩]⟩

/-- The registers of a region, in the order of their chapters. -/
def regsOf : Region → List RegName
  | .glb =>
    [.GLB_CQ_BASE, .GLB_CQ_CBASE, .GLB_CQ_CFG, .GLB_CQ_TAIL, .GLB_CQ_STAT, .GLB_CQ_PACE, .GLB_CQ_ENTRY, .GLB_CQ_CTRL] ++
    [.GLB_CQ_CHEAD, .GLB_EVR_BASE, .GLB_EVR_CFG, .GLB_EVR_HEAD, .GLB_EVR_TAIL, .GLB_EVR_LOST, .GLB_IRQ_ADDR, .GLB_IRQ_DATA] ++
    [.GLB_EVC, .GLB_MARK, .GLB_PT_INDEX, .GLB_PT_ENTRY, .GLB_T1_SPLIT, .GLB_QUOTA_CTX, .GLB_QUOTA, .GLB_REC_CFG] ++
    [.GLB_REC_SAVE, .GLB_REC_STAT, .GLB_REC_CTRL, .GLB_RESET, .GLB_START_STAT, .GLB_FLD_SLOW, .GLB_FLD_FULL, .GLB_TRESET] ++
    [.PWR_IN, .PWR_CFG, .PWR_COOL, .PWR_BLADE, .LIF_CALENDAR, .LIF_CAL_TICK, .LIF_STAT, .LIF_SNAP] ++
    [.LIF_LB, .GLB_ELOG_SUPP, .GLB_ELOG_UNDEC, .GLB_ELOG_ADDR]
  | .fld =>
    [.FLD_STREAM_TMO, .FLD_RED_ERR, .SMP_CFG, .SMP_STAT, .SMP_ERR, .FLD_FETTLE, .FLD_STATE, .FLD_CLK] ++
    [.FLD_RESET, .OPT_BIND, .OPT_SUB, .OPT_PEER, .OPT_RL_CFG, .OPT_RL, .OPT_ERR, .PWR_FLD_RAIL] ++
    [.PWR_FLD_TJ, .PWR_FLD_PLAN, .PWR_FLD_T0, .PWR_GAUGE, .FLD_ELOG_SUPP, .FLD_ELOG_DISC]
  | .til =>
    [.TIL_CTRL, .TIL_STATUS, .TIL_PROG, .TIL_LOGXY, .TIL_HANG, .TIL_ERR, .TIL_ROUTE, .TIL_FLAGS] ++
    [.TIL_TUNDISH, .TIL_RXWAIT, .TIL_RESEND, .TIL_RIDDLE, .TIL_HOIST, .TIL_SAMPLE, .TIL_MEM_ERR, .TIL_MEM_LAST] ++
    [.TIL_REMAP, .TIL_MEM_INJ, .TIL_REC]
  | .stk =>
    [.STK_POUR_STAT, .STK_POUR_STOP, .STK_PC_STAT, .STK_SAT_CFG, .STK_TIER, .STK_REDIRECTS, .STK_FETTLE, .STK_INJ] ++
    [.STK_CH_ERR, .STK_ELOG_SUPP, .STK_ELOG_DISC]
  | .prt =>
    [.PRT_FAR_BASE, .PRT_FAR_ATTR, .PRT_RED_CFG, .PRT_RED_STAT, .PRT_RED_ERR, .COL_TMO, .COL_GROUP_TMO, .COL_ERR] ++
    [.COL_CHAN, .PRT_PORT_RESET, .BRL_CTRL, .BRL_STAT, .BRL_ERR, .BRL_HOSTERR, .PRT_EPORT_CFG, .PRT_EPORT_STAT] ++
    [.PRT_MAC, .PRT_ADDR4, .PRT_ADDR6, .PRT_NET_CFG, .PRT_CST_CFG, .PRT_CONN_BASE, .PRT_RET_BASE, .PRT_CONN_CTRL] ++
    [.PRT_RET_CTRL, .PRT_ELOG_SUPP, .PRT_ELOG_DISC]
  | .cfg =>
    [.CFG_TYPE, .CFG_UNIT_ID, .CFG_ROOT, .CFG_STAGE_SRC, .CFG_STAGE_CTRL, .CFG_STAGE_STAT, .CFG_ADOPT, .CFG_COMMIT] ++
    [.CFG_GEN, .CFG_EPOCH, .CFG_MI_STAT, .CFG_MI_FAMILY, .CFG_MI_LAYOUT, .CFG_ELOG_SUPP]

end Sys2Proof.Machine
end

