-- ==== Sys2Proof/Machine/Fields.lean ====
section
/-! DEFINITION. Every named register field: its register, lowest bit and width, as the register tables give them.
A field is named <register>_<field>, as the spec writes <register>.<field>. -/
namespace Sys2Proof.Machine

/-- A field of a register. -/
structure Fld where
  reg : RegName
  lo : Nat
  w : Nat
  deriving DecidableEq, Repr

namespace F

/-! TIL_CTRL (02_tile.md) -/
def TIL_CTRL_RUN : Fld := ⟨.TIL_CTRL, 0, 1⟩
def TIL_CTRL_QUIESCE : Fld := ⟨.TIL_CTRL, 1, 1⟩
def TIL_CTRL_RESET : Fld := ⟨.TIL_CTRL, 2, 1⟩

/-! TIL_STATUS (02_tile.md) -/
def TIL_STATUS_RUNNING : Fld := ⟨.TIL_STATUS, 0, 1⟩
def TIL_STATUS_QUIESCED : Fld := ⟨.TIL_STATUS, 1, 1⟩
def TIL_STATUS_FENCED : Fld := ⟨.TIL_STATUS, 2, 1⟩
def TIL_STATUS_BYPASS : Fld := ⟨.TIL_STATUS, 3, 1⟩
def TIL_STATUS_WAITKIND : Fld := ⟨.TIL_STATUS, 4, 4⟩
def TIL_STATUS_FAULT : Fld := ⟨.TIL_STATUS, 8, 8⟩
def TIL_STATUS_PC : Fld := ⟨.TIL_STATUS, 16, 20⟩

/-! TIL_PROG (02_tile.md) -/
def TIL_PROG_PROG_BASE : Fld := ⟨.TIL_PROG, 0, 20⟩

/-! TIL_LOGXY (02_tile.md) -/
def TIL_LOGXY_LX : Fld := ⟨.TIL_LOGXY, 0, 8⟩
def TIL_LOGXY_LY : Fld := ⟨.TIL_LOGXY, 8, 8⟩
def TIL_LOGXY_ASSIGNED : Fld := ⟨.TIL_LOGXY, 16, 1⟩

/-! TIL_HANG (02_tile.md) -/
def TIL_HANG_LIMIT : Fld := ⟨.TIL_HANG, 0, 16⟩

/-! TIL_ERR (02_tile.md) -/
def TIL_ERR_ILLEGAL_OP : Fld := ⟨.TIL_ERR, 0, 1⟩
def TIL_ERR_ADDR_RANGE : Fld := ⟨.TIL_ERR, 1, 1⟩
def TIL_ERR_QUEUE_PARITY : Fld := ⟨.TIL_ERR, 2, 1⟩
def TIL_ERR_HANG : Fld := ⟨.TIL_ERR, 3, 1⟩
def TIL_ERR_ARRAY_RESIDUE : Fld := ⟨.TIL_ERR, 4, 1⟩
def TIL_ERR_MEM_UNCORR : Fld := ⟨.TIL_ERR, 5, 1⟩
def TIL_ERR_NO_ROUTE : Fld := ⟨.TIL_ERR, 6, 1⟩
def TIL_ERR_LINK_DOWN : Fld := ⟨.TIL_ERR, 7, 4⟩
def TIL_ERR_REPLAYED : Fld := ⟨.TIL_ERR, 11, 1⟩

/-! TIL_ROUTE (02_tile.md) -/
def TIL_ROUTE_VALID : Fld := ⟨.TIL_ROUTE, 0, 1⟩
def TIL_ROUTE_OUT : Fld := ⟨.TIL_ROUTE, 1, 5⟩
def TIL_ROUTE_CLASS : Fld := ⟨.TIL_ROUTE, 6, 2⟩

/-! TIL_FLAGS (03_arithmetic.md) -/
def TIL_FLAGS_INVALID : Fld := ⟨.TIL_FLAGS, 0, 1⟩
def TIL_FLAGS_OVERFLOW : Fld := ⟨.TIL_FLAGS, 1, 1⟩
def TIL_FLAGS_NAN_LOST : Fld := ⟨.TIL_FLAGS, 2, 1⟩
def TIL_FLAGS_SATURATED : Fld := ⟨.TIL_FLAGS, 3, 1⟩

/-! FLD_STREAM_TMO (04_streams.md) -/
def FLD_STREAM_TMO_RECV_TMO : Fld := ⟨.FLD_STREAM_TMO, 0, 32⟩
def FLD_STREAM_TMO_TSWAP_TMO : Fld := ⟨.FLD_STREAM_TMO, 32, 32⟩

/-! TIL_TUNDISH (04_streams.md) -/
def TIL_TUNDISH_H0_STATE : Fld := ⟨.TIL_TUNDISH, 0, 3⟩
def TIL_TUNDISH_H1_STATE : Fld := ⟨.TIL_TUNDISH, 3, 3⟩
def TIL_TUNDISH_DRAW : Fld := ⟨.TIL_TUNDISH, 6, 1⟩
def TIL_TUNDISH_DROPPED : Fld := ⟨.TIL_TUNDISH, 7, 1⟩
def TIL_TUNDISH_FILL_POUR : Fld := ⟨.TIL_TUNDISH, 8, 16⟩

/-! TIL_RXWAIT (04_streams.md) -/
def TIL_RXWAIT_STREAM : Fld := ⟨.TIL_RXWAIT, 0, 8⟩
def TIL_RXWAIT_VALID : Fld := ⟨.TIL_RXWAIT, 8, 1⟩
def TIL_RXWAIT_SEQ : Fld := ⟨.TIL_RXWAIT, 16, 16⟩
def TIL_RXWAIT_RECEIVED : Fld := ⟨.TIL_RXWAIT, 32, 16⟩

/-! TIL_RESEND (04_streams.md) -/
def TIL_RESEND_STREAM : Fld := ⟨.TIL_RESEND, 0, 8⟩
def TIL_RESEND_SEQ : Fld := ⟨.TIL_RESEND, 16, 16⟩

/-! STK_POUR_STAT (04_streams.md) -/
def STK_POUR_STAT_ACTIVE : Fld := ⟨.STK_POUR_STAT, 0, 9⟩
def STK_POUR_STAT_MISSES : Fld := ⟨.STK_POUR_STAT, 32, 32⟩

/-! STK_POUR_STOP (04_streams.md) -/
def STK_POUR_STOP_DESC : Fld := ⟨.STK_POUR_STOP, 0, 42⟩
def STK_POUR_STOP_GO : Fld := ⟨.STK_POUR_STOP, 42, 1⟩
def STK_POUR_STOP_BUSY : Fld := ⟨.STK_POUR_STOP, 43, 1⟩
def STK_POUR_STOP_MISSED : Fld := ⟨.STK_POUR_STOP, 44, 1⟩

/-! GLB_CQ_BASE (05_commands.md) -/
def GLB_CQ_BASE_BASE : Fld := ⟨.GLB_CQ_BASE, 0, 52⟩

/-! GLB_CQ_CBASE (05_commands.md) -/
def GLB_CQ_CBASE_CBASE : Fld := ⟨.GLB_CQ_CBASE, 0, 52⟩

/-! GLB_CQ_CFG (05_commands.md) -/
def GLB_CQ_CFG_SIZE : Fld := ⟨.GLB_CQ_CFG, 0, 17⟩
def GLB_CQ_CFG_CTX : Fld := ⟨.GLB_CQ_CFG, 32, 16⟩
def GLB_CQ_CFG_PRI : Fld := ⟨.GLB_CQ_CFG, 48, 2⟩
def GLB_CQ_CFG_PACED : Fld := ⟨.GLB_CQ_CFG, 50, 1⟩
def GLB_CQ_CFG_STOP_ON_FAIL : Fld := ⟨.GLB_CQ_CFG, 51, 1⟩
def GLB_CQ_CFG_VECTOR : Fld := ⟨.GLB_CQ_CFG, 52, 8⟩

/-! GLB_CQ_TAIL (05_commands.md) -/
def GLB_CQ_TAIL_TAIL : Fld := ⟨.GLB_CQ_TAIL, 0, 32⟩

/-! GLB_CQ_STAT (05_commands.md) -/
def GLB_CQ_STAT_HEAD : Fld := ⟨.GLB_CQ_STAT, 0, 32⟩
def GLB_CQ_STAT_INFLIGHT : Fld := ⟨.GLB_CQ_STAT, 32, 9⟩
def GLB_CQ_STAT_WAITING : Fld := ⟨.GLB_CQ_STAT, 41, 1⟩
def GLB_CQ_STAT_STOPPED : Fld := ⟨.GLB_CQ_STAT, 42, 1⟩
def GLB_CQ_STAT_TAIL_ERR : Fld := ⟨.GLB_CQ_STAT, 43, 1⟩
def GLB_CQ_STAT_CFG_ERR : Fld := ⟨.GLB_CQ_STAT, 44, 1⟩
def GLB_CQ_STAT_CHEAD_ERR : Fld := ⟨.GLB_CQ_STAT, 45, 1⟩

/-! GLB_CQ_PACE (05_commands.md) -/
def GLB_CQ_PACE_PACE : Fld := ⟨.GLB_CQ_PACE, 0, 32⟩
def GLB_CQ_PACE_RESP_EV : Fld := ⟨.GLB_CQ_PACE, 32, 16⟩

/-! GLB_CQ_ENTRY (05_commands.md) -/
def GLB_CQ_ENTRY_X : Fld := ⟨.GLB_CQ_ENTRY, 0, 8⟩
def GLB_CQ_ENTRY_Y : Fld := ⟨.GLB_CQ_ENTRY, 8, 8⟩
def GLB_CQ_ENTRY_EV : Fld := ⟨.GLB_CQ_ENTRY, 16, 4⟩
def GLB_CQ_ENTRY_MBOX : Fld := ⟨.GLB_CQ_ENTRY, 20, 24⟩

/-! GLB_CQ_CTRL (05_commands.md) -/
def GLB_CQ_CTRL_RESTART : Fld := ⟨.GLB_CQ_CTRL, 0, 1⟩
def GLB_CQ_CTRL_WAIT_TMO : Fld := ⟨.GLB_CQ_CTRL, 32, 32⟩

/-! GLB_CQ_CHEAD (05_commands.md) -/
def GLB_CQ_CHEAD_CHEAD : Fld := ⟨.GLB_CQ_CHEAD, 0, 32⟩

/-! GLB_EVR_BASE (05_commands.md) -/
def GLB_EVR_BASE_BASE : Fld := ⟨.GLB_EVR_BASE, 0, 52⟩

/-! GLB_EVR_CFG (05_commands.md) -/
def GLB_EVR_CFG_SIZE : Fld := ⟨.GLB_EVR_CFG, 0, 17⟩
def GLB_EVR_CFG_VECTOR : Fld := ⟨.GLB_EVR_CFG, 17, 8⟩

/-! GLB_EVR_HEAD (05_commands.md) -/
def GLB_EVR_HEAD_HEAD : Fld := ⟨.GLB_EVR_HEAD, 0, 32⟩

/-! GLB_EVR_TAIL (05_commands.md) -/
def GLB_EVR_TAIL_TAIL : Fld := ⟨.GLB_EVR_TAIL, 0, 32⟩

/-! GLB_EVR_LOST (05_commands.md) -/
def GLB_EVR_LOST_COUNT : Fld := ⟨.GLB_EVR_LOST, 0, 32⟩
def GLB_EVR_LOST_FIRST : Fld := ⟨.GLB_EVR_LOST, 32, 16⟩

/-! GLB_IRQ_ADDR (05_commands.md) -/
def GLB_IRQ_ADDR_ADDR : Fld := ⟨.GLB_IRQ_ADDR, 0, 64⟩

/-! GLB_IRQ_DATA (05_commands.md) -/
def GLB_IRQ_DATA_DATA : Fld := ⟨.GLB_IRQ_DATA, 0, 32⟩

/-! GLB_EVC (05_commands.md) -/
def GLB_EVC_VALUE : Fld := ⟨.GLB_EVC, 0, 32⟩
def GLB_EVC_ADD : Fld := ⟨.GLB_EVC, 32, 32⟩

/-! TIL_RIDDLE (07_sparsity.md) -/
def TIL_RIDDLE_MISSES : Fld := ⟨.TIL_RIDDLE, 0, 32⟩
def TIL_RIDDLE_IDLE_PAIRS : Fld := ⟨.TIL_RIDDLE, 32, 32⟩

/-! TIL_HOIST (08_weights.md) -/
def TIL_HOIST_GEN : Fld := ⟨.TIL_HOIST, 0, 15⟩

/-! GLB_MARK (08_weights.md) -/
def GLB_MARK_POUR_ID : Fld := ⟨.GLB_MARK, 0, 16⟩
def GLB_MARK_STATUS : Fld := ⟨.GLB_MARK, 16, 16⟩
def GLB_MARK_VALID : Fld := ⟨.GLB_MARK, 32, 1⟩

/-! GLB_PT_INDEX (09_tiers.md) -/
def GLB_PT_INDEX_PAGE : Fld := ⟨.GLB_PT_INDEX, 0, 24⟩
def GLB_PT_INDEX_READY : Fld := ⟨.GLB_PT_INDEX, 24, 1⟩

/-! GLB_PT_ENTRY (09_tiers.md) -/
def GLB_PT_ENTRY_WORD : Fld := ⟨.GLB_PT_ENTRY, 0, 64⟩

/-! GLB_T1_SPLIT (09_tiers.md) -/
def GLB_T1_SPLIT_WAFER_SLOTS : Fld := ⟨.GLB_T1_SPLIT, 0, 21⟩

/-! GLB_QUOTA_CTX (09_tiers.md) -/
def GLB_QUOTA_CTX_CTX : Fld := ⟨.GLB_QUOTA_CTX, 0, 16⟩
def GLB_QUOTA_CTX_VALID : Fld := ⟨.GLB_QUOTA_CTX, 16, 1⟩

/-! GLB_QUOTA (09_tiers.md) -/
def GLB_QUOTA_LIMIT : Fld := ⟨.GLB_QUOTA, 0, 32⟩
def GLB_QUOTA_USED : Fld := ⟨.GLB_QUOTA, 32, 32⟩

/-! PRT_FAR_BASE (09_tiers.md) -/
def PRT_FAR_BASE_BASE : Fld := ⟨.PRT_FAR_BASE, 0, 64⟩

/-! PRT_FAR_ATTR (09_tiers.md) -/
def PRT_FAR_ATTR_VALID : Fld := ⟨.PRT_FAR_ATTR, 0, 1⟩
def PRT_FAR_ATTR_TRANSPORT : Fld := ⟨.PRT_FAR_ATTR, 1, 1⟩
def PRT_FAR_ATTR_CONN : Fld := ⟨.PRT_FAR_ATTR, 16, 16⟩

/-! STK_PC_STAT (09_tiers.md) -/
def STK_PC_STAT_HITS : Fld := ⟨.STK_PC_STAT, 0, 32⟩
def STK_PC_STAT_MISSES : Fld := ⟨.STK_PC_STAT, 32, 32⟩

/-! STK_SAT_CFG (09_tiers.md) -/
def STK_SAT_CFG_WINDOW : Fld := ⟨.STK_SAT_CFG, 0, 32⟩
def STK_SAT_CFG_THRESH : Fld := ⟨.STK_SAT_CFG, 32, 8⟩
def STK_SAT_CFG_COUNT : Fld := ⟨.STK_SAT_CFG, 40, 8⟩
def STK_SAT_CFG_REDIRECT : Fld := ⟨.STK_SAT_CFG, 48, 1⟩
def STK_SAT_CFG_REDIRECT_SLACK : Fld := ⟨.STK_SAT_CFG, 49, 15⟩

/-! STK_TIER (09_tiers.md) -/
def STK_TIER_STALL : Fld := ⟨.STK_TIER, 0, 32⟩
def STK_TIER_RUN : Fld := ⟨.STK_TIER, 32, 8⟩

/-! STK_REDIRECTS (09_tiers.md) -/
def STK_REDIRECTS_CHUNKS : Fld := ⟨.STK_REDIRECTS, 0, 32⟩

/-! PRT_RED_CFG (10_reduction.md) -/
def PRT_RED_CFG_HEADROOM : Fld := ⟨.PRT_RED_CFG, 0, 3⟩

/-! PRT_RED_STAT (10_reduction.md) -/
def PRT_RED_STAT_BLOCKS : Fld := ⟨.PRT_RED_STAT, 0, 32⟩
def PRT_RED_STAT_NAN_BLOCKS : Fld := ⟨.PRT_RED_STAT, 32, 16⟩
def PRT_RED_STAT_CLIP_BLOCKS : Fld := ⟨.PRT_RED_STAT, 48, 16⟩

/-! PRT_RED_ERR (10_reduction.md) -/
def PRT_RED_ERR_RES_IN : Fld := ⟨.PRT_RED_ERR, 0, 16⟩
def PRT_RED_ERR_RES_OUT : Fld := ⟨.PRT_RED_ERR, 16, 16⟩
def PRT_RED_ERR_SCALE_MISMATCH : Fld := ⟨.PRT_RED_ERR, 32, 16⟩

/-! FLD_RED_ERR (10_reduction.md) -/
def FLD_RED_ERR_RES_IN : Fld := ⟨.FLD_RED_ERR, 0, 16⟩
def FLD_RED_ERR_RES_OUT : Fld := ⟨.FLD_RED_ERR, 16, 16⟩
def FLD_RED_ERR_SCALE_MISMATCH : Fld := ⟨.FLD_RED_ERR, 32, 16⟩

/-! COL_TMO (11_collectives.md) -/
def COL_TMO_COLL_TMO : Fld := ⟨.COL_TMO, 0, 32⟩
def COL_TMO_HOP_TMO : Fld := ⟨.COL_TMO, 32, 32⟩

/-! COL_GROUP_TMO (11_collectives.md) -/
def COL_GROUP_TMO_GROUP_TMO : Fld := ⟨.COL_GROUP_TMO, 0, 32⟩

/-! COL_ERR (11_collectives.md) -/
def COL_ERR_MISMATCH : Fld := ⟨.COL_ERR, 0, 16⟩
def COL_ERR_FAILED : Fld := ⟨.COL_ERR, 16, 16⟩
def COL_ERR_REFORMS : Fld := ⟨.COL_ERR, 32, 16⟩
def COL_ERR_ABORT_DROPS : Fld := ⟨.COL_ERR, 48, 16⟩

/-! COL_CHAN (11_collectives.md) -/
def COL_CHAN_BUSY : Fld := ⟨.COL_CHAN, 0, 1⟩
def COL_CHAN_HELD : Fld := ⟨.COL_CHAN, 1, 1⟩
def COL_CHAN_COLL : Fld := ⟨.COL_CHAN, 2, 2⟩
def COL_CHAN_GROUP_ID : Fld := ⟨.COL_CHAN, 16, 16⟩
def COL_CHAN_CSEQ : Fld := ⟨.COL_CHAN, 32, 32⟩

/-! SMP_CFG (12_random.md) -/
def SMP_CFG_TMO : Fld := ⟨.SMP_CFG, 0, 32⟩
def SMP_CFG_SGET_TMO : Fld := ⟨.SMP_CFG, 32, 32⟩

/-! SMP_STAT (12_random.md) -/
def SMP_STAT_BUSY : Fld := ⟨.SMP_STAT, 0, 8⟩
def SMP_STAT_SAMPLES : Fld := ⟨.SMP_STAT, 32, 32⟩

/-! SMP_ERR (12_random.md) -/
def SMP_ERR_TIMEOUTS : Fld := ⟨.SMP_ERR, 0, 16⟩
def SMP_ERR_MISMATCH : Fld := ⟨.SMP_ERR, 16, 16⟩
def SMP_ERR_INVALID : Fld := ⟨.SMP_ERR, 32, 16⟩
def SMP_ERR_STALE : Fld := ⟨.SMP_ERR, 48, 16⟩

/-! TIL_SAMPLE (12_random.md) -/
def TIL_SAMPLE_SESSION : Fld := ⟨.TIL_SAMPLE, 0, 3⟩
def TIL_SAMPLE_PENDING : Fld := ⟨.TIL_SAMPLE, 3, 1⟩
def TIL_SAMPLE_READY : Fld := ⟨.TIL_SAMPLE, 4, 1⟩
def TIL_SAMPLE_SEQ : Fld := ⟨.TIL_SAMPLE, 32, 32⟩

/-! FLD_FETTLE (13_stored_data.md) -/
def FLD_FETTLE_SWEEP : Fld := ⟨.FLD_FETTLE, 0, 32⟩

/-! TIL_MEM_ERR (13_stored_data.md) -/
def TIL_MEM_ERR_CORRECTED : Fld := ⟨.TIL_MEM_ERR, 0, 32⟩
def TIL_MEM_ERR_UNCORR : Fld := ⟨.TIL_MEM_ERR, 32, 16⟩
def TIL_MEM_ERR_SPARES_USED : Fld := ⟨.TIL_MEM_ERR, 48, 4⟩
def TIL_MEM_ERR_TUNDISH_CE : Fld := ⟨.TIL_MEM_ERR, 52, 1⟩
def TIL_MEM_ERR_RISER_CE : Fld := ⟨.TIL_MEM_ERR, 53, 1⟩

/-! TIL_MEM_LAST (13_stored_data.md) -/
def TIL_MEM_LAST_ADDR : Fld := ⟨.TIL_MEM_LAST, 0, 24⟩
def TIL_MEM_LAST_SYNDROME : Fld := ⟨.TIL_MEM_LAST, 24, 7⟩
def TIL_MEM_LAST_PARITY : Fld := ⟨.TIL_MEM_LAST, 31, 1⟩
def TIL_MEM_LAST_UNCORR : Fld := ⟨.TIL_MEM_LAST, 32, 1⟩
def TIL_MEM_LAST_STORE : Fld := ⟨.TIL_MEM_LAST, 33, 2⟩

/-! TIL_REMAP (13_stored_data.md) -/
def TIL_REMAP_BANK : Fld := ⟨.TIL_REMAP, 0, 4⟩
def TIL_REMAP_LINE : Fld := ⟨.TIL_REMAP, 4, 10⟩
def TIL_REMAP_VALID : Fld := ⟨.TIL_REMAP, 14, 1⟩

/-! TIL_MEM_INJ (13_stored_data.md) -/
def TIL_MEM_INJ_FLIP : Fld := ⟨.TIL_MEM_INJ, 0, 13⟩
def TIL_MEM_INJ_BYTE : Fld := ⟨.TIL_MEM_INJ, 13, 6⟩
def TIL_MEM_INJ_ARM : Fld := ⟨.TIL_MEM_INJ, 19, 1⟩
def TIL_MEM_INJ_LINE : Fld := ⟨.TIL_MEM_INJ, 20, 14⟩

/-! STK_FETTLE (13_stored_data.md) -/
def STK_FETTLE_SWEEP : Fld := ⟨.STK_FETTLE, 0, 32⟩

/-! STK_INJ (13_stored_data.md) -/
def STK_INJ_CHANNEL : Fld := ⟨.STK_INJ, 0, 8⟩
def STK_INJ_SLOT : Fld := ⟨.STK_INJ, 8, 20⟩
def STK_INJ_GRANULE : Fld := ⟨.STK_INJ, 28, 6⟩
def STK_INJ_WORD : Fld := ⟨.STK_INJ, 34, 3⟩
def STK_INJ_POS_A : Fld := ⟨.STK_INJ, 37, 7⟩
def STK_INJ_POS_B : Fld := ⟨.STK_INJ, 44, 7⟩
def STK_INJ_ARM : Fld := ⟨.STK_INJ, 51, 1⟩

/-! STK_CH_ERR (13_stored_data.md) -/
def STK_CH_ERR_CORRECTED : Fld := ⟨.STK_CH_ERR, 0, 32⟩
def STK_CH_ERR_UNCORR : Fld := ⟨.STK_CH_ERR, 32, 16⟩
def STK_CH_ERR_ROWS_USED : Fld := ⟨.STK_CH_ERR, 48, 5⟩

/-! GLB_REC_CFG (14_failure.md) -/
def GLB_REC_CFG_AUTO : Fld := ⟨.GLB_REC_CFG, 0, 1⟩
def GLB_REC_CFG_RETEST : Fld := ⟨.GLB_REC_CFG, 1, 1⟩

/-! GLB_REC_SAVE (14_failure.md) -/
def GLB_REC_SAVE_ADDR : Fld := ⟨.GLB_REC_SAVE, 0, 42⟩
def GLB_REC_SAVE_PAGES : Fld := ⟨.GLB_REC_SAVE, 42, 22⟩

/-! GLB_REC_STAT (14_failure.md) -/
def GLB_REC_STAT_OPEN : Fld := ⟨.GLB_REC_STAT, 0, 1⟩
def GLB_REC_STAT_KIND : Fld := ⟨.GLB_REC_STAT, 1, 2⟩
def GLB_REC_STAT_FID : Fld := ⟨.GLB_REC_STAT, 3, 6⟩
def GLB_REC_STAT_PTILE : Fld := ⟨.GLB_REC_STAT, 9, 10⟩
def GLB_REC_STAT_INCIDENTS : Fld := ⟨.GLB_REC_STAT, 32, 32⟩

/-! GLB_REC_CTRL (14_failure.md) -/
def GLB_REC_CTRL_CLOSE : Fld := ⟨.GLB_REC_CTRL, 0, 1⟩

/-! FLD_STATE (14_failure.md) -/
def FLD_STATE_LOST : Fld := ⟨.FLD_STATE, 0, 1⟩
def FLD_STATE_CAUSE : Fld := ⟨.FLD_STATE, 1, 4⟩
def FLD_STATE_BYPASS_COL : Fld := ⟨.FLD_STATE, 5, 5⟩

/-! FLD_CLK (14_failure.md) -/
def FLD_CLK_SOURCE : Fld := ⟨.FLD_CLK, 0, 2⟩
def FLD_CLK_HOLDOVER : Fld := ⟨.FLD_CLK, 2, 1⟩
def FLD_CLK_LOCKED : Fld := ⟨.FLD_CLK, 3, 1⟩
def FLD_CLK_SWITCHES : Fld := ⟨.FLD_CLK, 16, 16⟩

/-! TIL_REC (14_failure.md) -/
def TIL_REC_PRIOR_FAULT : Fld := ⟨.TIL_REC, 0, 1⟩
def TIL_REC_LAST_FAULT : Fld := ⟨.TIL_REC, 8, 8⟩

/-! CFG_TYPE (15_images.md) -/
def CFG_TYPE_TYPE : Fld := ⟨.CFG_TYPE, 0, 48⟩
def CFG_TYPE_STEP : Fld := ⟨.CFG_TYPE, 48, 8⟩

/-! CFG_UNIT_ID (15_images.md) -/
def CFG_UNIT_ID_UNIT_ID : Fld := ⟨.CFG_UNIT_ID, 0, 64⟩

/-! CFG_ROOT (15_images.md) -/
def CFG_ROOT_HASH : Fld := ⟨.CFG_ROOT, 0, 64⟩

/-! CFG_STAGE_SRC (15_images.md) -/
def CFG_STAGE_SRC_ADDR : Fld := ⟨.CFG_STAGE_SRC, 0, 42⟩

/-! CFG_STAGE_CTRL (15_images.md) -/
def CFG_STAGE_CTRL_GO : Fld := ⟨.CFG_STAGE_CTRL, 0, 1⟩
def CFG_STAGE_CTRL_ABORT : Fld := ⟨.CFG_STAGE_CTRL, 1, 1⟩

/-! CFG_STAGE_STAT (15_images.md) -/
def CFG_STAGE_STAT_STATE : Fld := ⟨.CFG_STAGE_STAT, 0, 3⟩
def CFG_STAGE_STAT_ACTIVE_VALID : Fld := ⟨.CFG_STAGE_STAT, 3, 1⟩
def CFG_STAGE_STAT_STATUS : Fld := ⟨.CFG_STAGE_STAT, 16, 16⟩
def CFG_STAGE_STAT_BLOCKS : Fld := ⟨.CFG_STAGE_STAT, 32, 32⟩

/-! CFG_ADOPT (15_images.md) -/
def CFG_ADOPT_DOMAIN : Fld := ⟨.CFG_ADOPT, 0, 6⟩

/-! CFG_COMMIT (15_images.md) -/
def CFG_COMMIT_NEXT : Fld := ⟨.CFG_COMMIT, 0, 16⟩

/-! CFG_GEN (15_images.md) -/
def CFG_GEN_GEN : Fld := ⟨.CFG_GEN, 0, 16⟩
def CFG_GEN_REFUSED : Fld := ⟨.CFG_GEN, 16, 1⟩
def CFG_GEN_OWNED : Fld := ⟨.CFG_GEN, 17, 1⟩
def CFG_GEN_DISCARDS : Fld := ⟨.CFG_GEN, 32, 32⟩

/-! CFG_EPOCH (15_images.md) -/
def CFG_EPOCH_EPOCH : Fld := ⟨.CFG_EPOCH, 0, 16⟩
def CFG_EPOCH_FROM_STAGING : Fld := ⟨.CFG_EPOCH, 16, 1⟩

/-! CFG_MI_STAT (15_images.md) -/
def CFG_MI_STAT_STATE : Fld := ⟨.CFG_MI_STAT, 0, 2⟩
def CFG_MI_STAT_ALT : Fld := ⟨.CFG_MI_STAT, 2, 6⟩
def CFG_MI_STAT_STREAM_LO : Fld := ⟨.CFG_MI_STAT, 8, 8⟩
def CFG_MI_STAT_STREAM_HI : Fld := ⟨.CFG_MI_STAT, 16, 8⟩

/-! CFG_MI_FAMILY (15_images.md) -/
def CFG_MI_FAMILY_FAMILY : Fld := ⟨.CFG_MI_FAMILY, 0, 64⟩

/-! CFG_MI_LAYOUT (15_images.md) -/
def CFG_MI_LAYOUT_LAYOUT : Fld := ⟨.CFG_MI_LAYOUT, 0, 64⟩

/-! GLB_RESET (16_bringup.md) -/
def GLB_RESET_ARM : Fld := ⟨.GLB_RESET, 0, 1⟩
def GLB_RESET_WARM : Fld := ⟨.GLB_RESET, 1, 1⟩
def GLB_RESET_COLD : Fld := ⟨.GLB_RESET, 2, 1⟩

/-! GLB_START_STAT (16_bringup.md) -/
def GLB_START_STAT_SL : Fld := ⟨.GLB_START_STAT, 0, 2⟩
def GLB_START_STAT_PHASE : Fld := ⟨.GLB_START_STAT, 2, 3⟩
def GLB_START_STAT_FRAME : Fld := ⟨.GLB_START_STAT, 5, 1⟩
def GLB_START_STAT_IN_SERVICE : Fld := ⟨.GLB_START_STAT, 6, 8⟩
def GLB_START_STAT_LAST_START : Fld := ⟨.GLB_START_STAT, 14, 2⟩
def GLB_START_STAT_DISCARDED : Fld := ⟨.GLB_START_STAT, 16, 16⟩

/-! GLB_FLD_SLOW (16_bringup.md) -/
def GLB_FLD_SLOW_FIELDS : Fld := ⟨.GLB_FLD_SLOW, 0, 48⟩

/-! GLB_FLD_FULL (16_bringup.md) -/
def GLB_FLD_FULL_FIELDS : Fld := ⟨.GLB_FLD_FULL, 0, 48⟩

/-! GLB_TRESET (16_bringup.md) -/
def GLB_TRESET_X0 : Fld := ⟨.GLB_TRESET, 0, 8⟩
def GLB_TRESET_Y0 : Fld := ⟨.GLB_TRESET, 8, 8⟩
def GLB_TRESET_W : Fld := ⟨.GLB_TRESET, 16, 8⟩
def GLB_TRESET_H : Fld := ⟨.GLB_TRESET, 24, 8⟩
def GLB_TRESET_GO : Fld := ⟨.GLB_TRESET, 32, 1⟩
def GLB_TRESET_BUSY : Fld := ⟨.GLB_TRESET, 33, 1⟩
def GLB_TRESET_REFUSED : Fld := ⟨.GLB_TRESET, 34, 1⟩

/-! FLD_RESET (16_bringup.md) -/
def FLD_RESET_GO : Fld := ⟨.FLD_RESET, 0, 1⟩
def FLD_RESET_BUSY : Fld := ⟨.FLD_RESET, 1, 1⟩
def FLD_RESET_RESULT : Fld := ⟨.FLD_RESET, 2, 3⟩

/-! PRT_PORT_RESET (16_bringup.md) -/
def PRT_PORT_RESET_PORT : Fld := ⟨.PRT_PORT_RESET, 0, 6⟩
def PRT_PORT_RESET_KIND : Fld := ⟨.PRT_PORT_RESET, 6, 1⟩
def PRT_PORT_RESET_GO : Fld := ⟨.PRT_PORT_RESET, 7, 1⟩
def PRT_PORT_RESET_BUSY : Fld := ⟨.PRT_PORT_RESET, 8, 1⟩

/-! BRL_CTRL (17_brois.md) -/
def BRL_CTRL_ENABLE : Fld := ⟨.BRL_CTRL, 0, 1⟩
def BRL_CTRL_RETRAIN : Fld := ⟨.BRL_CTRL, 1, 1⟩
def BRL_CTRL_ALLOW_X8 : Fld := ⟨.BRL_CTRL, 2, 1⟩

/-! BRL_STAT (17_brois.md) -/
def BRL_STAT_STATE : Fld := ⟨.BRL_STAT, 0, 3⟩
def BRL_STAT_X8 : Fld := ⟨.BRL_STAT, 3, 1⟩
def BRL_STAT_HALF : Fld := ⟨.BRL_STAT, 4, 1⟩
def BRL_STAT_BAD_LANES : Fld := ⟨.BRL_STAT, 16, 16⟩
def BRL_STAT_C0_CREDITS : Fld := ⟨.BRL_STAT, 32, 7⟩
def BRL_STAT_RD_OUT : Fld := ⟨.BRL_STAT, 39, 9⟩

/-! BRL_ERR (17_brois.md) -/
def BRL_ERR_FEC_CORR : Fld := ⟨.BRL_ERR, 0, 16⟩
def BRL_ERR_REPLAYS : Fld := ⟨.BRL_ERR, 16, 16⟩
def BRL_ERR_RECOVERIES : Fld := ⟨.BRL_ERR, 32, 16⟩
def BRL_ERR_BAD_ACCESS : Fld := ⟨.BRL_ERR, 48, 8⟩
def BRL_ERR_BAD_PACKET : Fld := ⟨.BRL_ERR, 56, 8⟩

/-! BRL_HOSTERR (17_brois.md) -/
def BRL_HOSTERR_WR_REFUSED : Fld := ⟨.BRL_HOSTERR, 0, 16⟩
def BRL_HOSTERR_RD_REFUSED : Fld := ⟨.BRL_HOSTERR, 16, 16⟩
def BRL_HOSTERR_MSG_DROPPED : Fld := ⟨.BRL_HOSTERR, 32, 16⟩

/-! PRT_EPORT_CFG (18_ports.md) -/
def PRT_EPORT_CFG_MODE : Fld := ⟨.PRT_EPORT_CFG, 0, 2⟩
def PRT_EPORT_CFG_AN : Fld := ⟨.PRT_EPORT_CFG, 2, 1⟩
def PRT_EPORT_CFG_UNCORR_MAX : Fld := ⟨.PRT_EPORT_CFG, 3, 13⟩
def PRT_EPORT_CFG_GW_MAC : Fld := ⟨.PRT_EPORT_CFG, 16, 48⟩

/-! PRT_EPORT_STAT (18_ports.md) -/
def PRT_EPORT_STAT_STATE : Fld := ⟨.PRT_EPORT_STAT, 0, 2⟩
def PRT_EPORT_STAT_TEST_FAIL : Fld := ⟨.PRT_EPORT_STAT, 2, 1⟩
def PRT_EPORT_STAT_BAD : Fld := ⟨.PRT_EPORT_STAT, 16, 16⟩
def PRT_EPORT_STAT_FEC_UNCORR : Fld := ⟨.PRT_EPORT_STAT, 32, 32⟩

/-! PRT_MAC (18_ports.md) -/
def PRT_MAC_BASE : Fld := ⟨.PRT_MAC, 0, 48⟩

/-! PRT_ADDR4 (18_ports.md) -/
def PRT_ADDR4_ADDR : Fld := ⟨.PRT_ADDR4, 0, 64⟩

/-! PRT_ADDR6 (18_ports.md) -/
def PRT_ADDR6_ADDR : Fld := ⟨.PRT_ADDR6, 0, 64⟩

/-! PRT_NET_CFG (18_ports.md) -/
def PRT_NET_CFG_VID : Fld := ⟨.PRT_NET_CFG, 0, 12⟩
def PRT_NET_CFG_PCP0 : Fld := ⟨.PRT_NET_CFG, 12, 3⟩
def PRT_NET_CFG_PCP1 : Fld := ⟨.PRT_NET_CFG, 15, 3⟩
def PRT_NET_CFG_PCP3 : Fld := ⟨.PRT_NET_CFG, 18, 3⟩
def PRT_NET_CFG_CST_UDP : Fld := ⟨.PRT_NET_CFG, 32, 16⟩

/-! PRT_CST_CFG (18_ports.md) -/
def PRT_CST_CFG_RTO : Fld := ⟨.PRT_CST_CFG, 0, 16⟩
def PRT_CST_CFG_RETRIES : Fld := ⟨.PRT_CST_CFG, 16, 4⟩
def PRT_CST_CFG_ROCE_TMO : Fld := ⟨.PRT_CST_CFG, 20, 5⟩
def PRT_CST_CFG_RATE_STEP : Fld := ⟨.PRT_CST_CFG, 32, 8⟩

/-! PRT_CONN_BASE (18_ports.md) -/
def PRT_CONN_BASE_ADDR : Fld := ⟨.PRT_CONN_BASE, 0, 42⟩

/-! PRT_RET_BASE (18_ports.md) -/
def PRT_RET_BASE_ADDR : Fld := ⟨.PRT_RET_BASE, 0, 42⟩

/-! PRT_CONN_CTRL (18_ports.md) -/
def PRT_CONN_CTRL_CONN : Fld := ⟨.PRT_CONN_CTRL, 0, 14⟩
def PRT_CONN_CTRL_OPEN : Fld := ⟨.PRT_CONN_CTRL, 14, 1⟩
def PRT_CONN_CTRL_CLOSE : Fld := ⟨.PRT_CONN_CTRL, 15, 1⟩
def PRT_CONN_CTRL_STATE : Fld := ⟨.PRT_CONN_CTRL, 16, 2⟩

/-! PRT_RET_CTRL (18_ports.md) -/
def PRT_RET_CTRL_INVAL : Fld := ⟨.PRT_RET_CTRL, 0, 1⟩

/-! OPT_BIND (18_ports.md) -/
def OPT_BIND_VALID_TX : Fld := ⟨.OPT_BIND, 0, 1⟩
def OPT_BIND_VALID_RX : Fld := ⟨.OPT_BIND, 1, 1⟩
def OPT_BIND_REMOTE_BIND : Fld := ⟨.OPT_BIND, 2, 4⟩
def OPT_BIND_RX_STREAM : Fld := ⟨.OPT_BIND, 8, 8⟩
def OPT_BIND_SRC_X : Fld := ⟨.OPT_BIND, 16, 8⟩
def OPT_BIND_SRC_Y : Fld := ⟨.OPT_BIND, 24, 8⟩
def OPT_BIND_SRC_EV : Fld := ⟨.OPT_BIND, 32, 4⟩

/-! OPT_SUB (18_ports.md) -/
def OPT_SUB_STATE : Fld := ⟨.OPT_SUB, 0, 3⟩
def OPT_SUB_HALF : Fld := ⟨.OPT_SUB, 3, 1⟩
def OPT_SUB_DETOUR : Fld := ⟨.OPT_SUB, 4, 1⟩
def OPT_SUB_NO_DETOUR : Fld := ⟨.OPT_SUB, 5, 1⟩
def OPT_SUB_PEER_PORT : Fld := ⟨.OPT_SUB, 8, 6⟩
def OPT_SUB_PEER_SUB : Fld := ⟨.OPT_SUB, 14, 3⟩

/-! OPT_PEER (18_ports.md) -/
def OPT_PEER_UNIT_ID : Fld := ⟨.OPT_PEER, 0, 64⟩

/-! OPT_RL_CFG (18_ports.md) -/
def OPT_RL_CFG_THRESH : Fld := ⟨.OPT_RL_CFG, 0, 8⟩
def OPT_RL_CFG_NOW : Fld := ⟨.OPT_RL_CFG, 8, 1⟩
def OPT_RL_CFG_PERIOD : Fld := ⟨.OPT_RL_CFG, 32, 32⟩

/-! OPT_RL (18_ports.md) -/
def OPT_RL_RL : Fld := ⟨.OPT_RL, 0, 8⟩
def OPT_RL_DIRTY : Fld := ⟨.OPT_RL, 8, 1⟩
def OPT_RL_RX_POWER : Fld := ⟨.OPT_RL, 16, 16⟩

/-! OPT_ERR (18_ports.md) -/
def OPT_ERR_BIND : Fld := ⟨.OPT_ERR, 0, 16⟩
def OPT_ERR_OVERSIZE : Fld := ⟨.OPT_ERR, 16, 16⟩
def OPT_ERR_REPLAYS : Fld := ⟨.OPT_ERR, 32, 16⟩

/-! PWR_IN (19_power_ageing.md) -/
def PWR_IN_VIN : Fld := ⟨.PWR_IN, 0, 16⟩
def PWR_IN_IIN : Fld := ⟨.PWR_IN, 16, 16⟩
def PWR_IN_PIN : Fld := ⟨.PWR_IN, 32, 16⟩
def PWR_IN_STAGE : Fld := ⟨.PWR_IN, 48, 3⟩
def PWR_IN_BLADES_OK : Fld := ⟨.PWR_IN, 51, 5⟩

/-! PWR_CFG (19_power_ageing.md) -/
def PWR_CFG_CAP : Fld := ⟨.PWR_CFG, 0, 16⟩
def PWR_CFG_M_LO : Fld := ⟨.PWR_CFG, 16, 8⟩
def PWR_CFG_M_HI : Fld := ⟨.PWR_CFG, 24, 8⟩
def PWR_CFG_M_CRIT : Fld := ⟨.PWR_CFG, 32, 8⟩
def PWR_CFG_INLET_MAX : Fld := ⟨.PWR_CFG, 40, 10⟩
def PWR_CFG_FLOW_MIN : Fld := ⟨.PWR_CFG, 50, 10⟩

/-! PWR_COOL (19_power_ageing.md) -/
def PWR_COOL_INLET : Fld := ⟨.PWR_COOL, 0, 16⟩
def PWR_COOL_OUTLET : Fld := ⟨.PWR_COOL, 16, 16⟩
def PWR_COOL_FLOW : Fld := ⟨.PWR_COOL, 32, 16⟩
def PWR_COOL_STACK_MAX : Fld := ⟨.PWR_COOL, 48, 16⟩

/-! PWR_BLADE (19_power_ageing.md) -/
def PWR_BLADE_CURRENT : Fld := ⟨.PWR_BLADE, 0, 12⟩
def PWR_BLADE_GOOD : Fld := ⟨.PWR_BLADE, 12, 1⟩

/-! PWR_FLD_RAIL (19_power_ageing.md) -/
def PWR_FLD_RAIL_V_CORE : Fld := ⟨.PWR_FLD_RAIL, 0, 16⟩
def PWR_FLD_RAIL_I_CORE : Fld := ⟨.PWR_FLD_RAIL, 16, 16⟩
def PWR_FLD_RAIL_P : Fld := ⟨.PWR_FLD_RAIL, 32, 16⟩
def PWR_FLD_RAIL_HALVED : Fld := ⟨.PWR_FLD_RAIL, 48, 1⟩
def PWR_FLD_RAIL_STRETCH : Fld := ⟨.PWR_FLD_RAIL, 49, 2⟩
def PWR_FLD_RAIL_HELD_OFF : Fld := ⟨.PWR_FLD_RAIL, 51, 1⟩
def PWR_FLD_RAIL_GOOD_SENS : Fld := ⟨.PWR_FLD_RAIL, 52, 3⟩

/-! PWR_FLD_TJ (19_power_ageing.md) -/
def PWR_FLD_TJ_TJ : Fld := ⟨.PWR_FLD_TJ, 0, 64⟩

/-! PWR_FLD_PLAN (19_power_ageing.md) -/
def PWR_FLD_PLAN_V_PLAN : Fld := ⟨.PWR_FLD_PLAN, 0, 16⟩
def PWR_FLD_PLAN_MARGIN : Fld := ⟨.PWR_FLD_PLAN, 16, 16⟩
def PWR_FLD_PLAN_BIN : Fld := ⟨.PWR_FLD_PLAN, 32, 2⟩
def PWR_FLD_PLAN_WEAR_HALVED : Fld := ⟨.PWR_FLD_PLAN, 34, 1⟩
def PWR_FLD_PLAN_GOOD_GAUGES : Fld := ⟨.PWR_FLD_PLAN, 35, 5⟩
def PWR_FLD_PLAN_PLANS : Fld := ⟨.PWR_FLD_PLAN, 40, 24⟩

/-! PWR_FLD_T0 (19_power_ageing.md) -/
def PWR_FLD_T0_TICK : Fld := ⟨.PWR_FLD_T0, 0, 64⟩

/-! PWR_GAUGE (19_power_ageing.md) -/
def PWR_GAUGE_FMAX : Fld := ⟨.PWR_GAUGE, 0, 12⟩
def PWR_GAUGE_PTILE : Fld := ⟨.PWR_GAUGE, 12, 10⟩
def PWR_GAUGE_GOOD : Fld := ⟨.PWR_GAUGE, 22, 1⟩
def PWR_GAUGE_SUBST : Fld := ⟨.PWR_GAUGE, 23, 1⟩

/-! LIF_CALENDAR (19_power_ageing.md) -/
def LIF_CALENDAR_SECONDS : Fld := ⟨.LIF_CALENDAR, 0, 64⟩

/-! LIF_CAL_TICK (19_power_ageing.md) -/
def LIF_CAL_TICK_TICK : Fld := ⟨.LIF_CAL_TICK, 0, 64⟩

/-! LIF_STAT (19_power_ageing.md) -/
def LIF_STAT_POWER_ON : Fld := ⟨.LIF_STAT, 0, 40⟩
def LIF_STAT_COLD_STARTS : Fld := ⟨.LIF_STAT, 40, 24⟩

/-! LIF_SNAP (19_power_ageing.md) -/
def LIF_SNAP_SEQ : Fld := ⟨.LIF_SNAP, 0, 48⟩
def LIF_SNAP_NOW : Fld := ⟨.LIF_SNAP, 48, 1⟩
def LIF_SNAP_FAILED : Fld := ⟨.LIF_SNAP, 49, 1⟩

/-! LIF_LB (19_power_ageing.md) -/
def LIF_LB_FOUND : Fld := ⟨.LIF_LB, 0, 1⟩
def LIF_LB_CAUSE : Fld := ⟨.LIF_LB, 1, 3⟩
def LIF_LB_LAST_BREATHS : Fld := ⟨.LIF_LB, 32, 32⟩

/-! GLB_ELOG_SUPP (20_register_map.md) -/
def GLB_ELOG_SUPP_COUNT : Fld := ⟨.GLB_ELOG_SUPP, 0, 32⟩
def GLB_ELOG_SUPP_FIRST : Fld := ⟨.GLB_ELOG_SUPP, 32, 16⟩
def GLB_ELOG_SUPP_LAST : Fld := ⟨.GLB_ELOG_SUPP, 48, 16⟩

/-! FLD_ELOG_SUPP (20_register_map.md) -/
def FLD_ELOG_SUPP_COUNT : Fld := ⟨.FLD_ELOG_SUPP, 0, 32⟩
def FLD_ELOG_SUPP_FIRST : Fld := ⟨.FLD_ELOG_SUPP, 32, 16⟩
def FLD_ELOG_SUPP_LAST : Fld := ⟨.FLD_ELOG_SUPP, 48, 16⟩

/-! STK_ELOG_SUPP (20_register_map.md) -/
def STK_ELOG_SUPP_COUNT : Fld := ⟨.STK_ELOG_SUPP, 0, 32⟩
def STK_ELOG_SUPP_FIRST : Fld := ⟨.STK_ELOG_SUPP, 32, 16⟩
def STK_ELOG_SUPP_LAST : Fld := ⟨.STK_ELOG_SUPP, 48, 16⟩

/-! PRT_ELOG_SUPP (20_register_map.md) -/
def PRT_ELOG_SUPP_COUNT : Fld := ⟨.PRT_ELOG_SUPP, 0, 32⟩
def PRT_ELOG_SUPP_FIRST : Fld := ⟨.PRT_ELOG_SUPP, 32, 16⟩
def PRT_ELOG_SUPP_LAST : Fld := ⟨.PRT_ELOG_SUPP, 48, 16⟩

/-! CFG_ELOG_SUPP (20_register_map.md) -/
def CFG_ELOG_SUPP_COUNT : Fld := ⟨.CFG_ELOG_SUPP, 0, 32⟩
def CFG_ELOG_SUPP_FIRST : Fld := ⟨.CFG_ELOG_SUPP, 32, 16⟩
def CFG_ELOG_SUPP_LAST : Fld := ⟨.CFG_ELOG_SUPP, 48, 16⟩

/-! GLB_ELOG_UNDEC (20_register_map.md) -/
def GLB_ELOG_UNDEC_UNDECODED : Fld := ⟨.GLB_ELOG_UNDEC, 0, 32⟩
def GLB_ELOG_UNDEC_OFFLINE : Fld := ⟨.GLB_ELOG_UNDEC, 32, 16⟩

/-! GLB_ELOG_ADDR (20_register_map.md) -/
def GLB_ELOG_ADDR_ADDR : Fld := ⟨.GLB_ELOG_ADDR, 0, 48⟩
def GLB_ELOG_ADDR_WRITE : Fld := ⟨.GLB_ELOG_ADDR, 48, 1⟩
def GLB_ELOG_ADDR_SHADOW : Fld := ⟨.GLB_ELOG_ADDR, 49, 1⟩
def GLB_ELOG_ADDR_OFFLINE : Fld := ⟨.GLB_ELOG_ADDR, 50, 1⟩
def GLB_ELOG_ADDR_LINK : Fld := ⟨.GLB_ELOG_ADDR, 51, 1⟩

/-! FLD_ELOG_DISC (20_register_map.md) -/
def FLD_ELOG_DISC_LINK_FLITS : Fld := ⟨.FLD_ELOG_DISC, 0, 16⟩
def FLD_ELOG_DISC_RESET_PKTS : Fld := ⟨.FLD_ELOG_DISC, 16, 16⟩
def FLD_ELOG_DISC_FENCED_POUR : Fld := ⟨.FLD_ELOG_DISC, 32, 16⟩
def FLD_ELOG_DISC_DROPPED_HALF : Fld := ⟨.FLD_ELOG_DISC, 48, 16⟩

/-! STK_ELOG_DISC (20_register_map.md) -/
def STK_ELOG_DISC_NOT_PRESENT : Fld := ⟨.STK_ELOG_DISC, 0, 32⟩
def STK_ELOG_DISC_POISONED : Fld := ⟨.STK_ELOG_DISC, 32, 32⟩

/-! PRT_ELOG_DISC (20_register_map.md) -/
def PRT_ELOG_DISC_UNWRITABLE : Fld := ⟨.PRT_ELOG_DISC, 0, 16⟩
def PRT_ELOG_DISC_STALE_GEN : Fld := ⟨.PRT_ELOG_DISC, 16, 16⟩
def PRT_ELOG_DISC_LATE_RESP : Fld := ⟨.PRT_ELOG_DISC, 32, 16⟩
def PRT_ELOG_DISC_RET_INVALID : Fld := ⟨.PRT_ELOG_DISC, 48, 16⟩

end F

end Sys2Proof.Machine
end

