-- ==== Sys2Proof/Machine/Numbers.lean ====
section
/-! DEFINITION. The element formats (R72, R88 to R91), the exact values they stand for, the rounding modes and the
overflow rules (R102 to R107), and the FP32 arithmetic every unit shares (R97, R99, R106, R109, R187). -/
namespace Sys2Proof.Machine

/-- An exact value: a NaN, an infinity, or (−1)^neg × m × 2^e. A zero keeps its sign. -/
inductive Num where
  | nan
  | inf (neg : Bool)
  | fin (neg : Bool) (m : Nat) (e : Int)
  deriving DecidableEq, Repr

/-- Arithmetic flags in the bit order of TIL_FLAGS (R113). -/
abbrev Flags := BitVec 4
/-- INVALID, OVERFLOW, NAN_LOST and SATURATED of R113. -/
def flNone : Flags := 0
def flInvalid : Flags := 1
def flOverflow : Flags := 2
def flNanLost : Flags := 4
def flSaturated : Flags := 8

/-- Width in bits of the element format with code `f` (R88). -/
def fmtWidth (f : Nat) : Nat :=
  match f with
  | 0 => 32 | 1 => 16 | 2 => 16 | 3 => 8 | 4 => 8 | 5 => 6 | 6 => 6 | 7 => 4 | 8 => 8 | _ => 32

/-- Mantissa bits (R88); integers have none. -/
def fmtMant (f : Nat) : Nat :=
  match f with
  | 0 => 23 | 1 => 7 | 2 => 10 | 3 => 3 | 4 => 2 | 5 => 2 | 6 => 3 | 7 => 1 | _ => 0

/-- Exponent bias (R88). -/
def fmtBias (f : Nat) : Int :=
  match f with
  | 0 => 127 | 1 => 127 | 2 => 15 | 3 => 7 | 4 => 15 | 5 => 3 | 6 => 1 | 7 => 1 | _ => 0

/-- INT8 and INT32 (R72). -/
def fmtIsInt (f : Nat) : Bool := f == 8 || f == 9

/-- The formats with an infinity as IEEE 754 lays it out (R88). -/
def fmtHasInf (f : Nat) : Bool := f == 0 || f == 1 || f == 2 || f == 4

/-- The canonical NaN of a format that has one (R92). -/
def fmtNan (f : Nat) : Option Nat :=
  match f with
  | 0 => some 0x7FC00000 | 1 => some 0x7FC0 | 2 => some 0x7E00 | 3 => some 0x7F | 4 => some 0x7F | _ => none

/-- Exponent bits of a floating-point format. -/
def fmtExp (f : Nat) : Nat := fmtWidth f - 1 - fmtMant f

/-- The pattern of the largest finite value, sign clear (R88). -/
def fmtMaxBits (f : Nat) : Nat :=
  match f with
  | 0 => 0x7F7FFFFF | 1 => 0x7F7F | 2 => 0x7BFF | 3 => 0x7E | 4 => 0x7B | 5 => 0x1F | 6 => 0x1F | 7 => 0x7 | 8 => 0x7F
  | _ => 0x7FFFFFFF

/-- The value that the pattern `b` of format `f` stands for (R88, R91). -/
def decodeFmt (f b : Nat) : Num :=
  let w := fmtWidth f
  if fmtIsInt f then
    let v := b % 2 ^ w
    if v < 2 ^ (w - 1) then .fin false v 0 else .fin true (2 ^ w - v) 0
  else
    let mb := fmtMant f
    let neg := (b / 2 ^ (w - 1)) % 2 == 1
    let x := (b / 2 ^ mb) % 2 ^ fmtExp f
    let m := b % 2 ^ mb
    let top := 2 ^ fmtExp f - 1
    if x == top && fmtHasInf f then (if m == 0 then .inf neg else .nan)
    else if f == 3 && x == top && m == 7 then .nan
    else if x == 0 then .fin neg m (1 - fmtBias f - mb)
    else .fin neg (m + 2 ^ mb) (x - fmtBias f - mb)

/-- A value is zero. -/
def Num.isZero : Num → Bool
  | .fin _ m _ => m == 0
  | _ => false

/-- A value is finite. -/
def Num.isFin : Num → Bool
  | .fin .. => true
  | _ => false

/-- A value is a NaN. -/
def Num.isNan : Num → Bool
  | .nan => true
  | _ => false

/-- The sign of a value is inverted. -/
def Num.negate : Num → Num
  | .nan => .nan
  | .inf n => .inf !n
  | .fin n m e => .fin (!n) m e

/-- m × 2^e as an integer multiple of 2^g, for g ≤ e. -/
def shiftTo (m : Nat) (e g : Int) : Nat := m <<< (e - g).toNat

/-- Compare m1 × 2^e1 with m2 × 2^e2. -/
def magLt (m1 : Nat) (e1 : Int) (m2 : Nat) (e2 : Int) : Bool :=
  let g := min e1 e2
  shiftTo m1 e1 g < shiftTo m2 e2 g

/-- Exact sum (R106): a zero result is +0 unless both addends are −0. -/
def Num.add : Num → Num → Num
  | .nan, _ => .nan
  | _, .nan => .nan
  | .inf a, .inf b => if a == b then .inf a else .nan
  | .inf a, .fin .. => .inf a
  | .fin .., .inf b => .inf b
  | .fin n1 m1 e1, .fin n2 m2 e2 =>
    let g := min e1 e2
    let a : Int := if n1 then -(shiftTo m1 e1 g : Int) else shiftTo m1 e1 g
    let b : Int := if n2 then -(shiftTo m2 e2 g : Int) else shiftTo m2 e2 g
    let s := a + b
    if s == 0 then .fin (m1 == 0 && m2 == 0 && n1 && n2) 0 g
    else .fin (s < 0) s.natAbs g

/-- Exact product; an infinity times a zero is a NaN (R99). -/
def Num.mul : Num → Num → Num
  | .nan, _ => .nan
  | _, .nan => .nan
  | .inf a, .inf b => .inf (a != b)
  | .inf a, .fin n m _ => if m == 0 then .nan else .inf (a != n)
  | .fin n m _, .inf b => if m == 0 then .nan else .inf (n != b)
  | .fin n1 m1 e1, .fin n2 m2 e2 => .fin (n1 != n2) (m1 * m2) (e1 + e2)

/-- A value times 2^k. -/
def Num.scale (k : Int) : Num → Num
  | .fin n m e => .fin n m (e + k)
  | x => x

/-- The value of an E8M0 block scale as a power of two, none for NaN (R90). -/
def e8m0 (x : Nat) : Option Int := if x % 256 == 255 then none else some ((x % 256 : Nat) - 127)

/-- Rounding modes of R74 and R103; stochastic carries its 4 random bits (R107). -/
inductive RMode where
  | nearest | zero | down | up | stoch (r : Nat)
  deriving DecidableEq, Repr

/-- Whether the magnitude n0 + rem / 2^sh rounds away from zero (R103, R107). -/
def roundsUp (mode : RMode) (neg : Bool) (n0 rem sh : Nat) : Bool :=
  match mode with
  | .nearest => decide (2 ^ sh < 2 * rem) || (2 * rem == 2 ^ sh && n0 % 2 == 1)
  | .zero => false
  | .down => neg && rem != 0
  | .up => !neg && rem != 0
  | .stoch r => decide (r < (32 * rem / 2 ^ sh + 1) / 2)

/-- floor (log2 (m × 2^e)) for m ≠ 0. -/
def floorLog2 (m : Nat) (e : Int) : Int := Nat.log2 m + e

/-- The spacing exponent of format `f`'s grid at m × 2^e, with unbounded exponent and subnormals (R103). -/
def gridExp (f m : Nat) (e : Int) : Int :=
  if fmtIsInt f then 0 else max (floorLog2 m e - fmtMant f) (1 - fmtBias f - fmtMant f)

/-- m × 2^e rounded to the grid of `f`: a multiple n of 2^q. -/
def roundGrid (f : Nat) (mode : RMode) (neg : Bool) (m : Nat) (e : Int) : Nat × Int :=
  if m == 0 then (0, 1 - fmtBias f - fmtMant f) else
    let q := gridExp f m e
    if q ≤ e then (shiftTo m e q, q)
    else
      let sh := (q - e).toNat
      let n0 := m >>> sh
      let rem := m % 2 ^ sh
      (if roundsUp mode neg n0 rem sh then n0 + 1 else n0, q)

/-- The pattern of (−1)^neg × n × 2^q, a value on the grid within range. -/
def encodeGrid (f : Nat) (neg : Bool) (n : Nat) (q : Int) : Nat :=
  if fmtIsInt f then (if neg then (2 ^ fmtWidth f - n) % 2 ^ fmtWidth f else n)
  else
    let mb := fmtMant f
    let s := if neg then 2 ^ (fmtWidth f - 1) else 0
    let p := if n ≥ 2 ^ (mb + 1) then (n / 2, q + 1) else (n, q)
    if p.1 < 2 ^ mb then s + p.1
    else s + (p.2 + fmtBias f + mb).toNat * 2 ^ mb + (p.1 - 2 ^ mb)

/-- Whether n × 2^q lies outside the range of `f` (R104). -/
def outOfRange (f : Nat) (neg : Bool) (n : Nat) (q : Int) : Bool :=
  if fmtIsInt f then
    let v := shiftTo n (max q 0) 0
    if neg then decide (2 ^ (fmtWidth f - 1) < v) else decide (2 ^ (fmtWidth f - 1) ≤ v)
  else
    match decodeFmt f (fmtMaxBits f) with
    | .fin _ m e => magLt m e n q
    | _ => false

/-- ±Max, or an integer limit, of format `f` (R104). -/
def limitBits (f : Nat) (neg : Bool) : Nat :=
  if fmtIsInt f then (if neg then 2 ^ (fmtWidth f - 1) else 2 ^ (fmtWidth f - 1) - 1)
  else (if neg then 2 ^ (fmtWidth f - 1) else 0) + fmtMaxBits f

/-- The pattern of an infinity of a format that has one. -/
def infBits (f : Nat) (neg : Bool) : Nat :=
  (if neg then 2 ^ (fmtWidth f - 1) else 0) + (2 ^ fmtExp f - 1) * 2 ^ fmtMant f

/-- The overflow result with MODE bit 3 clear (the table of R104). -/
def overflowBits (f : Nat) (mode : RMode) (neg : Bool) : Nat :=
  let away := match mode with
    | .nearest => true | .stoch _ => true | .zero => false | .down => neg | .up => !neg
  if !away then limitBits f neg
  else if fmtHasInf f then infBits f neg
  else if f == 3 then 0x7F
  else limitBits f neg

/-- One conversion of an exact value to format `f`: the pattern and the flags it sets (R102 to R107). -/
def convert (f : Nat) (mode : RMode) (sat : Bool) (x : Num) : Nat × Flags :=
  match x with
  | .nan => match fmtNan f with
    | some b => (b, flNone)
    | none => (0, flNanLost)
  | .inf neg =>
    if sat then (limitBits f neg, flOverflow ||| flSaturated)
    else
      let b := overflowBits f mode neg
      (b, if fmtHasInf f && b == infBits f neg then flNone else flOverflow)
  | .fin neg m e =>
    let r := roundGrid f mode neg m e
    if outOfRange f neg r.1 r.2 then
      if sat then (limitBits f neg, flOverflow ||| flSaturated) else (overflowBits f mode neg, flOverflow)
    else (encodeGrid f neg r.1 r.2, flNone)

/-- The value of an FP32 pattern. -/
def f32 (b : W32) : Num := decodeFmt 0 b.toNat

/-- Round an exact value to FP32, nearest-even (R97). -/
def toF32 (x : Num) : W32 := BitVec.ofNat 32 (convert 0 .nearest false x).1

/-- The canonical FP32 NaN (R92). -/
def f32Nan : W32 := 0x7FC00000
/-- +1 in FP32. -/
def f32One : W32 := 0x3F800000

/-- The flags of a step that turned operands `xs` into `y` (R99, R109): a NaN created from operands that held none,
or an infinity created from finite ones. -/
def stepFlags (xs : List Num) (y : Num) : Flags :=
  match y with
  | .nan => if xs.any Num.isNan then flNone else flInvalid
  | .inf _ => if xs.all Num.isFin then flOverflow else flNone
  | _ => flNone

/-- One rounded FP32 step with exact result `x` from operands `xs`. -/
def roundStep (xs : List Num) (x : Num) : W32 × Flags :=
  let y := toF32 x
  (y, stepFlags xs (f32 y))

/-- acc ← round(acc + term) (R97, R187). -/
def addTerm (acc : W32) (t : Num) : W32 × Flags := roundStep [f32 acc, t] ((f32 acc).add t)

/-- FP32 addition, subtraction and multiplication (R106, R109). -/
def addF32 (a b : W32) : W32 × Flags := addTerm a (f32 b)
def subF32 (a b : W32) : W32 × Flags := roundStep [f32 a, f32 b] ((f32 a).add (f32 b).negate)
def mulF32 (a b : W32) : W32 × Flags := roundStep [f32 a, f32 b] ((f32 a).mul (f32 b))
/-- Fused multiply-add, rounded once (R109). -/
def fmaF32 (a b c : W32) : W32 × Flags :=
  roundStep [f32 a, f32 b, f32 c] (((f32 a).mul (f32 b)).add (f32 c))

/-- The order of R111 on values: −0 below +0; NaNs are handled by the callers. -/
def numLt (x y : Num) : Bool :=
  match x, y with
  | .inf a, .inf b => a && !b
  | .inf a, .fin .. => a
  | .fin .., .inf b => !b
  | .fin n1 m1 e1, .fin n2 m2 e2 =>
    if m1 == 0 && m2 == 0 then n1 && !n2
    else if m1 == 0 then !n2
    else if m2 == 0 then n1
    else if n1 != n2 then n1
    else if n1 then magLt m2 e2 m1 e1 else magLt m1 e1 m2 e2
  | _, _ => false

/-- Less as a value: −0 and +0 are equal. -/
def numBelow (x y : Num) : Bool := numLt x y && !(x.isZero && y.isZero)

/-- Maximum and minimum of R111: NaN when either value is NaN. -/
def maxF32 (a b : W32) : W32 :=
  if (f32 a).isNan || (f32 b).isNan then f32Nan else if numLt (f32 a) (f32 b) then b else a
def minF32 (a b : W32) : W32 :=
  if (f32 a).isNan || (f32 b).isNan then f32Nan else if numLt (f32 b) (f32 a) then b else a

/-- Magnitude of a value, of a NaN the NaN. -/
def absF32 (a : W32) : W32 := if (f32 a).isNan then f32Nan else a &&& 0x7FFFFFFF

/-- An integer as an FP32 pattern, nearest-even. -/
def intF32 (v : Int) : W32 := toF32 (.fin (v < 0) v.natAbs 0)

/-- The quotient of two FP32 values, rounded once, nearest-even (R354). -/
def divF32 (a b : W32) : W32 :=
  match f32 a, f32 b with
  | .nan, _ => f32Nan
  | _, .nan => f32Nan
  | .inf _, .inf _ => f32Nan
  | .inf n, .fin k _ _ => BitVec.ofNat 32 (infBits 0 (n != k))
  | .fin n _ _, .inf k => toF32 (.fin (n != k) 0 0)
  | .fin n m e, .fin k m2 e2 =>
    if m2 == 0 then (if m == 0 then f32Nan else BitVec.ofNat 32 (infBits 0 (n != k)))
    else
      let num := m * 2 ^ 80
      toF32 (.fin (n != k) (2 * (num / m2) + (if num % m2 == 0 then 0 else 1)) (e - e2 - 81))

/-- Little-endian packing of R89: element `i` of width `w` in a byte list read as one number. -/
def packBits (w : Nat) : List Nat → Nat
  | [] => 0
  | x :: xs => (x % 2 ^ w) + 2 ^ w * packBits w xs

/-- The low `n` bytes of a number, least significant first. -/
def bytesOf (v : Nat) : Nat → List Byte
  | 0 => []
  | n + 1 => BitVec.ofNat 8 v :: bytesOf (v / 256) n

/-- A byte list as a little-endian number (R9). -/
def leNat : List Byte → Nat
  | [] => 0
  | b :: bs => b.toNat + 256 * leNat bs

/-- Elements packed into bytes, the last byte whole with zero bits above the last element (R89). -/
def packElems (w : Nat) (xs : List Nat) : List Byte := bytesOf (packBits w xs) ((w * xs.length + 7) / 8)

/-- The first `n` elements of width `w` of a byte list (R89). -/
def unpackElems (w n : Nat) (bs : List Byte) : List Nat :=
  let v := leNat bs
  (List.range n).map (fun i => (v >>> (w * i)) % 2 ^ w)

end Sys2Proof.Machine
end

