-- ==== Sys2Proof/Machine/BroisState.lean ====
section
/-! DEFINITION. The state of a Brois link beside BRL_* (R471 to R481): flits kept for replay, packets that wait for
room, sequence numbers, the TAGs of executed window writes. The model puts one packet in one flit (log entry 16). -/
namespace Sys2Proof.Machine

/-- A packet of the module (R474). -/
inductive BPkt where
  | winRdata (tag rstat : Nat) (data : Word)
  | winAck (tag rstat : Nat)
  | memRd (tag addr : Nat)
  | memWr (tag addr : Nat) (data : List Byte)
  | msgWr (tag addr : Nat) (data : W32)
  deriving DecidableEq, Repr

/-- A flit in the replay buffer (R472). -/
structure TxFlit where
  seq : Nat
  pkt : BPkt
  since : Nat
  tries : Nat := 0
  deriving DecidableEq, Repr

/-- One link. -/
structure BLink where
  txSeq : Nat := 0
  unacked : List TxFlit := []
  out : List BPkt := []
  rxNext : Nat := 0
  nak : Bool := false
  executed : List Nat := []
  c3 : Nat := 0
  fails : Nat := 0
  since : Nat := 0
  wasLost : Bool := false
  tried : Option Nat := none
  deriving DecidableEq, Repr

end Sys2Proof.Machine
end

