-- ==== Sys2Proof/Machine/CmdState.lean ====
section
/-! DEFINITION. The state of the command unit beside its registers: queues, commands in flight, increments and event
records on their way, accesses to companion memory that wait for an answer (R146 to R181, R478). -/
namespace Sys2Proof.Machine

/-- A command of a ring: its number and its 64 bytes (R147, R155). `bad` is the status with which a command completes whose
bytes the companion did not deliver (R479). -/
structure Cmd where
  idx : W32
  bytes : List Byte
  run : Bool := false
  bad : Nat := 0
  deriving DecidableEq, Repr

/-- An admitted and not completed paced request (R175, R176). `kept` follows R403: 1 kept by a field loss, 2 to be read
again, 3 being read, 4 read. -/
structure PacedReq where
  seq : W32
  idx : W32
  tick : Nat
  bytes : List Byte
  kept : Nat := 0
  deriving DecidableEq, Repr

/-- A RUN in flight: the tiles that have neither halted nor been reset, and whether one was reset (R158, R462). -/
structure RunJob where
  idx : W32
  left : List Nat
  tiles : List Nat
  anyReset : Bool := false
  deriving DecidableEq, Repr

/-- One command queue beside its registers. -/
structure CmdQueue where
  fetched : List Cmd := []
  inflight : List Cmd := []
  since : Option Nat := none
  admissions : W32 := 0
  lastAdmit : Option Nat := none
  respBase : W32 := 0
  requests : List PacedReq := []
  runs : List RunJob := []
  deriving DecidableEq, Repr

/-- An event increment on its way to a module counter (R169). -/
structure Inc where
  ev : Nat
  amount : W32
  deriving DecidableEq, Repr

/-- An event record as R178 lays it out, without PHASE. -/
structure EvRec where
  status : Nat
  kind : Nat
  unit : Nat
  ptile : Nat
  cause : Nat
  stamp : Nat
  seq : Nat
  d0 : Nat
  d1 : Nat
  deriving DecidableEq, Repr

/-- What a write to companion memory carries, and so what its acknowledgement releases (R160, R178, R181). -/
inductive WriteFor where
  | completion (q : Nat) (signal : Option Nat) (irq : Bool)
  | record (tail : Nat) (irq : Bool)
  | interrupt
  | data
  deriving DecidableEq, Repr

/-- A write to companion memory that has not been acknowledged (R478). -/
structure CompWrite where
  tag : Nat
  link : Nat
  addr : Nat
  data : List Byte
  what : WriteFor
  deriving DecidableEq, Repr

/-- What a read of companion memory is for. -/
inductive ReadFor where
  | command (q : Nat) (idx : W32)
  | readmit (q : Nat) (idx : W32)
  deriving DecidableEq, Repr

/-- A read of companion memory that has not been answered (R479). -/
structure CompRead where
  tag : Nat
  link : Nat
  addr : Nat
  bytes : Nat
  what : ReadFor
  deriving DecidableEq, Repr

/-- The command unit. DESIGN CHOICE (log entry 125): `served` is 63 at reset, so that the round-robin of R152 begins at queue 0. -/
structure CmdUnit where
  queues : Assoc CmdQueue := []
  served : Nat := 63
  incs : List Inc := []
  records : List EvRec := []
  heldRecs : List EvRec := []
  waitRecs : List EvRec := []
  seqs : Assoc Nat := []
  writes : List CompWrite := []
  reads : List CompRead := []
  nextTag : Nat := 0
  ringTail : W32 := 0
  deriving DecidableEq, Repr

end Sys2Proof.Machine
end

