-- ==== Sys2Proof/Machine/CollState.lean ====
section
/-! DEFINITION. The state of collective operations: channels, waits, adders, the early pool, the abort table, re-forms under
way (chapters Gradient Reduction and Collective Operations). -/
namespace Sys2Proof.Machine

/-- How a pennant arrived: edge port, address of the hop's other end and PSN; or field and sublink. -/
inductive Via where
  | edge (p : Nat) (src : Nat) (psn : W32)
  | surface (f k : Nat)
  deriving DecidableEq, Repr

/-- A block of 64 elements as an adder sees it (R283, R285); none is the NaN code. `misfit`: the E-map does not match the payload's
length (R286). -/
structure Block where
  scale : Nat
  residue : Nat
  clips : Nat := 0
  nan : Bool := false
  last : Bool := false
  resfail : Bool := false
  wide : Bool := false
  scalefail : Bool := false
  misfit : Bool := false
  seq : Nat := 0
  expOrRank : Nat := 0
  elems : List (Option Int)
  deriving DecidableEq, Repr

/-- The C1 credit or input buffer space of a pennant, which its last block gives back (R294): the way it came, its bytes. -/
abbrev Credit := Option (Via × Nat)

/-- A block on its way into an adder: channel, segment, sending member, and the lowest rank and contributors of its
stream (R293). -/
structure InBlock where
  chan : Nat
  segment : Nat
  sender : Nat
  low : Nat
  contrib : Nat
  block : Block
  credit : Credit := none
  deriving DecidableEq, Repr

/-- An input stream of an adder: the block it expects next and the blocks it holds (R294). -/
structure RedIn where
  chan : Nat
  segment : Nat
  sender : Nat
  low : Nat
  contrib : Nat
  next : Nat := 0
  held : List (Block × Credit) := []
  deriving DecidableEq, Repr

/-- An adder: 0 to 31 of an edge port, 0x100 + fid of an optical engine, 0x200 the owner stage (R292, R303). -/
structure Adder where
  incoming : List InBlock := []
  ins : List RedIn := []
  deriving DecidableEq, Repr

/-- The segment record of R301 as it grows. -/
structure SegRec where
  scale : Nat := 0
  maxExp : Nat := 0
  nan : Bool := false
  resfail : Bool := false
  scalefail : Bool := false
  clips : Nat := 0
  nanRank : Nat := 0
  nanElem : Nat := 0
  done : Bool := false
  deriving DecidableEq, Repr

/-- A wait on a member (R325, R326); `queried` reserves the slot of the STATE that answers (R171, R315). -/
structure CWait where
  member : Nat
  since : Nat
  queried : Option Nat := none
  idle : Option Nat := none
  deriving DecidableEq, Repr

/-- A child's share of an all-gather or broadcast: per segment, the next block to send, and the blocks that wait for an
ACK with the tick at which each left (R322, R323); a child gained by a re-form is fed from its JOIN on (R331). -/
structure ChildTx where
  member : Nat
  segment : Nat
  next : Nat := 0
  unacked : List (Nat × Nat) := []
  joined : Bool := true
  deriving DecidableEq, Repr

/-- A bound collective (R312 to R324); `heldBy`: members that have reported a hold, and when first (R326);
`doneFrom`: members whose DONE has come, with its generation. -/
structure Chan where
  q : Nat
  idx : W32
  bytes : List Byte
  op : Nat
  gaddr : Nat
  group : Nat
  gen : Nat
  cseq : Nat
  hash : Nat
  ranks : List Nat
  me : Nat
  root : Nat
  tree : List (Nat × Nat)
  live : List Nat
  live0 : List Nat
  segments : Nat
  blocks : Nat
  length : Nat
  held : Bool := false
  emitted : Assoc Nat := []
  flagged : List (Nat × Nat) := []
  recs : Assoc SegRec := []
  got : Assoc Bool := []
  gotRec : Assoc Bool := []
  wrote : Nat := 0
  childs : List ChildTx := []
  doneFrom : List (Nat × Nat) := []
  doneSent : Bool := false
  lost : Bool := false
  waits : List CWait := []
  heldBy : List (Nat × Nat) := []
  deriving DecidableEq, Repr

/-- An entry of the abort table (R328). -/
structure AbortEntry where
  group : Nat
  chan : Nat
  cseq : Nat
  hash : Nat
  status : Nat
  since : Nat
  deriving DecidableEq, Repr

/-- What the module knows of a group: its descriptor, as the last collective of it named it. -/
structure GroupRef where
  gaddr : Nat
  me : Nat
  deriving DecidableEq, Repr

/-- A re-form being collected by this module as leader (R330). -/
structure Forming where
  group : Nat
  base : Nat
  excl : List Nat
  since : Nat
  sent : Bool := false
  deriving DecidableEq, Repr

/-- A re-form request that waits for its REFORM (R330). -/
structure FormReq where
  group : Nat
  base : Nat
  excl : List Nat
  leader : Nat
  since : Nat
  deriving DecidableEq, Repr

/-- The packets of a REFORM that have arrived (R330, R331). -/
structure FormIn where
  group : Nat
  gen : Nat
  total : Nat
  packets : List (Nat × List Nat)
  deriving DecidableEq, Repr

/-- Collective operations; `dead`: the adders that failed their self-test (R379). -/
structure CollState where
  chans : Assoc (Option Chan) := []
  adders : Assoc Adder := []
  arrived : List (Penn × Via) := []
  early : List (Penn × Via) := []
  aborts : List AbortEntry := []
  groups : Assoc GroupRef := []
  forming : List Forming := []
  requests : List FormReq := []
  formIn : List FormIn := []
  dead : List Nat := []
  deriving DecidableEq, Repr

end Sys2Proof.Machine
end

