-- ==== Sys2Proof/Machine/Ecc.lean ====
section
/-! DEFINITION. The stored-data code (R361 to R363). A codeword is held as its data and a mask of inverted stored
bits: mask bits [D−1:0] are the data bits, then c_0 upwards, with cP on top, as TIL_MEM_INJ.FLIP lays them out. The
code is linear, so the syndrome and the parity are those of the mask. -/
namespace Sys2Proof.Machine

/-- Number of check bits c_k of a codeword of `d` data bits (R361). -/
def eccK (d : Nat) : Nat := if d = 8 then 4 else if d = 32 then 6 else 7

/-- Highest position n of a codeword (R361). -/
def eccN (d : Nat) : Nat := d + eccK d

/-- The positions of the data bits: those that are no power of two, from 3 up (R361). -/
def eccDataPositions (d : Nat) : List Nat :=
  ((List.range (eccN d + 1)).drop 1).filter (fun p => 2 ^ Nat.log2 p != p)

/-- The position of bit `b` of the mask; cP has none and counts as 0. -/
def eccPos (d b : Nat) : Nat :=
  if b < d then (eccDataPositions d).getD b 0 else if b < d + eccK d then 2 ^ (b - d) else 0

/-- The bits set in a mask of a codeword. -/
def eccBits (d m : Nat) : List Nat := (List.range (d + eccK d + 1)).filter (fun b => Nat.testBit m b)

/-- The syndrome s of R362. -/
def eccSyndrome (d m : Nat) : Nat := (eccBits d m).foldl (fun a b => a ^^^ eccPos d b) 0

/-- The parity p of R362. -/
def eccParity (d m : Nat) : Bool := (eccBits d m).length % 2 == 1

/-- The outcomes of R362. -/
inductive EccResult where
  | clean
  | corrected
  | uncorrectable
  deriving DecidableEq, Repr

/-- What the decoder finds (R362). -/
def eccResult (d m : Nat) : EccResult :=
  if eccParity d m then (if eccSyndrome d m ≤ eccN d then .corrected else .uncorrectable)
  else if eccSyndrome d m = 0 then .clean else .uncorrectable

/-- The data delivered: the stored data with the bit at the syndrome's position inverted when a single error is
corrected (R362). -/
def eccDeliver (d data m : Nat) : Nat :=
  let stored := data ^^^ (m % 2 ^ d)
  if eccResult d m = .corrected then
    match (eccDataPositions d).findIdx? (· == eccSyndrome d m) with
    | some i => stored ^^^ 2 ^ i
    | none => stored
  else stored

/-- The mask of a poison mark: c_0 and c_1 inverted (R363). -/
def eccPoison (d : Nat) : Nat := 2 ^ d + 2 ^ (d + 1)

/-- A codeword that decodes as a poison mark: p = 0 and s = 3 (R363, R374). -/
def eccIsPoison (d m : Nat) : Bool := !eccParity d m && eccSyndrome d m == 3

/-- The mask bit at position `p` of R361 (0 for cP), as STK_INJ.POS_A names positions. -/
def eccMaskAt (d p : Nat) : Nat :=
  if p = 0 then 2 ^ (d + eccK d)
  else if 2 ^ Nat.log2 p = p then 2 ^ (d + Nat.log2 p)
  else match (eccDataPositions d).findIdx? (· == p) with
    | some i => 2 ^ i
    | none => 0

end Sys2Proof.Machine
end

