-- ==== Sys2Proof/Machine/TileState.lean ====
section
/-! DEFINITION. The state of one tile beside its register page: the engines' registers (R55), the memories with
their codes (R49, R51, R53, R360), the accumulator sets (R64), the operand queues (R54), the router (R78, R121). -/
namespace Sys2Proof.Machine

/-- An operand queue entry: 128 bytes, the side-band of eight scales, and the mark of R184. -/
structure QEntry where
  data : Nat
  side : Nat
  mark : Bool
  deriving DecidableEq, Repr

/-- A FEED in progress or held: its address, its place in program order, and its operands as read at the op (R56, R57). -/
structure Feed where
  pc : Nat
  no : Nat
  q : Nat
  mode : Nat
  fmt : Nat
  base : Nat
  stride : Nat
  count : Nat
  run : Nat
  next : Nat := 0
  deriving DecidableEq, Repr

/-- One operand queue and the FEED that fills it. -/
structure OpQueue where
  entries : List QEntry := []
  feed : Option Feed := none
  deriving DecidableEq, Repr

/-- An MM or SPMM that has issued and is short of queue entries (R58, R62): its word, the K-blocks folded, the entries of the
current block popped from each operand and those of the map, the fold of an SPMM (R211), and when it last made progress. -/
structure ArrOp where
  word : Word
  since : Nat
  block : Nat := 0
  ea : List QEntry := []
  eb : List QEntry := []
  maps : List QEntry := []
  set : List W32 := []
  bank : List W32 := []
  pairs : Nat := 0
  first : Bool := true
  deriving DecidableEq, Repr

/-- What a declared wait waits for (R58, R75). -/
inductive WaitFor where
  | evwait (e : Nat) (v : W32)
  | recv (stream : Nat) (base : Nat) (count : Nat)
  | tswap
  | hoist (gen : Nat)
  | sget (base : Nat)
  deriving DecidableEq, Repr

/-- An outstanding declared wait: since when, when a packet was last accepted, and whether its timeout record has
been sent (R123, R131). -/
structure Waiting where
  what : WaitFor
  since : Nat
  reported : Bool := false
  deriving DecidableEq, Repr

/-- A receive record (R121): expected sequence number, contiguous units, whether LAST has been seen. -/
structure RxRec where
  seq : Nat := 0
  units : Nat := 0
  last : Bool := false
  deriving DecidableEq, Repr

/-- A send record (R121): the last SEND's address, COUNT and sequence number, and the next number. -/
structure TxRec where
  addr : Nat := 0
  count : Nat := 0
  seq : Nat := 0
  next : Nat := 0
  deriving DecidableEq, Repr

/-- An RGET slot: the units of one outstanding read, reserved in tile memory (R171). -/
structure ReadSlot where
  tag : Nat
  page : Nat
  base : Nat
  units : Nat
  deriving DecidableEq, Repr

/-- A lane state in the generator buffer (R347): its local address and its 384 bytes. -/
structure HeldLane where
  addr : Nat
  bytes : List Byte
  deriving DecidableEq, Repr

/-- A tile beside its registers. `gen` is the generator buffer, most recently used first. `fed` names the FEEDs carried out ahead of the execute engine, `issue` where it issues next while
an array op is in progress, `fencing` the op word it holds until every earlier op has completed (R56, R58, R59). -/
structure Tile where
  p : Assoc (BitVec 48) := []
  s : Assoc W32 := []
  l : Assoc W32 := []
  e : Assoc W32 := []
  mem : Memory := []
  memFlip : Assoc Nat := []
  valid : Assoc Nat := []
  half0 : Memory := []
  half1 : Memory := []
  hflip0 : Assoc Nat := []
  hflip1 : Assoc Nat := []
  drawCe : Bool := false
  drawPour : Nat := 0
  riser : Assoc W32 := []
  riserFlip : Assoc Nat := []
  acc : Assoc W32 := []
  queues : Assoc OpQueue := []
  feeds : List Feed := []
  feedNo : Nat := 0
  fed : List Nat := []
  wait : Option Waiting := none
  held : Option Nat := none
  arr : Option ArrOp := none
  issue : Option Nat := none
  fencing : Option Word := none
  rx : Assoc RxRec := []
  tx : Assoc TxRec := []
  result : BitVec 512 := 0
  gen : List HeldLane := []
  reads : List ReadSlot := []
  nextTag : Nat := 0
  input : Assoc (List InPkt) := []
  wire : Assoc (List Wired) := []
  cresWire : Assoc (List Wired) := []
  localIn : List LocalPkt := []
  down : BitVec 4 := 0
  sweep : Nat := 0
  deriving DecidableEq, Repr

end Sys2Proof.Machine
end

