-- ==== Sys2Proof/Machine/RecState.lean ====
section
/-! DEFINITION. The recovery sequencer's incident (R381) and the mould tables of active mould images (R114). -/
namespace Sys2Proof.Machine

/-- A rectangle of logical tiles. -/
structure Rect where
  x : Nat
  y : Nat
  w : Nat
  h : Nat
  deriving DecidableEq, Repr

/-- A rectangle holds the logical tile (x, y). -/
def Rect.has (r : Rect) (x y : Nat) : Bool := r.x ≤ x && x < r.x + r.w && r.y ≤ y && y < r.y + r.h

/-- Its tiles in row order. -/
def Rect.coords (r : Rect) : List (Nat × Nat) :=
  (List.range (r.w * r.h)).map (fun i => (r.x + i % r.w, r.y + i / r.w))

/-- How far the sequencer has come (R388 to R392). -/
inductive IncPhase where
  | opened
  | retesting
  | restoring
  | retiring
  | handed
  deriving DecidableEq, Repr

/-- A failure that may open, join or wait behind an incident (R381, R386): a tile fault, the loss of a field, or the failure
that makes the module hold its work, with cause and crescent of record 0x1007. -/
inductive Failure where
  | tile (gid code : Nat)
  | field (fid cause : Nat)
  | whole (cause unit : Nat)
  deriving DecidableEq, Repr

/-- Where an incident's held contexts are listed: 0 for tile and module incidents, fid + 1 for the loss of a field. -/
def holdKey (w : Failure) : Nat := match w with | .field f _ => f + 1 | _ => 0

/-- The open incident. -/
structure Incident where
  what : Failure
  since : Nat
  fenced : List Nat
  phase : IncPhase := .opened
  saved : List Nat := []
  absorbed : Nat := 0
  tiles : Nat := 0
  retired : Bool := false
  lost : Bool := false
  program : Bool := false
  noAlternate : Bool := false
  reserve : Bool := false
  column : Option Nat := none
  savedLen : Nat := 64
  deriving DecidableEq, Repr

/-- A register block as a save wrote it (R396): its 1,024 bytes, whose layout the spec does not give, and the registers that
they stand for (log entry 31). -/
structure SavedRegs where
  bytes : List Byte
  tile : Tile
  status : Word
  hoist : Word
  tundish : Word
  sample : Word
  faults : Word
  deriving DecidableEq, Repr

/-- A CTX_SAVE whose tiles are being fenced (R393). -/
structure CtxJob where
  q : Nat
  idx : W32
  tiles : List Nat
  deriving DecidableEq, Repr

/-- The recovery sequencer beside GLB_REC_*; `heldCtx` names the contexts whose
collectives an incident holds (R384), by the key of `holdKey`; `holdover`, till when the PLL of a field holds over, and
`relock`, till when the field's arithmetic pauses (R400). -/
structure RecState where
  incident : Option Incident := none
  waiting : List Failure := []
  fencePkts : List Nat := []
  readmit : Bool := false
  holding : Bool := false
  owed : Option Nat := none
  saves : List SavedRegs := []
  nextSave : Nat := 0
  ctxJobs : List CtxJob := []
  heldCtx : Assoc (List Nat) := []
  holdover : Assoc Nat := []
  relock : Assoc Nat := []
  deriving DecidableEq, Repr

end Sys2Proof.Machine
end

