-- ==== Sys2Proof/Machine/ImgState.lean ====
section
/-! DEFINITION. What the cast loader keeps beside its registers (chapter Configuration Images and Updates): mould image slots
(R430), operations under way (R425, R441), records kept for fenced tiles (R434). -/
namespace Sys2Proof.Machine

/-- An entry of a state map (R420): kind 2 lane, 3 accumulator, 4 buffer. -/
structure MapEntry where
  kind : Nat
  x : Nat
  y : Nat
  base : Nat
  buffer : Nat
  first : Nat
  count : Nat
  deriving DecidableEq, Repr

/-- A record of an image (R419). -/
structure ImgRec where
  kind : Nat
  dom : Nat
  addr : Nat
  data : List Byte
  offset : Nat
  deriving DecidableEq, Repr

/-- A mould image slot (R430): base manifest digest, FAMILY, LAYOUT, stream range, the moulds of its table with their
identities, state map, fields of its layout, annex addresses and digests, FIELDS_USED of the 48 alternates, the address of the
applied alternate's manifest, and the domains of the base. -/
structure ImgSlot where
  digest : List Byte := []
  family : Nat := 0
  layout : Nat := 0
  moulds : List Rect := []
  ids : List Nat := []
  statemap : List MapEntry := []
  fields : List Nat := []
  annex : List Nat := []
  digests : List (List Byte) := []
  altFields : List Nat := []
  altAt : Option Nat := none
  deriving DecidableEq, Repr

/-- A PATCH in work (R430): action 0 LOAD, 1 APPLY, 2 UNLOAD; the slot's state before it, and the domains that it owns. -/
structure LoadJob where
  q : Nat
  idx : W32
  action : Nat
  slot : Nat
  addr : Nat
  annex : Nat
  was : Nat
  owned : List Nat := []
  deriving DecidableEq, Repr

/-- What the section that a domain runs says of epochs (R417, R427): its epoch, and its windows for fields, crescents, the port
complex and the cast loader. -/
structure EpochRow where
  epoch : Nat := 0
  wins : List (Nat × Nat) := []
  deriving DecidableEq, Repr

/-- The cast loader: the operation in work, whether a staging is under way and where its image starts, records kept for fenced tiles by tile, and the
tick at which a GLB_RESET.ARM was written (R455), whether SL1 has been reached since the cold start (R464), and the epochs of the
domains (R427). -/
structure Loader where
  job : Option LoadJob := none
  staging : Bool := false
  stageAt : Nat := 0
  kept : Assoc (List ImgRec) := []
  armed : Option Nat := none
  reached : Bool := false
  epochs : Assoc EpochRow := []
  deriving DecidableEq, Repr

end Sys2Proof.Machine
end

