-- ==== Sys2Proof/Machine/NetState.lean ====
section
/-! DEFINITION. The edge ports, connections and hops, the Rank Edge Table cache, the surface sublinks and the bindings of
the optical engines, beside their registers (chapter Edge and Surface Ports). -/
namespace Sys2Proof.Machine

/-- A CST packet that the module sends (R493): destination address and UDP port, then its header's fields. -/
structure CstFrame where
  op : Nat
  dst : Nat
  udp : Nat
  conn : Nat
  psn : Nat := 0
  ack : Nat := 0
  tag : Nat := 0
  addr : Nat := 0
  len : Nat := 0
  form : Nat := 0
  retx : Bool := false
  bitmap : List Nat := []
  penn : Option Penn := none
  data : List Byte := []
  deriving DecidableEq, Repr

/-- What a RoCEv2 packet of the module asks or answers (R500, R492). -/
inductive RoceOp where
  | read
  | write
  | nakAccess
  | cnp
  deriving DecidableEq, Repr

/-- A RoCEv2 packet that the module sends. -/
structure RoceFrame where
  op : RoceOp
  dst : Nat
  qpn : Nat
  psn : Nat := 0
  addr : Nat := 0
  rkey : Nat := 0
  len : Nat := 0
  data : List Byte := []
  deriving DecidableEq, Repr

/-- A frame that leaves an edge port during the present tick. -/
inductive Frame where
  | cst (x : CstFrame)
  | roce (x : RoceFrame)
  | arp (v6 : Bool) (mac : Nat)
  | pfc (on : Bool)
  deriving DecidableEq, Repr

/-- A frame, its port and class, and the tag and addresses of R489. -/
structure OutFrame where
  port : Nat
  cls : Nat
  vid : Nat
  pcp : Nat
  smac : Nat
  dmac : Nat
  frame : Frame
  deriving DecidableEq, Repr

/-- A connection (R499) or a hop of a collective channel (R505): numbers and limits of one peer. -/
structure Conn where
  state : Nat := 0
  kind : Nat := 0
  form : Nat := 0
  peer : Nat := 0
  udp : Nat := 0
  peerConn : Nat := 0
  rkey : Nat := 0
  qpns : List Nat := []
  tx : W32 := 0
  rxNext : W32 := 0
  rxGot : List W32 := []
  fresh : Nat := 0
  ackAt : Option Nat := none
  qp : List Nat := [0, 0, 0, 0]
  deriving DecidableEq, Repr

/-- The sending-rate limit of a connection or queue pair in bytes per second, none at line rate; the last change of it and the
last notification acted on, and the last notification sent (R492). -/
structure Rate where
  limit : Option Nat := none
  noted : Nat := 0
  cut : Option Nat := none
  told : Option Nat := none
  deriving DecidableEq, Repr

/-- What an outstanding packet is. -/
inductive OutKind where
  | write
  | read
  | coll (p : Penn)
  deriving DecidableEq, Repr

/-- A packet that has been sent and not acknowledged, or that waits for a receive buffer (R230, R495, R500). -/
structure NetOut where
  conn : Nat
  cres : Nat
  port : Nat
  psn : W32 := 0
  kind : OutKind
  tag : Nat := 0
  far : Option Nat := none
  turn : Option Nat := none
  addr : Nat := 0
  len : Nat := 0
  data : List Byte := []
  tries : Nat := 0
  since : Nat := 0
  sent : Bool := true
  deriving DecidableEq, Repr

/-- An edge port beside PRT_EPORT_*: priorities that the peer has paused, whether C1 is paused towards the peer (R491),
and when it last went down (R485). -/
structure EPort where
  paused : BitVec 8 := 0
  pausing : Bool := false
  seen : Bool := false
  deriving DecidableEq, Repr

/-- A sublink beside OPT_SUB_k: credits in use per class, packets that wait for a credit, packets sent (R507). -/
structure Sub where
  used : List Nat := [0, 0, 0]
  waiting : List SurfPkt := []
  out : List SurfPkt := []
  wasLost : Bool := false
  deriving DecidableEq, Repr

/-- A transfer in a TX slot or a landing slot (R510): its packets by offset in units, each with LAST. -/
structure Slot where
  tseq : Nat
  parts : List (Nat × Bool × List Byte) := []
  cut : Bool := false
  deriving DecidableEq, Repr

/-- A binding of an optical engine (R509, R510). -/
structure Bind where
  tx : List Slot := []
  rx : List Slot := []
  landed : W32 := 0
  deriving DecidableEq, Repr

/-- The ports. -/
structure NetState where
  frames : List OutFrame := []
  ports : Assoc EPort := []
  conns : Assoc Conn := []
  outst : List NetOut := []
  ret : List (Nat × List Byte) := []
  spray : Assoc Nat := []
  subs : Assoc Sub := []
  binds : Assoc Bind := []
  rates : Assoc Rate := []
  opening : List Nat := []
  measuredAt : Assoc Nat := []
  measureDue : Assoc Bool := []
  portLost : Assoc Bool := []
  deriving DecidableEq, Repr

end Sys2Proof.Machine
end

