-- ==== Sys2Proof/Machine/PourState.lean ====
section
/-! DEFINITION. Pour descriptors that a crescent holds and the chains they belong to (R124 to R128). -/
namespace Sys2Proof.Machine

/-- A chain of a POUR command: the command, the next descriptor to read, the descriptors read in chain order and those
in work, the statuses so far and which descriptors failed (R128). -/
structure PourChain where
  q : Nat
  idx : W32
  next : Nat
  seen : List Nat := []
  held : List Nat := []
  ended : Bool := false
  statuses : List Nat := []
  fails : List Nat := []
  deriving DecidableEq, Repr

/-- A descriptor in STATE 1, 2 or 3: its words as read (R124) and its progress. `order` numbers descriptors as they were read from their
chains (R133). `hold` is what waits for a free mark entry: 1 the seals of a LOWER copy, 2 the skip seals, 3 the completion (R250);
`mark` the entry taken. `checked`: its LOWER check has been made (R127); one whose check waits for T2 stays in STATE 1. `noRepl`:
pages of the next chunk whose replica was found poisoned (R281). `due`: it resumes once its words have been read again (R141). -/
structure Pour where
  addr : Nat
  words : List Nat
  state : Nat := 1
  start : Option Nat := none
  order : Nat := 0
  progress : Nat := 0
  onAlt : Bool := false
  cause : Nat := 0
  page : Nat := 0
  missed : Bool := false
  fell : Bool := false
  mark : Option Nat := none
  hold : Nat := 0
  primary : Nat := 0
  checked : Bool := false
  statuses : List Nat := []
  reset : List Nat := []
  noRepl : List Nat := []
  due : Bool := false
  deriving DecidableEq, Repr

/-- The fields that the module writes into a descriptor (R124). -/
structure DescWrite where
  addr : Nat
  onAlt : Bool
  state : Nat
  cause : Nat
  elapsed : Nat
  tail : Nat
  deriving DecidableEq, Repr

/-- The pour side of one crescent: its descriptors, how many it has read, and the fields to be written into descriptors whose other
bytes are being read from T2. -/
structure PourUnit where
  pours : List Pour := []
  nextOrder : Nat := 0
  owed : List DescWrite := []
  deriving DecidableEq, Repr

end Sys2Proof.Machine
end

