-- ==== Sys2Proof/Machine/PowerState.lean ====
section
/-! DEFINITION. The power controller beside PWR_* and LIF_* (R518 to R540), the lifetime ledger (R534 to R539) and the
configuration flash (R424, R534). -/
namespace Sys2Proof.Machine

/-- What a ledger snapshot keeps of a field's plan (R536). -/
structure PlanRec where
  v : Nat := 0
  bin : Nat := 0
  wear : Bool := false
  margin : BitVec 16 := 0
  deriving DecidableEq, Repr

/-- The cumulative totals of the lifetime ledger (R536). Links: edge ports 0 to 31, surface ports 32 to 79, Brois 80 and 81,
each with its losses and its codewords or replays; bands: 8 times fid plus band. -/
structure Ledger where
  seq : Nat := 0
  calendar : Nat := 0
  powerOn : Nat := 0
  coldStarts : Nat := 0
  cycles : Nat := 0
  erases : Nat := 0
  breaths : Nat := 0
  bad : Nat := 0
  losses : Assoc Nat := []
  words : Assoc Nat := []
  bands : Assoc Nat := []
  plans : Assoc PlanRec := []
  deriving DecidableEq, Repr

/-- A frame-image slot of the flash: its bytes from the slot's first byte, its completion mark, and the mark of R426 of a
rejected staging slot. -/
structure FrameSlot where
  bytes : List Byte := []
  mark : Bool := false
  rejected : Bool := false
  deriving DecidableEq, Repr

/-- A last-breath slot: its bytes, and whether a cold start has consumed it (R539). -/
structure BreathSlot where
  bytes : List Byte
  used : Bool := false
  deriving DecidableEq, Repr

/-- Configuration flash (R534): frame slots, journal with the newest snapshot last, last-breath records in the order in which
they were written, retired columns by field (R450). The stack's part of the repair list stands with the tiers. -/
structure Flash where
  active : FrameSlot := {}
  staging : FrameSlot := {}
  journal : List (List Byte) := []
  breaths : List BreathSlot := []
  columns : Assoc Nat := []
  deriving DecidableEq, Repr

/-- The power controller. `since` keeps the tick from which a condition has held without a break, by the numbers of
Telemetry.lean; `hist` the samples of the last millisecond by quantity; `stop` the cause of a stop that is due (R529);
`start` says that a cold start is due or under way. `resetAt` keeps when the reset of a field, or under 48 of a port, began. -/
structure PowerState where
  on : Bool := false
  stop : Option Nat := none
  start : Bool := false
  since : Assoc Nat := []
  hist : Assoc (List (Nat × Nat)) := []
  vin : Nat := 0
  vins : List Nat := []
  low : Nat := 0
  highTold : Bool := false
  blades : Assoc Nat := []
  stageAt : Nat := 0
  stageCause : Nat := 0
  stretch : List (Nat × Nat × Nat) := []
  heat : Assoc Bool := []
  blind : Assoc Bool := []
  badSens : Assoc Nat := []
  stackTj : Assoc (BitVec 16) := []
  stackSlow : Assoc Bool := []
  offAt : Assoc Nat := []
  coolTold : Bool := false
  resetAt : Assoc Nat := []
  plannedAt : Assoc Nat := []
  steps : Assoc Nat := []
  ready : Assoc Bool := []
  failed : Assoc Bool := []
  countedAt : Assoc Nat := []
  wasCold : Bool := false
  ledger : Ledger := {}
  base : Ledger := {}
  onSince : Nat := 0
  snapAt : Nat := 0
  snapDue : Option Nat := none
  refA : Bool := true
  flash : Flash := {}
  deriving DecidableEq, Repr

end Sys2Proof.Machine
end

