-- ==== Sys2Proof/Machine/SampState.lean ====
section
/-! DEFINITION. The token sampler of a field beside SMP_* (R352 to R357): its bus, its sessions, and the results on
their way to tiles. -/
namespace Sys2Proof.Machine

/-- A SPUT on the sample bus: the sender and its units (R352). -/
structure BusMsg where
  gid : Nat
  data : List Byte
  deriving DecidableEq, Repr

/-- A header as the sampler keeps it (R352, R353). -/
structure SampHead where
  gid : Nat
  contrib : Nat
  topk : Nat
  invTemp : Nat
  topP : Nat
  rand : Nat
  cands : List Nat
  deriving DecidableEq, Repr

/-- A session that is collecting (R353). -/
structure Session where
  seq : Nat
  since : Nat
  heads : List SampHead
  deriving DecidableEq, Repr

/-- The session that last finished under a number: its SEQ, the contributors, and the valid candidates received (R353, R355). -/
structure Finished where
  seq : Nat
  gids : List Nat
  received : Nat
  deriving DecidableEq, Repr

/-- A sampler: the bus, the open sessions by number, the sequence numbers that ended with a timeout (R357) and the one that last
finished (R353). -/
structure Sampler where
  bus : List BusMsg := []
  sessions : Assoc Session := []
  timedOut : Assoc (List Nat) := []
  finished : Assoc Finished := []
  results : List BusMsg := []
  deriving DecidableEq, Repr

end Sys2Proof.Machine
end

