-- ==== Sys2Proof/Machine/TierState.lean ====
section
/-! DEFINITION. The memory tiers: stack memory with its codes (R360, R371), the Placement Table and its caches (R258,
R260), far accesses under way, and migration in progress (R270 to R278). -/
namespace Sys2Proof.Machine

/-- An entry of the Placement Table (R258). The table reads as zero until written (R371). -/
structure PtEntry where
  cur : BitVec 42 := 0
  present : Bool := false
  poison : Bool := false
  writable : Bool := false
  migrating : Bool := false
  ctx : BitVec 16 := 0
  home : BitVec 42 := 0
  repl : BitVec 42 := 0
  dirty : BitVec 64 := 0
  deriving DecidableEq, Repr

/-- What a change of an entry does when its acknowledgements are in (R259): poison the page for an error in a unit; resolve it after
the loss of a field (R269); set MIGRATING and start the copy of a command's page; switch the entry at the end of it; change it
without a copy; give the copy up. -/
inductive PtWhat where
  | poison (unit tier : Nat)
  | fieldLost (f : Nat)
  | start (q : Nat) (idx : W32)
  | switch (q : Nat) (idx : W32)
  | noCopy (q : Nat) (idx : W32)
  | giveUp (q : Nat) (idx : W32)
  deriving DecidableEq, Repr

/-- A change of an entry that waits for acknowledgements (R259). `acks` names the units that have acknowledged: the
crescents and 4 for the port complex. -/
structure PtChange where
  page : Nat
  what : PtWhat
  acks : List Nat := []
  deriving DecidableEq, Repr

/-- What a far read or write serves (R265, R273). -/
inductive FarFor where
  | tile (gid tag : Nat)
  | stage (unit off : Nat)
  | copy (q : Nat) (idx : W32) (page unit : Nat)
  | land (q : Nat) (idx : W32) (page unit : Nat)
  | put (dirty : Bool)
  deriving DecidableEq, Repr

/-- An access to a T2 place that has not been answered (R229, R256). -/
structure FarReq where
  id : Nat
  target : Nat
  raddr : Nat
  bytes : Nat
  write : Bool
  data : List Byte := []
  page : Nat
  unit : Nat
  cres : Nat
  port : Nat := 0
  what : FarFor
  deriving DecidableEq, Repr

/-- Bytes read from T2 for a unit of the module itself, or none when the read failed or was poisoned (log entry 13). -/
structure Staged where
  page : Nat
  unit : Nat
  off : Nat
  fail : Nat
  data : List Byte
  deriving DecidableEq, Repr

/-- A MIGRATE or WRITEBACK in flight (R270, R272, R276): action 8 is WRITEBACK. `busy` holds the pages being copied or
changed; `reserved` counts charges by quota entry and tier (R278); `freed` the places that the pages left, with the quota
entry and whether R271 frees them. -/
structure MigJob where
  q : Nat
  idx : W32
  action : Nat
  page : Nat
  pages : Nat
  target : Nat := 3
  discard : Bool := false
  writable : Bool := false
  ctx : Nat := 0
  next : Nat := 0
  done : Nat := 0
  units : Nat := 0
  busy : List Nat := []
  failed : List Nat := []
  stopped : Bool := false
  reserved : List (Nat × Nat) := []
  freed : List (Nat × Nat × Bool) := []
  deriving DecidableEq, Repr

/-- A page whose copy is under way: the new place, the units still to land, and the writes that follow the copy write of their unit
there, by unit and offset (R273). -/
structure PageCopy where
  q : Nat
  idx : W32
  page : Nat
  dest : Nat
  waiting : List Nat
  behind : List (Nat × Nat × List Byte) := []
  ended : Bool := false
  deriving DecidableEq, Repr

/-- The tiers. `vflip` and `cflip` hold the errors of the valid bitmaps, by word of 64 bits, and of the placement caches, by set
(R360); `sweep` where each channel's fettler stands (R375); `dead` the channels taken out of service, crescent × 192 + channel
(R379). -/
structure Tiers where
  mem : Memory := []
  flip : Assoc Nat := []
  valid : Assoc Bool := []
  vflip : Assoc Nat := []
  cflip : Assoc Nat := []
  sweep : Assoc Nat := []
  rows : Assoc Nat := []
  pt : Assoc PtEntry := []
  changes : List PtChange := []
  cache : Assoc (List Nat) := []
  jobs : List MigJob := []
  copies : List PageCopy := []
  far : List FarReq := []
  nextFar : Nat := 0
  staged : List Staged := []
  snapshot : Option Nat := none
  stall : Assoc Nat := []
  lastSat : Assoc Bool := []
  winStart : Assoc Nat := []
  satRun : Assoc Nat := []
  repairs : List (Nat × Nat × Nat) := []
  repairList : List (Nat × Nat × Nat) := []
  dead : List Nat := []
  deriving DecidableEq, Repr

end Sys2Proof.Machine
end

