-- ==== Sys2Proof/Machine/State.lean ====
section
/-! DEFINITION. The state of the module: the queue of waiting commands, the configuration window's registers, and what
each unit holds beside them. -/
namespace Sys2Proof.Machine

/-- Why the machine stops with a fault. No meaning of this model raises one: every event the spec gives an effect has
it, and an event whose condition does not hold changes nothing. Kept for the interface; unreachable, so safe. -/
inductive Fault where
  /-- Raised by no meaning; safe. -/
  | none
  deriving DecidableEq, Repr

/-- Why a command is refused. -/
inductive Refusal where
  /-- A command whose meaning is not written yet (the arms of Dispatch only); safe. -/
  | notModelled (mnemonic : String)
  deriving DecidableEq, Repr

/-- The whole module. -/
structure State where
  pending : List Instr
  now : Nat
  regs : Assoc Word
  tiles : Assoc Tile
  cmd : CmdUnit
  fieldStart : Assoc Nat
  upSince : Nat
  recov : RecState
  slots : Assoc ImgSlot
  notices : List Nat
  cresIn : List (Nat × Packet)
  free : Nat
  tiers : Tiers
  samplers : Assoc Sampler
  brois : Assoc BLink
  chains : List PourChain
  pours : Assoc PourUnit
  net : NetState
  coll : CollState
  loader : Loader
  power : PowerState
  deriving DecidableEq, Repr

/-- The module when power is first applied: every register at its reset value, nothing stored, nothing in flight; the active
frame slot of the flash holds what the factory put there (log entry 33). -/
def State.reset : State where
  pending := []
  now := 0
  regs := []
  tiles := []
  cmd := {}
  fieldStart := []
  upSince := 0
  recov := {}
  slots := []
  notices := []
  cresIn := []
  free := 0
  tiers := {}
  samplers := []
  brois := []
  chains := []
  pours := []
  net := {}
  coll := {}
  loader := {}
  power := { flash := { active := { bytes := Config.factoryFrame, mark := true } } }

end Sys2Proof.Machine
end

