-- ==== Sys2Proof/Machine/Ops.lean ====
section
/-! DEFINITION. The named operations over registers, records, tiles and their memories that every meaning uses. -/
namespace Sys2Proof.Machine

/-! ### Registers -/

/-- First address of a region's registers; `u` is the field, the tile over the wafer, or the crescent (R19, R542). -/
def regionBase (r : Region) (u : Nat) : Nat :=
  match r with
  | .glb => 0
  | .fld => 0x100000000 + u * 0x4000000
  | .til => 0x100000000 + (u / 700) * 0x4000000 + 0x100000 + (u % 700) * 0x10000
  | .stk => 0x200000000 + u * 0x1000000
  | .prt => 0x300000000
  | .cfg => 0x400000000

/-- Address of instance `i` of a register of unit `u`. -/
def regAddr (r : RegName) (u i : Nat) : Nat :=
  let q := regRow r
  regionBase q.region u + q.base + (i / q.c1) * q.s1 + (i % q.c1) * q.s0

/-- The word of a register at reset: the values of the register tables, and the fused words. -/
def resetWord (r : RegName) (i : Nat) : Word :=
  match r with
  | .CFG_ROOT => Config.rootHash i
  | .CFG_UNIT_ID => Config.unitId
  | .PRT_MAC => Config.macBase.setWidth 64
  | _ => BitVec.ofNat 64 ((regRow r).fields.foldl (fun a f => a + (f.reset % 2 ^ f.w) * 2 ^ f.lo) 0)

/-- A field's bits of a word. -/
def getBits (w : Word) (lo n : Nat) : Nat := w.toNat / 2 ^ lo % 2 ^ n

/-- A word with a field replaced. -/
def setBits (w : Word) (lo n v : Nat) : Word :=
  BitVec.ofNat 64 (w.toNat - getBits w lo n * 2 ^ lo + (v % 2 ^ n) * 2 ^ lo)

/-- The word of a register. -/
def rdReg (s : State) (r : RegName) (u i : Nat) : Word := getD s.regs (regAddr r u i) (resetWord r i)

/-- The state with a register's word replaced. -/
def wrReg (s : State) (r : RegName) (u i : Nat) (v : Word) : State :=
  { s with regs := put s.regs (regAddr r u i) v (resetWord r i) }

/-- A field of instance `i` of unit `u`. -/
def getI (s : State) (f : Fld) (u i : Nat) : Nat := getBits (rdReg s f.reg u i) f.lo f.w
def setI (s : State) (f : Fld) (u i v : Nat) : State :=
  wrReg s f.reg u i (setBits (rdReg s f.reg u i) f.lo f.w v)

/-- A field of the single instance of unit `u`. -/
def getF (s : State) (f : Fld) (u : Nat) : Nat := getI s f u 0
def setF (s : State) (f : Fld) (u v : Nat) : State := setI s f u 0 v

/-- Add to a counting field, which stays at its largest value (R546). -/
def countI (s : State) (f : Fld) (u i n : Nat) : State := setI s f u i (min (getI s f u i + n) (2 ^ f.w - 1))
def countF (s : State) (f : Fld) (u n : Nat) : State := countI s f u 0 n

/-- The shadow of a register, at its own address plus 0x8000 (R16, R543); it resets with the active copy. -/
def rwcMask (r : RegName) : Word :=
  BitVec.ofNat 64 ((regRow r).fields.foldl (fun a f => if f.acc == .RWC then a + (2 ^ f.w - 1) * 2 ^ f.lo else a) 0)
def rdShadow (s : State) (r : RegName) (u i : Nat) : Word :=
  getD s.regs (regAddr r u i + 0x8000) (resetWord r i &&& rwcMask r)
def wrShadow (s : State) (r : RegName) (u i : Nat) (v : Word) : State :=
  { s with regs := put s.regs (regAddr r u i + 0x8000) (v &&& rwcMask r) (resetWord r i &&& rwcMask r) }

/-! ### Error logs and event records -/

/-- Count a condition seen and not reported in a region's log (R549, R546). -/
def logSupp (s : State) (fc ff fl : Fld) (u code : Nat) : State :=
  let s := if getF s fc u = 0 then setF s ff u code else s
  countF (setF s fl u code) fc u 1

/-- Where an event record comes from (R178). -/
inductive Src where
  | tile (gid : Nat)
  | field (fid : Nat)
  | cres (c : Nat)
  | port
  | loader
  | power
  deriving DecidableEq, Repr

/-- The counter whose sequence a source uses: one per field, crescent and other unit (R178). -/
def Src.key : Src → Nat
  | .tile g => g / 700 | .field f => f | .cres c => 48 + c | .port => 52 | .loader => 53 | .power => 54

/-- Ticks of the port-complex and crescent counters, which start with the module (R42). -/
def portTicks (s : State) : Nat := s.now - s.upSince
/-- Ticks of a field's counter (R42). -/
def fieldTicks (s : State) (f : Nat) : Nat := s.now - getD s.fieldStart f 0

/-- The counter that stamps a source's records (R178). -/
def Src.ticks (x : Src) (s : State) : Nat :=
  match x with
  | .tile g => fieldTicks s (g / 700)
  | .field f => fieldTicks s f
  | _ => portTicks s

/-- SRCKIND, SRCUNIT and PTILE of R178. -/
def Src.kind : Src → Nat
  | .tile _ => 0 | .field _ => 1 | .cres _ => 2 | .port => 3 | .loader => 4 | .power => 5
def Src.unit : Src → Nat
  | .tile g => g / 700 | .field f => f | .cres c => c | _ => 0
def Src.ptile : Src → Nat
  | .tile g => g % 700 | _ => 0

/-- Send an event record towards the command unit (R178). -/
def sendRec (s : State) (x : Src) (status cause d0 d1 : Nat) : State :=
  let n := getD s.cmd.seqs x.key 0
  let r : EvRec := { status, kind := x.kind, unit := x.unit, ptile := x.ptile, cause, stamp := x.ticks s, seq := n,
                     d0 := d0 % 2 ^ 32, d1 := d1 % 2 ^ 64 }
  { s with cmd := { s.cmd with records := s.cmd.records ++ [r], seqs := put s.cmd.seqs x.key ((n + 1) % 2 ^ 32) 0 } }

/-- Send an event increment towards a module counter (R169). -/
def sendInc (s : State) (ev : Nat) (v : W32) : State :=
  { s with cmd := { s.cmd with incs := s.cmd.incs ++ [⟨ev % 65536, v⟩] } }

/-- An event increment leaves a list of increments by its position. -/
def takeAt {α : Type} (xs : List α) (k : Nat) : Option (α × List α) :=
  match xs[k]? with
  | some x => some (x, xs.eraseIdx k)
  | none => none

/-! ### Status codes (R21, R22) -/

def ST_OK : Nat := 0
def ST_OK_EMPTY : Nat := 1
def ST_DEADLINE_MISS : Nat := 0x10
def ST_TIMEOUT : Nat := 0x11
def ST_DATA_POISON : Nat := 0x20
def ST_RESIDUE : Nat := 0x21
def ST_ORDER_MISMATCH : Nat := 0x30
def ST_GROUP_REFORMED : Nat := 0x31
def ST_CTX_MISMATCH : Nat := 0x40
def ST_QUOTA : Nat := 0x50
def ST_FAULT_PAGE : Nat := 0x51
def ST_IMAGE_INVALID : Nat := 0x60
def ST_EPOCH : Nat := 0x61
def ST_POUR_INVALID : Nat := 0x100
def ST_CMD_INVALID : Nat := 0x110

/-! ### Tiles -/

/-- A tile of the wafer. -/
def tileOf (s : State) (g : Nat) : Tile := getD s.tiles g {}
def setTile (s : State) (g : Nat) (t : Tile) : State := { s with tiles := put s.tiles g t {} }
def modTile (s : State) (g : Nat) (f : Tile → Tile) : State := setTile s g (f (tileOf s g))

/-- A field is in service: at stage A or at stage B (R453, R548). -/
def inService (s : State) (f : Nat) : Bool :=
  Nat.testBit (getF s F.GLB_FLD_SLOW_FIELDS 0) f || Nat.testBit (getF s F.GLB_FLD_FULL_FIELDS 0) f

/-- A field is at stage A (R452). -/
def atStageA (s : State) (f : Nat) : Bool := Nat.testBit (getF s F.GLB_FLD_SLOW_FIELDS 0) f

/-- The physical tile that holds logical (x, y) (R12, R81). -/
def tileAt (s : State) (x y : Nat) : Option Nat :=
  if x < 192 && y < 168 then
    let f := (y / 28) * 8 + x / 24
    ((List.range 700).map (· + f * 700)).find? (fun g =>
      let r := rdReg s .TIL_LOGXY g 0
      getBits r 16 1 == 1 && getBits r 0 8 == x && getBits r 8 8 == y)
  else none

/-- Logical coordinates of a tile. -/
def logX (s : State) (g : Nat) : Nat := getF s F.TIL_LOGXY_LX g
def logY (s : State) (g : Nat) : Nat := getF s F.TIL_LOGXY_LY g

/-- The field that a logical position falls in (R12). -/
def fieldAt (x y : Nat) : Nat := (y / 28) * 8 + x / 24

/-- A tile's execute engine issues ops: RUNNING, neither fenced nor quiescing (R61), not in bypass (R86). -/
def running (s : State) (g : Nat) : Bool :=
  getF s F.TIL_STATUS_RUNNING g == 1 && getF s F.TIL_STATUS_FENCED g == 0 && getF s F.TIL_CTRL_QUIESCE g == 0 &&
    getF s F.TIL_STATUS_BYPASS g == 0

/-- The tiles of a logical rectangle that exist. -/
def rectTiles (s : State) (r : Rect) : List Nat := r.coords.filterMap (fun c => tileAt s c.1 c.2)

/-- Count in the ledger's totals for link `k`: losses, and codewords or replays (R536). -/
def countLink (s : State) (k losses words : Nat) : State :=
  let l := s.power.ledger
  { s with power := { s.power with ledger := { l with
      losses := put l.losses k (getD l.losses k 0 + losses) 0
      words := put l.words k (getD l.words k 0 + words) 0 } } }

/-- Ask for a ledger snapshot of KIND `k` within 1 s (R535). -/
def askSnap (s : State) (k : Nat) : State := { s with power := { s.power with snapDue := some k } }

/-! ### Tile faults and incidents (R63, R381, R387) -/

/-- The mould of an active mould image that holds a tile, as a list of tiles; the tile alone when none does. -/
def mouldOf (s : State) (g : Nat) : List Nat :=
  let x := logX s g
  let y := logY s g
  match (s.slots.flatMap (fun e => e.2.moulds)).find? (fun r => r.has x y) with
  | some r => rectTiles s r
  | none => [g]

/-- An incident opens: its tiles are sent fence packets (R384, R387); `absorbed` records of it have been held (R382). -/
def openIncident (s : State) (f : Failure) (tiles : List Nat) (absorbed : Nat) : State :=
  let kind := match f with | .tile .. => 0 | .field .. => 1 | .whole .. => 2
  let fid := match f with | .tile g _ => g / 700 | .field f _ => f | .whole .. => 0
  let pt := match f with | .tile g _ => g % 700 | .field .. => 0 | .whole .. => 0
  let s := setF (setF (setF (setF s F.GLB_REC_STAT_OPEN 0 1) F.GLB_REC_STAT_KIND 0 kind) F.GLB_REC_STAT_FID 0 fid)
    F.GLB_REC_STAT_PTILE 0 pt
  let s := countF s F.GLB_REC_STAT_INCIDENTS 0 1
  { s with recov := { s.recov with
      incident := some { what := f, since := s.now, fenced := tiles, absorbed }
      fencePkts := s.recov.fencePkts ++ tiles } }

/-- A record that an incident counts stays in its source's error log (R382, R549). -/
def logAbsorbed (s : State) (kind unit cause : Nat) : State :=
  match kind with
  | 0 | 1 => logSupp s F.FLD_ELOG_SUPP_COUNT F.FLD_ELOG_SUPP_FIRST F.FLD_ELOG_SUPP_LAST unit cause
  | 2 => logSupp s F.STK_ELOG_SUPP_COUNT F.STK_ELOG_SUPP_FIRST F.STK_ELOG_SUPP_LAST unit cause
  | _ => logSupp s F.PRT_ELOG_SUPP_COUNT F.PRT_ELOG_SUPP_FIRST F.PRT_ELOG_SUPP_LAST 0 cause

/-- A tile is one that the open incident fences, or lies in its column (R381: "a column of the same field" is read as the
column of the incident's tile; log entry 36). -/
def joins (inc : Incident) (g : Nat) : Bool :=
  inc.fenced.contains g || (match inc.what with
    | .tile h _ => h / 700 == g / 700 && (h % 700) % 25 == (g % 700) % 25
    | .field f _ => f == g / 700
    | .whole .. => false)

/-- A tile failure opens an incident, joins the open one, or waits behind it (R381); `code` 0 stands for a link that the
tile's incident covers, whose record counts itself. A program fault or lost data that joins leaves nothing to repeat (R388). -/
def tileIncident (s : State) (g code : Nat) : State :=
  let n := if code = 0 then 0 else 1
  match s.recov.incident with
  | none => openIncident s (.tile g code) (mouldOf s g) n
  | some inc =>
    if joins inc g then
      let inc := { inc with absorbed := inc.absorbed + n, lost := inc.lost || code = 6,
                            program := inc.program || [1, 2, 6].contains code }
      if inc.fenced.contains g then { s with recov := { s.recov with incident := some inc } }
      else
        let new := (mouldOf s g).filter (fun h => !inc.fenced.contains h)
        { s with recov := { s.recov with
            incident := some { inc with fenced := inc.fenced ++ new }
            fencePkts := s.recov.fencePkts ++ new } }
    else { s with recov := { s.recov with waiting := s.recov.waiting ++ [.tile g code] } }

/-- A tile raises fault `code` (R63): both engines stop, FAULT, TIL_ERR and LAST_FAULT are set, the tile is fenced,
and an incident opens, joins or waits. -/
def tileFault (s : State) (g code : Nat) : State :=
  let err := (rdReg s .TIL_ERR g 0) ||| BitVec.ofNat 64 (2 ^ (code - 1))
  let s := wrReg s .TIL_ERR g 0 err
  let s := setF (setF (setF s F.TIL_STATUS_FAULT g code) F.TIL_STATUS_RUNNING g 0) F.TIL_STATUS_FENCED g 1
  let s := setF (setF s F.TIL_REC_LAST_FAULT g code) F.TIL_STATUS_WAITKIND g 0
  let s := modTile s g (fun t => { t with wait := none, held := none, arr := none, issue := none, fencing := none })
  tileIncident (logAbsorbed s 0 (g / 700) (0x0100 + code)) g code

/-! ### Tile memory (R49, R364 to R366) -/

/-- A line's valid bit by majority of its three copies. -/
def lineValid (t : Tile) (line : Nat) : Bool :=
  let v := getD t.valid line 0
  (v % 2 + v / 2 % 2 + v / 4 % 2) ≥ 2

/-- One byte as the decoder delivers it. -/
def memByte (t : Tile) (a : Nat) : Byte :=
  if lineValid t (a / 64) then BitVec.ofNat 8 (eccDeliver 8 (rdByte t.mem a).toNat (getD t.memFlip a 0)) else 0

/-- The bytes in error of a range: address and mask. -/
def memErrs (t : Tile) (a n : Nat) : List (Nat × Nat) :=
  t.memFlip.filter (fun e => a ≤ e.1 && e.1 < a + n && lineValid t (e.1 / 64) && eccResult 8 e.2 != .clean)

/-- Record an error found in a codeword of `d` bits at local address `a` in store `st` (TIL_MEM_ERR, TIL_MEM_LAST). -/
def logMemErr (s : State) (g d st a m : Nat) : State :=
  let unc := eccResult d m == .uncorrectable
  let s := if unc then countF s F.TIL_MEM_ERR_UNCORR g 1 else countF s F.TIL_MEM_ERR_CORRECTED g 1
  let s := setF (setF s F.TIL_MEM_LAST_ADDR g a) F.TIL_MEM_LAST_SYNDROME g (eccSyndrome d m)
  let s := setF (setF s F.TIL_MEM_LAST_PARITY g (if eccParity d m then 1 else 0)) F.TIL_MEM_LAST_UNCORR g (if unc then 1 else 0)
  setF s F.TIL_MEM_LAST_STORE g st

/-- Store one byte of a line, with fresh check bits or with the armed injection (TIL_MEM_INJ). -/
def storeByte (t : Tile) (a : Nat) (v : Byte) (m : Nat) : Tile :=
  { t with mem := wrByte t.mem a v, memFlip := put t.memFlip a m 0 }

/-- Bytes stored upwards from `a` into valid lines. -/
def storeBytes (t : Tile) (a : Nat) : List Byte → Tile
  | [] => t
  | b :: bs => storeBytes (storeByte t a b 0) (a + 1) bs

/-- A write to an invalid line stores the whole line (R365): its old bytes become 0x00 and its valid bit is set. -/
def openLine (t : Tile) (line : Nat) : Tile :=
  if lineValid t line then t
  else
    let out := fun (k : Nat) => k / 64 != line
    { t with mem := t.mem.filter (fun e => out e.1), memFlip := t.memFlip.filter (fun e => out e.1),
             valid := put t.valid line 7 0 }

/-- The lines that bytes `a` to `a + n − 1` touch. -/
def linesOf (a n : Nat) : List Nat := if n = 0 then [] else (List.range ((a + n - 1) / 64 - a / 64 + 1)).map (· + a / 64)

/-- Write bytes to tile memory; an armed injection inverts stored bits of the byte it names (R365, TIL_MEM_INJ). -/
def memWrite (s : State) (g a : Nat) (bs : List Byte) : State :=
  let t := tileOf s g
  let inj := rdReg s .TIL_MEM_INJ g 0
  let line := getBits inj 20 14
  let target := line * 64 + getBits inj 13 6
  let whole := (linesOf a bs.length).contains line && !lineValid t line
  let hit := getBits inj 19 1 == 1 && ((a ≤ target && target < a + bs.length) || whole)
  let t := storeBytes ((linesOf a bs.length).foldl openLine t) a bs
  if hit then
    setF (setTile s g { t with memFlip := put t.memFlip target (getBits inj 0 13) 0 }) F.TIL_MEM_INJ_ARM g 0
  else setTile s g t

/-- The remote reader's view (R366): the bytes and whether any is uncorrectable; corrections are counted. -/
def memReadRemote (s : State) (g a n : Nat) : List Byte × Bool × State :=
  let t := tileOf s g
  let errs := memErrs t a n
  let s := errs.foldl (fun s e => logMemErr s g 8 0 e.1 e.2) s
  ((List.range n).map (fun i => memByte t (a + i)), errs.any (fun e => eccResult 8 e.2 == .uncorrectable), s)

/-! ### Ops of a tile -/

/-- An op of a tile: it may end in a tile fault (R63), the state then being as at the fault. -/
abbrev TileM := EStateM Nat State

/-- The code by which an op says that it cannot issue yet. -/
def notYet : Nat := 0x100
/-- The code by which an issued op says that its queues are short of entries. -/
def starve : Nat := 0x101

/-- What an op does to PC: the next op, a branch, a declared wait that stays, or the end of an array op (R58). -/
inductive OpEnd where
  | next
  | goto (pc : Nat)
  | stay
  | array
  deriving DecidableEq, Repr

/-- Raise fault `c` when `b` holds. -/
def faultIf (b : Bool) (c : Nat) : TileM Unit := if b then throw c else pure ()

/-- Read `n` bytes of tile memory for an engine or pipe (R48, R366): fault 0x02 outside it, 0x06 at an
uncorrectable byte. -/
def readMem (g a n : Nat) : TileM (List Byte) := do
  faultIf (0x100000 < a + n) 2
  let t := tileOf (← get) g
  for e in memErrs t a n do
    modify (fun s => logMemErr s g 8 0 e.1 e.2)
    faultIf (eccResult 8 e.2 == .uncorrectable) 6
  pure ((List.range n).map (fun i => memByte t (a + i)))

/-- Fault 0x06 when a byte of the range is uncorrectable (R366); a read that follows counts what it corrects. -/
def checkMem (g a n : Nat) : TileM Unit := do
  for e in (memErrs (tileOf (← get) g) a n).filter (fun e => eccResult 8 e.2 == .uncorrectable) do
    modify (fun s => logMemErr s g 8 0 e.1 e.2)
    throw 6

/-- Write bytes of tile memory for a pipe; the range has been checked. -/
def writeMem (g a : Nat) (bs : List Byte) : TileM Unit := modify (fun s => memWrite s g a bs)

/-- A range lies in tile memory (R48). -/
def inMem (a n : Nat) : Bool := a + n ≤ 0x100000
/-- A range lies in the riser (R48). -/
def inRiser (a n : Nat) : Bool := 0x140000 ≤ a && a + n ≤ 0x180000
/-- A range lies in the tundish draw half (R48). -/
def inDraw (a n : Nat) : Bool := 0x100000 ≤ a && a + n ≤ 0x120000

/-- The riser accumulator that holds local address `a` (R48). -/
def accAt (a : Nat) : Nat := (a - 0x140000) / 4
/-- Accumulators that `n` bytes from `a` touch. -/
def accSpan (a n : Nat) : Nat := accAt (a + n - 1) - accAt a + 1
/-- Bytes of the last of them behind the range. -/
def accPost (a n : Nat) : Nat := 4 * (accAt (a + n - 1) + 1) - (a - 0x140000 + n)

/-- Read riser accumulators `i` to `i + n − 1`, correcting single errors (R369); fault 0x06 before anything changes. -/
def readRiser (g i n : Nat) : TileM (List W32) := do
  let t := tileOf (← get) g
  let errs := t.riserFlip.filter (fun e => i ≤ e.1 && e.1 < i + n && eccResult 32 e.2 != .clean)
  for e in errs do
    modify (fun s => setF (logMemErr s g 32 2 (0x140000 + 4 * e.1) e.2) F.TIL_MEM_ERR_RISER_CE g
      (if eccResult 32 e.2 == .corrected then 1 else getF s F.TIL_MEM_ERR_RISER_CE g))
    faultIf (eccResult 32 e.2 == .uncorrectable) 6
  pure ((List.range n).map (fun k =>
    BitVec.ofNat 32 (eccDeliver 32 (getD t.riser (i + k) 0).toNat (getD t.riserFlip (i + k) 0))))

/-- Fault 0x06 when an accumulator of the range is uncorrectable (R369). -/
def checkRiser (g i n : Nat) : TileM Unit := do
  let t := tileOf (← get) g
  for e in t.riserFlip.filter (fun e => i ≤ e.1 && e.1 < i + n && eccResult 32 e.2 == .uncorrectable) do
    modify (fun s => logMemErr s g 32 2 (0x140000 + 4 * e.1) e.2)
    throw 6

/-- Write riser accumulators with fresh check bits. -/
def putRiser (t : Tile) (i : Nat) : List W32 → Tile
  | [] => t
  | v :: vs => putRiser { t with riser := put t.riser i v 0, riserFlip := erase t.riserFlip i } (i + 1) vs
def writeRiser (g i : Nat) (vs : List W32) : TileM Unit := modify (fun s => modTile s g (fun t => putRiser t i vs))

end Sys2Proof.Machine
end

