-- ==== Sys2Proof/Machine/NetOps.lean ====
section
/-! DEFINITION. Sending over the edge ports: ports in service and their choice (R229, R233, R501), connections and hops
(R495, R499, R505), packets kept until they are acknowledged, receive buffers (R230). -/
namespace Sys2Proof.Machine

def connOf (s : State) (n : Nat) : Conn := getD s.net.conns n {}
def setConn (s : State) (n : Nat) (c : Conn) : State := { s with net := { s.net with conns := put s.net.conns n c {} } }
def modConn (s : State) (n : Nat) (f : Conn → Conn) : State := setConn s n (f (connOf s n))

/-- An edge port is in service (R485). -/
def portUp (s : State) (p : Nat) : Bool := getI s F.PRT_EPORT_STAT_STATE 0 p == 3

/-- The in-service ports of crescent `c`, or of the next crescents in order when it has none (R233). -/
def cresPorts (s : State) (c : Nat) : List Nat :=
  let of := fun i => ((List.range 8).map (· + 8 * ((c + i) % 4))).filter (portUp s)
  (((List.range 4).map of).find? (fun l => !l.isEmpty)).getD []

/-- The next port of crescent `c` in turn (R229, R495): `k` names whose turn it is. -/
def pickPort (s : State) (c k : Nat) : Option Nat × State :=
  match cresPorts s c with
  | [] => (none, s)
  | ps =>
    let n := getD s.net.spray k 0
    (ps[n % ps.length]?, { s with net := { s.net with spray := put s.net.spray k (n + 1) 0 } })

/-- Whose turn at the ports a packet takes: that of its pour descriptor for a chunk's read, of a connection for its packets. -/
def NetOut.turnKey (o : NetOut) : Nat := match o.turn with | some a => 2 * a + 1 | none => 2 * o.conn

/-- Where a queue pair prefers to send: its own crescent with at least four ports in service, else the next (R501). -/
def roceOrder (s : State) (n c : Nat) : List Nat :=
  let up := fun d => ((List.range 8).map (· + 8 * d)).filter (portUp s)
  let d := (((List.range 4).map (fun i => (c + i) % 4)).find? (fun d => 4 ≤ (up d).length)).getD c
  ((List.range 4).flatMap (fun j => (List.range 8).map (fun i => 8 * ((d + j) % 4) + (n + i) % 8))).filter (portUp s)

/-- The ports of all queue pairs of open groups, at most 4,096 on one port (R501). -/
def rocePlaces (s : State) : List ((Nat × Nat) × Nat) :=
  let qps := (s.net.conns.filter (fun e => e.2.state == 1 && e.2.kind == 1)).flatMap (fun e => (List.range 4).map (fun c => (e.1, c)))
  (qps.foldl (fun (r : List ((Nat × Nat) × Nat) × Assoc Nat) x =>
    match (roceOrder s x.1 x.2).find? (fun p => getD r.2 p 0 < 4096) with
    | some p => ((x, p) :: r.1, put r.2 p (getD r.2 p 0 + 1) 0)
    | none => r) ([], [])).1

/-- The port of the queue pair of connection `n` in crescent `c` (R501). -/
def rocePort (s : State) (n c : Nat) : Option Nat :=
  ((rocePlaces s).find? (fun e => e.1 == (n, c))).map (·.2)

/-- A frame with the VLAN, priority and MAC addresses of its port and class (R489). -/
def frameOn (s : State) (p cls : Nat) (x : Frame) : OutFrame :=
  { port := p, cls, vid := getF s F.PRT_NET_CFG_VID 0
    pcp := getF s (match cls with | 0 => F.PRT_NET_CFG_PCP0 | 1 => F.PRT_NET_CFG_PCP1 | _ => F.PRT_NET_CFG_PCP3) 0
    smac := (getF s F.PRT_MAC_BASE 0 + p) % 2 ^ 48
    dmac := getI s F.PRT_EPORT_CFG_GW_MAC 0 p
    frame := x }

/-- A frame leaves a port. -/
def sendFrame (s : State) (p cls : Nat) (x : Frame) : State :=
  { s with net := { s.net with frames := s.net.frames ++ [frameOn s p cls x] } }

/-- The connection entry of a hop, and the receiver's index it is named by (R505). -/
def isHop (n : Nat) : Bool := 16384 ≤ n
def dstConn (c : Conn) (n : Nat) : Nat := if isHop n then 0xFFF0 + n % 16 else c.peerConn
def dstUdp (s : State) (c : Conn) (n : Nat) : Nat := if isHop n then getF s F.PRT_NET_CFG_CST_UDP 0 else c.udp

/-- A CST packet to the peer of connection `n`, with the highest PSN received in order. -/
def cstTo (s : State) (n op : Nat) : CstFrame :=
  let c := connOf s n
  { op, dst := c.peer, udp := dstUdp s c n, conn := dstConn c n, ack := (c.rxNext - 1).toNat }

/-- The frame of an outstanding packet (R493, R500). -/
def outFrame (s : State) (o : NetOut) (retx : Bool) : OutFrame :=
  let c := connOf s o.conn
  let roce := fun (op : RoceOp) => Frame.roce { op, dst := c.peer, qpn := c.qpns.getD o.cres 0, psn := o.psn.toNat, addr := o.addr,
                                                rkey := c.rkey, len := o.len, data := o.data }
  match o.kind with
  | .coll p => frameOn s o.port (if p.kind = 1 then 1 else 0)
      (.cst { cstTo s o.conn 8 with psn := o.psn.toNat, len := p.payload.length, retx, penn := some p })
  | .write => frameOn s o.port 3
      (if c.kind = 1 then roce .write
       else .cst { cstTo s o.conn 1 with psn := o.psn.toNat, addr := o.addr, len := o.len, retx, data := o.data })
  | .read => frameOn s o.port 3
      (if c.kind = 1 then roce .read
       else .cst { cstTo s o.conn 2 with psn := o.psn.toNat, tag := o.tag, addr := o.addr, len := o.len, form := c.form, retx })

/-- Put a packet on the wire. -/
def wireOut (s : State) (o : NetOut) (retx : Bool) : State :=
  { s with net := { s.net with frames := s.net.frames ++ [outFrame s o retx] } }

/-- Receive buffers of a port in use (R230). -/
def buffersUsed (s : State) (p : Nat) : Nat :=
  (s.net.outst.filter (fun o => o.sent && o.port == p && (match o.kind with | .read => true | _ => false))).length

/-- Reads that a queue pair has outstanding (R500). -/
def roceReads (s : State) (n c : Nat) : Nat :=
  (s.net.outst.filter (fun o => o.sent && o.conn == n && o.cres == c && (match o.kind with | .read => true | _ => false))).length

/-- The port for a packet, if one can take it now: a free receive buffer for a read, at most 16 reads of a queue pair. -/
def portFor (s : State) (o : NetOut) : Option Nat × State :=
  let c := connOf s o.conn
  let r := if c.kind = 1 then (rocePort s o.conn o.cres, s) else pickPort s o.cres o.turnKey
  match o.kind, r.1 with
  | .read, some p =>
    if 512 ≤ buffersUsed s p || (c.kind == 1 && 16 ≤ roceReads s o.conn o.cres) then (none, s) else (some p, r.2)
  | _, x => (x, r.2)

/-- Number and send a packet: CST numbers its sequenced packets, a queue pair every packet (R494, R495, R500). -/
def startOut (s : State) (o : NetOut) : State :=
  let r := portFor s o
  match r.1 with
  | none => { s with net := { s.net with outst := s.net.outst ++ [{ o with sent := false }] } }
  | some p =>
    let s := r.2
    let c := connOf s o.conn
    let psn := if c.kind = 1 then BitVec.ofNat 32 (c.qp.getD o.cres 0) else c.tx
    let o := { o with port := p, psn, since := s.now, sent := true, tries := 1 }
    let seqd := match o.kind with | .read => false | _ => true
    let c := if c.kind = 1 then { c with qp := c.qp.set o.cres ((c.qp.getD o.cres 0 + 1) % 2 ^ 24) }
             else if seqd then { c with tx := c.tx + 1 } else c
    let s := setConn s o.conn c
    wireOut { s with net := { s.net with outst := s.net.outst ++ [o] } } o false

/-- Packets that wait for a port or buffer leave when they can, oldest first. -/
def retryOuts (s : State) : Nat → State
  | 0 => s
  | n + 1 =>
    match s.net.outst.find? (fun o => !o.sent && (portFor s o).1.isSome) with
    | some o => retryOuts (startOut { s with net := { s.net with outst := s.net.outst.erase o } } o) n
    | none => s

/-- Send a packet again, on the next port; without a port in service it stays as it is (R495, R496). A read frees its buffer and takes
one of the other port: with none free it waits for one (R230, R233). -/
def resendOut (s : State) (o : NetOut) : State :=
  let c := connOf s o.conn
  let r := if c.kind = 1 then (rocePort s o.conn o.cres, s) else pickPort s o.cres o.turnKey
  let swap := fun (s : State) (o' : NetOut) => { s with net := { s.net with outst := s.net.outst.map (fun x => if x = o then o' else x) } }
  match r.1 with
  | none => s
  | some p =>
    let o' := { o with port := p, tries := o.tries + 1, since := s.now }
    if (match o.kind with | .read => p != o.port && 512 ≤ buffersUsed s p | _ => false) then
      swap r.2 { o with sent := false }
    else wireOut { r.2 with net := { r.2.net with outst := r.2.net.outst.map (fun x => if x = o then o' else x) } } o' true

/-- A far target names an open connection of its own transport (R499). -/
def farOpen (s : State) (n : Nat) : Bool :=
  let c := connOf s (getI s F.PRT_FAR_ATTR_CONN 0 n % 16384)
  getI s F.PRT_FAR_ATTR_VALID 0 n == 1 && c.state == 1 && c.kind == getI s F.PRT_FAR_ATTR_TRANSPORT 0 n

end Sys2Proof.Machine
end

