-- ==== Sys2Proof/Machine/Flags.lean ====
section
/-! DEFINITION. The sticky arithmetic flags of a tile (R113), the rounding field (R74), and conversions of lists of
values that gather their flags (R102 to R105). -/
namespace Sys2Proof.Machine

/-- Set sticky arithmetic flags (R113). -/
def raiseFlags (g : Nat) (f : Flags) : TileM Unit :=
  modify (fun s => wrReg s .TIL_FLAGS g 0 (rdReg s .TIL_FLAGS g 0 ||| f.setWidth 64))

/-- The flags of several steps together. -/
def orFlags (fs : List Flags) : Flags := fs.foldl (· ||| ·) 0

/-- A rounding field names a mode (R74). -/
def roundOk (field : Nat) : Bool := field % 8 ≤ 4
/-- Its rounding is stochastic. -/
def roundStoch (field : Nat) : Bool := field % 8 == 4
/-- Its saturation bit. -/
def roundSat (field : Nat) : Bool := field / 8 % 2 == 1
/-- Its mode, with the random bits `r` for a stochastic one. -/
def roundMode (field r : Nat) : RMode :=
  match field % 8 with
  | 0 => .nearest | 1 => .zero | 2 => .down | 3 => .up | _ => .stoch r

/-- Convert values one by one under a rounding field; `rs` gives each its random bits (R107). -/
def convertList (f field : Nat) : List Num → List Nat → List (Nat × Flags)
  | [], _ => []
  | x :: xs, rs => convert f (roundMode field (rs.headD 0)) (roundSat field) x :: convertList f field xs (rs.drop 1)

/-- Patterns of a converted list. -/
def patterns (xs : List (Nat × Flags)) : List Nat := xs.map (·.1)
/-- Flags of a converted list. -/
def flagsOf (xs : List (Nat × Flags)) : Flags := orFlags (xs.map (·.2))

end Sys2Proof.Machine
end

