-- ==== Sys2Proof/Machine/Operands.lean ====
section
/-! DEFINITION. Op words and their operands: the fields and checks of every layout (R71 to R74), registers (R55),
elements in memory (R89), lane states and draws (R338 to R344), and how an op issues, retires, waits or faults. -/
namespace Sys2Proof.Machine

/-! ### Fields of an op word (R71, R73) -/

def opcode (w : Word) : Nat := getBits w 58 6
def wFmt (w : Word) : Nat := getBits w 52 4
def wFmt2 (w : Word) : Nat := getBits w 48 4
/-- [47:44]: PD, PL or REG. -/
def wD (w : Word) : Nat := getBits w 44 4
/-- [43:40]: PA or PR. -/
def wA (w : Word) : Nat := getBits w 40 4
/-- [39:36]: PB, PS or SEL of layout S. -/
def wB (w : Word) : Nat := getBits w 36 4
/-- [35:32]: MODE or ROUND. -/
def wMode (w : Word) : Nat := getBits w 32 4
/-- [31:16]: COUNT or K. -/
def wCount (w : Word) : Nat := getBits w 16 16
def wFunc (w : Word) : Nat := getBits w 8 8
/-- SEL of layout M. -/
def wSel (w : Word) : Nat := getBits w 0 8
def wImm (w : Word) : Nat := getBits w 0 32
def wKind (w : Word) : Nat := getBits w 42 2

/-- Bit 56 and a layout's reserved bits are 0 (R71, R73), and FUNC bit 7 is clear outside DRAINT (R191). -/
def badM (w : Word) : Bool := getBits w 56 1 != 0 || getBits w 4 4 != 0 || getBits w 15 1 != 0
def badA (w : Word) : Bool := getBits w 56 1 != 0 || getBits w 36 4 != 0 || getBits w 0 16 != 0
def badD (w : Word) : Bool :=
  getBits w 56 1 != 0 || getBits w 40 3 != 0 || getBits w 0 8 != 0 || 32 < wCount w ||
    (getBits w 15 1 != 0 && opcode w != 0x0B)
def badF (w : Word) : Bool := getBits w 56 1 != 0 || getBits w 44 2 != 0
def badN (w : Word) : Bool := getBits w 56 1 != 0 || getBits w 36 4 != 0 || getBits w 8 8 != 0
def badS (w : Word) : Bool := getBits w 56 1 != 0 || getBits w 40 2 != 0 || wB w != 0
/-- EVSIG alone may name a scalar register in SEL (R73). -/
def badSig (w : Word) : Bool := getBits w 56 1 != 0 || getBits w 40 2 != 0 || (wMode w == 0 && wB w != 0)

/-! ### Registers of the engines (R55) -/

def pAt (s : State) (g n : Nat) : Nat := (getD (tileOf s g).p n 0).toNat
def sAt (s : State) (g n : Nat) : W32 := getD (tileOf s g).s n 0
def lAt (s : State) (g n : Nat) : W32 := getD (tileOf s g).l n 0
def eAt (s : State) (g n : Nat) : W32 := getD (tileOf s g).e n 0
/-- The local address in P[n]: its bits [23:0]. -/
def pReg (g n : Nat) : TileM Nat := do pure (pAt (← get) g n % 2 ^ 24)
/-- S[n] as a number. -/
def sReg (g n : Nat) : TileM Nat := do pure (sAt (← get) g n).toNat

/-- IMM sign-extended and added modulo the register's width: 2^48 for a pointer, 2^32 otherwise (R55). -/
def addImm (kind old imm : Nat) : Nat :=
  let m := if kind = 0 then 2 ^ 48 else 2 ^ 32
  (old + (if imm < 2 ^ 31 then imm else imm + (m - 2 ^ 32))) % m

/-! ### Elements in memory -/

/-- Bytes of `n` packed elements of format `f` (R89). -/
def elemBytes (f n : Nat) : Nat := (fmtWidth f * n + 7) / 8

/-- Read `n` element patterns of format `f` at `a`. -/
def readElems (g f a n : Nat) : TileM (List Nat) := do
  pure (unpackElems (fmtWidth f) n (← readMem g a (elemBytes f n)))

/-- Read elements converted exactly to FP32 (R91, R109). -/
def readF32 (g f a n : Nat) : TileM (List W32) := do
  pure ((← readElems g f a n).map (fun c => toF32 (decodeFmt f c)))

/-- Write element patterns. -/
def writeElems (g f a : Nat) (xs : List Nat) : TileM Unit := writeMem g a (packElems (fmtWidth f) xs)

/-- Convert FP32 results to FMT2 under nearest-even without saturation, write them and raise the flags (R102). -/
def writeResults (g f a : Nat) (xs : List (W32 × Flags)) : TileM Unit := do
  let cs := convertList f 0 (xs.map (fun x => f32 x.1)) []
  writeElems g f a (patterns cs)
  raiseFlags g (orFlags (xs.map (·.2)) ||| flagsOf cs)

/-! ### Lane states (R338, R339) -/

/-- The ring, PTR and DRAWN of a lane state. -/
structure Lane where
  x : List Nat
  ptr : Nat
  drawn : Nat
  deriving DecidableEq, Repr

/-- 32-bit little-endian words of a byte list. -/
def words32 (n : Nat) (bs : List Byte) : List Nat := unpackElems 32 n bs

/-- The generator buffer holds 64 lane states (R347). -/
def genSize : Nat := 64

/-- The state that begins at local address `a`: the held copy, and where none is held the bytes of tile memory (R347). -/
def loadLane (g a : Nat) : TileM (List Byte) := do
  match (tileOf (← get) g).gen.find? (fun h => h.addr == a) with
  | some h => pure h.bytes
  | none => readMem g a 384

/-- The ring, PTR and DRAWN of a lane state. -/
def Lane.ofBytes (bs : List Byte) : Lane := ⟨words32 89 bs, leNat ((bs.drop 0x164).take 4), leNat ((bs.drop 0x168).take 8)⟩

/-- A lane state's bytes with another ring, PTR and DRAWN; LANE and what follows it stay (R338). -/
def Lane.into (l : Lane) (bs : List Byte) : List Byte := packElems 32 l.x ++ bytesOf l.ptr 4 ++ bytesOf l.drawn 8 ++ bs.drop 0x170

/-- Write one held state back to tile memory. -/
def writeBackLane (g : Nat) (s : State) (h : HeldLane) : State := memWrite s g h.addr h.bytes

/-- Hold a state as the most recently used; the least recently used beyond 64 is written back (R347). -/
def holdLane (s : State) (g : Nat) (h : HeldLane) : State :=
  let all := h :: (tileOf s g).gen.filter (fun x => x.addr != h.addr)
  (all.drop genSize).foldl (writeBackLane g) (modTile s g (fun t => { t with gen := all.take genSize }))

/-- Write every held state back, before a FENCE, an op with WAIT set, a HALT or a quiesce (R347). -/
def flushGen (s : State) (g : Nat) : State :=
  (tileOf s g).gen.reverse.foldl (writeBackLane g) (modTile s g (fun t => { t with gen := [] }))

/-- RINIT drops the held copies of the addresses it writes (R347). -/
def dropLanes (t : Tile) (a n : Nat) : Tile :=
  { t with gen := t.gen.filter (fun h => h.addr + 384 ≤ a || a + n ≤ h.addr) }

/-- One draw (R336, R339). -/
def drawWord (l : Lane) : Nat × Lane :=
  let v := (l.x.getD l.ptr 0 + l.x.getD ((l.ptr + 51) % 89) 0) % 2 ^ 32
  (v, ⟨l.x.set l.ptr v, (l.ptr + 1) % 89, (l.drawn + 1) % 2 ^ 64⟩)

/-- `n` draws in order. -/
def drawWords (l : Lane) : Nat → List Nat × Lane
  | 0 => ([], l)
  | n + 1 =>
    let r := drawWord l
    let q := drawWords r.2 n
    (r.1 :: q.1, q.2)

/-- The checks of the ops that draw (R339, R343): the base aligned, the states in tile memory, every PTR in range. -/
def checkLaneAlign (base : Nat) : TileM Unit := faultIf (base % 64 != 0) 1
def checkLanes (g base n : Nat) : TileM Unit := do
  faultIf (!inMem base (384 * n)) 2
  for k in List.range n do
    let a := base + 384 * k
    let t := tileOf (← get) g
    match t.gen.find? (fun h => h.addr == a) with
    | some h => faultIf (88 < (Lane.ofBytes h.bytes).ptr) 1
    | none =>
      checkMem g a 384
      faultIf (88 < (Lane.ofBytes ((List.range 384).map (fun i => memByte t (a + i)))).ptr) 1

/-- Draw `n` words of lane `k`. -/
def drawLane (g base k n : Nat) : TileM (List Nat) := do
  let bs ← loadLane g (base + 384 * k)
  let r := drawWords (Lane.ofBytes bs) n
  modify (fun s => holdLane s g ⟨base + 384 * k, r.2.into bs⟩)
  pure r.1

/-- The random bits of one group: 4 per element from its four words (R344). -/
def groupBits (ws : List Nat) (n : Nat) : List Nat :=
  (List.range n).map (fun j => (ws.getD (j / 4) 0) / 2 ^ (28 - 4 * (j % 4)) % 16)

/-- The random bits of `n` elements, element a from lane a div 16 of `base` (R74, R343). -/
def stochBits (g base n : Nat) : TileM (List Nat) := do
  let mut out := []
  for k in List.range ((n + 15) / 16) do
    out := out ++ groupBits (← drawLane g base k 4) (min 16 (n - 16 * k))
  pure out

/-! ### Issue, retirement and waits -/

/-- The key of a router input or a link: port and virtual channel. -/
def portKey (p : Port) (vc : Nat) : Nat := p.num * 4 + vc

/-- The NET pipe holds an op that has not retired: packets that have not left the router, reads not answered. -/
def netBusy (t : Tile) : Bool :=
  t.reads != [] || (List.range 4).any (fun vc => (getD t.input (portKey .local vc) []).any (·.pkt.own))

/-- An issued op of the tile is not complete on some pipe (R58, R59). -/
def pipesBusy (t : Tile) : Bool := netBusy t || t.arr.isSome

/-- The hang timer's count of the NET pipe after a step of progress (R62): it runs on while the pipe's op is not complete. -/
def progress (s : State) (g : Nat) : State :=
  modTile s g (fun t => { t with held := if netBusy t then some s.now else none })

/-- Where the execute engine issues next: at PC, or behind the array op in progress, which PC names until it completes. -/
def issueAt (s : State) (g : Nat) : Nat := (tileOf s g).issue.getD (getF s F.TIL_STATUS_PC g)

/-- The address behind `pc` and the FEEDs from there on that the fetch engine has already carried out, with those left. -/
def skipFed (fed : List Nat) (pc : Nat) : Nat → Nat × List Nat
  | 0 => (pc, fed)
  | n + 1 => if fed.contains pc then skipFed (fed.erase pc) ((pc + 8) % 2 ^ 20) n else (pc, fed)

/-- The execute engine goes on at `pc`; PC follows it unless an array op is still in progress (R61). -/
def moveIssue (s : State) (g pc : Nat) : State :=
  let t := tileOf s g
  let r := skipFed t.fed (pc % 2 ^ 20) t.fed.length
  let s := if t.arr.isSome then s else setF s F.TIL_STATUS_PC g r.1
  modTile s g (fun t => { t with fed := r.2, issue := if t.arr.isSome then some r.1 else none })

/-- An op retires and the engine moves on (R61). -/
def retire (s : State) (g pc : Nat) : State :=
  let s := setF (moveIssue s g pc) F.TIL_STATUS_WAITKIND g 0
  progress (modTile s g (fun t => { t with wait := none, fencing := none })) g

/-- The declared wait of a tile completes: the engine moves past it. -/
def endWait (s : State) (g : Nat) : State := retire s g (issueAt s g + 8)

/-- The engine holds an op until every earlier op has completed (R59). -/
def holdFence (s : State) (g : Nat) (w : Word) : State :=
  setF (modTile s g (fun t => { t with fencing := some w })) F.TIL_STATUS_WAITKIND g 5

/-- The array op in progress has issued: later ops follow it (R58). -/
def issueArr (s : State) (g : Nat) : State :=
  if (tileOf s g).issue.isSome then s else moveIssue s g (getF s F.TIL_STATUS_PC g + 8)

/-- The array op in progress completes: PC names the op that issues next. -/
def endArr (s : State) (g : Nat) : State :=
  let t := tileOf s g
  let s := match t.issue with | some pc => setF s F.TIL_STATUS_PC g pc | none => s
  modTile s g (fun t => { t with arr := none, issue := none })

/-- WAITKIND of a declared wait. -/
def waitKind : WaitFor → Nat
  | .evwait .. => 1 | .recv .. => 2 | .tswap => 3 | .hoist _ => 4 | .sget _ => 6

/-- A declared wait begins (R58). -/
def beginWait (g : Nat) (x : WaitFor) : TileM OpEnd := do
  modify (fun s => setF (modTile s g (fun t => { t with wait := some { what := x, since := s.now } }))
    F.TIL_STATUS_WAITKIND g (waitKind x))
  pure .stay

/-- What becomes of a tile when an op's body has run: it retires, branches, waits, cannot issue yet, has issued and is short of
queue entries, or faults (R58, R62, R63). -/
def finishOp (s : State) (g : Nat) (r : EStateM.Result Nat State OpEnd) : State :=
  match r with
  | .ok .next t => retire t g (issueAt t g + 8)
  | .ok .array t => if (tileOf t g).issue.isSome then endArr t g else retire (endArr t g) g (getF t F.TIL_STATUS_PC g + 8)
  | .ok (.goto a) t => retire t g a
  | .ok .stay t => t
  | .error c t =>
    if c = notYet then s
    else if c = starve then issueArr t g
    else tileFault t g c

/-- Opcodes that hold the ARRAY pipe (R58, R68). -/
def isArray (op : Nat) : Bool := (0x08 ≤ op && op ≤ 0x0D) || op == 0x18

/-- Opcodes that R75 lists. -/
def listedOp (op : Nat) : Bool :=
  op ≤ 0x05 || (0x08 ≤ op && op ≤ 0x0D) || (0x10 ≤ op && op ≤ 0x15) || (0x18 ≤ op && op ≤ 0x1C) || (0x20 ≤ op && op ≤ 0x26) ||
    (0x28 ≤ op && op ≤ 0x2D) || (0x30 ≤ op && op ≤ 0x33) || (0x38 ≤ op && op ≤ 0x3A)

/-- The arithmetic of the tile's field pauses while its PLL relocks (R400). -/
def relocking (s : State) (g : Nat) : Bool := s.now < getD s.recov.relock (g / 700) 0

/-- The tile's execute engine can take op word `w` now: the field's arithmetic runs, and the array op in progress goes on; else the engine issues, no declared wait
or fence holds it, and the op's pipe is free (R58, R59). -/
def canIssue (s : State) (g : Nat) (w : Word) : Bool :=
  let t := tileOf s g
  !relocking s g && ((t.arr.any (fun a => a.word == w)) ||
    (running s g && t.wait.isNone && (t.fencing.isNone || t.fencing == some w) && !(t.arr.isSome && isArray (opcode w))))

/-- Run one op of the execute engine: an op the engine cannot take changes nothing; op bit 57 waits as a FENCE does (R59); an
opcode that R75 does not list raises fault 0x01. -/
def runOp (t : TileId) (w : Word) (op : Nat) (body : TileM OpEnd) (s : State) : State :=
  if canIssue s t.gid w = true ∧ (opcode w = op ∨ listedOp (opcode w) = false) then
    if getBits w 57 1 = 1 ∧ pipesBusy (tileOf s t.gid) = true ∧ ((tileOf s t.gid).arr.any (fun a => a.word == w)) = false then
      holdFence s t.gid w
    else if opcode w = op then finishOp s t.gid (body (if getBits w 57 1 = 1 then flushGen s t.gid else s))
    else tileFault s t.gid 1
  else s

end Sys2Proof.Machine
end

