-- ==== Sys2Proof/Machine/TierOps.lean ====
section
/-! DEFINITION. Operations over the tiers: places (R254), striping (R262), stack granules under their code (R370 to
R372), the Placement Table with its cache (R258 to R260), and accesses bound to an entry (R265 to R268). -/
namespace Sys2Proof.Machine

/-! ### Places (R254, R258) -/

def placeTier (p : Nat) : Nat := p % 4
/-- L of a T0 place, F of a T1 place. -/
def t0Index (p : Nat) : Nat := p / 4 % 2 ^ 17
def t1Frame (p : Nat) : Nat := p / 4 % 2 ^ 24
def t2Target (p : Nat) : Nat := p / 4 % 2 ^ 12
def t2Page (p : Nat) : Nat := p / 2 ^ 14 % 2 ^ 28
/-- No place. -/
def noPlace : BitVec 42 := 3

/-- The tile and local address of a T0 place's first byte (R255). -/
def t0Tile (s : State) (p : Nat) : Option Nat := tileAt s (t0Index p / 4 % 192) (t0Index p / 4 / 192)
def t0Addr (p : Nat) : Nat := t0Index p % 4 * 0x40000

/-- A place is usable (R258). -/
def placeUsable (s : State) (p : Nat) : Bool :=
  match placeTier p with
  | 0 => t0Index p ≤ 129023 && inService s (fieldAt (t0Index p / 4 % 192) (t0Index p / 4 / 192))
  | 1 => 2047 < t1Frame p && t1Frame p ≤ 12582911
  | 2 => farOpen s (t2Target p)
  | _ => false

/-- An entry as every access finds it (R258): the failing outcome, if any: 1 not present, 2 poisoned. -/
def entryFault (s : State) (e : PtEntry) : Nat :=
  if e.poison then 2 else if e.present && placeUsable s e.cur.toNat then 0 else 1

def ptEntry (s : State) (page : Nat) : PtEntry := getD s.tiers.pt page {}
/-! ### Striping and stack memory (R262, R370 to R372) -/

/-- Where unit `u` of frame `f` lies (R262). -/
def t1Unit (w f u : Nat) : Nat × Nat × Nat :=
  if f < 12 * w then
    let n := 64 * f + u
    (n % 4, n / 4 % 192, n / 768)
  else
    let per := 3 * (1048576 - w)
    let k := f - 12 * w
    let m := 64 * (k % per) + u
    (k / per, m % 192, w + m / 192)

/-- The frame and unit that R262 maps to a slot: the inverse used in record 0x1803 (R375). -/
def t1Frame? (w c ch slot : Nat) : Nat × Nat :=
  if slot < w then
    let n := slot * 768 + ch * 4 + c
    (n / 64, n % 64)
  else
    let m := (slot - w) * 192 + ch
    (12 * w + c * (3 * (1048576 - w)) + m / 64, m % 64)

/-- The key of a unit slot over all channels. -/
def unitKey (c ch slot : Nat) : Nat := (c * 192 + ch) * 2 ^ 20 + slot

/-- The key of unit `u` of frame `f`. -/
def t1Key (s : State) (f u : Nat) : Nat :=
  let x := t1Unit (getF s F.GLB_T1_SPLIT_WAFER_SLOTS 0) f u
  unitKey x.1 x.2.1 x.2.2

/-- The word of 64 valid bits that holds unit `k`'s, as stored. -/
def validWord (s : State) (k : Nat) : Nat := packBits 1 ((List.range 64).map (fun i => if getD s.tiers.valid (k / 64 * 64 + i) false then 1 else 0))

/-- A unit's valid bit as its word's decoder delivers it (R360, R371). -/
def unitValid (s : State) (k : Nat) : Bool :=
  match getD s.tiers.vflip (k / 64) 0 with
  | 0 => getD s.tiers.valid k false
  | m => Nat.testBit (eccDeliver 64 (validWord s k) m) (k % 64)

/-- A read of a unit's valid bit writes its word back: corrected, or as a poison mark (R360, R363). -/
def scrubValid (s : State) (k : Nat) : State :=
  match getD s.tiers.vflip (k / 64) 0 with
  | 0 => s
  | m =>
    let v := eccDeliver 64 (validWord s k) m
    { s with tiers := { s.tiers with
        valid := (List.range 64).foldl (fun a i => put a (k / 64 * 64 + i) (Nat.testBit v i) false) s.tiers.valid
        vflip := put s.tiers.vflip (k / 64) (if eccResult 64 m == .uncorrectable then eccPoison 64 else 0) 0 } }

/-- The errors of a granule: word key and mask. -/
def granuleErrs (s : State) (k g : Nat) : List (Nat × Nat) :=
  let lo := k * 512 + g * 8
  s.tiers.flip.filter (fun e => lo ≤ e.1 && e.1 < lo + 8 && eccResult 64 e.2 != .clean)

/-- The words of a granule as the decoder delivers them, as bytes. -/
def granuleBytes (s : State) (k g : Nat) : List Byte :=
  (List.range 8).flatMap (fun i =>
    let a := k * 4096 + g * 64 + 8 * i
    bytesOf (eccDeliver 64 (leNat (rdBytes s.tiers.mem a 8)) (getD s.tiers.flip (k * 512 + g * 8 + i) 0)) 8)

/-- Apply the write-back of R372: a corrected word gets fresh check bits, an uncorrectable one becomes a poison mark
over the bits it holds. -/
def writeBackWord (s : State) (e : Nat × Nat) : State :=
  let a := e.1 * 8
  let data := leNat (rdBytes s.tiers.mem a 8)
  let unc := eccResult 64 e.2 == .uncorrectable
  let v := if unc then data ^^^ (e.2 % 2 ^ 64) else eccDeliver 64 data e.2
  { s with tiers := { s.tiers with mem := wrBytes s.tiers.mem a (bytesOf v 8),
                                   flip := put s.tiers.flip e.1 (if unc then eccPoison 64 else 0) 0 } }

/-- Count an error of a channel (STK_CH_ERR). -/
def countChannel (s : State) (k : Nat) (e : Nat × Nat) : State :=
  let ch := k / 2 ^ 20
  if eccResult 64 e.2 == .uncorrectable then countI s F.STK_CH_ERR_UNCORR (ch / 192) (ch % 192) 1
  else countI s F.STK_CH_ERR_CORRECTED (ch / 192) (ch % 192) 1

/-- A word that has become uncorrectable and is not yet a poison mark. -/
def newlyLost (e : Nat × Nat) : Bool := eccResult 64 e.2 == .uncorrectable && !eccIsPoison 64 e.2

/-- The granules of a row are copied corrected, newly lost words as poison marks; marks are kept (R377). A lost word of the table stays
for the reader that rewrites its entry (R372). -/
def copyRow (s : State) (k g : Nat) : State :=
  let lo := k * 512 + g / 32 * 256
  let f := (t1Frame? (getF s F.GLB_T1_SPLIT_WAFER_SLOTS 0) (k / 2 ^ 20 / 192) (k / 2 ^ 20 % 192) (k % 2 ^ 20)).1
  let errs := s.tiers.flip.filter (fun e => lo ≤ e.1 && e.1 < lo + 256 && eccResult 64 e.2 != .clean && !eccIsPoison 64 e.2 &&
    (2047 < f || eccResult 64 e.2 == .corrected))
  errs.foldl (fun s e => writeBackWord (countChannel s k e) e) s

/-- The row of a granule is copied to the lowest free spare row (R377), to be entered in the repair list (R378). -/
def retireRow (s : State) (k g : Nat) : State :=
  let c := k / 2 ^ 20 / 192
  let ch := k / 2 ^ 20 % 192
  let row := k % 2 ^ 20 * 2 + g / 32
  let used := getI s F.STK_CH_ERR_ROWS_USED c ch
  if 16 ≤ used then sendRec s (.cres c) 0 0x1805 ch row
  else
    let s := setI (copyRow s k g) F.STK_CH_ERR_ROWS_USED c ch (used + 1)
    let s := { s with tiers := { s.tiers with rows := put s.tiers.rows (k / 2 ^ 20 * 2 ^ 21 + row) (used + 1) 0
                                              repairs := s.tiers.repairs ++ [(33600 + k / 2 ^ 20, used, row)] } }
    sendRec s (.cres c) 0 0x1804 (ch + used * 2 ^ 8) row

/-- The channel of a unit is out of service (R379): its granules read as lost and a write stores nothing (log entry 135). -/
def deadUnit (s : State) (k : Nat) : Bool := s.tiers.dead.contains (k / 2 ^ 20)

/-- Read one granule (R371, R372, R377): its bytes and the poison flag. -/
def readGranule (s : State) (k g : Nat) : List Byte × Bool × State :=
  if deadUnit s k then (List.replicate 64 0, true, s)
  else
  let s := scrubValid s k
  if !unitValid s k then (List.replicate 64 0, false, s)
  else
    let errs := granuleErrs s k g
    let bs := granuleBytes s k g
    let bad := errs.any (fun e => eccResult 64 e.2 == .uncorrectable)
    let s := errs.foldl (fun s e => writeBackWord (countChannel s k e) e) s
    let s := if errs.any newlyLost then retireRow s k g else s
    let s := if bad then countF s F.STK_ELOG_DISC_POISONED (k / 2 ^ 20 / 192) 1 else s
    (bs, bad, s)

/-- The errors of a granule after a write of its words `cov` with fresh check bits, or with the armed inversions of STK_INJ; whether
the injection was taken (R370, R371). -/
def freshFlips (s : State) (k g : Nat) (cov : Nat → Bool) : Assoc Nat × Bool :=
  let flip := s.tiers.flip.filter (fun e => !(k * 512 + g * 8 ≤ e.1 && e.1 < k * 512 + g * 8 + 8 && cov (e.1 % 8)))
  let c := k / 2 ^ 20 / 192
  let j := rdReg s .STK_INJ c 0
  let hit := getBits j 51 1 == 1 && k == unitKey c (getBits j 0 8) (getBits j 8 20) && g == getBits j 28 6
  let mask := eccMaskAt 64 (getBits j 37 7) ^^^ (if getBits j 44 7 = 0x7F then 0 else eccMaskAt 64 (getBits j 44 7))
  (if hit then put flip (k * 512 + g * 8 + getBits j 34 3) mask 0 else flip, hit)

/-- Write one granule, its words `cov` with fresh check bits (R370, R371). -/
def writeGranule (s : State) (k g : Nat) (bs : List Byte) (cov : Nat → Bool := fun _ => true) : State :=
  if deadUnit s k then s
  else
  let s := scrubValid s k
  let s := if unitValid s k then s else { s with tiers := { s.tiers with
    mem := s.tiers.mem.filter (fun e => e.1 / 4096 != k), flip := s.tiers.flip.filter (fun e => e.1 / 512 != k) } }
  let r := freshFlips s k g cov
  let s := { s with tiers := { s.tiers with mem := wrBytes s.tiers.mem (k * 4096 + g * 64) bs, flip := r.1,
                                            valid := put s.tiers.valid k true false } }
  if r.2 then setF s F.STK_INJ_ARM (k / 2 ^ 20 / 192) 0 else s

/-! ### The table in frames 0 to 2,047 (R259, R372) -/

/-- The unit and granule that hold the entry of a page. -/
def ptPlace (s : State) (page : Nat) : Nat × Nat := (t1Key s (page / 8192) (page / 128 % 64), page / 2 % 64)

/-- Write the four words of an entry with fresh check bits; the other entry of the granule keeps its own. -/
def putPt (s : State) (page : Nat) (e : PtEntry) : State :=
  let x := ptPlace s page
  let r := freshFlips s x.1 x.2 (fun i => i / 4 == page % 2)
  let s := { s with tiers := { s.tiers with pt := put s.tiers.pt page e {}, flip := r.1 } }
  if r.2 then setF s F.STK_INJ_ARM (x.1 / 2 ^ 20 / 192) 0 else s

/-- An entry whose words are lost: POISON 1 and no places (R372). -/
def lostEntry (e : PtEntry) : PtEntry := { e with poison := true, cur := noPlace, home := noPlace, repl := noPlace, dirty := 0 }

/-- Read the granule of a page's entry: single errors are corrected, and an entry with an uncorrectable word is rewritten. -/
def ptRead (s : State) (page : Nat) : State :=
  let x := ptPlace s page
  let errs := granuleErrs s x.1 x.2
  if errs.isEmpty then s
  else
    let s := errs.foldl (fun s e => writeBackWord (countChannel s x.1 e) e) s
    let bad := fun (h : Nat) => errs.any (fun e => eccResult 64 e.2 == .uncorrectable && e.1 % 8 / 4 == h)
    let s := if errs.any newlyLost then retireRow s x.1 x.2 else s
    [0, 1].foldl (fun s h =>
      let p := page / 2 * 2 + h
      if bad h then
        sendRec (putPt s p (lostEntry (ptEntry s p))) (.cres (p % 4)) ST_DATA_POISON 0x2001 p 256
      else s) s

/-- Change an entry: an indivisible read, merge and write of its granule (R370, R372). -/
def modPt (s : State) (page : Nat) (f : PtEntry → PtEntry) : State :=
  let s := ptRead s page
  putPt s page (f (ptEntry s page))

/-- Write an entry over whatever it was. -/
def setPt (s : State) (page : Nat) (e : PtEntry) : State := modPt s page (fun _ => e)

/-- Unit `u` of a page has been written away from its HOME (R275). -/
def setDirty (s : State) (page u : Nat) : State :=
  modPt s page (fun e => if e.cur != e.home then { e with dirty := e.dirty ||| BitVec.ofNat 64 (2 ^ (u % 64)) } else e)

/-- An error in a unit of a placed page: the owner is to poison the page (R268); the change waits for its
acknowledgements (R259). -/
def poisonPage (s : State) (page unit tier : Nat) : State :=
  if (ptEntry s page).poison || s.tiers.changes.any (fun c => c.page == page && (match c.what with | .poison .. => true | _ => false)) then s
  else { s with tiers := { s.tiers with changes := s.tiers.changes ++ [{ page, what := .poison unit tier }] } }

/-- The page whose CUR names the frame: a replica is another copy of the same bytes, and its loss leaves the page whole (R281). -/
def pageOfFrame (s : State) (f : Nat) : Option Nat :=
  (s.tiers.pt.find? (fun e => placeTier e.2.cur.toNat == 1 && t1Frame e.2.cur.toNat == f)).map (·.1)

/-- A lost word poisons the page whose place holds unit slot `k` (R268, R372). -/
def poisonAt (s : State) (k : Nat) : State :=
  let x := t1Frame? (getF s F.GLB_T1_SPLIT_WAFER_SLOTS 0) (k / 2 ^ 20 / 192) (k / 2 ^ 20 % 192) (k % 2 ^ 20)
  match pageOfFrame s x.1 with
  | some p => poisonPage s p x.2 1
  | none => s

/-- Read `n` granules of a unit from granule `g` on. -/
def readGranules (s : State) (k g : Nat) : Nat → List Byte × Bool × State
  | 0 => ([], false, s)
  | n + 1 =>
    let r := readGranule s k g
    let q := readGranules r.2.2 k (g + 1) n
    (r.1 ++ q.1, r.2.1 || q.2.1, q.2.2)

/-- Write granules of a unit from granule `g` on. -/
def writeGranules (s : State) (k g : Nat) (bs : List Byte) : Nat → State
  | 0 => s
  | n + 1 => writeGranules (writeGranule s k g (bs.take 64)) k (g + 1) (bs.drop 64) n

/-- Write bytes into part of a granule: an indivisible read, merge and write. A lost word that the bytes do not cover stays lost, and
poisons its page (R363, R370, R372; log entry 14). -/
def mergeGranule (s : State) (k g off : Nat) (bs : List Byte) : State :=
  let r := readGranule s k g
  let new := r.1.take off ++ bs ++ r.1.drop (off + bs.length)
  let s := writeGranule r.2.2 k g new (fun i => off ≤ 8 * i && 8 * i + 8 ≤ off + bs.length)
  if r.2.1 then poisonAt s k else s

/-- Write any bytes of a T1 unit, granule by granule. -/
def granulesWrite (s : State) (k off : Nat) (bs : List Byte) : Nat → State
  | 0 => s
  | n + 1 =>
    let l := min bs.length (64 - off % 64)
    if l = 0 then s
    else
      let s := if l = 64 then writeGranule s k (off / 64) (bs.take 64) else mergeGranule s k (off / 64) (off % 64) (bs.take l)
      granulesWrite s k (off + l) (bs.drop l) n

/-- Free a T1 place: the valid bits of its 64 units are cleared (R371). -/
def freePlace (s : State) (p : Nat) : State :=
  if placeTier p = 1 then
    { s with tiers := { s.tiers with
        valid := (List.range 64).foldl (fun v u => put v (t1Key s (t1Frame p) u) false false) s.tiers.valid } }
  else s

/-! ### The placement cache (R260) -/

/-- A read of a set of a placement cache corrects it; a set that cannot be corrected holds nothing (R360; log entry 114). -/
def scrubSet (s : State) (k : Nat) : State :=
  match getD s.tiers.cflip k 0 with
  | 0 => s
  | m => { s with tiers := { s.tiers with cflip := erase s.tiers.cflip k
                                          cache := if eccResult 64 m == .uncorrectable then erase s.tiers.cache k else s.tiers.cache } }

/-- A crescent looks an entry up: a hit moves the page to the front of its set, a miss reads the entry and may evict
the least recently used (R260). -/
def cacheLookup (s : State) (c page : Nat) : State :=
  let k := c * 4096 + page % 4096
  let s := scrubSet s k
  let ways := getD s.tiers.cache k []
  let s := if ways.contains page then countF s F.STK_PC_STAT_HITS c 1 else ptRead (countF s F.STK_PC_STAT_MISSES c 1) page
  { s with tiers := { s.tiers with cache := put s.tiers.cache k ((page :: ways.filter (· != page)).take 16) [] } }

/-- An invalidation drops the page from every cache (R259). -/
def cacheDrop (s : State) (page : Nat) : State :=
  { s with tiers := { s.tiers with cache := (List.range 4).foldl (fun m c =>
      let k := c * 4096 + page % 4096
      put m k ((getD m k []).filter (· != page)) []) s.tiers.cache } }

/-- An entry change by its owner, caches invalidated with it (R259; log entry 12). -/
def changePt (s : State) (page : Nat) (e : PtEntry) : State := setPt (cacheDrop s page) page e

/-! ### Accesses through an entry -/

/-- Send a far access (R229, R256, R265) on the connection of its far target; `turn` numbers the ports for the reads of one pour
descriptor (R229). -/
def sendFar (s : State) (write : Bool) (p u off bytes : Nat) (data : List Byte) (page cres : Nat) (what : FarFor)
    (turn : Option Nat := none) : State :=
  let n := t2Target p
  let base := (rdReg s .PRT_FAR_BASE 0 n).toNat / 4096 * 4096
  let id := s.tiers.nextFar
  let raddr := base + t2Page p * 2 ^ 18 + u * 4096 + off
  let q : FarReq := { id, target := n, raddr, bytes, write, data, page, unit := u, cres, what }
  let s := { s with tiers := { s.tiers with far := s.tiers.far ++ [q], nextFar := id + 1 } }
  startOut s { conn := getI s F.PRT_FAR_ATTR_CONN 0 n % 16384, cres, port := 0, kind := if write then .write else .read,
               tag := id % 65536, far := some id, addr := raddr % 2 ^ 64, len := bytes, data, turn }

/-- Read bytes of unit `u` of a T0 or T1 place (whole granules): the bytes and whether they are poisoned. -/
def placeRead (s : State) (p u off n : Nat) : List Byte × Bool × State :=
  if placeTier p = 0 then
    match t0Tile s p with
    | some g => memReadRemote s g (t0Addr p + u * 4096 + off) n
    | none => (List.replicate n 0, true, s)
  else
    readGranules s (t1Key s (t1Frame p) u) (off / 64) (n / 64)

/-- Write bytes of unit `u` of a T0 or T1 place. -/
def placeWrite (s : State) (p u off : Nat) (bs : List Byte) : State :=
  if placeTier p = 0 then
    match t0Tile s p with
    | some g => memWrite s g (t0Addr p + u * 4096 + off) bs
    | none => s
  else granulesWrite s (t1Key s (t1Frame p) u) off bs 66

/-- Read any bytes of unit `u` of a T0 or T1 place. -/
def placeBytes (s : State) (p u off n : Nat) : List Byte × Bool × State :=
  let lo := off / 64 * 64
  let r := placeRead s p u lo ((off + n + 63) / 64 * 64 - lo)
  ((r.1.drop (off - lo)).take n, r.2.1, r.2.2)

/-- An access looked up at crescent `c` met a page that failed (STK_ELOG_DISC). -/
def countFail (s : State) (c f : Nat) : State :=
  if f = 1 then countF s F.STK_ELOG_DISC_NOT_PRESENT c 1 else if f = 2 then countF s F.STK_ELOG_DISC_POISONED c 1 else s

/-- A write to unit `u` of a page, which `write` makes at a place and as the write that DIRTY counts (R265, R273, R275): at CUR; at the
new place of a copy too, once the unit's own copy write has landed there, or behind it. Nothing is written at a place that cannot be
used (R258). -/
def writeThrough (s : State) (page u off : Nat) (bs : List Byte) (write : State → Nat → Bool → State) : State :=
  let e := ptEntry s page
  let at' := fun (s : State) (p : Nat) (d : Bool) => if placeUsable s p then write s p d else s
  let s := at' s e.cur.toNat (e.cur != e.home)
  match s.tiers.copies.find? (fun c => c.page == page && !c.ended) with
  | none => s
  | some c =>
    if c.waiting.contains u then
      { s with tiers := { s.tiers with copies := s.tiers.copies.map (fun x =>
          if x.page = page then { x with behind := x.behind ++ [(u, off, bs)] } else x) } }
    else at' s c.dest false

/-- A write to a page for a unit of the module itself. -/
def pageWrite (s : State) (page u off : Nat) (bs : List Byte) : State :=
  writeThrough s page u off bs (fun s p dirty =>
    if placeTier p = 2 then sendFar s true p u off bs.length bs page (page % 4) (.put dirty)
    else
      let s := placeWrite s p u off bs
      if dirty then setDirty s page u else s)

/-- The pages that a range of `n` bytes at logical address `a` touches. -/
def pagesOf (a n : Nat) : List Nat := if n = 0 then [] else (List.range ((a + n - 1) / 2 ^ 18 - a / 2 ^ 18 + 1)).map (· + a / 2 ^ 18)

/-- The first page of a range that an access of a unit of the module fails at (R266, R267); else the first page. -/
def failPage (s : State) (a n : Nat) (write : Bool) : Nat :=
  let ps := (pagesOf a n).map (· % 2 ^ 24)
  (ps.find? (fun q => entryFault s (ptEntry s q) != 0 || (write && !(ptEntry s q).writable))).getD (a / 2 ^ 18 % 2 ^ 24)

/-- Pieces of a range that lie in one unit: page, unit, offset, length. -/
def piecesOf (a : Nat) : Nat → Nat → List (Nat × Nat × Nat × Nat)
  | 0, _ => []
  | _ + 1, 0 => []
  | f + 1, n =>
    let l := min n (4096 - a % 4096)
    (a / 2 ^ 18 % 2 ^ 24, a / 2 ^ 12 % 64, a % 4096, l) :: piecesOf (a + l) f (n - l)

/-- The staged bytes of a T2 piece, if they have arrived. -/
def stagedAt (s : State) (page unit off : Nat) : Option Staged :=
  s.tiers.staged.find? (fun x => x.page == page && x.unit == unit && x.off == off)

/-- The pieces of a range that lie in T2 and have not been read: none is outstanding twice. -/
def stageMissing (s : State) (c : Nat) (ps : List (Nat × Nat × Nat × Nat)) : List (Nat × Nat × Nat × Nat) × State :=
  let miss := ps.filter (fun p =>
    let e := ptEntry s p.1
    entryFault s e == 0 && placeTier e.cur.toNat == 2 && (stagedAt s p.1 p.2.1 p.2.2.1).isNone)
  (miss, miss.foldl (fun s p =>
    if s.tiers.far.any (fun q => q.page == p.1 && q.what == .stage p.2.1 p.2.2.1) then s
    else sendFar s false (ptEntry s p.1).cur.toNat p.2.1 p.2.2.1 p.2.2.2 [] p.1 c (.stage p.2.1 p.2.2.1)) s)

/-- Read one piece for a unit of the module itself, at place `place` of its page. -/
def readPiece (s : State) (place : Nat) (p : Nat × Nat × Nat × Nat) : Nat × List Byte × State :=
  if placeTier place = 2 then
    match stagedAt s p.1 p.2.1 p.2.2.1 with
    | some x => (x.fail, x.data, { s with tiers := { s.tiers with staged := s.tiers.staged.erase x } })
    | none => (4, [], s)
  else
    let q := placeBytes s place p.2.1 p.2.2.1 p.2.2.2
    if q.2.1 then (2, [], poisonPage q.2.2 p.1 p.2.1 (placeTier place)) else (0, q.1, q.2.2)

/-- The table's granules of a range's entries are read under their code (R372). -/
def checkEntries (s : State) (a n : Nat) : State := ((pagesOf a n).map (· % 2 ^ 24)).foldl ptRead s

/-- Read a run of bytes through the Placement Table for a unit of the module itself (descriptors, images, saves): the
failing outcome of R266, 1 not present or 2 poisoned; 4 while bytes from T2 are on their way (log entry 13). -/
def readLogical (s : State) (a n : Nat) : Nat × List Byte × State :=
  let s := checkEntries s a n
  let ps := piecesOf a (n / 4096 + 2) n
  let m := stageMissing s (a / 2 ^ 18 % 4) ps
  if !m.1.isEmpty then (4, [], m.2)
  else
    ps.foldl (fun r p =>
      if r.1 ≠ 0 then r
      else
        let s := r.2.2
        let e := ptEntry s p.1
        let f := entryFault s e
        if f ≠ 0 then (f, r.2.1, s)
        else
          let q := readPiece s e.cur.toNat p
          (q.1, r.2.1 ++ q.2.1, q.2.2)) (0, [], m.2)

/-- Write a run of whole granules through the Placement Table for a unit of the module itself; pages that R266 or R267
turns away are skipped and counted. -/
def writeLogical (s : State) (a : Nat) (bs : List Byte) : Nat × State :=
  let s := checkEntries s a bs.length
  let r := (piecesOf a (bs.length / 4096 + 2) bs.length).foldl (fun (r : Nat × List Byte × State) p =>
    let s := r.2.2
    let e := ptEntry s p.1
    let f := entryFault s e
    let rest := r.2.1.drop p.2.2.2
    if f ≠ 0 then (if r.1 = 0 then f else r.1, rest, s)
    else if !e.writable then
      (if r.1 = 0 then 3 else r.1, rest, sendRec (countF s F.PRT_ELOG_DISC_UNWRITABLE 0 1) .port 0 0x2003 p.1 0xFFFF)
    else (r.1, rest, pageWrite s p.1 p.2.1 p.2.2.1 (r.2.1.take p.2.2.2))) (0, bs, s)
  (r.1, r.2.2)

end Sys2Proof.Machine
end

