-- ==== Sys2Proof/Machine/Integrity.lean ====
section
/-! DEFINITION. Fettlers, spare lines and rows, stack reads as the controller serves them (R372 to R378). -/
namespace Sys2Proof.Machine

/-- A tile's fettler runs: its router is not in bypass, its field is in service and SWEEP is not 0 (R373). -/
def fettles (s : State) (g : Nat) : Bool :=
  inService s (g / 700) && getF s F.TIL_STATUS_BYPASS g == 0 && getF s F.FLD_FETTLE_SWEEP (g / 700) != 0

/-- A valid-bit copy that disagrees with the other two is repaired (R373). -/
def fettleValid (s : State) (g line : Nat) : State :=
  let v := getD (tileOf s g).valid line 0
  if v = 0 || v = 7 then s
  else
    let w := if lineValid (tileOf s g) line then 7 else 0
    let s := countF s F.TIL_MEM_ERR_CORRECTED g 1
    let s := wrReg s .TIL_MEM_LAST g 0 (BitVec.ofNat 64 (64 * line + 3 * 2 ^ 33))
    modTile s g (fun t => { t with valid := put t.valid line w 0 })

/-- One byte of a line: a correction is written back, a lost byte becomes a poison mark and is reported, a mark stays
(R366, R374). A hard error that no spare line takes comes back at every read (R376). -/
def fettleByte (g : Nat) (stuck : Bool) (s : State) (e : Nat × Nat) : State :=
  if eccIsPoison 8 e.2 then s
  else
    let s := logMemErr s g 8 0 e.1 e.2
    if eccResult 8 e.2 == .uncorrectable then
      let s := modTile s g (fun t => { t with mem := wrByte t.mem e.1 (BitVec.ofNat 8 ((rdByte t.mem e.1).toNat ^^^ (e.2 % 256)))
                                              memFlip := put t.memFlip e.1 (eccPoison 8) 0 })
      sendRec s (.tile g) 0 0x1800 e.1 0
    else if stuck then s
    else
      modTile s g (fun t => { t with mem := wrByte t.mem e.1 (BitVec.ofNat 8 (eccDeliver 8 (rdByte t.mem e.1).toNat e.2))
                                     memFlip := erase t.memFlip e.1 })

/-- TIL_REMAP_k of a line (R49, R376). -/
def remapWord (line : Nat) : Word := BitVec.ofNat 64 (line % 16 + line / 16 * 16 + 2 ^ 14)

/-- A line is retired into the next free spare (R376); a spare that fails in turn gives up its entry. -/
def retireLine (s : State) (g line : Nat) : State :=
  let used := getF s F.TIL_MEM_ERR_SPARES_USED g
  if 8 ≤ used then sendRec s (.tile g) 0 0x1802 (64 * line) 0
  else
    let s := (List.range 8).foldl (fun s k =>
      if rdReg s .TIL_REMAP g k = remapWord line then setI s F.TIL_REMAP_VALID g k 0 else s) s
    let s := wrReg (setF s F.TIL_MEM_ERR_SPARES_USED g (used + 1)) .TIL_REMAP g used (remapWord line)
    { s with tiers := { s.tiers with repairs := s.tiers.repairs ++ [(g, used, line)] } }

/-- The fettler reads a line and corrects it (R366, R374, R376). -/
def fettleLine (s : State) (g line : Nat) (hard : Bool) : State :=
  let s := fettleValid s g line
  let errs := memErrs (tileOf s g) (64 * line) 64
  let s := errs.foldl (fettleByte g (hard && 8 ≤ getF s F.TIL_MEM_ERR_SPARES_USED g)) s
  if hard && errs.any (fun e => eccResult 8 e.2 == .corrected) then retireLine s g line else s

/-- TILE_FETTLER_LINE (R373): the next line of the sweep in increasing address, skipped when it is invalid; after the last line the
next sweep starts; no other line is read. `hard` tells that the read after a write-back finds the same error. -/
def opTileFettler (g line : Nat) (hard : Bool) (s : State) : State :=
  if !fettles s g || line != (tileOf s g).sweep then s
  else
    fettleLine (modTile s g (fun t => { t with sweep := (line + 1) % 16384 })) g line hard

/-- The row of a granule fails a read after a correction (R377). -/
def hardRow (s : State) (k g : Nat) (hard corrected : Bool) : State := if hard && corrected then retireRow s k g else s

/-- A page of the table whose entry lies in a granule of the reserved frames. -/
def ptPage (s : State) (k g : Nat) : Option Nat :=
  let x := t1Frame? (getF s F.GLB_T1_SPLIT_WAFER_SLOTS 0) (k / 2 ^ 20 / 192) (k / 2 ^ 20 % 192) (k % 2 ^ 20)
  if x.1 ≤ 2047 then some (x.1 * 8192 + x.2 * 128 + g * 2) else none

/-- A granule of the table's frames is read (R377). -/
def readTable (s : State) (k g p : Nat) (hard : Bool) : State :=
  hardRow (ptRead s p) k g hard ((granuleErrs s k g).any (fun e => eccResult 64 e.2 == .corrected))

/-- Record 0x1803 of the fettler: the slot of a newly lost word, its frame and unit (R375). -/
def fettlerRecord (s : State) (c ch slot g : Nat) : State :=
  let x := t1Frame? (getF s F.GLB_T1_SPLIT_WAFER_SLOTS 0) c ch slot
  sendRec s (.cres c) 0 0x1803 (ch + g * 2 ^ 8) (slot + x.1 * 2 ^ 20 + x.2 * 2 ^ 44)

/-- A granule with newly lost words is reported, and its row is retired (R375, R377). -/
def reportLost (s : State) (c ch slot g k : Nat) : State := retireRow (fettlerRecord s c ch slot g) k g

/-- A granule of a data frame is swept: what is corrected is written back, what is lost becomes a mark. -/
def sweepGranule (s : State) (c ch slot g k : Nat) (hard : Bool) : State :=
  let s := scrubValid s k
  if !unitValid s k then s
  else
    let errs := (granuleErrs s k g).filter (fun e => !eccIsPoison 64 e.2)
    let s := errs.foldl (fun s e => writeBackWord (countChannel s k e) e) s
    if errs.any newlyLost then reportLost s c ch slot g k else hardRow s k g hard (!errs.isEmpty)

/-- A granule is swept: of the table's frames, page `p`, or of a data frame. -/
def sweepAt (s : State) (p : Option Nat) (c ch slot g k : Nat) (hard : Bool) : State :=
  match p with
  | some p => readTable (if (granuleErrs s k g).any newlyLost then fettlerRecord s c ch slot g else s) k g p hard
  | none => sweepGranule s c ch slot g k hard

/-- STACK_FETTLER_GRANULE (R375, R377): the next granule of the channel's sweep, in increasing slot and granule order; no other is
read. -/
def opStackFettler (c ch slot g : Nat) (hard : Bool) (s : State) : State :=
  let n := getD s.tiers.sweep (c * 192 + ch) 0
  if getF s F.STK_FETTLE_SWEEP c = 0 || n != slot * 64 + g then s
  else
    let k := unitKey c ch slot
    let s := { s with tiers := { s.tiers with sweep := put s.tiers.sweep (c * 192 + ch) ((n + 1) % 67108864) 0 } }
    sweepAt s (ptPage s k g) c ch slot g k hard

/-- A granule of a data frame is read. -/
def readData (s : State) (g k : Nat) (hard : Bool) : State :=
  let s := scrubValid s k
  if !unitValid s k then s
  else
    let errs := granuleErrs s k g
    let r := readGranule s k g
    let s := if r.2.1 then poisonAt r.2.2 k else r.2.2
    hardRow s k g hard (errs.any (fun e => eccResult 64 e.2 == .corrected) && !errs.any newlyLost)

/-- A read of a granule: of the table's frames, page `p`, or of a data frame. -/
def serveRead (s : State) (p : Option Nat) (g k : Nat) (hard : Bool) : State :=
  match p with
  | some p => readTable s k g p hard
  | none => readData s g k hard

/-- STACK_READ (R371, R372, R268): a read that a requester makes of one granule. -/
def opStackRead (c ch slot g : Nat) (hard : Bool) (s : State) : State :=
  serveRead s (ptPage s (unitKey c ch slot) g) g (unitKey c ch slot) hard

/-- REPAIR_LIST_APPEND (R378): the remaps made so far are in configuration flash. -/
def opRepairAppend (s : State) : State :=
  { s with tiers := { s.tiers with repairList := s.tiers.repairList ++ s.tiers.repairs, repairs := [] } }

def execTileFettlerLine (t : TileId) (line : Fin 16384) (hard : Bool) (s : State) : Host.Outcome State Fault Refusal :=
  .next (opTileFettler t.gid line hard s)
def execStackFettlerGranule (c : Fin 4) (ch : Fin 192) (slot : Fin 1048576) (g : Fin 64) (hard : Bool) (s : State) :
    Host.Outcome State Fault Refusal := .next (opStackFettler c ch slot g hard s)
def execStackRead (c : Fin 4) (ch : Fin 192) (slot : Fin 1048576) (g : Fin 64) (hard : Bool) (s : State) :
    Host.Outcome State Fault Refusal := .next (opStackRead c ch slot g hard s)
def execRepairListAppend (s : State) : Host.Outcome State Fault Refusal := .next (opRepairAppend s)

end Sys2Proof.Machine
end

