-- ==== Sys2Proof/Machine/Hss.lean ====
section
/-! DEFINITION. The signature of a manifest (R421): HSS of two levels over LMS_SHA256_M32_H10 and LMOTS_SHA256_N32_W4, as RFC 8554
defines them (log entry 7). -/
namespace Sys2Proof.Machine

/-- Bytes `i` to `i + n - 1`. -/
def cut (bs : List Byte) (i n : Nat) : List Byte := (bs.drop i).take n

/-- A big-endian number. -/
def bigNat (bs : List Byte) : Nat := bs.foldl (fun a b => a * 256 + b.toNat) 0

/-- The 4-bit digits of a byte string, high digit of each byte first. -/
def nibbles (bs : List Byte) : List Nat := bs.flatMap (fun b => [b.toNat / 16, b.toNat % 16])

/-- The checksum of a hash, over its 64 digits, in the place that the code gives it. -/
def otsChecksum (digest : List Byte) : Nat := ((nibbles digest).map (15 - ·)).sum * 16

/-- The rest of a hash chain: steps `j` to 14 of chain `i`. -/
def otsChain (pre : List Byte) (i : Nat) : Nat → Nat → List Byte → List Byte
  | 0, _, x => x
  | n + 1, j, x => otsChain pre i n (j + 1) (sha256 (pre ++ bigBytes 2 i ++ bigBytes 1 j ++ x))

/-- The candidate public key of a one-time signature `sig` of leaf `q` of tree `id`. -/
def otsKey (id : List Byte) (q : Nat) (msg sig : List Byte) : List Byte :=
  let pre := id ++ bigBytes 4 q
  let digest := sha256 (pre ++ [0x81, 0x81] ++ cut sig 4 32 ++ msg)
  let digits := nibbles (digest ++ bigBytes 2 (otsChecksum digest))
  let ends := (digits.take 67).zipIdx.map (fun d => otsChain pre d.2 (15 - d.1) d.1 (cut sig (36 + 32 * d.2) 32))
  sha256 (pre ++ [0x80, 0x80] ++ ends.flatten)

/-- The root that a leaf's hash `x` and its path lead to: `n` levels from node `node`. -/
def treeRoot (id path : List Byte) : Nat → Nat → List Byte → List Byte
  | 0, _, x => x
  | n + 1, node, x =>
    let sib := path.take 32
    let pair := if node % 2 = 1 then sib ++ x else x ++ sib
    treeRoot id (path.drop 32) n (node / 2) (sha256 (id ++ bigBytes 4 (node / 2) ++ [0x83, 0x83] ++ pair))

/-- An LMS key or signature names the parameter sets of R421. -/
def lmsTypes (lms ots : List Byte) : Bool := bigNat lms == 6 && bigNat ots == 3

/-- One level: `sig` is the signature of `msg` under the LMS key `key`. -/
def lmsVerify (key msg sig : List Byte) : Bool :=
  let id := cut key 8 16
  let q := bigNat (cut sig 0 4)
  let ots := cut sig 4 2180
  let leaf := sha256 (id ++ bigBytes 4 (1024 + q) ++ [0x82, 0x82] ++ otsKey id q msg ots)
  key.length == 56 && sig.length == 2508 && lmsTypes (cut key 0 4) (cut key 4 4) && lmsTypes (cut sig 2184 4) (cut ots 0 4) &&
    q < 1024 && treeRoot id (cut sig 2188 320) 10 (1024 + q) leaf == cut key 24 32

/-- The signature `sig` of `msg` verifies under the public key `key` (R421): other levels, lengths and parameter sets fail. -/
def hssVerify (key msg sig : List Byte) : Bool :=
  key.length == 60 && sig.length == 5076 && bigNat (cut key 0 4) == 2 && bigNat (cut sig 0 4) == 1 &&
    lmsVerify (cut key 4 56) (cut sig 2512 56) (cut sig 4 2508) && lmsVerify (cut sig 2512 56) msg (cut sig 2568 2508)

end Sys2Proof.Machine
end

