-- ==== Sys2Proof/Machine/BroisOps.lean ====
section
/-! DEFINITION. Sending over Brois: packets in flits kept for replay (R472), writes and reads of companion memory with
their credits (R173, R476 to R478). -/
namespace Sys2Proof.Machine

def linkOf (s : State) (l : Nat) : BLink := getD s.brois l {}
def setLink (s : State) (l : Nat) (b : BLink) : State := { s with brois := put s.brois l b {} }

/-- A link carries packets. -/
def linkActive (s : State) (l : Nat) : Bool := getI s F.BRL_STAT_STATE 0 l == 4

/-- The module sends a packet on a link: into the replay buffer of 512 flits, or behind it (R472). -/
def sendPkt (s : State) (l : Nat) (p : BPkt) : State :=
  let b := linkOf s l
  if b.unacked.length < 512 then
    setLink s l { b with unacked := b.unacked ++ [{ seq := b.txSeq, pkt := p, since := s.now }], txSeq := (b.txSeq + 1) % 1024 }
  else setLink s l { b with out := b.out ++ [p] }

/-- The link for a write of class C0: more credits, or B0 when both have the same number (R478); none without a credit. -/
def writeLink (s : State) : Option Nat :=
  let c := fun l => if linkActive s l then getI s F.BRL_STAT_C0_CREDITS 0 l else 0
  if c 0 = 0 && c 1 = 0 then none else if c 0 < c 1 then some 1 else some 0

/-- The packet of a write: a message write for an interrupt, a memory write otherwise (R474). -/
def writePkt (w : CompWrite) : BPkt :=
  match w.what with
  | .interrupt => .msgWr w.tag w.addr (BitVec.ofNat 32 (leNat (w.data.take 4)))
  | _ => .memWr w.tag w.addr w.data

/-- Put a write on link `l`, taking one of its credits. -/
def startWrite (s : State) (l : Nat) (w : CompWrite) : State :=
  let s := setI s F.BRL_STAT_C0_CREDITS 0 l (getI s F.BRL_STAT_C0_CREDITS 0 l - 1)
  sendPkt { s with cmd := { s.cmd with writes := s.cmd.writes ++ [{ w with link := l }] } } l (writePkt w)

/-- Write to companion memory (R476 to R478); without a credit the write waits, as link 2. -/
def sendWrite (s : State) (addr : Nat) (data : List Byte) (what : WriteFor) : State :=
  let w : CompWrite := { tag := s.cmd.nextTag, link := 2, addr, data, what }
  let s := { s with cmd := { s.cmd with nextTag := (s.cmd.nextTag + 1) % 4096 } }
  match writeLink s with
  | some l => startWrite s l w
  | none => { s with cmd := { s.cmd with writes := s.cmd.writes ++ [w] } }

/-- Waiting writes leave, oldest first, while credits last. -/
def retryWrites (s : State) : Nat → State
  | 0 => s
  | n + 1 =>
    match s.cmd.writes.find? (fun w => w.link == 2), writeLink s with
    | some w, some l =>
      retryWrites (startWrite { s with cmd := { s.cmd with writes := s.cmd.writes.erase w } } l w) n
    | _, _ => s

/-- The link for a read: fewer outstanding reads, among links with a credit and fewer than 256 reads (R476, R478). -/
def readLink (s : State) : Option Nat :=
  let ok := fun l => linkActive s l && 0 < (linkOf s l).c3 && getI s F.BRL_STAT_RD_OUT 0 l < 256
  match ok 0, ok 1 with
  | true, true => if getI s F.BRL_STAT_RD_OUT 0 1 < getI s F.BRL_STAT_RD_OUT 0 0 then some 1 else some 0
  | true, false => some 0
  | false, true => some 1
  | false, false => none

/-- Read 64 bytes of companion memory (R474). -/
def sendRead (s : State) (l addr : Nat) (what : ReadFor) : State :=
  let tag := s.cmd.nextTag
  let s := { s with cmd := { s.cmd with
    nextTag := (tag + 1) % 4096
    reads := s.cmd.reads ++ [{ tag, link := l, addr, bytes := 64, what }] } }
  let b := linkOf s l
  let s := setLink s l { b with c3 := b.c3 - 1 }
  sendPkt (setI s F.BRL_STAT_RD_OUT 0 l (getI s F.BRL_STAT_RD_OUT 0 l + 1)) l (.memRd tag addr)

end Sys2Proof.Machine
end

