-- ==== Sys2Proof/Machine/CmdOps.lean ====
section
/-! DEFINITION. The command unit: status precedence (R22), counters (R167, R168), completions (R160 to R164), event
records in the ring (R178, R180), interrupts (R181), paced requests (R175, R176, R251), service levels (R453, R454). -/
namespace Sys2Proof.Machine

/-! ### Status codes (R21, R22 and the chapters that add codes) -/

/-- Status codes in order of precedence, the one reported first (R22, R127, R165, R271, R302, R334, R358, R414, R442,
R465). -/
def statusOrder : List Nat :=
  [0x110, 0x180, 0x100, 0x60, 0x61, 0x170, 0x172, 0x171, 0x40, 0x20, 0x21, 0x132, 0x30, 0x141, 0x140, 0x151, 0x150, 0x152,
   0x161, 0x160, 0x162, 0x50, 0x120, 0x51, 0x11, 0x31, 0x130, 0x131, 0x10, 0x01, 0x00]

/-- A status that the spec leaves open: some code that R21 or a chapter defines (R23). -/
def freeStatus (k : Nat) : Nat := statusOrder.getD ((Config.freeValue k).toNat % statusOrder.length) 0

def statusRank (c : Nat) : Nat := statusOrder.idxOf c

/-- The status of lowest precedence number; ST_OK of none. -/
def bestStatus (cs : List Nat) : Nat := cs.foldl (fun a b => if statusRank b < statusRank a then b else a) 0

/-- A status of the class failure (R21). -/
def isFailure (c : Nat) : Bool := !([0x00, 0x01, 0x10, 0x31, 0x130, 0x131].contains c)

/-- The conditions that another code keeps from being reported. -/
def suppressed (cs : List Nat) (best : Nat) : List Nat := cs.eraseDups.filter (fun c => c != best && c != 0 && c != 1)

/-- They are counted in the error log of the block that saw them (R22, R549): the command unit, the port complex, crescent `c`. -/
def logOthers (s : State) (cs : List Nat) (best : Nat) : State :=
  (suppressed cs best).foldl (fun s c => logSupp s F.GLB_ELOG_SUPP_COUNT F.GLB_ELOG_SUPP_FIRST F.GLB_ELOG_SUPP_LAST 0 c) s
def logPort (s : State) (cs : List Nat) (best : Nat) : State :=
  (suppressed cs best).foldl (fun s c => logSupp s F.PRT_ELOG_SUPP_COUNT F.PRT_ELOG_SUPP_FIRST F.PRT_ELOG_SUPP_LAST 0 c) s
def logStack (s : State) (c : Nat) (cs : List Nat) (best : Nat) : State :=
  (suppressed cs best).foldl (fun s x => logSupp s F.STK_ELOG_SUPP_COUNT F.STK_ELOG_SUPP_FIRST F.STK_ELOG_SUPP_LAST c x) s

/-! ### Service levels (R453, R454) -/

/-- The number of bits set below bit 48. -/
def popcount48 (w : Nat) : Nat := ((List.range 48).filter (fun i => Nat.testBit w i)).length

/-- Fields in service. -/
def fieldsInService (s : State) : Nat := popcount48 (getF s F.GLB_FLD_SLOW_FIELDS 0 ||| getF s F.GLB_FLD_FULL_FIELDS 0)

/-- The level that the conditions of R453 give. -/
def levelOf (s : State) : Nat :=
  let n := fieldsInService s
  if getF s F.GLB_START_STAT_FRAME 0 = 0 || n < 12 then 0
  else if 46 ≤ n && getF s F.GLB_FLD_SLOW_FIELDS 0 = 0 then 2 else 1

/-- Bring GLB_START_STAT up to date; a change of level sends record 0x3100 (R454). -/
def updateService (s : State) : State :=
  let old := getF s F.GLB_START_STAT_SL 0
  let s := setF s F.GLB_START_STAT_IN_SERVICE 0 (fieldsInService s)
  let new := levelOf s
  let s := if new = 0 then s else { s with loader := { s.loader with reached := true } }
  if new = old then s
  else sendRec (setF s F.GLB_START_STAT_SL 0 new) .power 0 0x3100 (new + 4 * old) (fieldsInService s)

/-! ### Queues -/

def cqOf (s : State) (n : Nat) : CmdQueue := getD s.cmd.queues n {}
def setCq (s : State) (n : Nat) (q : CmdQueue) : State :=
  { s with cmd := { s.cmd with queues := put s.cmd.queues n q {} } }
def modCq (s : State) (n : Nat) (f : CmdQueue → CmdQueue) : State := setCq s n (f (cqOf s n))

/-- A SIZE is a power of two from 64 to 65,536; any other value counts as 0 (R146). -/
def validSize (z : Nat) : Bool := 64 ≤ z && z ≤ 65536 && 2 ^ Nat.log2 z == z
def cqSize (s : State) (n : Nat) : Nat :=
  let z := getI s F.GLB_CQ_CFG_SIZE 0 n
  if validSize z then z else 0

/-- Fields of a command (R155): little-endian numbers at a byte offset. -/
def cmdBits (c : Cmd) (off lo w : Nat) : Nat := leNat ((c.bytes.drop off).take 8) / 2 ^ lo % 2 ^ w
def Cmd.opcode (c : Cmd) : Nat := cmdBits c 0 0 8
def Cmd.flag (c : Cmd) (i : Nat) : Bool := cmdBits c 0 i 1 == 1

def headOf (s : State) (n : Nat) : W32 := BitVec.ofNat 32 (getI s F.GLB_CQ_STAT_HEAD 0 n)

/-- The queue's next command, if it has been read. -/
def nextCmd (s : State) (n : Nat) : Option Cmd := (cqOf s n).fetched.find? (fun c => c.idx == headOf s n)

/-- A module event counter. -/
def evcOf (s : State) (n : Nat) : W32 := BitVec.ofNat 32 (getI s F.GLB_EVC_VALUE 0 (n % 65536))

/-- A wait on counter `n` for value `v` holds (R168). -/
def evcReached (s : State) (n : Nat) (v : W32) : Bool := (evcOf s n - v).toNat < 2 ^ 31

/-- A command's wait condition holds (R151, R155). -/
def waitHolds (s : State) (c : Cmd) : Bool :=
  !c.flag 8 || evcReached s (cmdBits c 8 0 16) (BitVec.ofNat 32 (cmdBits c 8 32 32))

/-- Keep GLB_CQ_STAT_n.WAITING and the tick at which the next command became next (R163). DESIGN CHOICE (log entry 126): the wait time
runs from the tick at which it has been read and stands at the head. -/
def touchNext (s : State) (n : Nat) : State :=
  let q := cqOf s n
  match nextCmd s n with
  | some c =>
    setI (setCq s n { q with since := some (q.since.getD (portTicks s)) }) F.GLB_CQ_STAT_WAITING 0 n
      (if waitHolds s c then 0 else 1)
  | none => setI (setCq s n { q with since := none }) F.GLB_CQ_STAT_WAITING 0 n 0

/-! ### Interrupts and event records -/

/-- Send the message of vector `v` (R181); an address above 52 bits sends none and is counted (R477). -/
def sendIrq (s : State) (v : Nat) : State :=
  let a := (rdReg s .GLB_IRQ_ADDR 0 v).toNat / 4 * 4
  if 2 ^ 52 ≤ a then countF s F.BRL_HOSTERR_MSG_DROPPED 0 1
  else sendWrite s a (bytesOf (getI s F.GLB_IRQ_DATA_DATA 0 v) 4) .interrupt

/-- The 32 bytes of an event record (R178). -/
def recBytes (r : EvRec) (phase : Nat) : List Byte :=
  bytesOf (r.status % 65536 + phase * 2 ^ 16 + r.kind * 2 ^ 17 + r.unit * 2 ^ 20 + r.ptile * 2 ^ 26 + r.cause * 2 ^ 48) 8 ++
    bytesOf r.stamp 8 ++ bytesOf (r.seq + r.d0 * 2 ^ 32) 8 ++ bytesOf r.d1 8

/-- Records that the ring can still take. DESIGN CHOICE (log entry 127): a SIZE that is neither 0 nor a power of two from 64 to 65,536 is
no ring, as for queues (R146). -/
def ringRoom (s : State) : Bool :=
  let z := getF s F.GLB_EVR_CFG_SIZE 0
  validSize z && (s.cmd.ringTail - BitVec.ofNat 32 (getF s F.GLB_EVR_HEAD_HEAD 0)).toNat < z

/-- Write a record into the event ring (R178, R181). -/
def ringWrite (s : State) (r : EvRec) : State :=
  let z := getF s F.GLB_EVR_CFG_SIZE 0
  let t := s.cmd.ringTail.toNat
  let empty := s.cmd.ringTail == BitVec.ofNat 32 (getF s F.GLB_EVR_HEAD_HEAD 0)
  let s := { s with cmd := { s.cmd with ringTail := s.cmd.ringTail + 1 } }
  sendWrite s (getF s F.GLB_EVR_BASE_BASE 0 / 4096 * 4096 + 32 * (t % z)) (recBytes r ((t / z + 1) % 2)) (.record t empty)

/-- The record that tells how many records were lost (R180). -/
def lostRecord (s : State) : EvRec × State :=
  let n := getD s.cmd.seqs Src.port.key 0
  ({ status := 0, kind := 3, unit := 0, ptile := 0, cause := 0x0400, stamp := portTicks s, seq := n,
     d0 := getF s F.GLB_EVR_LOST_COUNT 0, d1 := getF s F.GLB_EVR_LOST_FIRST 0 },
   setF (setF { s with cmd := { s.cmd with seqs := put s.cmd.seqs Src.port.key ((n + 1) % 2 ^ 32) 0 } }
     F.GLB_EVR_LOST_COUNT 0 0) F.GLB_EVR_LOST_FIRST 0 0)

/-- As space opens, the records-lost record and then the held records are written (R180). DESIGN CHOICE (log entry 128): in this order,
although the held records are older. -/
def drainRecords (s : State) : Nat → State
  | 0 => s
  | n + 1 =>
    if !ringRoom s then s
    else if getF s F.GLB_EVR_LOST_COUNT 0 ≠ 0 then
      let r := lostRecord s
      drainRecords (ringWrite r.2 r.1) n
    else
      match s.cmd.heldRecs with
      | [] => s
      | r :: rs => drainRecords (ringWrite { s with cmd := { s.cmd with heldRecs := rs } } r) n

/-- A record reaches the command unit: written, held, or counted as lost (R178, R180). -/
def takeRecord (s : State) (r : EvRec) : State :=
  if ringRoom s && s.cmd.heldRecs.isEmpty && getF s F.GLB_EVR_LOST_COUNT 0 = 0 then ringWrite s r
  else if s.cmd.heldRecs.length < 256 then
    drainRecords { s with cmd := { s.cmd with heldRecs := s.cmd.heldRecs ++ [r] } } 258
  else
    let s := if getF s F.GLB_EVR_LOST_COUNT 0 = 0 then setF s F.GLB_EVR_LOST_FIRST 0 r.cause else s
    countF s F.GLB_EVR_LOST_COUNT 0 1

/-! ### Completions -/

/-- The 32 bytes of a completion record (R149, R161). -/
def compBytes (s : State) (n : Nat) (c : Cmd) (status detail : Nat) : List Byte :=
  let z := cqSize s n
  let phase := if z = 0 then 1 else (c.idx.toNat / z + 1) % 2
  bytesOf (status % 65536 + phase * 2 ^ 16 + n * 2 ^ 17 + cmdBits c 0 32 32 * 2 ^ 32) 8 ++
    bytesOf (c.idx.toNat + c.opcode * 2 ^ 32) 8 ++ bytesOf (portTicks s) 8 ++ bytesOf detail 8

/-- A command of queue `n` completes: it leaves the flight, its record is written, and the queue stops when it asks to
(R160 to R164). -/
def completeCmd (s : State) (n : Nat) (c : Cmd) (status detail : Nat) : State :=
  let z := cqSize s n
  let signal := if c.flag 9 && (!isFailure status || c.flag 12) then some (cmdBits c 8 16 16) else none
  let s := modCq s n (fun q => { q with inflight := q.inflight.filter (fun d => d.idx != c.idx) })
  let a := getI s F.GLB_CQ_CBASE_CBASE 0 n / 4096 * 4096 + 32 * (if z = 0 then 0 else c.idx.toNat % z)
  let s := sendWrite s a (compBytes s n c status detail) (.completion n signal (c.flag 10))
  if isFailure status && getI s F.GLB_CQ_CFG_STOP_ON_FAIL 0 n = 1 then setI s F.GLB_CQ_STAT_STOPPED 0 n 1 else s

/-- A command in flight. -/
def inflightCmd (s : State) (n : Nat) (i : W32) : Option Cmd := (cqOf s n).inflight.find? (fun c => c.idx == i)

/-- Complete the command in flight with index `i`. -/
def completeIdx (s : State) (n : Nat) (i : W32) (status detail : Nat) : State :=
  match inflightCmd s n i with
  | some c => completeCmd s n c status detail
  | none => s

/-- Complete with the status of lowest precedence number among several; the others are logged (R22). -/
def completeAmong (s : State) (n : Nat) (i : W32) (cs : List Nat) (detail : Nat) : State :=
  completeIdx (logOthers s cs (bestStatus cs)) n i (bestStatus cs) detail

/-- Mark a command in flight as taken up by its meaning. -/
def markRun (s : State) (n : Nat) (i : W32) : State :=
  modCq s n (fun q => { q with inflight := q.inflight.map (fun c => if c.idx = i then { c with run := true } else c) })

/-- The meaning of a command in flight, once: `f` gets the command. -/
def onCmd (s : State) (n : Nat) (i : W32) (op : Nat) (f : Cmd → State → State) : State :=
  match inflightCmd s n i with
  | some c => if c.opcode = op && !c.run then f c (markRun s n i) else s
  | none => s

/-! ### Counters and paced requests (R167, R168, R176, R251) -/

/-- The statuses of the marks that apply to a request's arguments (R251). -/
def markStatuses (s : State) (bytes : List Byte) : List Nat :=
  let gen := leNat ((bytes.drop 0x30).take 2)
  let load := leNat ((bytes.drop 0x32).take 2)
  (List.range 16).filterMap (fun k =>
    let w := rdReg s .GLB_MARK 0 k
    let id := getBits w 0 16
    if getBits w 32 1 = 1 && ((gen ≠ 0 && id = gen) || (load ≠ 0 && id = load)) then some (getBits w 16 16) else none)

/-- A paced request completes (R144, R176, R251). -/
def completeRequest (s : State) (n : Nat) (r : PacedReq) : State :=
  let lat := (portTicks s - r.tick) % 2 ^ 32
  let deadline := leNat ((r.bytes.drop 0x1C).take 4)
  let own := if deadline ≠ 0 && deadline < portTicks s - r.tick then ST_DEADLINE_MISS else ST_OK
  let s := modCq s n (fun q => { q with requests := q.requests.filter (fun x => x.idx != r.idx) })
  completeAmong s n r.idx (own :: markStatuses s r.bytes) (lat + r.seq.toNat * 2 ^ 32)

/-- Complete every admitted request of queue `n` whose target RESP_EV has passed (R176). -/
def checkPaced (s : State) (n : Nat) : State :=
  let q := cqOf s n
  q.requests.foldl (fun s r =>
    if (evcOf s (getI s F.GLB_CQ_PACE_RESP_EV 0 n) - (q.respBase + r.seq + 1)).toNat < 2 ^ 31 then completeRequest s n r else s) s

/-- Add to a module event counter (R167, R168): the waits and paced requests that depend on it follow. -/
def addEvc (s : State) (n : Nat) (v : W32) : State :=
  let s := setI s F.GLB_EVC_VALUE 0 (n % 65536) (evcOf s n + v).toNat
  s.cmd.queues.foldl (fun s e => checkPaced (touchNext s e.1) e.1) s

/-- The RUN commands whose every tile has executed HALT or been reset complete (R158, R462). -/
def finishRuns (s : State) : State :=
  s.cmd.queues.foldl (fun s e =>
    (e.2.runs.filter (fun j => j.left.isEmpty)).foldl (fun s j =>
      let s := modCq s e.1 (fun q => { q with runs := q.runs.filter (fun x => x.idx != j.idx) })
      completeIdx s e.1 j.idx (if j.anyReset then 0x160 else ST_OK) 0) s) s

end Sys2Proof.Machine
end

