-- ==== Sys2Proof/Machine/CmdChecks.lean ====
section
/-! DEFINITION. What makes a command invalid (R165) or empty (R166): its header, the reserved bits of its body and what its
chapter declares invalid (R127, R158, R174, R270, R317, R393, R394, R430). -/
namespace Sys2Proof.Machine

/-- Word `i` of a command's body (R155). -/
def bodyWord (c : Cmd) (i : Nat) : Nat := leNat ((c.bytes.drop (16 + 8 * i)).take 8)

/-- Field [lo + w − 1 : lo] of word `i` of the body. -/
def bodyF (c : Cmd) (i lo w : Nat) : Nat := bodyWord c i / 2 ^ lo % 2 ^ w

/-- Only the listed fields (lowest bit, width) of a word are not 0. -/
def onlyBits (v : Nat) (fs : List (Nat × Nat)) : Bool :=
  fs.foldl (fun a f => a + v / 2 ^ f.1 % 2 ^ f.2 * 2 ^ f.1) 0 == v

/-- The fields of each word of an opcode's body (R157, R270, R276, R316, R393, R394, R430); none for a reserved opcode. -/
def bodyFields (op : Nat) : Option (List (List (Nat × Nat))) :=
  match op with
  | 0x00 => some []
  | 0x01 => some [[(0, 16), (32, 32)]]
  | 0x08 => some [[(0, 33)]]
  | 0x09 => some [[(0, 42)], [(0, 64)], [(0, 42)], [(0, 64)], [(0, 64)], [(0, 64)]]
  | 0x10 => some [[(6, 36)]]
  | 0x18 => some [[(5, 42)], [(0, 16), (32, 32)], [(3, 39)], [(6, 36)], [(4, 38)], [(0, 49)]]
  | 0x19 => some [[(5, 41), (47, 1)], [(0, 16), (32, 32)], [], [(6, 36)], [(4, 38)], [(0, 49)]]
  | 0x1A => some [[(5, 41)], [(0, 64)], [(6, 36)], [(0, 32)], [(0, 42)]]
  | 0x20 => some [[(12, 31)], [(0, 48)], [(0, 32)]]
  | 0x21 => some [[(12, 30)], [(0, 48)]]
  | 0x28 => some [[(18, 24), (44, 5)], [(0, 48)], [(0, 42)]]
  | 0x29 => some [[(18, 24)], [(0, 32)]]
  | 0x30 => some [[(6, 42)], [(0, 42)]]
  | _ => none

/-- A reserved opcode, or a reserved header or body bit (R155, R165). -/
def headerBad (c : Cmd) : Bool :=
  match bodyFields c.opcode with
  | none => true
  | some fs => !onlyBits (leNat (c.bytes.take 8)) [(0, 13), (32, 32)] ||
      (List.range 6).any (fun i => !onlyBits (bodyWord c i) (fs.getD i []))

/-- The rectangle of a word: X0, Y0, W, H in its low four bytes. -/
def bodyRect (c : Cmd) (i : Nat) : Rect :=
  { x := bodyF c i 0 8, y := bodyF c i 8 8, w := bodyF c i 16 8, h := bodyF c i 24 8 }

/-- A rectangle reaches beyond x 191 or y 167. -/
def Rect.beyond (r : Rect) : Bool := 192 < r.x + r.w || 168 < r.y + r.h

/-- R158: a rectangle beyond the array, or a tile that runs. -/
def runBad (s : State) (c : Cmd) : Bool :=
  let r := bodyRect c 0
  r.beyond || (rectTiles s r).any (fun g => getF s F.TIL_STATUS_RUNNING g == 1)

/-- R174: a REQUEST outside a paced queue with an entry tile and a mailbox. -/
def requestBad (s : State) (n : Nat) : Bool :=
  getI s F.GLB_CQ_CFG_PACED 0 n == 0 || 192 ≤ getI s F.GLB_CQ_ENTRY_X 0 n || 168 ≤ getI s F.GLB_CQ_ENTRY_Y 0 n ||
    0xFFFFF < getI s F.GLB_CQ_ENTRY_MBOX 0 n / 64 * 64 + 0x3FF

/-- The index field of a place (R254): L, F or RP. -/
def placeIndex (p : Nat) : Nat :=
  match placeTier p with | 0 => t0Index p | 1 => t1Frame p | _ => t2Page p
/-- Place `i` after `p` (R270). -/
def placeNext (p i : Nat) : Nat :=
  match placeTier p with | 0 | 1 => p + 4 * i | _ => p + 2 ^ 14 * i
/-- The first index past a tier's range. -/
def placeEnd (p : Nat) : Nat := match placeTier p with | 0 => 129024 | 1 => 12582912 | _ => 2 ^ 28

/-- A place with a reserved bit set (R254). -/
def placeReserved (p : Nat) : Bool :=
  match placeTier p with | 0 => p / 2 ^ 19 != 0 | 1 => p / 2 ^ 26 != 0 | 2 => false | _ => p / 4 != 0

/-- R270, R271: a reserved action; a target with reserved bits set (DEDUCED, log entry 115), outside its tier or in the table's frames;
no place where the action needs one. -/
def migrateBad (c : Cmd) : Bool :=
  let a := bodyF c 0 44 3
  let p := bodyF c 2 0 42
  a == 7 || placeReserved p ||
    (if placeTier p = 3 then [0, 2, 3, 5].contains a
     else placeEnd p < placeIndex p + bodyF c 1 0 32 || (placeTier p == 1 && t1Frame p ≤ 2047))

/-- R317, the part that needs only the body. -/
def collBad (c : Cmd) : Bool :=
  if c.opcode = 0x1A then bodyF c 3 0 32 % 64 != 0 else 65536 < bodyF c 5 32 17

/-- R393. -/
def saveBad (s : State) (c : Cmd) : Bool :=
  let r := bodyRect c 1
  r.beyond || (bodyF c 0 42 1 == 1 && (rectTiles s r).any (fun g => getF s F.TIL_STATUS_RUNNING g == 1))

/-- R394; a rectangle beyond the array has no target tiles (DEDUCED, log entry 20). -/
def restoreBad (s : State) (c : Cmd) : Bool :=
  let r := bodyRect c 1
  r.beyond || (rectTiles s r).any (fun g => getF s F.TIL_STATUS_FENCED g == 0 && getF s F.TIL_STATUS_RUNNING g == 1)

/-- The command is invalid (R165). -/
def cmdBad (s : State) (n : Nat) (c : Cmd) : Bool :=
  headerBad c ||
    (match c.opcode with
    | 0x08 => runBad s c
    | 0x09 => requestBad s n
    | 0x18 | 0x19 | 0x1A => collBad c
    | 0x20 => saveBad s c
    | 0x21 => restoreBad s c
    | 0x28 => migrateBad c
    | 0x30 => bodyF c 0 46 2 == 3
    | _ => false)

/-- A collective whose body alone makes it empty (R166, R317). -/
def collEmpty (op : Nat) (c : Cmd) : Bool :=
  if op = 0x1A then bodyF c 3 0 32 == 0 else bodyF c 5 0 32 == 0 || bodyF c 5 32 17 == 0

/-- A length, count or size field of the command is 0 (R159, R166); a collective completes empty when its group's descriptor shows it
neither invalid nor excluded (R317). -/
def cmdEmpty (c : Cmd) : Bool :=
  match c.opcode with
  | 0x01 => bodyF c 0 32 32 == 0
  | 0x08 => bodyF c 0 16 8 == 0 || bodyF c 0 24 8 == 0
  | 0x09 => bodyF c 1 0 32 == 0 || bodyF c 3 0 32 == 0
  | 0x10 => bodyF c 0 0 42 == 0
  | 0x20 => bodyF c 1 16 8 == 0 || bodyF c 1 24 8 == 0 || bodyF c 2 0 32 == 0
  | 0x21 => bodyF c 1 16 8 == 0 || bodyF c 1 24 8 == 0
  | 0x28 | 0x29 => bodyF c 1 0 32 == 0
  | _ => false

/-- Take a command in flight through its checks: an invalid or an empty one completes at once; `f` gets any other and
says whether it has been taken up (`false`: it waits and is tried again). -/
def onValid (s : State) (n : Nat) (i : W32) (op : Nat) (f : Cmd → State → Bool × State) : State :=
  match inflightCmd s n i with
  | some c =>
    if c.opcode ≠ op || c.run then s
    else if cmdBad s n c then completeCmd s n c ST_CMD_INVALID 0
    else if cmdEmpty c then completeCmd s n c ST_OK_EMPTY 0
    else
      let r := f c s
      if r.1 then markRun r.2 n i else r.2
  | none => s

end Sys2Proof.Machine
end

