-- ==== Sys2Proof/Machine/Route.lean ====
section
/-! DEFINITION. Packets at the edge of the mesh: a tile's local port, the links between routers and the crescent links
(R78, R80, R81). -/
namespace Sys2Proof.Machine

/-- Flits of a packet: its header and its payload (R80). -/
def Packet.size (p : Packet) : Nat := 1 + (p.payload.length + 63) / 64

/-- A tile sends a packet into its router's local port: of the flits that have not left, the input holds the first 16 (R78), the
sender the others. -/
def inject (s : State) (g : Nat) (p : Packet) : State :=
  let p := { p with sx := logX s g, sy := logY s g, flits := p.size - 1 }
  modTile s g (fun t =>
    let k := portKey .local p.cls
    { t with input := put t.input k (getD t.input k [] ++ [{ pkt := p, arr := p.size }]) [] })

/-- Put a packet on the link from router `src` (none: a crescent) that enters tile `g` at port `p`. -/
def putWire (s : State) (g : Nat) (p : Port) (q : Packet) (src : Option Nat := none) : State :=
  modTile s g (fun t =>
    let k := portKey p q.cls
    { t with wire := put t.wire k (getD t.wire k [] ++ [{ pkt := q, src }]) [] })

/-- The port of a border tile that faces crescent `c` (R27). -/
def cresPort (c : Nat) : Port := match c with | 0 => .n | 1 => .e | 2 => .s | _ => .w

/-- The border tile of crescent `c` in the column or row of (x, y) (R27). -/
def borderPos (c x y : Nat) : Nat × Nat :=
  match c with | 0 => (x, 0) | 1 => (191, y) | 2 => (x, 167) | _ => (0, y)

/-- The tile (x, y) borders crescent `c` (R568). -/
def borders (c x y : Nat) : Bool := borderPos c x y == (x, y)

/-- A crescent sends a packet into the mesh through the border link in its destination's column or row; a link
declared down or a lost field takes none. -/
def cresSend (s : State) (c : Nat) (p : Packet) : State :=
  let b := borderPos c p.dx p.dy
  match tileAt s b.1 b.2 with
  | some g =>
    if inService s (g / 700) && !((tileOf s g).down.getLsbD (cresPort c).num) then
      putWire s g (cresPort c) { p with flits := p.size - 1 }
    else s
  | none => s

/-- The crescent nearest to a tile, ties in the order of R20: the spec does not say which crescent a tile's access
names (DESIGN CHOICE, log entry 15). -/
def nearCres (s : State) (g : Nat) : Nat :=
  let x := logX s g
  let y := logY s g
  let d := [y, 191 - x, 167 - y, x]
  ((List.range 4).foldl (fun b c => if d.getD c 0 < d.getD b 0 then c else b) 0)

/-- The logical position across port `p`, if it lies in the array. -/
def stepPos (p : Port) (x y : Nat) : Option (Nat × Nat) :=
  match p with
  | .n => if 0 < y then some (x, y - 1) else none
  | .e => if x < 191 then some (x + 1, y) else none
  | .s => if y < 167 then some (x, y + 1) else none
  | .w => if 0 < x then some (x - 1, y) else none
  | .local => none

end Sys2Proof.Machine
end

