-- ==== Sys2Proof/Machine/TileStream.lean ====
section
/-! DEFINITION. The ops of the NET pipe: SEND, RECV, TSWAP, TREL, RGET, RPUT (R52, R116 to R122, R130, R265 to R267),
SPUT and SGET (R352, R356). -/
namespace Sys2Proof.Machine

/-- An op of the NET pipe issues when its pipe is free (R58). -/
def netFree (g : Nat) : TileM Unit := do
  if netBusy (tileOf (← get) g) then throw notYet

/-- The bytes of COUNT units. -/
def unitBytes (w : Word) : Nat := 64 * wCount w

/-! ### Streams (R116 to R122) -/

/-- Split a transfer into packets of at most 64 payload flits (R116). -/
def streamPackets (stream cls seq : Nat) (own : Bool) (off : Nat) : Nat → List Byte → List Packet
  | 0, _ => []
  | n + 1, bs =>
    let p : Packet := { typ := tyStream, cls, routed := false, last := bs.length ≤ 4096, stream, addr := off, tag := seq,
                        payload := bs.take 4096, own }
    if bs.length ≤ 4096 then [p] else p :: streamPackets stream cls seq own (off + 64) n (bs.drop 4096)

/-- Send a transfer on a static stream, in the class of the tile's own route entry (R82). -/
def sendTransfer (s : State) (g stream seq : Nat) (own : Bool) (bs : List Byte) : State :=
  let cls := getI s F.TIL_ROUTE_CLASS g stream
  (streamPackets stream cls seq own 0 (bs.length / 4096 + 1) bs).foldl (fun s p => inject s g p) s

/-- SEND (R116, R121). -/
def opSend (g : Nat) (w : Word) : TileM OpEnd := do
  faultIf (badN w) 1
  let n := wCount w
  if n = 0 then return .next
  netFree g
  let a ← pReg g (wD w)
  faultIf (!inMem a (64 * n)) 2
  let bs ← readMem g a (64 * n)
  let stream := wSel w
  let r := getD (tileOf (← get) g).tx stream {}
  modify (fun s => sendTransfer s g stream r.next true bs)
  modify (fun s => modTile s g (fun t => { t with
    tx := put t.tx stream { addr := a, count := n, seq := r.next, next := (r.next + 1) % 65536 } {} }))
  pure .next

/-- TIL_RXWAIT shows the receive record of its stream (R122). -/
def showRx (s : State) (g : Nat) : State :=
  let r := getD (tileOf s g).rx (getF s F.TIL_RXWAIT_STREAM g) {}
  setF (setF s F.TIL_RXWAIT_SEQ g r.seq) F.TIL_RXWAIT_RECEIVED g r.units

/-- Set the receive record of a stream. -/
def setRx (s : State) (g stream : Nat) (r : RxRec) : State :=
  showRx (modTile s g (fun t => { t with rx := put t.rx stream r {} })) g

/-- RECV: a declared wait (R117, R118). -/
def opRecv (g : Nat) (w : Word) : TileM OpEnd := do
  faultIf (badN w) 1
  if wCount w = 0 then return .next
  netFree g
  let a ← pReg g (wD w)
  faultIf (!inMem a (unitBytes w)) 2
  beginWait g (.recv (wSel w) a (wCount w))

/-- A RECV completes (R118): its record goes on to the next transfer, and TIL_RXWAIT no longer names it. -/
def recvDone (s : State) (g stream seq : Nat) : State :=
  let s := setRx s g stream { seq := (seq + 1) % 65536 }
  let s := if getF s F.TIL_RXWAIT_STREAM g = stream then setF s F.TIL_RXWAIT_VALID g 0 else s
  endWait s g

/-- A stream packet meets the RECV outstanding on its stream (R117, R122). The first that shows another length than COUNT, by
reaching past it, by LAST before it or by reaching it without LAST, raises fault 0x01 (R118). One that is discarded does not
restart the RECV's time (R123). A TAG other than the expected sequence number becomes the record's (DESIGN CHOICE, log entry 111). -/
def acceptStream (s : State) (g stream base count : Nat) (p : Packet) : State :=
  let n := p.payload.length / 64
  if count < p.addr + n || p.last != decide (p.addr + n = count) then tileFault s g 1
  else
    let r := getD (tileOf s g).rx stream {}
    if p.addr < r.units then s
    else
      let s := modTile s g (fun t => { t with wait := t.wait.map (fun x => { x with since := s.now }) })
      let s := memWrite s g (base + 64 * p.addr) p.payload
      let r : RxRec := { seq := p.tag, units := if p.addr = r.units then p.addr + n else r.units, last := r.last || p.last }
      let s := setRx s g stream r
      if r.last && r.units = count then recvDone s g stream r.seq else s

/-! ### Tundish (R52, R129, R130) -/

def halfState (s : State) (g h : Nat) : Nat :=
  if h = 0 then getF s F.TIL_TUNDISH_H0_STATE g else getF s F.TIL_TUNDISH_H1_STATE g
def setHalf (s : State) (g h v : Nat) : State :=
  if h = 0 then setF s F.TIL_TUNDISH_H0_STATE g v else setF s F.TIL_TUNDISH_H1_STATE g v

/-- The draw half is released when it is in DRAW or DRAW_ZERO (R130). -/
def releaseDraw (s : State) (g : Nat) : State :=
  let d := getF s F.TIL_TUNDISH_DRAW g
  if halfState s g d = 4 || halfState s g d = 5 then setHalf s g d 6 else s

/-- The halves can change roles: the draw half RELEASED, the fill half FULL or SKIPPED (R130). -/
def canSwap (s : State) (g : Nat) : Bool :=
  let d := getF s F.TIL_TUNDISH_DRAW g
  halfState s g d == 6 && (halfState s g (1 - d) == 2 || halfState s g (1 - d) == 3)

/-- The exchange of roles (R52, R130). -/
def swapHalves (s : State) (g : Nat) : State :=
  let d := getF s F.TIL_TUNDISH_DRAW g
  let f := 1 - d
  let pour := getF s F.TIL_TUNDISH_FILL_POUR g
  let s := setHalf s g f (if halfState s g f = 2 then 4 else 5)
  let s := setHalf s g d 0
  let s := setF (setF s F.TIL_TUNDISH_DRAW g f) F.TIL_TUNDISH_FILL_POUR g 0
  modTile s g (fun t => { t with drawCe := false, drawPour := pour })

/-- TSWAP: exchange, or wait for it (R52). -/
def opTswap (g : Nat) (w : Word) : TileM OpEnd := do
  faultIf (badS w) 1
  netFree g
  if canSwap (← get) g then
    modify (fun s => swapHalves s g)
    pure .next
  else beginWait g .tswap

/-- TREL (R130). -/
def opTrel (g : Nat) (w : Word) : TileM OpEnd := do
  faultIf (badS w) 1
  netFree g
  modify (fun s => releaseDraw s g)
  pure .next

/-- A waiting TSWAP or HOIST completes when the halves can change roles (R130, R246). -/
def wakeSwap (s : State) (g : Nat) : State :=
  if canSwap s g then
    match (tileOf s g).wait with
    | some ⟨.tswap, _, _⟩ => endWait (swapHalves s g) g
    | some ⟨.hoist gen, _, _⟩ => endWait (setF (swapHalves s g) F.TIL_HOIST_GEN g gen) g
    | _ => s
  else s

/-! ### Remote accesses (R265 to R267) -/

/-- A unit's place in an access: a T0 place is reached through the mesh by a request in class C3 that carries the page
index (R265, R367). -/
def forwardT0 (s : State) (c p page u off : Nat) (q : Packet) : State :=
  let l := t0Index p
  cresSend s c { q with dx := l / 4 % 192, dy := l / 4 / 192, cls := 3, routed := true,
                        addr := t0Addr p + u * 4096 + off, page }

/-- One piece of an RGET, read at its place; the answer returns in class C0 with the tag (R171, R265). -/
def getPiece (s : State) (g c tag : Nat) (p : Nat × Nat × Nat × Nat) : State :=
  let e := ptEntry s p.1
  let place := e.cur.toNat
  let base : Packet := { typ := tyReadResp, cls := 0, routed := true, dx := logX s g, dy := logY s g, tag, units := p.2.2.2,
                         sx := logX s g, sy := logY s g }
  match placeTier place with
  | 0 => forwardT0 s c place p.1 p.2.1 p.2.2.1 { base with typ := tyReadReq }
  | 1 =>
    let r := placeBytes s place p.2.1 p.2.2.1 p.2.2.2
    let s := if r.2.1 then poisonPage r.2.2 p.1 p.2.1 1 else r.2.2
    cresSend s c { base with payload := r.1, poison := r.2.1 }
  | _ => sendFar s false place p.2.1 p.2.2.1 p.2.2.2 [] p.1 c (.tile g tag)

/-- Write bytes at one place for a tile's access. DIRTY follows the write: of a T0 place as it lands, of a T2 place as it is answered
(R275). -/
def putPlace (s : State) (g c place page u off : Nat) (bs : List Byte) (dirty : Bool) : State :=
  match placeTier place with
  | 0 => forwardT0 s c place page u off
      { typ := tyWrite, cls := 3, routed := true, payload := bs, sx := logX s g, sy := logY s g }
  | 1 =>
    let s := placeWrite s place u off bs
    if dirty then setDirty s page u else s
  | _ => sendFar s true place u off bs.length bs page c (.put dirty)

/-- One piece of an RPUT (R273, R275). -/
def putPiece (s : State) (g c : Nat) (p : Nat × Nat × Nat × Nat) (bs : List Byte) : State :=
  writeThrough s p.1 p.2.1 p.2.2.1 bs (fun s place dirty => putPlace s g c place p.1 p.2.1 p.2.2.1 bs dirty)

/-- The first page of an access that fails: the page and 1 not present, 2 poisoned, 3 not writable (R265 to R267). -/
def firstBad (s : State) (pages : List Nat) (write : Bool) : Option (Nat × Nat) :=
  pages.findSome? (fun q =>
    let e := ptEntry s q
    match entryFault s e with
    | 0 => if write && !e.writable then some (q, 3) else none
    | f => some (q, f))

/-- Look up and bind every page of an RGET or RPUT; the first failing page raises the tile's fault and its record
(R265 to R267). -/
def bindPages (g c a n : Nat) (write : Bool) : TileM Unit := do
  let pages := (pagesOf a n).map (· % 2 ^ 24)
  modify (fun s => pages.foldl (fun s q => cacheLookup s c q) s)
  let s ← get
  match firstBad s pages write with
  | none => pure ()
  | some (q, f) =>
    modify (fun s => sendRec (countFail s c f) (.tile g) 0 (if f = 3 then 0x2003 else 0x2000) q (logX s g + 256 * logY s g))
    throw (if f = 2 then 6 else 2)

/-- RGET (R171, R265): a slot per piece, reserved in tile memory before its request leaves. -/
def opRget (g : Nat) (w : Word) : TileM OpEnd := do
  faultIf (badN w) 1
  let n := unitBytes w
  if n = 0 then return .next
  netFree g
  let d ← pReg g (wD w)
  let a := pAt (← get) g (wA w) % 2 ^ 42
  faultIf (!inMem d n || 2 ^ 42 < a + n) 2
  let c := nearCres (← get) g
  bindPages g c a n false
  let mut dst := d
  for p in piecesOf a (n / 4096 + 2) n do
    let tag := (tileOf (← get) g).nextTag
    let base := dst
    modify (fun s => modTile s g (fun t => { t with
      reads := t.reads ++ [ReadSlot.mk tag p.1 base p.2.2.2]
      nextTag := (tag + 1) % 65536 }))
    modify (fun s => getPiece s g c tag p)
    dst := dst + p.2.2.2
  pure .next

/-- RPUT (R265, R267). -/
def opRput (g : Nat) (w : Word) : TileM OpEnd := do
  faultIf (badN w) 1
  let n := unitBytes w
  if n = 0 then return .next
  netFree g
  let b ← pReg g (wD w)
  let a := pAt (← get) g (wA w) % 2 ^ 42
  faultIf (!inMem b n || 2 ^ 42 < a + n) 2
  let bs ← readMem g b n
  let c := nearCres (← get) g
  bindPages g c a n true
  let mut rest := bs
  for p in piecesOf a (n / 4096 + 2) n do
    let part := rest.take p.2.2.2
    modify (fun s => putPiece s g c p part)
    rest := rest.drop p.2.2.2
  pure .next

/-! ### Sampling (R352, R356) -/

/-- SPUT: the units go on the sample bus of the tile's field (R352). -/
def opSput (g : Nat) (w : Word) : TileM OpEnd := do
  faultIf (badN w || wSel w != 0) 1
  let n := unitBytes w
  if n = 0 then return .next
  netFree g
  let a ← pReg g (wD w)
  faultIf (!inMem a n) 2
  let bs ← readMem g a n
  let h := leNat (bs.take 8)
  modify (fun s =>
    let s := setF (setF s F.TIL_SAMPLE_SESSION g (h / 2 ^ 32 % 8)) F.TIL_SAMPLE_SEQ g (h % 2 ^ 32)
    let s := setF (setF s F.TIL_SAMPLE_PENDING g 1) F.TIL_SAMPLE_READY g 0
    let m := getD s.samplers (g / 700) {}
    { s with samplers := put s.samplers (g / 700) { m with bus := m.bus ++ [⟨g, bs⟩] } {} })
  pure .next

/-- SGET: copy the result buffer, or wait for READY (R356). -/
def opSget (g : Nat) (w : Word) : TileM OpEnd := do
  faultIf (badN w || 1 < wCount w) 1
  if wCount w = 0 then return .next
  netFree g
  let a ← pReg g (wD w)
  faultIf (!inMem a 64) 2
  if getF (← get) F.TIL_SAMPLE_READY g = 1 then
    writeMem g a (bytesOf (tileOf (← get) g).result.toNat 64)
    pure .next
  else beginWait g (.sget a)

def execSend (t : TileId) (w : Word) (s : State) : Host.Outcome State Fault Refusal := .next (runOp t w 0x21 (opSend t.gid w) s)
def execRecv (t : TileId) (w : Word) (s : State) : Host.Outcome State Fault Refusal := .next (runOp t w 0x22 (opRecv t.gid w) s)
def execTswap (t : TileId) (w : Word) (s : State) : Host.Outcome State Fault Refusal := .next (runOp t w 0x23 (opTswap t.gid w) s)
def execTrel (t : TileId) (w : Word) (s : State) : Host.Outcome State Fault Refusal := .next (runOp t w 0x24 (opTrel t.gid w) s)
def execRget (t : TileId) (w : Word) (s : State) : Host.Outcome State Fault Refusal := .next (runOp t w 0x25 (opRget t.gid w) s)
def execRput (t : TileId) (w : Word) (s : State) : Host.Outcome State Fault Refusal := .next (runOp t w 0x26 (opRput t.gid w) s)
def execSput (t : TileId) (w : Word) (s : State) : Host.Outcome State Fault Refusal := .next (runOp t w 0x39 (opSput t.gid w) s)
def execSget (t : TileId) (w : Word) (s : State) : Host.Outcome State Fault Refusal := .next (runOp t w 0x3A (opSget t.gid w) s)

end Sys2Proof.Machine
end

