-- ==== Sys2Proof/Machine/TileSync.lean ====
section
/-! DEFINITION. The SYNC class: FENCE, EVSIG, EVWAIT, LOOP, HOIST, HALT (R59, R75, R76, R246). -/
namespace Sys2Proof.Machine

/-- A wait on counter value `e` for `v` holds (R76, R168). -/
def reached (e v : W32) : Bool := (e - v).toNat < 2 ^ 31

/-- FENCE: issues only when every earlier op has completed (R59). -/
def opFence (g : Nat) (w : Word) : TileM OpEnd := do
  faultIf (badS w) 1
  if pipesBusy (tileOf (← get) g) then
    modify (fun s => holdFence s g w)
    pure .stay
  else
    modify (fun s => flushGen s g)
    pure .next

/-- Add to a local event counter (R76). -/
def addLocal (s : State) (g n : Nat) (v : W32) : State :=
  modTile s g (fun t => { t with e := put t.e n (getD t.e n 0 + v) 0 })

/-- An increment of a module counter leaves through the crescent nearest to the tile (R169; log entry 35). -/
def toCommand (s : State) (g ev : Nat) (v : W32) : State :=
  let c := nearCres s g
  let b := borderPos c (logX s g) (logY s g)
  inject s g { typ := tyIncr, cls := 0, routed := true, dx := b.1, dy := b.2, dcres := true, dc := c, tag := ev, amount := v }

/-- EVSIG (R76). -/
def opEvsig (g : Nat) (w : Word) : TileM OpEnd := do
  faultIf (badSig w || 2 < wMode w) 1
  let v := BitVec.ofNat 32 (wImm w)
  match wMode w with
  | 0 => modify (fun s => addLocal s g (wD w) v)
  | 1 =>
    let x ← sReg g (wB w)
    faultIf (191 < x % 256 || 167 < x / 256 % 256) 1
    modify (fun s => inject s g { typ := tyIncr, cls := 0, routed := true, dx := x % 256, dy := x / 256 % 256,
                                  addr := wD w, amount := v })
  | _ =>
    let x ← sReg g (wB w)
    modify (fun s => toCommand s g (x % 65536) v)
  pure .next

/-- EVWAIT (R75). -/
def opEvwait (g : Nat) (w : Word) : TileM OpEnd := do
  faultIf (badS w) 1
  let v := BitVec.ofNat 32 (wImm w)
  if reached (eAt (← get) g (wD w)) v then pure .next else beginWait g (.evwait (wD w) v)

/-- LOOP (R75): branches are relative to the LOOP's own address. -/
def opLoop (g : Nat) (w : Word) : TileM OpEnd := do
  faultIf (badS w || 3 < wD w) 1
  let l := lAt (← get) g (wD w)
  if l = 0 then return .next
  putLoop (wD w) (l - 1)
  if l - 1 = 0 then return .next
  let pc := issueAt (← get) g
  pure (.goto ((pc + 8 * wImm w) % 2 ^ 20))
where
  putLoop (n : Nat) (v : W32) : TileM Unit := modify (fun s => modTile s g (fun t => { t with l := put t.l n v 0 }))

/-- HOIST (R246). -/
def opHoist (g : Nat) (w : Word) : TileM OpEnd := do
  faultIf (badS w || wKind w != 0 || wMode w != 0 || wImm w != 0) 1
  let a ← pReg g (wD w)
  faultIf (!inMem a 2) 2
  let gen := leNat (← readMem g a 2) % 2 ^ 15
  let d := (gen + 2 ^ 15 - getF (← get) F.TIL_HOIST_GEN g) % 2 ^ 15
  if d = 0 then return .next
  faultIf (2 ^ 14 ≤ d) 1
  modify (fun s => releaseDraw s g)
  if canSwap (← get) g then
    modify (fun s => setF (swapHalves s g) F.TIL_HOIST_GEN g gen)
    pure .next
  else beginWait g (.hoist gen)

/-- HALT: the program ends, and the RUN commands that started the tile see it (R75, R158). -/
def opHalt (g : Nat) (w : Word) : TileM OpEnd := do
  faultIf (badS w) 1
  modify (fun s =>
    let s := setF (flushGen s g) F.TIL_STATUS_RUNNING g 0
    finishRuns { s with cmd := { s.cmd with queues := s.cmd.queues.map (fun e =>
        (e.1, { e.2 with runs := e.2.runs.map (fun j => { j with left := j.left.filter (· != g) }) })) } })
  pure .next

def execFence (t : TileId) (w : Word) (s : State) : Host.Outcome State Fault Refusal := .next (runOp t w 0x28 (opFence t.gid w) s)
def execEvsig (t : TileId) (w : Word) (s : State) : Host.Outcome State Fault Refusal := .next (runOp t w 0x29 (opEvsig t.gid w) s)
def execEvwait (t : TileId) (w : Word) (s : State) : Host.Outcome State Fault Refusal := .next (runOp t w 0x2A (opEvwait t.gid w) s)
def execLoop (t : TileId) (w : Word) (s : State) : Host.Outcome State Fault Refusal := .next (runOp t w 0x2B (opLoop t.gid w) s)
def execHoist (t : TileId) (w : Word) (s : State) : Host.Outcome State Fault Refusal := .next (runOp t w 0x2C (opHoist t.gid w) s)
def execHalt (t : TileId) (w : Word) (s : State) : Host.Outcome State Fault Refusal := .next (runOp t w 0x2D (opHalt t.gid w) s)

end Sys2Proof.Machine
end

