-- ==== Sys2Proof/Machine/TileEvents.lean ====
section
/-! DEFINITION. What happens at a tile beside its ops: the hang timer and the timeouts of declared waits (R62, R123,
R131, R247), packets at its local port (R117, R130, R171, R265, R366, R367), TIL_CTRL and TIL_RESEND (R61, R63, R87,
R122). -/
namespace Sys2Proof.Machine

/-- The fields that share a seam with field `f`. -/
def neighbours (f : Nat) : List Nat :=
  (if 8 ≤ f then [f - 8] else []) ++ (if f % 8 < 7 then [f + 1] else []) ++ (if f < 40 then [f + 8] else []) ++
    (if 0 < f % 8 then [f - 1] else [])

/-! ### Timers (R383) -/

/-- A tile lies in a mould image that the open incident fences: its timers hold their counts (R383). -/
def timersHeld (s : State) (g : Nat) : Bool :=
  match s.recov.incident with
  | none => false
  | some inc =>
    let x := logX s g
    let y := logY s g
    let pos := inc.fenced.map (fun h => (logX s h, logY s h))
    s.slots.any (fun e => e.2.moulds.any (·.has x y) && e.2.moulds.any (fun r => pos.any (fun q => r.has q.1 q.2)))

/-- A time before which the timers of a tile held their counts moves up. -/
def laterBy (now from_ t : Nat) : Nat := t + (now - max t from_)

/-- Move the times from which the timers of a tile count (R62, R123, R131). -/
def shiftTimers (f : Nat → Nat) (t : Tile) : Tile :=
  { t with held := t.held.map f, arr := t.arr.map (fun a => { a with since := f a.since })
           wait := t.wait.map (fun w => { w with since := f w.since }) }

/-- The timers of a tile go on from where they were held at `from_` (R383). -/
def moveTimers (now from_ : Nat) (t : Tile) : Tile := shiftTimers (laterBy now from_) t

/-- The timers that the open incident holds resume. -/
def resumeTimers (s : State) (from_ : Nat) : State :=
  { s with tiles := s.tiles.map (fun e => if timersHeld s e.1 then (e.1, moveTimers s.now from_ e.2) else e) }

/-- More than `tmo` ticks have passed since `t`; 0 disables a timeout. -/
def overdue (s : State) (tmo t : Nat) : Bool := tmo != 0 && tmo < s.now - t

/-- An issued op that has made no progress since `t` has used up the hang limit (R62). -/
def hung (s : State) (g : Nat) (t : Option Nat) : Bool :=
  t.any (fun t => getF s F.TIL_HANG_LIMIT g != 0 && getF s F.TIL_HANG_LIMIT g ≤ s.now - t)

/-- HANG_TIMER_EXPIRY: an issued op, of the NET or the ARRAY pipe, that made no progress for TIL_HANG.LIMIT counts (R62). -/
def opHang (g : Nat) (s : State) : State :=
  let t := tileOf s g
  if (hung s g t.held || hung s g (t.arr.map (·.since))) && !timersHeld s g then tileFault s g 4 else s

/-! ### Quiesce (R61) -/

/-- A quiesce begins: a declared wait is abandoned, and TIL_RXWAIT names an abandoned RECV (R61, R122). -/
def startQuiesce (s : State) (g : Nat) : State :=
  let s := match (tileOf s g).wait with
    | some ⟨.recv stream _ _, _, _⟩ =>
      showRx (setF (setF s F.TIL_RXWAIT_STREAM g stream) F.TIL_RXWAIT_VALID g 1) g
    | _ => s
  if (tileOf s g).wait.isSome || (tileOf s g).fencing.isSome then
    setF (modTile s g (fun t => { t with wait := none, fencing := none })) F.TIL_STATUS_WAITKIND g 0
  else s

/-- FEEDs of a tile that have not delivered their last entry. -/
def feedsOpen (t : Tile) : List Feed := t.queues.filterMap (·.2.feed) ++ t.feeds

/-- The first op not completed: the one at PC, or the earliest FEED before it that has not delivered its last entry (R61). -/
def firstOpen (t : Tile) (pc : Nat) : Nat :=
  ((feedsOpen t).filter (fun f => !t.fed.contains f.pc)).foldl (fun (b : Nat × Option Nat) f =>
    if b.2.all (f.no < ·) then (f.pc, some f.no) else b) (pc, none) |>.1

/-- QUIESCE_COMPLETE: every issued op has completed, or a fault has stopped the engines (R63); the engines rewind to the first op that has not, and the queues are emptied
(R61; log entry 110). -/
def opQuiesceComplete (g : Nat) (s : State) : State :=
  let t := tileOf s g
  if (getF s F.TIL_CTRL_QUIESCE g = 1 || getF s F.TIL_STATUS_FENCED g = 1) && getF s F.TIL_STATUS_QUIESCED g = 0 &&
      (getF s F.TIL_STATUS_FAULT g != 0 || (t.wait.isNone && !pipesBusy t)) then
    let s := setF (setF (flushGen s g) F.TIL_STATUS_QUIESCED g 1) F.TIL_STATUS_RUNNING g 0
    let s := setF s F.TIL_STATUS_PC g (firstOpen t (getF s F.TIL_STATUS_PC g))
    modTile s g (fun t => { t with queues := [], feeds := [], fed := [], held := none })
  else s

/-- RUN is set in a tile: both engines start at PC and FAULT returns to 0 (R61, R63); a tile in bypass runs no op (R86). -/
def startTile (s : State) (g : Nat) : State :=
  let s := setF (setF s F.TIL_CTRL_RUN g 1) F.TIL_STATUS_FAULT g 0
  if getF s F.TIL_CTRL_QUIESCE g = 0 && getF s F.TIL_STATUS_BYPASS g = 0 then
    setF (setF s F.TIL_STATUS_RUNNING g 1) F.TIL_STATUS_QUIESCED g 0
  else s

/-- TIL_CTRL_RUN (R61, R63, R87). -/
def opTilRun (g : Nat) (v : Bool) (s : State) : State :=
  if getF s F.TIL_STATUS_FENCED g = 1 then s
  else if v then startTile s g
  else setF (setF s F.TIL_CTRL_RUN g 0) F.TIL_STATUS_RUNNING g 0

/-- TIL_CTRL_QUIESCE (R61, R87). -/
def opTilQuiesce (g : Nat) (v : Bool) (s : State) : State :=
  if getF s F.TIL_STATUS_FENCED g = 1 then s
  else if v then startQuiesce (setF s F.TIL_CTRL_QUIESCE g 1) g
  else setF (setF s F.TIL_CTRL_QUIESCE g 0) F.TIL_STATUS_QUIESCED g 0

/-! ### Timeouts of declared waits -/

/-- RECV_TIMEOUT (R123): the tile quiesces at the RECV and its field sends a record. -/
def opRecvTimeout (g : Nat) (s : State) : State :=
  match (tileOf s g).wait with
  | some ⟨.recv stream _ _, since, _⟩ =>
    if overdue s (getF s F.FLD_STREAM_TMO_RECV_TMO (g / 700)) since && !timersHeld s g then
      let r := getD (tileOf s g).rx stream {}
      sendRec (startQuiesce (setF s F.TIL_CTRL_QUIESCE g 1) g) (.tile g) ST_TIMEOUT 0x0300 stream r.seq
    else s
  | _ => s

/-- A TSWAP or HOIST waited too long: one record, and it goes on waiting (R131, R247). -/
def swapTimeout (g : Nat) (since : Nat) (reported : Bool) (s : State) : State :=
  if overdue s (getF s F.FLD_STREAM_TMO_TSWAP_TMO (g / 700)) since && !reported && !timersHeld s g then
    modTile (sendRec s (.tile g) ST_TIMEOUT 0x0301 (getF s F.TIL_TUNDISH_FILL_POUR g) 0) g
      (fun t => { t with wait := t.wait.map (fun w => { w with reported := true }) })
  else s

/-- TSWAP_TIMEOUT (R131). -/
def opTswapTimeout (g : Nat) (s : State) : State :=
  match (tileOf s g).wait with
  | some ⟨.tswap, since, rep⟩ => swapTimeout g since rep s
  | _ => s

/-- HOIST_TIMEOUT (R247). -/
def opHoistTimeout (g : Nat) (s : State) : State :=
  match (tileOf s g).wait with
  | some ⟨.hoist _, since, rep⟩ => swapTimeout g since rep s
  | _ => s

/-! ### Packets at the local port -/

/-- Packet `k` of those at the local port, when all of it has arrived and no earlier one shares its virtual channel and input
(R117, R119). -/
def localPacket (s : State) (g k : Nat) : Option Packet :=
  match (tileOf s g).localIn[k]? with
  | some p =>
    if p.arr < p.pkt.size || ((tileOf s g).localIn.take k).any (fun q => q.pkt.cls == p.pkt.cls && q.src == p.src) then none
    else some p.pkt
  | none => none

/-- The packet is taken in. -/
def takeLocal (s : State) (g k : Nat) : State := modTile s g (fun t => { t with localIn := t.localIn.eraseIdx k })

/-- STREAM_PACKET_ACCEPT (R117, R118, R122). -/
def opStreamAccept (g k : Nat) (s : State) : State :=
  match localPacket s g k, (tileOf s g).wait with
  | some p, some ⟨.recv stream base count, _, _⟩ =>
    if p.typ = tyStream && p.stream = stream then acceptStream (takeLocal s g k) g stream base count p else s
  | _, _ => s

/-- Store pour data in the fill half, with fresh check bits in every word it covers (R126, R368). -/
def fillHalf (s : State) (g off : Nat) (bs : List Byte) : State :=
  let f := 1 - getF s F.TIL_TUNDISH_DRAW g
  let keep := fun (e : Nat × Nat) => !(off ≤ e.1 * 8 && e.1 * 8 < off + bs.length)
  modTile s g (fun t =>
    if f = 0 then { t with half0 := wrBytes t.half0 off bs, hflip0 := t.hflip0.filter keep }
    else { t with half1 := wrBytes t.half1 off bs, hflip1 := t.hflip1.filter keep })

/-- A pour packet at the fill half (R126, R130). -/
def landPour (s : State) (g : Nat) (p : Packet) : State :=
  let f := 1 - getF s F.TIL_TUNDISH_DRAW g
  if halfState s g f = 2 || halfState s g f = 3 then
    countF (setF s F.TIL_TUNDISH_DROPPED g 1) F.FLD_ELOG_DISC_DROPPED_HALF (g / 700) 1
  else
    let skip := p.payload.isEmpty && p.last && Nat.testBit p.addr 23
    let s := if skip then s else fillHalf s g (p.addr - 0x120000) p.payload
    let s := setF s F.TIL_TUNDISH_FILL_POUR g p.tag
    wakeSwap (setHalf s g f (if skip then 3 else if p.last then 2 else 1)) g

/-- A pour packet by its address: the fill window, or a skip seal (R126). -/
def isPour (p : Packet) : Bool := p.typ == tyWrite && (0x120000 ≤ p.addr)

/-- POUR_PACKET_LAND (R130, R139). -/
def opPourLand (g k : Nat) (s : State) : State :=
  match localPacket s g k with
  | some p =>
    if !isPour p then s
    else if getF s F.TIL_STATUS_FENCED g = 1 then countF (takeLocal s g k) F.FLD_ELOG_DISC_FENCED_POUR (g / 700) 1
    else landPour (takeLocal s g k) g p
  | none => s

/-- EVENT_INCREMENT_TILE (R76): the counter is added to, and an EVWAIT that now holds ends. -/
def opEventTile (g k : Nat) (s : State) : State :=
  match localPacket s g k with
  | some p =>
    if p.typ ≠ tyIncr then s
    else
      let s := addLocal (takeLocal s g k) g (p.addr % 16) p.amount
      match (tileOf s g).wait with
      | some ⟨.evwait e v, _, _⟩ => if reached (eAt s g e) v then endWait s g else s
      | _ => s
  | none => s

/-- REMOTE_READ_REQUEST (R265, R366, R367): the router answers the requester; a byte it cannot deliver makes the answer
poisoned and sends a poison notice to the page's owner. -/
def opRemoteRead (g k : Nat) (s : State) : State :=
  match localPacket s g k with
  | some p =>
    if p.typ ≠ tyReadReq then s
    else
      let r := memReadRemote (takeLocal s g k) g p.addr p.units
      let s := inject r.2.2 g { typ := tyReadResp, cls := 0, routed := true, dx := p.sx, dy := p.sy, tag := p.tag,
                                payload := r.1, poison := r.2.1, units := p.units }
      if r.2.1 then { s with notices := s.notices ++ [p.page * 64 + p.addr / 4096 % 64] } else s
  | none => s

/-- REMOTE_WRITE_REQUEST (R265, R275). -/
def opRemoteWrite (g k : Nat) (s : State) : State :=
  match localPacket s g k with
  | some p =>
    if p.typ ≠ tyWrite || isPour p then s
    else
      let s := memWrite (takeLocal s g k) g p.addr p.payload
      setDirty s p.page (p.addr / 4096 % 64)
  | none => s

/-- An answer to an RGET reaches its slot (R171, R266); an answer without a slot is dropped. -/
def takeResponse (s : State) (g tag : Nat) (bs : List Byte) (poison : Bool) : State :=
  match (tileOf s g).reads.find? (fun r => r.tag == tag) with
  | none => s
  | some r =>
    let s := modTile s g (fun t => { t with reads := t.reads.filter (fun x => x.tag != tag) })
    if poison then tileFault (sendRec s (.tile g) 0 0x2000 r.page (logX s g + 256 * logY s g)) g 6
    else progress (memWrite s g r.base bs) g

/-- READ_RESPONSE_RECEIVE (R171). -/
def opReadResponse (g k : Nat) (s : State) : State :=
  match localPacket s g k with
  | some p => if p.typ ≠ tyReadResp then s else takeResponse (takeLocal s g k) g p.tag p.payload p.poison
  | none => s

/-- POISON_NOTICE (R367, R268): the owner is to poison the page. -/
def opPoisonNotice (k : Nat) (s : State) : State :=
  match takeAt s.notices k with
  | some (n, rest) => poisonPage { s with notices := rest } (n / 64) (n % 64) 0
  | none => s

/-- TIL_RESEND (R122): the last transfer of the stream goes out again when the sequence number matches. An uncorrectable byte of it
raises fault 0x06, as it does in a SEND (DESIGN CHOICE, log entry 17). -/
def opResend (g : Nat) (v : Word) (s : State) : State :=
  let stream := getBits v 0 8
  let r := getD (tileOf s g).tx stream {}
  if r.count ≠ 0 && r.seq = getBits v 16 16 then
    let m := memReadRemote s g r.addr (64 * r.count)
    if m.2.1 then tileFault m.2.2 g 6 else sendTransfer m.2.2 g stream r.seq false m.1
  else s

def execHangTimerExpiry (t : TileId) (s : State) : Host.Outcome State Fault Refusal := .next (opHang t.gid s)
def execStreamPacketAccept (t : TileId) (k : Nat) (s : State) : Host.Outcome State Fault Refusal := .next (opStreamAccept t.gid k s)
def execRecvTimeout (t : TileId) (s : State) : Host.Outcome State Fault Refusal := .next (opRecvTimeout t.gid s)
def execTswapTimeout (t : TileId) (s : State) : Host.Outcome State Fault Refusal := .next (opTswapTimeout t.gid s)
def execHoistTimeout (t : TileId) (s : State) : Host.Outcome State Fault Refusal := .next (opHoistTimeout t.gid s)
def execPourPacketLand (t : TileId) (k : Nat) (s : State) : Host.Outcome State Fault Refusal := .next (opPourLand t.gid k s)
def execEventIncrementTile (t : TileId) (k : Nat) (s : State) : Host.Outcome State Fault Refusal := .next (opEventTile t.gid k s)
def execRemoteReadRequest (t : TileId) (k : Nat) (s : State) : Host.Outcome State Fault Refusal := .next (opRemoteRead t.gid k s)
def execRemoteWriteRequest (t : TileId) (k : Nat) (s : State) : Host.Outcome State Fault Refusal := .next (opRemoteWrite t.gid k s)
def execReadResponseReceive (t : TileId) (k : Nat) (s : State) : Host.Outcome State Fault Refusal := .next (opReadResponse t.gid k s)
def execPoisonNotice (k : Nat) (s : State) : Host.Outcome State Fault Refusal := .next (opPoisonNotice k s)
def execTilCtrlRun (t : TileId) (v : Bool) (s : State) : Host.Outcome State Fault Refusal := .next (opTilRun t.gid v s)
def execTilCtrlQuiesce (t : TileId) (v : Bool) (s : State) : Host.Outcome State Fault Refusal := .next (opTilQuiesce t.gid v s)
def execQuiesceComplete (t : TileId) (s : State) : Host.Outcome State Fault Refusal := .next (opQuiesceComplete t.gid s)
def execTilResend (t : TileId) (v : Word) (s : State) : Host.Outcome State Fault Refusal := .next (opResend t.gid v s)

end Sys2Proof.Machine
end

