-- ==== Sys2Proof/Machine/CmdRows.lean ====
section
/-! DEFINITION. The command unit's rows: ring indices (R147, R154), fetching and starting commands (R151 to R153), waits
(R163), the opcodes NOP, EVADD, RUN and REQUEST (R156 to R158, R174 to R176, R403), counters and event records arriving
(R169, R178, R382). -/
namespace Sys2Proof.Machine

/-! ### Indices and registers (R147, R154, R164, R167, R178) -/

/-- A signed 32-bit difference is negative. -/
def negative (d : W32) : Bool := 2 ^ 31 ≤ d.toNat

/-- GLB_CQ_TAIL_WRITE (R147). -/
def opTail (n : Nat) (v : W32) (s : State) : State :=
  let d := v - headOf s n
  if negative d || cqSize s n < d.toNat then setI s F.GLB_CQ_STAT_TAIL_ERR 0 n 1
  else setI s F.GLB_CQ_TAIL_TAIL 0 n v.toNat

def cheadOf (s : State) (n : Nat) : W32 := BitVec.ofNat 32 (getI s F.GLB_CQ_CHEAD_CHEAD 0 n)
def tailOf (s : State) (n : Nat) : W32 := BitVec.ofNat 32 (getI s F.GLB_CQ_TAIL_TAIL 0 n)

/-- GLB_CQ_CHEAD_WRITE (R154). -/
def opChead (n : Nat) (v : W32) (s : State) : State :=
  if negative (v - cheadOf s n) || negative (headOf s n - v) then setI s F.GLB_CQ_STAT_CHEAD_ERR 0 n 1
  else setI s F.GLB_CQ_CHEAD_CHEAD 0 n v.toNat

/-- RESTART (R164). -/
def opRestart (n : Nat) (s : State) : State := setI s F.GLB_CQ_STAT_STOPPED 0 n 0

/-- GLB_EVR_HEAD_WRITE (R178, R180). -/
def opEvrHead (v : W32) (s : State) : State := drainRecords (setF s F.GLB_EVR_HEAD_HEAD 0 v.toNat) 300

/-! ### Fetching (R147, R153) -/

/-- Reads of queue `n`'s commands that have not been answered. -/
def fetchesOut (s : State) (n : Nat) : Nat :=
  (s.cmd.reads.filter (fun r => match r.what with | .command q _ => q == n | _ => false)).length

/-- Companion address of command `i`'s slot (R146, R147). -/
def slotAddr (s : State) (n : Nat) (i : W32) : Nat :=
  getI s F.GLB_CQ_BASE_BASE 0 n / 4096 * 4096 + 64 * (if cqSize s n = 0 then 0 else i.toNat % cqSize s n)

/-- COMMAND_FETCH. -/
def opFetch (n : Nat) (s : State) : State :=
  let ahead := (cqOf s n).fetched.length + fetchesOut s n
  let i := headOf s n + BitVec.ofNat 32 ahead
  let left := tailOf s n - i
  if cqSize s n ≠ 0 && left ≠ 0 && !negative left && ahead < 8 && (i - cheadOf s n).toNat < cqSize s n then
    match readLink s with
    | some l => sendRead s l (slotAddr s n i) (.command n i)
    | none => s
  else s

/-! ### Starting (R151, R152, R454) -/

/-- Commands in flight in the module. -/
def totalInflight (s : State) : Nat := ((List.range 64).map (fun n => getI s F.GLB_CQ_STAT_INFLIGHT 0 n)).sum

/-- Words of a descriptor, if they can be read now (R124). -/
def wordsOf (bs : List Byte) : List Nat := unpackElems 64 8 bs

/-- The rectangle of a descriptor (R124). -/
def descRect (ws : List Nat) : Rect :=
  let f := fun i => ws.getD 3 0 / 2 ^ i % 2 ^ 8
  { x := f 32, y := f 40, w := f 48, h := f 56 }

/-- The crescent of a POUR's first descriptor can take it: it holds it already, or fewer than 256 (R128, R151); not known while the
descriptor is on its way from T2. -/
def pourSlotFree (s : State) (addr : Nat) : Bool :=
  let r := readLogical s addr 64
  if r.1 ≠ 0 then r.1 != 4
  else
    let u := getD s.pours ((wordsOf r.2.1).getD 4 0 / 2 ^ 52 % 4) {}
    u.pours.any (fun p => p.addr == addr) || u.pours.length < 256

/-- A collective channel is free: none is bound, and none that has started will bind it (R312). -/
def channelFree (s : State) (ch : Nat) : Bool :=
  (getD s.coll.chans ch none).isNone &&
    s.cmd.queues.all (fun e => e.2.inflight.all (fun c => !(0x18 ≤ c.opcode && c.opcode ≤ 0x1A && bodyF c 0 42 4 == ch)))

/-- The queue's REQUEST commands that wait for admission. -/
def waitingRequests (s : State) (n : Nat) : List Cmd :=
  let q := cqOf s n
  q.inflight.filter (fun c => c.opcode == 9 && c.run && !q.requests.any (fun r => r.idx == c.idx))

/-- The queue's REQUEST commands that have started and are not admitted: those that wait, and those whose checks are to come; an invalid
or empty one waits for nothing (R175). -/
def startedRequests (s : State) (n : Nat) : List Cmd :=
  let q := cqOf s n
  q.inflight.filter (fun c => c.opcode == 9 && !q.requests.any (fun r => r.idx == c.idx) &&
    (c.run || !(c.bad != 0 || cmdBad s n c || cmdEmpty c)))

/-- A paced queue can admit a request now (R175). -/
def canAdmit (s : State) (n : Nat) : Bool :=
  let q := cqOf s n
  q.requests.length < 16 &&
    (match q.lastAdmit with | none => true | some t => getI s F.GLB_CQ_PACE_PACE 0 n ≤ portTicks s - t)

/-- The resource that a command needs at its start is free (R151). -/
def resourceFree (s : State) (n : Nat) (c : Cmd) : Bool :=
  c.bad != 0 || cmdBad s n c || cmdEmpty c ||
    (match c.opcode with
    | 0x09 => canAdmit s n && (startedRequests s n).isEmpty
    | 0x10 => pourSlotFree s (bodyF c 0 0 42)
    | 0x18 | 0x19 | 0x1A => collEmpty c.opcode c || channelFree s (bodyF c 0 42 4)
    | _ => true)

/-- The next command of queue `n`, when it can start (R151, R164); at SL0 it need not wait (R454). -/
def startable (s : State) (n : Nat) : Option Cmd :=
  match nextCmd s n with
  | none => none
  | some c =>
    if getI s F.GLB_CQ_STAT_STOPPED 0 n = 0 && !s.recov.holding && getI s F.GLB_CQ_STAT_INFLIGHT 0 n < 256 && totalInflight s < 4096 &&
        (levelOf s == 0 || ((!c.flag 11 || getI s F.GLB_CQ_STAT_INFLIGHT 0 n == 0) && waitHolds s c && resourceFree s n c))
    then some c else none

/-- The order in which ready queues are served: PRI, then round-robin after the queue served last (R152). -/
def serveKey (s : State) (n : Nat) : Nat := getI s F.GLB_CQ_CFG_PRI 0 n * 64 + (n + 63 - s.cmd.served % 64) % 64

/-- The command leaves the front of its queue and is in flight (R147). -/
def takeCmd (s : State) (n : Nat) (c : Cmd) : State :=
  let s := modCq s n (fun q => { q with
    fetched := q.fetched.filter (fun d => d.idx != c.idx)
    inflight := q.inflight ++ [c]
    since := none })
  let s := setI s F.GLB_CQ_STAT_HEAD 0 n (headOf s n + 1).toNat
  let s := setI s F.GLB_CQ_STAT_INFLIGHT 0 n (getI s F.GLB_CQ_STAT_INFLIGHT 0 n + 1)
  touchNext s n

/-- The first descriptor of a POUR at the head of queue `n` is read from T2, so that its crescent is known (R151). -/
def askDesc (s : State) (n : Nat) : State :=
  match nextCmd s n with
  | some c =>
    if c.opcode = 0x10 && !(c.bad != 0 || cmdBad s n c || cmdEmpty c) then
      let r := readLogical s (bodyF c 0 0 42) 64
      if r.1 = 4 then r.2.2 else s
    else s
  | none => s

/-- COMMAND_START: the queue whose turn it is starts its next command; a reserved header or opcode, and service level 0,
complete it at once (R165, R454, R465). -/
def opStart (n : Nat) (s : State) : State :=
  match startable s n with
  | none => askDesc s n
  | some c =>
    if (List.range 64).any (fun m => m != n && (startable s m).isSome && serveKey s m < serveKey s n) then s
    else
      let s := takeCmd { s with cmd := { s.cmd with served := n } } n c
      if c.bad ≠ 0 then completeCmd s n c c.bad 0
      else if levelOf s = 0 then completeCmd s n c (if cmdBad s n c then ST_CMD_INVALID else 0x180) 0
      else if headerBad c then completeCmd s n c ST_CMD_INVALID 0
      else s

/-- WAIT_TIMEOUT (R163). -/
def opWaitTimeout (n : Nat) (s : State) : State :=
  match nextCmd s n, (cqOf s n).since with
  | some c, some t =>
    let tmo := getI s F.GLB_CQ_CTRL_WAIT_TMO 0 n
    if tmo ≠ 0 && !waitHolds s c && tmo < portTicks s - t && getI s F.GLB_CQ_STAT_STOPPED 0 n = 0 then
      completeAmong (takeCmd s n c) n c.idx (ST_TIMEOUT :: if cmdBad s n c then [ST_CMD_INVALID] else []) 0
    else s
  | _, _ => s

/-! ### NOP, EVADD and RUN (R156 to R158) -/

/-- NOP_COMMAND. -/
def opNopCommand (n : Nat) (i : W32) (s : State) : State :=
  onValid s n i 0x00 (fun c s => (true, completeCmd s n c ST_OK 0))

/-- EVADD. -/
def opEvadd (n : Nat) (i : W32) (s : State) : State :=
  onValid s n i 0x01 (fun c s =>
    (true, completeCmd (addEvc s (bodyF c 0 0 16) (BitVec.ofNat 32 (bodyF c 0 32 32))) n c ST_OK 0))

/-- Start the program of a tile: at its base, or at its PC (R157, R158). -/
def launch (s : State) (g : Nat) (resume : Bool) : State :=
  if !inService s (g / 700) || getF s F.TIL_STATUS_FENCED g = 1 then s
  else startTile (if resume then s else setF s F.TIL_STATUS_PC g (getF s F.TIL_PROG_PROG_BASE g)) g

/-- The first RUN after CLOSE that holds a queue's entry tile: the slips of its kept requests are to be read again
(R403). -/
def readmitFor (s : State) (r : Rect) : State :=
  if s.recov.readmit then
    s.cmd.queues.foldl (fun s e =>
      if r.has (getI s F.GLB_CQ_ENTRY_X 0 e.1) (getI s F.GLB_CQ_ENTRY_Y 0 e.1) then
        modCq s e.1 (fun q => { q with requests := q.requests.map (fun x => if x.kept = 1 then { x with kept := 2 } else x) })
      else s) s
  else s

/-- Reads of kept requests leave while links have room (R148, R403). -/
def retryReadmit (s : State) : State :=
  s.cmd.queues.foldl (fun s e =>
    e.2.requests.foldl (fun s x =>
      match readLink s with
      | some l =>
        if x.kept = 2 then
          let s := sendRead s l (slotAddr s e.1 x.idx) (.readmit e.1 x.idx)
          modCq s e.1 (fun q => { q with requests := q.requests.map (fun y => if y.idx = x.idx then { y with kept := 3 } else y) })
        else s
      | none => s) s) s

/-- RUN. -/
def opRun (n : Nat) (i : W32) (s : State) : State :=
  onValid s n i 0x08 (fun c s =>
    let r := bodyRect c 0
    let gs := rectTiles s r
    let s := gs.foldl (fun s g => launch s g (bodyF c 0 32 1 == 1)) s
    let s := modCq s n (fun q => { q with runs := q.runs ++ [{ idx := i, left := gs, tiles := gs }] })
    (true, finishRuns (retryReadmit (readmitFor s r))))

/-! ### REQUEST (R174 to R177) -/

/-- REQUEST: a valid one waits for its admission. -/
def opRequest (n : Nat) (i : W32) (s : State) : State := onValid s n i 0x09 (fun _ s => (true, s))

/-- An increment on its way to a local counter of a tile. -/
def eventTo (s : State) (g e : Nat) (v : W32) : State :=
  modTile s g (fun t => { t with localIn := t.localIn ++
    [{ pkt := { typ := tyIncr, cls := 0, routed := true, addr := e, amount := v }, src := 4, arr := 1 }] })

/-- Write a request's slip and signal it (R175). DESIGN CHOICE (log entry 129): where no physical tile carries the entry's logical place,
the request is admitted all the same, and its slip and increment go nowhere. -/
def writeSlip (s : State) (n : Nat) (r : PacedReq) : State :=
  match tileAt s (getI s F.GLB_CQ_ENTRY_X 0 n) (getI s F.GLB_CQ_ENTRY_Y 0 n) with
  | none => s
  | some g =>
    let a := getI s F.GLB_CQ_ENTRY_MBOX 0 n / 64 * 64 + 64 * (r.seq.toNat % 16)
    let s := memWrite s g a ((r.bytes.drop 16).take 48 ++ bytesOf r.seq.toNat 8 ++ bytesOf r.tick 8)
    eventTo s g (getI s F.GLB_CQ_ENTRY_EV 0 n) 1

/-- REQUEST_ADMISSION (R175). -/
def opAdmit (n : Nat) (s : State) : State :=
  match waitingRequests s n with
  | [] => s
  | c :: _ =>
    if canAdmit s n then
      let r : PacedReq := { seq := (cqOf s n).admissions, idx := c.idx, tick := portTicks s, bytes := c.bytes }
      let s := modCq s n (fun q => { q with
        admissions := q.admissions + 1
        lastAdmit := some (portTicks s)
        requests := q.requests ++ [r] })
      checkPaced (writeSlip s n r) n
    else s

/-- Kept requests whose commands have been read again get their slips, in admission order (R403). -/
def flushReadmit (s : State) (n : Nat) : Nat → State
  | 0 => s
  | k + 1 =>
    match (cqOf s n).requests.find? (fun r => r.kept != 0) with
    | some r =>
      if r.kept = 4 then
        let s := writeSlip s n r
        flushReadmit (modCq s n (fun q => { q with requests := q.requests.map (fun y => if y.idx = r.idx then { y with kept := 0 } else y) })) n k
      else s
    | none => s

/-! ### Increments and records (R169, R178, R382) -/

/-- EVENT_INCREMENT_RECEIVE (R169). -/
def opIncReceive (k : Nat) (s : State) : State :=
  match takeAt s.cmd.incs k with
  | some (i, rest) => addEvc { s with cmd := { s.cmd with incs := rest } } i.ev i.amount
  | none => s

/-- The physical tile across port `p` of a tile. -/
def neighbour (s : State) (g : Nat) (p : Port) : Option Nat :=
  match stepPos p (logX s g) (logY s g) with
  | some q => tileAt s q.1 q.2
  | none => none

/-- The port with number `n`. -/
def portOf (n : Nat) : Port := match n with | 0 => .n | 1 => .e | 2 => .s | 3 => .w | _ => .local

/-- A tile belongs to the incident: fenced by it, or in the lost field. -/
def inIncident (inc : Incident) (g : Nat) : Bool :=
  inc.fenced.contains g || (match inc.what with | .field f _ => f == g / 700 | _ => false)

/-- A pour of crescent `c` that targets a tile of the incident. -/
def pourInIncident (s : State) (inc : Incident) (c a : Nat) : Bool :=
  (getD s.pours c {}).pours.any (fun p => p.addr == a && (rectTiles s (descRect p.words)).any (inIncident inc))

/-- The open incident produced the record (R382). -/
def absorbs (s : State) (r : EvRec) : Bool :=
  match s.recov.incident with
  | none => false
  | some inc =>
    let g := r.unit * 700 + r.ptile
    if 0x0100 < r.cause && r.cause < 0x0200 then r.kind == 0 && inIncident inc g
    else if r.cause = 0x0201 then
      r.kind == 0 && (inIncident inc g || (match neighbour s g (portOf r.d0) with | some h => inIncident inc h | none => false))
    else if r.cause = 0x0300 || r.cause = 0x0301 then r.kind == 0 && timersHeld s g
    else r.cause == 0x0302 && r.d0 == 3 && pourInIncident s inc r.unit r.d1

/-- The record of a failure that waits behind the open incident: one of a clock source, an edge or surface port, a Brois link, or of
the module's hold where the incident is another (R381, R386). -/
def waitsBehind (s : State) (r : EvRec) : Bool :=
  match s.recov.incident with
  | none => false
  | some inc => (0x1003 ≤ r.cause && r.cause ≤ 0x1006) ||
      (r.cause == 0x1007 && (match inc.what with | .whole .. => false | _ => true))

/-- EVENT_RECORD_RECEIVE (R178, R180, R381, R382). -/
def opRecReceive (k : Nat) (s : State) : State :=
  match takeAt s.cmd.records k with
  | none => s
  | some (r, rest) =>
    let s := { s with cmd := { s.cmd with records := rest } }
    if absorbs s r then
      let s := logAbsorbed s r.kind r.unit r.cause
      { s with recov := { s.recov with incident := s.recov.incident.map (fun x => { x with absorbed := x.absorbed + 1 }) } }
    else if waitsBehind s r then { s with cmd := { s.cmd with waitRecs := s.cmd.waitRecs ++ [r] } }
    else takeRecord s r

/-! ### Meanings -/

def execGlbCqTailWrite (n : Fin 64) (v : W32) (s : State) : Host.Outcome State Fault Refusal := .next (opTail n v s)
def execGlbCqCheadWrite (n : Fin 64) (v : W32) (s : State) : Host.Outcome State Fault Refusal := .next (opChead n v s)
def execCqRestart (n : Fin 64) (s : State) : Host.Outcome State Fault Refusal := .next (opRestart n s)
def execGlbEvcAdd (n : Fin 65536) (v : W32) (s : State) : Host.Outcome State Fault Refusal := .next (addEvc s n v)
def execGlbEvrHeadWrite (v : W32) (s : State) : Host.Outcome State Fault Refusal := .next (opEvrHead v s)
def execCommandFetch (n : Fin 64) (s : State) : Host.Outcome State Fault Refusal := .next (opFetch n s)
def execCommandStart (n : Fin 64) (s : State) : Host.Outcome State Fault Refusal := .next (opStart n s)
def execWaitTimeout (n : Fin 64) (s : State) : Host.Outcome State Fault Refusal := .next (opWaitTimeout n s)
def execNopCommand (n : Fin 64) (i : W32) (s : State) : Host.Outcome State Fault Refusal := .next (opNopCommand n i s)
def execEvadd (n : Fin 64) (i : W32) (s : State) : Host.Outcome State Fault Refusal := .next (opEvadd n i s)
def execCmdRun (n : Fin 64) (i : W32) (s : State) : Host.Outcome State Fault Refusal := .next (opRun n i s)
def execCmdRequest (n : Fin 64) (i : W32) (s : State) : Host.Outcome State Fault Refusal := .next (opRequest n i s)
def execRequestAdmission (n : Fin 64) (s : State) : Host.Outcome State Fault Refusal := .next (opAdmit n s)
def execEventIncrementReceive (k : Nat) (s : State) : Host.Outcome State Fault Refusal := .next (opIncReceive k s)
def execEventRecordReceive (k : Nat) (s : State) : Host.Outcome State Fault Refusal := .next (opRecReceive k s)

end Sys2Proof.Machine
end

