-- ==== Sys2Proof/Machine/Pours.lean ====
section
/-! DEFINITION. Pours at the crescents: descriptors and chains (R124, R127, R128), chunks and the slack arbiter (R125, R132,
R133, R281), deadlines and fallbacks (R134 to R136), halts and resumes (R137 to R140), marks (R250). -/
namespace Sys2Proof.Machine

/-! ### Fields of a descriptor (R124) -/

def Pour.w (p : Pour) (i lo n : Nat) : Nat := p.words.getD i 0 / 2 ^ lo % 2 ^ n
def Pour.src (p : Pour) : Nat := p.w 0 0 42
def Pour.alt (p : Pour) : Nat := p.w 1 0 42
def Pour.altFmt (p : Pour) : Nat := p.w 1 42 4
def Pour.id (p : Pour) : Nat := p.w 2 48 16
def Pour.length (p : Pour) : Nat := p.w 3 0 18
def Pour.rect (p : Pour) : Rect := descRect p.words
def Pour.stride (p : Pour) : Nat := p.w 4 0 32
def Pour.estRate (p : Pour) : Nat := p.w 4 32 16
def Pour.multicast (p : Pour) : Bool := p.w 4 48 2 == 1
def Pour.fallback (p : Pour) : Nat := p.w 4 50 2
def Pour.cres (p : Pour) : Nat := p.w 4 52 2
def Pour.deadline (p : Pour) : Nat := p.w 5 0 32

/-- Slices that the pour reads (R125). -/
def Pour.slices (p : Pour) : Nat := if p.multicast then 1 else p.rect.w * p.rect.h
/-- Chunks of one slice. -/
def Pour.chunks (p : Pour) : Nat := (p.length + 4095) / 4096
/-- Chunks of the whole pour. -/
def Pour.total (p : Pour) : Nat := p.slices * p.chunks

def unitOf (s : State) (c : Nat) : PourUnit := getD s.pours c {}
/-- STK_POUR_STAT.ACTIVE follows the descriptors held. -/
def setUnit (s : State) (c : Nat) (u : PourUnit) : State :=
  setF { s with pours := put s.pours c u {} } F.STK_POUR_STAT_ACTIVE c u.pours.length
/-- Replace a descriptor of crescent `c`. -/
def putPour (s : State) (c : Nat) (p : Pour) : State :=
  let u := unitOf s c
  setUnit s c { u with pours := u.pours.map (fun x => if x.addr = p.addr then p else x) }
/-- A descriptor leaves crescent `c`. -/
def dropPour (s : State) (c : Nat) (p : Pour) : State :=
  let u := unitOf s c
  setUnit s c { u with pours := u.pours.filter (fun x => x.addr != p.addr) }

/-- Ticks since the start (R124). -/
def Pour.elapsed (p : Pour) (s : State) : Nat :=
  match p.start with | none => 0 | some t => min (s.now - t) 0xFFFFFFFF

/-- A word with a field replaced, as a number. -/
def putBits (v lo w x : Nat) : Nat := v - v / 2 ^ lo % 2 ^ w * 2 ^ lo + x % 2 ^ w * 2 ^ lo

/-- The fields that the module writes (R124). -/
def Pour.desc (p : Pour) (s : State) (state status : Nat) : DescWrite :=
  { addr := p.addr, onAlt := p.onAlt, state, cause := p.cause, elapsed := p.elapsed s
    tail := p.progress % 2 ^ 24 + status % 2 ^ 16 * 2 ^ 24 + p.page % 2 ^ 24 * 2 ^ 40 }

/-- The descriptor's words with these fields. -/
def DescWrite.into (d : DescWrite) (ws : List Nat) : List Nat :=
  let w := fun i => ws.getD i 0
  [putBits (w 0) 42 1 (if d.onAlt then 1 else 0), w 1, putBits (putBits (w 2) 42 3 d.state) 45 3 d.cause, w 3, w 4, w 5,
   putBits (w 6) 32 32 d.elapsed, d.tail]

/-- Write the module's fields into the descriptor and leave the runtime's as they are (R124, R141): in T2 its other bytes are read
first, and a later write of the same descriptor takes the place of one that waits. -/
def putDesc (s : State) (c : Nat) (d : DescWrite) : State :=
  let r := readLogical s d.addr 64
  let u := unitOf r.2.2 c
  let rest := u.owed.filter (fun e => e.addr != d.addr)
  match r.1 with
  | 0 => (writeLogical (setUnit r.2.2 c { u with owed := rest }) d.addr ((d.into (wordsOf r.2.1)).flatMap (bytesOf · 8))).2
  | 4 => setUnit r.2.2 c { u with owed := rest ++ [d] }
  | _ => setUnit r.2.2 c { u with owed := rest }

/-- Write the fields of a descriptor. -/
def writeDesc (s : State) (c : Nat) (p : Pour) (state status : Nat) : State := putDesc s c (p.desc s state status)

/-- Keep a descriptor and write its fields back. -/
def savePour (s : State) (c : Nat) (p : Pour) (status : Nat) : State :=
  writeDesc (putPour s c p) c p p.state status

/-! ### Marks (R250) -/

/-- Enter a mark in the lowest free entry: the entry; none while all are in use. -/
def enterMark (s : State) (id status : Nat) : Option (Nat × State) :=
  match (List.range 16).find? (fun k => getI s F.GLB_MARK_VALID 0 k == 0) with
  | some k => some (k, wrReg s .GLB_MARK 0 k (BitVec.ofNat 64 (id % 65536 + status % 65536 * 65536 + 2 ^ 32)))
  | none => none

/-- A mark entered with a fallback's first seal takes the descriptor's completion status when it completes (R250). -/
def fixMark (s : State) (p : Pour) (status : Nat) : State :=
  match p.mark with
  | some k =>
    if getI s F.GLB_MARK_VALID 0 k = 1 && getI s F.GLB_MARK_POUR_ID 0 k = p.id then setI s F.GLB_MARK_STATUS 0 k status else s
  | none => s

/-! ### Completion of a descriptor (R127, R128) -/

/-- A chain whose every descriptor has completed ends its POUR command; DETAIL names the first that failed in chain order
(R128, R161). -/
def finishChains (s : State) : State :=
  let done := fun (x : PourChain) => x.ended && x.held.isEmpty
  let s' := { s with chains := s.chains.filter (fun x => !done x) }
  (s.chains.filter done).foldl (fun s x =>
    completeAmong s x.q x.idx x.statuses ((x.seen.find? (fun a => x.fails.contains a)).getD 0)) s'

/-- Tell every chain that waits for descriptor `a` its status. -/
def tellChains (s : State) (a status : Nat) : State :=
  finishChains { s with chains := s.chains.map (fun x =>
    if x.held.contains a then
      { x with held := x.held.filter (· != a), statuses := x.statuses ++ [status],
               fails := if isFailure status then x.fails ++ [a] else x.fails }
    else x) }

/-- A descriptor completes: its fields, its mark, its counter, its chains. -/
def endPour (s : State) (c : Nat) (p : Pour) (cs : List Nat) : State :=
  let best := bestStatus cs
  let s := writeDesc (fixMark (logStack s c cs best) p best) c p 4 best
  let s := if p.w 4 54 1 = 1 then sendInc s (p.w 5 48 16) 1 else s
  tellChains (dropPour s c p) p.addr best

/-- Complete a descriptor, entering its mark first when it needs one; with no entry free it is held in STATE 2 (R250). -/
def closePour (s : State) (c : Nat) (p : Pour) (cs : List Nat) : State :=
  let best := bestStatus cs
  if p.id ≠ 0 && p.mark.isNone && (p.fell || best == ST_DATA_POISON) then
    match enterMark s p.id best with
    | some m => endPour m.2 c { p with mark := some m.1 } cs
    | none => savePour s c { p with state := 2, hold := 3, statuses := cs } 0
  else endPour s c p cs

/-! ### Chunks (R125, R281) -/

/-- Target tiles in the order of R125. -/
def Pour.targets (p : Pour) : List (Nat × Nat) := p.rect.coords

/-- The chunk of a slice and the slice that issue index `j` names. -/
def Pour.chunkOf (p : Pour) (j : Nat) : Nat × Nat := if p.slices = 0 then (0, 0) else (j / p.slices, j % p.slices)

/-- The bytes that a chunk reads: first logical address and length. Under LOWER it reads the ingots of the copy that cover
the chunk (R134). -/
def Pour.range (p : Pour) (j : Nat) : Nat × Nat :=
  let ch := p.chunkOf j
  let len := min 4096 (p.length - 4096 * ch.1)
  if p.onAlt then
    let a := ingotBytes p.altFmt
    let q := ingotBytes p.primary
    let lo := 4096 * ch.1 / q
    let hi := (4096 * ch.1 + len + q - 1) / q
    (p.alt + ch.2 * p.stride * a / q + lo * a, (hi - lo) * a)
  else (p.src + ch.2 * p.stride + 4096 * ch.1, len)
where
  /-- Size of a dense ingot (R223). -/
  ingotBytes (f : Nat) : Nat := 16 + 8 * fmtWidth f

/-- 64-byte units not yet issued, over all target tiles (R132). DESIGN CHOICE (log entry 119): a multicast pour issues its one slice for
all of them, and its units count once. -/
def Pour.remaining (p : Pour) : Nat :=
  let u := p.length / 64
  let ch := p.chunkOf p.progress
  let done := p.slices * min (64 * ch.1) u + ch.2 * min 64 (u - min (64 * ch.1) u)
  p.slices * u - done

/-- The slack of R132; a descriptor without a deadline has the largest. -/
def Pour.slack (p : Pour) (s : State) : Int :=
  if p.deadline = 0 then 2 ^ 40
  else (p.deadline : Int) - p.elapsed s - (if p.estRate = 0 then 0 else (p.remaining + p.estRate - 1) / p.estRate)

/-- The place from which a crescent reads a piece: the replica under saturation and low slack (R281), unless it was found poisoned. -/
def piecePlace (s : State) (c : Nat) (p : Pour) (page : Nat) : Nat × Bool :=
  let e := ptEntry s page
  let cur := e.cur.toNat
  let repl := e.repl.toNat
  let sat := fun (q : Nat) => getD s.tiers.lastSat (c * 4 + placeTier q) false
  if getF s F.STK_SAT_CFG_REDIRECT c = 1 && placeTier repl != 3 && placeUsable s repl && sat cur && !sat repl &&
      p.slack s < getF s F.STK_SAT_CFG_REDIRECT_SLACK c && !p.noRepl.contains page then (repl, true) else (cur, false)

/-- The parts of a range by page: page, unit, offset, length. -/
def pagePieces (a : Nat) : Nat → Nat → List (Nat × Nat × Nat × Nat)
  | 0, _ => []
  | _ + 1, 0 => []
  | f + 1, n =>
    let l := min n (2 ^ 18 - a % 2 ^ 18)
    (a / 2 ^ 18 % 2 ^ 24, a / 2 ^ 12 % 64, a % 4096, l) :: pagePieces (a + l) f (n - l)

/-- The pieces that the next chunk is read in: one request for all that lies on a page in T2 (R229), else one for each unit. -/
def chunkPieces (s : State) (c : Nat) (p : Pour) : List (Nat × Nat × Nat × Nat) :=
  let r := p.range p.progress
  (pagePieces r.1 (r.2 / 2 ^ 18 + 2) r.2).flatMap (fun x =>
    if placeTier (piecePlace s c p x.1).1 = 2 then [x] else piecesOf (x.1 * 2 ^ 18 + x.2.1 * 4096 + x.2.2.1) (x.2.2.2 / 4096 + 2) x.2.2.2)

/-- The pieces of a chunk that T2 has still to deliver (R229). -/
def chunkMissing (s : State) (c : Nat) (p : Pour) : List (Nat × Nat × Nat × Nat) :=
  (chunkPieces s c p).filter (fun x =>
    entryFault s (ptEntry s x.1) == 0 && placeTier (piecePlace s c p x.1).1 == 2 && (stagedAt s x.1 x.2.1 x.2.2.1).isNone)

/-- A request for one of these pieces is outstanding. -/
def askedFar (s : State) (ps : List (Nat × Nat × Nat × Nat)) : Bool :=
  ps.all (fun x => s.tiers.far.any (fun q => q.page == x.1 && q.what == .stage x.2.1 x.2.2.1))

/-- Read one piece at its place; a poisoned replica is not used (R281): outcome 5 while CUR has first to be read from T2. The third
part says whether the replica was read. -/
def readAt (s : State) (c : Nat) (p : Pour) (x : Nat × Nat × Nat × Nat) : Nat × List Byte × Bool × State :=
  let s := cacheLookup s c x.1
  let e := ptEntry s x.1
  let f := entryFault s e
  if f ≠ 0 then (f, [], false, countFail s c f)
  else
    let q := piecePlace s c p x.1
    let cur := fun (s : State) => let r := readPiece s e.cur.toNat x; (if r.1 = 4 then 5 else r.1, r.2.1, false, r.2.2)
    if q.2 then
      let r := if placeTier q.1 = 2 then readPiece s q.1 x else
        let b := placeBytes s q.1 x.2.1 x.2.2.1 x.2.2.2
        (if b.2.1 then 2 else 0, b.1, b.2.2)
      if r.1 = 0 then (0, r.2.1, true, r.2.2) else cur r.2.2
    else cur s

/-- Read a chunk's bytes: the failing outcome and the page it met; a chunk with bytes from a replica is counted once (R281). -/
def readChunk (s : State) (c : Nat) (p : Pour) : Nat × Nat × List Byte × State :=
  let r := (chunkPieces s c p).foldl (fun (a : Nat × Nat × List Byte × Bool × State) x =>
    if a.1 ≠ 0 then a
    else
      let q := readAt a.2.2.2.2 c p x
      (q.1, x.1, a.2.2.1 ++ q.2.1, a.2.2.2.1 || q.2.2.1, q.2.2.2)) (0, 0, [], false, s)
  (r.1, r.2.1, r.2.2.1, if r.1 = 0 && r.2.2.2.1 then countF r.2.2.2.2 F.STK_REDIRECTS_CHUNKS c 1 else r.2.2.2.2)

/-- Elements of a lower-precision copy become elements of the primary format, exactly (R134). -/
def widen (f g code : Nat) : Nat := (convert g .nearest false (decodeFmt f code)).1

/-- The ingots of the copy, widened; none when one is compressed or of another format (R134). -/
def widenIngots (alt primary : Nat) : Nat → List Byte → Option (List Byte)
  | 0, _ => some []
  | n + 1, bs =>
    let a := Pour.range.ingotBytes alt
    if bs.length < a then some []
    else
      let h := leNat (bs.take 16)
      if h % 16 ≠ alt || h / 16 % 4 ≠ 0 then none
      else
        match widenIngots alt primary n (bs.drop a) with
        | none => none
        | some rest =>
          let es := unpackElems (fmtWidth alt) 64 ((bs.drop 16).take (a - 16))
          some (bytesOf (h / 16 * 16 + primary) 16 ++ packElems (fmtWidth primary) (es.map (widen alt primary)) ++ rest)

/-- The bytes that the tiles receive. -/
def chunkBytes (p : Pour) (bs : List Byte) : Option (List Byte) :=
  if p.onAlt then
    let q := Pour.range.ingotBytes p.primary
    let ch := p.chunkOf p.progress
    let off := 4096 * ch.1 - 4096 * ch.1 / q * q
    (widenIngots p.altFmt p.primary bs.length bs).map (fun x => (x.drop off).take (min 4096 (p.length - 4096 * ch.1)))
  else some bs

/-- Send a chunk into the mesh (R125, R234). -/
def sendChunk (s : State) (c : Nat) (p : Pour) (bs : List Byte) : State :=
  let ch := p.chunkOf p.progress
  let r := p.rect
  let base : Packet := { typ := tyWrite, cls := 2, routed := true, tag := p.id, addr := 0x120000 + 4096 * ch.1,
                         last := ch.1 + 1 == p.chunks, payload := bs }
  if p.multicast then cresSend s c { base with routed := false, stream := p.w 4 55 8, dx := r.x, dy := r.y }
  else cresSend s c { base with dx := r.x + ch.2 % r.w, dy := r.y + ch.2 / r.w }

/-! ### Halts (R137 to R139) -/

/-- A descriptor halts: its fields and one record. What its completion has to report stays with it; a held completion or SKIP is taken
up again when it resumes, a mark that LOWER still needs is entered meanwhile (R138, R139, R250). -/
def haltPour (s : State) (c : Nat) (p : Pour) (cause page status : Nat) : State :=
  let p := { p with state := 3, cause, page, reset := [], noRepl := [], due := false
                    hold := if p.hold = 1 then 1 else 0, fell := p.fell && p.hold != 2 }
  sendRec (savePour s c p status) (.cres c) status 0x0302 cause p.addr

/-- The status of a halt (R137). -/
def haltStatus (f : Nat) : Nat := if f = 2 then ST_DATA_POISON else if f = 1 then ST_FAULT_PAGE else 0

/-- The halt of a failing page (R137). -/
def faultPour (s : State) (c : Nat) (p : Pour) (f page : Nat) : State := haltPour s c p f page (haltStatus f)

/-- Every pour that targets tile `g` halts when it is fenced (R139). -/
def haltFor (s : State) (g : Nat) : State :=
  (List.range 4).foldl (fun s c =>
    (unitOf s c).pours.foldl (fun s p =>
      if p.state ≤ 2 && p.rect.has (logX s g) (logY s g) then haltPour s c p 3 0 0 else s) s) s

/-! ### The LOWER check (R127, R134) -/

/-- The format pairs of R134. -/
def lowerPair (primary alt : Nat) : Bool :=
  match primary with
  | 3 => [3, 7, 5, 6].contains alt
  | 4 => [4, 7, 5].contains alt
  | 5 => [5, 7].contains alt
  | 6 => [6, 7].contains alt
  | 7 => alt == 7
  | _ => false

/-- The header check of a LOWER descriptor: 0 and the descriptor when it can go on, 4 while the header comes from T2, 5 when it has
completed or halted here. -/
def lowerCheck (s : State) (c : Nat) (p : Pour) : Nat × Pour × State :=
  if p.fallback ≠ 1 || p.checked then (0, p, s)
  else
    let r := readLogical s p.src 16
    match r.1 with
    | 4 => (4, p, r.2.2)
    | 0 =>
      let f := leNat (r.2.1.take 1) % 16
      let q := Pour.range.ingotBytes f
      if f < 3 || 7 < f || !lowerPair f p.altFmt || p.length % q ≠ 0 || p.stride % q ≠ 0 then
        (5, p, closePour r.2.2 c p [ST_POUR_INVALID])
      else (0, { p with checked := true, primary := f }, r.2.2)
    | f => (5, p, faultPour (countFail r.2.2 c f) c { p with progress := 0 } f (p.src / 2 ^ 18 % 2 ^ 24))

/-! ### Fallbacks (R134, R135, R250) -/

/-- Target tiles whose last chunk has not issued. -/
def Pour.unsealed (p : Pour) : List (Nat × Nat) :=
  if p.multicast then (if p.progress < p.total then p.targets else [])
  else (p.targets.zipIdx.filter (fun x => p.progress ≤ (p.chunks - 1) * p.slices + x.2)).map (·.1)

/-- Skip seals to every target tile not yet sealed (R126). -/
def sendSeals (s : State) (c : Nat) (p : Pour) : State :=
  p.unsealed.foldl (fun s x =>
    cresSend s c { typ := tyWrite, cls := 2, routed := true, tag := p.id, addr := 2 ^ 23, last := true, dx := x.1, dy := x.2 }) s

/-- SKIP: the mark, the seals, the completion. -/
def skipPour (s : State) (c : Nat) (p : Pour) : State :=
  if p.id ≠ 0 && p.mark.isNone then
    match enterMark s p.id (bestStatus p.statuses) with
    | some m => endPour (sendSeals m.2 c p) c { p with mark := some m.1 } p.statuses
    | none => savePour s c { p with state := 2, hold := 2 } 0
  else endPour (sendSeals s c p) c p p.statuses

/-- LOWER: the pour starts again from the copy, its mark entered before the first seal. -/
def lowerPour (s : State) (c : Nat) (p : Pour) : State :=
  let p := { p with state := 2, cause := 0, page := 0, progress := 0, onAlt := true, fell := true }
  if p.id ≠ 0 && p.mark.isNone then
    match enterMark s p.id (bestStatus p.statuses) with
    | some m => savePour m.2 c { p with mark := some m.1 } 0
    | none => savePour s c { p with hold := 1 } 0
  else savePour s c p 0

/-- A descriptor becomes active once its LOWER check has been made; until then it stays in STATE 1. A miss met before takes the copy at
once (R127, R134). -/
def beginPour (s : State) (c : Nat) (p : Pour) : State :=
  let r := lowerCheck s c p
  match r.1 with
  | 0 => if p.missed && p.fallback = 1 && !p.fell then lowerPour r.2.2 c r.2.1 else savePour r.2.2 c { r.2.1 with state := 2 } 0
  | 4 => savePour r.2.2 c { p with state := 1 } 0
  | _ => r.2.2

/-- The action of a descriptor's FALLBACK at its miss (R134); a LOWER pour whose header was never checked is checked
first. -/
def fallBack (s : State) (c : Nat) (p : Pour) : State :=
  match p.fallback with
  | 1 => if p.fell then savePour s c p (haltStatus p.cause) else beginPour s c p
  | 2 => closePour (sendInc s (p.w 1 0 16) 1) c p p.statuses
  | 3 => skipPour s c { p with fell := true }
  | _ => savePour s c p (haltStatus p.cause)

/-! ### Rows -/

/-- POUR (R128, R140). -/
def opPour (n : Nat) (i : W32) (s : State) : State :=
  onValid s n i 0x10 (fun c s => (true, { s with chains := s.chains ++ [{ q := n, idx := i, next := bodyF c 0 0 42 }] }))

/-- R127: the descriptor is invalid, as far as its own fields show. -/
def pourBad (p : Pour) : Bool :=
  p.length % 64 != 0 || 131072 < p.length || p.src % 64 != 0 || p.stride % 64 != 0 || p.rect.beyond || 1 < p.w 4 48 2

/-- A length, width or height of 0. -/
def pourEmpty (p : Pour) : Bool := p.length == 0 || p.rect.w == 0 || p.rect.h == 0

/-- A halted descriptor resumes: the fields that the runtime may rewrite are taken from its words as they are now (R140, R141). DESIGN
CHOICE (log entry 120): a DEADLINE rewritten in STATE 3 counts from here on; the old one governs the halt. -/
def resumePour (s : State) (c : Nat) (p : Pour) (ws : List Nat) : State :=
  let w := fun i => ws.getD i 0
  let keep := fun i => p.words.getD i 0
  let words := [putBits (keep 0) 0 42 (w 0), putBits (keep 1) 0 42 (w 1), keep 2,
    putBits (keep 3) 32 32 (w 3 / 2 ^ 32), keep 4, putBits (keep 5) 0 32 (w 5), keep 6, keep 7]
  let q := { p with words, progress := if p.cause = 3 then 0 else p.progress, cause := 0, page := 0, reset := [], due := false }
  if p.missed && 3 ≤ p.cause && p.fallback ≠ 0 && !p.fell then fallBack s c { q with state := 2 }
  else if p.start.isSome then beginPour s c q
  else savePour s c { q with state := 1 } 0

/-- A descriptor that is to resume does so once its words have been read; when they cannot be read, with those it has. -/
def resumeDue (s : State) (c : Nat) (p : Pour) : State :=
  let r := readLogical s p.addr 64
  match r.1 with
  | 0 => resumePour r.2.2 c p (wordsOf r.2.1)
  | 4 => putPour r.2.2 c { p with due := true }
  | _ => resumePour r.2.2 c p p.words

/-- Bytes have come from T2: fields owed to descriptors are written, descriptors that wait for their words resume. -/
def flushDescs (s : State) : State :=
  (List.range 4).foldl (fun s c =>
    let s := (unitOf s c).owed.foldl (fun s d => putDesc s c d) s
    (unitOf s c).pours.foldl (fun s p => if p.due then resumeDue s c p else s) s) s

/-- Change chain `k`. -/
def modChain (s : State) (k : Nat) (f : PourChain → PourChain) : State := { s with chains := s.chains.modify k f }

/-- A new descriptor of chain `k` at crescent `c` (R127, R128). -/
def takeDesc (s : State) (c k : Nat) (p : Pour) : State :=
  let s := modChain s k (fun x => { x with held := x.held ++ [p.addr] })
  let u := unitOf s c
  let p := { p with order := u.nextOrder }
  let s := setUnit s c { u with pours := u.pours ++ [p], nextOrder := u.nextOrder + 1 }
  if pourBad p then closePour s c p [ST_POUR_INVALID]
  else if pourEmpty p then closePour s c p [ST_OK_EMPTY]
  else savePour s c p 0

/-- DESCRIPTOR_READ (R124, R127, R128): the next descriptor of chain `k`, by the crescent that it names. -/
def opDescRead (c k : Nat) (s : State) : State :=
  match s.chains[k]? with
  | none => s
  | some x =>
    if x.ended || x.next = 0 then s
    else
      let a := x.next
      let r := readLogical s a 64
      match r.1 with
      | 4 => r.2.2
      | 0 =>
        let p : Pour := { addr := a, words := wordsOf r.2.1 }
        if p.cres ≠ c then s
        else
          let step := fun (s : State) (next : Nat) =>
            modChain s k (fun x => { x with seen := x.seen ++ [a], next, ended := next == 0 })
          match (unitOf s c).pours.find? (fun y => y.addr == a) with
          | some old =>
            let s := modChain (step r.2.2 (p.w 2 0 42)) k (fun x => { x with held := x.held ++ [a] })
            if old.state = 3 then resumePour s c old p.words else s
          | none =>
            if 256 ≤ (unitOf s c).pours.length then s
            else takeDesc (step r.2.2 (p.w 2 0 42)) c k p
      | f =>
        let status := if f = 2 then ST_DATA_POISON else ST_FAULT_PAGE
        finishChains (modChain (countFail r.2.2 c f) k (fun x => { x with
          seen := x.seen ++ [a], ended := true, fails := x.fails ++ [a], statuses := x.statuses ++ [status] }))

/-- POUR_START (R128): ELAPSED runs from the tick at which the start condition holds. -/
def opPourStart (c k : Nat) (s : State) : State :=
  match (unitOf s c).pours[k]? with
  | none => s
  | some p =>
    if p.state = 1 && (p.start.isSome || evcReached s (p.w 5 32 16) (BitVec.ofNat 32 (p.w 6 0 32))) then
      beginPour s c { p with start := some (p.start.getD s.now) }
    else s

/-- ELAPSED has passed DEADLINE before the last chunk issued, and the miss has not been counted (R134): a last chunk may still issue in
the tick in which they are equal. -/
def Pour.missDue (p : Pour) (s : State) : Bool :=
  p.deadline != 0 && p.start.elim false (fun t => p.deadline < s.now - t) && p.progress < p.total && !p.missed && p.hold == 0

/-- A descriptor has a chunk to issue and does not wait for T2. -/
def chunkReady (s : State) (c : Nat) (p : Pour) : Bool :=
  let last := (p.chunkOf p.progress).1 + 1 == p.chunks
  let miss := chunkMissing s c p
  p.state == 2 && p.progress < p.total && !p.missDue s && (p.hold == 0 || (p.hold == 1 && !last)) && (miss.isEmpty || !askedFar s miss)

/-- The resources that the next chunk takes (R133): the read engines for a source in T2; else its border link, and the read queues of the
stack channels of its source. -/
def chunkNeeds (s : State) (c : Nat) (p : Pour) : List (Nat × Nat) :=
  if !(chunkMissing s c p).isEmpty then [(2, 0)]
  else
    let ch := p.chunkOf p.progress
    let b := if p.multicast then borderPos c p.rect.x p.rect.y else borderPos c (p.rect.x + ch.2 % p.rect.w) (p.rect.y + ch.2 / p.rect.w)
    (1, b.1 + 256 * b.2) :: (chunkPieces s c p).filterMap (fun x =>
      let q := (piecePlace s c p x.1).1
      if placeTier q = 1 then some (0, t1Key s (t1Frame q) x.2.1 / 2 ^ 20) else none)

/-- The arbiter's order: least slack, then first to start, then first read from its chain (R133). -/
def goesFirst (s : State) (p x : Pour) : Bool :=
  p.slack s < x.slack s || (p.slack s == x.slack s &&
    (p.start.getD 0 < x.start.getD 0 || (p.start.getD 0 == x.start.getD 0 && p.order ≤ x.order)))

/-- No descriptor that goes first at a resource the chunk needs has a request ready there (R133). -/
def winsSlack (s : State) (c : Nat) (p : Pour) : Bool :=
  (unitOf s c).pours.all (fun x => x.addr == p.addr || !chunkReady s c x || goesFirst s p x ||
    (chunkNeeds s c p).all (fun r => !(chunkNeeds s c x).contains r))

/-- CHUNK_ISSUE (R125, R133, R137): a chunk from T2 is first asked for, and issues when its bytes are there. -/
def opChunkIssue (c k : Nat) (s : State) : State :=
  match (unitOf s c).pours[k]? with
  | none => s
  | some p =>
    if !chunkReady s c p || !winsSlack s c p then s
    else
      let miss := chunkMissing s c p
      if !miss.isEmpty then
        miss.foldl (fun s x =>
          sendFar s false (piecePlace s c p x.1).1 x.2.1 x.2.2.1 x.2.2.2 [] x.1 c (.stage x.2.1 x.2.2.1) (some p.addr)) s
      else
        let r := readChunk s c p
        match r.1 with
        | 0 =>
          match chunkBytes p r.2.2.1 with
          | none => closePour r.2.2.2 c p (p.statuses ++ [ST_POUR_INVALID])
          | some bs => savePour (sendChunk r.2.2.2 c p bs) c { p with progress := p.progress + 1, noRepl := [] } 0
        | 5 => putPour r.2.2.2 c { p with noRepl := r.2.1 :: p.noRepl }
        | f => faultPour r.2.2.2 c p f r.2.1

/-- A pour packet with this identifier is still in the mesh. -/
def pourInMesh (s : State) (id : Nat) : Bool :=
  let mine := fun (q : Packet) => isPour q && q.tag == id
  s.tiles.any (fun e => e.2.localIn.any (fun y => mine y.pkt) || e.2.input.any (fun x => x.2.any (fun y => mine y.pkt)) ||
    e.2.wire.any (fun x => x.2.any (fun y => mine y.pkt)))

/-- POUR_COMPLETE: every chunk has issued and landed (R127, R134). -/
def opPourComplete (c k : Nat) (s : State) : State :=
  match (unitOf s c).pours[k]? with
  | none => s
  | some p =>
    if p.state = 2 && p.hold = 0 && p.progress = p.total && !pourInMesh s p.id then closePour s c p (ST_OK :: p.statuses) else s

/-- DEADLINE_MISS (R134, R136). A fallback taken from a halt keeps the halt's status for the completion (R22, R252). -/
def opDeadlineMiss (c k : Nat) (s : State) : State :=
  match (unitOf s c).pours[k]? with
  | none => s
  | some p =>
    if p.missDue s then
      let s := countF s F.STK_POUR_STAT_MISSES c 1
      let was := if p.state = 3 && p.cause ≤ 2 && p.fallback ≠ 0 then [haltStatus p.cause] else []
      let p := { p with missed := true, statuses := p.statuses ++ was ++ [ST_DEADLINE_MISS] }
      if p.state = 3 && 3 ≤ p.cause then putPour s c p else fallBack (putPour s c p) c p
    else s

/-- STK_POUR_STOP_GO (R138): the write-back takes no time of its own here, so BUSY stays 0. DESIGN CHOICE (log entry 121): a GO that
finds its descriptor leaves MISSED as it is; the runtime clears it. -/
def opPourStop (c a : Nat) (s : State) : State :=
  let a := a / 64 * 64
  let s := setF s F.STK_POUR_STOP_DESC c a
  match (unitOf s c).pours.find? (fun p => p.addr == a) with
  | some p => if p.state ≤ 2 then haltPour s c p 4 0 0 else setF s F.STK_POUR_STOP_MISSED c 1
  | none => setF s F.STK_POUR_STOP_MISSED c 1

/-- What a free mark entry lets go (R250). -/
def releaseHeld (s : State) : State :=
  (List.range 4).foldl (fun s c =>
    (unitOf s c).pours.foldl (fun s p =>
      if p.hold = 0 then s
      else
        match p.hold with
        | 1 =>
          match enterMark s p.id (bestStatus p.statuses) with
          | some m => putPour m.2 c { p with hold := 0, mark := some m.1 }
          | none => s
        | 2 => skipPour s c { p with hold := 0 }
        | _ => closePour s c { p with hold := 0 } p.statuses) s) s

/-- GLB_MARK_CLEAR (R250, R251). -/
def opMarkClear (k : Nat) (s : State) : State := releaseHeld (setI s F.GLB_MARK_VALID 0 k 0)

/-- The pours that an incident halted go on, with their words as the runtime has left them (R141, R392). -/
def resumeFenced (s : State) : State :=
  (List.range 4).foldl (fun s c =>
    (unitOf s c).pours.foldl (fun s p => if p.state = 3 && p.cause = 3 then resumeDue s c p else s) s) s

def execCmdPour (n : Fin 64) (i : W32) (s : State) : Host.Outcome State Fault Refusal := .next (opPour n i s)
def execDescriptorRead (c : Fin 4) (k : Nat) (s : State) : Host.Outcome State Fault Refusal := .next (opDescRead c k s)
def execPourStart (c : Fin 4) (k : Nat) (s : State) : Host.Outcome State Fault Refusal := .next (opPourStart c k s)
def execChunkIssue (c : Fin 4) (k : Nat) (s : State) : Host.Outcome State Fault Refusal := .next (opChunkIssue c k s)
def execPourComplete (c : Fin 4) (k : Nat) (s : State) : Host.Outcome State Fault Refusal := .next (opPourComplete c k s)
def execDeadlineMiss (c : Fin 4) (k : Nat) (s : State) : Host.Outcome State Fault Refusal := .next (opDeadlineMiss c k s)
def execStkPourStopGo (c : Fin 4) (desc : LAddr) (s : State) : Host.Outcome State Fault Refusal := .next (opPourStop c desc.toNat s)
def execGlbMarkClear (k : Fin 16) (s : State) : Host.Outcome State Fault Refusal := .next (opMarkClear k s)

end Sys2Proof.Machine
end

