-- ==== Sys2Proof/Machine/Billet.lean ====
section
/-! DEFINITION. Billets, wide billets and ingots as bytes (R223 to R225, R283 to R286, R291). -/
namespace Sys2Proof.Machine

/-- The residue of 64 elements; a NaN element (none) counts as 0 (R291). -/
def residue (xs : List (Option Int)) : Nat :=
  ((List.zipWith (fun (i : Nat) (x : Option Int) => (2 ^ (i % 12) : Int) * x.getD 0) (List.range xs.length) xs).foldl (· + ·) 0 % 4095).toNat

/-- Largest floor(log2 |x|) of the finite non-zero values (R111). -/
def maxExp (xs : List Num) : Option Int :=
  xs.foldl (fun a x => match x with
    | .fin _ m e => if m = 0 then a else
        let k := floorLog2 m e
        some (match a with | none => k | some b => max b k)
    | _ => a) none

/-- One billet element under scale index `x` (R289): the int8 value, none for the NaN code, and whether it clipped. -/
def billetElem (x : Nat) (mode : RMode) (v : Num) : Option Int × Bool :=
  match v with
  | .fin neg m e =>
    let r := roundGrid 8 mode neg m (e + 127 - x)
    let n := shiftTo r.1 (max r.2 0) 0
    let q := if m = 0 then 0 else n
    if 127 < q then (some (if neg then -127 else 127), true)
    else (some (if neg then -(q : Int) else q), false)
  | _ => (none, false)

/-- The 72 bytes of a billet of 64 values (R283, R289). -/
def billetBytes (x : Nat) (modes : List RMode) (vs : List Num) : List Byte :=
  let es := List.zipWith (fun v m => billetElem x m v) vs modes
  let clips := min 63 (es.filter (·.2)).length
  let nan := es.any (fun e => e.1.isNone)
  let nexp : Nat := if nan then 0 else match maxExp vs with
    | none => 0
    | some m => (max 1 (min 254 (m + 127))).toNat
  let hdr := x + residue (es.map (·.1)) * 2 ^ 8 + clips * 2 ^ 20 + (if nan then 2 ^ 26 else 0) + nexp * 2 ^ 48
  bytesOf hdr 8 ++ es.map (fun e => match e.1 with | some q => BitVec.ofInt 8 q | none => 0x80)

/-- emax of R94. -/
def ingotEmax (f : Nat) : Int := match f with | 3 => 8 | 4 => 15 | 5 => 4 | _ => 2

/-- The scale of 32 values (R94). -/
def ingotScale (f : Nat) (vs : List Num) : Nat :=
  if vs.any Num.isNan then 255
  else if vs.any (fun v => !v.isFin) then 254
  else match maxExp vs with
    | none => 127
    | some m => (max 0 (min 254 (m - ingotEmax f + 127))).toNat

/-- One ingot element: divided by its scale and saturated (R94), with the flags it sets. DESIGN CHOICE (log entry 136): an infinite
element sets OVERFLOW alone, MODE bit 3 set or clear. -/
def ingotElem (f x : Nat) (mode : RMode) (v : Num) : Nat × Flags :=
  let r := convert f mode true (v.scale (127 - x))
  (r.1, match v with | .fin .. => flNone | .inf _ => flOverflow | .nan => r.2)

/-- A dense ingot of 64 values (R224, R225, R228). -/
def ingotBytes (f : Nat) (modes : List RMode) (vs : List Num) : List Byte × Flags :=
  let x0 := ingotScale f (vs.take 32)
  let x1 := ingotScale f (vs.drop 32)
  let es := List.zipWith (fun (p : Nat × Num) m => ingotElem f (if p.1 < 32 then x0 else x1) m p.2)
    (List.zip (List.range 64) vs) modes
  (bytesOf (f + x0 * 2 ^ 8 + x1 * 2 ^ 16 + 64 * 2 ^ 24) 16 ++ packElems (fmtWidth f) (es.map (·.1)),
   es.foldl (fun a e => a ||| e.2) 0)

end Sys2Proof.Machine
end

