-- ==== Sys2Proof/Machine/WireBytes.lean ====
section
/-! DEFINITION. Bytes on the links (R9): pennants (R315), CST datagrams (R493) and surface packet headers (R508) in network
order; Brois packets (R473, R474) and flits (R470, R471) little-endian. -/
namespace Sys2Proof.Machine

/-- The low `n` bytes of a number, most significant first. -/
def beBytes (v n : Nat) : List Byte := (bytesOf v n).reverse

/-- A big-endian number. -/
def beNat (bs : List Byte) : Nat := bs.foldl (fun a b => a * 256 + b.toNat) 0

/-- The big-endian number of `n` bytes at an offset. -/
def beAt (bs : List Byte) (o n : Nat) : Nat := beNat ((bs.drop o).take n)

/-- CRC-32C over bytes, least significant bit first, as RFC 3720 uses it. -/
def crc32c (bs : List Byte) : Nat :=
  let step := fun (c : Nat) => if c % 2 = 1 then (c / 2) ^^^ 0x82F63B78 else c / 2
  (bs.foldl (fun c b => (List.range 8).foldl (fun c _ => step c) (c ^^^ b.toNat)) 0xFFFFFFFF) ^^^ 0xFFFFFFFF

/-! ### Pennants (R315) -/

/-- The 32 bytes of a pennant. -/
def Penn.header (p : Penn) : List Byte :=
  beBytes p.kind 1 ++ beBytes (p.chan % 16 * 16 + p.coll % 16) 1 ++ beBytes p.group 2 ++ beBytes p.cseq 4 ++ beBytes p.hash 4 ++
    beBytes p.gen 2 ++ beBytes p.low 2 ++ beBytes p.contrib 4 ++ beBytes p.segment 4 ++ beBytes p.block 4 ++ beBytes p.count 2 ++
    beBytes p.sender 2

/-- Read a pennant. -/
def pennOf (h payload : List Byte) : Penn :=
  { kind := beAt h 0 1, chan := beAt h 1 1 / 16, coll := beAt h 1 1 % 16, group := beAt h 2 2, cseq := beAt h 4 4, hash := beAt h 8 4
    gen := beAt h 12 2, low := beAt h 14 2, contrib := beAt h 16 4, segment := beAt h 20 4, block := beAt h 24 4, count := beAt h 28 2
    sender := beAt h 30 2, payload }

/-- A pennant as it crosses a link: every field in its width. -/
def Penn.onWire (p : Penn) : Penn := pennOf p.header p.payload

/-! ### CST (R493, R494) -/

/-- The 32-byte selective bitmap of an ACK: bit `i` is PSN ACK_PSN + 1 + `i`. -/
def bitmapBytes (l : List Nat) : List Byte := beBytes ((l.eraseDups.map (2 ^ ·)).sum) 32

/-- The 24 bytes of a CST header. -/
def CstFrame.header (x : CstFrame) : List Byte :=
  let flags := (if x.retx then 2 else 0) + x.form % 4 * 8
  beBytes (16 + x.op % 16) 1 ++ beBytes flags 1 ++ beBytes x.conn 2 ++ beBytes x.psn 4 ++ beBytes x.ack 4 ++ beBytes x.len 2 ++
    beBytes x.tag 2 ++ beBytes x.addr 8

/-- The UDP payload of a CST packet: header, pennant, payload, CRC-32C of all three. -/
def CstFrame.datagram (x : CstFrame) : List Byte :=
  let body := x.header ++ (match x.penn with | some p => p.header ++ p.payload | none => x.data) ++
    (if x.bitmap.isEmpty then [] else bitmapBytes x.bitmap)
  body ++ beBytes (crc32c body) 4

/-! ### Surface packets (R508) -/

/-- The 16 bytes of a surface packet's header: two 64-bit words, each most significant byte first. -/
def SurfPkt.header (x : SurfPkt) : List Byte :=
  let len := (x.penn.elim [] Penn.header ++ x.payload).length
  beBytes (x.kind % 16 + x.bind % 16 * 2 ^ 8 + (if x.last then 2 ^ 12 else 0) + len % 2 ^ 16 * 2 ^ 16 + x.tseq % 2 ^ 16 * 2 ^ 32 +
    x.offset % 2 ^ 16 * 2 ^ 48) 8 ++ beBytes 0 8

/-- The bytes of a surface packet. -/
def SurfPkt.bytes (x : SurfPkt) : List Byte := x.header ++ x.penn.elim [] Penn.header ++ x.payload

/-- The header of a surface flit (R471 with the bits that R507 redefines). -/
def surfFlitHeader (seq ack : Nat) (nak idle : Bool) (x : SurfPkt) : List Byte :=
  bytesOf (seq % 1024 + ack % 1024 * 2 ^ 10 + (if nak then 2 ^ 20 else 0) + (if idle then 2 ^ 21 else 0) + x.credClass % 4 * 2 ^ 22 +
    x.credits % 16 * 2 ^ 24) 4

/-! ### Brois (R470 to R474) -/

/-- The type, class, tag, status, address and payload of a packet of the module. -/
def BPkt.parts : BPkt → Nat × Nat × Nat × Nat × Nat × List Byte
  | .winRdata t r d => (0x03, 0, t, r, 0, if r = 0 then bytesOf d.toNat 8 else [])
  | .winAck t r => (0x04, 0, t, r, 0, [])
  | .memRd t a => (0x08, 1, t, 0, a, [])
  | .memWr t a d => (0x09, 0, t, 0, a, d)
  | .msgWr t a d => (0x0A, 0, t, 0, a, bytesOf d.toNat 8)

/-- The bytes of a packet: a 16-byte header and its payload. -/
def BPkt.bytes (p : BPkt) : List Byte :=
  let x := p.parts
  let data := x.2.2.2.2.2
  bytesOf (x.1 + x.2.1 * 2 ^ 5 + x.2.2.1 % 4096 * 2 ^ 8 + x.2.2.2.1 % 16 * 2 ^ 20 + data.length / 8 % 256 * 2 ^ 24) 8 ++
    bytesOf (x.2.2.2.2.1 % 2 ^ 52) 8 ++ data

/-- Bytes 0 to 247 of a flit: header, payload area, CRC-32C over both. -/
def flitBytes (seq ack : Nat) (nak idle : Bool) (cr0 cr3 : Nat) (p : BPkt) : List Byte :=
  let h := bytesOf (seq % 1024 + ack % 1024 * 2 ^ 10 + (if nak then 2 ^ 20 else 0) + (if idle then 2 ^ 21 else 0) + cr0 % 16 * 2 ^ 22 +
    cr3 % 16 * 2 ^ 26) 4
  let b := h ++ p.bytes ++ List.replicate (240 - p.bytes.length) 0
  b ++ bytesOf (crc32c b) 4

end Sys2Proof.Machine
end

