-- ==== Sys2Proof/Machine/Reduce.lean ====
section
/-! DEFINITION. Blocks of a reduction: their bytes in dense and compressed form (R283, R285, R286), the adder's combination
(R295), the owner's results and segment record (R299 to R301, R304). -/
namespace Sys2Proof.Machine

/-! ### Bytes (R283, R285, R286) -/

/-- Bytes of one element. -/
def elemSize (wide : Bool) : Nat := if wide then 3 else 1

/-- The code of an element; the NaN code for none. -/
def elemCode (wide : Bool) (x : Option Int) : Nat :=
  let m : Nat := if wide then 2 ^ 24 else 2 ^ 8
  match x with | none => m / 2 | some v => (v % (m : Int)).toNat

/-- The element that a code stands for. -/
def elemOf (wide : Bool) (c : Nat) : Option Int :=
  let m : Nat := if wide then 2 ^ 24 else 2 ^ 8
  if c = m / 2 then none else if m / 2 < c then some ((c : Int) - m) else some c

/-- The header of a block (R283). -/
def blockHeader (b : Block) (comp : Bool) : Nat :=
  let f := fun (x : Bool) (i : Nat) => if x then 2 ^ i else 0
  b.scale % 256 + b.residue % 4096 * 2 ^ 8 + b.clips % 64 * 2 ^ 20 + f b.nan 26 + f comp 27 + f b.last 28 + f b.resfail 29 +
    f b.wide 30 + f b.scalefail 31 + b.seq % 65536 * 2 ^ 32 + b.expOrRank % 65536 * 2 ^ 48

/-- The dense form. -/
def denseBytes (b : Block) : List Byte :=
  bytesOf (blockHeader b false) 8 ++ b.elems.flatMap (fun e => bytesOf (elemCode b.wide e) (elemSize b.wide))

/-- The form on a link: compressed when that is strictly shorter (R218, R286). -/
def linkBytes (b : Block) : List Byte :=
  let codes := b.elems.map (elemCode b.wide)
  let map := (codes.zipIdx.map (fun x => if x.1 = 0 then 0 else 2 ^ x.2)).sum
  let body := (codes.filter (· != 0)).flatMap (fun c => bytesOf c (elemSize b.wide))
  let pad := List.replicate ((8 - body.length % 8) % 8) (0 : Byte)
  let packed := bytesOf map 8 ++ body ++ pad
  if packed.length < 64 * elemSize b.wide then bytesOf (blockHeader b true) 8 ++ packed else denseBytes b

/-- Present elements at their places, the others 0. -/
def spread (map size : Nat) : Nat → Nat → List Byte → List Nat
  | 0, _, _ => []
  | n + 1, i, bs =>
    if Nat.testBit map i then leNat (bs.take size) :: spread map size n (i + 1) (bs.drop size) else 0 :: spread map size n (i + 1) bs

/-- Read one block: the block, and the bytes behind it; a payload that its E-map does not match is a residue failure
(R286). -/
def readBlock (bs : List Byte) : Block × List Byte :=
  let h := leNat (bs.take 8)
  let bit := fun (i : Nat) => Nat.testBit h i
  let size := elemSize (bit 30)
  let rest := bs.drop 8
  let map := leNat (rest.take 8)
  let n := ((List.range 64).filter (fun i => Nat.testBit map i)).length
  let len := if bit 27 then 8 + (size * n + 7) / 8 * 8 else 64 * size
  let codes := if bit 27 then spread map size 64 0 (rest.drop 8) else (List.range 64).map (fun i => leNat ((rest.drop (size * i)).take size))
  ({ scale := h % 256, residue := h / 2 ^ 8 % 4096, clips := h / 2 ^ 20 % 64, nan := bit 26, last := bit 28,
     resfail := bit 29, misfit := rest.length < len, wide := bit 30, scalefail := bit 31, seq := h / 2 ^ 32 % 65536,
     expOrRank := h / 2 ^ 48 % 65536, elems := codes.map (elemOf (bit 30)) }, rest.drop len)

/-- Read up to `n` blocks; bytes behind the last are payload that its E-map does not account for (R286). -/
def readBlocks : Nat → List Byte → List Block
  | 0, _ => []
  | n + 1, bs =>
    if bs.isEmpty then []
    else
      let r := readBlock bs
      { r.1 with misfit := r.1.misfit || (n == 0 && !r.2.isEmpty) } :: readBlocks n r.2

/-- The header that the sender fills in (R290). -/
def fillBlock (b : Block) (seq : Nat) (last : Bool) (rank : Nat) : Block :=
  { b with seq, last, expOrRank := if b.nan then rank else b.expOrRank }

/-! ### The adder (R295) -/

/-- A combination: the block, the inputs whose residue failed, whether the scales differ, whether the output's residue
failed. -/
structure Combined where
  out : Block
  inFails : List Nat
  mixed : Bool
  outFail : Bool
  deriving DecidableEq, Repr

/-- The sum at element `i` over the blocks whose element is not the NaN code. -/
def sumAt (bs : List Block) (i : Nat) : Int := (bs.map (fun b => (b.elems.getD i (some 0)).getD 0)).sum

/-- Any block holds the NaN code at element `i`. -/
def nanAt (bs : List Block) (i : Nat) : Bool := bs.any (fun b => (b.elems.getD i (some 0)).isNone)

/-- Element `i` of the output. -/
def outAt (bs : List Block) (i : Nat) : Option Int :=
  if nanAt bs i then none else if 8388607 < (sumAt bs i).natAbs then none else some (sumAt bs i)

/-- Combine the blocks of one sequence number, in increasing order of lowest rank; `low` is the lowest rank of all
(R295). -/
def combine (low : Nat) (bs : List Block) : Combined :=
  let bad := fun (b : Block) => b.misfit || residue b.elems != b.residue % 4095
  let inFails := (bs.zipIdx.filter (fun x => bad x.1)).map (·.2)
  let mixed := bs.any (fun b => b.scale != (bs.map (·.scale)).headD 0)
  let es := (List.range 64).map (outAt bs)
  let drop : Int := ((List.range 64).map (fun i => if (outAt bs i).isNone then (2 ^ (i % 12) : Int) * sumAt bs i else 0)).sum
  let res := (((bs.map (fun b => (b.residue : Int))).sum - drop) % 4095).toNat
  let tooBig := (List.range 64).any (fun i => !nanAt bs i && (outAt bs i).isNone)
  let outFail := residue es != res
  let nan := es.any (·.isNone)
  let nans := (bs.filter (·.nan)).map (·.expOrRank)
  let eor := if nan then nans.foldl min (nans.headD low) else (bs.map (·.expOrRank % 256)).foldl max 0
  { out := { scale := (bs.map (·.scale)).headD 0, residue := res, clips := min 63 (bs.map (·.clips)).sum, nan,
             last := bs.any (·.last), resfail := !inFails.isEmpty || bs.any (·.resfail) || tooBig || outFail, wide := true,
             scalefail := mixed || bs.any (·.scalefail), seq := (bs.map (·.seq)).headD 0, expOrRank := eor, elems := es }
    inFails, mixed, outFail }

/-! ### The owner (R299 to R301, R304) -/

/-- The FP32 result of one element: its pattern, and whether it clipped (R299, R300). -/
def ownerElem (b : Block) (zero : Bool) (x : Option Int) : W32 × Bool :=
  if b.resfail || b.scalefail then (f32Nan, false)
  else
    match x with
    | none => (if zero then 0 else f32Nan, false)
    | some v =>
      let n : Num := .fin (v < 0) v.natAbs ((b.scale : Int) - 127)
      let r := convert 0 .nearest false n
      (BitVec.ofNat 32 r.1, r.1 % 2 ^ 31 == 0x7F800000)

/-- The bytes and the clips of an owner's block. -/
def ownerBytes (b : Block) (zero : Bool) : List Byte × Nat :=
  let rs := b.elems.map (ownerElem b zero)
  (rs.flatMap (fun r => bytesOf r.1.toNat 4), (rs.filter (·.2)).length)

/-- A segment record takes a block in (R301). -/
def addRecord (r : SegRec) (b : Block) (clips : Nat) : SegRec :=
  let first := b.nan && !r.nan
  { r with
    scale := if b.seq = 0 then b.scale else r.scale
    maxExp := if b.nan then r.maxExp else max r.maxExp (b.expOrRank % 256)
    nan := r.nan || b.nan
    resfail := r.resfail || b.resfail
    scalefail := r.scalefail || b.scalefail
    clips := min (r.clips + b.clips + clips) 0xFFFFFFFF
    nanRank := if first then b.expOrRank else r.nanRank
    nanElem := if first then 64 * b.seq + (b.elems.zipIdx.find? (fun x => x.1.isNone)).elim 0 (·.2) else r.nanElem
    done := r.done || b.last }

/-- NEXT_SCALE (R304). -/
def nextScale (r : SegRec) (h : Nat) : Nat :=
  if r.maxExp = 0 then r.scale else (max 1 (min 254 ((r.maxExp : Int) + h - 6))).toNat

/-- The NaN locator (R301). -/
def SegRec.locator (r : SegRec) : Nat := if r.nan then r.nanRank % 65536 + r.nanElem % 2 ^ 32 * 65536 else 0

/-- The 16 bytes of a segment record (R301). -/
def SegRec.bytes (r : SegRec) (h : Nat) : List Byte :=
  let f := fun (x : Bool) (i : Nat) => if x then 2 ^ i else 0
  bytesOf (nextScale r h + r.scale * 2 ^ 8 + r.maxExp * 2 ^ 16 + f r.nan 24 + f r.resfail 25 + f r.scalefail 26 + r.clips * 2 ^ 32) 8 ++
    bytesOf r.locator 8

/-- The statuses of a segment (R302). -/
def SegRec.statuses (r : SegRec) : List Nat :=
  (if r.resfail then [0x21] else []) ++ (if r.scalefail then [0x132] else []) ++ (if r.nan then [0x130] else []) ++
    (if r.clips ≠ 0 then [0x131] else [])

end Sys2Proof.Machine
end

