-- ==== Sys2Proof/Machine/SurfOps.lean ====
section
/-! DEFINITION. Sending over the surface sublinks with their class credits (R507, R508, R512). -/
namespace Sys2Proof.Machine

def subOf (s : State) (f k : Nat) : Sub := getD s.net.subs (f * 8 + k) {}
def setSub (s : State) (f k : Nat) (b : Sub) : State := { s with net := { s.net with subs := put s.net.subs (f * 8 + k) b {} } }

/-- A port reset ends when its port has trained (R463): record 0x3102 of KIND 3. -/
def portResetDone (s : State) (kind p : Nat) : State :=
  if getF s F.PRT_PORT_RESET_BUSY 0 = 1 && getF s F.PRT_PORT_RESET_KIND 0 = kind && getF s F.PRT_PORT_RESET_PORT 0 = p then
    sendRec (setF s F.PRT_PORT_RESET_BUSY 0 0) .port 0 0x3102 (3 + p * 256) (s.now - getD s.power.resetAt 48 s.now)
  else s

/-- A sublink carries packets (STATE as BRL_STAT_l.STATE). -/
def subActive (s : State) (f k : Nat) : Bool := getI s F.OPT_SUB_STATE f k == 4

/-- The class of a surface packet (R170, R508). -/
def SurfPkt.cls (x : SurfPkt) : Nat := match x.kind with | 1 => 2 | 2 => 1 | _ => 0

/-- The field whose engine carries sublink `k` of field `f`: its own, or the partner's while it is lost (R512, R513). -/
def subCarrier (s : State) (f k : Nat) : Option Nat :=
  let g := f ^^^ 1
  if subActive s f k then some f
  else if getI s F.OPT_SUB_NO_DETOUR f k = 0 && (subOf s f k).wasLost && subActive s g k && inService s g then some g
  else none

/-- Send on a sublink that takes part: 32 packets of each class may be unacknowledged (R507). -/
def pushSub (s : State) (f k : Nat) (x : SurfPkt) : State :=
  let b := subOf s f k
  let u := b.used.getD x.cls 0
  if u < 32 && (b.waiting.all (fun y => y.cls != x.cls)) then
    setSub s f k { b with used := b.used.set x.cls (u + 1), out := b.out ++ [x] }
  else setSub s f k { b with waiting := b.waiting ++ [x] }

/-- Send a packet for sublink `k` of field `f`. -/
def sendSurf (s : State) (f k : Nat) (x : SurfPkt) : State :=
  match subCarrier s f k with
  | some g => pushSub s g k { x with detour := g != f }
  | none => setSub s f k { subOf s f k with waiting := (subOf s f k).waiting ++ [x] }

/-- A flit that returns a credit of class `c` (R507). -/
def creditFlit (s : State) (f k c : Nat) : State :=
  let b := subOf s f k
  setSub s f k { b with out := b.out ++ [{ kind := 0, credClass := c, credits := 1 }] }

/-- Credits return: waiting packets of the class leave (R507). -/
def returnCredits (s : State) (f k c n : Nat) : State :=
  let b := subOf s f k
  let b := { b with used := b.used.set c (b.used.getD c 0 - n) }
  let go := (b.waiting.filter (fun x => x.cls == c)).take (32 - b.used.getD c 0)
  setSub s f k { b with
    waiting := go.foldl (fun l x => l.erase x) b.waiting
    out := b.out ++ go
    used := b.used.set c (b.used.getD c 0 + go.length) }

end Sys2Proof.Machine
end

