-- ==== Sys2Proof/Machine/CollOps.lean ====
section
/-! DEFINITION. What the collective operations share: groups and trees (R306 to R310), the way to a rank (R502, R505),
pennants, channels, waits, failures and re-forms (R324 to R333). -/
namespace Sys2Proof.Machine

/-! ### Channels -/

def chanOf (s : State) (c : Nat) : Option Chan := getD s.coll.chans c none
def setChan (s : State) (c : Nat) (x : Option Chan) : State :=
  { s with coll := { s.coll with chans := put s.coll.chans c x none } }
def modChan (s : State) (c : Nat) (f : Chan → Chan) : State :=
  match chanOf s c with | some x => setChan s c (some (f x)) | none => s

def Chan.cmd (x : Chan) : Cmd := { idx := x.idx, bytes := x.bytes }
/-- The channel number of a bound collective. -/
def Chan.num (x : Chan) : Nat := bodyF x.cmd 0 42 4
def Chan.policy (x : Chan) : Bool := bodyF x.cmd 0 46 1 == 1
def Chan.records (x : Chan) : Bool := bodyF x.cmd 0 47 1 == 1
def Chan.src (x : Chan) : Nat := bodyF x.cmd 2 0 42
/-- DST_ADDR; ADDR of a broadcast. -/
def Chan.dst (x : Chan) : Nat := if x.op = 2 then bodyF x.cmd 2 0 42 else bodyF x.cmd 3 0 42
def Chan.recAddr (x : Chan) : Nat := bodyF x.cmd 4 0 42
/-- Members of the group. -/
def Chan.n (x : Chan) : Nat := x.ranks.length

/-! ### Trees (R308 to R310, R324) -/

/-- Relative index of member `m` in the tree rooted at `o` (R308). -/
def Chan.rel (x : Chan) (o m : Nat) : Nat := (m + x.n - o) % x.n
def Chan.parent (x : Chan) (o m : Nat) : Nat := ((x.tree.getD (x.rel o m) (0, 0)).1 + o) % x.n
def Chan.alternate (x : Chan) (o m : Nat) : Nat := ((x.tree.getD (x.rel o m) (0, 0)).2 + o) % x.n

/-- The effective parent (R309). -/
def Chan.effParent (x : Chan) (o : Nat) : Nat → Nat → Option Nat
  | 0, _ => none
  | k + 1, m =>
    if m = o then none
    else
      let p := x.parent o m
      if x.live.contains p then some p
      else if x.live.contains (x.alternate o m) then some (x.alternate o m)
      else x.effParent o k p

/-- The effective parent of member `m` in the tree rooted at `o`. -/
def Chan.up (x : Chan) (o m : Nat) : Option Nat := x.effParent o (x.n + 1) m

/-- The live members whose effective parent is `m`. -/
def Chan.children (x : Chan) (o m : Nat) : List Nat := x.live.filter (fun c => c != o && x.up o c == some m)

/-- The chain of effective parents of `c` reaches `m`. -/
def Chan.reaches (x : Chan) (o m : Nat) : Nat → Nat → Bool
  | 0, _ => false
  | k + 1, c => c == m || (match x.up o c with | some p => x.reaches o m k p | none => false)

/-- Live members of the subtree of `m` (R309). -/
def Chan.subtree (x : Chan) (o m : Nat) : Nat := (x.live.filter (fun c => x.reaches o m (x.n + 1) c)).length

/-- The owner of a segment (R310). -/
def Chan.owner (x : Chan) (seg : Nat) : Nat :=
  (((List.range x.n).map (fun i => (seg + i) % x.n)).find? (fun m => x.live.contains m)).getD (seg % x.n)

/-- The root of the data of a segment of an all-gather or broadcast: the member that owned it at the start (R322, R333). -/
def Chan.dataRoot (x : Chan) (seg : Nat) : Nat := if x.op = 2 then x.root else ({ x with live := x.live0 } : Chan).owner seg

/-- The root of the completion barrier (R324). -/
def Chan.barrier (x : Chan) : Nat := if x.op = 2 then x.root else x.live.foldl min (x.live.headD 0)

/-- Segments and blocks of the data that travels (R322). -/
def Chan.segs (x : Chan) : Nat := if x.op = 2 then 1 else x.segments
def Chan.blks (x : Chan) : Nat := if x.op = 2 then (x.length + 4095) / 4096 else x.blocks

/-- Address and length of a block of an all-gather or broadcast (R316, R322). -/
def Chan.blockAt (x : Chan) (seg b : Nat) : Nat × Nat :=
  if x.op = 2 then (x.dst + 4096 * b, min 4096 (x.length - 4096 * b))
  else (x.dst + 256 * (seg * x.blocks + b), 256)

/-! ### The way to a rank (R502, R503, R505) -/

/-- A transfer of the port complex is looked up by the crescent whose ports carry it (R265). -/
def portLookup (s : State) (c a n : Nat) : State := ((pagesOf a n).map (· % 2 ^ 24)).foldl (fun s q => cacheLookup s c q) s

/-- A page turned a transfer of the port complex away: record 0x2000 names it (R266, R282). -/
def portFail (s : State) (c f page : Nat) : State := sendRec (countFail s c f) .port 0 0x2000 page 0xFFFF

/-- Read a run of bytes for the port complex, by the ports of crescent `c`. -/
def portRead (s : State) (a n : Nat) (c : Nat := 0) : Nat × List Byte × State :=
  let s := portLookup s c a n
  let r := readLogical s a n
  if r.1 = 1 || r.1 = 2 then (r.1, r.2.1, portFail r.2.2 c r.1 (failPage s a n false)) else r

/-- Write a run of bytes for the port complex. -/
def portWrite (s : State) (a : Nat) (bs : List Byte) (c : Nat := 0) : Nat × State :=
  let s := portLookup s c a bs.length
  let r := writeLogical s a bs
  if r.1 = 1 || r.1 = 2 then (r.1, portFail r.2 c r.1 (failPage s a bs.length false)) else r

/-- The Rank Edge Table's entry of a rank, through the cache of 8,192 entries (R502). -/
def retEntry (s : State) (rank : Nat) : Nat × List Byte × State :=
  match s.net.ret.find? (fun e => e.1 == rank) with
  | some e => (0, e.2, s)
  | none =>
    let r := portRead s ((rdReg s .PRT_RET_BASE 0 0).toNat % 2 ^ 42 / 64 * 64 + 32 * rank) 32
    if r.1 = 0 then (0, r.2.1, { r.2.2 with net := { r.2.2.net with ret := ((rank, r.2.1) :: r.2.2.net.ret).take 8192 } }) else r

/-- The connection that stands for a hop of a channel to an address (R505). -/
def hopKey (addr ch : Nat) : Nat := 16384 + addr * 16 + ch

/-- The path to a rank: a surface sublink that carries packets, or an address over the edge; none when it cannot be
reached (R502, R505, R326). -/
inductive Path where
  | surface (f k : Nat)
  | edge (addr : Nat)
  deriving DecidableEq, Repr

def pathTo (s : State) (rank ch : Nat) : Option Path × State :=
  let r := retEntry s rank
  if r.1 ≠ 0 then (none, r.2.2)
  else
    let s := r.2.2
    let flags := ((r.2.1.drop 16).headD 0).toNat
    if flags % 2 = 0 then (none, countF s F.PRT_ELOG_DISC_RET_INVALID 0 1)
    else if flags / 2 % 2 = 1 then
      let f := ((r.2.1.drop 17).headD 0).toNat
      let k := ((r.2.1.drop 18).headD 0).toNat % 8
      if f < 48 && (subCarrier s f k).isSome then (some (.surface f k), s) else (none, s)
    else
      let a := beNat (r.2.1.take 16)
      if (connOf s (hopKey a ch)).state = 2 || (cresPorts s 0).isEmpty then (none, s) else (some (.edge a), s)

/-- Send a pennant along a path. -/
def sendPath (s : State) (x : Path) (p : Penn) : State :=
  let p := p.onWire
  match x with
  | .surface f k => sendSurf s f k { kind := if p.kind = 1 then 2 else 3, penn := some p, payload := p.payload }
  | .edge a =>
    let key := hopKey a p.chan
    let s := modConn s key (fun c => { c with state := 1, peer := a })
    startOut s { conn := key, cres := p.chan % 4, port := 0, kind := .coll p, len := p.payload.length }

/-- Send a pennant to a rank: whether it could be sent. -/
def sendRank (s : State) (rank : Nat) (p : Penn) : Bool × State :=
  let r := pathTo s rank p.chan
  match r.1 with
  | some x => (true, sendPath r.2 x p)
  | none => (false, r.2)

/-- Answer along the way a pennant came. -/
def sendBack (s : State) (v : Via) (p : Penn) : State :=
  match v with
  | .edge _ a _ => sendPath s (.edge a) p
  | .surface f k => sendPath s (.surface f k) p

/-- The way from a rank to this module is the way `v` that a pennant came. -/
def wayFrom (s : State) (v : Via) (rank ch : Nat) : Bool :=
  match v, (pathTo s rank ch).1 with
  | .edge _ a _, some (.edge b) => a == b
  | .surface f k, some (.surface g l) => f == g && k == l
  | _, _ => false

/-- A pennant of a bound collective (R315). -/
def Chan.penn (x : Chan) (kind : Nat) : Penn :=
  { kind, chan := x.num, coll := x.op, group := x.group, cseq := x.cseq, hash := x.hash, gen := x.gen, sender := x.me }

/-- Send a pennant to a member. -/
def sendMember (s : State) (x : Chan) (m : Nat) (p : Penn) : State := (sendRank s (x.ranks.getD m 0) p).2

/-- Send a pennant to every other live member. -/
def sendLive (s : State) (x : Chan) (p : Penn) : State :=
  (x.live.filter (· != x.me)).foldl (fun s m => sendMember s x m p) s

/-! ### Groups (R306) -/

/-- A group as its descriptor gives it. -/
structure Group where
  members : Nat
  id : Nat
  gen : Nat
  ranks : List Nat
  live : List Nat
  liveAddr : Nat
  treeAddr : Nat
  cseqs : List Nat
  deriving DecidableEq, Repr

/-- Read a group's descriptor, member list and live bitmap. -/
def readGroup (s : State) (a : Nat) : Nat × Option Group × State :=
  let r := portRead s a 96
  if r.1 ≠ 0 then (r.1, none, r.2.2)
  else
    let w := fun i => leNat ((r.2.1.drop (8 * i)).take 8)
    let n := w 0 % 2 ^ 17
    let l := portRead r.2.2 (w 1 % 2 ^ 42) (2 * n)
    if l.1 ≠ 0 then (l.1, none, l.2.2)
    else
      let v := portRead l.2.2 (w 2 % 2 ^ 42) ((n + 63) / 64 * 8)
      if v.1 ≠ 0 then (v.1, none, v.2.2)
      else
        let map := leNat v.2.1
        (0, some { members := n, id := w 0 / 2 ^ 32 % 2 ^ 16, gen := w 0 / 2 ^ 48, ranks := unpackElems 16 n l.2.1,
                   live := (List.range n).filter (fun i => Nat.testBit map i), liveAddr := w 2 % 2 ^ 42,
                   treeAddr := w 3 % 2 ^ 42, cseqs := unpackElems 32 16 (r.2.1.drop 0x20) }, v.2.2)

/-- Descriptors that collectives waiting in the command queues name, with this module's index (R316). -/
def queuedGroups (s : State) : List GroupRef :=
  s.cmd.queues.flatMap (fun e => (e.2.inflight ++ e.2.fetched).filterMap (fun c =>
    if 0x18 ≤ c.opcode && c.opcode ≤ 0x1A then some { gaddr := bodyF c 0 0 42, me := bodyF c 1 0 16 } else none))

/-- The group that the module knows under an identifier, from a collective it has run or one that waits in a queue; with the outcome of
the reads: 4 while one is on its way from T2. -/
def knownGroup (s : State) (id : Nat) : Nat × Option (GroupRef × Group) × State :=
  ((find s.coll.groups id).toList ++ queuedGroups s).foldl (fun r g =>
    if r.1 = 4 || r.2.1.isSome then r
    else
      let q := readGroup r.2.2 g.gaddr
      (if q.1 = 4 then 4 else 0, (q.2.1.bind (fun x => if x.id = id then some (g, x) else none)), q.2.2)) (0, none, s)

/-! ### Waits (R325, R326) -/

def collTmo (s : State) : Nat := getF s F.COL_TMO_COLL_TMO 0
def hopTmo (s : State) : Nat := getF s F.COL_TMO_HOP_TMO 0
def groupTmo (s : State) : Nat := getF s F.COL_GROUP_TMO_GROUP_TMO 0

/-- The streams from child `m` that have brought a segment's last block, by lowest rank and contributors (R293). -/
def streamsDone (s : State) (x : Chan) (seg m : Nat) : List (Nat × Nat) :=
  (s.coll.adders.flatMap (fun a =>
    (a.2.ins.filter (fun i => i.chan == x.num && i.segment == seg && i.sender == m && i.next == x.blocks)).map (fun i => (i.low, i.contrib)) ++
    (a.2.incoming.filter (fun b => b.chan == x.num && b.segment == seg && b.sender == m && b.block.seq + 1 == x.blocks)).map
      (fun b => (b.low, b.contrib)))).eraseDups

/-- The streams from a child have brought every block of a segment: together they carry its whole subtree (R320). -/
def streamDone (s : State) (x : Chan) (seg m : Nat) : Bool :=
  ((streamsDone s x seg m).map (·.2)).sum == x.subtree (x.owner seg) m

/-- Segment `seg` is finished at this member of a reduce-scatter. -/
def Chan.segDone (x : Chan) (seg : Nat) : Bool :=
  if x.owner seg = x.me then (getD x.recs seg {}).done else getD x.emitted seg 0 == x.blocks

/-- Every block of a segment has been written here. -/
def Chan.segGot (x : Chan) (seg : Nat) : Bool :=
  x.dataRoot seg == x.me ||
    ((List.range x.blks).all (fun b => getD x.got (seg * 65536 + b) false) &&
      (x.op != 1 || !x.records || getD x.gotRec seg false))

/-- The owner or root of a segment has been excluded, so that its missing blocks are not waited for (R333, log entry
25). -/
def Chan.orphan (x : Chan) (seg : Nat) : Bool :=
  !x.live.contains (x.dataRoot seg)

/-- The member's own part is finished (R321, R324). -/
def Chan.partDone (x : Chan) : Bool :=
  if x.op = 0 then (List.range x.segments).all x.segDone
  else (List.range x.segs).all (fun g => x.segGot g || x.orphan g) &&
    x.childs.all (fun c => c.unacked.isEmpty && (x.orphan c.segment || c.next == x.blks))

/-- Children in the barrier's tree whose DONE is missing. -/
def Chan.owesDone (x : Chan) : List Nat := (x.children x.barrier x.me).filter (fun m => !x.doneFrom.contains (m, x.gen))

/-- Members already named in a request of the present generation. -/
def pendingExcl (s : State) (x : Chan) : List Nat :=
  (s.coll.requests.filter (fun r => r.group == x.group && r.base == x.gen)).flatMap (·.excl) ++
    (s.coll.forming.filter (fun r => r.group == x.group && r.base == x.gen)).flatMap (·.excl)

/-- The members that a collective waits on. -/
def waitsOn (s : State) (x : Chan) : List Nat :=
  let data := if x.op = 0 then
      (List.range x.segments).flatMap (fun g => if x.segDone g then []
        else (x.children (x.owner g) x.me).filter (fun m => !streamDone s x g m))
    else
      (List.range x.segs).flatMap (fun g => if x.segGot g || x.orphan g then [] else (x.up (x.dataRoot g) x.me).toList) ++
        (x.childs.filter (fun c => !c.unacked.isEmpty)).map (·.member)
  ((data ++ (if x.partDone then x.owesDone else [])).eraseDups).filter (fun m => !(pendingExcl s x).contains m)

/-- Bring the waits of channel `c` up to date. -/
def updateWaits (s : State) (c : Nat) : State :=
  match chanOf s c with
  | none => s
  | some x =>
    setChan s c (some { x with waits := (waitsOn s x).map (fun m =>
      (x.waits.find? (fun w => w.member == m)).getD { member := m, since := s.now }) })

/-- Something came from member `m`: its wait starts again, and it is not held. -/
def heard (s : State) (c m : Nat) : State :=
  modChan s c (fun x => { x with
    waits := x.waits.map (fun w => if w.member = m then { member := m, since := s.now } else w)
    heldBy := x.heldBy.filter (fun e => e.1 != m) })

/-- Change the wait on a member. -/
def modWait (s : State) (c m : Nat) (f : CWait → CWait) : State :=
  modChan s c (fun x => { x with waits := x.waits.map (fun w => if w.member = m then f w else w) })

/-! ### The end of a collective (R318, R324, R329) -/

/-- COL_CHAN_n of a bound channel. -/
def showChan (s : State) (c : Nat) : State :=
  match chanOf s c with
  | none => wrReg s .COL_CHAN 0 c 0
  | some x => wrReg s .COL_CHAN 0 c
      (BitVec.ofNat 64 (1 + (if x.held then 2 else 0) + x.op * 4 + x.group % 65536 * 2 ^ 16 + x.cseq % 2 ^ 32 * 2 ^ 32))

/-- A pennant's C1 credit returns; the space of an edge port's buffer is its absence from the adders (R491, R507). -/
def giveCredit (s : State) (k : Credit) : State :=
  match k with | some (.surface f k, _) => creditFlit s f k 1 | _ => s

/-- The credits that an adder holds for blocks that satisfy `mine`: channel, segment. -/
def Adder.credits (a : Adder) (mine : Nat → Nat → Bool) : List Credit :=
  ((a.incoming.filter (fun b => mine b.chan b.segment)).map (·.credit) ++
    (a.ins.filter (fun i => mine i.chan i.segment)).flatMap (fun i => i.held.map (·.2))).filter Option.isSome

/-- Adder state of a channel is dropped, and the credits of its blocks return. -/
def dropAdders (s : State) (c : Nat) : State :=
  let ks := s.coll.adders.flatMap (fun a => a.2.credits (fun d _ => d == c))
  ks.foldl giveCredit { s with coll := { s.coll with adders := s.coll.adders.map (fun a =>
      (a.1, { incoming := a.2.incoming.filter (fun b => b.chan != c), ins := a.2.ins.filter (fun i => i.chan != c) })) } }

/-- The tick at which a member first reported its hold (R326). -/
def Chan.heldSince (x : Chan) (m : Nat) : Option Nat := (x.heldBy.find? (fun e => e.1 == m)).map (·.2)

/-- DETAIL of a collective (R318). -/
def Chan.detail (x : Chan) : Nat :=
  let loc := if x.op = 0 then ((x.recs.find? (fun e => e.2.nan)).elim 0 (fun e => e.2.locator)) else x.wrote % 2 ^ 32
  loc % 2 ^ 48 + x.gen % 65536 * 2 ^ 48

/-- A member that was live at the start has been excluded (R324). -/
def Chan.reformed (x : Chan) : Bool := x.live0.any (fun m => !x.live.contains m)

/-- Conditions that apply to a collective whatever ends it (R22, R302, R324). -/
def Chan.notices (x : Chan) : List Nat :=
  (if x.op = 0 then x.recs.flatMap (fun e => e.2.statuses) else []) ++ (if x.reformed then [ST_GROUP_REFORMED] else [])

/-- The bound collective of channel `c` completes with `best`, and the channel is free; other conditions are counted in the port
complex's error log (R22). -/
def endCollAs (s : State) (c best : Nat) (cs : List Nat) : State :=
  match chanOf s c with
  | none => s
  | some x => completeIdx (logPort (showChan (dropAdders (setChan s c none) c) c) cs best) x.q x.idx best x.detail

/-- It completes with the code of lowest precedence number. -/
def endColl (s : State) (c : Nat) (cs : List Nat) : State := endCollAs s c (bestStatus cs) cs

/-- Abort a collective: its pennant carries the status as the STATE code of a STATE pennant does (log entry 26). -/
def abortPenn (x : Chan) (status : Nat) : Penn := { x.penn 8 with block := status }

/-- A collective fails here: ABORT to every live member (R329). -/
def failColl (s : State) (c status : Nat) : State :=
  match chanOf s c with
  | none => s
  | some x => endCollAs (sendLive s x (abortPenn x status)) c status x.notices

/-- The outcome of R266 as a collective's status (R329). -/
def pageStatus (f : Nat) : Nat := if f = 2 then ST_DATA_POISON else ST_FAULT_PAGE

/-- An order mismatch is detected here (R328): `y` names the other collective, `other` its group as the module knows it, `v` the way it
came. -/
def mismatch (s : State) (c : Nat) (y : Penn) (v : Via) (other : Option (GroupRef × Group)) : State :=
  match chanOf s c with
  | none => s
  | some x =>
    let s := sendRec (countF s F.COL_ERR_MISMATCH 0 1) .port ST_ORDER_MISMATCH 0x2802 (c + x.group * 65536) (y.group + y.cseq * 2 ^ 32)
    let ab : Penn := { y with kind := 8, block := ST_ORDER_MISMATCH, payload := [], count := 0, segment := 0, low := 0, contrib := 0 }
    let s := match other with
      | some (r, g) => (g.live.filter (· != r.me)).foldl (fun s m => (sendRank s (g.ranks.getD m 0) { ab with sender := r.me }).2) s
      | none => sendBack s v { ab with sender := x.me }
    failColl s c ST_ORDER_MISMATCH

/-! ### Re-forming (R330, R331) -/

/-- 16-bit indices in network order. -/
def indexBytes (l : List Nat) : List Byte := l.flatMap (fun i => [BitVec.ofNat 8 (i / 256), BitVec.ofNat 8 i])
def indicesOf : Nat → List Byte → List Nat
  | 0, _ => []
  | n + 1, bs => beNat (bs.take 2) :: indicesOf n (bs.drop 2)

/-- Note a request of exclusions for base generation `g` (R330): joined to one being collected, answered again when a
sent REFORM covers it, or the start of a further generation. -/
def noteRequest (s : State) (group g : Nat) (excl : List Nat) : State × Option Forming :=
  match s.coll.forming.find? (fun f => f.group == group && f.base == g) with
  | none => ({ s with coll := { s.coll with forming := s.coll.forming ++ [{ group, base := g, excl, since := s.now }] } }, none)
  | some f =>
    if f.sent then
      if excl.all (f.excl.contains ·) then (s, some f)
      else
        match s.coll.forming.find? (fun h => h.group == group && h.base == g + 1 && !h.sent) with
        | some h => ({ s with coll := { s.coll with forming := s.coll.forming.map (fun z =>
            if z = h then { h with excl := (h.excl ++ excl).eraseDups } else z) } }, none)
        | none => ({ s with coll := { s.coll with forming := s.coll.forming ++ [{ group, base := g + 1, excl, since := s.now }] } }, none)
    else ({ s with coll := { s.coll with forming := s.coll.forming.map (fun z =>
        if z = f then { f with excl := (f.excl ++ excl).eraseDups } else z) } }, none)

/-- Send a re-form request to the leader, the live member of lowest index after `after`, or note it when this module leads (R330);
`base` is the pennant with this member's group, generation and index. -/
def askReform (s : State) (base : Penn) (live ranks excl : List Nat) (after : Option Nat) : State :=
  let cands := live.filter (fun m => !excl.contains m && (match after with | some l => l < m | none => true))
  match cands with
  | [] => s
  | l :: _ =>
    if l = base.sender then (noteRequest s base.group base.gen excl).1
    else
      let p : Penn := { base with kind := 6, count := excl.length, contrib := excl.length, payload := indexBytes excl }
      let s := (sendRank s (ranks.getD l 0) p).2
      { s with coll := { s.coll with requests := s.coll.requests.filter (fun r => !(r.group == base.group && r.base == base.gen)) ++
          [{ group := base.group, base := base.gen, excl, leader := l, since := s.now }] } }

/-- A bound collective's request. -/
def requestReform (s : State) (x : Chan) (excl : List Nat) : State := askReform s (x.penn 6) x.live x.ranks excl none

/-- Member `m` is declared failed (R323, R326, R335). -/
def declareFailed (s : State) (c m reason : Nat) : State :=
  match chanOf s c with
  | none => s
  | some x =>
    let s := sendRec (countF s F.COL_ERR_FAILED 0 1) .port 0 0x2800 (m + x.group * 65536) reason
    let s := modChan s c (fun x => { x with waits := x.waits.filter (fun w => w.member != m) })
    let old := (s.coll.requests.find? (fun r => r.group == x.group && r.base == x.gen)).elim [] (·.excl)
    requestReform s x ((old ++ [m]).eraseDups)

end Sys2Proof.Machine
end

