-- ==== Sys2Proof/Machine/Collectives.lean ====
section
/-! DEFINITION. Reductions and collectives: the adders (R294 to R301), REDUCE_SCATTER, ALL_GATHER and BROADCAST (R311 to
R324), the pennants (R326 to R331) and the timers (R323, R325 to R330). -/
namespace Sys2Proof.Machine

/-! ### Adders (R292, R319) -/

def adderOf (s : State) (a : Nat) : Adder := getD s.coll.adders a {}
def setAdder (s : State) (a : Nat) (x : Adder) : State := { s with coll := { s.coll with adders := put s.coll.adders a x {} } }

/-- The owner stage. -/
def ownerStage : Nat := 0x200

/-- The adders of one kind in service: edge ports that are up, or optical engines with a sublink that carries packets, and whose adder
has passed its self-test (R379). -/
def addersOf (s : State) (surface : Bool) : List Nat :=
  if surface then
    ((List.range 48).filter (fun f => inService s f && (List.range 8).any (fun k => subActive s f k) &&
      !s.coll.dead.contains (f + 0x100))).map (· + 0x100)
  else (List.range 32).filter (fun p => portUp s p && !s.coll.dead.contains p)

/-- The adder of a segment, in turn over those in service (R319). -/
def adderFor (s : State) (seg : Nat) (surface : Bool) : Option Nat :=
  let l := addersOf s surface
  if l.isEmpty then none else l[seg % l.length]?

/-- A member is reached over a surface port. -/
def bySurface (s : State) (x : Chan) (m : Nat) : Bool :=
  match (pathTo s (x.ranks.getD m 0) x.num).1 with | some (.surface ..) => true | _ => false

/-- What adder `a` combines for a segment: the children of its kind, and whether the member's own billets join there
(R319); the owner stage takes everything. -/
def adderShare (s : State) (x : Chan) (seg a : Nat) : Option (List Nat × Bool) :=
  let o := x.owner seg
  let cs := x.children o x.me
  if o = x.me then (if a = ownerStage then some (cs, true) else none)
  else if cs.isEmpty then none
  else
    let surf := cs.filter (bySurface s x)
    let edge := cs.filter (fun m => !bySurface s x m)
    if !surf.isEmpty && adderFor s seg true = some a then some (surf, true)
    else if !edge.isEmpty && adderFor s seg false = some a then some (edge, surf.isEmpty)
    else none

/-- The member's own block (R290): none while it is on its way from T2, or with the outcome of R266. -/
def ownBlock (s : State) (x : Chan) (seg b : Nat) : Nat × Block × State :=
  let r := portRead s (x.src + 72 * (seg * x.blocks + b)) 72 (x.num % 4)
  (r.1, fillBlock (readBlock r.2.1).1 b (b + 1 == x.blocks) (x.ranks.getD x.me 0), r.2.2)

/-- The inputs of an adder for the next block of a segment, when they are complete (R294, R320). -/
def readyInputs (s : State) (a : Nat) (x : Chan) (seg b : Nat) : Option (List RedIn) :=
  match adderShare s x seg a with
  | none => none
  | some (cs, _) =>
    let ins := (adderOf s a).ins.filter (fun i => i.chan == x.num && i.segment == seg && cs.contains i.sender &&
      (match i.held with | k :: _ => k.1.seq == b | [] => false))
    let want := (cs.map (fun m => x.subtree (x.owner seg) m)).sum
    if (ins.map (·.contrib)).sum = want then some ins else none

/-- The next block that a segment's combination at this member would emit at adder `a`. -/
def nextAt (x : Chan) (a seg : Nat) : Nat := getD x.emitted (if a = ownerStage then seg else seg + 2 ^ 33 * (1 + a)) 0

/-- The first channel and segment that adder `a` can combine. -/
def readyAt (s : State) (a : Nat) : Option (Chan × Nat × List RedIn) :=
  (s.coll.chans.filterMap (·.2)).findSome? (fun x =>
    if x.op ≠ 0 || x.held then none
    else (List.range x.segments).findSome? (fun g =>
      let b := nextAt x a g
      if b < x.blocks then (readyInputs s a x g b).map (fun l => (x, g, l)) else none))

/-- Inputs in rank order, the member's own block among them (R293, R295). -/
def inRankOrder (l : List (Nat × Block)) : List (Nat × Block) :=
  l.foldl (fun r e => r.takeWhile (fun z => z.1 ≤ e.1) ++ e :: r.dropWhile (fun z => z.1 ≤ e.1)) []

/-- Counters and records of a combination (R295, R296, R303). -/
def reportCombine (s : State) (a : Nat) (c seg : Nat) (ins : List (Nat × Block)) (r : Combined) : State :=
  let optical := 0x100 ≤ a && a < 0x200
  let f := a - 0x100
  let cnt := fun (s : State) (e o : Fld) (n : Nat) => if optical then countF s o f n else countF s e 0 n
  let s := cnt s F.PRT_RED_ERR_RES_IN F.FLD_RED_ERR_RES_IN r.inFails.length
  let s := cnt s F.PRT_RED_ERR_RES_OUT F.FLD_RED_ERR_RES_OUT (if r.outFail then 1 else 0)
  let newScale := r.mixed && ins.all (fun e => !e.2.scalefail)
  let newRes := r.out.resfail && ins.all (fun e => !e.2.resfail)
  let s := cnt s F.PRT_RED_ERR_SCALE_MISMATCH F.FLD_RED_ERR_SCALE_MISMATCH (if newScale then 1 else 0)
  let s := if optical then s else
    countF (countF (countF s F.PRT_RED_STAT_BLOCKS 0 1) F.PRT_RED_STAT_NAN_BLOCKS 0 (if r.out.nan then 1 else 0))
      F.PRT_RED_STAT_CLIP_BLOCKS 0 (if r.out.clips ≠ 0 then 1 else 0)
  let told := match chanOf s c with | some x => x.flagged.contains (a, seg) | none => true
  if (newScale || newRes) && !told then
    let src : Src := if optical then .field f else .port
    let low := fun (i : Nat) => (ins.getD i (0, r.out)).1
    let scale0 := (ins.map (·.2.scale)).headD 0
    let other := (ins.zipIdx.find? (fun e => e.1.2.scale != scale0)).elim 0 (·.2)
    let s := modChan s c (fun x => { x with flagged := (a, seg) :: x.flagged })
    if newRes && !r.inFails.isEmpty then
      sendRec s src ST_RESIDUE 0x2400 (r.out.seq + low (r.inFails.headD 0) * 65536) a
    else if newRes then sendRec s src ST_RESIDUE 0x2401 r.out.seq a
    else sendRec s src 0x132 0x2402 (r.out.seq + low other * 65536) a
  else s

/-- Send one combined block to the parent (R293, R319, R320). -/
def sendUp (s : State) (x : Chan) (seg low contrib : Nat) (bs : List Block) : State :=
  match x.up (x.owner seg) x.me with
  | none => s
  | some p =>
    sendMember s x p { x.penn 1 with low, contrib, segment := seg, block := (bs.map (·.seq)).headD 0, count := bs.length,
                                     payload := bs.flatMap linkBytes }

/-- The owner writes a block's results and, at the last block, the segment record (R299 to R301): the outcome. -/
def ownerWrite (s : State) (x : Chan) (seg : Nat) (b : Block) : Nat × State :=
  let r := ownerBytes b x.policy
  let w := portWrite s (x.dst + 256 * (seg * x.blocks + b.seq)) r.1 (x.num % 4)
  let rec' := addRecord (getD x.recs seg {}) b r.2
  let s := modChan w.2 x.num (fun x => { x with recs := put x.recs seg rec' {} })
  if w.1 ≠ 0 then (w.1, s)
  else if rec'.done then portWrite s (x.recAddr + 16 * seg) (rec'.bytes (getF s F.PRT_RED_CFG_HEADROOM 0)) (x.num % 4)
  else (0, s)

/-- A segment's block has been emitted at adder `a`; the segment is done when its last adder has emitted all (R321). -/
def markEmitted (s : State) (x : Chan) (a seg b : Nat) : State :=
  let s := modChan s x.num (fun x => { x with emitted := put x.emitted (if a = ownerStage then seg else seg + 2 ^ 33 * (1 + a)) (b + 1) 0 })
  if a = ownerStage then s
  else
    let kinds := [true, false].filterMap (fun k => adderFor s seg k)
    modChan s x.num (fun x =>
      let mine := kinds.filter (fun k => (adderShare s x seg k).isSome)
      if mine.all (fun k => nextAt x k seg == x.blocks) then { x with emitted := put x.emitted seg x.blocks 0 } else x)

/-! ### Moving a collective on -/

/-- The 56 billets of a packet (R504). -/
def perPacket : Nat := 56

/-- A member without children sends a segment's billets to its parent (R290, R319): the outcome of its reads. -/
def sendLeaf (s : State) (x : Chan) (seg : Nat) : Nat → Nat × State
  | 0 => (0, s)
  | k + 1 =>
    match chanOf s x.num with
    | none => (0, s)
    | some y =>
      let b := getD y.emitted seg 0
      if x.blocks ≤ b then (0, s)
      else
        let n := min perPacket (x.blocks - b)
        let r := portRead s (x.src + 72 * (seg * x.blocks + b)) (72 * n) (x.num % 4)
        if r.1 ≠ 0 then (r.1, r.2.2)
        else
          let bs := (readBlocks n r.2.1).zipIdx.map (fun e => fillBlock e.1 (b + e.2) (b + e.2 + 1 == x.blocks) (x.ranks.getD x.me 0))
          let s := sendUp r.2.2 x seg (x.ranks.getD x.me 0) 1 bs
          sendLeaf (modChan s x.num (fun y => { y with emitted := put y.emitted seg (b + n) 0 })) x seg k

/-- Send every segment's billets that need no adder. -/
def sendLeaves (s : State) (x : Chan) : Nat × State :=
  (List.range x.segments).foldl (fun r g =>
    if r.1 ≠ 0 || x.owner g = x.me || !(x.children (x.owner g) x.me).isEmpty then r
    else sendLeaf r.2 x g (x.blocks / perPacket + 1)) (0, s)

/-- Blocks of a segment that this member can send, from block 0 on (R322). -/
def Chan.ready (x : Chan) (seg : Nat) : Nat :=
  if x.dataRoot seg = x.me then x.blks
  else ((List.range x.blks).takeWhile (fun b => getD x.got (seg * 65536 + b) false)).length

/-- The share of a child in a segment. -/
def Chan.childTx (x : Chan) (m seg : Nat) : ChildTx :=
  (x.childs.find? (fun c => c.member == m && c.segment == seg)).getD { member := m, segment := seg }
def Chan.setChild (x : Chan) (t : ChildTx) : Chan :=
  { x with childs := x.childs.filter (fun c => !(c.member == t.member && c.segment == t.segment)) ++ [t] }

/-- Send a child the blocks of a segment that are ready (R322), one gained by a re-form from its JOIN on (R331): the outcome of the
reads. -/
def feedChild (s : State) (c m seg : Nat) : Nat → Nat × State
  | 0 => (0, s)
  | k + 1 =>
    match chanOf s c with
    | none => (0, s)
    | some x =>
      let t := x.childTx m seg
      if x.ready seg ≤ t.next || !t.joined then (0, setChan s c (some (x.setChild t)))
      else
        let a := x.blockAt seg t.next
        let r := portRead s a.1 a.2 (c % 4)
        if r.1 ≠ 0 then (r.1, r.2.2)
        else
          let withRec := x.op == 1 && x.records && t.next + 1 == x.blks
          let q := if withRec then portRead r.2.2 (x.recAddr + 16 * seg) 16 (c % 4) else (0, [], r.2.2)
          if q.1 ≠ 0 then (q.1, q.2.2)
          else
            let s := sendMember q.2.2 x m { x.penn 1 with segment := seg, block := t.next, count := 1, payload := r.2.1 ++ q.2.1 }
            feedChild (modChan s c (fun x => x.setChild { t with next := t.next + 1, unacked := t.unacked ++ [(t.next, s.now)] })) c m seg k

/-- Feed every child of every segment. -/
def feedAll (s : State) (x : Chan) : Nat × State :=
  (List.range x.segs).foldl (fun r g =>
    (x.children (x.dataRoot g) x.me).foldl (fun r m => if r.1 ≠ 0 then r else feedChild r.2 x.num m g (x.blks + 1)) r) (0, s)

/-- The statuses with which a member completes at FINISH (R302, R324, R333). -/
def Chan.statuses (x : Chan) : List Nat :=
  let lacks := x.op != 0 && (List.range x.segs).any (fun g => !x.segGot g)
  let rootGone := x.op == 2 && !x.live.contains x.root
  ST_OK :: (x.notices ++ (if lacks || rootGone then [0x141] else []))

/-- A member whose part is finished and whose children have sent DONE sends DONE, or, at the root, FINISH (R324). -/
def barrierStep (s : State) (c : Nat) : State :=
  match chanOf s c with
  | none => s
  | some x =>
    if x.held || x.doneSent || !x.partDone || !x.owesDone.isEmpty then s
    else if x.barrier = x.me then
      let s := (x.children x.me x.me).foldl (fun s m => sendMember s x m (x.penn 10)) s
      endColl s c x.statuses
    else
      let s := match x.up x.barrier x.me with | some p => sendMember s x p (x.penn 9) | none => s
      modChan s c (fun x => { x with doneSent := true })

/-- Move the collective of channel `c` on as far as it goes by itself. -/
def pump (s : State) (c : Nat) : State :=
  match chanOf s c with
  | none => s
  | some x =>
    if x.held then updateWaits s c
    else
      let r := if x.op = 0 then sendLeaves s x else feedAll s x
      if r.1 = 1 || r.1 = 2 then failColl r.2 c (pageStatus r.1)
      else updateWaits (if r.1 = 0 then barrierStep r.2 c else r.2) c

/-- Move every channel on. -/
def pumpAll (s : State) : State := (List.range 16).foldl pump s

/-! ### Starting (R311 to R314, R317) -/

/-- The tree table, or the outcome of the read (R308). -/
def readTree (s : State) (a n : Nat) : Nat × List (Nat × Nat) × State :=
  let r := portRead s a (4 * n)
  (r.1, (unpackElems 32 n r.2.1).map (fun w => (w % 65536, w / 65536)), r.2.2)

/-- R311: every PARENT and ALT below MEMBERS, and none but the root's names itself. -/
def treeOk (n : Nat) (t : List (Nat × Nat)) : Bool :=
  t.zipIdx.all (fun e => e.2 == 0 || (e.1.1 < n && e.1.2 < n && e.1.1 != e.2 && e.1.2 != e.2))

/-- The collective hash (R314). -/
def collHash (c : Cmd) (op group : Nat) : Nat :=
  let bc := op == 0x1A
  crc32c ([BitVec.ofNat 8 op, BitVec.ofNat 8 (bodyF c 0 42 4),
      BitVec.ofNat 8 ((if op = 0x18 then bodyF c 0 46 1 else 0) + (if op = 0x19 then 2 * bodyF c 0 47 1 else 0)), 0] ++
    bytesOf group 2 ++ bytesOf (if bc then bodyF c 1 16 16 else 0) 2 ++ bytesOf (bodyF c 1 32 32) 4 ++
    bytesOf (if bc then bodyF c 3 0 32 else bodyF c 5 0 32) 4 ++ bytesOf (if bc then 0 else bodyF c 5 32 17) 4)

/-- Kept DATA of a collective that its channel now binds, or of a generation that has been reached, is taken up again
(R327). -/
def takeEarly (s : State) (c : Nat) : State :=
  match chanOf s c with
  | none => s
  | some x =>
    let mine := fun (e : Penn × Via) => e.1.group == x.group && e.1.cseq == x.cseq && e.1.hash == x.hash && e.1.chan == c &&
      e.1.gen ≤ x.gen
    { s with coll := { s.coll with arrived := s.coll.early.filter mine ++ s.coll.arrived
                                   early := s.coll.early.filter (fun e => !mine e) } }

/-- Every member's table entry is in the cache before the first pennant leaves: the outcome of the reads. -/
def loadRanks (s : State) (l : List Nat) : Nat × State :=
  l.foldl (fun r k => if r.1 = 4 then r else let q := retEntry r.2 k; (if q.1 = 4 then 4 else 0, q.2.2)) (0, s)

/-- Bind a channel and start (R312, R313, R331). -/
def bindColl (s : State) (x : Chan) : State :=
  let c := x.num
  let s := setChan s c (some x)
  let s := { s with coll := { s.coll with groups := insert s.coll.groups x.group { gaddr := x.gaddr, me := x.me } } }
  pump (takeEarly (showChan s c) c) c

/-- The collective that a command and its group's descriptor, CSEQ and tree give (R313, R314, R316). -/
def collOf (op n : Nat) (i : W32) (c : Cmd) (g : Group) (tree : List (Nat × Nat)) : Chan :=
  { q := n, idx := i, bytes := c.bytes, op := op - 0x18, gaddr := bodyF c 0 0 42, group := g.id, gen := g.gen
    cseq := g.cseqs.getD (bodyF c 0 42 4) 0, hash := collHash c op g.id, ranks := g.ranks, me := bodyF c 1 0 16
    root := if op = 0x1A then bodyF c 1 16 16 else 0, tree, live := g.live, live0 := g.live
    segments := bodyF c 5 0 32, blocks := bodyF c 5 32 17, length := bodyF c 3 0 32 }

/-- The collective takes its CSEQ: the next is written back (R313). -/
def takeCseq (s : State) (x : Chan) : State :=
  (portWrite s (x.gaddr + 0x20 + 4 * x.num) (bytesOf (x.cseq + 1) 4) (x.num % 4)).2

/-- The abort table holds the collective (R328). -/
def Chan.abortedBy (x : Chan) (a : AbortEntry) : Bool :=
  a.group == x.group && a.chan == x.num && a.cseq == x.cseq && a.hash == x.hash

/-- The collective takes its CSEQ and binds its channel, unless the abort table names it (R312, R313, R328); `fail`: a page of its tree
table has failed, and every live member is told (R329). -/
def startColl (s : State) (x : Chan) (c : Cmd) (fail : Nat) : State :=
  let s := takeCseq s x
  match s.coll.aborts.find? x.abortedBy with
  | some a => completeCmd { s with coll := { s.coll with aborts := s.coll.aborts.erase a } } x.q c a.status (x.gen * 2 ^ 48)
  | none => if fail ≠ 0 then failColl (setChan s x.num (some x)) x.num (pageStatus fail) else bindColl (markRun s x.q x.idx) x

/-- REDUCE_SCATTER, ALL_GATHER and BROADCAST start (R311 to R317, R328). An empty one is found invalid or excluded by its group's
descriptor first, where that can be read (R22, R166). -/
def opColl (op n : Nat) (i : W32) (s : State) : State :=
  onValid s n i op (fun c s =>
    let r := readGroup s (bodyF c 0 0 42)
    match r.2.1 with
    | none =>
      if r.1 = 4 then (false, r.2.2)
      else (true, completeCmd r.2.2 n c (if collEmpty op c then ST_OK_EMPTY else pageStatus r.1) 0)
    | some g =>
      let own := if op = 0x1A then bodyF c 4 0 42 else 0
      let t := readTree r.2.2 (if own = 0 then g.treeAddr else own) g.members
      let x := collOf op n i c g t.2.1
      let gen := g.gen * 2 ^ 48
      if t.1 = 4 then (false, t.2.2)
      else if g.members = 0 then (true, completeCmd t.2.2 n c ST_OK_EMPTY gen)
      else if g.members ≤ x.me || g.members ≤ x.root || 65536 < g.members then (true, completeCmd t.2.2 n c ST_CMD_INVALID gen)
      else if t.1 = 0 && !treeOk g.members t.2.1 then (true, completeCmd t.2.2 n c ST_CMD_INVALID gen)
      else if !g.live.contains x.me then (true, completeCmd t.2.2 n c 0x140 gen)
      else if collEmpty op c then (true, completeCmd t.2.2 n c ST_OK_EMPTY gen)
      else
        let l := loadRanks t.2.2 g.ranks
        if l.1 = 4 then (false, l.2) else (true, startColl l.2 x c t.1))

/-! ### Pennants -/

/-- Pennant `k` of those that have arrived, of one kind. -/
def arrivedOf (s : State) (k kind : Nat) : Option (Penn × Via) :=
  match s.coll.arrived[k]? with
  | some e => if e.1.kind = kind then some e else none
  | none => none
/-- The pennant leaves the input, and its credit stays taken. -/
def removePenn (s : State) (k : Nat) : State := { s with coll := { s.coll with arrived := s.coll.arrived.eraseIdx k } }
/-- The pennant leaves the input; a sublink's credit returns (R327, R507). -/
def takePenn (s : State) (k : Nat) : State :=
  match s.coll.arrived[k]? with
  | some (p, .surface f l) => creditFlit (removePenn s k) f l (if p.kind = 1 then 1 else 0)
  | _ => removePenn s k

/-- Two pennants came the same way. -/
def sameWay : Via → Via → Bool
  | .edge _ a _, .edge _ b _ => a == b
  | .surface f k, .surface g l => f == g && k == l
  | _, _ => false

/-- DATA of one channel on one path is taken in the order in which it was sent (R294, R328): over the edge by the hop's PSNs, none
missing below (R505). -/
def dataInTurn (s : State) (k : Nat) (p : Penn) (v : Via) : Bool :=
  let others := (s.coll.arrived.zipIdx.filter (fun e => e.2 != k && e.1.1.kind == 1 && e.1.1.chan == p.chan && sameWay e.1.2 v))
  match v with
  | .edge _ a psn =>
    ((connOf s (hopKey a p.chan)).rxNext - 1 - psn).toNat < 2 ^ 31 &&
      others.all (fun e => match e.1.2 with | .edge _ _ q => (q - psn).toNat < 2 ^ 31 | _ => true)
  | .surface .. => others.all (fun e => k < e.2)

/-- The pennant belongs to the bound collective. -/
def Chan.names (x : Chan) (p : Penn) : Bool := x.group == p.group && x.cseq == p.cseq && x.hash == p.hash

/-- The early pool holds 4 MiB (R327); without room the pennant stays where it arrived, its credit not returned. -/
def keepEarly (s : State) (k : Nat) (e : Penn × Via) : State :=
  if ((s.coll.early.map (fun z => z.1.payload.length)).sum + e.1.payload.length) ≤ 4194304 then
    { s with coll := { s.coll with arrived := s.coll.arrived.eraseIdx k, early := s.coll.early ++ [e] } }
  else s

/-- The member still expects data from `m` (R328). -/
def expectsData (s : State) (x : Chan) (m : Nat) : Bool :=
  if x.op = 0 then
    (List.range x.segments).any (fun g => !x.segDone g && (x.children (x.owner g) x.me).contains m && !streamDone s x g m)
  else (List.range x.segs).any (fun g => !x.segGot g && x.up (x.dataRoot g) x.me == some m)

/-- The members of the bound collective that a pennant of another collective comes from: by its index in the same group, else by the
way it came, the same for all packets of a channel (R328). -/
def sendersIn (s : State) (x : Chan) (p : Penn) (v : Via) : List Nat :=
  if p.group = x.group then [p.sender] else x.live.filter (fun m => m != x.me && wayFrom s v (x.ranks.getD m 0) x.num)

/-- Blocks of a reduce-scatter go to the adder of their segment (R294, R319); the last of them returns the pennant's credit. -/
def reduceData (s : State) (x : Chan) (p : Penn) (v : Via) : State :=
  let surface := match v with | .surface .. => true | _ => false
  let a := if x.owner p.segment = x.me then some ownerStage else adderFor s p.segment surface
  match a with
  | none => giveCredit s (some (v, p.payload.length))
  | some a =>
    let bs := readBlocks p.count p.payload
    let d := adderOf s a
    let s := if bs.isEmpty then giveCredit s (some (v, p.payload.length)) else s
    setAdder s a { d with incoming := d.incoming ++ bs.zipIdx.map (fun b =>
      { chan := x.num, segment := p.segment, sender := p.sender, low := p.low, contrib := p.contrib, block := b.1
        credit := if b.2 + 1 = bs.length then some (v, p.payload.length) else none }) }

/-- One block of an all-gather or broadcast is written at its place and acknowledged (R322). -/
def landBlock (s : State) (x : Chan) (p : Penn) (b : Nat) (bs : List Byte) : Nat × State :=
  let key := p.segment * 65536 + b
  let w := if getD x.got key false then (0, s) else
    let r := portWrite s (x.blockAt p.segment b).1 bs (x.num % 4)
    (r.1, modChan r.2 x.num (fun x => { x with got := put x.got key true false, wrote := x.wrote + 1 }))
  if w.1 ≠ 0 then w else (0, sendMember w.2 x p.sender { x.penn 2 with segment := p.segment, block := b, count := 1 })

/-- The blocks of a pennant, one after another. -/
def landBlocks (s : State) (c : Nat) (p : Penn) : Nat → Nat → List Byte → Nat × State
  | 0, _, bs =>
    match chanOf s c with
    | none => (0, s)
    | some x =>
      if x.op = 1 && x.records && p.block + p.count = x.blks && bs.length = 16 then
        let w := portWrite s (x.recAddr + 16 * p.segment) bs (c % 4)
        (w.1, modChan w.2 c (fun x => { x with gotRec := put x.gotRec p.segment true false }))
      else (0, s)
  | k + 1, b, bs =>
    match chanOf s c with
    | none => (0, s)
    | some x =>
      let n := (x.blockAt p.segment b).2
      let r := landBlock s x p b (bs.take n)
      if r.1 ≠ 0 then r else landBlocks r.2 c p k (b + 1) (bs.drop n)

/-- A pennant of another collective shows an order mismatch; it stays while the other group's descriptor is read. -/
def foundMismatch (s : State) (k c : Nat) (p : Penn) (v : Via) : State :=
  let g := knownGroup s p.group
  if g.1 = 4 then g.2.2 else mismatch (takePenn g.2.2 k) c p v g.2.1

/-- DATA (R327, R328). -/
def opData (k : Nat) (s : State) : State :=
  match arrivedOf s k 1 with
  | none => s
  | some (p, v) =>
    if !dataInTurn s k p v then s
    else match chanOf s p.chan with
    | none => keepEarly s k (p, v)
    | some x =>
      if x.names p then
        if p.gen < x.gen then countF (takePenn s k) F.PRT_ELOG_DISC_STALE_GEN 0 1
        else if x.gen < p.gen || x.held then keepEarly s k (p, v)
        else if x.op = 0 then updateWaits (reduceData (heard (removePenn s k) p.chan p.sender) x p v) p.chan
        else
          let r := landBlocks (heard (takePenn s k) p.chan p.sender) p.chan p p.count p.block p.payload
          if r.1 ≠ 0 then failColl r.2 p.chan (pageStatus (if r.1 = 2 then 2 else 1)) else pump r.2 p.chan
      else if x.group = p.group && x.cseq = p.cseq then foundMismatch s k p.chan p v
      else if (sendersIn s x p v).any (expectsData s x) then foundMismatch s k p.chan p v
      else keepEarly s k (p, v)

/-- ADDER_BLOCK_RECEIVE (R294): a block enters its stream's buffer of 64; one out of sequence, or that disagrees about LAST, ends
the collective. -/
def opAdderReceive (a k : Nat) (s : State) : State :=
  let d := adderOf s a
  match takeAt d.incoming k with
  | none => s
  | some (b, rest) =>
    if (d.incoming.take k).any (fun z => z.chan == b.chan && z.segment == b.segment && z.sender == b.sender && z.low == b.low) then s
    else
      let same := fun (i : RedIn) => i.chan == b.chan && i.segment == b.segment && i.sender == b.sender && i.low == b.low
      let i := (d.ins.find? same).getD { chan := b.chan, segment := b.segment, sender := b.sender, low := b.low, contrib := b.contrib }
      if 64 ≤ i.held.length then s
      else
        let s := setAdder s a { d with incoming := rest }
        let clash := d.ins.any (fun j => j.chan == b.chan && j.segment == b.segment &&
          j.held.any (fun h => h.1.seq == b.block.seq && h.1.last != b.block.last))
        if b.block.seq ≠ i.next || clash then failColl (giveCredit s b.credit) b.chan ST_ORDER_MISMATCH
        else
          let i' := { i with next := i.next + 1, held := i.held ++ [(b.block, b.credit)], contrib := b.contrib }
          updateWaits (setAdder s a { incoming := rest, ins := d.ins.filter (fun j => !same j) ++ [i'] }) b.chan

/-- The adder that takes stage `n` of a cascade at adder `a`: the next of its kind in service. -/
def cascadeAdder (s : State) (a n : Nat) : Nat :=
  let l := addersOf s (0x100 ≤ a)
  l.getD ((l.idxOf a + 1 + n) % max 1 l.length) a

/-- Adders of one kind cascade until at most 8 inputs are left for adder `a` (R292, R319): each stage combines the 8 lowest in rank
order; the owner stage takes any number (R299). -/
def cascade (s : State) (a c seg : Nat) : Nat → Nat → List (Nat × Block) → List (Nat × Block) × State
  | 0, _, l => (l, s)
  | k + 1, n, l =>
    if a = ownerStage || l.length ≤ 8 then (l, s)
    else
      let ins := l.take 8
      let low := (ins.map (·.1)).headD 0
      let r := combine low (ins.map (·.2))
      cascade (reportCombine s (cascadeAdder s a n) c seg ins r) a c seg k (n + 1) ((low, r.out) :: l.drop 8)

/-- The combined block goes on: to the owner's memory, or to the parent (R299, R319, R321). -/
def emitBlock (s : State) (a : Nat) (x : Chan) (seg b low contrib : Nat) (out : Block) : State :=
  if a = ownerStage then
    let w := ownerWrite s x seg out
    if w.1 ≠ 0 then failColl w.2 x.num (pageStatus (if w.1 = 2 then 2 else 1))
    else pump (markEmitted w.2 x a seg b) x.num
  else pump (markEmitted (sendUp s x seg low contrib [out]) x a seg b) x.num

/-- ADDER_COMBINE (R294 to R301, R319, R320): the adder consumes a block of every input and returns its credit; inputs that disagree
about LAST end the collective. -/
def opAdderCombine (a : Nat) (s : State) : State :=
  match readyAt s a with
  | none => s
  | some (x, seg, ins) =>
    let b := nextAt x a seg
    let joins := ((adderShare s x seg a).getD ([], false)).2
    let own := if joins then ownBlock s x seg b else (0, { scale := 0, residue := 0, elems := [] }, s)
    if own.1 = 4 then own.2.2
    else if own.1 ≠ 0 then failColl own.2.2 x.num (pageStatus own.1)
    else
      let heads := ins.filterMap (fun i => i.held.head?.map (fun h => (i.low, h.1)))
      let all := inRankOrder (heads ++ (if joins then [(x.ranks.getD x.me 0, own.2.1)] else []))
      if all.any (fun e => e.2.last != ((all.map (·.2.last)).headD false)) then failColl own.2.2 x.num ST_ORDER_MISMATCH
      else
        let d := adderOf own.2.2 a
        let s := setAdder own.2.2 a { d with ins := d.ins.map (fun i => if ins.contains i then { i with held := i.held.drop 1 } else i) }
        let s := ins.foldl (fun s i => giveCredit s ((i.held.head?.map (·.2)).getD none)) s
        let l := cascade s a x.num seg all.length 0 all
        let low := (l.1.map (·.1)).headD 0
        let r := combine low (l.1.map (·.2))
        let s := reportCombine l.2 a x.num seg l.1 r
        emitBlock s a x seg b low ((ins.map (·.contrib)).sum + (if joins then 1 else 0)) r.out

/-- ACK (R322). -/
def opAck (k : Nat) (s : State) : State :=
  match arrivedOf s k 2 with
  | none => s
  | some (p, _) =>
    let s := takePenn s k
    match chanOf s p.chan with
    | some x =>
      if x.names p then
        let t := x.childTx p.sender p.segment
        let s := heard s p.chan p.sender
        pump (modChan s p.chan (fun x => x.setChild { t with unacked := t.unacked.filter (fun u => u.1 != p.block) })) p.chan
      else s
    | none => s

/-- The STATE that answers a QUERY where the channel is free: CSEQ of the queried group. A group that the module does not know has no
CSEQ stated (log entry 6). -/
def idleState (s : State) (p : Penn) (g : Option (GroupRef × Group)) : Penn × State :=
  let q : Penn := { kind := 4, chan := p.chan, coll := p.coll, group := p.group, cseq := 0, hash := 0, gen := p.gen, sender := 0 }
  match g with
  | some (r, g) => ({ q with cseq := g.cseqs.getD p.chan 0, gen := g.gen, sender := r.me }, s)
  | none => ({ q with cseq := (Config.freeValue s.free).toNat % 2 ^ 32, sender := (Config.freeValue s.free).toNat / 2 ^ 32 % 65536 },
             { s with free := s.free + 1 })

/-- QUERY (R326, R332): the answer, for the queried channel and group. It waits while the group's descriptor is read from T2. -/
def opQuery (k : Nat) (s : State) : State :=
  match arrivedOf s k 3 with
  | none => s
  | some (p, v) =>
    match chanOf s p.chan with
    | some x =>
      let code := if x.held then 3 else if x.names p then 1 else 2
      let me := if x.group = p.group then x.me else ((find s.coll.groups p.group).map (·.me)).getD x.me
      let a := if code = 3 then { p with kind := 4, sender := me, payload := [], count := 0, block := 3 } else { x.penn 4 with block := code }
      sendBack (takePenn s k) v a
    | none =>
      let g := knownGroup s p.group
      if g.1 = 4 then g.2.2
      else
        let a := idleState g.2.2 p g.2.1
        sendBack (takePenn a.2 k) v a.1

/-- A STATE that reports an idle member: it has yet to start, or it has passed the collective (R326). -/
def stateIdle (s : State) (k : Nat) (x : Chan) (p : Penn) (v : Via) : State :=
  let d : W32 := BitVec.ofNat 32 p.cseq - BitVec.ofNat 32 x.cseq
  if d = 0 || negative d then
    modWait (takePenn s k) p.chan p.sender (fun w => { w with since := s.now, queried := none, idle := some (w.idle.getD s.now) })
  else foundMismatch s k p.chan p v

/-- A STATE that reports a hold, asked for or not: the first report counts (R326, R332). -/
def stateHeld (s : State) (x : Chan) (p : Penn) : State :=
  let s := modWait s p.chan p.sender (fun w => { w with since := s.now, queried := none })
  if (x.heldSince p.sender).isSome then s else modChan s p.chan (fun x => { x with heldBy := (p.sender, s.now) :: x.heldBy })

/-- STATE (R326, R328, R332): code 0 and 3 for the collective's group, 1 for the collective itself, 2 naming another. -/
def opState (k : Nat) (s : State) : State :=
  match arrivedOf s k 4 with
  | none => s
  | some (p, v) =>
    match chanOf s p.chan with
    | none => takePenn s k
    | some x =>
      match p.block with
      | 0 => if p.group = x.group then stateIdle s k x p v else takePenn s k
      | 1 => if x.names p then heard (takePenn s k) p.chan p.sender else takePenn s k
      | 2 => if x.names p then takePenn s k else foundMismatch s k p.chan p v
      | _ => if p.group = x.group then stateHeld (takePenn s k) x p else takePenn s k

/-- JOIN (R331). -/
def opJoin (k : Nat) (s : State) : State :=
  match arrivedOf s k 5 with
  | none => s
  | some (p, _) =>
    let s := takePenn s k
    match chanOf s p.chan with
    | some x =>
      if x.names p then
        pump (modChan (heard s p.chan p.sender) p.chan (fun x =>
          x.setChild { member := p.sender, segment := p.segment, next := p.block })) p.chan
      else s
    | none => s

/-! ### Re-forms (R330, R331, R333) -/

/-- The packets of a REFORM (R330). -/
def reformPackets (base : Penn) (gen : Nat) (excl : List Nat) : List Penn :=
  (List.range ((excl.length + 2047) / 2048 + (if excl.isEmpty then 1 else 0))).map (fun i =>
    let part := (excl.drop (2048 * i)).take 2048
    { base with kind := 7, gen, contrib := excl.length, block := i, count := part.length, payload := indexBytes part })

/-- After a re-form a member of an all-gather or broadcast whose effective parent changed names its next missing block to the new one
(R331). -/
def sendJoins (s : State) (old x : Chan) : State :=
  (List.range x.segs).foldl (fun s g =>
    match x.up (x.dataRoot g) x.me with
    | some m =>
      if old.up (old.dataRoot g) x.me = some m then s else sendMember s x m { x.penn 5 with segment := g, block := x.ready g }
    | none => s) s

/-- The children of an all-gather or broadcast after a re-form: those that stay go on, those gained wait for their JOIN unless it has
come (R331). -/
def Chan.newChildren (x : Chan) : List ChildTx :=
  (List.range x.segs).flatMap (fun g => (x.children (x.dataRoot g) x.me).map (fun m =>
    (x.childs.find? (fun t => t.member == m && t.segment == g)).getD { member := m, segment := g, joined := false }))

/-- What a bound collective does at a re-form (R331, R333). A held member that is excluded completes when it is restored (R332); a
broadcast without its root completes at once. -/
def reformChan (s : State) (c gen : Nat) (excl : List Nat) : State :=
  match chanOf s c with
  | none => s
  | some x =>
    let live := x.live.filter (fun m => !excl.contains m)
    let y := { x with gen, live, doneSent := false, waits := [], heldBy := x.heldBy.filter (fun e => live.contains e.1) }
    if excl.contains x.me then
      if x.held then setChan s c (some y) else endColl (setChan s c (some y)) c [0x140]
    else if x.op = 2 && !live.contains x.root then endColl (setChan s c (some y)) c y.statuses
    else if x.op = 0 then
      let s := dropAdders (setChan s c (some { y with emitted := [], flagged := [], recs := [] })) c
      pump (takeEarly s c) c
    else
      let y := { y with childs := y.newChildren }
      pump (takeEarly (sendJoins (setChan s c (some y)) x y) c) c

/-- Apply a REFORM (R331, R335): the live bitmap and GEN of the descriptor, one record, every collective of the group. -/
def applyReform (s : State) (r : GroupRef) (g : Group) (gen : Nat) (excl : List Nat) : State :=
  if gen ≤ g.gen then s
  else
    let live := g.live.filter (fun m => !excl.contains m)
    let s := (portWrite s g.liveAddr (bytesOf ((live.map (2 ^ ·)).sum) ((g.members + 63) / 64 * 8))).2
    let s := (portWrite s (r.gaddr + 6) (bytesOf gen 2)).2
    let first := (excl.head?.map (fun m => g.ranks.getD m 0)).getD 0
    let s := sendRec (countF s F.COL_ERR_REFORMS 0 1) .port 0 0x2801 (g.id + gen % 65536 * 65536) (excl.length + first * 2 ^ 32)
    let s := { s with coll := { s.coll with
      requests := s.coll.requests.filter (fun q => !(q.group == g.id && q.base < gen))
      formIn := s.coll.formIn.filter (fun q => !(q.group == g.id && q.gen ≤ gen)) } }
    (List.range 16).foldl (fun s c =>
      match chanOf s c with
      | some x => if x.group = g.id then reformChan s c gen excl else s
      | none => s) s

/-- Send a REFORM as leader and apply it (R330). -/
def sendReform (s : State) (f : Forming) (r : GroupRef) (g : Group) : State :=
  let base : Penn := { kind := 7, chan := 0, coll := 0, group := f.group, cseq := 0, hash := 0, gen := f.base + 1, sender := r.me }
  let s := (reformPackets base (f.base + 1) f.excl).foldl (fun s p =>
    (g.live.filter (· != r.me)).foldl (fun s m => (sendRank s (g.ranks.getD m 0) p).2) s) s
  applyReform s r g (f.base + 1) f.excl

/-- REFORM_REQ (R330). -/
def opReformReq (k : Nat) (s : State) : State :=
  match arrivedOf s k 6 with
  | none => s
  | some (p, v) =>
    let r := noteRequest (takePenn s k) p.group p.gen (indicesOf p.count p.payload)
    match r.2 with
    | some f =>
      (reformPackets { p with sender := ((find s.coll.groups p.group).map (·.me)).getD 0 } (f.base + 1) f.excl).foldl
        (fun s q => sendBack s v q) r.1
    | none => r.1

/-- REFORM (R330, R331): applied when every packet is here; the last waits while the group's descriptor is read from T2. -/
def opReform (k : Nat) (s : State) : State :=
  match arrivedOf s k 7 with
  | none => s
  | some (p, _) =>
    let same := fun (f : FormIn) => f.group == p.group && f.gen == p.gen
    let f : FormIn := (s.coll.formIn.find? same).getD { group := p.group, gen := p.gen, total := p.contrib, packets := [] }
    let f : FormIn := { f with packets := f.packets.filter (fun e => e.1 != p.block) ++ [(p.block, indicesOf p.count p.payload)] }
    let all : List Nat := f.packets.flatMap (fun e => e.2)
    let s := { s with coll := { s.coll with formIn := s.coll.formIn.filter (fun z => !same z) ++ [f] } }
    if all.length = f.total then
      let g := knownGroup s p.group
      if g.1 = 4 then g.2.2
      else match g.2.1 with
        | some (r, d) => applyReform (takePenn g.2.2 k) r d p.gen all
        | none => takePenn g.2.2 k
    else takePenn s k

/-- Enter an ABORT into the abort table of 16 (R328). -/
def enterAbort (s : State) (p : Penn) : State :=
  let l := s.coll.aborts
  let full := 16 ≤ l.length
  let s := if full then countF s F.COL_ERR_ABORT_DROPS 0 1 else s
  { s with coll := { s.coll with aborts := (if full then l.drop 1 else l) ++
      [{ group := p.group, chan := p.chan, cseq := p.cseq, hash := p.hash, status := p.block, since := s.now }] } }

/-- ABORT (R328, R329): the bound collective completes with its status; one not started is entered; one that has completed here, by its
group's CSEQ, is not. -/
def opAbort (k : Nat) (s : State) : State :=
  match arrivedOf s k 8 with
  | none => s
  | some (p, _) =>
    match chanOf s p.chan with
    | some x =>
      if x.names p then endCollAs (sendRec (takePenn s k) .port p.block 0x2803 p.block p.sender) p.chan p.block x.notices else other s p
    | none => other s p
where
  /-- The collective is not bound here. -/
  other (s : State) (p : Penn) : State :=
    let g := knownGroup s p.group
    let passed := g.2.1.elim false (fun e => negative (BitVec.ofNat 32 p.cseq - BitVec.ofNat 32 (e.2.cseqs.getD p.chan 0)))
    if g.1 = 4 then g.2.2 else if passed then takePenn g.2.2 k else enterAbort (takePenn g.2.2 k) p

/-- DONE (R324). -/
def opDone (k : Nat) (s : State) : State :=
  match arrivedOf s k 9 with
  | none => s
  | some (p, _) =>
    let s := takePenn s k
    match chanOf s p.chan with
    | some x =>
      if x.names p then
        pump (modChan (heard s p.chan p.sender) p.chan (fun x =>
          { x with doneFrom := ((p.sender, p.gen) :: x.doneFrom).eraseDups })) p.chan
      else s
    | none => s

/-- FINISH (R324). -/
def opFinish (k : Nat) (s : State) : State :=
  match arrivedOf s k 10 with
  | none => s
  | some (p, _) =>
    let s := takePenn s k
    match chanOf s p.chan with
    | some x =>
      if x.names p then
        let s := (x.children x.barrier x.me).foldl (fun s m => sendMember s x m (x.penn 10)) s
        endColl s p.chan x.statuses
      else s
    | none => s

/-! ### Timers: the operand names channel `k mod 16` and member `k div 16` (log entry 8) -/

/-- The wait that an operand names. -/
def waitAt (s : State) (k : Nat) : Option (Chan × CWait) :=
  match chanOf s (k % 16) with
  | some x => (x.waits.find? (fun w => w.member == k / 16)).map (fun w => (x, w))
  | none => none

/-- QUERY_TIMER_EXPIRY (R326). -/
def opQueryTimer (k : Nat) (s : State) : State :=
  match waitAt s k with
  | none => s
  | some (x, w) =>
    if w.queried.isSome || s.now - w.since < collTmo s / 2 || x.held then s
    else
      let r := sendRank s (x.ranks.getD w.member 0) (x.penn 3)
      if r.1 then modWait r.2 (k % 16) w.member (fun w => { w with queried := some s.now })
      else declareFailed r.2 (k % 16) w.member 3

/-- COLLECTIVE_TIMEOUT (R326). -/
def opCollTimeout (k : Nat) (s : State) : State :=
  match waitAt s k with
  | none => s
  | some (x, w) =>
    if w.queried.isSome && w.idle.isNone && (x.heldSince w.member).isNone && collTmo s ≤ s.now - w.since && !x.held then
      declareFailed s (k % 16) w.member 0
    else s

/-- Block `b` of a segment for member `m` has not left for want of a C1 credit: it waits at its sublink or the partner's, for an edge
port, or behind a pause of its priority (R323, R491, R507). -/
def unsentTo (s : State) (x : Chan) (m seg b : Nat) : Bool :=
  let mine := fun (p : Penn) => p.chan == x.num && p.kind == 1 && p.segment == seg && p.block == b
  match (pathTo s (x.ranks.getD m 0) x.num).1 with
  | none => true
  | some (.surface f k) =>
    (subOf s f k).waiting.any (fun y => !y.detour && y.penn.any mine) || (subOf s (f ^^^ 1) k).waiting.any (fun y => y.detour && y.penn.any mine)
  | some (.edge a) =>
    s.net.outst.any (fun o => !o.sent && o.conn == hopKey a x.num && (match o.kind with | .coll p => mine p | _ => false)) ||
      s.net.frames.any (fun o => match o.frame with | .cst y => y.dst == a && y.penn.any mine | _ => false)

/-- The time for an ACK runs from the tick at which the block leaves (R323). -/
def stampBlocks (s : State) : State :=
  (List.range 16).foldl (fun s c =>
    match chanOf s c with
    | some x => setChan s c (some { x with childs := x.childs.map (fun t =>
        { t with unacked := t.unacked.map (fun u => if unsentTo s x t.member t.segment u.1 then (u.1, s.now) else u) }) })
    | none => s) s

/-- HOP_TIMEOUT (R323). -/
def opHopTimeout (k : Nat) (s : State) : State :=
  match chanOf s (k % 16) with
  | none => s
  | some x =>
    let m := k / 16
    let late := x.childs.any (fun t => t.member == m && t.unacked.any (fun u =>
      hopTmo s ≤ s.now - u.2 && !unsentTo s x m t.segment u.1))
    if late && (x.heldSince m).isNone && !x.held && !(pendingExcl s x).contains m then declareFailed s (k % 16) m 1 else s

/-- GROUP_TIMEOUT (R326, R329). -/
def opGroupTimeout (k : Nat) (s : State) : State :=
  match waitAt s k with
  | none => s
  | some (x, w) =>
    if x.held then s
    else match x.heldSince w.member, w.idle with
      | some t, _ => if groupTmo s ≤ s.now - t then declareFailed s (k % 16) w.member 2 else s
      | none, some t => if groupTmo s ≤ s.now - t then failColl s (k % 16) ST_TIMEOUT else s
      | none, none => s

/-- SETTLE_TIME_EXPIRY (R330): the REFORM is sent once the group's descriptor has been read. -/
def opSettle (k : Nat) (s : State) : State :=
  match s.coll.forming[k]? with
  | some f =>
    if f.sent || s.now - f.since < collTmo s / 4 then s
    else
      let g := knownGroup s f.group
      match g.2.1 with
      | some (r, d) =>
        let s := g.2.2
        sendReform { s with coll := { s.coll with forming := s.coll.forming.map (fun z => if z = f then { f with sent := true } else z) } } f r d
      | none => g.2.2
  | none => s

/-- REFORM_REQ_TIMEOUT (R330): the request goes to the next live member; one whose generation has been reached is done. -/
def opReqTimeout (k : Nat) (s : State) : State :=
  match s.coll.requests[k]? with
  | some r =>
    if s.now - r.since < collTmo s then s
    else
      let g := knownGroup s r.group
      if g.1 = 4 then g.2.2
      else
        let s := { g.2.2 with coll := { g.2.2.coll with requests := g.2.2.coll.requests.eraseIdx k } }
        match g.2.1 with
        | some (e, d) =>
          if r.base < d.gen then s
          else askReform s { kind := 6, chan := 0, coll := 0, group := r.group, cseq := 0, hash := 0, gen := r.base, sender := e.me }
            d.live d.ranks r.excl (some r.leader)
        | none => s
  | none => s

/-- ABORT_ENTRY_EXPIRY (R328). -/
def opAbortExpiry (k : Nat) (s : State) : State :=
  match s.coll.aborts[k]? with
  | some a => if groupTmo s ≤ s.now - a.since then { s with coll := { s.coll with aborts := s.coll.aborts.eraseIdx k } } else s
  | none => s

/-! ### Holds (R332) -/

/-- The collectives of a context hold and tell every live member. -/
def holdContext (s : State) (ctx : Nat) : State :=
  (List.range 16).foldl (fun s c =>
    match chanOf s c with
    | some x =>
      if getI s F.GLB_CQ_CFG_CTX 0 x.q = ctx && !x.held then
        sendLive (showChan (setChan s c (some { x with held := true })) c) x { x.penn 4 with block := 3 }
      else s
    | none => s) s

/-- The holds of a context end: a request that excludes nobody asks for the next generation; a member excluded meanwhile completes
(R332). -/
def endHolds (s : State) (ctx : Nat) : State :=
  (List.range 16).foldl (fun s c =>
    match chanOf s c with
    | some x =>
      if getI s F.GLB_CQ_CFG_CTX 0 x.q = ctx && x.held then
        if x.live.contains x.me then requestReform (showChan (setChan s c (some { x with held := false })) c) x []
        else endColl s c [0x140]
      else s
    | none => s) s

def execAdderCombine (a : Nat) (s : State) : Host.Outcome State Fault Refusal := .next (opAdderCombine a s)
def execAdderBlockReceive (a : Nat) (k : Nat) (s : State) : Host.Outcome State Fault Refusal := .next (opAdderReceive a k s)
def execReduceScatter (n : Fin 64) (i : W32) (s : State) : Host.Outcome State Fault Refusal := .next (opColl 0x18 n i s)
def execAllGather (n : Fin 64) (i : W32) (s : State) : Host.Outcome State Fault Refusal := .next (opColl 0x19 n i s)
def execBroadcast (n : Fin 64) (i : W32) (s : State) : Host.Outcome State Fault Refusal := .next (opColl 0x1A n i s)
def execPennantData (k : Nat) (s : State) : Host.Outcome State Fault Refusal := .next (opData k s)
def execPennantAck (k : Nat) (s : State) : Host.Outcome State Fault Refusal := .next (opAck k s)
def execPennantQuery (k : Nat) (s : State) : Host.Outcome State Fault Refusal := .next (opQuery k s)
def execPennantState (k : Nat) (s : State) : Host.Outcome State Fault Refusal := .next (opState k s)
def execPennantJoin (k : Nat) (s : State) : Host.Outcome State Fault Refusal := .next (opJoin k s)
def execReformReq (k : Nat) (s : State) : Host.Outcome State Fault Refusal := .next (opReformReq k s)
def execReform (k : Nat) (s : State) : Host.Outcome State Fault Refusal := .next (opReform k s)
def execPennantAbort (k : Nat) (s : State) : Host.Outcome State Fault Refusal := .next (opAbort k s)
def execPennantDone (k : Nat) (s : State) : Host.Outcome State Fault Refusal := .next (opDone k s)
def execPennantFinish (k : Nat) (s : State) : Host.Outcome State Fault Refusal := .next (opFinish k s)
def execQueryTimerExpiry (k : Nat) (s : State) : Host.Outcome State Fault Refusal := .next (opQueryTimer k s)
def execCollectiveTimeout (k : Nat) (s : State) : Host.Outcome State Fault Refusal := .next (opCollTimeout k s)
def execHopTimeout (k : Nat) (s : State) : Host.Outcome State Fault Refusal := .next (opHopTimeout k s)
def execGroupTimeout (k : Nat) (s : State) : Host.Outcome State Fault Refusal := .next (opGroupTimeout k s)
def execSettleTimeExpiry (k : Nat) (s : State) : Host.Outcome State Fault Refusal := .next (opSettle k s)
def execReformReqTimeout (k : Nat) (s : State) : Host.Outcome State Fault Refusal := .next (opReqTimeout k s)
def execAbortEntryExpiry (k : Nat) (s : State) : Host.Outcome State Fault Refusal := .next (opAbortExpiry k s)

end Sys2Proof.Machine
end

