-- ==== Sys2Proof/Machine/RegDecode.lean ====
section
/-! DEFINITION. From a window address to its register (R19, R542, R543), and what a reset of a unit keeps (R444, R445,
R548). -/
namespace Sys2Proof.Machine

/-- The instance of a row of the register map at region offset `off`. -/
def rowInst (q : RegRow) (off : Nat) : Option Nat :=
  if off < q.base then none
  else
    let d := off - q.base
    let hi := if q.s1 = 0 then 0 else d / q.s1
    let r := if q.s1 = 0 then d else d % q.s1
    let i := hi * q.c1 + r / q.s0
    if r % q.s0 = 0 && r / q.s0 < q.c1 && i < q.count then some i else none

/-- Region, unit and offset of a window address (R19, R542). -/
def regionOf (a : Nat) : Option (Region × Nat × Nat) :=
  match a / 2 ^ 32 with
  | 0 => some (.glb, 0, a)
  | 1 =>
    let f := a % 2 ^ 32 / 0x4000000
    let off := a % 0x4000000
    if 48 ≤ f then none
    else if off < 0x10000 then some (.fld, f, off)
    else if off < 0x100000 then none
    else
      let pt := (off - 0x100000) / 0x10000
      if pt < 700 then some (.til, f * 700 + pt, off % 0x10000) else none
  | 2 => if a % 2 ^ 32 / 0x1000000 < 4 then some (.stk, a % 2 ^ 32 / 0x1000000, a % 0x1000000) else none
  | 3 => some (.prt, 0, a % 2 ^ 32)
  | 4 => some (.cfg, 0, a % 2 ^ 32)
  | _ => none

/-- A register holds an RWC field, and so has a shadow copy (R16, R543). -/
def hasShadow (r : RegName) : Bool := (regRow r).fields.any (fun f => f.acc == .RWC)

/-- A decoded window address: register, unit, instance, and whether it names the shadow copy. -/
structure RegAt where
  reg : RegName
  unit : Nat
  inst : Nat
  shadow : Bool
  deriving DecidableEq, Repr

/-- The register at a window address; none where no block decodes it (R18, R543). -/
def decodeReg (a : Nat) : Option RegAt :=
  if a % 8 ≠ 0 then none
  else
    match regionOf a with
    | none => none
    | some (r, u, off) =>
      let sh := off / 0x8000 % 2 == 1
      let lo := if sh then off - 0x8000 else off
      (regsOf r).findSome? (fun n =>
        match rowInst (regRow n) lo with
        | some i => if sh && !hasShadow n then none else some { reg := n, unit := u, inst := i, shadow := sh }
        | none => none)

/-- The bits of the fields whose access code satisfies `p`. -/
def accMask (r : RegName) (p : Access → Bool) : Word :=
  BitVec.ofNat 64 ((regRow r).fields.foldl (fun a f => if p f.acc then a + (2 ^ f.w - 1) * 2 ^ f.lo else a) 0)

/-- The bits of one field. -/
def fldMask (f : Fld) : Word := BitVec.ofNat 64 ((2 ^ f.w - 1) * 2 ^ f.lo)

/-- The bits of a register that lie in retained storage (R445): RWC and RWS fields, TIL_REMAP_k and the count of used spare
lines, FLD_STATE.BYPASS_COL, CFG_GEN_d.GEN and CFG_EPOCH_d. -/
def retained (r : RegName) : Word :=
  let own := accMask r (fun a => a == .RWC || a == .RWS)
  match r with
  | .TIL_REMAP | .CFG_EPOCH => BitVec.allOnes 64
  | .TIL_MEM_ERR => fldMask F.TIL_MEM_ERR_SPARES_USED
  | .FLD_STATE => fldMask F.FLD_STATE_BYPASS_COL
  | .CFG_GEN => fldMask F.CFG_GEN_GEN
  | _ => own

/-- Registers that the housekeeping domain keeps (R548). -/
def housekept (r : RegName) : Bool :=
  [RegName.FLD_STATE, .FLD_RESET, .PWR_FLD_RAIL, .PWR_FLD_TJ, .PWR_FLD_PLAN, .PWR_FLD_T0, .PWR_GAUGE].contains r

/-- Every register field of the addresses in scope goes to its reset value, but for the bits that `keep` names; shadow copies
are retained (R444, R445). -/
def clearRegs (regs : Assoc Word) (scope : Nat → Bool) (keep : RegName → Word) : Assoc Word :=
  regs.filterMap (fun e =>
    if !scope e.1 then some e
    else
      match decodeReg e.1 with
      | some x =>
        if x.shadow then some e
        else
          let d := resetWord x.reg x.inst
          let m := keep x.reg
          let v := (e.2 &&& m) ||| (d &&& ~~~m)
          if v = d then none else some (e.1, v)
      | none => some e)

/-- Addresses of a tile's page, of a field's pages. -/
def inTilePage (g a : Nat) : Bool := regionBase .til g ≤ a && a < regionBase .til g + 0x10000
def inFieldPages (f a : Nat) : Bool := regionBase .fld f ≤ a && a < regionBase .fld f + 0x4000000

end Sys2Proof.Machine
end

