-- ==== Sys2Proof/Machine/Migration.lean ====
section
/-! DEFINITION. Migration between tiers (R270 to R274), write-back (R276), quotas (R277, R278), entry changes with their
invalidations (R259), entry snapshots (R261), saturation windows (R279, R280). -/
namespace Sys2Proof.Machine

def ST_PAGE_STATE : Nat := 0x120

/-! ### Places and charges (R277, R278) -/

/-- The places that a page holds: CUR, HOME when it differs, REPL when there is one. -/
def placesOf (e : PtEntry) : List Nat :=
  if e.present then
    ([e.cur.toNat] ++ (if e.home != e.cur then [e.home.toNat] else []) ++ [e.repl.toNat]).filter (fun p => placeTier p != 3)
  else []

/-- The quota entry of a context. -/
def quotaOf (s : State) (ctx : Nat) : Option Nat :=
  (List.range 256).find? (fun k => getI s F.GLB_QUOTA_CTX_VALID 0 k == 1 && getI s F.GLB_QUOTA_CTX_CTX 0 k == ctx)

/-- The instance of GLB_QUOTA_k_t. -/
def quotaIx (k t : Nat) : Nat := 3 * k + t

/-- Add to or take from USED. -/
def chargeUsed (s : State) (k t : Nat) (up : Bool) : State :=
  let u := getI s F.GLB_QUOTA_USED 0 (quotaIx k t)
  setI s F.GLB_QUOTA_USED 0 (quotaIx k t) (if up then u + 1 else u - 1)

/-! ### Jobs -/

def jobOf (s : State) (n : Nat) (i : W32) : Option MigJob := s.tiers.jobs.find? (fun j => j.q == n && j.idx == i)
def modJob (s : State) (n : Nat) (i : W32) (f : MigJob → MigJob) : State :=
  { s with tiers := { s.tiers with jobs := s.tiers.jobs.map (fun j => if j.q == n && j.idx == i then f j else j) } }

/-- The place that a job gives to page offset `k` (R270). -/
def MigJob.placeAt (j : MigJob) (k : Nat) : Nat := placeNext j.target k % 2 ^ 42
/-- Page index at offset `k`. -/
def MigJob.pageAt (j : MigJob) (k : Nat) : Nat := (j.page + k) % 2 ^ 24
/-- Offset of a page. -/
def MigJob.offset (j : MigJob) (page : Nat) : Nat := (page + 2 ^ 24 - j.page) % 2 ^ 24

/-- The entry after a job's action on a page (R271). -/
def entryAfter (j : MigJob) (e : PtEntry) (k : Nat) : PtEntry :=
  let p : BitVec 42 := BitVec.ofNat 42 (j.placeAt k)
  match j.action with
  | 0 => { e with cur := p }
  | 1 => { e with cur := e.home, dirty := 0 }
  | 2 => { e with cur := p, home := p }
  | 3 => { e with repl := p }
  | 4 => { e with repl := noPlace }
  | 5 => { e with cur := p, home := p, present := true, poison := false, writable := j.writable,
                  ctx := BitVec.ofNat 16 j.ctx, repl := noPlace, dirty := 0 }
  | 6 => { e with present := false, poison := false, cur := noPlace, home := noPlace, repl := noPlace, dirty := 0 }
  | _ => e

/-- Places in `a` and not in `b`. -/
def placesLess (a b : List Nat) : List Nat := a.filter (fun p => !b.contains p)

/-- Whom the action charges for a page: the body's CTX for ASSIGN, the page's own otherwise. -/
def chargedCtx (j : MigJob) (e : PtEntry) : Nat := if j.action = 5 then j.ctx else e.ctx.toNat

/-- The charges that a job would add: context and tier, one for each new place. -/
def jobCharges (s : State) (j : MigJob) : List (Nat × Nat) :=
  (List.range j.pages).flatMap (fun k =>
    let e := ptEntry s (j.pageAt k)
    let a := entryAfter j e k
    let new := if j.action = 5 && chargedCtx j e != e.ctx.toNat then placesOf a else placesLess (placesOf a) (placesOf e)
    new.map (fun p => (chargedCtx j e, placeTier p)))

/-- The contexts that a job's pages are charged to. -/
def jobContexts (s : State) (j : MigJob) : List Nat :=
  ((List.range j.pages).map (fun k => chargedCtx j (ptEntry s (j.pageAt k)))).eraseDups

/-- The quota entries of contexts; none when one has no valid entry. -/
def quotasOf (s : State) (cs : List Nat) : Option (List Nat) :=
  cs.foldr (fun x r => match quotaOf s x, r with | some k, some l => some (k :: l) | _, _ => none) (some [])

/-- The charges by quota entry; none when a context has no valid entry. -/
def reserveCharges (s : State) (cs : List (Nat × Nat)) : Option (List (Nat × Nat)) :=
  cs.foldr (fun x r => match quotaOf s x.1, r with | some k, some l => some ((k, x.2) :: l) | _, _ => none) (some [])

/-- Charges already reserved in a tier of a quota entry. -/
def reservedIn (s : State) (k t : Nat) : Nat := (s.tiers.jobs.map (fun j => j.reserved.count (k, t))).sum

/-- Every tier of the quota entries `ks` stays within its limit with a job's charges (R278). -/
def withinLimits (s : State) (ks : List Nat) (l : List (Nat × Nat)) : Bool :=
  (ks.flatMap (fun k => [(k, 0), (k, 1), (k, 2)])).all (fun x =>
    getI s F.GLB_QUOTA_USED 0 (quotaIx x.1 x.2) + reservedIn s x.1 x.2 + l.count x ≤ getI s F.GLB_QUOTA_LIMIT 0 (quotaIx x.1 x.2))

/-- MIGRATE: charges are reserved, and the command waits for its pages (R270, R278). -/
def opMigrate (n : Nat) (i : W32) (s : State) : State :=
  onValid s n i 0x28 (fun c s =>
    let j : MigJob := { q := n, idx := i, action := bodyF c 0 44 3, page := bodyF c 0 18 24, pages := bodyF c 1 0 32,
                        target := bodyF c 2 0 42, discard := bodyF c 0 47 1 == 1, writable := bodyF c 0 48 1 == 1,
                        ctx := bodyF c 1 32 16 }
    match quotasOf s (jobContexts s j), reserveCharges s (jobCharges s j) with
    | some ks, some l =>
      if withinLimits s ks l then (true, { s with tiers := { s.tiers with jobs := s.tiers.jobs ++ [{ j with reserved := l }] } })
      else (true, completeCmd s n c ST_QUOTA 0)
    | _, _ => (true, completeCmd s n c ST_QUOTA 0))

/-- Places that the finished job's pages left are freed and credited (R271, R278, R371). -/
def releasePlaces (s : State) (j : MigJob) : State :=
  j.freed.foldl (fun s x =>
    let s := if x.2.2 then freePlace s x.2.1 else s
    if x.1 < 256 then chargeUsed s x.1 (placeTier x.2.1) false else s) s

/-- A job whose every page is done, or that has failed and whose copies have ended, completes (R272). -/
def finishJob (s : State) (n : Nat) (i : W32) : State :=
  match jobOf s n i with
  | none => s
  | some j =>
    if (j.next = j.pages || j.stopped) && j.busy.isEmpty then
      let s := releasePlaces s j
      let s := { s with tiers := { s.tiers with jobs := s.tiers.jobs.filter (fun x => !(x.q == n && x.idx == i)) } }
      completeAmong s n i j.failed (j.done + j.units * 2 ^ 32)
    else s

/-- A job fails at a page (R272). -/
def failJob (s : State) (n : Nat) (i : W32) (cs : List Nat) : State :=
  finishJob (modJob s n i (fun j => { j with stopped := true, failed := j.failed ++ cs })) n i

/-- Queue a change of an entry at its owner (R259). -/
def queueChange (s : State) (page : Nat) (w : PtWhat) : State :=
  { s with tiers := { s.tiers with changes := s.tiers.changes ++ [{ page, what := w }] } }

/-- What keeps a page from a job's action: the statuses that apply; a place that would be written and cannot be used counts as not
present (R256, R258, R266, R271). -/
def pageFails (s : State) (j : MigJob) (page : Nat) : List Nat :=
  let e := ptEntry s page
  let gone := match entryFault s e with
    | 0 => []
    | 2 => [ST_DATA_POISON, ST_PAGE_STATE]
    | _ => [ST_FAULT_PAGE, ST_PAGE_STATE]
  let dest := fun (p : Nat) => if placeUsable s p then [] else [ST_FAULT_PAGE]
  match j.action with
  | 0 => gone ++ dest (j.placeAt (j.offset page))
  | 1 => gone ++ (if e.dirty = 0 then [] else dest e.home.toNat)
  | 2 => gone ++ (if e.cur != e.home then [ST_PAGE_STATE] else []) ++ dest (j.placeAt (j.offset page))
  | 3 => gone ++ (if e.writable then [ST_PAGE_STATE] else []) ++ dest (j.placeAt (j.offset page))
  | 5 => if e.dirty != 0 && !j.discard then [ST_PAGE_STATE] else []
  | 6 => if e.dirty != 0 && !j.discard then [ST_PAGE_STATE] else []
  | 8 => gone.filter (· != ST_PAGE_STATE) ++ (if e.dirty = 0 then [] else dest e.home.toNat)
  | _ => []

/-- A job takes up its next page: at most 16 at once; a page in copy, or whose entry is about to change, is waited for
(R272, R274). -/
def nextPage (s : State) (n : Nat) (i : W32) : State :=
  match jobOf s n i with
  | none => s
  | some j =>
    if j.stopped || j.next = j.pages || 16 ≤ j.busy.length then s
    else
      let page := j.pageAt j.next
      let e := ptEntry s page
      if e.migrating || s.tiers.changes.any (fun c => c.page == page) then s
      else
        match pageFails s j page with
        | [] =>
          let s' := modJob s n i (fun j => { j with next := j.next + 1 })
          if j.action = 8 && (e.cur == e.home || e.dirty == 0) then finishJob (modJob s' n i (fun j => { j with done := j.done + 1 })) n i
          else
            queueChange (modJob s' n i (fun j => { j with busy := j.busy ++ [page] })) page
              (if 4 ≤ j.action && j.action ≤ 6 then .noCopy n i else .start n i)
        | cs => failJob s n i cs

/-- The row of one action of MIGRATE (R271). -/
def opAction (a n : Nat) (i : W32) (s : State) : State :=
  match jobOf s n i with
  | some j => if j.action = a then nextPage s n i else s
  | none => s

/-- WRITEBACK (R276): taken up, and page by page. -/
def opWriteback (n : Nat) (i : W32) (s : State) : State :=
  match jobOf s n i with
  | some j => if j.action = 8 then nextPage s n i else s
  | none =>
    onValid s n i 0x29 (fun c s => (true, nextPage
      { s with tiers := { s.tiers with jobs := s.tiers.jobs ++ [{ q := n, idx := i, action := 8, page := bodyF c 0 18 24,
                                                                  pages := bodyF c 1 0 32 }] } } n i))

/-! ### Copies (R273, R276) -/

/-- A unit of a copy has landed: the writes that reached it meanwhile follow (R273). -/
def landUnit (s : State) (page unit : Nat) : State :=
  match s.tiers.copies.find? (fun c => c.page == page) with
  | none => s
  | some c =>
    let s := { s with tiers := { s.tiers with copies := s.tiers.copies.map (fun x =>
      if x.page = page then
        { x with waiting := x.waiting.filter (· != unit), behind := x.behind.filter (fun b => b.1 != unit) } else x) } }
    (c.behind.filter (fun b => b.1 == unit)).foldl (fun s b =>
      if !placeUsable s c.dest then s
      else if placeTier c.dest = 2 then
        sendFar s true c.dest unit b.2.1 b.2.2.length b.2.2 page (page % 4) (.put false)
      else placeWrite s c.dest unit b.2.1 b.2.2) s

/-- A copy that met lost bytes or a failed connection is given up. -/
def giveUpCopy (s : State) (n : Nat) (i : W32) (page status : Nat) : State :=
  let s := { s with tiers := { s.tiers with copies := s.tiers.copies.map (fun c =>
    if c.page = page then { c with ended := true } else c) } }
  queueChange (modJob s n i (fun j => { j with stopped := true, failed := j.failed ++ [status] })) page (.giveUp n i)

/-- Write a copied unit at the new place: at once in T0 and T1, by a far write in T2; a place that can no longer be used takes none
(R256, R258). -/
def copyWrite (s : State) (n : Nat) (i : W32) (page dest unit : Nat) (bs : List Byte) : State :=
  if !placeUsable s dest then giveUpCopy s n i page ST_FAULT_PAGE
  else
    let s := modJob s n i (fun j => { j with units := j.units + 1 })
    if placeTier dest = 2 then sendFar s true dest unit 0 4096 bs page (page % 4) (.land n i page unit)
    else landUnit (placeWrite s dest unit 0 bs) page unit

/-- Copy one unit from CUR. -/
def copyUnit (s : State) (n : Nat) (i : W32) (page dest unit : Nat) : State :=
  let e := ptEntry s page
  if s.tiers.copies.any (fun c => c.page == page && c.ended) then s
  else if !placeUsable s e.cur.toNat then giveUpCopy s n i page ST_FAULT_PAGE
  else if placeTier e.cur.toNat = 2 then sendFar s false e.cur.toNat unit 0 4096 [] page (page % 4) (.copy n i page unit)
  else
    let r := placeRead s e.cur.toNat unit 0 4096
    if r.2.1 then giveUpCopy (poisonPage r.2.2 page unit (placeTier e.cur.toNat)) n i page ST_DATA_POISON
    else copyWrite r.2.2 n i page dest unit r.1

/-- The units that an action copies (R271, R276). -/
def copyUnits (a : Nat) (e : PtEntry) : List Nat :=
  if a = 1 || a = 8 then (List.range 64).filter (fun u => e.dirty.getLsbD u) else List.range 64

/-- MIGRATING is set and the copy starts; a write-back clears the bits of the units it reads. -/
def startCopy (s : State) (n : Nat) (i : W32) (page : Nat) : State :=
  match jobOf s n i with
  | none => s
  | some j =>
    let e := ptEntry s page
    let units := copyUnits j.action e
    let dest := if j.action = 1 || j.action = 8 then e.home.toNat else j.placeAt (j.offset page)
    let s := setPt s page { e with migrating := true, dirty := if j.action = 8 then 0 else e.dirty }
    let s := { s with tiers := { s.tiers with copies := s.tiers.copies ++ [{ q := n, idx := i, page, dest, waiting := units }] } }
    units.foldl (fun s u => copyUnit s n i page dest u) s

/-- A page's change has been written: its charge moves to used, the places it left go to the job (R278). -/
def settlePage (s : State) (n : Nat) (i : W32) (page : Nat) (old new : PtEntry) (frees : Bool) : State :=
  match jobOf s n i with
  | none => s
  | some j =>
    let moved := j.action = 5 && chargedCtx j old != old.ctx.toNat
    let adds := if moved then placesOf new else placesLess (placesOf new) (placesOf old)
    let left := if moved then placesOf old else placesLess (placesOf old) (placesOf new)
    let kNew := (quotaOf s (chargedCtx j old)).getD 256
    let kOld := (quotaOf s old.ctx.toNat).getD 256
    let s := adds.foldl (fun s p => if kNew < 256 then chargeUsed s kNew (placeTier p) true else s) s
    modJob s n i (fun j => { j with
      reserved := adds.foldl (fun l p => l.erase (kNew, placeTier p)) j.reserved
      freed := j.freed ++ left.map (fun p => (kOld, p, frees))
      busy := j.busy.filter (· != page)
      done := j.done + 1 })

/-- Drop the copy of a page. -/
def dropCopy (s : State) (page : Nat) : State :=
  { s with tiers := { s.tiers with copies := s.tiers.copies.filter (fun c => c.page != page) } }

/-- The switch at the end of a copy (R271, R273, R276). -/
def switchPage (s : State) (n : Nat) (i : W32) (page : Nat) : State :=
  match jobOf s n i with
  | none => s
  | some j =>
    let e := ptEntry s page
    let a := { entryAfter j e (j.offset page) with migrating := false }
    finishJob (settlePage (dropCopy (setPt s page a) page) n i page e a (j.action = 0 || j.action = 1 || j.action = 3)) n i

/-- The copy is given up: MIGRATING is cleared, CUR stays, and a write-back's units that did not land are dirty again. -/
def endGiveUp (s : State) (n : Nat) (i : W32) (page : Nat) : State :=
  match jobOf s n i with
  | none => s
  | some j =>
    let e := ptEntry s page
    let waiting := (s.tiers.copies.filter (fun c => c.page == page)).flatMap (·.waiting)
    let d := if j.action = 8 then waiting.foldl (fun (d : BitVec 64) u => d ||| BitVec.ofNat 64 (2 ^ u)) e.dirty else e.dirty
    let s := dropCopy (setPt s page { e with migrating := false, dirty := d }) page
    finishJob (modJob s n i (fun j => { j with busy := j.busy.filter (· != page) })) n i

/-- PAGE_COPY_SWITCH: a page whose last unit has landed is to be switched (R273). -/
def opCopySwitch (n : Nat) (i : W32) (s : State) : State :=
  match s.tiers.copies.find? (fun c => c.q == n && c.idx == i && c.waiting.isEmpty && !c.ended) with
  | some c =>
    queueChange { s with tiers := { s.tiers with copies := s.tiers.copies.map (fun x =>
      if x.page = c.page then { x with ended := true } else x) } } c.page (.switch n i)
  | none => s

/-! ### Entry changes (R259, R268) -/

/-- Accesses of unit `u` that are bound to the entry have completed: far accesses of a crescent, far reads for the port complex
(unit 4), and accesses that have been forwarded into the mesh. -/
def boundDone (s : State) (u page : Nat) : Bool :=
  let mine := fun (q : Packet) => q.page == page && (q.typ == tyReadReq || (q.typ == tyWrite && !isPour q))
  !s.tiers.far.any (fun q => q.page == page &&
      (match q.what with | .tile .. => q.cres == u | .put _ => q.cres == u | .stage .. => q.cres == u || u == 4 | _ => false)) &&
    !s.tiles.any (fun e => e.2.localIn.any (fun y => mine y.pkt) || e.2.input.any (fun x => x.2.any (fun y => mine y.pkt)) ||
      e.2.wire.any (fun x => x.2.any (fun y => mine y.pkt)))

/-- ENTRY_INVALIDATION (R259): unit `u` drops the entry and acknowledges. -/
def opInvalidation (k u : Nat) (s : State) : State :=
  match s.tiers.changes[k]? with
  | some c =>
    if u = c.page % 4 || c.acks.contains u || !boundDone s u c.page then s
    else
      let s := if u < 4 then
        let key := u * 4096 + c.page % 4096
        { s with tiers := { s.tiers with cache := put s.tiers.cache key ((getD s.tiers.cache key []).filter (· != c.page)) [] } }
        else s
      { s with tiers := { s.tiers with changes := s.tiers.changes.modify k (fun c => { c with acks := c.acks ++ [u] }) } }
  | none => s

/-- The entry after its places for which `lost` holds are gone (R269); an entry whose HOME is lost with CUR has nothing to
fall back on and is poisoned (log entry 37); DIRTY is 0 once HOME is CUR (R275). -/
def resolved (lost : Nat → Bool) (e : PtEntry) : PtEntry :=
  let homeLost := lost e.home.toNat
  let a := if lost e.cur.toNat then
      (if e.home != e.cur && e.dirty == 0 && !homeLost then { e with cur := e.home } else { e with poison := true })
    else e
  let b := if homeLost then { a with home := a.cur, dirty := 0 } else a
  if lost e.repl.toNat then { b with repl := noPlace } else b

/-- Resolve one entry; the charges of the places it no longer holds are credited (R277). -/
def resolveEntry (lost : Nat → Bool) (s : State) (page : Nat) : State :=
  let e := ptEntry s page
  let a := resolved lost e
  if !e.present || a = e then s
  else
    let s := setPt (cacheDrop s page) page a
    match quotaOf s e.ctx.toNat with
    | some k => (placesLess (placesOf e) (placesOf a)).foldl (fun s p => chargeUsed s k (placeTier p) false) s
    | none => s

/-- A place is a T0 place in field `f` (R254). -/
def placeInField (f p : Nat) : Bool := placeTier p == 0 && fieldAt (t0Index p / 4 % 192) (t0Index p / 4 / 192) == f

/-- ENTRY_CHANGE (R259): with all four acknowledgements in, the owner writes the entry; changes to one entry go in order. -/
def opEntryChange (k : Nat) (s : State) : State :=
  match takeAt s.tiers.changes k with
  | none => s
  | some (c, rest) =>
    if c.acks.length < 4 || (s.tiers.changes.take k).any (fun x => x.page == c.page) then s
    else
      let key := c.page % 4 * 4096 + c.page % 4096
      let s := { s with tiers := { s.tiers with
        changes := rest
        cache := put s.tiers.cache key ((getD s.tiers.cache key []).filter (· != c.page)) [] } }
      let s := ptRead s c.page
      let e := ptEntry s c.page
      match c.what with
      | .fieldLost f => resolveEntry (placeInField f) s c.page
      | .poison unit tier =>
        if e.poison then s
        else sendRec (setPt s c.page { e with poison := true }) (.cres (c.page % 4)) ST_DATA_POISON 0x2001 c.page (unit + tier * 256)
      | .start n i => startCopy s n i c.page
      | .switch n i => switchPage s n i c.page
      | .giveUp n i => endGiveUp s n i c.page
      | .noCopy n i =>
        match jobOf s n i with
        | none => s
        | some j =>
          let a := entryAfter j e (j.offset c.page)
          finishJob (settlePage (setPt s c.page a) n i c.page e a false) n i

/-! ### Snapshots (R261) -/

/-- The four words of an entry (R258). -/
def entryWords (e : PtEntry) : List Nat :=
  let b := fun (x : Bool) (i : Nat) => if x then 2 ^ i else 0
  [e.cur.toNat + b e.present 42 + b e.poison 43 + b e.writable 44 + b e.migrating 45 + e.ctx.toNat * 2 ^ 48,
   e.home.toNat, e.repl.toNat, e.dirty.toNat]

/-- GLB_PT_INDEX_WRITE. -/
def opPtIndex (v : Nat) (s : State) : State :=
  let s := setF (setF s F.GLB_PT_INDEX_PAGE 0 v) F.GLB_PT_INDEX_READY 0 0
  { s with tiers := { s.tiers with snapshot := some v } }

/-- PT_SNAPSHOT: after the changes that have reached the owner. -/
def opSnapshot (s : State) : State :=
  match s.tiers.snapshot with
  | some p =>
    if s.tiers.changes.any (fun c => c.page == p) then s
    else
      let s := ptRead s p
      let s := (entryWords (ptEntry s p)).zipIdx.foldl (fun s x => setI s F.GLB_PT_ENTRY_WORD 0 x.2 x.1) s
      setF { s with tiers := { s.tiers with snapshot := none } } F.GLB_PT_INDEX_READY 0 1
  | none => s

/-! ### Saturation (R279, R280) -/

/-- SATURATION_WINDOW_END. -/
def opWindowEnd (c t : Nat) (s : State) : State :=
  let win := getF s F.STK_SAT_CFG_WINDOW c
  let k := c * 4 + t
  if win = 0 || s.now - getD s.tiers.winStart k 0 < win then s
  else
    let stall := getD s.tiers.stall k 0
    let sat := getF s F.STK_SAT_CFG_THRESH c * win ≤ stall * 256
    let old := getD s.tiers.satRun k 0
    let run := if sat then old + 1 else 0
    let count := getF s F.STK_SAT_CFG_COUNT c
    let s := setI (setI s F.STK_TIER_STALL c t stall) F.STK_TIER_RUN c t (min run 255)
    let s := { s with tiers := { s.tiers with
      stall := put s.tiers.stall k 0 0
      winStart := put s.tiers.winStart k s.now 0
      satRun := put s.tiers.satRun k run 0
      lastSat := put s.tiers.lastSat k sat false } }
    if count = 0 then s
    else if sat && run % count = 0 then sendRec s (.cres c) 0 0x2002 t stall
    else if !sat && count ≤ old then sendRec s (.cres c) 0 0x2002 (t + 2 ^ 31) stall
    else s

def execMigrate (n : Fin 64) (i : W32) (s : State) : Host.Outcome State Fault Refusal := .next (opMigrate n i s)
def execMigFetch (n : Fin 64) (i : W32) (s : State) : Host.Outcome State Fault Refusal := .next (opAction 0 n i s)
def execMigEvict (n : Fin 64) (i : W32) (s : State) : Host.Outcome State Fault Refusal := .next (opAction 1 n i s)
def execMoveHome (n : Fin 64) (i : W32) (s : State) : Host.Outcome State Fault Refusal := .next (opAction 2 n i s)
def execReplicate (n : Fin 64) (i : W32) (s : State) : Host.Outcome State Fault Refusal := .next (opAction 3 n i s)
def execDropRepl (n : Fin 64) (i : W32) (s : State) : Host.Outcome State Fault Refusal := .next (opAction 4 n i s)
def execMigAssign (n : Fin 64) (i : W32) (s : State) : Host.Outcome State Fault Refusal := .next (opAction 5 n i s)
def execUnmap (n : Fin 64) (i : W32) (s : State) : Host.Outcome State Fault Refusal := .next (opAction 6 n i s)
def execWriteback (n : Fin 64) (i : W32) (s : State) : Host.Outcome State Fault Refusal := .next (opWriteback n i s)
def execPageCopySwitch (n : Fin 64) (i : W32) (s : State) : Host.Outcome State Fault Refusal := .next (opCopySwitch n i s)
def execEntryChange (k : Nat) (s : State) : Host.Outcome State Fault Refusal := .next (opEntryChange k s)
def execEntryInvalidation (k : Nat) (u : Fin 5) (s : State) : Host.Outcome State Fault Refusal := .next (opInvalidation k u s)
def execGlbPtIndexWrite (v : BitVec 24) (s : State) : Host.Outcome State Fault Refusal := .next (opPtIndex v.toNat s)
def execPtSnapshot (s : State) : Host.Outcome State Fault Refusal := .next (opSnapshot s)
def execSaturationWindowEnd (c : Fin 4) (tier : Fin 3) (s : State) : Host.Outcome State Fault Refusal := .next (opWindowEnd c tier s)

end Sys2Proof.Machine
end

