-- ==== Sys2Proof/Machine/Resolve.lean ====
section
/-! DEFINITION. How the owners resolve entries of the Placement Table when T0 places are lost (R269), for a field, for a tile
reset (R461) and for a warm restart (R457). -/
namespace Sys2Proof.Machine

/-- A copy from or to a lost place is given up. -/
def resolveCopies (lost : Nat → Bool) (s : State) : State :=
  s.tiers.copies.foldl (fun s c =>
    if !c.ended && (lost (ptEntry s c.page).cur.toNat || lost c.dest) then giveUpCopy s c.q c.idx c.page ST_FAULT_PAGE else s) s

/-- The entries that name a T0 place of a lost field are queued for their owners (R259, R269): an access meets a place that cannot be
used until then (R258). -/
def queueLost (s : State) (f : Nat) : State :=
  let s := resolveCopies (placeInField f) s
  let hit := s.tiers.pt.filter (fun e => e.2.present && resolved (placeInField f) e.2 != e.2)
  (hit.map (·.1)).foldl (fun s p => queueChange s p (.fieldLost f)) s

/-- Resolve every entry that names a lost place, within the reset or restart that loses it, which goes on only when the entries have
changed (R457, R461; log entry 12). -/
def resolvePlaces (s : State) (lost : Nat → Bool) : State :=
  let s := resolveCopies lost s
  (s.tiers.pt.map (·.1)).foldl (resolveEntry lost) s

/-- A place is a slot of the tile at logical (x, y) (R255). -/
def placeInTile (x y p : Nat) : Bool := placeTier p == 0 && t0Index p / 4 == y * 192 + x

end Sys2Proof.Machine
end

