-- ==== Sys2Proof/Machine/Trim.lean ====
section
/-! DEFINITION. The functions of the trim unit (R77, R110) and their derivative forms (R192, R193). Transcendental
functions are evaluated in fixed point with 512 fraction bits and rounded; where R110 bounds the error but does not
fix the result, a free offset within the bound is added (log entry 5). -/
namespace Sys2Proof.Machine

/-- Fraction bits of the fixed-point evaluation. -/
def fxP : Nat := 512
/-- One in fixed point. -/
def fxOne : Int := 2 ^ 512
/-- Product and quotient in fixed point. -/
def fxMul (a b : Int) : Int := a * b / fxOne
def fxDiv (a b : Int) : Int := a * fxOne / b

/-- A finite value in fixed point (exact for every FP32 value). -/
def fxOf (neg : Bool) (m : Nat) (e : Int) : Int :=
  let v : Int := if 0 ≤ e + 512 then (m <<< (e + 512).toNat : Nat) else (m >>> (-(e + 512)).toNat : Nat)
  if neg then -v else v

/-- Σ xⁿ/n! from term `t` = xⁿ/n! on, `fuel` terms. -/
def fxExpSeries (x : Int) : Nat → Nat → Int → Int
  | 0, _, _ => 0
  | k + 1, n, t => t + fxExpSeries x k (n + 1) (fxMul t x / (n + 1 : Nat))

/-- Σ z^(2n+1)/(2n+1), `fuel` terms: artanh z. -/
def fxAtanhSeries (z2 : Int) : Nat → Nat → Int → Int
  | 0, _, _ => 0
  | k + 1, n, p => p / (2 * n + 1 : Nat) + fxAtanhSeries z2 k (n + 1) (fxMul p z2)

/-- ln 2 = 2 artanh (1/3). -/
def fxLn2 : Int := 2 * fxAtanhSeries (fxOne / 9) 170 0 (fxOne / 3)

/-- Σ (−1)ⁿ z^(2n+1)/(2n+1): arctan z. -/
def fxAtanSeries (z2 : Int) : Nat → Nat → Int → Int
  | 0, _, _ => 0
  | k + 1, n, p =>
    (if n % 2 == 0 then p / (2 * n + 1 : Nat) else -(p / (2 * n + 1 : Nat))) + fxAtanSeries z2 k (n + 1) (fxMul p z2)

/-- π by Machin's formula. -/
def fxPi : Int := 16 * fxAtanSeries (fxOne / 25) 120 0 (fxOne / 5) - 4 * fxAtanSeries (fxOne / 57121) 40 0 (fxOne / 239)

/-- Square root in fixed point. -/
def fxSqrt (a : Int) : Int := (Nat.sqrt (a.toNat <<< 512) : Nat)

/-- e^x in fixed point, x within ±2^12 after clamping (beyond, the result leaves every FP32 range). -/
def fxExp (x : Int) : Int :=
  let x := max (-1000 * fxOne) (min (1000 * fxOne) x)
  let ln2 := fxLn2
  let k := (x + ln2 / 2) / ln2
  let v := fxExpSeries (x - k * ln2) 120 0 fxOne
  if 0 ≤ k then v * 2 ^ k.toNat else v / 2 ^ (-k).toNat

/-- ln of a positive fixed-point value. -/
def fxLog (a : Int) : Int :=
  let m := a.toNat
  let k : Int := (Nat.log2 m : Int) - 512
  let y : Int := if 0 ≤ k then a / 2 ^ k.toNat else a * 2 ^ (-k).toNat
  let z := fxDiv (y - fxOne) (y + fxOne)
  2 * fxAtanhSeries (fxMul z z) 170 0 z + k * fxLn2

/-- The logistic function. -/
def fxSigmoid (x : Int) : Int := fxDiv fxOne (fxOne + fxExp (-x))

/-- Hyperbolic tangent. -/
def fxTanh (x : Int) : Int :=
  let e := fxExp (-2 * x)
  fxDiv (fxOne - e) (fxOne + e)

/-- Σ x^(2n+1)/(2n+1)!!. -/
def fxPhiSeries (x2 : Int) : Nat → Nat → Int → Int
  | 0, _, _ => 0
  | k + 1, n, t => t + fxPhiSeries x2 k (n + 1) (fxMul t x2 / (2 * n + 3 : Nat))

/-- The standard normal density. -/
def fxPhiDensity (x : Int) : Int := fxDiv (fxExp (-(fxMul x x) / 2)) (fxSqrt (2 * fxPi))

/-- y + (n+1)/(y + (n+2)/(y + …)), `fuel` levels: the continued fraction of the normal tail. -/
def fxTail (y : Int) : Nat → Nat → Int
  | 0, _ => y
  | k + 1, n => y + fxDiv ((n + 1 : Nat) * fxOne) (fxTail y k (n + 1))

/-- The standard normal distribution: far below 0 its density over the continued fraction, which loses no leading bits. -/
def fxPhi (x : Int) : Int :=
  if x < -6 * fxOne then fxDiv (fxPhiDensity x) (fxTail (-x) 300 0) else if 20 * fxOne < x then fxOne
  else fxOne / 2 + fxMul (fxPhiDensity x) (fxPhiSeries (fxMul x x) 900 0 x)

/-- u of the tanh form of GELU (R192): √(2/π) (z + 0.044715 z³), z clamped where GELU has settled. -/
def fxGeluU (z : Int) : Int :=
  let z := max (-64 * fxOne) (min (64 * fxOne) z)
  fxMul (fxSqrt (fxDiv (2 * fxOne) fxPi)) (z + 44715 * fxMul (fxMul z z) z / 1000000)

/-- The exact value a function approaches for a finite operand (fixed point; sign given apart), R77. -/
def fnFixed (f : Nat) (x : Int) : Int :=
  match f with
  | 2 => fxMul x (fxSigmoid (2 * fxGeluU x))
  | 3 => fxMul x (fxPhi x)
  | 4 => fxMul x (fxSigmoid x)
  | 5 => fxSigmoid x
  | 6 => fxTanh x
  | 7 => fxExp x
  | 8 => fxLog x
  | _ => if 1000 * fxOne < x then x else fxLog (fxOne + fxExp x)

/-- A fixed-point result rounded to FP32; the sign of a result that rounds to zero is `neg`. -/
def fxToF32 (neg : Bool) (v : Int) : W32 := toF32 (.fin (if v == 0 then neg else v < 0) v.natAbs (-512))

/-- R110: the exactly rounded result `r` moved by `off` half units in the last place, clipped to `n` units; a place
between two FP32 values goes to the one nearer `r`. -/
def withinUlp (n : Nat) (off : Int) (r : W32) : W32 :=
  match f32 r with
  | .fin neg m _ =>
    let off := max (-(2 * n : Nat) : Int) (min (2 * n : Nat) off)
    let u := max (((r.toNat / 2 ^ 23 % 256 : Nat) : Int) - 150) (-149)
    let e := if m == 0 then -149 else u
    let t : Num := .fin (off < 0) off.natAbs (e - 1)
    let x := (f32 r).add t
    let away := (off < 0) == neg
    match x with
    | .fin xn xm xe =>
      let mode : RMode := if away || xn != neg then .zero else if xn then .down else .up
      BitVec.ofNat 32 (convert 0 mode true (.fin (if xm == 0 then neg else xn) xm xe)).1
    | _ => r
  | _ => r

/-- Maximum error in units in the last place (R110). -/
def fnUlp (f : Nat) : Nat :=
  match f with
  | 2 => 4 | 3 => 4 | 4 => 3 | 5 => 2 | 6 => 2 | 7 => 2 | 8 => 2 | 9 => 1 | 10 => 1 | 12 => 3 | _ => 0

/-- 1 ÷ x for finite non-zero x, exactly rounded. -/
def recipF32 (neg : Bool) (m : Nat) (e : Int) : W32 :=
  let num := 2 ^ 200
  toF32 (.fin neg (2 * (num / m) + (if num % m == 0 then 0 else 1)) (-e - 201))

/-- √x (and 1/√x when `inv`) for finite positive x, exactly rounded. -/
def sqrtF32 (inv : Bool) (m : Nat) (e : Int) : W32 :=
  let p := if e % 2 == 0 then (m, e) else (2 * m, e - 1)
  if inv then
    let n := 2 ^ 600 / p.1
    let s := Nat.sqrt n
    toF32 (.fin false (2 * s + (if s * s * p.1 == 2 ^ 600 then 0 else 1)) (-(p.2 / 2) - 301))
  else
    let n := p.1 * 2 ^ 400
    let s := Nat.sqrt n
    toF32 (.fin false (2 * s + (if s * s == n then 0 else 1)) (p.2 / 2 - 201))

/-- The result of trim function `f` on one FP32 operand before flags (R110). -/
def fnValue (f : Nat) (a : W32) : W32 :=
  match f, f32 a with
  | 0, .nan => f32Nan
  | 0, _ => a
  | _, .nan => f32Nan
  | 1, .inf n => if n then 0 else a
  | 1, .fin n m _ => if n || m == 0 then 0 else a
  | 2, .inf n => if n then 0x80000000 else a
  | 3, .inf n => if n then 0x80000000 else a
  | 4, .inf n => if n then 0x80000000 else a
  | 5, .inf n => if n then 0 else f32One
  | 6, .inf n => if n then 0xBF800000 else f32One
  | 6, .fin n 0 _ => if n then 0x80000000 else 0
  | 7, .inf n => if n then 0 else a
  | 8, .inf n => if n then f32Nan else a
  | 8, .fin _ 0 _ => 0xFF800000
  | 8, .fin true _ _ => f32Nan
  | 9, .inf n => if n then 0x80000000 else 0
  | 9, .fin n 0 _ => if n then 0xFF800000 else 0x7F800000
  | 9, .fin n m e => withinUlp 1 (Config.trimOffset 9 a) (recipF32 n m e)
  | 10, .inf n => if n then f32Nan else 0
  | 10, .fin n 0 _ => if n then 0xFF800000 else 0x7F800000
  | 10, .fin true _ _ => f32Nan
  | 10, .fin false m e => withinUlp 1 (Config.trimOffset 10 a) (sqrtF32 true m e)
  | 11, .inf n => if n then f32Nan else a
  | 11, .fin _ 0 _ => a
  | 11, .fin true _ _ => f32Nan
  | 11, .fin false m e => sqrtF32 false m e
  | 12, .inf n => if n then 0 else a
  | g, .inf _ => if g == 0 then a else f32Nan
  | g, .fin n m e =>
    withinUlp (fnUlp g) (Config.trimOffset g a) (fxToF32 (n && g < 5) (fnFixed g (fxOf n m e)))

/-- Whether an infinite result is exact (R109): it sets no OVERFLOW. -/
def fnExactInf (f : Nat) (a : W32) : Bool := (f == 8 || f == 9 || f == 10) && (f32 a).isZero

/-- Trim function `f` with the flags it sets (R109, R110). -/
def trimFn (f : Nat) (a : W32) : W32 × Flags :=
  let y := fnValue f a
  (y, if fnExactInf f a then flNone else stepFlags [f32 a] (f32 y))

/-- d(s) of R192 in fixed point for a finite saved operand. -/
def derivFixed (f : Nat) (x : Int) : Int :=
  match f with
  | 2 =>
    let t := fxTanh (fxGeluU x)
    let x := max (-64 * fxOne) (min (64 * fxOne) x)
    let k := fxSqrt (fxDiv (2 * fxOne) fxPi)
    (fxOne + t) / 2 + fxMul (fxMul (x / 2) (fxOne - fxMul t t)) (fxMul k (fxOne + 134145 * fxMul x x / 1000000))
  | 3 => fxPhi x + fxMul x (fxPhiDensity x)
  | 4 => let g := fxSigmoid x; fxMul g (fxOne + fxMul x (fxOne - g))
  | _ => fxSigmoid x

/-- d(s) as an exact value, or as the exactly evaluated one, of the derivative table (R192, R193). No d of the four functions of z is 0
at a finite z: one beyond the fraction bits keeps its sign, so that an infinite g gives an infinity. -/
def derivValue (f : Nat) (s : W32) : Num :=
  match f, f32 s with
  | _, .nan => .nan
  | 5, x => x.mul ((Num.fin false 1 0).add x.negate)
  | 6, x => (Num.fin false 1 0).add (x.mul x).negate
  | 7, x => x
  | 8, x => match x with
    | .inf n => .fin n 0 0
    | .fin n 0 _ => .inf n
    | .fin n m e => .fin n (2 * (2 ^ 200 / m) + (if 2 ^ 200 % m == 0 then 0 else 1)) (-e - 201)
    | .nan => .nan
  | 9, x => (x.mul x).negate
  | 10, x => ((x.mul (x.mul x)).scale (-1)).negate
  | 11, x => match x with
    | .inf n => .fin n 0 0
    | .fin n 0 _ => .inf n
    | .fin n m e => .fin n (2 * (2 ^ 200 / m) + (if 2 ^ 200 % m == 0 then 0 else 1)) (-e - 202)
    | .nan => .nan
  | 2, .inf _ => .nan
  | 3, .inf _ => .nan
  | 4, .inf _ => .nan
  | 12, .inf n => if n then .fin false 0 0 else .fin false 1 0
  | g, .fin n m e =>
    let v := derivFixed g (fxOf n m e)
    if v = 0 then .fin (g != 12) 1 (-600) else .fin (v < 0) v.natAbs (-512)
  | _, .inf _ => .nan

/-- g × d(s) in FP32 (R191 to R193), with its flags. -/
def trimDeriv (f : Nat) (g s : W32) : W32 × Flags :=
  if f == 0 then (if (f32 g).isNan then f32Nan else g, flNone)
  else if (f32 s).isNan then (f32Nan, flNone)
  else if f == 1 then
    (match f32 s with
      | .inf n => if n then 0 else g
      | .fin n m _ => if n || m == 0 then 0 else g
      | .nan => f32Nan, flNone)
  else
    let r := toF32 ((f32 g).mul (derivValue f s))
    let y := match f32 g, f32 s with
      | .fin _ _ _, .fin _ _ _ => withinUlp (fnUlp f + 1) (Config.derivOffset f g s) r
      | _, _ => r
    let exactInf := (f == 8 || f == 11) && (f32 s).isZero
    (y, if exactInf && !(f32 y).isNan then flNone else stepFlags [f32 g, f32 s] (f32 y))

end Sys2Proof.Machine
end

