-- ==== Sys2Proof/Machine/TileArray.lean ====
section
/-! DEFINITION. The fetch engine's FEED (R54 to R57, R227, R567) and the MATMUL class: MM, the drains, ACCLD and ACCST
(R64 to R68, R95 to R100, R186, R191). -/
namespace Sys2Proof.Machine

/-! ### Queue entries and the fetch engine -/

/-- Lane-blocks per queue entry, L of R567. -/
def lanesPerEntry (f : Nat) : Nat := match f with | 0 => 1 | 1 => 2 | 2 => 2 | 7 => 8 | _ => 4

/-- A dense ingot's size in bytes (R223). -/
def ingotSize (f : Nat) : Nat := match f with | 3 => 80 | 4 => 80 | 5 => 64 | 6 => 64 | _ => 48

/-- A side-band of eight scales of 2^0 (R72). -/
def unitSide : Nat := 0x7F7F7F7F7F7F7F7F

/-- The state of the draw half (R129). -/
def drawState (s : State) (g : Nat) : Nat :=
  if getF s F.TIL_TUNDISH_DRAW g = 0 then getF s F.TIL_TUNDISH_H0_STATE g else getF s F.TIL_TUNDISH_H1_STATE g

/-- Read a byte of the tundish draw half for the fetch engine (R51, R129, R368): zero in DRAW_ZERO; corrected or fault
0x06 by its word's code. -/
def readDraw (g a n : Nat) : TileM (List Byte) := do
  let s ← get
  let t := tileOf s g
  let d := getF s F.TIL_TUNDISH_DRAW g
  let half := if d = 0 then t.half0 else t.half1
  let flips := if d = 0 then t.hflip0 else t.hflip1
  if drawState s g = 5 then return List.replicate n 0
  let off := a - 0x100000
  for e in flips.filter (fun e => off / 8 ≤ e.1 && e.1 ≤ (off + n - 1) / 8 && eccResult 64 e.2 != .clean) do
    modify (fun s => logMemErr s g 64 1 (0x100000 + 8 * e.1) e.2)
    faultIf (eccResult 64 e.2 == .uncorrectable) 6
    modify (fun s => setF s F.TIL_MEM_ERR_TUNDISH_CE g 1)
    unless (tileOf (← get) g).drawCe do
      modify (fun s => modTile (sendRec s (.tile g) 0 0x1801 (tileOf s g).drawPour (0x100000 + 8 * e.1)) g
        (fun t => { t with drawCe := true }))
  pure ((List.range n).map (fun i =>
    let k := (off + i) / 8
    let word := leNat (rdBytes half (8 * k) 8)
    BitVec.ofNat 8 (eccDeliver 64 word (getD flips k 0) / 2 ^ (8 * ((off + i) % 8)))))

/-- The fetch engine reads tile memory or the draw half (R48). -/
def fetchRead (g a n : Nat) : TileM (List Byte) := if inMem a n then readMem g a n else readDraw g a n

/-- The fetch engine may read a range (R48). -/
def fetchable (a n : Nat) : Bool := inMem a n || inDraw a n

/-- An ingot's header is dense and of the expected format (R227). -/
def ingotOk (f : Nat) (h : List Byte) : Bool := leNat h % 16 == f && leNat h / 16 % 4 == 0

/-- Entry `j` of a FEED in the plain and bitmap modes (R57). -/
def plainAddr (fd : Feed) (j : Nat) : Nat := fd.base + (j / fd.run) * fd.stride + (j % fd.run) * 128

/-- Pack lane-blocks of 32 elements each into an entry (R567). -/
def packEntry (f : Nat) (blocks : List (List Nat)) (scales : List Nat) (mark : Bool) : QEntry :=
  ⟨packBits (32 * fmtWidth f) (blocks.map (packBits (fmtWidth f))), packBits 8 (scales ++ List.replicate (8 - scales.length) 0x7F), mark⟩

/-- The 32 stored rows of a block for TRANSPOSE alone: their addresses (R57). -/
def rowAddr (fd : Feed) (b r : Nat) : Nat :=
  fd.base + (32 * (b % fd.run) + r) * fd.stride + (b / fd.run) * (4 * fmtWidth fd.fmt)

/-- Ingot r of group or block `b` (R57). -/
def ingotAddr (fd : Feed) (b r : Nat) : Nat :=
  if fd.mode % 2 = 1 then fd.base + b * fd.stride + r * ingotSize fd.fmt
  else fd.base + (b / fd.run) * fd.stride + (b % fd.run) * (32 * ingotSize fd.fmt) + r * ingotSize fd.fmt

/-- One ingot half: its 32 elements and scale; fault 0x01 on a wrong header (R225, R227). An ingot of a DRAW_ZERO half has no header
to check: it is 64 zeros under scales of 0x00 (R244; log entry 107). -/
def readHalf (g : Nat) (fd : Feed) (a half : Nat) : TileM (List Nat × Nat) := do
  if !inMem a (ingotSize fd.fmt) && drawState (← get) g == 5 then return (List.replicate 32 0, 0)
  let h ← fetchRead g a 16
  faultIf (!ingotOk fd.fmt h) 1
  let bs ← fetchRead g (a + 16 + half * 4 * fmtWidth fd.fmt) (4 * fmtWidth fd.fmt)
  pure (unpackElems (fmtWidth fd.fmt) 32 bs, (leNat h / 2 ^ (8 + 8 * half)) % 256)

/-- Entry `j` of a FEED (R57, R567). -/
def feedEntry (g : Nat) (fd : Feed) (j : Nat) : TileM QEntry := do
  let f := fd.fmt
  let l := lanesPerEntry f
  let per := 32 / l
  match fd.mode % 8 with
  | 1 =>
    let b := j / per
    let c0 := (j % per) * l
    let rows ← (List.range 32).mapM (fun r => fetchRead g (rowAddr fd b r) (4 * fmtWidth f))
    let el := rows.map (unpackElems (fmtWidth f) 32)
    pure (packEntry f ((List.range l).map (fun q => el.map (fun row => row.getD (c0 + q) 0))) [] false)
  | 2 =>
    let grp := j / (2 * per)
    let half := j % (2 * per) / per
    let c0 := (j % per) * l
    let hs ← (List.range l).mapM (fun q => readHalf g fd (ingotAddr fd grp (c0 + q)) half)
    pure (packEntry f (hs.map (·.1)) (hs.map (·.2)) false)
  | 3 =>
    let b := j / per
    let e0 := (j % per) * l
    let hs ← (List.range 32).mapM (fun r => readHalf g fd (ingotAddr fd b r) (fd.mode / 8 % 2))
    let scales := if j % per < 4 then ((hs.map (·.2)).drop (8 * (j % per))).take 8 else []
    pure (packEntry f ((List.range l).map (fun q => hs.map (fun h => h.1.getD (e0 + q) 0))) scales true)
  | _ =>
    let bs ← fetchRead g (plainAddr fd j) 128
    pure ⟨leNat bs, unitSide, false⟩

/-- Every range a FEED reads (R57). -/
def feedRanges (fd : Feed) : List (Nat × Nat) :=
  let per := 32 / lanesPerEntry fd.fmt
  match fd.mode % 8 with
  | 1 => (List.range (fd.count / per)).flatMap (fun b => (List.range 32).map (fun r => (rowAddr fd b r, 4 * fmtWidth fd.fmt)))
  | 2 => (List.range (fd.count / (2 * per))).flatMap (fun b => (List.range 32).map (fun r => (ingotAddr fd b r, ingotSize fd.fmt)))
  | 3 => (List.range (fd.count / per)).flatMap (fun b => (List.range 32).map (fun r => (ingotAddr fd b r, ingotSize fd.fmt)))
  | _ => (List.range fd.count).map (fun j => (plainAddr fd j, 128))

def queueOf (t : Tile) (q : Nat) : OpQueue := getD t.queues q {}
def setQueue (t : Tile) (q : Nat) (x : OpQueue) : Tile := { t with queues := put t.queues q x {} }

/-- Held FEEDs start in order while their queues have no FEED in progress (R56). -/
def startFeeds (t : Tile) : Nat → Tile
  | 0 => t
  | n + 1 =>
    match t.feeds with
    | [] => t
    | fd :: rest =>
      let q := queueOf t fd.q
      if q.feed.isNone then startFeeds { setQueue t fd.q { q with feed := some fd } with feeds := rest } n else t

/-- Fill queue `q` from its FEED while it has a free entry (R54, R56); a FEED that has delivered its last entry makes
room for a held one. `fuel` bounds the reads. -/
def refill (g q : Nat) : Nat → TileM Unit
  | 0 => pure ()
  | n + 1 => do
    modify (fun s => modTile s g (fun t => startFeeds t (t.feeds.length + 1)))
    let x := queueOf (tileOf (← get) g) q
    match x.feed with
    | none => pure ()
    | some fd =>
      if 16 ≤ x.entries.length then pure ()
      else
        let e ← feedEntry g fd fd.next
        let fd' := { fd with next := fd.next + 1 }
        modify (fun s => modTile s g (fun t => setQueue t q
          { entries := x.entries ++ [e], feed := if fd'.next < fd.count then some fd' else none }))
        refill g q n

/-- Fill every queue. -/
def refillAll (g : Nat) : TileM Unit := do
  for q in [0, 1, 2, 3] do refill g q 20
  for q in [0, 1, 2, 3] do refill g q 20

/-- A FEED's checks before it reads anything (R57, R566). -/
def feedBad (w : Word) : Bool :=
  let m := wMode w
  let tr := m % 2 == 1
  let ing := m / 2 % 2 == 1
  let bm := m / 4 % 2 == 1
  let half := m / 8 % 2 == 1
  let f := wFmt w
  let per := 32 / lanesPerEntry f
  badF w || (bm && (tr || ing)) || (half && !(tr && ing)) || (ing && (f < 3 || 7 < f)) || (tr && 8 < f) ||
    ((tr || ing) && wCount w % (if ing && !tr then 2 * per else per) != 0)

/-- FEED: the fetch engine, which has read it at address `pc`, fills queue Q (R57). -/
def opFeed (g pc : Nat) (w : Word) : TileM OpEnd := do
  faultIf (feedBad w) 1
  if wCount w = 0 || getBits w 0 16 = 0 then return .next
  let base ← pReg g (wA w)
  let stride ← sReg g (wB w)
  let fd : Feed := { pc, no := (tileOf (← get) g).feedNo, q := getBits w 46 2, mode := wMode w, fmt := wFmt w, base, stride, count := wCount w, run := getBits w 0 16 }
  faultIf ((feedRanges fd).any (fun r => !fetchable r.1 r.2)) 2
  modify (fun s => modTile s g (fun t => { t with feeds := t.feeds ++ [fd], feedNo := t.feedNo + 1 }))
  refillAll g
  pure .next

/-- The array op in progress (R58). -/
def arrOf (t : Tile) : ArrOp := t.arr.getD { word := 0, since := 0 }
def modArr (g : Nat) (f : ArrOp → ArrOp) : TileM Unit := modify (fun s => modTile s g (fun t => { t with arr := t.arr.map f }))

/-- Go on with the array op of word `w`, or begin it. -/
def beginArr (g : Nat) (w : Word) : TileM Unit :=
  modify (fun s => modTile s g (fun t => if t.arr.isSome then t else { t with arr := some { word := w, since := s.now } }))

/-- Pop one entry of queue `q`, which `keep` adds to what the array op holds; a queue that has none starves the op (R62). A pop is
progress. -/
def popEntry (g q : Nat) (keep : ArrOp → QEntry → ArrOp) : TileM Unit := do
  match (queueOf (tileOf (← get) g) q).entries with
  | [] => throw starve
  | e :: es =>
    modify (fun s => modTile s g (fun t => { setQueue t q { queueOf t q with entries := es } with
      arr := t.arr.map (fun a => { keep a e with since := s.now }) }))
    refillAll g

/-- The next entry of queue `q`, not popped. -/
def peekEntry (g q : Nat) : TileM QEntry := do
  match (queueOf (tileOf (← get) g) q).entries with
  | [] => throw starve
  | e :: _ => pure e

/-! ### Matrix products -/

/-- One operand's K-block: 32 lanes of 32 values with the scale exponent of each (none = NaN scale). -/
abbrev KBlock := List (List (Num × Option Int))

/-- The scale of lane-block `q`, element `k` of an entry (R184, R567). -/
def entryScale (f : Nat) (mark : Bool) (scales : List Nat) (side q k : Nat) : Option Int :=
  if 3 ≤ f && f ≤ 7 then e8m0 (if mark then scales.getD k 0x7F else side / 2 ^ (8 * q) % 256) else some 0

/-- The K-block of the entries `es` of an operand of format `f` (R567). -/
def blockOf (f : Nat) (es : List QEntry) : KBlock :=
  let l := lanesPerEntry f
  let scales := (es.take 4).flatMap (fun e => (List.range 8).map (fun i => e.side / 2 ^ (8 * i) % 256))
  es.flatMap (fun e => (List.range l).map (fun i =>
    (List.range 32).map (fun k =>
      (decodeFmt f (e.data / 2 ^ (fmtWidth f * (32 * i + k))), entryScale f e.mark scales e.side i k))))

/-- Queue entries of a K-block (R567). -/
def entriesPer (f : Nat) : Nat := 32 / lanesPerEntry f

/-- Pop `n` more entries of an operand; `g32` refuses a marked entry (R184). -/
def popMore (g q : Nat) (g32 : Bool) (keep : ArrOp → QEntry → ArrOp) (n : Nat) : TileM Unit := do
  for _ in List.range n do
    let e ← peekEntry g q
    faultIf (g32 && e.mark) 1
    popEntry g q keep

/-- The queue that an MM or SPMM pops next. -/
def nextQueue (a : ArrOp) (w : Word) : Nat := if a.ea.length < entriesPer (wFmt w) then getBits w 46 2 else getBits w 44 2

/-- Pop what is still missing of the current K-block of both operands of an MM or SPMM, A first (R567). -/
def popBlocks (g : Nat) (w : Word) (g32 : Bool) : TileM (KBlock × KBlock) := do
  popMore g (getBits w 46 2) g32 (fun a e => { a with ea := a.ea ++ [e] })
    (entriesPer (wFmt w) - (arrOf (tileOf (← get) g)).ea.length)
  popMore g (getBits w 44 2) g32 (fun a e => { a with eb := a.eb ++ [e] })
    (entriesPer (wFmt2 w) - (arrOf (tileOf (← get) g)).eb.length)
  let a := arrOf (tileOf (← get) g)
  modArr g (fun a => { a with block := a.block + 1, ea := [], eb := [] })
  pure (blockOf (wFmt w) a.ea, blockOf (wFmt2 w) a.eb)

/-- A product with both scales, exact (R95, R99). -/
def scaledMul (a b : Num × Option Int) : Num :=
  match a.2, b.2 with
  | some x, some y => (a.1.mul b.1).scale (x + y)
  | _, _ => .nan

/-- One term of R96: the exact sum of products; a fixed-point zero sum is +0. -/
def termSum (a b : List (Num × Option Int)) : Num :=
  (List.zipWith scaledMul a b).foldl Num.add (.fin false 0 0)

/-- A term's operands hold a NaN or lie under a NaN scale. -/
def hasNan (a : List (Num × Option Int)) : Bool := a.any (fun x => x.1.isNan || x.2.isNone)

/-- INVALID of a term: it is a NaN made of operands that held none (R99). -/
def termFlags (a b : List (Num × Option Int)) (t : Num) : Flags :=
  if t.isNan && !hasNan a && !hasNan b then flInvalid else flNone

/-- Fold one K-block into one accumulator: one term when `g32`, else one per K index (R96, R97). -/
def foldBlock (g32 : Bool) (n : Nat) (a b : List (Num × Option Int)) (acc : W32) : W32 × Flags :=
  let a := a.take n
  let b := b.take n
  if g32 then
    let t := termSum a b
    let r := addTerm acc t
    (r.1, r.2 ||| termFlags a b t)
  else
    (List.zip a b).foldl (fun r x =>
      let t := scaledMul x.1 x.2
      let y := addTerm r.1 t
      (y.1, r.2 ||| y.2 ||| termFlags [x.1] [x.2] t)) (acc, flNone)

/-- Fold one K-block into a set of 1,024 accumulators, accumulator 32i + j from row i of A and column j of B (R567). -/
def foldSet (g32 : Bool) (n : Nat) (a b : KBlock) (acc : List W32) : List (W32 × Flags) :=
  let ab := a.flatMap (fun x => b.map (fun y => (x, y)))
  List.zipWith (fun x c => foldBlock g32 n x.1 x.2 c) ab acc

/-- The accumulators of a set. -/
def readSet (t : Tile) (set : Nat) : List W32 := (List.range 1024).map (fun i => getD t.acc (1024 * set + i) 0)
/-- Write a whole set. -/
def writeSet (t : Tile) (set : Nat) (vs : List W32) : Tile :=
  let new := (List.zip (List.range 1024) vs).filterMap (fun e => if e.2 = 0 then none else some (1024 * set + e.1, e.2))
  let lo := t.acc.filter (fun e => e.1 < 1024 * set)
  let hi := t.acc.filter (fun e => 1024 * (set + 1) ≤ e.1)
  { t with acc := lo ++ new ++ hi }

/-- The group size of R96 is 32: both MX element formats, or both INT8. -/
def group32 (fa fb : Nat) : Bool := (3 ≤ fa && fa ≤ 7 && 3 ≤ fb && fb ≤ 7) || (fa == 8 && fb == 8)

/-- The checks of an MM (R65, R98, R566). -/
def mmBad (w : Word) : Bool :=
  badA w || 8 < wFmt w || 8 < wFmt2 w || ((wFmt w == 8) != (wFmt2 w == 8)) || getBits w 46 2 == getBits w 44 2 ||
    (group32 (wFmt w) (wFmt2 w) && wCount w % 32 != 0)

/-- A disturbance met by an array op (R54, R67). -/
def checkUpset (x : Upset) : TileM Unit :=
  match x with
  | .none => pure ()
  | .parity => throw 3
  | .residue => throw 5

/-- In a field at stage A only BF16 and the two FP8 formats are taken (R452). -/
def checkStage (g : Nat) (w : Word) : TileM Unit := do
  let ok := fun (f : Nat) => f == 1 || f == 3 || f == 4
  faultIf (atStageA (← get) (g / 700) && !(ok (wFmt w) && ok (wFmt2 w))) 1

/-- MM (R64, R96 to R99). -/
def opMm (g : Nat) (w : Word) (x : Upset) : TileM OpEnd := do
  faultIf (mmBad w) 1
  checkStage g w
  let k := wCount w
  if k = 0 then return .next
  let set := getBits w 41 1
  let g32 := group32 (wFmt w) (wFmt2 w)
  beginArr g w
  refillAll g
  for _ in List.range ((k + 31) / 32 - (arrOf (tileOf (← get) g)).block) do
    let _ ← peekEntry g (nextQueue (arrOf (tileOf (← get) g)) w)
    checkUpset x
    let b := (arrOf (tileOf (← get) g)).block
    let ks ← popBlocks g w g32
    let old := readSet (tileOf (← get) g) set
    let acc := if b = 0 ∧ getBits w 40 1 = 1 then List.replicate 1024 (0 : W32) else old
    let rs := foldSet g32 (min 32 (k - 32 * b)) ks.1 ks.2 acc
    raiseFlags g (orFlags (rs.map (·.2)))
    modify (fun s => modTile s g (fun t => writeSet t set (rs.map (·.1))))
  pure .array

/-! ### Drains -/

/-- Row `r` of a set. -/
def setRow (acc : List W32) (r : Nat) : List W32 := (acc.drop (32 * r)).take 32

/-- The addresses and lengths of COUNT rows. -/
def rowRanges (base stride n bytes : Nat) : List (Nat × Nat) := (List.range n).map (fun r => (base + r * stride, bytes))

/-- The lanes of a stochastic drain: two per row, at S[15] (R74, R343). -/
def drainBits (g field : Nat) : TileM (List Nat) := do
  if roundStoch field then stochBits g ((← sReg g 15) % 2 ^ 24) 32 else pure []

/-- The checks common to DRAIN and DRAINT that depend on the rounding field. -/
def drainChecks (g field : Nat) : TileM Unit := do
  faultIf (!roundOk field) 1
  if roundStoch field then checkLaneAlign ((← sReg g 15) % 2 ^ 24)

/-- Convert and write one row (R68, R102). -/
def drainRow (g f field a : Nat) (xs : List W32) : TileM Unit := do
  let rs ← drainBits g field
  let cs := convertList f field (xs.map f32) rs
  writeElems g f a (patterns cs)
  raiseFlags g (flagsOf cs)

/-- DRAIN (R68, R102). -/
def opDrain (g : Nat) (w : Word) : TileM OpEnd := do
  faultIf (badD w || 9 < wFmt2 w) 1
  drainChecks g (wMode w)
  let n := wCount w
  if n = 0 then return .next
  let d ← pReg g (wD w)
  let st ← sReg g (wB w)
  let f := wFmt2 w
  faultIf ((rowRanges d st n (4 * fmtWidth f)).any (fun r => !inMem r.1 r.2)) 2
  if roundStoch (wMode w) then checkLanes g ((← sReg g 15) % 2 ^ 24) 2
  let acc := readSet (tileOf (← get) g) (getBits w 43 1)
  for r in List.range n do drainRow g f (wMode w) (d + r * st) (setRow acc r)
  pure .next

/-- DRAINR (R186, R187). -/
def opDrainr (g : Nat) (w : Word) : TileM OpEnd := do
  faultIf (badD w || wFmt2 w != 0 || wMode w != 0 || wFunc w != 0) 1
  let n := wCount w
  if n = 0 then return .next
  let d ← pReg g (wD w)
  let st ← sReg g (wB w)
  faultIf (d % 4 != 0 || st % 4 != 0 || (rowRanges d st n 128).any (fun r => !inRiser r.1 r.2)) 2
  let acc := readSet (tileOf (← get) g) (getBits w 43 1)
  for r in List.range n do checkRiser g (accAt (d + r * st)) 32
  for r in List.range n do
    let i := accAt (d + r * st)
    let old ← readRiser g i 32
    let ys := List.zipWith (fun o v => addTerm o (f32 v)) old (setRow acc r)
    writeRiser g i (ys.map (·.1))
    raiseFlags g (orFlags (ys.map (·.2)))
  pure .next

/-- The checks of DRAINT before any write (R77, R191, R566). -/
def draintBad (w : Word) (stride : Nat) : Bool :=
  let deriv := getBits w 15 1 == 1
  badD w || 12 < wFunc w % 128 || 8 < wFmt2 w ||
    (deriv && (8 < wFmt w || stride * 8 < 32 * max (fmtWidth (wFmt w)) (fmtWidth (wFmt2 w))))

/-- DRAINT: the function, or its derivative times the saved operand, before the conversion (R68, R102, R191). -/
def opDraint (g : Nat) (w : Word) : TileM OpEnd := do
  let st ← sReg g (wB w)
  faultIf (draintBad w st) 1
  drainChecks g (wMode w)
  let n := wCount w
  if n = 0 then return .next
  let d ← pReg g (wD w)
  let f := wFmt2 w
  let deriv := getBits w 15 1 == 1
  let fn := wFunc w % 128
  faultIf ((rowRanges d st n (4 * fmtWidth f)).any (fun r => !inMem r.1 r.2)) 2
  faultIf (deriv && fn != 0 && (rowRanges d st n (4 * fmtWidth (wFmt w))).any (fun r => !inMem r.1 r.2)) 2
  if roundStoch (wMode w) then checkLanes g ((← sReg g 15) % 2 ^ 24) 2
  let acc := readSet (tileOf (← get) g) (getBits w 43 1)
  for r in List.range n do
    let a := d + r * st
    let row := setRow acc r
    let ys ← if deriv then do
        let ss ← if fn = 0 then pure (List.replicate 32 (0 : W32)) else readF32 g (wFmt w) a 32
        pure (List.zipWith (trimDeriv fn) row ss)
      else pure (row.map (trimFn fn))
    raiseFlags g (orFlags (ys.map (·.2)))
    drainRow g f (wMode w) a (ys.map (·.1))
  pure .next

/-- ACCLD: COUNT rows of a set loaded unchanged (R100). -/
def opAccld (g : Nat) (w : Word) : TileM OpEnd := do
  faultIf (badD w || wFmt2 w != 0) 1
  let n := wCount w
  if n = 0 then return .next
  let d ← pReg g (wD w)
  let st ← sReg g (wB w)
  faultIf ((rowRanges d st n 128).any (fun r => !inMem r.1 r.2)) 2
  let set := getBits w 43 1
  let rows ← (List.range n).mapM (fun r => readMem g (d + r * st) 128)
  let vs := rows.flatMap (fun b => (words32 32 b).map (BitVec.ofNat 32))
  modify (fun s => modTile s g (fun t => writeSet t set (vs ++ (readSet t set).drop (32 * n))))
  pure .next

/-- ACCST: COUNT rows of a set stored unrounded (R100). -/
def opAccst (g : Nat) (w : Word) : TileM OpEnd := do
  faultIf (badD w || wFmt2 w != 0) 1
  let n := wCount w
  if n = 0 then return .next
  let d ← pReg g (wD w)
  let st ← sReg g (wB w)
  faultIf ((rowRanges d st n 128).any (fun r => !inMem r.1 r.2)) 2
  let acc := readSet (tileOf (← get) g) (getBits w 43 1)
  for r in List.range n do
    writeMem g (d + r * st) (packElems 32 ((setRow acc r).map BitVec.toNat))
  pure .next

/-! ### The fetch engine ahead of the execute engine (R55, R56) -/

/-- The fetch engine on its way: its address, its own copies of the registers, and the FEEDs it has carried out. -/
structure Fetch where
  pc : Nat
  p : Assoc (BitVec 48)
  s : Assoc W32
  l : Assoc W32
  fed : List Nat

/-- What it finds: the FEED that it reaches next, an op that it does not pass, or no such FEED within its reach. -/
inductive Reach where
  | feed (x : Fetch)
  | blocked
  | absent

/-- The op word at address `a`. -/
def opWordAt (t : Tile) (a : Nat) : Word := BitVec.ofNat 64 (leNat ((List.range 8).map (fun i => memByte t (a + i))))

/-- It applies an LDI or ADDI to its own copies. -/
def Fetch.load (x : Fetch) (v : Word) (add : Bool) : Fetch :=
  let imm := wImm v
  match wKind v with
  | 0 => { x with p := put x.p (wD v) (BitVec.ofNat 48 (if add then addImm 0 (getD x.p (wD v) 0).toNat imm else imm)) 0 }
  | 1 => { x with s := put x.s (wD v) (BitVec.ofNat 32 (if add then addImm 1 (getD x.s (wD v) 0).toNat imm else imm)) 0 }
  | 2 => { x with l := put x.l (wD v) (BitVec.ofNat 32 (if add then addImm 2 (getD x.l (wD v) 0).toNat imm else imm)) 0 }
  | _ => x

/-- It applies a LOOP read at address `a`. -/
def Fetch.loop (x : Fetch) (v : Word) (a : Nat) : Fetch :=
  let l := getD x.l (wD v) 0
  if l = 0 then x
  else
    let x := { x with l := put x.l (wD v) (l - 1) 0 }
    if l - 1 = 0 then x else { x with pc := (a + 8 * wImm v) % 2 ^ 20 }

/-- Walk on for at most as many ops as the fetch engine may be ahead (R55), to the FEED of word `w`. It stops at TSWAP, HOIST, FENCE
and HALT, at a WAIT bit, and at another FEED. `free` says that nothing stops it at the op where it stands. -/
def walk (t : Tile) (w : Word) : Nat → Bool → Fetch → Reach
  | 0, _, _ => .absent
  | n + 1, free, x =>
    let v := opWordAt t x.pc
    let on := { x with pc := (x.pc + 8) % 2 ^ 20 }
    if !free && getBits v 57 1 = 1 then .blocked
    else
      match opcode v with
      | 0x20 =>
        if x.fed.contains x.pc then walk t w n false { on with fed := x.fed.erase x.pc }
        else if v = w then .feed x else .blocked
      | 0x01 => walk t w n false (on.load v false)
      | 0x02 => walk t w n false (on.load v true)
      | 0x2B => walk t w n false (on.loop v x.pc)
      | 0x23 => .blocked
      | 0x28 => .blocked
      | 0x2C => .blocked
      | 0x2D => .blocked
      | _ => walk t w n false on

/-- Where the fetch engine finds the FEED of word `w`, from the op at which the execute engine stands. -/
def reachFeed (s : State) (g : Nat) (w : Word) : Reach :=
  let t := tileOf s g
  walk t w 65 t.wait.isSome { pc := issueAt s g, p := t.p, s := t.s, l := t.l, fed := t.fed }

/-- The declared wait's opcode stands in memory where the execute engine stands: the tile runs the program that is stored there. -/
def textThere (s : State) (g : Nat) : Bool :=
  match (tileOf s g).wait with
  | some ⟨.evwait .., _, _⟩ => opcode (opWordAt (tileOf s g) (issueAt s g)) == 0x2A
  | some ⟨.recv .., _, _⟩ => opcode (opWordAt (tileOf s g) (issueAt s g)) == 0x22
  | some ⟨.sget _, _, _⟩ => opcode (opWordAt (tileOf s g) (issueAt s g)) == 0x3A
  | _ => true

/-- The fetch engine can take a FEED: it does not pass a TSWAP, HOIST or FENCE that has not completed (R56), and goes on while an
array op waits for entries. -/
def canFeed (s : State) (g : Nat) (w : Word) : Bool :=
  let t := tileOf s g
  opcode w == 0x20 && (running s g || (t.arr.isSome && getF s F.TIL_STATUS_BYPASS g == 0)) &&
    (t.fencing.isNone || t.fencing == some w) &&
    (match t.wait with | some ⟨.tswap, _, _⟩ => false | some ⟨.hoist _, _, _⟩ => false | _ => true)

/-- The fetch engine carries out a FEED ahead of the execute engine, with its own copies of the registers. -/
def feedAhead (s : State) (g : Nat) (w : Word) (x : Fetch) : State :=
  let t := tileOf s g
  match opFeed g x.pc w (modTile s g (fun t => { t with p := x.p, s := x.s })) with
  | .ok _ s' => modTile s' g (fun u => { u with p := t.p, s := t.s, fed := t.fed ++ [x.pc] })
  | .error c s' => tileFault (modTile s' g (fun u => { u with p := t.p, s := t.s })) g c

/-- FEED run by the fetch engine, in order or ahead of the execute engine. Where the program that the tile runs is not stored in its
memory, a FEED behind a declared wait takes the registers as they stand (log entry 109). -/
def runFeed (t : TileId) (w : Word) (s : State) : State :=
  let g := t.gid
  if canFeed s g w then
    let inOrder := (tileOf s g).wait.isNone
    match reachFeed s g w with
    | .feed x => if inOrder ∧ x.pc = issueAt s g then runOp t w 0x20 (opFeed g x.pc w) s else feedAhead s g w x
    | _ =>
      if inOrder then runOp t w 0x20 (opFeed g (issueAt s g) w) s
      else if textThere s g then s
      else
        match opFeed g (issueAt s g) w s with
        | .ok _ s' => s'
        | .error c s' => tileFault s' g c
  else if listedOp (opcode w) then s
  else runOp t w 0x20 (opFeed g 0 w) s

def execMm (t : TileId) (w : Word) (x : Upset) (s : State) : Host.Outcome State Fault Refusal := .next (runOp t w 0x08 (opMm t.gid w x) s)
def execDrain (t : TileId) (w : Word) (s : State) : Host.Outcome State Fault Refusal := .next (runOp t w 0x09 (opDrain t.gid w) s)
def execDrainr (t : TileId) (w : Word) (s : State) : Host.Outcome State Fault Refusal := .next (runOp t w 0x0A (opDrainr t.gid w) s)
def execDraint (t : TileId) (w : Word) (s : State) : Host.Outcome State Fault Refusal := .next (runOp t w 0x0B (opDraint t.gid w) s)
def execAccld (t : TileId) (w : Word) (s : State) : Host.Outcome State Fault Refusal := .next (runOp t w 0x0C (opAccld t.gid w) s)
def execAccst (t : TileId) (w : Word) (s : State) : Host.Outcome State Fault Refusal := .next (runOp t w 0x0D (opAccst t.gid w) s)
def execFeed (t : TileId) (w : Word) (s : State) : Host.Outcome State Fault Refusal := .next (runFeed t w s)

end Sys2Proof.Machine
end

