-- ==== Sys2Proof/Machine/TileSparse.lean ====
section
/-! DEFINITION. The SPARSE class: SPMM through the Riddle, slice and element maps, compressed blocks (R202 to R212,
R217, R218, R221, R222). -/
namespace Sys2Proof.Machine

/-! ### SPMM -/

/-- Slice k of an operand: element k of each of its 32 lanes (R202). -/
def sliceAt (b : KBlock) (k : Nat) : List (Num × Option Int) := b.map (fun lane => lane.getD k (.nan, none))

/-- A zero slice: every element a zero whose scale is not NaN. -/
def sliceZero (s : List (Num × Option Int)) : Bool := s.all (fun x => x.1.isZero && x.2.isSome)

/-- A slice with an infinity, a NaN or a NaN scale. -/
def sliceSpecial (s : List (Num × Option Int)) : Bool := s.any (fun x => !x.1.isFin || x.2.isNone)

/-- Pair k is contributing (R202). -/
def contributing (a b : KBlock) (k : Nat) : Bool :=
  let x := sliceAt a k
  let y := sliceAt b k
  !((sliceZero x && !sliceSpecial y) || (sliceZero y && !sliceSpecial x))

/-- The checks of an SPMM (R65, R98, R207). -/
def spmmBad (w : Word) : Bool :=
  badA w || wFmt w < 3 || 8 < wFmt w || wFmt2 w < 3 || 8 < wFmt2 w || ((wFmt w == 8) != (wFmt2 w == 8)) ||
    getBits w 46 2 == getBits w 44 2 || 3 < wMode w ||
    (wMode w != 0 && (getBits w 42 2 == getBits w 46 2 || getBits w 42 2 == getBits w 44 2)) || wCount w % 32 != 0

/-- Queue entries of a map of K bits (R204). -/
def mapEntries (k : Nat) : Nat := (k + 1023) / 1024

/-- A map of its entries (R204). -/
def mapOf (es : List QEntry) : Nat := packBits 1024 (es.map (·.data))

/-- Pop what is still missing of the maps that an SPMM takes, A's first. -/
def popMaps (g : Nat) (w : Word) (x : Upset) : TileM Unit := do
  let need := mapEntries (wCount w) * (wMode w % 2 + wMode w / 2) - (arrOf (tileOf (← get) g)).maps.length
  if need = 0 then return ()
  let _ ← peekEntry g (getBits w 42 2)
  checkUpset x
  popMore g (getBits w 42 2) false (fun a e => { a with maps := a.maps ++ [e] }) need

/-- What the fold of an SPMM carries from block to block: the set, the chunk bank, the contributing pairs of the
current chunk, whether it is the first chunk (R211). -/
structure SpFold where
  set : List W32
  bank : List W32
  pairs : Nat
  first : Bool

/-- Merge the bank of a later chunk into the set (R211). -/
def mergeBank (x : SpFold) : List W32 × Flags :=
  if x.first then (x.set, flNone)
  else
    let rs := List.zipWith addF32 x.set x.bank
    (rs.map (·.1), orFlags (rs.map (·.2)))

/-- Fold one block with `p` contributing pairs: the chunk grows, or a new one begins (R211). -/
def spBlock (a b : KBlock) (p : Nat) (x : SpFold) : SpFold × Flags :=
  let fresh := decide (1024 < x.pairs + p)
  let m := if fresh then mergeBank x else (x.set, flNone)
  let first := x.first && !fresh
  let src := if first then m.1 else if fresh then List.replicate 1024 0 else x.bank
  let rs := foldSet true 32 a b src
  let ys := rs.map (·.1)
  (⟨if first then ys else m.1, if first then x.bank else ys, if fresh then p else x.pairs + p, first⟩,
   orFlags (rs.map (·.2)) ||| m.2)

/-- The fold of the SPMM in progress: before its first block the set, or zeros. -/
def foldOf (t : Tile) (w : Word) (set : Nat) : SpFold :=
  let a := arrOf t
  if a.block = 0 then ⟨if getBits w 40 1 = 1 then List.replicate 1024 0 else readSet t set, List.replicate 1024 0, 0, true⟩
  else ⟨a.set, a.bank, a.pairs, a.first⟩

/-- SPMM (R207 to R212). -/
def opSpmm (g : Nat) (w : Word) (x : Upset) : TileM OpEnd := do
  faultIf (spmmBad w) 1
  checkStage g w
  let k := wCount w
  if k = 0 then return .next
  let set := getBits w 41 1
  let ones := 2 ^ (k + 1024) - 1
  beginArr g w
  refillAll g
  popMaps g w x
  let maps := (arrOf (tileOf (← get) g)).maps
  let ma := if wMode w % 2 = 1 then mapOf (maps.take (mapEntries k)) else ones
  let mb := if wMode w / 2 = 1 then mapOf (maps.drop (mapEntries k * (wMode w % 2))) else ones
  for _ in List.range (k / 32 - (arrOf (tileOf (← get) g)).block) do
    let _ ← peekEntry g (nextQueue (arrOf (tileOf (← get) g)) w)
    checkUpset x
    let f := foldOf (tileOf (← get) g) w set
    let b := (arrOf (tileOf (← get) g)).block
    let ks ← popBlocks g w true
    let ka := ks.1
    let kb := ks.2
    let con := (List.range 32).map (contributing ka kb)
    let plan := (List.range 32).map (fun i => Nat.testBit ma (32 * b + i) && Nat.testBit mb (32 * b + i))
    let cp := List.zip con plan
    modify (fun s => countF (countF s F.TIL_RIDDLE_MISSES g (cp.filter (fun e => e.1 && !e.2)).length)
      F.TIL_RIDDLE_IDLE_PAIRS g (cp.filter (fun e => !e.1 && e.2)).length)
    let r := spBlock ka kb (con.filter id).length f
    modArr g (fun a => { a with set := r.1.set, bank := r.1.bank, pairs := r.1.pairs, first := r.1.first })
    raiseFlags g r.2
  let m := mergeBank (foldOf (tileOf (← get) g) w set)
  raiseFlags g m.2
  modify (fun s => modTile s g (fun t => writeSet t set m.1))
  pure .array

/-! ### Maps -/

/-- Bits as bytes, padded with zero bits to a multiple of 128 bytes (R205). -/
def mapBytes (bits : List Bool) : List Byte :=
  bytesOf (packBits 1 (bits.map (fun b => if b then 1 else 0))) ((bits.length + 1023) / 1024 * 128)

/-- An element's value is not zero. -/
def nonZero (f c : Nat) : Bool := !(decodeFmt f c).isZero

/-- BMAP (R205). -/
def opBmap (g : Nat) (w : Word) : TileM OpEnd := do
  faultIf (badM w || 8 < wFmt w || 2 < wMode w) 1
  let n := wCount w
  if n = 0 then return .next
  let d ← pReg g (wD w)
  let a ← pReg g (wA w)
  let st ← sReg g (wSel w)
  let f := wFmt w
  faultIf (!inMem d ((n + 1023) / 1024 * 128)) 2
  let bits ← match wMode w with
    | 0 => do
      faultIf (!inMem a (elemBytes f n)) 2
      pure ((← readElems g f a n).map (· != 0))
    | 1 => do
      faultIf ((rowRanges a st 32 (elemBytes f n)).any (fun r => !inMem r.1 r.2)) 2
      let rows ← (List.range 32).mapM (fun r => readElems g f (a + r * st) n)
      pure ((List.range n).map (fun i => rows.any (fun row => nonZero f (row.getD i 0))))
    | _ => do
      faultIf (!inMem a (elemBytes f (32 * n))) 2
      let xs ← readElems g f a (32 * n)
      pure ((List.range n).map (fun i => ((xs.drop (32 * i)).take 32).any (nonZero f)))
  writeMem g d (mapBytes bits)
  pure .next

/-- BPRED: the OR of two maps (R206). -/
def opBpred (g : Nat) (w : Word) : TileM OpEnd := do
  faultIf (badM w || wMode w != 0 || wFunc w != 0 || wSel w != 0) 1
  let n := wCount w
  if n = 0 then return .next
  let d ← pReg g (wD w)
  let a ← pReg g (wA w)
  let b ← pReg g (wB w)
  let k := (n + 7) / 8
  faultIf (!inMem a k || !inMem b k || !inMem d ((n + 1023) / 1024 * 128)) 2
  let x := leNat (← readMem g a k)
  let y := leNat (← readMem g b k)
  writeMem g d (mapBytes ((List.range n).map (fun i => Nat.testBit x i || Nat.testBit y i)))
  pure .next

/-! ### Compressed blocks (R217, R218) -/

/-- Elements of a full block, E of R221. -/
def blockElems (f : Nat) : Nat := 4096 * 8 / (fmtWidth f * 64) * 64

/-- Bytes of a slot (R221). -/
def slotBytes (f : Nat) : Nat := blockElems f * fmtWidth f / 8 + 16

/-- Bytes padded with zeros to a multiple of 8. -/
def pad8 (bs : List Byte) : List Byte := bs ++ List.replicate ((8 - bs.length % 8) % 8) 0

/-- One compressed block of elements `xs`, of which `present` are kept (R217, R218). -/
def compressBlock (f : Nat) (xs : List Nat) (present : List Bool) : List Byte :=
  let dense := packElems (fmtWidth f) xs
  let kept := (List.zip xs present).filterMap (fun e => if e.2 then some e.1 else none)
  let emap := bytesOf (packBits 1 (present.map (fun b => if b then 1 else 0))) (xs.length / 8)
  let packed := pad8 (emap ++ packElems (fmtWidth f) kept)
  let comp := decide (packed.length < dense.length)
  let nnz := if comp then kept.length else xs.length
  let body := if comp then packed else dense
  bytesOf (f + (if comp then 48 else 0) + xs.length * 2 ^ 16 + nnz * 2 ^ 32 + body.length * 2 ^ 48) 16 ++ body

/-- The elements of a compressed block, none when its header or E-map breaks R217. -/
def expandBlock (bs : List Byte) : Option (Nat × List Nat) :=
  let h := leNat (bs.take 8)
  let f := h % 16
  let flags := h / 16 % 4
  let n := h / 2 ^ 16 % 2 ^ 16
  let nnz := h / 2 ^ 32 % 2 ^ 16
  let len := h / 2 ^ 48
  let body := (bs.drop 16).take len
  if 8 < f || !(flags == 0 || flags == 3) || n % 64 != 0 then none
  else if flags = 0 then
    if nnz = n ∧ len = (fmtWidth f * n) / 8 ∧ body.length = len then some (f, unpackElems (fmtWidth f) n body) else none
  else
    let em := leNat (body.take (n / 8))
    let present := (List.range n).map (Nat.testBit em)
    let k := (present.filter id).length
    let want := (n / 8 + (fmtWidth f * k + 7) / 8 + 7) / 8 * 8
    if k = nnz ∧ len = want ∧ body.length = len then
      let kept := unpackElems (fmtWidth f) k (body.drop (n / 8))
      some (f, (present.foldl (fun (r : List Nat × List Nat) b =>
        if b then (r.1 ++ [r.2.headD 0], r.2.drop 1) else (r.1 ++ [0], r.2)) ([], kept)).1)
    else none

/-- Elements in slot j of COUNT. -/
def slotCount (f n j : Nat) : Nat := min (blockElems f) (n - j * blockElems f)

/-- COMPACT (R221). -/
def opCompact (g : Nat) (w : Word) : TileM OpEnd := do
  faultIf (badM w || 8 < wFmt w || wCount w % 64 != 0) 1
  let n := wCount w
  if n = 0 then return .next
  let d ← pReg g (wD w)
  let a ← pReg g (wA w)
  let b ← pReg g (wB w)
  let f := wFmt w
  let e := blockElems f
  let slots := (n + e - 1) / e
  faultIf (!inMem a (elemBytes f n) || (wMode w % 2 == 1 && !inMem b (n / 8))) 2
  let xs ← readElems g f a n
  let eb ← if wMode w % 2 = 1 then readMem g b (n / 8) else pure []
  let em := leNat eb
  let present := (List.zip (List.range n) xs).map (fun p => p.2 != 0 || Nat.testBit em p.1)
  let blocks := (List.range slots).map (fun j =>
    (d + j * slotBytes f, compressBlock f ((xs.drop (j * e)).take e) ((present.drop (j * e)).take e)))
  faultIf (blocks.any (fun p => !inMem p.1 p.2.length)) 2
  for p in blocks do writeMem g p.1 p.2
  pure .next

/-- Bytes that the block at `a` names, when they fit its slot (R221); else its header alone. -/
def slotUse (t : Tile) (f a : Nat) : Nat :=
  let len := leNat ((List.range 2).map (fun i => memByte t (a + 6 + i)))
  if slotBytes f < len + 16 then 16 else len + 16

/-- EXPAND (R222): a bad block faults before it is written; those before it stay written. -/
def opExpand (g : Nat) (w : Word) : TileM OpEnd := do
  faultIf (badM w || 8 < wFmt w) 1
  let n := wCount w
  if n = 0 then return .next
  let d ← pReg g (wD w)
  let a ← pReg g (wA w)
  let f := wFmt w
  let e := blockElems f
  let slots := (n + e - 1) / e
  faultIf (!inMem d (elemBytes f n) || !inMem (a + (slots - 1) * slotBytes f) 16) 2
  let t := tileOf (← get) g
  faultIf ((List.range slots).any (fun j => !inMem (a + j * slotBytes f) (slotUse t f (a + j * slotBytes f)))) 2
  for j in List.range slots do
    let src := a + j * slotBytes f
    let h ← readMem g src 16
    let len := leNat h / 2 ^ 48 % 2 ^ 16
    faultIf (slotBytes f < len + 16) 1
    let bs ← readMem g src (16 + len)
    match expandBlock bs with
    | none => throw 1
    | some (bf, xs) =>
      faultIf (bf != f || xs.length != slotCount f n j) 1
      writeElems g f (d + j * (e * fmtWidth f / 8)) xs
  pure .next

def execSpmm (t : TileId) (w : Word) (x : Upset) (s : State) : Host.Outcome State Fault Refusal := .next (runOp t w 0x18 (opSpmm t.gid w x) s)
def execBmap (t : TileId) (w : Word) (s : State) : Host.Outcome State Fault Refusal := .next (runOp t w 0x19 (opBmap t.gid w) s)
def execBpred (t : TileId) (w : Word) (s : State) : Host.Outcome State Fault Refusal := .next (runOp t w 0x1A (opBpred t.gid w) s)
def execCompact (t : TileId) (w : Word) (s : State) : Host.Outcome State Fault Refusal := .next (runOp t w 0x1B (opCompact t.gid w) s)
def execExpand (t : TileId) (w : Word) (s : State) : Host.Outcome State Fault Refusal := .next (runOp t w 0x1C (opExpand t.gid w) s)

end Sys2Proof.Machine
end

