-- ==== Sys2Proof/Machine/NetRecv.lean ====
section
/-! DEFINITION. What arrives over the edge ports: compressed payloads (R498, R220), acknowledgements and windows (R495),
answers to far accesses (R229, R265), congestion (R492), failed connections (R497, R501). -/
namespace Sys2Proof.Machine

/-! ### Payloads of a READ_RESP (R217, R219, R220, R498) -/

/-- One ingot of a compressed run: its dense bytes and what follows; none when it is malformed. -/
def expandIngot (bs : List Byte) : Option (List Byte × List Byte) :=
  let h := leNat (bs.take 16)
  let f := h % 16
  let w := fmtWidth f
  let nnz := h / 2 ^ 24 % 2 ^ 7
  let body := bs.drop 16
  if f < 3 || 7 < f then none
  else if h / 16 % 4 = 0 then
    if body.length < 8 * w then none else some (bs.take (16 + 8 * w), body.drop (8 * w))
  else if h / 16 % 4 = 3 then
    let em := leNat (body.take 8)
    let present := (List.range 64).map (Nat.testBit em)
    let k := (present.filter id).length
    let len := (8 + (w * k + 7) / 8 + 7) / 8 * 8
    if k ≠ nnz || body.length < len then none
    else
      let kept := unpackElems w k ((body.drop 8).take (len - 8))
      let es := (present.foldl (fun (r : List Nat × List Nat) b =>
        if b then (r.1 ++ [r.2.headD 0], r.2.drop 1) else (r.1 ++ [0], r.2)) ([], kept)).1
      some (bytesOf (h - nnz * 2 ^ 24 - 48 + 64 * 2 ^ 24) 16 ++ packElems w es, body.drop len)
  else none

/-- One compressed block of a run: its dense data and what follows. -/
def expandRunBlock (bs : List Byte) : Option (List Byte × List Byte) :=
  let len := leNat (bs.take 8) / 2 ^ 48 % 2 ^ 16
  (expandBlock (bs.take (16 + len))).map (fun x => (packElems (fmtWidth x.1) x.2, bs.drop (16 + len)))

/-- The items of a run until `tail` bytes are left. -/
def expandItems (form tail : Nat) : Nat → List Byte → Option (List Byte)
  | 0, _ => none
  | n + 1, bs =>
    if bs.length ≤ tail then (if bs.length = tail then some bs else none)
    else
      match (if form = 1 then expandIngot bs else expandRunBlock bs) with
      | none => none
      | some (d, rest) => (expandItems form tail n rest).map (d ++ ·)

/-- The dense bytes of a READ_RESP, none when its parts do not add up to the LEN asked for. -/
def expandPayload (form len : Nat) (k : CstPkt) : Option (List Byte) :=
  let head := k.addr % 2 ^ 16
  let tail := k.addr / 2 ^ 16 % 2 ^ 16
  let out :=
    if !k.comp then some k.payload
    else if k.payload.length < head || !(form == 1 || form == 2) then none
    else (expandItems form tail (k.payload.length + 1) (k.payload.drop head)).map (k.payload.take head ++ ·)
  match out with
  | some bs => if bs.length = len then some bs else none
  | none => none

/-! ### Answers to far accesses (R229, R265, R273, R497) -/

/-- A far access ends: 0 with its bytes, 1 as a page not present, 2 poisoned. -/
def finishFar (s : State) (id fail : Nat) (bs : List Byte) : State :=
  match s.tiers.far.find? (fun q => q.id == id) with
  | none => s
  | some q =>
    let s := { s with tiers := { s.tiers with far := s.tiers.far.filter (fun x => x.id != id) } }
    match q.what with
    | .tile g tag =>
      cresSend s q.cres { typ := tyReadResp, cls := 0, routed := true, dx := logX s g, dy := logY s g, tag, units := q.bytes,
                          sx := logX s g, sy := logY s g, payload := bs, poison := fail != 0 }
    | .stage unit off =>
      { s with tiers := { s.tiers with staged := s.tiers.staged ++ [{ page := q.page, unit, off, fail, data := bs }] } }
    | .copy n i page unit =>
      match s.tiers.copies.find? (fun c => c.page == page && c.q == n && c.idx == i && !c.ended) with
      | none => s
      | some c =>
        if fail = 0 then copyWrite s n i page c.dest unit bs
        else giveUpCopy s n i page (if fail = 2 then ST_DATA_POISON else ST_FAULT_PAGE)
    | .land n i page unit =>
      if fail = 0 then landUnit s page unit
      else if s.tiers.copies.any (fun c => c.page == page && c.q == n && c.idx == i && !c.ended) then
        giveUpCopy s n i page ST_FAULT_PAGE
      else s
    | .put dirty => if fail = 0 && dirty then setDirty s q.page q.unit else s

/-- Connections whose entry is being read from T2 are opened as it arrives. -/
def parseConn (w : List Byte) : Conn :=
  let at' := fun (o n : Nat) => leNat ((w.drop o).take n)
  { state := 1, kind := at' 0x14 1, form := at' 0x15 1, peer := beNat (w.take 16), udp := at' 0x10 2, peerConn := at' 0x12 2,
    rkey := at' 0x1C 4, qpns := (List.range 4).map (fun c => at' (0x20 + 4 * c) 4 % 2 ^ 24)
    tx := BitVec.ofNat 32 (at' 0x18 4), rxNext := BitVec.ofNat 32 (at' 0x18 4)
    qp := List.replicate 4 (at' 0x18 4 % 2 ^ 24) }

/-- PRT_CONN_CTRL.STATE shows the connection that CONN names. -/
def showConn (s : State) : State :=
  setF s F.PRT_CONN_CTRL_STATE 0 (connOf s (getF s F.PRT_CONN_CTRL_CONN 0)).state

/-- Queue pairs whose port has changed retransmit from their oldest unacknowledged packet (R501). -/
def rehome (s : State) : State :=
  (s.net.outst.filter (fun o => o.sent && (connOf s o.conn).kind == 1 && rocePort s o.conn o.cres != some o.port)).foldl resendOut s

/-- Read the entry of a connection and open it (R499); an entry in T2 is read first. -/
def openConn (s : State) (n : Nat) : State :=
  if (connOf s n).state = 1 then s
  else
    let r := portRead s ((rdReg s .PRT_CONN_BASE 0 0).toNat % 2 ^ 42 / 64 * 64 + 64 * n) 64
    let s := r.2.2
    if r.1 = 4 then { s with net := { s.net with opening := (n :: s.net.opening).eraseDups } }
    else
      let s := { s with net := { s.net with opening := s.net.opening.filter (· != n), rates := s.net.rates.filter (fun e => e.1 / 4 != n) } }
      if r.1 = 0 then rehome (showConn (setConn s n (parseConn r.2.1))) else s

/-- Units of the module that wait for bytes from T2 go on. -/
def resumeReads (s : State) : State := pumpAll (flushDescs (s.net.opening.foldl openConn s))

/-- Outstanding packets of a connection are abandoned: its reads end as for a page not present. -/
def abandonConn (s : State) (n : Nat) : State :=
  let gone := s.net.outst.filter (fun o => o.conn == n)
  let s := { s with net := { s.net with outst := s.net.outst.filter (fun o => o.conn != n) } }
  gone.foldl (fun s o => match o.far with | some id => finishFar s id 1 [] | none => s) s

/-- Members of a channel's collective that a hop to address `a` reaches (R502, R505). -/
def hopMembers (s : State) (x : Chan) (a : Nat) : List Nat :=
  x.live.filter (fun m => m != x.me &&
    (match s.net.ret.find? (fun e => e.1 == x.ranks.getD m 0) with
     | some e => ((e.2.drop 16).headD 0).toNat / 2 % 2 == 0 && beNat (e.2.take 16) == a
     | none => false))

/-- A hop has failed: the members behind it count as unreachable at once (R505, R326). -/
def hopLost (s : State) (n : Nat) : State :=
  match chanOf s (n % 16) with
  | none => s
  | some x =>
    (hopMembers s x ((n - 16384) / 16)).foldl (fun s m =>
      if x.waits.any (fun w => w.member == m) && !(pendingExcl s x).contains m then declareFailed s (n % 16) m 3 else s) s

/-- A connection or queue-pair group fails (R497, R501): 0 retries, 1 NAK, 2 remote access error. -/
def failConn (s : State) (n reason nak : Nat) : State :=
  if (connOf s n).state ≠ 1 then s
  else
    let s := showConn (modConn s n (fun c => { c with state := 2 }))
    let s := sendRec s .port 0 0x3401 ((if isHop n then 0xFFF0 + n % 16 else n) + reason * 2 ^ 16) nak
    let s := rehome (abandonConn s n)
    if isHop n then hopLost s n else resumeReads s

/-- Close a connection: its state is discarded (R499). -/
def closeConn (s : State) (n : Nat) : State :=
  if (connOf s n).state = 0 then s
  else resumeReads (rehome (showConn (setConn (abandonConn s n) n {})))

/-! ### Congestion (R492) -/

def rateKey (n c : Nat) : Nat := 4 * n + c
def rateOf (s : State) (k : Nat) : Rate := getD s.net.rates k {}
def setRate (s : State) (k : Nat) (r : Rate) : State := { s with net := { s.net with rates := put s.net.rates k r {} } }

/-- Line rate of a port mode in bytes per second (R484). -/
def modeRate (m : Nat) : Nat := match m with | 0 => 200000000000 | 1 => 100000000000 | _ => 50000000000

/-- The line rate of a connection: the fastest mode of a port in service (log entry 27). -/
def lineRate (s : State) : Nat :=
  ((List.range 32).filter (portUp s)).foldl (fun r p => max r (modeRate (getI s F.PRT_EPORT_CFG_MODE 0 p))) 0

/-- A congestion notification: the limit is halved, at most once in 50 µs. -/
def notify (s : State) (k : Nat) : State :=
  let r := rateOf s k
  let r := { r with noted := s.now }
  match r.cut with
  | some t =>
    if s.now - t < 5000 then setRate s k r
    else setRate s k { r with limit := some (r.limit.getD (lineRate s) / 2), cut := some s.now }
  | none => setRate s k { r with limit := some (r.limit.getD (lineRate s) / 2), cut := some s.now }

/-- A packet with CE set: the peer is told, at most once in 50 µs for each connection. -/
def tellPeer (s : State) (p k : Nat) (x : Frame) : State :=
  let r := rateOf s k
  match r.told with
  | some t => if s.now - t < 5000 then s else sendFrame (setRate s k { r with told := some s.now }) p 0 x
  | none => sendFrame (setRate s k { r with told := some s.now }) p 0 x

/-! ### Receiving CST (R494, R495) -/

/-- The connection or hop that a packet belongs to (R493, R505). -/
def rxKey (k : CstPkt) : Nat := if 0xFFF0 ≤ k.conn then hopKey k.src (k.conn % 16) else k.conn % 16384

/-- A packet that the port accepts: it is in service, and the packet is whole (R490, R494). -/
def cstIn (s : State) (p : Nat) (k : CstPkt) (f : State → State) : State :=
  if !portUp s p then s
  else if !k.good then countI s F.PRT_EPORT_STAT_BAD 0 p 1
  else
    let n := rxKey k
    f (if k.ce && (connOf s n).state == 1 then tellPeer s p (rateKey n 0) (.cst (cstTo s n 6)) else s)

/-- Sequenced packets that ACK_PSN or the bitmap acknowledges leave (R495); a write that has landed is finished. -/
def acked (s : State) (n : Nat) (a : W32) (bitmap : List Nat) : State :=
  let seqd := fun (o : NetOut) => o.sent && o.conn == n && (match o.kind with | .read => false | _ => true)
  let here := fun (o : NetOut) => (a - o.psn).toNat < 2 ^ 31 || bitmap.contains (o.psn - a - 1).toNat
  let gone := s.net.outst.filter (fun o => seqd o && here o)
  let s := { s with net := { s.net with outst := s.net.outst.filter (fun o => !(seqd o && here o)) } }
  let s := gone.foldl (fun s o => match o.far with | some id => finishFar s id 0 [] | none => s) s
  (s.net.outst.filter (fun o => seqd o && 3 ≤ (bitmap.filter (fun b => (o.psn - a - 1).toNat < b)).length)).foldl resendOut s

/-- The selective bitmap: PSNs received above ACK_PSN + 1 (R494, R495). -/
def bitmapOf (c : Conn) : List Nat := (c.rxGot.map (fun x => (x - c.rxNext).toNat)).filter (· < 256)

/-- Send an ACK; a port of the crescent of the hop carries it. -/
def sendAck (s : State) (n : Nat) : State :=
  let r := pickPort s (if isHop n then n % 4 else 0) (2 * (2 ^ 50 + n))
  let s := modConn r.2 n (fun c => { c with fresh := 0, ackAt := none })
  match r.1 with
  | some p => sendFrame s p 0 (.cst { cstTo s n 4 with bitmap := bitmapOf (connOf s n) })
  | none => s

/-- Advance over the PSNs received in order. -/
def advanceRx (c : Conn) : Nat → Conn
  | 0 => c
  | k + 1 => if c.rxGot.contains c.rxNext then advanceRx { c with rxGot := c.rxGot.filter (· != c.rxNext), rxNext := c.rxNext + 1 } k else c

/-- A sequenced packet arrives: is it new, and the receiver's state after it (R495). -/
def recvSeq (s : State) (n : Nat) (psn : W32) (ackreq : Bool) : Bool × State :=
  let c := connOf s n
  let d := (psn - c.rxNext).toNat
  if d < 1024 && !c.rxGot.contains psn then
    let s := setConn s n (advanceRx { c with rxGot := c.rxGot ++ [psn], fresh := c.fresh + 1, ackAt := some (c.ackAt.getD s.now) } 1024)
    (true, if ackreq || 8 ≤ (connOf s n).fresh then sendAck s n else s)
  else if 2 ^ 31 ≤ d || c.rxGot.contains psn then (false, sendAck s n)
  else (false, s)

/-! ### C1 input buffers (R491) -/

/-- Bytes of pennant DATA in a port's input buffer: not taken yet, or whose blocks no adder has consumed (R294). -/
def c1Fill (s : State) (p : Nat) : Nat :=
  let here := fun (v : Via) (n : Nat) => match v with | .edge q _ _ => if q = p then n else 0 | _ => 0
  (s.coll.arrived.map (fun e => if e.1.kind = 1 then here e.2 e.1.payload.length else 0)).sum +
    ((s.coll.adders.flatMap (fun a => a.2.credits (fun _ _ => true))).map (fun k => k.elim 0 (fun k => here k.1 k.2))).sum

/-- Pause or release the C1 priority towards the peer of port `p`. -/
def pfcCheck (s : State) (p : Nat) : State :=
  let e := getD s.net.ports p {}
  let set := fun (b : Bool) =>
    sendFrame { s with net := { s.net with ports := put s.net.ports p { e with pausing := b } {} } } p 1 (.pfc b)
  if !portUp s p then s
  else if !e.pausing && 786432 < c1Fill s p then set true
  else if e.pausing && c1Fill s p < 524288 then set false
  else s

end Sys2Proof.Machine
end

