-- ==== Sys2Proof/Machine/Surface.lean ====
section
/-! DEFINITION. The rows of the surface ports (R506 to R515): sublinks, bindings of cross-module streams, the detour, and
return-loss inspection. -/
namespace Sys2Proof.Machine

/-- The gateway tile of sublink `k` of field `f` (R506). -/
def gateway (s : State) (f k : Nat) : Option Nat := tileAt s (24 * (f % 8) + 3 * k + 1) (28 * (f / 8) + 14)

def bindOf (s : State) (f j : Nat) : Bind := getD s.net.binds (f * 16 + j) {}
def setBind (s : State) (f j : Nat) (b : Bind) : State := { s with net := { s.net with binds := put s.net.binds (f * 16 + j) b {} } }

/-- A slot holds 512 KiB: 8,192 units. -/
def slotUnits : Nat := 8192
def unitsOf (bs : List Byte) : Nat := (bs.length + 63) / 64

/-! ### The TX engine (R509, R510) -/

/-- The surface packet of a part of a transfer. -/
def txPacket (s : State) (f j tseq : Nat) (x : Nat × Bool × List Byte) : SurfPkt :=
  { kind := 1, bind := getI s F.OPT_BIND_REMOTE_BIND f j, last := x.2.1, tseq, offset := x.1, payload := x.2.2 }

/-- The TX engine takes a packet of its binding, when it has a slot for the transfer. -/
def txTake (s : State) (f j : Nat) (p : Packet) : Option State :=
  let b := bindOf s f j
  if getI s F.OPT_BIND_VALID_TX f j = 0 then some s
  else
    match b.tx.find? (fun x => x.tseq == p.tag) with
    | none => if 2 ≤ b.tx.length then none else some (store (setBind s f j { b with tx := b.tx ++ [{ tseq := p.tag }] }))
    | some _ => some (store s)
where
  /-- Keep the packet and send it; what lies beyond 512 KiB is discarded and the transfer counted once. -/
  store (s : State) : State :=
    let b := bindOf s f j
    let mod := fun (g : Slot → Slot) (s : State) =>
      setBind s f j { b with tx := b.tx.map (fun x => if x.tseq = p.tag then g x else x) }
    if slotUnits < p.addr + unitsOf p.payload then
      let seen := b.tx.any (fun x => x.tseq == p.tag && x.cut)
      mod (fun x => { x with cut := true }) (if seen then s else countF s F.OPT_ERR_OVERSIZE f 1)
    else
      let part := (p.addr, p.last, p.payload)
      sendSurf (mod (fun x => { x with parts := x.parts ++ [part] }) s) f (j / 2) (txPacket s f j p.tag part)

/-- The TX engine resends from its slots (R512). -/
def txResend (s : State) (f j : Nat) : State :=
  (bindOf s f j).tx.foldl (fun s x => x.parts.foldl (fun s y => sendSurf s f (j / 2) (txPacket s f j x.tseq y)) s) s

/-- One count to the sending tile's counter by an event-increment packet from the gateway (R510). -/
def creditTile (s : State) (f j : Nat) : State :=
  match gateway s f (j / 2) with
  | some g => inject s g { typ := tyIncr, cls := 0, routed := true, dx := getI s F.OPT_BIND_SRC_X f j, dy := getI s F.OPT_BIND_SRC_Y f j,
                           addr := getI s F.OPT_BIND_SRC_EV f j, amount := 1 }
  | none => s

/-- OPT_BIND_j changes: VALID_TX becoming 1 gives two credits, VALID_RX becoming 1 starts the count of transfers (R510). -/
def bindChanged (s : State) (f j : Nat) (old : Word) : State :=
  let new := rdReg s .OPT_BIND f j
  let s := if getBits old 0 1 = 0 && getBits new 0 1 = 1 then
      creditTile (creditTile (setBind s f j { bindOf s f j with tx := [] }) f j) f j else s
  if getBits old 1 1 = 0 && getBits new 1 1 = 1 then setBind s f j { bindOf s f j with rx := [], landed := 0 } else s

/-- A reset of a gateway tile sets the transfer counts of its bindings to 0 (R510). -/
def gatewayReset (s : State) (g : Nat) : State :=
  let f := g / 700
  (List.range 8).foldl (fun s k =>
    if gateway s f k = some g then
      [2 * k, 2 * k + 1].foldl (fun s j => setBind s f j { bindOf s f j with landed := 0 }) s
    else s) s

/-! ### The RX engine (R510, R511) -/

/-- Stream data of binding `j` of field `f` lands at its OFFSET; an offset already held is discarded (R512). -/
def landStream (s : State) (f j : Nat) (x : SurfPkt) : State :=
  let b := bindOf s f j
  let b := if b.rx.any (fun y => y.tseq == x.tseq) then b
           else if b.rx.length < 2 then { b with rx := b.rx ++ [{ tseq := x.tseq }] } else b
  if slotUnits < x.offset + unitsOf x.payload then s
  else setBind s f j { b with rx := b.rx.map (fun y =>
    if y.tseq = x.tseq ∧ !(y.parts.any (fun z => z.1 == x.offset)) then { y with parts := y.parts ++ [(x.offset, x.last, x.payload)] } else y) }

/-- The TX binding of sublink `k` whose transfers the peer's binding `r` receives. -/
def txBinding (s : State) (f k r : Nat) : Option Nat :=
  [2 * k, 2 * k + 1].find? (fun j => getI s F.OPT_BIND_VALID_TX f j == 1 && getI s F.OPT_BIND_REMOTE_BIND f j == r)

/-- A landing credit (R510): the slot is free, and the sending tile gets its count. -/
def landingCredit (s : State) (f k : Nat) (x : SurfPkt) : State :=
  match txBinding s f k x.bind with
  | some j =>
    let b := bindOf s f j
    if b.tx.any (fun y => y.tseq == x.tseq) then
      creditTile (setBind s f j { b with tx := b.tx.filter (fun y => y.tseq != x.tseq) }) f j
    else s
  | none => s

/-- SURFACE_PACKET_RECEIVE (R507, R508, R511, R512). -/
def opSurfaceReceive (f k : Nat) (x : SurfPkt) (s : State) : State :=
  if !subActive s f k then s
  else if !x.good then countLink (countF s F.OPT_ERR_REPLAYS f 1) (32 + f) 0 1
  else
    let s := if x.credits = 0 then s else returnCredits s f k (x.credClass % 3) x.credits
    let own := if x.detour then f ^^^ 1 else f
    match x.kind with
    | 1 =>
      let s := creditFlit s f k 2
      if getI s F.OPT_BIND_VALID_RX own x.bind = 0 || x.bind / 2 ≠ k then countF s F.OPT_ERR_BIND f 1 else landStream s own x.bind x
    | 4 => landingCredit (creditFlit s f k 0) own k x
    | _ =>
      match x.kind == 2 || x.kind == 3, x.penn with
      | true, some p => { s with coll := { s.coll with arrived := s.coll.arrived ++ [({ p with payload := x.payload }.onWire, .surface f k)] } }
      | _, _ => s

/-- A landed transfer has every packet up to LAST. -/
def Slot.whole (x : Slot) : Bool :=
  match x.parts.find? (fun y => y.2.1) with
  | some y => (x.parts.map (fun z => unitsOf z.2.2)).sum == y.1 + unitsOf y.2.2
  | none => false

/-- Packets in order of their offsets. -/
def Slot.inOrder (x : Slot) : List (Nat × Bool × List Byte) := x.parts.mergeSort (fun a b => a.1 ≤ b.1)

/-- RX_INJECT (R510). -/
def opRxInject (f j : Nat) (s : State) : State :=
  let b := bindOf s f j
  match b.rx, gateway s f (j / 2) with
  | x :: rest, some g =>
    let room := (getD (tileOf s g).e (14 + j % 2) 0 - (b.landed + 1)).toNat < 2 ^ 31
    if getI s F.OPT_BIND_VALID_RX f j = 1 && x.whole && room then
      let stream := getI s F.OPT_BIND_RX_STREAM f j
      let cls := getI s F.TIL_ROUTE_CLASS g stream
      let s := x.inOrder.foldl (fun s y => inject s g { typ := tyStream, cls, routed := false, last := y.2.1, stream, addr := y.1,
                                                        tag := x.tseq, payload := y.2.2 }) s
      sendSurf (setBind s f j { b with rx := rest, landed := b.landed + 1 }) f (j / 2) { kind := 4, bind := j, tseq := x.tseq }
    else s
  | _, _ => s

/-! ### Training, loss and the detour (R507, R512 to R514) -/

/-- DETOUR shows whether the partner's engine carries the sublink. -/
def showDetour (s : State) (f k : Nat) : State :=
  setI s F.OPT_SUB_DETOUR f k (if subCarrier s f k = some (f ^^^ 1) then 1 else 0)

/-- NO_DETOUR where the identities of sublink `k` of both partners do not meet the cabling rule (R513). -/
def cabling (s : State) (f k : Nat) : State :=
  let g := f ^^^ 1
  let u := rdReg s .OPT_PEER f k
  let v := rdReg s .OPT_PEER g k
  if u = 0 || v = 0 then s
  else
    let sub := fun (h : Nat) => getI s F.OPT_SUB_PEER_SUB h k
    let port := fun (h : Nat) => getI s F.OPT_SUB_PEER_PORT h k
    let ok := u == v && port f ^^^ 1 == port g && sub f == k && sub g == k
    let bit := if ok then 0 else 1
    setI (setI s F.OPT_SUB_NO_DETOUR f k bit) F.OPT_SUB_NO_DETOUR g k bit

/-- The streams of sublink `k` of field `f` go on over its present carrier (R512). -/
def resendSub (s : State) (f k : Nat) : State := txResend (txResend s f (2 * k)) f (2 * k + 1)

/-- Packets that waited for a sublink leave over its carrier, stream data from its slots. -/
def flushSub (s : State) (f k : Nat) : State :=
  let w := (subOf s f k).waiting.filter (fun x => x.kind != 1)
  let s := setSub s f k { subOf s f k with waiting := [] }
  resendSub (w.foldl (fun s x => sendSurf s (if x.detour then f ^^^ 1 else f) k x) s) f k

/-- Record 0x1005 when all eight sublinks of a port are lost, and when the port returns. -/
def portCheck (s : State) (f : Nat) : State :=
  let lost := (List.range 8).all (fun k => !subActive s f k)
  let was := getD s.net.portLost f false
  if lost = was then s
  else
    let s := { s with net := { s.net with portLost := put s.net.portLost f lost false } }
    sendRec (countLink s (32 + f) (if lost then 1 else 0) 0) (.field f) 0 0x1005 (f + if lost then 0 else 2 ^ 31) 0

/-- A sublink is lost. -/
def loseSub (s : State) (f k : Nat) : State :=
  let g := f ^^^ 1
  let s := setI (setI s F.OPT_SUB_STATE f k 0) F.OPT_SUB_HALF f k 0
  let s := sendRec s (.field f) 0 0x3402 (f + k * 2 ^ 8) (rdReg s .OPT_PEER f k).toNat
  let s := setSub s f k { subOf s f k with used := [0, 0, 0], out := [], wasLost := true }
  let s := showDetour (showDetour s f k) g k
  portCheck (resendSub (flushSub s f k) g k) f

/-- SUBLINK_TRAINING (R507, R513, R514). -/
def opSubTraining (f k : Nat) (e : TrainEnd) (x : PeerId) (s : State) : State :=
  if subActive s f k || !inService s f then s
  else
    match e with
    | .noMode => s
    | .testFail => sendRec s (.field f) 0 0x3402 (f + k * 2 ^ 8 + 2 ^ 30) (rdReg s .OPT_PEER f k).toNat
    | .up =>
      let was := (subOf s f k).wasLost
      let s := setI (setI s F.OPT_SUB_STATE f k 4) F.OPT_SUB_HALF f k (if x.half then 1 else 0)
      let s := setI (setI s F.OPT_SUB_PEER_PORT f k x.port) F.OPT_SUB_PEER_SUB f k x.sub
      let s := cabling (wrReg s .OPT_PEER f k x.unitId) f k
      let s := if was then sendRec s (.field f) 0 0x3402 (f + k * 2 ^ 8 + 2 ^ 31) x.unitId.toNat else s
      let s := setSub s f k { subOf s f k with used := [0, 0, 0], out := [], wasLost := false }
      let s := { s with net := { s.net with measureDue := put s.net.measureDue f true false } }
      let s := showDetour (showDetour s f k) (f ^^^ 1) k
      let s := flushSub s f k
      portResetDone (portCheck (if getI s F.OPT_SUB_DETOUR (f ^^^ 1) k = 1 then flushSub s (f ^^^ 1) k else s) f) 1 f

/-- SUBLINK_LOSS (R481, R512). -/
def opSubLoss (f k : Nat) (s : State) : State :=
  if getI s F.OPT_SUB_STATE f k = 0 then s else loseSub s f k

/-! ### Return loss (R515) -/

/-- One fibre's measurement. -/
def measureFibre (f : Nat) (s : State) (e : FibreRead × Nat) : State :=
  let rl := max 40 (min 130 e.1.rl)
  let thresh := getF s F.OPT_RL_CFG_THRESH f
  let s := setI (setI s F.OPT_RL_RL f e.2 rl) F.OPT_RL_RX_POWER f e.2
    (if e.2 < 16 then 0 else e.1.power.toNat)
  if rl < thresh then
    if getI s F.OPT_RL_DIRTY f e.2 = 1 then s
    else sendRec (setI s F.OPT_RL_DIRTY f e.2 1) (.field f) 0 0x3400 (f + e.2 * 2 ^ 8) rl
  else if thresh + 4 ≤ rl then setI s F.OPT_RL_DIRTY f e.2 0
  else s

/-- A measurement of every fibre. -/
def measure (f : Nat) (m : List FibreRead) (s : State) : State :=
  let s := { s with net := { s.net with measuredAt := put s.net.measuredAt f s.now 0
                                        measureDue := put s.net.measureDue f false false } }
  ((m.take 32).zipIdx).foldl (measureFibre f) s

/-- RETURN_LOSS_MEASURE: after a training, each OPT_RL_CFG.PERIOD seconds, and after a write of NOW. -/
def opReturnLoss (f : Nat) (m : List FibreRead) (s : State) : State :=
  let period := getF s F.OPT_RL_CFG_PERIOD f
  let due := getD s.net.measureDue f false || (period != 0 && period * 100000000 ≤ s.now - getD s.net.measuredAt f 0)
  if inService s f && due then measure f m s else s

/-- A write of OPT_RL_CFG.NOW asks for a measurement. -/
def askMeasure (f : Nat) (s : State) : State := { s with net := { s.net with measureDue := put s.net.measureDue f true false } }

/-- NOW: the write and the measurement it starts at once. -/
def opNow (f : Nat) (m : List FibreRead) (s : State) : State := if inService s f then measure f m s else s

/-- A warm restart empties the slots and the counts of transfers (R516). -/
def surfWarm (s : State) : State :=
  { s with net := { s.net with binds := [], subs := s.net.subs.map (fun e => (e.1, { e.2 with waiting := [], out := [] })) } }

def execSurfacePacketReceive (f : Fin 48) (k : Fin 8) (x : SurfPkt) (s : State) : Host.Outcome State Fault Refusal := .next (opSurfaceReceive f k x s)
def execRxInject (f : Fin 48) (j : Fin 16) (s : State) : Host.Outcome State Fault Refusal := .next (opRxInject f j s)
def execSublinkTraining (f : Fin 48) (k : Fin 8) (e : TrainEnd) (x : PeerId) (s : State) : Host.Outcome State Fault Refusal := .next (opSubTraining f k e x s)
def execSublinkLoss (f : Fin 48) (k : Fin 8) (s : State) : Host.Outcome State Fault Refusal := .next (opSubLoss f k s)
def execReturnLossMeasure (f : Fin 48) (m : List FibreRead) (s : State) : Host.Outcome State Fault Refusal := .next (opReturnLoss f m s)
def execOptNow (f : Fin 48) (m : List FibreRead) (s : State) : Host.Outcome State Fault Refusal := .next (opNow f m s)

end Sys2Proof.Machine
end

