-- ==== Sys2Proof/Machine/Loss.lean ====
section
/-! DEFINITION. The loss of a field (R399 to R406): its links, its state, what it hosted, and the incident. -/
namespace Sys2Proof.Machine

/-! ### Links declared down (R84) -/

/-- A router declares the link at one of its ports down: flits queued for it are discarded and counted, and the field sends
a record. -/
def linkDown (s : State) (g : Nat) (p : Port) (flits : Nat) : State :=
  if (tileOf s g).down.getLsbD p.num then s
  else
    let s := modTile s g (fun t => { t with down := t.down ||| BitVec.ofNat 4 (2 ^ p.num) })
    let s := setF s F.TIL_ERR_LINK_DOWN g (getF s F.TIL_ERR_LINK_DOWN g ||| 2 ^ p.num)
    let s := countF s F.FLD_ELOG_DISC_LINK_FLITS (g / 700) flits
    sendRec s (.tile g) 0 0x0201 p.num flits

/-! ### Flits at a router input (R78, R79) -/

/-- Flits of a packet that every output it goes to has taken. -/
def InPkt.sent (x : InPkt) : Nat :=
  match x.outs with
  | [] => 0
  | o :: os => os.foldl (fun m e => min m e.2) o.2

/-- The outputs inside the router (the local port, and the discard of R568) take each flit as it arrives. -/
def InPkt.drain (x : InPkt) : InPkt := { x with outs := x.outs.map (fun o => if 4 ≤ o.1 then (o.1, x.arr) else o) }

/-- What an input holds. -/
def inputOf (s : State) (g k : Nat) : List InPkt := getD (tileOf s g).input k []
def setInput (s : State) (g k : Nat) (xs : List InPkt) : State := modTile s g (fun t => { t with input := put t.input k xs [] })

/-- Flits in an input's buffer. -/
def inputFlits (s : State) (g k : Nat) : Nat := ((inputOf s g k).map (fun x => x.arr - x.sent)).sum

/-- The first packet of an input moves on: what has arrived for the tile is known to the local port, and a packet whose last flit has
left frees the input. The op that sent it may have retired with it (R62). -/
def drainHead (s : State) (g k : Nat) : State :=
  match inputOf s g k with
  | [] => s
  | x :: xs =>
    let x := x.drain
    let s := if x.outs.any (·.1 == 4) then
        modTile s g (fun t => { t with localIn := t.localIn.map (fun y =>
          if y.src = k / 4 ∧ y.pkt.cls = k % 4 ∧ y.arr < y.pkt.size then { y with arr := x.arr } else y) })
      else s
    let s := setInput s g k (if x.sent = x.pkt.size then xs else x :: xs)
    if k / 4 = 4 then progress s g else s

/-- The first packet of an input has sent `n` flits at output `o`. -/
def noteSent (s : State) (g k o n : Nat) : State :=
  match inputOf s g k with
  | [] => s
  | x :: xs => drainHead (setInput s g k ({ x with outs := x.outs.map (fun e => if e.1 = o then (o, n) else e) } :: xs)) g k

/-- The input of router `h` whose first packet goes out at output `o` in class `vc`. -/
def sourceKey (s : State) (h o vc : Nat) : Option Nat :=
  ((List.range 5).map (fun p => p * 4 + vc)).find? (fun k =>
    match inputOf s h k with | x :: _ => x.outs.any (·.1 == o) | [] => false)

/-- A packet that has arrived in part and of which no more will come is discarded, on every link it has gone on to. -/
def dropPart : Nat → State → Nat → Nat → State
  | 0, s, _, _ => s
  | n + 1, s, g, k =>
    match (inputOf s g k).getLast? with
    | none => s
    | some x =>
      if x.pkt.size ≤ x.arr then s
      else
        let s := setInput s g k (inputOf s g k).dropLast
        x.outs.foldl (fun s o =>
          if 4 ≤ o.1 then
            modTile s g (fun t => { t with localIn := t.localIn.filter (fun y => !(y.src == k / 4 && y.pkt.cls == k % 4 && y.arr < y.pkt.size)) })
          else
            match neighbour s g (portOf o.1) with
            | none => modTile s g (fun t => { t with cresWire := erase t.cresWire (o.1 * 4 + k % 4) })
            | some h =>
              let j := (portOf o.1).opposite.num * 4 + k % 4
              dropPart n (modTile s h (fun t => { t with wire := erase t.wire j })) h j) s

/-- The flits on the link into port `p` are discarded, and what had arrived of their packets. -/
def clearWire (s : State) (g : Nat) (p : Port) : State :=
  (List.range 4).foldl (fun s vc =>
    let k := portKey p vc
    let s := if (getD (tileOf s g).wire k []).isEmpty then s else dropPart 400 s g k
    modTile s g (fun t => { t with wire := erase t.wire k })) s

/-- Packets on their way out of router `g` at output `o` send no more there. -/
def closeOut (s : State) (g o : Nat) : State :=
  (List.range 4).foldl (fun s vc =>
    match sourceKey s g o vc with
    | some k => (match inputOf s g k with | x :: _ => noteSent s g k o x.pkt.size | [] => s)
    | none => s) s

/-- Flits that a link still has to deliver into port `p` of tile `g`. -/
def wireFlits (s : State) (g : Nat) (p : Port) : Nat :=
  ((List.range 4).flatMap (fun vc => (getD (tileOf s g).wire (portKey p vc) []).map (fun w => w.pkt.size - w.got))).sum

/-- The positions around the logical rectangle of field `f`, each with the port that faces the field. -/
def facing (f : Nat) : List (Nat × Nat × Port) :=
  let x0 := 24 * (f % 8)
  let y0 := 28 * (f / 8)
  (if 0 < y0 then (List.range 24).map (fun i => (x0 + i, y0 - 1, Port.s)) else []) ++
    (if y0 < 140 then (List.range 24).map (fun i => (x0 + i, y0 + 28, Port.n)) else []) ++
    (if 0 < x0 then (List.range 28).map (fun i => (x0 - 1, y0 + i, Port.e)) else []) ++
    (if x0 < 168 then (List.range 28).map (fun i => (x0 + 24, y0 + i, Port.w)) else [])

/-- The routers that face field `f` declare their links down (R399). -/
def faceDown (s : State) (f : Nat) : State :=
  (facing f).foldl (fun s q =>
    match tileAt s q.1 q.2.1 with
    | some g =>
      if inService s (g / 700) then
        let s := linkDown s g q.2.2 (match neighbour s g q.2.2 with | some h => wireFlits s h q.2.2.opposite | none => 0)
        clearWire (closeOut s g q.2.2.num) g q.2.2
      else s
    | none => s) s

/-- When a field returns, the links into it come up again: the routers that face it send again. -/
def faceUp (s : State) (f : Nat) : State :=
  (facing f).foldl (fun s q =>
    match tileAt s q.1 q.2.1 with
    | some g => modTile s g (fun t => { t with down := t.down &&& ~~~(BitVec.ofNat 4 (2 ^ q.2.2.num)) })
    | none => s) s

/-! ### Work that a set of tiles leaves behind -/

/-- Tiles lost or reset count as reset for the RUNs in flight (R462; log entry 30). -/
def leaveRuns (s : State) (gone : Nat → Bool) : State :=
  let s := { s with cmd := { s.cmd with queues := s.cmd.queues.map (fun e => (e.1, { e.2 with runs := e.2.runs.map (fun j =>
    if j.left.any gone then { j with left := j.left.filter (fun g => !gone g), anyReset := true } else j) })) } }
  finishRuns s

/-- A pour's rectangle meets another. -/
def Rect.meets (a b : Rect) : Bool := a.x < b.x + b.w && b.x < a.x + a.w && a.y < b.y + b.h && b.y < a.y + a.h

/-- The logical rectangle of field `f` (R12). -/
def fieldRect (f : Nat) : Rect := { x := 24 * (f % 8), y := 28 * (f / 8), w := 24, h := 28 }

/-- Pours that target tiles of a lost field halt with the moulds that lost them (R139, R384). -/
def haltRect (s : State) (r : Rect) : State :=
  (List.range 4).foldl (fun s c =>
    (unitOf s c).pours.foldl (fun s p =>
      if p.state ≤ 2 && p.rect.meets r then haltPour s c p 3 0 0 else s) s) s

/-- The contexts whose RUNs cover a tile: GLB_CQ_CFG_n.CTX of their queues (R384, R332). -/
def contextsOf (s : State) (on : Nat → Bool) : List Nat :=
  (s.cmd.queues.filterMap (fun e =>
    if e.2.runs.any (fun j => j.tiles.any on) then some (getI s F.GLB_CQ_CFG_CTX 0 e.1) else none)).eraseDups

/-- The contexts of key `k` that no other incident holds. -/
def ownHeld (m : Assoc (List Nat)) (k : Nat) : List Nat :=
  (getD m k []).filter (fun c => m.all (fun e => e.1 == k || !e.2.contains c))

/-- Collectives of the contexts of tiles hold (R332), for the incident of key `k`. -/
def holdFor (s : State) (k : Nat) (on : Nat → Bool) : State :=
  let cs := contextsOf s on
  let s := cs.foldl holdContext s
  { s with recov := { s.recov with heldCtx := put s.recov.heldCtx k ((getD s.recov.heldCtx k [] ++ cs).eraseDups) [] } }

/-- The holds of the incident of key `k` end. -/
def endHeld (s : State) (k : Nat) : State :=
  let cs := ownHeld s.recov.heldCtx k
  let s := { s with recov := { s.recov with heldCtx := erase s.recov.heldCtx k } }
  cs.foldl endHolds s

/-- An incident that absorbs another takes its holds over. -/
def moveHeld (s : State) (k : Nat) : State :=
  let m := s.recov.heldCtx
  { s with recov := { s.recov with heldCtx := put (erase m 0) k ((getD m k [] ++ getD m 0 []).eraseDups) [] } }

/-- Requests admitted and not completed whose entry tile lies in one of the rectangles are kept (R403). -/
def keepRequests (s : State) (rs : List Rect) : State :=
  { s with cmd := { s.cmd with queues := s.cmd.queues.map (fun e =>
      if rs.any (fun r => r.has (getI s F.GLB_CQ_ENTRY_X 0 e.1) (getI s F.GLB_CQ_ENTRY_Y 0 e.1)) then
        (e.1, { e.2 with requests := e.2.requests.map (fun x => if x.kept = 0 then { x with kept := 1 } else x) })
      else e) } }

/-! ### The incident of a field loss (R381, R401, R405) -/

/-- The slots whose layout placed a tile in field `f`. -/
def slotsIn (s : State) (f : Nat) : List ImgSlot := (s.slots.filter (fun e => e.2.fields.contains f)).map (·.2)

/-- The moulds that a loss of field `f` fences (R401). -/
def lossMoulds (s : State) (f : Nat) : List Rect := (slotsIn s f).flatMap (·.moulds)

/-- Open the incident of a field loss; `old` is the tile incident that it absorbs. -/
def openLoss (s : State) (f cause : Nat) (old : Option Incident) : State :=
  let rs := lossMoulds s f
  let tiles := ((rs.flatMap (rectTiles s)).filter (fun g => inService s (g / 700))).eraseDups
  let had := match old with | some i => i.fenced.filter (fun g => inService s (g / 700)) | none => []
  let new := tiles.filter (fun g => !had.contains g)
  let s := openIncident s (.field f cause) (had ++ new) (match old with | some i => i.absorbed | none => 0)
  let s := { s with recov := { s.recov with
      fencePkts := s.recov.fencePkts.filter (fun g => !had.contains g || (getF s F.TIL_STATUS_FENCED g == 0))
      incident := s.recov.incident.map (fun i => { i with
        tiles := match old with | some j => j.tiles + 1 | none => 0
        reserve := (slotsIn s f).isEmpty }) } }
  keepRequests s rs

/-- The open incident of a lost field causes the loss of field `f`: a neighbour that finds no clock source, or whose seam link to it
has failed (R381; log entry 134). -/
def causesLoss (inc : Incident) (f cause : Nat) : Bool :=
  match inc.what with
  | .field h _ => (cause == 3 || cause == 6) && (neighbours h).contains f
  | _ => false

/-- Such a loss joins the incident: its moulds are fenced and its holds kept with it (R381). -/
def joinLoss (s : State) (inc : Incident) (f : Nat) : State :=
  let rs := lossMoulds s f
  let new := ((rs.flatMap (rectTiles s)).filter (fun g => inService s (g / 700) && !inc.fenced.contains g)).eraseDups
  let k := holdKey inc.what
  let m := s.recov.heldCtx
  keepRequests { s with recov := { s.recov with
    incident := some { inc with fenced := inc.fenced ++ new }
    fencePkts := s.recov.fencePkts ++ new
    heldCtx := put (erase m (f + 1)) k ((getD m k [] ++ getD m (f + 1) []).eraseDups) [] } } rs

/-- The sequencer's part of a field loss: it absorbs an open tile incident, joins the incident that caused it, and waits behind any
other (R381). -/
def lossIncident (s : State) (f cause : Nat) : State :=
  match s.recov.incident with
  | none => openLoss s f cause none
  | some inc =>
    match inc.what with
    | .tile .. =>
      let s := resumeTimers s inc.since
      openLoss (moveHeld { s with recov := { s.recov with incident := none } } (f + 1)) f cause (some inc)
    | _ =>
      if causesLoss inc f cause then joinLoss s inc f else { s with recov := { s.recov with waiting := s.recov.waiting ++ [.field f cause] } }

/-- The module fences every mould image and holds its work (R386, R409): no further command starts. -/
def holdAll (s : State) (cause unit : Nat) : State :=
  let rs := s.slots.flatMap (fun e => e.2.moulds)
  let tiles := ((rs.flatMap (rectTiles s)).filter (fun g => inService s (g / 700))).eraseDups
  let s := { s with recov := { s.recov with holding := true } }
  match s.recov.incident with
  | none => openIncident s (.whole cause unit) tiles 0
  | some inc =>
    let new := tiles.filter (fun g => !inc.fenced.contains g)
    { s with recov := { s.recov with
        waiting := s.recov.waiting ++ [.whole cause unit]
        incident := some { inc with fenced := inc.fenced ++ new }
        fencePkts := s.recov.fencePkts ++ new } }

/-! ### The loss (R399) -/

/-- Bits of GLB_FLD_SLOW and GLB_FLD_FULL. -/
def setSlow (s : State) (f : Nat) (on : Bool) : State :=
  setF s F.GLB_FLD_SLOW_FIELDS 0 (getF s F.GLB_FLD_SLOW_FIELDS 0 &&& (2 ^ 48 - 1 - 2 ^ f) ||| (if on then 2 ^ f else 0))
def setFull (s : State) (f : Nat) (on : Bool) : State :=
  setF s F.GLB_FLD_FULL_FIELDS 0 (getF s F.GLB_FLD_FULL_FIELDS 0 &&& (2 ^ 48 - 1 - 2 ^ f) ||| (if on then 2 ^ f else 0))

/-- A field's circuits are off: its tiles, its sampler and its engine hold nothing, and its registers are at reset but for
what R548 keeps. -/
def dropField (s : State) (f : Nat) : State :=
  let s := (List.range 8).foldl (fun s k => if getI s F.OPT_SUB_STATE f k = 0 then s else loseSub s f k) s
  { s with
    tiles := s.tiles.filter (fun e => e.1 / 700 != f)
    samplers := erase s.samplers f
    coll := { s.coll with adders := erase s.coll.adders (0x100 + f) }
    net := { s.net with binds := s.net.binds.filter (fun e => e.1 / 16 != f) }
    regs := clearRegs s.regs (inFieldPages f) (fun r => if housekept r then BitVec.allOnes 64 else retained r) }

/-- A field is lost (R399 to R401). -/
def loseField (s : State) (f cause : Nat) : State :=
  if !inService s f then s
  else
    let s := holdFor s (f + 1) (fun g => g / 700 == f)
    let s := haltRect s (fieldRect f)
    let s := setFull (setSlow s f false) f false
    let s := faceDown s f
    let s := dropField s f
    let s := setF (setF s F.FLD_STATE_LOST f 1) F.FLD_STATE_CAUSE f cause
    let s := queueLost (leaveRuns s (fun g => g / 700 == f)) f
    askSnap (lossIncident (updateService s) f cause) 1

/-- FIELD_LOSS (R399): the cause as FLD_STATE gives it; heat also holds the field off (R527). -/
def opFieldLoss (f cause : Nat) (s : State) : State :=
  if cause = 0 || !inService s f then s
  else
    let s := loseField s f cause
    if cause = 2 then
      setF { s with power := { s.power with offAt := insert s.power.offAt f s.now } } F.PWR_FLD_RAIL_HELD_OFF f 1
    else s

def execFieldLoss (f : Fin 48) (cause : Fin 8) (s : State) : Host.Outcome State Fault Refusal := .next (opFieldLoss f cause s)

end Sys2Proof.Machine
end

