-- ==== Sys2Proof/Machine/BroisRows.lean ====
section
/-! DEFINITION. The rows of the Brois links: flits, replay and recovery (R468 to R472, R480 to R482), answers from companion
memory (R478, R479), and the loss of both links (R409). -/
namespace Sys2Proof.Machine

def modLink (s : State) (l : Nat) (f : BLink → BLink) : State := setLink s l (f (linkOf s l))

/-- Reads that wait for a link leave, oldest first (R481). -/
def retryReads (s : State) : Nat → State
  | 0 => s
  | n + 1 =>
    match s.cmd.reads.find? (fun r => r.link == 2), readLink s with
    | some r, some l =>
      let s := { s with cmd := { s.cmd with reads := s.cmd.reads.map (fun x => if x.tag = r.tag then { x with link := l } else x) } }
      let s := modLink s l (fun b => { b with c3 := b.c3 - 1 })
      let s := setI s F.BRL_STAT_RD_OUT 0 l (getI s F.BRL_STAT_RD_OUT 0 l + 1)
      retryReads (sendPkt s l (.memRd r.tag r.addr)) n
    | _, _ => s

/-- What waited for room or credits on a link goes on. -/
def pumpBrois (s : State) : State :=
  retryReadmit (retryReads (retryWrites s (s.cmd.writes.length + 1)) (s.cmd.reads.length + 1))

/-- Packets that wait for the replay buffer enter it (R472). -/
def fillReplay (s : State) (l : Nat) : Nat → State
  | 0 => s
  | n + 1 =>
    let b := linkOf s l
    match b.out with
    | [] => s
    | p :: ps => if b.unacked.length < 512 then fillReplay (sendPkt (setLink s l { b with out := ps }) l p) l n else s

/-! ### Flits (R471, R472) -/

/-- A link enters RECOVER (R480). -/
def enterRecover (s : State) (l : Nat) : State :=
  if getI s F.BRL_STAT_STATE 0 l = 4 then countI (setI s F.BRL_STAT_STATE 0 l 5) F.BRL_ERR_RECOVERIES 0 l 1 else s

/-- Every unacknowledged flit is sent again; one that has failed its fourth replay sends the link to RECOVER. -/
def replay (s : State) (l : Nat) : State :=
  let b := linkOf s l
  match b.unacked with
  | [] => s
  | f :: _ =>
    if 4 ≤ f.tries then enterRecover s l
    else
      let s := countLink (countI s F.BRL_ERR_REPLAYS 0 l 1) (80 + l) 0 1
      setLink s l { b with unacked := b.unacked.map (fun x => { x with tries := x.tries + 1, since := s.now }) }

/-- BROIS_FLIT_RECEIVE: header, whether FEC corrected the flit, the verdict of its CRC. The packets of an accepted flit are
commands of their own (log entry 16). -/
def opBroisFlit (l : Nat) (h : W32) (fixed ok : Bool) (s : State) : State :=
  if !linkActive s l then s
  else
    let s := if fixed then countI s F.BRL_ERR_FEC_CORR 0 l 1 else s
    let w := h.toNat
    let idle := w / 2 ^ 21 % 2 == 1
    let b := linkOf s l
    if !ok || (!idle && w % 1024 != b.rxNext) then setLink s l { b with nak := true }
    else
      let a := w / 1024 % 1024
      let b := { b with
        unacked := b.unacked.filter (fun f => 512 ≤ (a + 1024 - f.seq) % 1024)
        rxNext := if idle then b.rxNext else (b.rxNext + 1) % 1024
        nak := false
        c3 := min 64 (b.c3 + w / 2 ^ 26 % 16) }
      let s := setLink s l b
      let s := setI s F.BRL_STAT_C0_CREDITS 0 l (min 64 (getI s F.BRL_STAT_C0_CREDITS 0 l + w / 2 ^ 22 % 16))
      let s := if w / 2 ^ 20 % 2 = 1 then replay s l else s
      pumpBrois (fillReplay s l (b.out.length + 1))

/-- BROIS_REPLAY_TIMEOUT: a flit has gone unacknowledged for 2 µs. -/
def opReplayTimeout (l : Nat) (s : State) : State :=
  match (linkOf s l).unacked with
  | f :: _ => if linkActive s l && 200 ≤ s.now - f.since then replay s l else s
  | [] => s

/-! ### Recovery, loss, training (R468, R480 to R482) -/

/-- The width for a set of bad lanes: ×16, ×8 on a half, or none. -/
def widthFor (s : State) (l bad : Nat) : Option (Nat × Nat) :=
  if bad = 0 then some (0, 0)
  else if getI s F.BRL_CTRL_ALLOW_X8 0 l = 0 then none
  else if bad % 256 = 0 then some (1, 0)
  else if bad / 256 = 0 then some (1, 1)
  else none

/-- Show a link's width. -/
def setWidth (s : State) (l bad : Nat) (x : Nat × Nat) : State :=
  setI (setI (setI s F.BRL_STAT_BAD_LANES 0 l bad) F.BRL_STAT_X8 0 l x.1) F.BRL_STAT_HALF 0 l x.2

/-- An attempt at RECOVER fails. -/
def failAttempt (s : State) (l : Nat) : State := modLink s l (fun b => { b with fails := b.fails + 1 })

/-- RECOVER: a link enters it, an attempt ends, an attempt fails (R480). An attempt after which no width is left counts as one
that failed, as the example of R482 shows (log entry 38). -/
def opRecover (l : Nat) (e : RecoverEvent) (s : State) : State :=
  match e with
  | .enter => enterRecover s l
  | .fail => if getI s F.BRL_STAT_STATE 0 l = 5 then failAttempt s l else s
  | .done bad =>
    if getI s F.BRL_STAT_STATE 0 l ≠ 5 then s
    else
      let all := getI s F.BRL_STAT_BAD_LANES 0 l ||| bad.toNat
      match widthFor s l all with
      | none => failAttempt s l
      | some x =>
        let was := getI s F.BRL_STAT_X8 0 l
        let s := setI (setWidth s l all x) F.BRL_STAT_STATE 0 l 4
        let s := modLink s l (fun b => { b with fails := 0, unacked := b.unacked.map (fun f => { f with tries := 0, since := s.now }) })
        let s := if x.1 = 1 && was = 0 then sendRec s .port 0 0x3300 (l + 2 * x.2) all else s
        pumpBrois s

/-- A link is lost (R481): its reads and writes go to the other link. -/
def loseLink (s : State) (l : Nat) : State :=
  let s := countLink (sendRec (setI s F.BRL_STAT_STATE 0 l 0) .port 0 0x1006 l 0) (80 + l) 1 0
  let s := setI (setI s F.BRL_STAT_RD_OUT 0 l 0) F.BRL_STAT_C0_CREDITS 0 l 0
  let s := setLink s l { executed := (linkOf s l).executed, wasLost := true, since := s.now, tried := some s.now }
  pumpBrois { s with cmd := { s.cmd with
    reads := s.cmd.reads.map (fun r => if r.link = l then { r with link := 2 } else r)
    writes := s.cmd.writes.map (fun w => if w.link = l then { w with link := 2 } else w) } }

/-- BROIS_LINK_LOSS: two attempts have failed in succession, or the link has been taken out of service. -/
def opLinkLoss (l : Nat) (s : State) : State :=
  let st := getI s F.BRL_STAT_STATE 0 l
  if (st = 5 && 2 ≤ (linkOf s l).fails) || ((st = 4 || st = 5) && getI s F.BRL_CTRL_ENABLE 0 l = 0) then loseLink s l else s

/-- RETRAIN (R480). -/
def opRetrain (l : Nat) (s : State) : State := enterRecover s l

/-- BROIS_TRAINING: the end of a training, with the lanes it marked bad (R468, R482). -/
def opBroisTraining (l : Nat) (bad : Nat) (ok : Bool) (s : State) : State :=
  let st := getI s F.BRL_STAT_STATE 0 l
  let b := linkOf s l
  if !s.power.on || st = 4 || st = 5 || getI s F.BRL_CTRL_ENABLE 0 l = 0 ||
      (match b.tried with | some t => s.now - t < 1000000 | none => false) then s
  else
    match if ok then widthFor s l bad else none with
    | none => setLink (setI s F.BRL_STAT_STATE 0 l 1) l { b with tried := some s.now }
    | some x =>
      let lost := b.wasLost
      let s := setI (setI (setWidth s l bad x) F.BRL_STAT_STATE 0 l 4) F.BRL_STAT_C0_CREDITS 0 l 64
      let s := setLink (setI s F.BRL_STAT_RD_OUT 0 l 0) l { c3 := 64 }
      let s := if lost then sendRec s .port 0 0x1006 (l + 2 ^ 31) 0 else s
      let s := match s.recov.owed with
        | some c => sendRec { s with recov := { s.recov with owed := none, holding := false } } .port 0 0x1007 c 0
        | none => s
      pumpBrois s

/-- BROIS_BOTH_LOST: both links lost for 1 s (R409); the record follows when a link recovers. -/
def opBothLost (s : State) : State :=
  let lost := fun (l : Nat) => getI s F.BRL_STAT_STATE 0 l < 4 && (linkOf s l).wasLost && 100000000 ≤ s.now - (linkOf s l).since
  if lost 0 && lost 1 && s.recov.owed.isNone && !s.recov.holding then
    let s := holdAll s 2 0
    { s with recov := { s.recov with owed := some 2 } }
  else s

/-! ### Answers from companion memory (R478, R479) -/

/-- The bytes of a command that the companion did not deliver: TAG and OPCODE, which its completion record shows, are free
values (log entry 6); nothing else of it takes effect. -/
def lostCmd (s : State) (idx : W32) (status : Nat) : Cmd × State :=
  let v := (Config.freeValue s.free).toNat
  ({ idx, bytes := bytesOf (v % 256 + v / 2 ^ 32 * 2 ^ 32) 8 ++ List.replicate 56 0, bad := status }, { s with free := s.free + 1 })

/-- MEM_RDATA. -/
def opMemRdata (k rstat : Nat) (data : List Byte) (s : State) : State :=
  match s.cmd.reads[k]? with
  | none => s
  | some r =>
    if r.link = 2 then s
    else
      let s := { s with cmd := { s.cmd with reads := s.cmd.reads.eraseIdx k } }
      let s := setI s F.BRL_STAT_RD_OUT 0 r.link (getI s F.BRL_STAT_RD_OUT 0 r.link - 1)
      let s := if rstat = 0 then s else countF s F.BRL_HOSTERR_RD_REFUSED 0 1
      let status := if rstat = 3 then ST_DATA_POISON else ST_CMD_INVALID
      let s := match r.what with
        | .command n i =>
          let c : Cmd × State := if rstat = 0 then ({ idx := i, bytes := data }, s) else lostCmd s i status
          touchNext (modCq c.2 n (fun q => { q with fetched := q.fetched ++ [c.1] })) n
        | .readmit n i =>
          if rstat = 0 then
            flushReadmit (modCq s n (fun q => { q with requests := q.requests.map (fun x =>
              if x.idx = i then { x with bytes := data, kept := 4 } else x) })) n 16
          else
            flushReadmit (completeIdx (modCq s n (fun q => { q with requests := q.requests.filter (fun x => x.idx != i) })) n i status 0) n 16
      pumpBrois s

/-- The index up to which every record of the event ring has been acknowledged (R478). -/
def ackedTail (s : State) : Nat :=
  let d := fun (t : Nat) => (BitVec.ofNat 32 t - BitVec.ofNat 32 (getF s F.GLB_EVR_TAIL_TAIL 0)).toNat
  (s.cmd.writes.filterMap (fun w => match w.what with | .record t _ => some t | _ => none)).foldl
    (fun a t => if d t < d a then t else a) s.cmd.ringTail.toNat

/-- What the acknowledgement of a write releases: the signal and interrupt of a completion (R160, R162, R181), GLB_EVR_TAIL and
the interrupt of a record (R178, R181). -/
def released (s : State) (w : CompWrite) : State :=
  match w.what with
  | .completion n signal irq =>
    let s := setI s F.GLB_CQ_STAT_INFLIGHT 0 n (getI s F.GLB_CQ_STAT_INFLIGHT 0 n - 1)
    let s := match signal with | some e => addEvc s e 1 | none => s
    if irq then sendIrq s (getI s F.GLB_CQ_CFG_VECTOR 0 n) else s
  | .record _ irq =>
    let s := setF s F.GLB_EVR_TAIL_TAIL 0 (ackedTail s)
    if irq then sendIrq s (getF s F.GLB_EVR_CFG_VECTOR 0) else s
  | .interrupt | .data => s

/-- MEM_ACK. -/
def opMemAck (k rstat : Nat) (s : State) : State :=
  match s.cmd.writes[k]? with
  | none => s
  | some w =>
    if w.link = 2 then s
    else
      let s := { s with cmd := { s.cmd with writes := s.cmd.writes.eraseIdx k } }
      let s := if rstat = 3 || rstat = 4 then
          sendRec (countF s F.BRL_HOSTERR_WR_REFUSED 0 1) .port 0 0x3301 (w.link + rstat * 16) w.addr
        else s
      pumpBrois (released s w)

def execMemRdata (k : Nat) (rstat : Nat) (data : List Byte) (s : State) : Host.Outcome State Fault Refusal := .next (opMemRdata k rstat data s)
def execMemAck (k : Nat) (rstat : Nat) (s : State) : Host.Outcome State Fault Refusal := .next (opMemAck k rstat s)
def execBroisFlitReceive (link : Fin 2) (h : W32) (fixed crcOk : Bool) (s : State) : Host.Outcome State Fault Refusal :=
  .next (opBroisFlit link h fixed crcOk s)
def execBroisReplayTimeout (link : Fin 2) (s : State) : Host.Outcome State Fault Refusal := .next (opReplayTimeout link s)
def execBroisRetrain (link : Fin 2) (s : State) : Host.Outcome State Fault Refusal := .next (opRetrain link s)
def execBroisRecover (link : Fin 2) (ev : RecoverEvent) (s : State) : Host.Outcome State Fault Refusal := .next (opRecover link ev s)
def execBroisLinkLoss (link : Fin 2) (s : State) : Host.Outcome State Fault Refusal := .next (opLinkLoss link s)
def execBroisTraining (link : Fin 2) (bad : BitVec 16) (ok : Bool) (s : State) : Host.Outcome State Fault Refusal :=
  .next (opBroisTraining link bad.toNat ok s)
def execBroisBothLost (s : State) : Host.Outcome State Fault Refusal := .next (opBothLost s)

end Sys2Proof.Machine
end

