-- ==== Sys2Proof/Machine/Ports.lean ====
section
/-! DEFINITION. The rows of the edge ports (R484 to R505): training and loss, CST and RoCEv2 packets, timers, connections,
PFC and address resolution. -/
namespace Sys2Proof.Machine

/-! ### Training and loss (R485 to R488, R496, R501) -/

/-- EDGE_PORT_TRAINING (R485, R487, R488): a port that is not disabled and not up ends a training. -/
def opPortTraining (p : Nat) (e : TrainEnd) (s : State) : State :=
  if getI s F.PRT_EPORT_CFG_MODE 0 p = 3 || portUp s p then s
  else
    match e with
    | .noMode => setI s F.PRT_EPORT_STAT_STATE 0 p 0
    | .testFail =>
      sendRec (setI (setI s F.PRT_EPORT_STAT_STATE 0 p 0) F.PRT_EPORT_STAT_TEST_FAIL 0 p 1) .port 0 0x1004 (p + 2 ^ 30) 0
    | .up =>
      let s := setI (setI s F.PRT_EPORT_STAT_STATE 0 p 3) F.PRT_EPORT_STAT_TEST_FAIL 0 p 0
      let s := if (getD s.net.ports p {}).seen then sendRec s .port 0 0x1004 (p + 2 ^ 31) 0 else s
      let s := { s with net := { s.net with ports := erase s.net.ports p } }
      let s := rehome s
      portResetDone (retryOuts s (s.net.outst.length + 1)) 0 p

/-- A port goes down: its outstanding packets leave again on other ports (R487, R496, R501). -/
def portDown (s : State) (p : Nat) : State :=
  let s := countLink (sendRec (setI s F.PRT_EPORT_STAT_STATE 0 p 0) .port 0 0x1004 p 0) p 1 0
  let s := { s with net := { s.net with ports := put s.net.ports p { seen := true } {} } }
  let s := (s.net.outst.filter (fun o => o.sent && o.port == p && (connOf s o.conn).kind == 0)).foldl resendOut s
  rehome s

/-- EDGE_PORT_DOWN (R487): lock lost, or `n` uncorrectable codewords within 1 ms. -/
def opPortDown (p n : Nat) (lock : Bool) (s : State) : State :=
  if !portUp s p then s
  else
    let s := countLink (countI s F.PRT_EPORT_STAT_FEC_UNCORR 0 p n) p 0 n
    if !lock || getI s F.PRT_EPORT_CFG_UNCORR_MAX 0 p < n then portDown s p else s

/-! ### CST packets (R494 to R498) -/

/-- WRITE and READ_REQ from a peer: NAK 2 (R494). -/
def opPeerRequest (p : Nat) (k : CstPkt) (s : State) : State :=
  cstIn s p k (fun s => sendFrame s p 0 (.cst { cstTo s (rxKey k) 5 with dst := k.src, psn := k.psn, tag := 2 }))

/-- The outstanding read that a READ_RESP answers (R495). -/
def readFor (s : State) (k : CstPkt) : Option NetOut :=
  s.net.outst.find? (fun o => o.sent && o.conn == k.conn && o.psn.toNat == k.psn && o.tag == k.tag &&
    (match o.kind with | .read => true | _ => false))

/-- A far read is answered: the bytes, or the mark of a malformed payload (R220). -/
def answerRead (s : State) (o : NetOut) (bs : Option (List Byte)) : State :=
  let s := { s with net := { s.net with outst := s.net.outst.erase o } }
  match o.far with
  | none => s
  | some id =>
    let s := match bs with
      | some b => finishFar s id 0 b
      | none =>
        let s := match s.tiers.far.find? (fun q => q.id == id) with
          | some q => poisonPage s q.page q.unit 2
          | none => s
        finishFar s id 2 []
    let s := resumeReads s
    retryOuts s (s.net.outst.length + 1)

/-- READ_RESP (R495, R498): the first answer to an outstanding PSN and TAG; a later one is discarded and counted. -/
def opReadResp (p : Nat) (k : CstPkt) (s : State) : State :=
  cstIn s p k (fun s =>
    if (connOf s k.conn).state ≠ 1 || isHop (rxKey k) then s
    else
      let s := acked s k.conn (BitVec.ofNat 32 k.ack) []
      match readFor s k with
      | none => countF s F.PRT_ELOG_DISC_LATE_RESP 0 1
      | some o => answerRead s o (expandPayload (connOf s k.conn).form o.len k))

/-- CST_ACK (R495). -/
def opCstAck (p : Nat) (k : CstPkt) (s : State) : State :=
  cstIn s p k (fun s =>
    if (connOf s (rxKey k)).state = 1 then resumeReads (acked s (rxKey k) (BitVec.ofNat 32 k.ack) k.bitmap) else s)

/-- NAK (R497). -/
def opNak (p : Nat) (k : CstPkt) (s : State) : State := cstIn s p k (fun s => failConn s (rxKey k) 1 k.tag)

/-- CNP of CST (R492). -/
def opCnp (p : Nat) (k : CstPkt) (s : State) : State :=
  cstIn s p k (fun s => if (connOf s (rxKey k)).state = 1 then notify s (rateKey (rxKey k) 0) else s)

/-- COLL (R505): a sequenced packet of a hop; a new one delivers its pennant. A hop begins with its first packet. -/
def opCollPkt (p : Nat) (k : CstPkt) (s : State) : State :=
  cstIn s p k (fun s =>
    let n := rxKey k
    match k.penn with
    | none => s
    | some x =>
      if !isHop n || (connOf s n).state = 2 then s
      else
        let s := modConn s n (fun c => { c with state := 1, peer := k.src })
        let s := acked s n (BitVec.ofNat 32 k.ack) []
        let r := recvSeq s n (BitVec.ofNat 32 k.psn) k.ackreq
        if r.1 then
          let s := r.2
          pfcCheck { s with coll := { s.coll with arrived := s.coll.arrived ++
            [({ x with payload := k.payload }.onWire, .edge p k.src (BitVec.ofNat 32 k.psn))] } } p
        else r.2)

/-! ### Timers -/

/-- RTO_EXPIRY (R495, R497): `k` names an outstanding CST packet or read. -/
def opRto (k : Nat) (s : State) : State :=
  match s.net.outst[k]? with
  | none => s
  | some o =>
    if !o.sent || (connOf s o.conn).kind = 1 || s.now - o.since < getF s F.PRT_CST_CFG_RTO 0 then s
    else if getF s F.PRT_CST_CFG_RETRIES 0 + 1 ≤ o.tries then failConn s o.conn 0 0
    else resendOut s o

/-- ACK_TIMER_EXPIRY (R495): 2 µs after the first unacknowledged packet of connection `k`. -/
def opAckTimer (k : Nat) (s : State) : State :=
  match (connOf s k).ackAt with
  | some t => if 200 ≤ s.now - t then sendAck s k else s
  | none => s

/-- RATE_RAISE (R492): `k` names a connection or queue pair. -/
def opRateRaise (k : Nat) (s : State) : State :=
  let r := rateOf s k
  match r.limit with
  | some l =>
    if s.now - r.noted < 5000 then s
    else
      let l := l + getF s F.PRT_CST_CFG_RATE_STEP 0 * 1000000000
      setRate s k { r with limit := if lineRate s ≤ l then none else some l, noted := s.now }
  | none => s

/-! ### Connections (R499, R503) -/

/-- A write of PRT_CONN_CTRL (R499). -/
def connCtrl (v : Word) (s : State) : State :=
  let n := getBits v 0 14
  let s := setF s F.PRT_CONN_CTRL_CONN 0 n
  let s := if getBits v 14 1 = 1 then openConn s n else s
  showConn (if getBits v 15 1 = 1 then closeConn s n else s)

/-- OPEN and CLOSE_CONNECTION: the write that sets OPEN, or CLOSE. -/
def opOpen (v : Word) (s : State) : State := if getBits v 14 1 = 1 then connCtrl v s else s
def opCloseConn (v : Word) (s : State) : State := if getBits v 15 1 = 1 then connCtrl v s else s

/-- INVAL (R503). -/
def opInval (s : State) : State := { s with net := { s.net with ret := [] } }

/-! ### RoCEv2 (R500, R501) -/

/-- The group and crescent of a local queue pair number (R501). -/
def pairOf (qpn : Nat) : Nat × Nat := ((qpn - 0x100) / 4, (qpn - 0x100) % 4)

/-- A packet of a queue pair whose group is open. -/
def roceIn (s : State) (p : Nat) (k : RocePkt) (f : Nat → Nat → State → State) : State :=
  let n := (pairOf k.qpn).1
  let c := (pairOf k.qpn).2
  if !portUp s p then s
  else if !k.good then countI s F.PRT_EPORT_STAT_BAD 0 p 1
  else if k.qpn < 0x100 || 16384 ≤ n || (connOf s n).state ≠ 1 || (connOf s n).kind ≠ 1 then s
  else
    let x := connOf s n
    f n c (if k.ce then tellPeer s p (rateKey n c) (.roce { op := .cnp, dst := x.peer, qpn := x.qpns.getD c 0 }) else s)

/-- Packets of a queue pair that have been sent, oldest first. -/
def pairOuts (s : State) (n c : Nat) : List NetOut := s.net.outst.filter (fun o => o.sent && o.conn == n && o.cres == c)

/-- Writes up to `psn` have been applied (RoCEv2 acknowledges in order, modulo 2^24). -/
def roceAcked (s : State) (n c psn : Nat) : State :=
  let here := fun (o : NetOut) => (psn + 2 ^ 24 - o.psn.toNat) % 2 ^ 24 < 2 ^ 23 && (match o.kind with | .read => false | _ => true)
  let gone := (pairOuts s n c).filter here
  let s := { s with net := { s.net with outst := s.net.outst.filter (fun o => !gone.contains o) } }
  gone.foldl (fun s o => match o.far with | some id => finishFar s id 0 [] | none => s) s

/-- Go-back-N from `psn` (R501). -/
def goBack (s : State) (n c psn : Nat) : State :=
  ((pairOuts s n c).filter (fun o => (o.psn.toNat + 2 ^ 24 - psn) % 2 ^ 24 < 2 ^ 23)).foldl resendOut s

/-- ROCE_RESPONSE (R500, R501). -/
def opRoceResponse (p : Nat) (k : RocePkt) (s : State) : State :=
  roceIn s p k (fun n c s =>
    match k.kind with
    | .readData =>
      let s := roceAcked s n c k.psn
      match (pairOuts s n c).find? (fun o => o.psn.toNat == k.psn && (match o.kind with | .read => true | _ => false)) with
      | some o => answerRead s o (if k.payload.length = o.len then some k.payload else none)
      | none => countF s F.PRT_ELOG_DISC_LATE_RESP 0 1
    | .ack =>
      let s := resumeReads (roceAcked s n c k.psn)
      retryOuts s (s.net.outst.length + 1)
    | .nak code =>
      if code = 0 then goBack s n c k.psn else failConn s n (if code = 2 then 2 else 1) code
    | .cnp => notify s (rateKey n c))

/-- ROCE_INBOUND_REQUEST (R500): a NAK for a remote access error. -/
def opRoceInbound (p : Nat) (k : RocePkt) (s : State) : State :=
  if !portUp s p then s
  else if !k.good then countI s F.PRT_EPORT_STAT_BAD 0 p 1
  else
    let x := pairOf k.qpn
    sendFrame s p 0 (.roce { op := .nakAccess, dst := k.src, qpn := (connOf s x.1).qpns.getD x.2 0, psn := k.psn })

/-- ROCE_ACK_TIMEOUT (R500, R501): 4.096 µs × 2^ROCE_TMO after the oldest packet of the queue pair of packet `k` was sent. -/
def opRoceTimeout (k : Nat) (s : State) : State :=
  match s.net.outst[k]? with
  | none => s
  | some o =>
    if !o.sent || (connOf s o.conn).kind ≠ 1 || (s.now - o.since) * 10 < 4096 * 2 ^ getF s F.PRT_CST_CFG_ROCE_TMO 0 then s
    else if 8 ≤ o.tries then failConn s o.conn 0 0
    else
      match pairOuts s o.conn o.cres with
      | x :: _ => goBack s o.conn o.cres x.psn.toNat
      | [] => s

/-! ### PFC and address resolution (R489, R491) -/

/-- PFC_FRAME_RECEIVE: the priorities that the frame pauses and those that it releases. -/
def opPfc (p : Nat) (on off : BitVec 8) (s : State) : State :=
  if !portUp s p then s
  else
    let e := getD s.net.ports p {}
    { s with net := { s.net with ports := put s.net.ports p { e with paused := (e.paused ||| on) &&& ~~~off } {} } }

/-- ARP_REQUEST: an ARP request for an IPv4 address, or a neighbour solicitation for an IPv6 address. -/
def opArp (p : Nat) (v6 : Bool) (a : BitVec 128) (s : State) : State :=
  let own := if v6 then (rdReg s .PRT_ADDR6 0 0).toNat * 2 ^ 64 + (rdReg s .PRT_ADDR6 0 1).toNat
             else (rdReg s .PRT_ADDR4 0 0).toNat % 2 ^ 32
  if portUp s p && own ≠ 0 && a.toNat = own then sendFrame s p 0 (.arp v6 ((getF s F.PRT_MAC_BASE 0 + p) % 2 ^ 48)) else s

/-- A warm restart ends every connection and hop and empties the table's cache and the C1 buffers (R516). -/
def netWarm (s : State) : State :=
  { s with net := { s.net with conns := [], outst := [], ret := [], opening := [], rates := [] } }

def execEdgePortTraining (p : Fin 32) (e : TrainEnd) (s : State) : Host.Outcome State Fault Refusal := .next (opPortTraining p e s)
def execEdgePortDown (p : Fin 32) (n : Nat) (lock : Bool) (s : State) : Host.Outcome State Fault Refusal := .next (opPortDown p n lock s)
def execCstWrite (p : Fin 32) (k : CstPkt) (s : State) : Host.Outcome State Fault Refusal := .next (opPeerRequest p k s)
def execReadReq (p : Fin 32) (k : CstPkt) (s : State) : Host.Outcome State Fault Refusal := .next (opPeerRequest p k s)
def execReadResp (p : Fin 32) (k : CstPkt) (s : State) : Host.Outcome State Fault Refusal := .next (opReadResp p k s)
def execCstAck (p : Fin 32) (k : CstPkt) (s : State) : Host.Outcome State Fault Refusal := .next (opCstAck p k s)
def execNak (p : Fin 32) (k : CstPkt) (s : State) : Host.Outcome State Fault Refusal := .next (opNak p k s)
def execCnp (p : Fin 32) (k : CstPkt) (s : State) : Host.Outcome State Fault Refusal := .next (opCnp p k s)
def execColl (p : Fin 32) (k : CstPkt) (s : State) : Host.Outcome State Fault Refusal := .next (opCollPkt p k s)
def execRtoExpiry (k : Nat) (s : State) : Host.Outcome State Fault Refusal := .next (opRto k s)
def execAckTimerExpiry (k : Nat) (s : State) : Host.Outcome State Fault Refusal := .next (opAckTimer k s)
def execRateRaise (k : Nat) (s : State) : Host.Outcome State Fault Refusal := .next (opRateRaise k s)
def execConnOpen (v : Word) (s : State) : Host.Outcome State Fault Refusal := .next (opOpen v s)
def execConnClose (v : Word) (s : State) : Host.Outcome State Fault Refusal := .next (opCloseConn v s)
def execInval (s : State) : Host.Outcome State Fault Refusal := .next (opInval s)
def execRoceResponse (p : Fin 32) (k : RocePkt) (s : State) : Host.Outcome State Fault Refusal := .next (opRoceResponse p k s)
def execRoceInboundRequest (p : Fin 32) (k : RocePkt) (s : State) : Host.Outcome State Fault Refusal := .next (opRoceInbound p k s)
def execRoceAckTimeout (k : Nat) (s : State) : Host.Outcome State Fault Refusal := .next (opRoceTimeout k s)
def execPfcFrameReceive (p : Fin 32) (on off : BitVec 8) (s : State) : Host.Outcome State Fault Refusal := .next (opPfc p on off s)
def execArpRequest (p : Fin 32) (v6 : Bool) (a : BitVec 128) (s : State) : Host.Outcome State Fault Refusal := .next (opArp p v6 a s)

end Sys2Proof.Machine
end

