-- ==== Sys2Proof/Machine/Ledger.lean ====
section
/-! DEFINITION. The lifetime ledger and the last-breath record in configuration flash (R534 to R540), and what a stop of the
module leaves (R410, R529). -/
namespace Sys2Proof.Machine

/-- Ticks of a second. -/
def second : Nat := 100000000

/-! ### Snapshots (R536) -/

/-- Seconds of housekeeping power since manufacture. -/
def powerOn (s : State) : Nat := s.power.ledger.powerOn + (if s.power.on then (s.now - s.power.onSince) / second else 0)

/-- A field's plan as its registers show it. -/
def planOf (s : State) (f : Nat) : PlanRec :=
  { v := getF s F.PWR_FLD_PLAN_V_PLAN f, bin := getF s F.PWR_FLD_PLAN_BIN f, wear := getF s F.PWR_FLD_PLAN_WEAR_HALVED f == 1,
    margin := BitVec.ofNat 16 (getF s F.PWR_FLD_PLAN_MARGIN f) }

/-- The totals as they stand now. -/
def totals (s : State) : Ledger :=
  { s.power.ledger with
    powerOn := powerOn s
    calendar := getF s F.LIF_CALENDAR_SECONDS 0
    plans := (List.range 48).foldl (fun m f => if getF s F.PWR_FLD_PLAN_PLANS f = 0 then m else put m f (planOf s f) {})
      s.power.ledger.plans }

/-- Bytes with their CRC-32C in the last four of 4 KiB. -/
def sealBytes (bs : List Byte) : List Byte :=
  let b := bs ++ List.replicate (0xFFC - bs.length) 0
  b ++ bytesOf (crc32c b) 4

/-- The CRC of a 4 KiB record is good. -/
def sealed (bs : List Byte) : Bool := bs.length == 4096 && leNat ((bs.drop 0xFFC).take 4) == crc32c (bs.take 0xFFC)

/-- A number at an offset. -/
def fieldAt' (bs : List Byte) (off n : Nat) : Nat := leNat ((bs.drop off).take n)

/-- The 4 KiB of a snapshot. -/
def snapBytes (l : Ledger) (kind : Nat) : List Byte :=
  sealBytes (bytesOf 0x4C474452 4 ++ bytesOf kind 1 ++ bytesOf 1 1 ++ bytesOf 0 2 ++ bytesOf l.seq 8 ++
    bytesOf Config.unitId.toNat 8 ++ bytesOf l.calendar 8 ++ bytesOf l.powerOn 8 ++ bytesOf l.coldStarts 4 ++
    bytesOf l.cycles 4 ++ bytesOf l.erases 8 ++ bytesOf l.breaths 4 ++ bytesOf l.bad 4 ++
    (List.range 82).flatMap (fun k => bytesOf (getD l.losses k 0) 4 ++ bytesOf (getD l.words k 0) 4) ++ List.replicate 48 0 ++
    (List.range 384).flatMap (fun k => bytesOf (getD l.bands k 0) 4) ++
    (List.range 48).flatMap (fun f =>
      let p := getD l.plans f {}
      bytesOf p.v 2 ++ bytesOf p.bin 1 ++ bytesOf (if p.wear then 1 else 0) 1 ++ bytesOf p.margin.toNat 2 ++ List.replicate 10 0))

/-- The totals that a snapshot holds. -/
def parseSnap (bs : List Byte) : Ledger :=
  { seq := fieldAt' bs 8 8, calendar := fieldAt' bs 0x18 8, powerOn := fieldAt' bs 0x20 8, coldStarts := fieldAt' bs 0x28 4,
    cycles := fieldAt' bs 0x2C 4, erases := fieldAt' bs 0x30 8, breaths := fieldAt' bs 0x38 4, bad := fieldAt' bs 0x3C 4,
    losses := (List.range 82).foldl (fun m k => put m k (fieldAt' bs (0x40 + 8 * k) 4) 0) [],
    words := (List.range 82).foldl (fun m k => put m k (fieldAt' bs (0x44 + 8 * k) 4) 0) [],
    bands := (List.range 384).foldl (fun m k => put m k (fieldAt' bs (0x300 + 4 * k) 4) 0) [],
    plans := (List.range 48).foldl (fun m f =>
      let a := 0x900 + 16 * f
      put m f { v := fieldAt' bs a 2, bin := fieldAt' bs (a + 2) 1, wear := fieldAt' bs (a + 3) 1 % 2 == 1,
                margin := BitVec.ofNat 16 (fieldAt' bs (a + 4) 2) } {}) [] }

/-- The ledger: the newest snapshot with a good CRC and the highest SEQ (R535). -/
def newestSnap (journal : List (List Byte)) : Option Ledger :=
  (journal.filter sealed).foldl (fun b x =>
    let l := parseSnap x
    match b with
    | some c => if c.seq ≤ l.seq then some l else b
    | none => some l) none

/-- The totals that the next snapshot writes. -/
def nextTotals (s : State) : Ledger :=
  let l := totals s
  { l with seq := l.seq + 1, erases := l.erases + (if (l.seq + 1) % 16 = 0 then 1 else 0) }

/-- The journal with one more snapshot: the ring keeps the newest 61,440. -/
def addSnap (journal : List (List Byte)) (x : List Byte) : List (List Byte) :=
  ((x :: journal.reverse).take 61440).reverse

/-- Write a snapshot of the totals `l`; a block of 16 is erased ahead of the ring's head. -/
def putSnap (s : State) (l : Ledger) (kind : Nat) : State :=
  let p := s.power
  setF { s with power := { p with
    ledger := { l with powerOn := p.ledger.powerOn }
    base := l
    snapAt := s.now
    snapDue := none
    flash := { p.flash with journal := addSnap p.flash.journal (snapBytes l kind) } } } F.LIF_SNAP_SEQ 0 l.seq

/-- Write a snapshot of the totals as they stand. -/
def writeSnap (s : State) (kind : Nat) : State := putSnap s (nextTotals s) kind

/-- LEDGER_SNAPSHOT (R535): one that has been asked for, or the hourly one; `ok`: the flash took it. -/
def opSnap (ok : Bool) (s : State) : State :=
  let hourly := 3600 * second ≤ s.now - s.power.snapAt
  if !s.power.on || (s.power.snapDue.isNone && !hourly) then s
  else if ok then writeSnap s (s.power.snapDue.getD 0)
  else setF { s with power := { s.power with snapDue := none, snapAt := s.now } } F.LIF_SNAP_FAILED 0 1

/-- LIF_SNAP_NOW (R535). -/
def opSnapNow (s : State) : State := askSnap s 1

/-- LIF_CALENDAR_WRITE (R540). -/
def opCalendar (v : Word) (s : State) : State :=
  askSnap (setF (setF s F.LIF_CALENDAR_SECONDS 0 v.toNat) F.LIF_CAL_TICK_TICK 0 (portTicks s)) 1

/-! ### Temperatures (R522, R525, R537) -/

/-- A 16-bit field as a signed number. -/
def signed (n : Nat) : Int := (BitVec.ofNat 16 n).toInt

/-- The Tj sensors of a field, in 0.1 °C. -/
def sensors (s : State) (f : Nat) : List Int := (List.range 4).map (fun q => signed (getF s F.PWR_FLD_TJ_TJ f / 2 ^ (16 * q) % 65536))

/-- The median of four readings is taken as the mean of the middle two (log entry 39); twice that mean. -/
def median2 (xs : List Int) : Int :=
  let y := xs.mergeSort (fun a b => decide (a ≤ b))
  y.getD 1 0 + y.getD 2 0

/-- Sensors that are ignored (R522). -/
def badSensors (xs : List Int) : List Nat :=
  (List.range 4).filter (fun q =>
    let x := xs.getD q 0
    decide (x < -200) || decide (1500 < x) || decide (400 < (2 * x - median2 xs).natAbs))

/-- A field's Tj: the highest reading of its good sensors. -/
def tjOf (s : State) (f : Nat) : Option Int :=
  let bad := getD s.power.badSens f 0
  (((sensors s f).zipIdx).filter (fun x => !Nat.testBit bad x.2)).foldl (fun m x =>
    match m with | some y => some (max x.1 y) | none => some x.1) none

/-- The band that holds a temperature (R537). -/
def bandOf (t : Int) : Nat := ([450, 550, 650, 750, 850, 950, 1050].filter (fun b => decide ((b : Int) ≤ t))).length

/-- Ten times the mean Tj, times the fields in service that have one, and their number. -/
def meanTj (s : State) (fs : List Nat) : Int × Nat :=
  (fs.filter (inService s)).foldl (fun r f => match tjOf s f with | some t => (r.1 + t, r.2 + 1) | none => r) (0, 0)

/-- THERMAL_BAND_COUNT (R537). -/
def opBand (f : Nat) (s : State) : State :=
  let last := getD s.power.countedAt f (getD s.fieldStart f 0)
  if !inService s f || s.now - last < second then s
  else
    match tjOf s f with
    | none => s
    | some t =>
      let m := meanTj s (List.range 48)
      let cold := decide (m.1 < 400 * m.2)
      let hot := decide (700 * (m.2 : Int) < m.1)
      let p := s.power
      let k := 8 * f + bandOf t
      { s with power := { p with
        countedAt := insert p.countedAt f (last + second)
        wasCold := (p.wasCold || cold) && !hot
        ledger := { p.ledger with
          bands := put p.ledger.bands k (getD p.ledger.bands k 0 + 1) 0
          cycles := p.ledger.cycles + (if p.wasCold && hot then 1 else 0) } } }

/-! ### Last breath (R529, R538) -/

/-- The last-breath record. -/
def breathBytes (s : State) (cause : Nat) : List Byte :=
  let l := totals s
  let b := s.power.base
  let vins := List.replicate (64 - s.power.vins.length) 0 ++ s.power.vins
  sealBytes (bytesOf 0x4C425245 4 ++ bytesOf cause 1 ++ bytesOf 0 3 ++ bytesOf b.seq 8 ++ bytesOf (portTicks s) 8 ++
    bytesOf (l.powerOn - b.powerOn) 4 ++ bytesOf (l.cycles - b.cycles) 2 ++ bytesOf 0 2 ++ vins.flatMap (bytesOf · 2) ++
    (List.range 48).flatMap (fun f => bytesOf ((BitVec.ofInt 16 ((tjOf s f).getD 0)).toNat) 2) ++
    (List.range 384).flatMap (fun k => bytesOf (getD l.bands k 0 - getD b.bands k 0) 2) ++
    (List.range 82).flatMap (fun k =>
      bytesOf (getD l.losses k 0 - getD b.losses k 0) 2 ++ bytesOf (getD l.words k 0 - getD b.words k 0) 2))

/-- The module without power: only flash keeps what it held (R444, R529). -/
def dark (s : State) : State :=
  { State.reset with
    pending := s.pending
    now := s.now
    free := s.free
    tiers := { repairList := s.tiers.repairList }
    power := { flash := s.power.flash } }

/-- The flash at a stop: a staging under way leaves its slot without a mark, and the last-breath record is kept when it was
programmed and read back. -/
def flashAtStop (s : State) (cause : Nat) (ok : Bool) : Flash :=
  let fl := s.power.flash
  let fl := if s.loader.staging then { fl with staging := { fl.staging with mark := false } } else fl
  if ok then { fl with breaths := fl.breaths ++ [{ bytes := breathBytes s cause }] } else fl

/-- LAST_BREATH (R529): a stop that is due; `ok`: the record was programmed and read back. -/
def opLastBreath (ok : Bool) (s : State) : State :=
  match s.power.stop with
  | none => s
  | some c => dark { s with power := { s.power with flash := flashAtStop s c ok } }

/-- A cold start merges the last-breath records that belong to the newest snapshot (R539). -/
def mergeBreaths (s : State) : State :=
  let seq := s.power.ledger.seq
  let s := (s.power.flash.breaths.filter (fun b => !b.used && sealed b.bytes)).foldl (fun s b =>
    if fieldAt' b.bytes 8 8 ≠ seq then s
    else
      let l := s.power.ledger
      let add := fun (m : Assoc Nat) (k v : Nat) => put m k (getD m k 0 + v) 0
      let l := { l with
        powerOn := l.powerOn + fieldAt' b.bytes 0x18 4
        cycles := l.cycles + fieldAt' b.bytes 0x1C 2
        breaths := l.breaths + 1
        erases := l.erases + 1
        bands := (List.range 384).foldl (fun m k => add m k (fieldAt' b.bytes (0x100 + 2 * k) 2)) l.bands
        losses := (List.range 82).foldl (fun m k => add m k (fieldAt' b.bytes (0x400 + 4 * k) 2)) l.losses
        words := (List.range 82).foldl (fun m k => add m k (fieldAt' b.bytes (0x402 + 4 * k) 2)) l.words }
      let s := { s with power := { s.power with ledger := l } }
      let s := setF (setF s F.LIF_LB_FOUND 0 1) F.LIF_LB_CAUSE 0 (fieldAt' b.bytes 4 1)
      sendRec s .power 0 0x3006 (fieldAt' b.bytes 4 1) (fieldAt' b.bytes 0x10 8)) s
  let s := setF s F.LIF_LB_LAST_BREATHS 0 s.power.ledger.breaths
  { s with power := { s.power with flash := { s.power.flash with breaths := [] } } }

/-- The ledger at a cold start: read, merged, counted and written (R535, R539). -/
def startLedger (s : State) : State :=
  let l := (newestSnap s.power.flash.journal).getD {}
  let s := { s with power := { s.power with ledger := { l with coldStarts := l.coldStarts + 1 }, base := l, onSince := s.now } }
  let s := mergeBreaths s
  let kind := if getF s F.LIF_LB_FOUND 0 = 1 then 3 else 2
  let s := setF (setF s F.LIF_STAT_POWER_ON 0 (powerOn s)) F.LIF_STAT_COLD_STARTS 0 s.power.ledger.coldStarts
  writeSnap s kind

def execLastBreath (ok : Bool) (s : State) : Host.Outcome State Fault Refusal := .next (opLastBreath ok s)
def execLedgerSnapshot (ok : Bool) (s : State) : Host.Outcome State Fault Refusal := .next (opSnap ok s)
def execLifSnapNow (s : State) : Host.Outcome State Fault Refusal := .next (opSnapNow s)
def execLifCalendarWrite (v : Word) (s : State) : Host.Outcome State Fault Refusal := .next (opCalendar v s)
def execThermalBandCount (f : Fin 48) (s : State) : Host.Outcome State Fault Refusal := .next (opBand f s)

end Sys2Proof.Machine
end

