-- ==== Sys2Proof/Machine/Telemetry.lean ====
section
/-! DEFINITION. The power controller's samples and what it does about them: supply stages (R518, R521 to R524), heat (R522, R525 to
R527), coolant (R528), wear gauges and plans (R530 to R533). -/
namespace Sys2Proof.Machine

/-! ### Conditions that must hold for a time -/

/-- Condition `k` holds or does not hold from now on. -/
def hold (s : State) (k : Nat) (b : Bool) : State :=
  let m := s.power.since
  { s with power := { s.power with since := if b then (match find m k with | some _ => m | none => insert m k s.now) else erase m k } }

/-- Condition `k` has held for at least `n` ticks. -/
def heldFor (s : State) (k n : Nat) : Bool := match find s.power.since k with | some t => n ≤ s.now - t | none => false

/-- Condition `k` holds. -/
def holds (s : State) (k : Nat) : Bool := (find s.power.since k).isSome

/-- Conditions: 0 to 2 enter stages 1 to 3, 3 to 5 leave them, 6 input high, 7 overvoltage, 8 input at 56 V, 9 and 10 coolant
outside and inside its limits, 16 + f a cool field, 64 + n a cool stack. -/
def cHigh : Nat := 6
def cOver : Nat := 7
def cStart : Nat := 8
def cOut : Nat := 9
def cIn : Nat := 10
def cCool (f : Nat) : Nat := 16 + f
def cStack (n : Nat) : Nat := 64 + n

/-- Add a sample of quantity `k`; the mean over the last millisecond (R521), rounded down (log entry 39). -/
def sample (s : State) (k v : Nat) : Nat × State :=
  let xs := (getD s.power.hist k []).filter (fun x => s.now - x.1 < 100000) ++ [(s.now, v)]
  ((xs.map (·.2)).sum / xs.length, { s with power := { s.power with hist := put s.power.hist k xs [] } })

/-- A stop is due (R529): the first cause stands. -/
def due (s : State) (cause : Nat) : State :=
  if s.power.on then { s with power := { s.power with stop := some (s.power.stop.getD cause) } } else s

/-! ### Input and blades (R518, R521, R523, R524) -/

/-- The sum of the blade currents, in 0.1 A, and the input power in W. -/
def bladeSum (s : State) : Nat := (s.power.blades.map (·.2)).sum
def inputPower (s : State) : Nat := s.power.vin * bladeSum s / 10000

/-- The effective cap in W (R523). -/
def effCap (s : State) : Nat := min (getF s F.PWR_CFG_CAP 0) (38 * getF s F.PWR_IN_BLADES_OK 0 * s.power.vin / 1000)

/-- What may cause stage 1: voltage, cap, blade. -/
def stageCauses (s : State) : List Bool :=
  [s.power.vin < 56000, effCap s < inputPower s, s.power.blades.any (fun b => 400 < b.2)]

/-- The conditions that enter and leave stages, from the latest samples. -/
def watchSupply (s : State) : State :=
  let v := s.power.vin
  let any := (stageCauses s).any id
  let s := hold (hold (hold s 0 any) 1 (v < 54000)) 2 (v < 53000)
  let s := hold s 3 (56500 ≤ v && inputPower s * 100 ≤ 95 * effCap s && s.power.blades.all (fun b => b.2 ≤ 380))
  hold (hold s 4 (54500 ≤ v && !any)) 5 (53500 ≤ v && !any)

/-- A blade is good (R524). -/
def bladeGood (s : State) (b : Nat) : Bool := bladeSum s ≤ 64 * getD s.power.blades b 0 || inputPower s < 5000

/-- Show the good blades; one that stops being good sends a record. -/
def showBlades (s : State) : State :=
  let s := (List.range 16).foldl (fun s b =>
    let good := bladeGood s b
    let was := getI s F.PWR_BLADE_GOOD 0 b == 1
    let s := setI s F.PWR_BLADE_GOOD 0 b (if good then 1 else 0)
    if was && !good then sendRec s .power 0 0x3002 (1 + b * 2 ^ 8) (getD s.power.blades b 0) else s) s
  setF s F.PWR_IN_BLADES_OK 0 ((List.range 16).filter (bladeGood s)).length

/-- A sample of the input voltage. -/
def takeInput (vin : Nat) (s : State) : State :=
  let p := s.power
  let s := { s with power := { p with
    vin
    vins := ((vin :: p.vins.reverse).take 64).reverse
    low := if vin < 52000 then p.low + 1 else 0
    highTold := p.highTold && (70000 < vin && vin ≤ 72000) } }
  let a := sample s 0 vin
  let s := setF a.2 F.PWR_IN_VIN 0 a.1
  let b := sample s 1 (bladeSum s)
  let s := setF b.2 F.PWR_IN_IIN 0 b.1
  let c := sample s 2 (inputPower s)
  let s := setF c.2 F.PWR_IN_PIN 0 c.1
  let s := hold (hold (hold s cHigh (70000 < vin && vin ≤ 72000)) cOver (72000 < vin)) cStart (56000 ≤ vin)
  let s := watchSupply s
  let s := if heldFor s cHigh 100000 && !s.power.highTold then
      sendRec { s with power := { s.power with highTold := true } } .power 0 0x3002 0 vin
    else s
  let s := if heldFor s cOver 1000 then due s 3 else s
  if 2 ≤ s.power.low then due s 0 else s

/-- A sample of a blade's current. -/
def takeBlade (b current : Nat) (s : State) : State :=
  let a := sample { s with power := { s.power with blades := insert s.power.blades b current } } (8 + b) current
  watchSupply (showBlades (setI a.2 F.PWR_BLADE_CURRENT 0 b (min a.1 4095)))

/-- A sample of a field's rail. -/
def takeRail (f v i : Nat) (s : State) : State :=
  let a := sample s (32 + 2 * f) v
  let b := sample a.2 (33 + 2 * f) i
  let s := setF (setF b.2 F.PWR_FLD_RAIL_V_CORE f a.1) F.PWR_FLD_RAIL_I_CORE f b.1
  setF s F.PWR_FLD_RAIL_P f (a.1 * b.1 / 10000)

/-- The stage that the conditions call for now: a rise as far as they reach, a fall of one step (R523). -/
def nextStage (s : State) : Nat :=
  let c := getF s F.PWR_IN_STAGE 0
  let still := holds s 0 && 100000 ≤ s.now - s.power.stageAt
  let up := if heldFor s 2 2000 || (c = 2 && still) then 3
    else if heldFor s 1 2000 || (c = 1 && still) then 2
    else if heldFor s 0 2000 then 1 else 0
  if c < up then up else if 0 < c && heldFor s (2 + c) 100000 then c - 1 else c

/-- SUPPLY_STAGE_CHANGE (R523, R524): the fields follow in six groups, one every 2 µs. -/
def opStage (s : State) : State :=
  let c := getF s F.PWR_IN_STAGE 0
  let n := nextStage s
  if n = c || !s.power.on then s
  else
    let cause := if n < c then s.power.stageCause else (stageCauses s).idxOf true % 3
    let s := setF s F.PWR_IN_STAGE 0 n
    let s := { s with power := { s.power with
      stageAt := s.now
      stageCause := cause
      stretch := s.power.stretch ++ (List.range 6).map (fun g => (s.now + 200 * (g + 1), g, n)) } }
    sendRec s .power 0 0x3000 (n + c * 4 + cause * 16) (s.power.vin % 65536 + inputPower s * 65536)

/-- Groups whose time has come take their stage. -/
def applyStretch (s : State) : State :=
  let ready := s.power.stretch.filter (fun x => x.1 ≤ s.now)
  let s := { s with power := { s.power with stretch := s.power.stretch.filter (fun x => s.now < x.1) } }
  ready.foldl (fun s x => (List.range 8).foldl (fun s i => setF s F.PWR_FLD_RAIL_STRETCH (8 * x.2.1 + i) x.2.2) s) s

/-! ### Heat (R522, R525 to R527) -/

/-- HALVED: for heat, for want of good sensors, or for wear (R522, R525, R531). -/
def showHalved (s : State) (f : Nat) : State :=
  let h := getD s.power.heat f false || getD s.power.blind f false || getF s F.PWR_FLD_PLAN_WEAR_HALVED f == 1
  setF s F.PWR_FLD_RAIL_HALVED f (if h then 1 else 0)

/-- The hold-off of R527 still stands. -/
def heldOff (s : State) (f : Nat) : Bool :=
  match find s.power.offAt f with
  | none => false
  | some t =>
    let m := meanTj s (neighbours f)
    s.now - t < 10 * second || decide (700 * (m.2 : Int) ≤ m.1 ∧ m.2 ≠ 0) ||
      decide ((getF s F.PWR_CFG_INLET_MAX 0 : Int) < signed (getF s F.PWR_COOL_INLET 0))

/-- Show which hold-offs still stand. -/
def showHeld (s : State) : State :=
  (s.power.offAt.map (·.1)).foldl (fun s f =>
    if heldOff s f then setF s F.PWR_FLD_RAIL_HELD_OFF f 1
    else { setF s F.PWR_FLD_RAIL_HELD_OFF f 0 with power := { s.power with offAt := erase s.power.offAt f } }) s

/-- A field is switched off for heat (R525, R527). -/
def heatOff (s : State) (f : Nat) : State :=
  let s := setF (loseField s f 2) F.PWR_FLD_RAIL_HELD_OFF f 1
  { s with power := { s.power with offAt := insert s.power.offAt f s.now, heat := erase s.power.heat f } }

/-- What the Tj of a field calls for. -/
def actHeat (s : State) (f : Nat) : State :=
  match tjOf s f with
  | none => s
  | some t =>
    let s := hold s (cCool f) (decide (t < 900))
    if decide (1150 ≤ t) then due s 1
    else if decide (1050 ≤ t) && inService s f then heatOff s f
    else if decide (950 ≤ t) && inService s f && !getD s.power.heat f false then
      sendRec { s with power := { s.power with heat := put s.power.heat f true false } } .power 0 0x3001 f
        (BitVec.ofInt 16 t).toNat
    else s

/-- A sample of a field's four Tj sensors. -/
def takeTj (f : Nat) (q : Word) (s : State) : State :=
  let s := wrReg s .PWR_FLD_TJ f 0 q
  let bad := badSensors (sensors s f)
  let was := getD s.power.badSens f 0
  let mask := (bad.map (fun i => 2 ^ i)).sum
  let s := { s with power := { s.power with badSens := put s.power.badSens f mask 0
                                            blind := put s.power.blind f (2 < bad.length) false } }
  let s := (bad.filter (fun i => !Nat.testBit was i)).foldl (fun s i =>
    sendRec s .power 0 0x3004 (f + 2 ^ 8 + i * 2 ^ 12) (getF s F.PWR_FLD_TJ_TJ f / 2 ^ (16 * i) % 65536)) s
  showHeld (showHalved (actHeat (setF s F.PWR_FLD_RAIL_GOOD_SENS f (4 - bad.length)) f) f)

/-- HEAT_RESTORE (R525): below 90 °C for 100 ms. -/
def opHeatRestore (f : Nat) (s : State) : State :=
  if getD s.power.heat f false && heldFor s (cCool f) 10000000 then
    let t := (BitVec.ofInt 16 ((tjOf s f).getD 0)).toNat
    sendRec (showHalved { s with power := { s.power with heat := erase s.power.heat f } } f) .power 0 0x3001 (f + 2 ^ 31) t
  else s

/-- A sample of a stack's case temperature; at 95 °C its channels are issued to in every other slot, until it has been below
90 °C for 100 ms (R525). -/
def takeStack (n : Nat) (t : BitVec 16) (s : State) : State :=
  let m := insert s.power.stackTj n t
  let top := (m.map (fun x => x.2.toInt)).foldl max t.toInt
  let s := { s with power := { s.power with stackTj := m } }
  let s := setF s F.PWR_COOL_STACK_MAX 0 (BitVec.ofInt 16 top).toNat
  let s := hold s (cStack n) (decide (t.toInt < 900))
  let slow := (getD s.power.stackSlow n false || decide (950 ≤ t.toInt)) && !heldFor s (cStack n) 10000000
  let s := { s with power := { s.power with stackSlow := put s.power.stackSlow n slow false } }
  if decide (1050 ≤ t.toInt) then due s 2 else s

/-! ### Coolant (R528) -/

def inletHigh (s : State) : Bool := decide ((getF s F.PWR_CFG_INLET_MAX 0 : Int) < signed (getF s F.PWR_COOL_INLET 0))
def flowLow (s : State) : Bool := getF s F.PWR_COOL_FLOW 0 < getF s F.PWR_CFG_FLOW_MIN 0

/-- A sample of the coolant. -/
def takeCoolant (inlet outlet : BitVec 16) (flow : Nat) (s : State) : State :=
  let s := setF (setF (setF s F.PWR_COOL_INLET 0 inlet.toNat) F.PWR_COOL_OUTLET 0 outlet.toNat) F.PWR_COOL_FLOW 0 flow
  let out := inletHigh s || flowLow s
  showHeld (hold (hold s cOut out) cIn (!out))

/-- COOLANT_LIMIT: outside a limit for 1 s, once; back within both for 10 s, once. -/
def opCoolant (s : State) : State :=
  let d1 := getF s F.PWR_COOL_INLET 0 + getF s F.PWR_COOL_FLOW 0 * 65536
  let bits := (if inletHigh s then 1 else 0) + (if flowLow s then 2 else 0)
  if !s.power.coolTold && heldFor s cOut second then
    sendRec { s with power := { s.power with coolTold := true } } .power 0 0x3005 bits d1
  else if s.power.coolTold && heldFor s cIn (10 * second) then
    sendRec { s with power := { s.power with coolTold := false } } .power 0 0x3005 (2 ^ 31) d1
  else s

/-- TELEMETRY_SAMPLE (R521): one sample of one quantity. -/
def opTelemetry (x : Telem) (s : State) : State :=
  match x with
  | .input v => takeInput v s
  | .blade b i => takeBlade b i s
  | .rail f v i => takeRail f v i s
  | .tj f q => takeTj f q s
  | .stack c k t => takeStack (6 * c + k) t s
  | .coolant a b q => takeCoolant a b q s

def execTelemetrySample (x : Telem) (s : State) : Host.Outcome State Fault Refusal := .next (opTelemetry x s)
def execSupplyStageChange (s : State) : Host.Outcome State Fault Refusal := .next (opStage s)
def execHeatRestore (f : Fin 48) (s : State) : Host.Outcome State Fault Refusal := .next (opHeatRestore f s)
def execCoolantLimit (s : State) : Host.Outcome State Fault Refusal := .next (opCoolant s)

end Sys2Proof.Machine
end

