-- ==== Sys2Proof/Machine/RegWrite.lean ====
section
/-! DEFINITION. Writes of the configuration window, as Brois and image records make them (R15 to R18, R419, R542 to R549), and
COMMIT (R83, R150, R176, R438 to R441). -/
namespace Sys2Proof.Machine

/-! ### Access codes (R15, R544 to R546) -/

/-- The word after a write of `v`: RW and RWS fields are set, W1C bits written as 1 are cleared, everything else stays. -/
def writtenWord (r : RegName) (old v : Word) : Word :=
  let set := accMask r (fun a => a == .RW || a == .RWS)
  let clr := accMask r (· == .W1C)
  (old &&& ~~~(set ||| (clr &&& v))) ||| (v &&& set)

/-- A write that has no effect beside its fields. -/
def plainWrite (s : State) (x : RegAt) (v : Word) : State :=
  wrReg s x.reg x.unit x.inst (writtenWord x.reg (rdReg s x.reg x.unit x.inst) v)

/-! ### Accesses that are counted (R18, R548) -/

/-- Count an access in GLB_ELOG_UNDEC; the first since both counts were 0 is kept in GLB_ELOG_ADDR. -/
def noteAccess (s : State) (a : Nat) (wr offline : Bool) (link : Nat) : State :=
  let first := getF s F.GLB_ELOG_UNDEC_UNDECODED 0 == 0 && getF s F.GLB_ELOG_UNDEC_OFFLINE 0 == 0
  let s := if offline then countF s F.GLB_ELOG_UNDEC_OFFLINE 0 1 else countF s F.GLB_ELOG_UNDEC_UNDECODED 0 1
  if first then
    let s := setF (setF s F.GLB_ELOG_ADDR_ADDR 0 a) F.GLB_ELOG_ADDR_WRITE 0 (if wr then 1 else 0)
    let s := setF (setF s F.GLB_ELOG_ADDR_SHADOW 0 (a / 0x8000 % 2)) F.GLB_ELOG_ADDR_OFFLINE 0 (if offline then 1 else 0)
    setF s F.GLB_ELOG_ADDR_LINK 0 link
  else s

/-- The field whose page or tile page holds the register. -/
def fieldOf (x : RegAt) : Option Nat :=
  match (regRow x.reg).region with | .fld => some x.unit | .til => some (x.unit / 700) | _ => none

/-- The register lies in a field that is not in service. -/
def offline (s : State) (x : RegAt) : Bool := match fieldOf x with | some f => !inService s f | none => false

/-- The bits of the register's fields. -/
def fieldBits (r : RegName) : Word := accMask r (fun _ => true)

/-- The bits that a field not in service still reads and writes (R548). -/
def onlineBits (r : RegName) : Word := if housekept r then BitVec.allOnes 64 else if r = .TIL_MEM_ERR then 0 else retained r

/-- The configuration domain of a register (R438, R542). -/
def domainOf (x : RegAt) : Nat :=
  match (regRow x.reg).region with
  | .glb | .prt => 52 | .fld => x.unit | .til => x.unit / 700 | .stk => 48 + x.unit | .cfg => 53

/-! ### COMMIT (R438 to R440) -/

/-- The queue is idle (R150). -/
def queueIdle (s : State) (n : Nat) : Bool := headOf s n == tailOf s n && getI s F.GLB_CQ_STAT_INFLIGHT 0 n == 0

/-- A queue that is enabled and paced. -/
def pacedOn (s : State) (n : Nat) : Bool := cqSize s n != 0 && getI s F.GLB_CQ_CFG_PACED 0 n == 1

/-- Latch the response base of a paced queue and restart its admission sequence (R176). -/
def latchBase (s : State) (n : Nat) : State :=
  modCq s n (fun q => { q with respBase := evcOf s (getI s F.GLB_CQ_PACE_RESP_EV 0 n), admissions := 0 })

/-- The active copy of one register takes its shadow's RWC fields. -/
def commitReg (s : State) (x : RegAt) : State :=
  let m := rwcMask x.reg
  wrReg s x.reg x.unit x.inst ((rdReg s x.reg x.unit x.inst &&& ~~~m) ||| (rdShadow s x.reg x.unit x.inst &&& m))

/-- BASE, CBASE and SIZE of queue `n` would change. -/
def ringChanges (s : State) (n : Nat) : Bool :=
  getI s F.GLB_CQ_BASE_BASE 0 n != getBits (rdShadow s .GLB_CQ_BASE 0 n) 0 52 ||
    getI s F.GLB_CQ_CBASE_CBASE 0 n != getBits (rdShadow s .GLB_CQ_CBASE 0 n) 0 52 ||
    getI s F.GLB_CQ_CFG_SIZE 0 n != getBits (rdShadow s .GLB_CQ_CFG 0 n) 0 17

/-- After the switch, queue `n` of `before`: a ring that was not idle keeps its three fields (R150), a SIZE that is no power of
two is reported (R146), a paced queue latches its base (R176). -/
def settleQueue (before : State) (s : State) (n : Nat) : State :=
  let keep := ringChanges before n && !queueIdle before n
  let s := if keep then
      let s := setI (setI s F.GLB_CQ_BASE_BASE 0 n (getI before F.GLB_CQ_BASE_BASE 0 n)) F.GLB_CQ_CBASE_CBASE 0 n
        (getI before F.GLB_CQ_CBASE_CBASE 0 n)
      setI (setI s F.GLB_CQ_CFG_SIZE 0 n (getI before F.GLB_CQ_CFG_SIZE 0 n)) F.GLB_CQ_STAT_CFG_ERR 0 n 1
    else s
  let z := getI s F.GLB_CQ_CFG_SIZE 0 n
  let s := if z ≠ getI before F.GLB_CQ_CFG_SIZE 0 n && z ≠ 0 && !validSize z then setI s F.GLB_CQ_STAT_CFG_ERR 0 n 1 else s
  let ev := getI s F.GLB_CQ_PACE_RESP_EV 0 n
  if pacedOn s n && (!pacedOn before n || ev ≠ getI before F.GLB_CQ_PACE_RESP_EV 0 n) then latchBase s n else s

/-- TIL_STATUS.BYPASS of every tile of a field follows TIL_LOGXY.ASSIGNED (R86). -/
def showBypass (s : State) (f : Nat) : State :=
  (List.range 700).foldl (fun s p =>
    let g := 700 * f + p
    setF s F.TIL_STATUS_BYPASS g (1 - getF s F.TIL_LOGXY_ASSIGNED g)) s

/-- USED of quota entry `k` counts the charges of the context that it now names (R277). -/
def recountQuota (s : State) (k : Nat) : State :=
  let ctx := getI s F.GLB_QUOTA_CTX_CTX 0 k
  let places := (s.tiers.pt.filter (fun e => e.2.ctx.toNat == ctx)).flatMap (fun e => placesOf e.2)
  [0, 1, 2].foldl (fun s t => setI s F.GLB_QUOTA_USED 0 (quotaIx k t) (places.filter (fun p => placeTier p == t)).length) s

/-- An edge port that is up and whose mode changes goes down and trains again in its new mode (R485, R439; log entry 143). -/
def remode (before s : State) (p : Nat) : State :=
  if portUp s p && getI before F.PRT_EPORT_CFG_MODE 0 p != getI s F.PRT_EPORT_CFG_MODE 0 p then portDown s p else s

/-- What the units do about a new active set. -/
def settle (before : State) (s : State) (d : Nat) : State :=
  if d < 48 then
    let s := showBypass s d
    (List.range 16).foldl (fun s j =>
      let old := rdReg before .OPT_BIND d j
      if old = rdReg s .OPT_BIND d j then s else bindChanged s d j old) s
  else if d = 52 then
    let s := (List.range 256).foldl (fun s k =>
      if rdReg before .GLB_QUOTA_CTX 0 k = rdReg s .GLB_QUOTA_CTX 0 k then s else recountQuota s k) s
    let s := (List.range 32).foldl (remode before) s
    drainRecords ((List.range 64).foldl (settleQueue before) s) 300
  else s

/-- The registers of domain `d` that hold RWC fields and are listed, active or shadow. -/
def listedIn (s : State) (d : Nat) : List RegAt :=
  ((s.regs.filterMap (fun e => decodeReg e.1)).filter (fun x => hasShadow x.reg && domainOf x == d)).map
    (fun x => { x with shadow := false }) |>.eraseDups

/-- The shadow copy of every RWC field of domain `d` becomes active (R438, R439). -/
def switchDomain (s : State) (d : Nat) : State := settle s ((listedIn s d).foldl commitReg s) d

/-- A domain is in service: a field at stage A or B; every other domain. -/
def domainUp (s : State) (d : Nat) : Bool := if d < 48 then inService s d else true

/-- The loader and the sequencer own domain `d` (R441). -/
def owned (s : State) (d : Nat) : Bool := getI s F.CFG_GEN_OWNED 0 d == 1

/-- COMMIT: a write of CFG_COMMIT_d over Brois (R438, R440). -/
def opCommit (d v : Nat) (s : State) : State :=
  let why := if !domainUp s d then some 1 else if owned s d then some 2
    else if v % 65536 ≠ (getI s F.CFG_GEN_GEN 0 d + 1) % 65536 then some 0 else none
  match why with
  | some r => sendRec (setI s F.CFG_GEN_REFUSED 0 d 1) .loader 0 0x3203 (d + r * 256) (v % 65536)
  | none => setI (switchDomain s d) F.CFG_GEN_GEN 0 d (v % 65536)

/-- The loader and the sequencer commit through the same counter (R441). -/
def loaderCommit (s : State) (d : Nat) : State :=
  setI (switchDomain s d) F.CFG_GEN_GEN 0 d ((getI s F.CFG_GEN_GEN 0 d + 1) % 65536)

/-! ### Writes by register -/

/-- TIL_CTRL, without RESET (R61, R63, R87). -/
def writeTilCtrl (s : State) (g : Nat) (v : Word) : State :=
  if getF s F.TIL_STATUS_FENCED g = 1 then s
  else opTilRun g (getBits v 0 1 == 1) (opTilQuiesce g (getBits v 1 1 == 1) s)

/-- BRL_CTRL_l: RETRAIN sends the link to RECOVER, ENABLE 0 takes it out of service, in training too: STATE 0 (log
entry 148). -/
def writeBrl (s : State) (x : RegAt) (v : Word) : State :=
  let s := plainWrite s x v
  let s := if getBits v 1 1 = 1 then opRetrain x.inst s else s
  if getBits v 0 1 = 0 then setI (opLinkLoss x.inst s) F.BRL_STAT_STATE 0 x.inst 0 else s

/-- A write to an active address of a register whose behaviour needs no image and no reset. -/
def basicWrite (s : State) (x : RegAt) (v : Word) : State :=
  match x.reg with
  | .GLB_CQ_TAIL => opTail x.inst (v.setWidth 32) s
  | .GLB_CQ_CHEAD => opChead x.inst (v.setWidth 32) s
  | .GLB_CQ_CTRL => let s := plainWrite s x v; if getBits v 0 1 = 1 then opRestart x.inst s else s
  | .GLB_EVR_HEAD => opEvrHead (v.setWidth 32) s
  | .GLB_EVC => addEvc s x.inst (BitVec.ofNat 32 (getBits v 32 32))
  | .GLB_MARK => if getBits v 32 1 = 1 then opMarkClear x.inst s else s
  | .GLB_PT_INDEX => opPtIndex (getBits v 0 24) s
  | .LIF_CALENDAR => opCalendar v s
  | .LIF_SNAP => let s := plainWrite s x v; if getBits v 48 1 = 1 then opSnapNow s else s
  | .TIL_CTRL => writeTilCtrl s x.unit v
  | .TIL_RESEND => opResend x.unit v s
  | .OPT_RL_CFG => let s := plainWrite s x v; if getBits v 8 1 = 1 then askMeasure x.unit s else s
  | .STK_POUR_STOP =>
    let s := plainWrite s x v
    if getBits v 42 1 = 1 then opPourStop x.unit (getBits v 0 42) s else s
  | .PRT_CONN_CTRL => connCtrl v s
  | .PRT_RET_CTRL => if getBits v 0 1 = 1 then opInval s else s
  | .BRL_CTRL => writeBrl s x v
  | .CFG_COMMIT => opCommit x.inst (getBits v 0 16) s
  | _ => plainWrite s x v

/-- A window write that reaches its block: shadow copies, fields not in service (R548), owned domains (R441), then `write`.
`link` is the Brois link, none for an image record. -/
def writeAt (write : State → RegAt → Word → State) (s : State) (a : Nat) (v : Word) (link : Option Nat) : State :=
  match decodeReg a with
  | none => noteAccess s a true false (link.getD 0)
  | some x =>
    if x.shadow then
      if link.isSome && owned s (domainOf x) then countI s F.CFG_GEN_DISCARDS 0 (domainOf x) 1
      else wrShadow s x.reg x.unit x.inst v
    else if offline s x && fieldBits x.reg &&& ~~~(onlineBits x.reg) ≠ 0 then
      let m := onlineBits x.reg
      let old := rdReg s x.reg x.unit x.inst
      noteAccess (wrReg s x.reg x.unit x.inst ((writtenWord x.reg old v &&& m) ||| (old &&& ~~~m))) a true true (link.getD 0)
    else write s x v

/-- A record of an image writes one value (R419); the commands of the loader's and the reset registers do nothing there (log
entry 32). -/
def recordWrite (s : State) (a : Nat) (v : Word) : State := writeAt basicWrite s a v none

end Sys2Proof.Machine
end

