-- ==== Sys2Proof/Machine/TileReset.lean ====
section
/-! DEFINITION. Tile reset (R460 to R462), with the records that the cast loader kept for a fenced tile (R434). -/
namespace Sys2Proof.Machine

def ST_ABANDONED : Nat := 0x160

/-! ### Records of an image (R419) -/

/-- Write consecutive registers from a window address. -/
def recordWrites (s : State) (a : Nat) (bs : List Byte) : State :=
  ((unpackElems 64 (bs.length / 8) bs).zipIdx).foldl (fun s v => recordWrite s (a + 8 * v.2) (BitVec.ofNat 64 v.1)) s

/-- Write a record: REGS at its window address; LREGS and TMEM into tile `g`. -/
def writeRec (s : State) (g : Nat) (r : ImgRec) : State :=
  match r.kind with
  | 1 => recordWrites s r.addr r.data
  | 2 => recordWrites s (regionBase .til g + r.addr / 2 ^ 16 % 2 ^ 16) r.data
  | 3 => memWrite s g (r.addr / 2 ^ 24 % 2 ^ 24) r.data
  | _ => s

/-! ### The reset -/

/-- A tile right after R461: its router keeps its queues and links; the accumulator sets, which R461 does not name, keep their
contents (log entry 40). -/
def resetTile (t : Tile) : Tile :=
  { acc := t.acc, input := t.input, wire := t.wire, cresWire := t.cresWire, down := t.down }

/-- One tile goes through R461. Packets for its local port are discarded and counted (R462). -/
def clearTile (s : State) (g : Nat) : State :=
  let t := tileOf s g
  let s := countF s F.FLD_ELOG_DISC_RESET_PKTS (g / 700) t.localIn.length
  let s := setTile { s with regs := clearRegs s.regs (inTilePage g) retained } g (resetTile t)
  gatewayReset (setF s F.TIL_STATUS_BYPASS g (1 - getF s F.TIL_LOGXY_ASSIGNED g)) g

/-- RUNs in flight see their tiles reset (R462). -/
def abandonRuns (s : State) (gs : List Nat) : State :=
  finishRuns { s with cmd := { s.cmd with queues := s.cmd.queues.map (fun e => (e.1, { e.2 with runs := e.2.runs.map (fun j =>
    if j.tiles.any gs.contains then { j with left := j.left.filter (fun g => !gs.contains g), anyReset := true } else j) })) } }

/-- Halted pours whose every tile is reset, or lies in a lost field, complete (R462; log entry 30). -/
def abandonPours (s : State) (gs : List Nat) : State :=
  (List.range 4).foldl (fun s c =>
    (unitOf s c).pours.foldl (fun s p =>
      if p.state ≠ 3 then s
      else
        let mine := rectTiles s p.rect
        let p := { p with reset := (p.reset ++ gs.filter mine.contains).eraseDups }
        if mine.any gs.contains && mine.all (fun g => p.reset.contains g || !inService s (g / 700)) then
          closePour (putPour s c p) c p (ST_ABANDONED :: p.statuses)
        else putPour s c p) s) s

/-- The loader writes the records that it kept for the tiles, then commits their fields (R434). -/
def writeKept (s : State) (gs : List Nat) : State :=
  let own := gs.filter (fun g => !(getD s.loader.kept g []).isEmpty)
  let s := own.foldl (fun s g =>
    let rs := getD s.loader.kept g []
    rs.foldl (fun s r => writeRec s g r) { s with loader := { s.loader with kept := erase s.loader.kept g } }) s
  ((own.map (· / 700)).eraseDups).foldl loaderCommit s

/-- Reset tiles: entries of the Placement Table first, then the tiles, what waits on them, and the kept records. -/
def resetTiles (s : State) (gs : List Nat) : State :=
  if gs.isEmpty then s
  else
    let pos := gs.map (fun g => (logX s g, logY s g))
    let lost := fun (p : Nat) => pos.any (fun q => placeInTile q.1 q.2 p)
    let slow := s.tiers.pt.any (fun e => e.2.present && lost e.2.cur.toNat)
    let s := gs.foldl clearTile (resolvePlaces s lost)
    let s := writeKept (abandonPours (abandonRuns s gs) gs) gs
    sendRec s .port 0 0x3102 2 (if slow then 100000 else 500)

/-- The sequencer is saving or restoring one of the tiles (R460). -/
def sequencerHas (s : State) (gs : List Nat) : Bool :=
  match s.recov.incident with
  | some inc => (inc.phase == .retesting || inc.phase == .restoring || inc.phase == .retiring) && gs.any inc.saved.contains
  | none => false

/-- A field reset of the tile's field runs (R464). -/
def inFieldReset (s : State) (g : Nat) : Bool := getF s F.FLD_RESET_BUSY (g / 700) == 1

/-- Tiles of fields in service that no field reset holds (R464). -/
def resettable (s : State) (gs : List Nat) : List Nat := gs.filter (fun g => inService s (g / 700) && !inFieldReset s g)

/-- A reset request that meets a wider reset (R464). -/
def discardReset (s : State) : State := countF s F.GLB_START_STAT_DISCARDED 0 1

/-- The part of a tile reset request that meets a field reset is discarded, and the request counted (R464; log entry 145). -/
def discardHeld (s : State) (gs : List Nat) : State := if gs.any (inFieldReset s) then discardReset s else s

/-- GLB_TRESET_GO: a write of GLB_TRESET with GO (R460). -/
def opTreset (v : Word) (s : State) : State :=
  let s := plainWrite s { reg := .GLB_TRESET, unit := 0, inst := 0, shadow := false } v
  if getBits v 32 1 = 0 then s
  else if s.power.start then discardReset s
  else
    let all := rectTiles s { x := getBits v 0 8, y := getBits v 8 8, w := getBits v 16 8, h := getBits v 24 8 }
    let gs := resettable s all
    let s := discardHeld s all
    if gs.isEmpty then s
    else if sequencerHas s gs then setF s F.GLB_TRESET_REFUSED 0 1
    else resetTiles (setF s F.GLB_TRESET_REFUSED 0 0) gs

/-- TIL_CTRL_RESET: one tile that is not fenced (R87, R460). -/
def opTilReset (g : Nat) (s : State) : State :=
  if s.power.start then discardReset s
  else if getF s F.TIL_STATUS_FENCED g = 1 || sequencerHas s [g] then s
  else resetTiles (discardHeld s [g]) (resettable s [g])

def execGlbTresetGo (v : Word) (s : State) : Host.Outcome State Fault Refusal := .next (opTreset v s)
def execTilCtrlReset (t : TileId) (s : State) : Host.Outcome State Fault Refusal := .next (opTilReset t.gid s)

end Sys2Proof.Machine
end

