-- ==== Sys2Proof/Machine/ImgFormat.lean ====
section
/-! DEFINITION. Images: manifests and their checks (R416 to R418, R421, R422), epochs (R427, R428), payload records (R419) and
the state map (R420). -/
namespace Sys2Proof.Machine

def ST_IMAGE_CONFLICT : Nat := 0x170
def ST_CFG_BUSY : Nat := 0x171
def ST_PATCH_BASE : Nat := 0x172
def ST_SERVICE : Nat := 0x180

/-! ### Manifests (R417) -/

/-- A manifest as it stands in the image. `row1` is check 1 of R422 but for the fit, `trusted` checks 2 and 3. -/
structure Manifest where
  kind : Nat
  patchKind : Nat
  flags : Nat
  step : Nat
  typ : Nat
  unit : Nat
  family : Nat
  layout : Nat
  base : List Byte
  domains : Nat
  fieldsUsed : Nat
  field : Nat
  lo : Nat
  hi : Nat
  blocks : Nat
  length : Nat
  windows : List (Nat × Nat)
  epochs : List EpochRow
  digests : List (List Byte)
  annex : List (List Byte)
  row1 : Bool
  trusted : Bool
  size : Nat
  digest : List Byte
  raw : List Byte
  deriving DecidableEq, Repr

/-- The root hash that CFG_ROOT shows, in byte order. -/
def rootBytes : List Byte := (List.range 4).flatMap (fun w => bytesOf (Config.rootHash w).toNat 8)

/-- Bytes of the tables after the fixed part. -/
def tableBytes (kind blocks : Nat) : Nat := (if kind = 1 then 54 * 20 else 0) + 32 * blocks + (if kind = 2 then 96 * 32 else 0)

/-- Bytes of a manifest with this fixed part. -/
def manifestBytes (h : List Byte) : Nat := 0xD0 + tableBytes (fieldAt' h 4 1) (fieldAt' h 0x60 4) + 5076

/-- The first byte of the payload of an image whose manifest starts at `a` (R416). -/
def payloadAt (a size : Nat) : Nat := (a + size + 65535) / 65536 * 65536

/-- Check 1 of R422 on the fixed part; the image ends within `limit`. -/
def headerOk (h : List Byte) (a limit : Nat) : Bool :=
  let f := fun off n => fieldAt' h off n
  let kind := f 4 1
  let blocks := f 0x60 4
  let length := f 0x68 8
  h.length == 0xD0 && f 0 4 == 0x47464D43 && 1 ≤ kind && kind ≤ 3 && f 5 1 ≤ (if kind = 3 then 2 else 0) &&
    f 6 1 ≤ (if kind = 3 then 1 else 0) && f 0x5B 5 == 0 && f 0x64 4 == 0 && f 0xBC 20 == 0 && blocks ≤ 1048576 &&
    length ≤ 65536 * blocks && (blocks == 0 || 65536 * (blocks - 1) < length) && payloadAt a (manifestBytes h) + length ≤ limit

/-- Four windows of 2-byte bounds. -/
def windowsAt (bs : List Byte) (off : Nat) : List (Nat × Nat) :=
  (List.range 4).map (fun k => (fieldAt' bs (off + 4 * k) 2, fieldAt' bs (off + 4 * k + 2) 2))

/-- Pieces of `n` bytes. -/
def chunksOf (n : Nat) : Nat → List Byte → List (List Byte)
  | 0, _ => []
  | k + 1, bs => bs.take n :: chunksOf n k (bs.drop n)

/-- The manifest in `b`. -/
def manifestOf (b : List Byte) : Manifest :=
  let f := fun off n => fieldAt' b off n
  let kind := f 4 1
  let blocks := f 0x60 4
  let e0 := 0xD0
  let d0 := e0 + (if kind = 1 then 1080 else 0)
  let a0 := d0 + 32 * blocks
  let stop := 0xD0 + tableBytes kind blocks
  let key := (b.drop 0x80).take 60
  { kind, patchKind := f 5 1, flags := f 6 1, step := f 7 1, typ := f 8 8, unit := f 0x10 8, family := f 0x18 8, layout := f 0x20 8,
    base := (b.drop 0x28).take 32, domains := f 0x48 8, fieldsUsed := f 0x50 8, field := f 0x58 1, lo := f 0x59 1, hi := f 0x5A 1,
    blocks, length := f 0x68 8, windows := windowsAt b 0x70,
    epochs := if kind = 1 then (List.range 54).map (fun i => { epoch := f (e0 + 20 * i) 2, wins := windowsAt b (e0 + 20 * i + 4) }) else [],
    digests := chunksOf 32 blocks (b.drop d0),
    annex := if kind = 2 then chunksOf 32 96 (b.drop a0) else [],
    row1 := kind != 1 || (List.range 54).all (fun i => f (e0 + 20 * i + 2) 2 == 0),
    trusted := sha256 key == rootBytes && hssVerify key (b.take stop) ((b.drop stop).take 5076),
    size := stop + 5076, digest := sha256 (b.take (stop + 5076)), raw := b.take (stop + 5076) }

/-- Checks 1 to 4 of R422. -/
def Manifest.bound (m : Manifest) : Bool :=
  m.row1 && m.trusted && m.typ == 0x0000542D38345743 && m.step == 0xA1 && (m.unit == 0 || m.unit == Config.unitId.toNat)

/-- The failing outcome of R266 as a status. -/
def readStatus (f : Nat) : Nat := if f = 2 then ST_DATA_POISON else ST_FAULT_PAGE

/-- The bytes of a manifest after its header `h`. -/
def restBytes (h : List Byte) : Nat := manifestBytes h - 0xD0

/-- A manifest that is all read: checks 1 to 4 of R422. -/
def checkManifest (bs : List Byte) : Nat × Option Manifest :=
  let m := manifestOf bs
  if m.bound then (0, some m) else (ST_IMAGE_INVALID, none)

/-- The outcome of the read `q` of a manifest's bytes after its header `h`. -/
def manifestTail (h : List Byte) (q : Nat × List Byte × State) : Nat × Option Manifest × State :=
  if q.1 = 4 then (4, none, q.2.2)
  else if q.1 ≠ 0 then (readStatus q.1, none, q.2.2)
  else ((checkManifest (h ++ q.2.1)).1, (checkManifest (h ++ q.2.1)).2, q.2.2)

/-- Read a manifest in the logical range: 0 and the manifest, 4 while bytes are on their way, or the status of the check that
failed (checks 1 to 4 of R422). -/
def readManifest (s : State) (a limit : Nat) : Nat × Option Manifest × State :=
  let r := readLogical s a 0xD0
  if r.1 = 4 then (4, none, r.2.2)
  else if r.1 ≠ 0 then (readStatus r.1, none, r.2.2)
  else if !headerOk r.2.1 a limit then (ST_IMAGE_INVALID, none, r.2.2)
  else manifestTail r.2.1 (readLogical r.2.2 (a + 0xD0) (restBytes r.2.1))

/-! ### Epochs (R427, R428) -/

/-- The kind of a domain: field, crescent, port complex, cast loader. -/
def domainKind (d : Nat) : Nat := if d < 48 then 0 else if d < 52 then 1 else d - 50

/-- An epoch lies in a window. -/
def inWindow (e : Nat) (w : Nat × Nat) : Bool := w.1 ≤ e && e ≤ w.2

/-- Every ordered pair of the domains `ds` is consistent (log entry 48). -/
def consistent (row : Nat → EpochRow) (ds : List Nat) : Bool :=
  ds.all (fun a => ds.all (fun b => inWindow (row b).epoch ((row a).wins.getD (domainKind b) (0, 0))))

/-- The epoch row that a domain runs. -/
def epochRow (s : State) (d : Nat) : EpochRow := getD s.loader.epochs d {}

/-- The domains in service. -/
def domainsUp (s : State) : List Nat := (List.range 54).filter (domainUp s)

/-- A mould image's windows hold the epochs of every domain that it writes (R428). -/
def windowsHold (s : State) (m : Manifest) : Bool :=
  ((List.range 54).filter (fun d => Nat.testBit m.domains d)).all (fun d =>
    inWindow (epochRow s d).epoch (m.windows.getD (domainKind d) (0, 0)))

/-! ### Payload records (R419) -/

/-- The records of a payload, and whether they fill it. -/
def parseRecs : Nat → Nat → List Byte → List ImgRec × Bool
  | 0, _, bs => ([], bs.isEmpty)
  | n + 1, off, bs =>
    if bs.length < 16 then ([], bs.isEmpty)
    else
      let w := fieldAt' bs 0 8
      let len := w / 2 ^ 32
      if len % 8 ≠ 0 || bs.length < 16 + len then ([], false)
      else
        let r := parseRecs n (off + 16 + len) (bs.drop (16 + len))
        ({ kind := w % 256, dom := w / 256 % 64, addr := fieldAt' bs 8 8, data := (bs.drop 16).take len, offset := off } :: r.1, r.2)

def ImgRec.x (r : ImgRec) : Nat := r.addr % 256
def ImgRec.y (r : ImgRec) : Nat := r.addr / 256 % 256

/-- The domain of a record. -/
def recDomain (r : ImgRec) : Option Nat :=
  match r.kind with
  | 1 =>
    match regionOf r.addr with
    | some (.glb, _, _) | some (.prt, _, _) => some 52
    | some (.fld, f, _) => some f
    | some (.til, g, _) => some (g / 700)
    | some (.stk, c, _) => some (48 + c)
    | some (.cfg, _, _) => some 53
    | none => none
  | 2 | 3 => if r.x < 192 && r.y < 168 then some (fieldAt r.x r.y) else none
  | 4 | 5 | 6 => some 53
  | _ => none

/-- The image kinds that may hold a record. -/
def recAllowed (m : Manifest) (kind : Nat) : Bool :=
  match kind with
  | 1 => true
  | 2 => m.kind != 1
  | 3 => m.kind != 1 && m.flags == 0
  | 4 | 5 => m.kind == 2 || (m.kind == 3 && m.patchKind == 1)
  | 6 => m.kind == 3 && m.patchKind != 0
  | _ => false

/-- The record is well formed and in its domain; LIVE patches hold only REGS and LREGS (R432). -/
def recOk (m : Manifest) (r : ImgRec) : Bool :=
  recAllowed m r.kind && recDomain r == some r.dom && Nat.testBit m.domains r.dom && (m.flags == 0 || r.kind ≤ 2) &&
    (match r.kind with
    | 1 => r.addr % 8 == 0
    | 2 => r.addr / 2 ^ 16 % 8 == 0
    | 3 => r.addr / 2 ^ 24 % 64 == 0 && r.data.length % 64 == 0 && r.addr / 2 ^ 24 % 2 ^ 24 + r.data.length ≤ 0x100000
    | 4 => r.addr == 0 && r.data.length ≤ 8192
    | 5 => r.addr == 0 && r.data.length % 16 == 0 && (List.range (r.data.length / 16)).all (fun i => [2, 3, 4].contains (fieldAt' r.data (16 * i) 1))
    | _ => r.data.isEmpty)

/-- The entries of a MOULDS record: rectangle and identity. -/
def mouldEntries (r : ImgRec) : List (Rect × Nat) :=
  (List.range (r.data.length / 8)).map (fun i =>
    let b := fun k => fieldAt' r.data (8 * i + k) 1
    ({ x := b 0, y := b 1, w := b 2, h := b 3 }, fieldAt' r.data (8 * i + 4) 2))

/-- The entries of the MOULDS records. -/
def mouldsIn (rs : List ImgRec) : List (Rect × Nat) := (rs.filter (fun r => r.kind == 4)).flatMap mouldEntries

/-- No two rectangles of the list meet. -/
def apart : List Rect → Bool
  | [] => true
  | r :: rs => rs.all (fun q => !r.meets q) && apart rs

/-- A mould table holds at most 1,024 moulds, and no logical tile belongs to two of them (R114; log entry 132). -/
def mouldsFit (ms : List Rect) : Bool := ms.length ≤ 1024 && apart ms

/-- Records up to the first that is not well formed, and the offset of that one; `ms`: the moulds of the records before. -/
def goodRecs (m : Manifest) (ms : List Rect) : List ImgRec → List ImgRec × Option Nat
  | [] => ([], none)
  | r :: rs =>
    let ms := if r.kind = 4 then ms ++ (mouldEntries r).map (·.1) else ms
    if recOk m r && (r.kind != 4 || mouldsFit ms) then let q := goodRecs m ms rs; (r :: q.1, q.2) else ([], some r.offset)

/-- What has been read of a payload: the status (0, or that of the first block or record that failed), the offset at which the
reading stopped, and the records before it. -/
structure Payload where
  status : Nat
  offset : Nat
  recs : List ImgRec
  deriving DecidableEq, Repr

/-- The records of the verified bytes `bs`, the blocks ending with status `st`. -/
def payloadOf (m : Manifest) (st : Nat) (bs : List Byte) : Payload :=
  let p := parseRecs (bs.length / 16 + 1) 0 bs
  let g := goodRecs m [] p.1
  match g.2 with
  | some off => { status := ST_IMAGE_INVALID, offset := off, recs := g.1 }
  | none =>
    let stop := ((g.1.getLast?).map (fun r => r.offset + 16 + r.data.length)).getD 0
    { status := if st ≠ 0 then st else if p.2 then 0 else ST_IMAGE_INVALID, offset := stop, recs := g.1 }

/-- Read and digest the blocks of a payload in the logical range: the status of the first that fails (4 while bytes are on their
way) and the bytes before it. -/
def readBlocks' (s : State) (a : Nat) (m : Manifest) : Nat × List Byte × State :=
  m.digests.zipIdx.foldl (fun (r : Nat × List Byte × State) x =>
    if r.1 ≠ 0 then r
    else
      let n := min 65536 (m.length - 65536 * x.2)
      let q := readLogical r.2.2 (a + 65536 * x.2) n
      if q.1 = 4 then (4, r.2.1, q.2.2)
      else if q.1 ≠ 0 then (readStatus q.1, r.2.1, q.2.2)
      else if sha256 q.2.1 ≠ x.1 then (ST_IMAGE_INVALID, r.2.1, q.2.2)
      else (0, r.2.1 ++ q.2.1, q.2.2)) (0, [], s)

/-- Read a payload; none while bytes are on their way. -/
def readPayload (s : State) (addr : Nat) (m : Manifest) : Option Payload × State :=
  let r := readBlocks' s (payloadAt addr m.size) m
  if r.1 = 4 then (none, r.2.2) else (some (payloadOf m r.1 r.2.1), r.2.2)

/-- Records before the first SECTION. -/
def generalRecs (rs : List ImgRec) : List ImgRec := rs.takeWhile (fun r => r.kind != 6)

/-- Section (fid, c). -/
def sectionRecs (rs : List ImgRec) (f c : Nat) : List ImgRec :=
  ((rs.dropWhile (fun r => !(r.kind == 6 && r.x == c && r.y == f))).drop 1).takeWhile (fun r => r.kind != 6)

/-- The entries of the STATEMAP records (R420). -/
def stateMapIn (rs : List ImgRec) : List MapEntry :=
  (rs.filter (fun r => r.kind == 5)).flatMap (fun r => (List.range (r.data.length / 16)).map (fun i =>
    let b := fun k n => fieldAt' r.data (16 * i + k) n
    { kind := b 0 1, x := b 1 1, y := b 2 1, base := b 3 3, buffer := b 6 2, first := b 8 4, count := b 12 4 }))

/-- The tile that a record writes. -/
def recTile (s : State) (r : ImgRec) : Option Nat :=
  match r.kind with
  | 1 => match regionOf r.addr with | some (.til, g, _) => some g | _ => none
  | 2 | 3 => tileAt s r.x r.y
  | _ => none

/-- Write records; with `keep`, those of a fenced tile are kept for the end of its reset (R434). The domains written. -/
def writeRecs (s : State) (keep : Bool) (rs : List ImgRec) : List Nat × State :=
  rs.foldl (fun (a : List Nat × State) r =>
    let s := a.2
    match recTile s r with
    | some g =>
      if keep && getF s F.TIL_STATUS_FENCED g = 1 then
        (a.1, { s with loader := { s.loader with kept := put s.loader.kept g (getD s.loader.kept g [] ++ [r]) [] } })
      else ((r.dom :: a.1), writeRec s g r)
    | none => if r.kind = 1 then (r.dom :: a.1, writeRec s 0 r) else a) ([], s)

/-- Commit the domains written, in increasing order (R435); a domain out of service has no COMMIT (R438; log entry 144). -/
def commitAll (s : State) (ds : List Nat) : State :=
  ((List.range 54).filter (fun d => ds.contains d && domainUp s d)).foldl loaderCommit s

/-- The active set goes back into the shadows of every domain written (R435). -/
def revertShadows (s : State) (ds : List Nat) : State :=
  ds.eraseDups.foldl (fun s d => (listedIn s d).foldl (fun s x => wrShadow s x.reg x.unit x.inst (rdReg s x.reg x.unit x.inst)) s) s

end Sys2Proof.Machine
end

