-- ==== Sys2Proof/Machine/Context.lean ====
section
/-! DEFINITION. Contexts (R393 to R398): the save and the restore of tiles, as CTX_SAVE, CTX_RESTORE and the recovery sequencer
use them. -/
namespace Sys2Proof.Machine

def ST_CTX_LOST : Nat := 0x161
def ST_CTX_SPACE : Nat := 0x162

/-! ### What is saved -/

/-- The slot whose mould table holds a logical position. -/
def slotAt (s : State) (x y : Nat) : Option ImgSlot := (s.slots.map (·.2)).find? (fun e => e.moulds.any (·.has x y))

/-- Where the keys of one kind of a state map lie at a tile: key, buffer, address, for pieces of `n` bytes (R420). -/
def mapPlaces (m : List MapEntry) (kind n x y : Nat) : List (Nat × Nat) :=
  (m.filter (fun e => e.kind == kind && e.x == x && e.y == y)).flatMap (fun e =>
    (List.range e.count).map (fun i => (e.first + i, e.base + n * i)))

/-- A range of tile memory holds an uncorrectable byte. -/
def lostIn (t : Tile) (a n : Nat) : Bool := (memErrs t a n).any (fun e => eccResult 8 e.2 == .uncorrectable)

/-- Local addresses of the lane states of tile `g` that travel in LANE sections: those with no uncorrectable byte; the lines of
any other go with their poison marks into the TILE section, since a LANE payload has no mask (R366, R396; log entry 130). -/
def lanePlaces (s : State) (g : Nat) : List Nat :=
  let x := logX s g
  let y := logY s g
  ((mapPlaces ((slotAt s x y).elim [] (·.statemap)) 2 384 x y).map (·.2)).filter (fun a => !lostIn (tileOf s g) a 384)

/-- A line's bytes and its poison mask (R396). -/
def lineBytes (t : Tile) (line : Nat) : List Byte × Nat :=
  ((List.range 64).map (fun i => memByte t (line * 64 + i)),
   ((List.range 64).map (fun i => if eccResult 8 (getD t.memFlip (line * 64 + i) 0) == .uncorrectable then 2 ^ i else 0)).sum)

/-- The draw half's 128 KiB as the decoder delivers them. -/
def drawBytes (s : State) (g : Nat) : List Byte :=
  let t := tileOf s g
  let h := if getF s F.TIL_TUNDISH_DRAW g = 0 then (t.half0, t.hflip0) else (t.half1, t.hflip1)
  (List.range 16384).flatMap (fun k => bytesOf (eccDeliver 64 (leNat (rdBytes h.1 (8 * k) 8)) (getD h.2 k 0)) 8)

/-- Accumulators of the riser as the decoder delivers them. -/
def riserBytes (t : Tile) (i n : Nat) : List Byte :=
  (List.range n).flatMap (fun k => bytesOf (eccDeliver 32 (getD t.riser (i + k) 0).toNat (getD t.riserFlip (i + k) 0)) 4)

/-- The decoder counts what it meets as a save reads `n` bytes of tile memory, or `n` bytes of the riser (R364, R366, R369). -/
def logSaved (s : State) (g a n : Nat) : State :=
  let t := tileOf s g
  if inRiser a n then
    (t.riserFlip.filter (fun e => accAt a ≤ e.1 && e.1 < accAt a + n / 4 && eccResult 32 e.2 != .clean)).foldl (fun s e =>
      setF (logMemErr s g 32 2 (0x140000 + 4 * e.1) e.2) F.TIL_MEM_ERR_RISER_CE g
        (if eccResult 32 e.2 == .corrected then 1 else getF s F.TIL_MEM_ERR_RISER_CE g)) s
  else (memErrs t a n).foldl (fun s e => logMemErr s g 8 0 e.1 e.2) s

/-- A section: header and payload. -/
def sectionBytes (kind key : Nat) (bs : List Byte) : List Byte := bytesOf (kind + bs.length * 2 ^ 32) 8 ++ bytesOf key 8 ++ bs

/-- A register block: 1,024 bytes whose layout the spec does not give, and the registers that they stand for (log entry 31). -/
def saveRegs (s : State) (g : Nat) : List Byte × State :=
  let t := tileOf s g
  let bs := (List.range 128).flatMap (fun i => bytesOf (Config.freeValue (s.free + i)).toNat 8)
  let r : SavedRegs := {
    bytes := bs
    tile := { p := t.p, s := t.s, l := t.l, e := t.e, rx := t.rx, tx := t.tx, result := t.result, drawPour := t.drawPour, drawCe := t.drawCe }
    status := rdReg s .TIL_STATUS g 0
    hoist := rdReg s .TIL_HOIST g 0
    tundish := rdReg s .TIL_TUNDISH g 0
    sample := rdReg s .TIL_SAMPLE g 0
    faults := rdReg s .TIL_REC g 0 }
  (bs, { s with free := s.free + 128, recov := { s.recov with saves := r :: s.recov.saves } })

/-- The TILE section of a tile and its lines with poison marks (R396). -/
def tileSection (s : State) (g : Nat) : List Byte × Nat × State :=
  let x := logX s g
  let y := logY s g
  let t := tileOf s g
  let lanes := (lanePlaces s g).flatMap (fun a => linesOf a 384)
  let lines := (t.valid.map (·.1)).filter (fun l => lineValid t l && !lanes.contains l)
  let map := (List.range 2048).map (fun b =>
    BitVec.ofNat 8 (((lines.filter (fun l => l / 8 == b)).map (fun l => 2 ^ (l % 8))).sum))
  let data := lines.map (lineBytes t)
  let r := saveRegs (logSaved (lines.foldl (fun s l => logSaved s g (64 * l) 64) s) g 0x140000 262144) g
  (sectionBytes 1 (x + 256 * y)
      (r.1 ++ map ++ data.flatMap (fun d => d.1 ++ bytesOf d.2 8) ++ drawBytes s g ++ riserBytes t 0 65536),
    (data.filter (fun d => d.2 != 0)).length, r.2)

/-- A LANE section: a whole lane state, keyed by its LANE field at byte 0x170 (R338, R350, R396). -/
def laneSection (bs : List Byte) : List Byte := sectionBytes 2 (leNat ((bs.drop 0x170).take 4)) bs

/-- The LANE sections of a tile. -/
def laneSections (s : State) (g : Nat) : List (List Byte) × State :=
  ((lanePlaces s g).map (fun a => laneSection ((List.range 384).map (fun i => memByte (tileOf s g) (a + i)))),
    (lanePlaces s g).foldl (fun s a => logSaved s g a 384) s)

/-- The sections of tiles in exact form, and their poisoned lines. -/
def exactSections (s : State) (gs : List Nat) : List (List Byte) × Nat × State :=
  gs.foldl (fun (a : List (List Byte) × Nat × State) g =>
    let t := tileSection a.2.2 g
    let l := laneSections t.2.2 g
    (a.1 ++ t.1 :: l.1, a.2.1 + t.2.1, l.2)) ([], 0, s)

/-- Bytes of a place in tile memory or in the riser, and whether one of them is poisoned. -/
def placeOf (s : State) (g a n : Nat) : List Byte × Bool :=
  let t := tileOf s g
  if inRiser a n then
    (riserBytes t ((a - 0x140000) / 4) (n / 4),
     (List.range (n / 4)).any (fun k => eccResult 32 (getD t.riserFlip ((a - 0x140000) / 4 + k) 0) == .uncorrectable))
  else ((List.range n).map (fun i => memByte t (a + i)), (memErrs t a n).any (fun e => eccResult 8 e.2 == .uncorrectable))

/-- Bytes that a state map entry places (R420). -/
def MapEntry.size (e : MapEntry) : Nat := (match e.kind with | 2 => 384 | 3 => 4 | _ => 1) * e.count

/-- The sections of a mould in logical form, in the order of the state map, whether a poisoned byte was met, and what the reads
count. -/
def logicalSections (s : State) (r : Rect) (m : List MapEntry) : List (List Byte) × Bool × State :=
  (m.filter (fun e => r.has e.x e.y)).foldl (fun (a : List (List Byte) × Bool × State) e =>
    match tileAt a.2.2 e.x e.y with
    | none => a
    | some g =>
      let p := placeOf a.2.2 g e.base e.size
      let secs := match e.kind with
        | 2 => (chunksOf 384 e.count p.1).map laneSection
        | 3 => [sectionBytes 3 e.first p.1]
        | _ => [sectionBytes 4 (e.first + e.buffer * 2 ^ 32) p.1]
      (a.1 ++ secs, a.2.1 || p.2, logSaved a.2.2 g e.base e.size)) ([], false, s)

/-- The COLL sections of the held collectives of some contexts (R332). -/
def collSections (s : State) (ctxs : List Nat) : List (List Byte) :=
  (List.range 16).filterMap (fun c =>
    match chanOf s c with
    | some x =>
      if x.held && ctxs.contains (getI s F.GLB_CQ_CFG_CTX 0 x.q) then
        some (sectionBytes 5 c (x.bytes ++ bytesOf x.cseq 4 ++ bytesOf x.gen 4))
      else none
    | none => none)

/-- What a context's header says (R395). -/
structure CtxHead where
  magic : Nat
  mode : Nat
  mould : Nat
  family : Nat
  layout : Nat
  rect : Nat
  flags : Nat
  hoist : Nat
  sections : Nat
  poisoned : Nat
  length : Nat
  deriving DecidableEq, Repr

/-- The 64 bytes of a header. -/
def headBytes (s : State) (h : CtxHead) : List Byte :=
  bytesOf (0x31585443 + h.mode * 2 ^ 32 + h.mould * 2 ^ 48) 8 ++ bytesOf h.family 8 ++ bytesOf h.layout 8 ++
    bytesOf (h.rect + h.flags * 2 ^ 32 + h.hoist * 2 ^ 36) 8 ++ bytesOf (h.sections + h.poisoned * 2 ^ 32) 8 ++
    bytesOf h.length 8 ++ bytesOf (portTicks s) 8 ++ List.replicate 8 0

/-- Read a header. -/
def headOfBytes (b : List Byte) : CtxHead :=
  let w := fun i => fieldAt' b (8 * i) 8
  { magic := w 0 % 2 ^ 32, mode := w 0 / 2 ^ 32 % 2, mould := w 0 / 2 ^ 48, family := w 1, layout := w 2, rect := w 3 % 2 ^ 32,
    flags := w 3 / 2 ^ 32 % 16, hoist := w 3 / 2 ^ 36 % 2 ^ 15, sections := w 4 % 2 ^ 32, poisoned := w 4 / 2 ^ 32, length := w 5 }

/-- TIL_FLAGS of tiles merged by OR. -/
def tileFlags (s : State) (gs : List Nat) : Nat := gs.foldl (fun a g => a ||| getBits (rdReg s .TIL_FLAGS g 0) 0 4) 0

/-! ### What is restored -/

/-- Sections of a context: kind, key, payload. -/
def parseSections : Nat → List Byte → List (Nat × Nat × List Byte)
  | 0, _ => []
  | n + 1, bs =>
    if bs.length < 16 then []
    else
      let len := fieldAt' bs 4 4
      (fieldAt' bs 0 1, fieldAt' bs 8 8, (bs.drop 16).take len) :: parseSections n (bs.drop (16 + len))

/-- Bytes stored with the poison marks of a mask (R397). -/
def putLine (t : Tile) (line : Nat) (bs : List Byte) (mask : Nat) : Tile :=
  let t := storeBytes (openLine t line) (line * 64) bs
  { t with memFlip := (List.range 64).foldl (fun m i =>
      if Nat.testBit mask i then put m (line * 64 + i) (eccPoison 8) 0 else m) t.memFlip }

/-- The mapped lines of a TILE section, put back one after another. -/
def putLines (t : Tile) : List Nat → List Byte → Tile
  | [], _ => t
  | l :: ls, bs => putLines (putLine t l (bs.take 64) (leNat ((bs.drop 64).take 8))) ls (bs.drop 72)

/-- The registers that a register block stands for. -/
def savedRegs (s : State) (bs : List Byte) : Option SavedRegs := s.recov.saves.find? (fun r => r.bytes == bs)

/-- Put a TILE section back into tile `g` (R394, R396, R397). PRIOR_FAULT stays 1 once it is 1 (log entry 42). -/
def restoreTile (s : State) (g : Nat) (bs : List Byte) (r : SavedRegs) : State :=
  let map := leNat ((bs.drop 1024).take 2048)
  let lines := (List.range 16384).filter (Nat.testBit map)
  let rest := bs.drop 3072
  let draw := (rest.drop (72 * lines.length)).take 131072
  let riser := unpackElems 32 65536 (rest.drop (72 * lines.length + 131072))
  let d := getBits r.tundish 6 1
  let t := tileOf s g
  let t := { t with
    p := r.tile.p, s := r.tile.s, l := r.tile.l, e := r.tile.e, rx := r.tile.rx, tx := r.tile.tx, result := r.tile.result
    drawPour := r.tile.drawPour, drawCe := r.tile.drawCe
    mem := [], memFlip := [], valid := []
    half0 := if d = 0 then wrBytes [] 0 draw else []
    half1 := if d = 0 then [] else wrBytes [] 0 draw
    hflip0 := [], hflip1 := [], riser := [], riserFlip := []
    gen := [], queues := [], feeds := [], fed := [], wait := none, held := none, arr := none, issue := none, fencing := none, reads := [] }
  let t := putRiser (putLines t lines rest) 0 (riser.map (BitVec.ofNat 32))
  let s := wrReg (wrReg (setTile s g t) .TIL_HOIST g 0 r.hoist) .TIL_SAMPLE g 0 r.sample
  let prior := getF s F.TIL_REC_PRIOR_FAULT g
  let s := wrReg s .TIL_REC g 0 (r.faults ||| BitVec.ofNat 64 prior)
  let half := getBits r.tundish (3 * d) 3
  let s := wrReg s .TIL_TUNDISH g 0 (setBits (setBits r.tundish (3 * d) 3 half) (3 * (1 - d)) 3 0)
  setF (setF s F.TIL_STATUS_PC g (getBits r.status 16 20)) F.TIL_STATUS_WAITKIND g 0

/-- The tile and address that a state map gives a key of a kind. -/
def placeFor (s : State) (m : List MapEntry) (kind n buffer key : Nat) : Option (Nat × Nat) :=
  match m.find? (fun e => e.kind == kind && e.buffer == buffer && e.first ≤ key && key < e.first + e.count) with
  | some e => (tileAt s e.x e.y).map (fun g => (g, e.base + n * (key - e.first)))
  | none => none

/-- Pieces of a logical section: key within its kind and the bytes there. -/
def piecesIn (sec : Nat × Nat × List Byte) : List (Nat × List Byte) :=
  match sec.1 with
  | 2 => [(sec.2.1, sec.2.2)]
  | 3 => (chunksOf 4 (sec.2.2.length / 4) sec.2.2).zipIdx.map (fun x => (sec.2.1 + x.2, x.1))
  | 4 => (sec.2.2.zipIdx).map (fun x => (sec.2.1 % 2 ^ 32 + x.2, [x.1]))
  | _ => []

/-- The place of a piece in the target layout. -/
def piecePlaceOf (s : State) (m : List MapEntry) (sec : Nat × Nat × List Byte) (key : Nat) : Option (Nat × Nat) :=
  match sec.1 with
  | 2 => placeFor s m 2 384 0 key
  | 3 => placeFor s m 3 4 0 key
  | _ => placeFor s m 4 1 (sec.2.1 / 2 ^ 32) key

/-- Every piece of a section has a place (R394). -/
def hasPlaces (s : State) (m : List MapEntry) (sec : Nat × Nat × List Byte) : Bool :=
  (piecesIn sec).all (fun p => (piecePlaceOf s m sec p.1).isSome)

/-- Write bytes at a place in tile memory or in the riser. -/
def putPlaceOf (s : State) (g a : Nat) (bs : List Byte) : State :=
  if inRiser a bs.length then
    modTile s g (fun t => putRiser t ((a - 0x140000) / 4) ((unpackElems 32 (bs.length / 4) bs).map (BitVec.ofNat 32)))
  else memWrite s g a bs

/-- Write a lane, accumulator or buffer section where the state map places it. -/
def restoreSection (s : State) (m : List MapEntry) (sec : Nat × Nat × List Byte) : State :=
  (piecesIn sec).foldl (fun s p => match piecePlaceOf s m sec p.1 with | some q => putPlaceOf s q.1 q.2 p.2 | none => s) s

/-- The tile of a TILE section's key. -/
def keyTile (s : State) (key : Nat) : Option Nat := tileAt s (key % 256) (key / 256 % 256)

/-- Put TILE and LANE sections back, tiles first. -/
def restoreExact (s : State) (m : List MapEntry) (secs : List (Nat × Nat × List Byte)) : State :=
  let s := (secs.filter (fun x => x.1 == 1)).foldl (fun s x =>
    match keyTile s x.2.1, savedRegs s (x.2.2.take 1024) with
    | some g, some r => restoreTile s g x.2.2 r
    | _, _ => s) s
  (secs.filter (fun x => x.1 == 2)).foldl (fun s x => restoreSection s m x) s

/-! ### Fences (R384) -/

/-- A tile of a fence holds FENCED and QUIESCED (R384), or lies in a field that is out of service. -/
def fenceDone (s : State) (g : Nat) : Bool :=
  !inService s (g / 700) ||
    (getF s F.TIL_STATUS_FENCED g == 1 && getF s F.TIL_STATUS_QUIESCED g == 1)

/-- Send fence packets. -/
def sendFence (s : State) (gs : List Nat) : State := { s with recov := { s.recov with fencePkts := s.recov.fencePkts ++ gs } }

/-! ### CTX_SAVE (R393) -/

/-- The context of a mould and its length. -/
def contextBytes (s : State) (c : Cmd) (gs : List Nat) : List Byte × Bool × State :=
  let r := bodyRect c 1
  let slot := slotAt s r.x r.y
  let mode := bodyF c 0 42 1
  let m := slot.elim [] (·.statemap)
  let body : List (List Byte) × Nat × Bool × State :=
    if mode = 1 then let l := logicalSections s r m; (l.1, 0, l.2.1, l.2.2)
    else let e := exactSections s gs; (e.1, e.2.1, false, e.2.2)
  let secs := body.1 ++ collSections s (contextsOf s gs.contains)
  let len := 64 + (secs.map (·.length)).sum
  let h : CtxHead := {
    magic := 0, mode, mould := bodyF c 1 32 16, family := slot.elim 0 (·.family), layout := slot.elim 0 (·.layout)
    rect := bodyF c 1 0 32, flags := tileFlags s gs, hoist := getF s F.TIL_HOIST_GEN (gs.headD 0), sections := secs.length
    poisoned := body.2.1, length := len }
  (headBytes s h ++ secs.flatten, body.2.2.1, body.2.2.2)

/-- The conditions that keep a save from writing its context (R393, R414; log entry 147). -/
def saveConds (lost short poisoned : Bool) : List Nat :=
  (if lost then [ST_CTX_LOST] else []) ++ (if short then [ST_CTX_SPACE] else []) ++ if poisoned then [ST_DATA_POISON] else []

/-- The save itself, once the mould is fenced: the status, which R22 picks among the conditions, and DETAIL: the bytes needed, or
the bytes written. -/
def finishSave (s : State) (n : Nat) (i : W32) (c : Cmd) (gs : List Nat) (ok : Bool) : State :=
  let b := contextBytes s c gs
  let cs := saveConds (!ok) (bodyF c 2 0 32 < b.1.length) b.2.1
  let best := bestStatus cs
  if cs.isEmpty then
    let w := writeLogical b.2.2 (bodyF c 0 0 42) b.1
    if w.1 ≠ 0 then completeIdx w.2 n i (readStatus w.1) 0 else completeIdx w.2 n i ST_OK b.1.length
  else completeIdx (logOthers b.2.2 cs best) n i best (if best = ST_CTX_SPACE then b.1.length else 0)

/-- CTX_SAVE: the first time it is tried it sends the fence packets, and once every tile is fenced it saves; `ok`: every line of
every tile could be read. -/
def opCtxSave (n : Nat) (i : W32) (ok : Bool) (s : State) : State :=
  match s.recov.ctxJobs.find? (fun j => j.q == n && j.idx == i) with
  | some j =>
    if j.tiles.all (fenceDone s) then
      let s := { s with recov := { s.recov with ctxJobs := s.recov.ctxJobs.erase j } }
      match inflightCmd s n i with
      | some c => finishSave s n i c j.tiles ok
      | none => s
    else s
  | none =>
    onValid s n i 0x20 (fun c s =>
      let gs := (rectTiles s (bodyRect c 1)).filter (fun g => inService s (g / 700))
      (true, sendFence { s with recov := { s.recov with ctxJobs := s.recov.ctxJobs ++ [{ q := n, idx := i, tiles := gs }] } } gs))

/-! ### CTX_RESTORE (R394) -/

/-- The context fits the target (R394). -/
def restoreFits (s : State) (c : Cmd) (h : CtxHead) (secs : List (Nat × Nat × List Byte)) : Bool :=
  let r := bodyRect c 1
  let slot := slotAt s r.x r.y
  let m := slot.elim [] (·.statemap)
  h.magic == 0x31585443 && h.family == slot.elim 0 (·.family) && h.mould == bodyF c 1 32 16 &&
    (h.mode == 1 || (h.layout == slot.elim 0 (·.layout) && h.rect == bodyF c 1 0 32)) &&
    secs.all (fun x => match x.1 with
      | 1 => (keyTile s x.2.1).isSome && (savedRegs s (x.2.2.take 1024)).isSome
      | 2 | 3 | 4 => hasPlaces s m x
      | _ => true)

/-- The holds of the collectives that a context carries end. -/
def endSavedHolds (s : State) (secs : List (Nat × Nat × List Byte)) : State :=
  (secs.filter (fun x => x.1 == 5)).foldl (fun s x =>
    match chanOf s (x.2.1 % 16) with
    | some y => if y.held && y.cseq == fieldAt' x.2.2 64 4 then endHolds s (getI s F.GLB_CQ_CFG_CTX 0 y.q) else s
    | none => s) s

/-- The saved flags are merged into every target tile (R113). -/
def mergeFlags (s : State) (gs : List Nat) (flags : Nat) : State :=
  gs.foldl (fun s g => wrReg s .TIL_FLAGS g 0 (rdReg s .TIL_FLAGS g 0 ||| BitVec.ofNat 64 flags)) s

/-- A logical restore leaves the tiles as after a tile reset. -/
def resetQuietly (s : State) (gs : List Nat) : State :=
  let pos := gs.map (fun g => (logX s g, logY s g))
  let s := gs.foldl clearTile (resolvePlaces s (fun p => pos.any (fun q => placeInTile q.1 q.2 p)))
  writeKept (abandonPours (abandonRuns s gs) gs) gs

/-- The restore of a context that fits. -/
def applyContext (s : State) (c : Cmd) (h : CtxHead) (secs : List (Nat × Nat × List Byte)) : State :=
  let r := bodyRect c 1
  let gs := (rectTiles s r).filter (fun g => inService s (g / 700))
  let m := (slotAt s r.x r.y).elim [] (·.statemap)
  if h.mode = 1 then
    let s := resetQuietly s gs
    let s := (secs.filter (fun x => 2 ≤ x.1 && x.1 ≤ 4)).foldl (fun s x => restoreSection s m x) s
    endSavedHolds (mergeFlags (gs.foldl (fun s g => setF s F.TIL_HOIST_GEN g h.hoist) s) gs h.flags) secs
  else
    let s := mergeFlags (restoreExact s m secs) gs h.flags
    endSavedHolds (gs.foldl (fun s g => startTile (setF s F.TIL_STATUS_FENCED g 0) g) s) secs

/-- CTX_RESTORE. -/
def opCtxRestore (n : Nat) (i : W32) (s : State) : State :=
  onValid s n i 0x21 (fun c s =>
    let a := bodyF c 0 0 42
    let r := readLogical s a 64
    if r.1 = 4 then (false, r.2.2)
    else if r.1 ≠ 0 then (true, completeCmd r.2.2 n c (readStatus r.1) 0)
    else
      let h := headOfBytes r.2.1
      let q := if h.magic = 0x31585443 && h.length ≤ 2 ^ 42 then readLogical r.2.2 (a + 64) (h.length - 64) else (0, [], r.2.2)
      if q.1 = 4 then (false, q.2.2)
      else if q.1 ≠ 0 then (true, completeCmd q.2.2 n c (readStatus q.1) 0)
      else
        let secs := parseSections h.sections q.2.1
        if restoreFits q.2.2 c h secs then (true, completeCmd (applyContext q.2.2 c h secs) n c ST_OK 0)
        else (true, completeCmd q.2.2 n c 0x40 0))

def execCtxSave (n : Fin 64) (i : W32) (ok : Bool) (s : State) : Host.Outcome State Fault Refusal := .next (opCtxSave n i ok s)
def execCtxRestore (n : Fin 64) (i : W32) (s : State) : Host.Outcome State Fault Refusal := .next (opCtxRestore n i s)

end Sys2Proof.Machine
end

