-- ==== Sys2Proof/Machine/Images.lean ====
section
/-! DEFINITION. The cast loader's operations: mould image slots and PATCH (R430 to R436), staging (R425) and adoption (R429). -/
namespace Sys2Proof.Machine

/-- A reading that waits for bytes from T2 is done again: what has arrived for it is kept. -/
def again (s r : State) : State := { r with tiers := { r.tiers with staged := s.tiers.staged } }

/-! ### Slots (R430) -/

def slotState (s : State) (n : Nat) : Nat := getI s F.CFG_MI_STAT_STATE 0 n
def setSlotState (s : State) (n v : Nat) : State := setI s F.CFG_MI_STAT_STATE 0 n v
def slotOf (s : State) (n : Nat) : ImgSlot := getD s.slots n {}
def setSlot (s : State) (n : Nat) (x : ImgSlot) : State := { s with slots := put s.slots n x {} }

/-- The fields of a mask. -/
def fieldsOf (m : Nat) : List Nat := (List.range 48).filter (Nat.testBit m)

/-- The slots that are active, with their numbers. -/
def activeSlots (s : State) : List (Nat × ImgSlot) := s.slots.filter (fun e => slotState s e.1 == 2)

/-- A slot's state does not allow the action (R431, R432, R435). -/
def slotRefusal (s : State) (n action : Nat) : Option Nat :=
  match action with
  | 0 => if slotState s n = 0 then none else some ST_CFG_BUSY
  | 1 => if slotState s n = 2 then none else if slotState s n = 0 then some ST_PATCH_BASE else some ST_CFG_BUSY
  | _ => none

/-- The digest of the annex entry that an alternate or a shift map must match (R432). -/
def annexEntry (x : ImgSlot) (m : Manifest) : List Byte := x.digests.getD (if m.patchKind = 1 then m.field else 48 + m.field) []

/-- What a manifest that has passed rows 1 to 4 of R422 still fails: its KIND, service (R454), row 5 with R432, row 6. -/
def manifestRefusal (s : State) (n action : Nat) (m : Manifest) : Option Nat :=
  let x := slotOf s n
  let alt := m.patchKind == 1
  if m.kind ≠ (if action = 0 then 2 else 3) || (m.patchKind ≠ 0 && 48 ≤ m.field) then some ST_IMAGE_INVALID
  else if (m.kind = 2 || alt) && (fieldsOf m.fieldsUsed).any (fun f => !inService s f) then some ST_SERVICE
  else if m.kind = 3 && (m.base ≠ x.digest || (m.patchKind ≠ 0 && m.digest ≠ annexEntry x m) ||
      (alt && getI s F.CFG_MI_STAT_ALT 0 n != 0x3F)) then some ST_PATCH_BASE
  else if !windowsHold s m then some ST_EPOCH
  else none

/-- A loader operation starts: the domains that it writes are owned (R441), and its slot is busy. -/
def startJob (s : State) (j : LoadJob) : State :=
  let s := j.owned.foldl (fun s d => setI s F.CFG_GEN_OWNED 0 d 1) { s with loader := { s.loader with job := some j } }
  setSlotState s j.slot 1

/-- It ends. -/
def endJob (s : State) (j : LoadJob) (state status : Nat) : State :=
  let s := j.owned.foldl (fun s d => setI s F.CFG_GEN_OWNED 0 d 0) { s with loader := { s.loader with job := none } }
  completeIdx (setSlotState s j.slot state) j.q j.idx status 0

/-- The slot becomes BROKEN (R435). -/
def breakSlot (s : State) (j : LoadJob) (written : List Nat) (p : Payload) : State :=
  let s := revertShadows s written
  endJob (sendRec s .loader 0 0x3204 (j.slot + p.status * 65536) p.offset) j 3 p.status

/-- PATCH (R430): the checks of rows 1 to 6 of R422; the loader does one operation at a time. -/
def opPatch (n : Nat) (i : W32) (s : State) : State :=
  onValid s n i 0x30 (fun c s =>
    let slot := bodyF c 0 42 4
    let action := bodyF c 0 46 2
    let addr := bodyF c 0 0 42
    let job : LoadJob := { q := n, idx := i, action, slot, addr, annex := bodyF c 1 0 42, was := slotState s slot }
    if s.loader.job.isSome then (false, s)
    else
      match slotRefusal s slot action with
      | some st => (true, completeCmd s n c st 0)
      | none =>
        if action = 2 then
          if slotState s slot = 0 then (true, completeCmd s n c ST_OK 0)
          else (true, startJob s { job with owned := (slotOf s slot).fields ++ [53] })
        else
          let r := readManifest s addr (2 ^ 42)
          match r.2.1 with
          | none => if r.1 = 4 then (false, again s r.2.2) else (true, completeCmd r.2.2 n c r.1 0)
          | some m =>
            match manifestRefusal r.2.2 slot action m with
            | some st => (true, completeCmd r.2.2 n c st 0)
            | none =>
              if action = 1 && m.blocks = 0 then (true, completeCmd r.2.2 n c ST_OK_EMPTY 0)
              else (true, startJob r.2.2 { job with owned := (List.range 54).filter (Nat.testBit m.domains) }))

/-- The job that a row carries on. -/
def jobFor (s : State) (n : Nat) (i : W32) (action : Nat) : Option LoadJob :=
  s.loader.job.filter (fun j => j.q == n && j.idx == i && j.action == action)

/-! ### LOAD (R431) -/

/-- An annex manifest fits entry `i`. -/
def annexFits (s : State) (base : Manifest) (i : Nat) (p : Manifest) : Bool :=
  p.kind == 3 && p.patchKind == (if i < 48 then 1 else 2) && p.field == i % 48 && p.base == base.digest &&
    p.digest == base.annex.getD i [] && windowsHold s p

/-- Read the annex: addresses and manifests of the 96 patches, or the status of the first failure (4: wait). -/
def readAnnex (s : State) (base : Manifest) (addr : Nat) : Nat × List (Nat × Manifest) × State :=
  let r := readLogical s addr 768
  if r.1 = 4 then (4, [], r.2.2)
  else if r.1 ≠ 0 then (readStatus r.1, [], r.2.2)
  else
    (List.range 96).foldl (fun (a : Nat × List (Nat × Manifest) × State) i =>
      if a.1 ≠ 0 then a
      else
        let at_ := fieldAt' r.2.1 (8 * i) 8 % 2 ^ 42
        if at_ = 0 then (ST_IMAGE_INVALID, a.2.1, a.2.2)
        else
          let q := readManifest a.2.2 at_ (2 ^ 42)
          match q.2.1 with
          | none => (q.1, a.2.1, q.2.2)
          | some m =>
            if annexFits q.2.2 base i m then (0, a.2.1 ++ [(at_, m)], q.2.2) else (ST_IMAGE_INVALID, a.2.1, q.2.2)) (0, [], r.2.2)

/-- Digest every block of the patches: the first failing status and the offset in its payload. -/
def digestAnnex (s : State) (ps : List (Nat × Manifest)) : Nat × Nat × State :=
  ps.foldl (fun (a : Nat × Nat × State) p =>
    if a.1 ≠ 0 then a
    else
      let r := readBlocks' a.2.2 (payloadAt p.1 p.2.size) p.2
      (r.1, r.2.1.length, r.2.2)) (0, 0, s)

/-- The slot that a base image describes. -/
def slotFrom (m : Manifest) (rs : List ImgRec) (ps : List (Nat × Manifest)) : ImgSlot :=
  let ms := mouldsIn rs
  { digest := m.digest, family := m.family, layout := m.layout, moulds := ms.map (·.1), ids := ms.map (·.2), statemap := stateMapIn rs
    fields := fieldsOf m.fieldsUsed, annex := ps.map (·.1), digests := m.annex
    altFields := (ps.take 48).map (fun p => p.2.fieldsUsed) }

/-- R431: a mould meets one of an active slot, or the stream ranges meet in a field of both. -/
def conflicts (s : State) (m : Manifest) (x : ImgSlot) : Bool :=
  (activeSlots s).any (fun e =>
    x.moulds.any (fun r => e.2.moulds.any (·.meets r)) ||
      (x.fields.any e.2.fields.contains && m.lo ≤ getI s F.CFG_MI_STAT_STREAM_HI 0 e.1 && getI s F.CFG_MI_STAT_STREAM_LO 0 e.1 ≤ m.hi))

/-- The slot's registers (R430). -/
def showSlot (s : State) (n : Nat) (x : ImgSlot) (lo hi alt : Nat) : State :=
  let s := setI (setI (setI s F.CFG_MI_STAT_STREAM_LO 0 n lo) F.CFG_MI_STAT_STREAM_HI 0 n hi) F.CFG_MI_STAT_ALT 0 n alt
  setI (setI (setSlot s n x) F.CFG_MI_FAMILY_FAMILY 0 n x.family) F.CFG_MI_LAYOUT_LAYOUT 0 n x.layout

/-- The tiles that records write. -/
def tilesOf (s : State) (rs : List ImgRec) : List Nat := (rs.filterMap (recTile s)).eraseDups

/-- The base and the annex have been read: the last checks, the records, the commits. -/
def finishLoad (s : State) (j : LoadJob) (m : Manifest) (ps : List (Nat × Manifest)) (p : Payload) : State :=
  let x := slotFrom m p.recs ps
  if p.status ≠ 0 then breakSlot (showSlot s j.slot x m.lo m.hi 0x3F) j [] p
  else if conflicts s m x then endJob s j 0 ST_IMAGE_CONFLICT
  else if (tilesOf s p.recs).any (fun g => getF s F.TIL_STATUS_RUNNING g == 1) then endJob s j 0 ST_CFG_BUSY
  else
    let w := writeRecs s false p.recs
    endJob (showSlot (commitAll w.2 w.1) j.slot x m.lo m.hi 0x3F) j 2 ST_OK

/-- LOAD. -/
def opLoad (n : Nat) (i : W32) (s : State) : State :=
  match jobFor s n i 0 with
  | none => s
  | some j =>
    let r := readManifest s j.addr (2 ^ 42)
    match r.2.1 with
    | none => if r.1 = 4 then again s r.2.2 else endJob r.2.2 j 0 r.1
    | some m =>
      let a := readAnnex r.2.2 m j.annex
      if a.1 = 4 then again s a.2.2
      else if a.1 ≠ 0 then endJob a.2.2 j 0 a.1
      else
        let q := readPayload a.2.2 j.addr m
        match q.1 with
        | none => again s q.2
        | some p =>
          let d := digestAnnex q.2 a.2.1
          if d.1 = 4 then again s d.2.2
          else finishLoad d.2.2 j m a.2.1 (if p.status = 0 then { p with status := d.1, offset := d.2.1 } else p)

/-! ### APPLY (R432 to R435) -/

/-- The column whose section of a shift map an APPLY writes: the column already in bypass, or else that of the lowest tile whose
eight spare lines are used (R391; log entry 44). -/
def columnFor (s : State) (f : Nat) : Option Nat :=
  let b := getF s F.FLD_STATE_BYPASS_COL f
  if b ≠ 24 then some b
  else ((List.range 700).find? (fun pt => 8 ≤ getF s F.TIL_MEM_ERR_SPARES_USED (700 * f + pt))).map (· % 25)

/-- The records that a patch writes here. -/
def patchRecs (s : State) (m : Manifest) (rs : List ImgRec) : List ImgRec :=
  generalRecs rs ++
    (match m.patchKind with
    | 1 => (List.range 48).flatMap (fun f =>
        let b := getF s F.FLD_STATE_BYPASS_COL f
        if b = 24 then [] else sectionRecs rs f b)
    | 2 => match columnFor s m.field with | some c => sectionRecs rs m.field c | none => []
    | _ => [])

/-- A field's column goes out of use: FLD_STATE, the repair list, the ledger (R390). -/
def retireColumn (s : State) (f c : Nat) : State :=
  let s := setF s F.FLD_STATE_BYPASS_COL f c
  askSnap { s with power := { s.power with flash := { s.power.flash with columns := insert s.power.flash.columns f c } } } 1

/-- What an APPLY changes in its slot. -/
def patchSlot (s : State) (j : LoadJob) (m : Manifest) (rs : List ImgRec) : State :=
  let x := slotOf s j.slot
  match m.patchKind with
  | 1 =>
    let ms := mouldsIn (generalRecs rs)
    let x := { x with moulds := ms.map (·.1), ids := ms.map (·.2), statemap := stateMapIn (generalRecs rs),
                      fields := fieldsOf m.fieldsUsed, altAt := some j.addr }
    setI (setSlot s j.slot x) F.CFG_MI_STAT_ALT 0 j.slot m.field
  | 2 => match columnFor s m.field with | some c => retireColumn s m.field c | none => s
  | _ => s

/-- Moulds meet one of an active slot other than `n` (R114; log entry 132). -/
def meetsOther (s : State) (n : Nat) (rs : List Rect) : Bool :=
  (activeSlots s).any (fun e => e.1 != n && rs.any (fun r => e.2.moulds.any (·.meets r)))

/-- The patch has been read: the check of R432, the records, the commits. -/
def finishApply (s : State) (j : LoadJob) (m : Manifest) (p : Payload) : State :=
  let rs := patchRecs s m p.recs
  let live := m.flags == 1
  if !live && (tilesOf s rs).any (fun g => getF s F.TIL_STATUS_RUNNING g == 1 && getF s F.TIL_STATUS_FENCED g == 0) then
    endJob s j 2 ST_CFG_BUSY
  else if m.patchKind = 1 && p.status = 0 && meetsOther s j.slot ((mouldsIn (generalRecs p.recs)).map (·.1)) then
    endJob s j 2 ST_IMAGE_CONFLICT
  else
    let w := writeRecs s true rs
    if p.status ≠ 0 then breakSlot { w.2 with loader := { w.2.loader with kept := s.loader.kept } } j w.1 p
    else endJob (patchSlot (commitAll w.2 w.1) j m p.recs) j 2 ST_OK

/-- APPLY. -/
def opApply (n : Nat) (i : W32) (s : State) : State :=
  match jobFor s n i 1 with
  | none => s
  | some j =>
    let r := readManifest s j.addr (2 ^ 42)
    match r.2.1 with
    | none => if r.1 = 4 then again s r.2.2 else endJob r.2.2 j 2 r.1
    | some m =>
      let q := readPayload r.2.2 j.addr m
      match q.1 with
      | none => again s q.2
      | some p => finishApply q.2 j m p

/-! ### UNLOAD (R436) -/

/-- The route entries of a stream range in a field are cleared. -/
def clearRoutes (s : State) (f lo hi : Nat) : State :=
  (List.range 700).foldl (fun s pt =>
    (List.range (hi + 1 - lo)).foldl (fun s k => wrShadow s .TIL_ROUTE (700 * f + pt) (lo + k) 0) s) s

/-- UNLOAD. -/
def opUnload (n : Nat) (i : W32) (s : State) : State :=
  match jobFor s n i 2 with
  | none => s
  | some j =>
    let x := slotOf s j.slot
    let tiles := x.moulds.flatMap (rectTiles s)
    if tiles.any (fun g => getF s F.TIL_STATUS_RUNNING g == 1 && getF s F.TIL_STATUS_FENCED g == 0) then
      endJob s j j.was ST_CFG_BUSY
    else
      let lo := getI s F.CFG_MI_STAT_STREAM_LO 0 j.slot
      let hi := getI s F.CFG_MI_STAT_STREAM_HI 0 j.slot
      let s := commitAll (x.fields.foldl (fun s f => clearRoutes s f lo hi) s) x.fields
      endJob (showSlot s j.slot {} 0 0 0x3F) j 0 ST_OK

/-! ### Frame images (R424 to R426) -/

/-- The frame image in a flash slot by R422 in full, with the consistency of its own epoch table (R426): manifest and records, or
the status of the check that failed. -/
def frameCheck (x : FrameSlot) : Except Nat (Manifest × List ImgRec) :=
  let h := x.bytes.take 0xD0
  if !x.mark || !headerOk h 0 (2 ^ 29) then .error ST_IMAGE_INVALID
  else
    let m := manifestOf (x.bytes.take (manifestBytes h))
    let body := (x.bytes.drop (payloadAt 0 m.size)).take m.length
    let blocks := (List.range m.blocks).map (fun i => (body.drop (65536 * i)).take 65536)
    let p := payloadOf m 0 body
    if m.kind ≠ 1 || !m.bound then .error ST_IMAGE_INVALID
    else if !consistent (fun d => m.epochs.getD d {}) (List.range 54) then .error ST_EPOCH
    else if blocks.map sha256 ≠ m.digests || body.length ≠ m.length || p.status ≠ 0 then .error ST_IMAGE_INVALID
    else .ok (m, p.recs)

/-- The staging slot, changed. -/
def setStaging (s : State) (x : FrameSlot) : State :=
  { s with power := { s.power with flash := { s.power.flash with staging := x } } }

/-- Staging ends (R425, R443). -/
def endStaging (s : State) (state status blocks : Nat) : State :=
  let s := setF (setF (setF s F.CFG_STAGE_STAT_STATE 0 state) F.CFG_STAGE_STAT_STATUS 0 status) F.CFG_STAGE_STAT_BLOCKS 0 blocks
  sendRec { s with loader := { s.loader with staging := false } } .loader 0 0x3200 (status % 65536) blocks

/-- Where the image to stage starts: CFG_STAGE_SRC as it was at GO (log entry 146). -/
def stageSrc (s : State) : Nat := s.loader.stageAt

/-- The checks before the slot is erased: rows 1 to 4 of R422 and consistency; the failing status, or 4 to wait. -/
def stageCheck (s : State) : Nat × Option Manifest × State :=
  let r := readManifest s (stageSrc s) (2 ^ 42)
  match r.2.1 with
  | none => r
  | some m =>
    if m.kind ≠ 1 || 2 ^ 29 < payloadAt 0 m.size + m.length then (ST_IMAGE_INVALID, none, r.2.2)
    else if consistent (fun d => m.epochs.getD d {}) (List.range 54) then r
    else (ST_EPOCH, none, r.2.2)

/-- CFG_STAGE_GO: a domain on a section from staging, or a staging under way, turns it away. -/
def opStageGo (s : State) : State :=
  if s.loader.staging || (List.range 54).any (fun d => getI s F.CFG_EPOCH_FROM_STAGING 0 d == 1) then
    sendRec (setF s F.CFG_STAGE_STAT_STATUS 0 ST_CFG_BUSY) .loader 0 0x3200 ST_CFG_BUSY 0
  else
    let src := getF s F.CFG_STAGE_SRC_ADDR 0 / 64 * 64
    let s := setStaging s { s.power.flash.staging with mark := false, rejected := false }
    let s := setF (setF s F.CFG_STAGE_STAT_STATE 0 1) F.CFG_STAGE_STAT_BLOCKS 0 0
    let s := { s with loader := { s.loader with staging := true, stageAt := src } }
    let r := stageCheck s
    if r.1 = 0 || r.1 = 4 then again s r.2.2 else endStaging r.2.2 4 r.1 0

/-- CFG_STAGE_ABORT: the status of a staging that was stopped is a free value among the defined codes (R23). -/
def opStageAbort (s : State) : State :=
  if s.loader.staging then
    endStaging { s with free := s.free + 1 } 4 (freeStatus s.free) (getF s F.CFG_STAGE_STAT_BLOCKS 0)
  else s

/-- A write of CFG_STAGE_CTRL. -/
def opStageCtrl (v : Word) (s : State) : State :=
  let s := if getBits v 0 1 = 1 then opStageGo s else s
  if getBits v 1 1 = 1 then opStageAbort s else s

/-- STAGING_COMPLETE: manifest and blocks are in the slot, and its completion mark is written last. -/
def opStaged (s : State) : State :=
  if !s.loader.staging then s
  else
    let r := stageCheck s
    match r.2.1 with
    | none => if r.1 = 4 then again s r.2.2 else endStaging r.2.2 4 r.1 0
    | some m =>
      let q := readBlocks' r.2.2 (payloadAt (stageSrc s) m.size) m
      if q.1 = 4 then again s q.2.2
      else if q.1 ≠ 0 then
        endStaging (setStaging q.2.2 { bytes := [] }) 4 q.1 (q.2.1.length / 65536)
      else
        let gap := List.replicate (payloadAt 0 m.size - m.size) 0
        endStaging (setStaging q.2.2 { bytes := m.raw ++ gap ++ q.2.1, mark := true }) 2 ST_OK m.blocks

/-! ### Adoption (R429) -/

/-- The outcome of an adoption in CFG_STAGE_STAT. -/
def adoptEnds (s : State) (status : Nat) : State := setF s F.CFG_STAGE_STAT_STATUS 0 status

/-- A domain that cannot be changed now. -/
def adoptBusy (s : State) (d : Nat) : Bool :=
  52 ≤ d || s.loader.job.isSome || !domainUp s d ||
    (if d < 48 then !(slotsIn s d).isEmpty else !(activeSlots s).isEmpty || totalInflight s != 0)

/-- A domain takes its section of a frame image: records, commit, epoch. -/
def takeSection (s : State) (m : Manifest) (rs : List ImgRec) (d : Nat) (staged : Bool) : State :=
  let s := loaderCommit (writeRecs s false (rs.filter (fun r => r.dom == d))).2 d
  let row := m.epochs.getD d {}
  let s := setI (setI s F.CFG_EPOCH_EPOCH 0 d row.epoch) F.CFG_EPOCH_FROM_STAGING 0 d (if staged then 1 else 0)
  { s with loader := { s.loader with epochs := put s.loader.epochs d row {} } }

/-- CFG_ADOPT. -/
def opAdopt (d : Nat) (s : State) : State :=
  if adoptBusy s d then adoptEnds s ST_CFG_BUSY
  else
    match frameCheck s.power.flash.staging with
    | .error st => adoptEnds s st
    | .ok (m, rs) =>
      if !consistent (fun e => if e = d then m.epochs.getD d {} else epochRow s e) (domainsUp s) then adoptEnds s ST_EPOCH
      else
        sendRec (adoptEnds (takeSection s m rs d true) ST_OK) .loader 0 0x3202 (d + (m.epochs.getD d {}).epoch * 65536) 0

def execPatch (n : Fin 64) (i : W32) (s : State) : Host.Outcome State Fault Refusal := .next (opPatch n i s)
def execImgLoad (n : Fin 64) (i : W32) (s : State) : Host.Outcome State Fault Refusal := .next (opLoad n i s)
def execImgApply (n : Fin 64) (i : W32) (s : State) : Host.Outcome State Fault Refusal := .next (opApply n i s)
def execImgUnload (n : Fin 64) (i : W32) (s : State) : Host.Outcome State Fault Refusal := .next (opUnload n i s)
def execCfgStageGo (v : Word) (s : State) : Host.Outcome State Fault Refusal := .next (opStageCtrl v s)
def execCfgStageAbort (s : State) : Host.Outcome State Fault Refusal := .next (opStageAbort s)
def execStagingComplete (s : State) : Host.Outcome State Fault Refusal := .next (opStaged s)
def execCfgAdopt (d : Fin 64) (s : State) : Host.Outcome State Fault Refusal := .next (opAdopt d s)

end Sys2Proof.Machine
end

