-- ==== Sys2Proof/Machine/Recovery.lean ====
section
/-! DEFINITION. The recovery sequencer (R381 to R392, R401, R405, R406): fences, hand-off, save, retest, column retirement and
close; lost clock sources (R400) and the failures that make the module hold its work (R386). -/
namespace Sys2Proof.Machine

def setInc (s : State) (i : Option Incident) : State := { s with recov := { s.recov with incident := i } }

/-! ### Fences (R384) -/

/-- FENCE_PACKET. -/
def opFencePacket (g : Nat) (s : State) : State :=
  if !s.recov.fencePkts.contains g then s
  else
    let s := { s with recov := { s.recov with fencePkts := s.recov.fencePkts.erase g } }
    if !inService s (g / 700) then s
    else
      let s := haltFor (startQuiesce (setF s F.TIL_STATUS_FENCED g 1) g) g
      match s.recov.incident with
      | some inc => if inc.fenced.contains g then holdFor s (holdKey inc.what) (· == g) else (contextsOf s (· == g)).foldl holdContext s
      | none => (contextsOf s (· == g)).foldl holdContext s

/-- Every tile that the incident fences has stopped. -/
def allFenced (s : State) (inc : Incident) : Bool := inc.fenced.all (fenceDone s)

/-! ### The end of an incident (R381, R383, R392) -/

/-- The next failure that waited opens its incident. A faulted tile that has been reset meanwhile is past, and so is a link of a
column that has gone into bypass; a tile reset does not mend a link (R84). -/
def openNext (s : State) : List Failure → State
  | [] => { s with recov := { s.recov with waiting := [] } }
  | w :: ws =>
    let s' := { s with recov := { s.recov with waiting := ws } }
    match w with
    | .tile g code =>
      if inService s (g / 700) && getF s (if code = 0 then F.TIL_STATUS_BYPASS else F.TIL_STATUS_FENCED) g = (if code = 0 then 0 else 1) then
        openIncident s' w (mouldOf s g) (if code = 0 then 0 else 1)
      else openNext s ws
    | .field f cause => if inService s f then openNext s ws else openLoss s' f cause none
    | .whole .. =>
      openIncident s' w (((s.slots.flatMap (fun e => e.2.moulds)).flatMap (rectTiles s)).filter (fun g => inService s (g / 700))).eraseDups 0

/-- The incident is over: its holds end, the timers go on, the records held meanwhile are written, and the next one opens. -/
def endIncident (s : State) (inc : Incident) : State :=
  let s := setInc (resumeTimers (endHeld s (holdKey inc.what)) inc.since) none
  let s := setF (setF s F.GLB_REC_STAT_OPEN 0 0) F.GLB_REC_STAT_KIND 0 0
  let s := s.cmd.waitRecs.foldl takeRecord { s with cmd := { s.cmd with waitRecs := [] } }
  openNext s s.recov.waiting

/-! ### Hand-off (R388, R401, R405, R406) -/

/-- DETAIL0 of records 0x1000 and 0x1001. -/
def incidentCode (g code : Nat) : Nat := code + g / 700 * 2 ^ 8 + g % 700 * 2 ^ 14

/-- The incident goes to the runtime. -/
def handOff (s : State) (inc : Incident) : State :=
  let s := setF (setInc s (some { inc with phase := .handed })) F.GLB_REC_STAT_KIND 0 2
  match inc.what with
  | .tile g code =>
    let lost := inc.lost || code == 6
    sendRec s .port 0 0x1001 (incidentCode g code + (if lost then 2 ^ 30 else 0)) inc.absorbed
  | .field f cause =>
    let none_ := (slotsIn s f).any (fun x => (fieldsOf (x.altFields.getD f 0)).any (fun h => !inService s h))
    let s := sendRec s .port 0 0x1002
      (f + cause * 2 ^ 8 + (if none_ then 2 ^ 28 else 0) + (if inc.reserve then 2 ^ 29 else 0)) (inc.tiles + inc.absorbed * 2 ^ 16)
    if inc.reserve && inc.fenced.isEmpty then endIncident s inc else s
  | .whole .. => s

/-- The sequencer does not act on the incident by itself (R388, R389). -/
def forRuntime (s : State) (inc : Incident) : Bool :=
  match inc.what with
  | .tile _ code => [1, 2, 6].contains code || inc.program || inc.lost || getF s F.GLB_REC_CFG_AUTO 0 == 0 ||
      getF s F.GLB_REC_SAVE_PAGES 0 == 0
  | _ => true

/-- INCIDENT_HANDOFF. -/
def opHandoff (s : State) : State :=
  match s.recov.incident with
  | some inc => if inc.phase = .opened && allFenced s inc && forRuntime s inc then handOff s inc else s
  | none => s

/-! ### The recovery save area (R389, R390; log entry 41) -/

/-- First byte and size of the area. -/
def saveBase (s : State) : Nat := getF s F.GLB_REC_SAVE_ADDR 0 / 2 ^ 18 * 2 ^ 18
def saveSize (s : State) : Nat := getF s F.GLB_REC_SAVE_PAGES 0 * 2 ^ 18

/-- Save tiles in exact form behind what the area holds; none when it cannot take them. -/
def saveTiles (s : State) (inc : Incident) (gs : List Nat) : Option (Incident × State) :=
  let e := exactSections s gs
  let bs := e.1.flatten
  if saveSize s < inc.savedLen + bs.length then none
  else
    let n := inc.savedLen + bs.length
    let h : CtxHead := { magic := 0, mode := 0, mould := 0, family := 0, layout := 0, rect := 0,
                         flags := tileFlags s (inc.saved ++ gs), hoist := 0,
                         sections := inc.saved.length + gs.length, poisoned := e.2.1, length := n }
    let w := writeLogical e.2.2 (saveBase s + inc.savedLen) bs
    let v := writeLogical w.2 (saveBase s) (headBytes s h)
    if w.1 ≠ 0 || v.1 ≠ 0 then none else some ({ inc with saved := inc.saved ++ gs, savedLen := n }, v.2)

/-- The FLAGS and the sections of the area: 4 while its bytes are on their way. -/
def readSaved (s : State) (inc : Incident) : Nat × Nat × List (Nat × Nat × List Byte) × State :=
  let r := readLogical s (saveBase s) inc.savedLen
  (r.1, (headOfBytes r.2.1).flags, parseSections r.2.1.length (r.2.1.drop 64), r.2.2)

/-- Put the saved tiles back where their logical positions lie now, each with the state map of its own slot; the flags of the save are
merged into every one of them (R113). -/
def restoreSaved (s : State) (flags : Nat) (secs : List (Nat × Nat × List Byte)) : State :=
  let r := secs.foldl (fun (a : List MapEntry × State) x =>
    if x.1 = 1 then
      ((slotAt a.2 (x.2.1 % 256) (x.2.1 / 256 % 256)).elim [] (·.statemap), restoreExact a.2 [] [x])
    else (a.1, restoreExact a.2 a.1 [x])) ([], s)
  mergeFlags r.2 ((secs.filter (fun x => x.1 == 1)).filterMap (fun x => keyTile r.2 x.2.1)) flags

/-! ### AUTOMATIC_RECOVERY and RETEST_COMPLETE (R389) -/

/-- AUTOMATIC_RECOVERY: the faulted tile is saved, then retested or retired; `ok`: every line of it could be read. A link that
went down is not mended by a retest. -/
def opAuto (ok : Bool) (s : State) : State :=
  match s.recov.incident with
  | none => s
  | some inc =>
    match inc.what with
    | .tile g code =>
      if inc.phase ≠ .opened || !allFenced s inc || forRuntime s inc then s
      else if !ok then handOff s { inc with lost := true }
      else
        match saveTiles s inc [g] with
        | none => handOff s inc
        | some (inc, s) =>
          if code ≠ 0 && getF s F.GLB_REC_CFG_RETEST 0 = 1 && getF s F.TIL_REC_PRIOR_FAULT g = 0 then
            setInc s (some { inc with phase := .retesting })
          else setInc (setF s F.TIL_REC_PRIOR_FAULT g 1) (some { inc with phase := .retiring })
    | _ => s

/-- RETEST_COMPLETE. -/
def opRetest (pass : Bool) (s : State) : State :=
  match s.recov.incident with
  | none => s
  | some inc =>
    match inc.what with
    | .tile g _ =>
      if inc.phase ≠ .retesting then s
      else setInc (setF s F.TIL_REC_PRIOR_FAULT g 1) (some { inc with phase := if pass then .restoring else .retiring })
    | _ => s

/-! ### COLUMN_RETIRE (R390) -/

/-- The assigned tiles of field `f` at physical columns `c` to 23. -/
def shifting (s : State) (f c : Nat) : List Nat :=
  ((List.range 700).map (· + 700 * f)).filter (fun g =>
    c ≤ g % 700 % 25 && g % 700 % 25 < 24 && getF s F.TIL_LOGXY_ASSIGNED g == 1)

/-- The fence grows to every mould with a tile in the shifting columns. -/
def widenFence (s : State) (inc : Incident) (f c : Nat) : State :=
  let pos := (shifting s f c).map (fun g => (logX s g, logY s g))
  let rs := (s.slots.flatMap (fun e => e.2.moulds)).filter (fun r => pos.any (fun q => r.has q.1 q.2))
  let new := ((rs.flatMap (rectTiles s)).filter (fun g => inService s (g / 700) && !inc.fenced.contains g)).eraseDups
  setInc (sendFence s new) (some { inc with fenced := inc.fenced ++ new, column := some c })

/-- Section `c` of the shift map of field `f` for one slot: from the applied alternate, or the field's own patch (R433). -/
def shiftRecs (s : State) (x : ImgSlot) (f c : Nat) : Nat × List ImgRec × State :=
  let addr := x.altAt.getD (x.annex.getD (48 + f) 0)
  let r := readManifest s addr (2 ^ 42)
  match r.2.1 with
  | none => (r.1, [], r.2.2)
  | some m =>
    let q := readPayload r.2.2 addr m
    match q.1 with
    | none => (4, [], q.2)
    | some p => (p.status, sectionRecs p.recs f c, q.2)

/-- Those of every slot that uses the field. -/
def allShiftRecs (s : State) (f c : Nat) : Nat × List ImgRec × State :=
  (slotsIn s f).foldl (fun (a : Nat × List ImgRec × State) x =>
    if a.1 ≠ 0 then a
    else let r := shiftRecs a.2.2 x f c; (r.1, a.2.1 ++ r.2.1, r.2.2)) (0, [], s)

/-- Where tiles have gone: pairs of old and new physical tiles. -/
def renameTile (m : List (Nat × Nat)) (g : Nat) : Nat := ((m.find? (fun p => p.1 == g)).map (·.2)).getD g

/-- RUNs in flight and samplers follow the logical tiles. -/
def followTiles (s : State) (m : List (Nat × Nat)) : State :=
  let r := renameTile m
  { s with
    cmd := { s.cmd with queues := s.cmd.queues.map (fun e => (e.1, { e.2 with runs := e.2.runs.map (fun j =>
      { j with left := j.left.map r, tiles := j.tiles.map r }) })) }
    samplers := s.samplers.map (fun e => (e.1, { e.2 with
      bus := e.2.bus.map (fun b => { b with gid := r b.gid })
      results := e.2.results.map (fun b => { b with gid := r b.gid })
      sessions := e.2.sessions.map (fun x => (x.1, { x.2 with heads := x.2.heads.map (fun h => { h with gid := r h.gid }) })) })) }

/-- Tiles that now hold the logical positions of fenced ones are fenced in their place. -/
def moveFence (s : State) (inc : Incident) (m : List (Nat × Nat)) : State :=
  let new := (inc.fenced.map (renameTile m)).eraseDups
  let s := (inc.fenced.filter (fun g => !new.contains g)).foldl (fun s g => setF s F.TIL_STATUS_FENCED g 0) s
  let s := (new.filter (fun g => !inc.fenced.contains g)).foldl (fun s g =>
    setF (setF s F.TIL_STATUS_FENCED g 1) F.TIL_STATUS_QUIESCED g 1) s
  setInc s (some { inc with fenced := new })

/-- The shift map takes effect and the column goes out of use (R390 steps 3 to 5). -/
def shiftColumn (s : State) (inc : Incident) (f c : Nat) (rs : List ImgRec) : State :=
  let old := (inc.fenced.filter (fun g => g / 700 == f)).map (fun g => (g, logX s g, logY s g))
  let s := retireColumn (loaderCommit (writeRecs s false rs).2 f) f c
  let m := old.filterMap (fun o => (tileAt s o.2.1 o.2.2).map (fun h => (o.1, h)))
  followTiles (moveFence s { inc with retired := true, phase := .restoring } m) m

/-- COLUMN_RETIRE: first the fence grows, then the columns are saved and shifted; `ok`: every line could be read. -/
def opRetire (ok : Bool) (s : State) : State :=
  match s.recov.incident with
  | none => s
  | some inc =>
    match inc.what with
    | .tile g _ =>
      let f := g / 700
      let c := g % 700 % 25
      if inc.phase ≠ .retiring then s
      else if getF s F.FLD_STATE_BYPASS_COL f ≠ 24 then loseField s f 4
      else if inc.column.isNone then widenFence s inc f c
      else if !allFenced s inc then s
      else if !ok then handOff s { inc with lost := true }
      else
        let r := allShiftRecs s f c
        if r.1 = 4 then again s r.2.2
        else if r.1 ≠ 0 || (slotsIn s f).isEmpty then handOff r.2.2 inc
        else
          match saveTiles r.2.2 inc ((shifting s f c).filter (fun h => !inc.saved.contains h)) with
          | none => handOff r.2.2 inc
          | some (inc, s) => shiftColumn s inc f c r.2.1
    | _ => s

/-! ### INCIDENT_CLOSE (R392) and CLOSE (R401) -/

/-- INCIDENT_CLOSE: the saved tiles are restored, and the work resumes. -/
def opIncClose (s : State) : State :=
  match s.recov.incident with
  | none => s
  | some inc =>
    match inc.what with
    | .tile g code =>
      if inc.phase ≠ .restoring then s
      else
        let r := readSaved s inc
        if r.1 = 4 then again s r.2.2.2
        else if r.1 ≠ 0 then handOff r.2.2.2 { inc with lost := true }
        else
          let s := restoreSaved r.2.2.2 r.2.1 r.2.2.1
          let s := (inc.fenced.filter (fun h => inService s (h / 700))).foldl (fun s h => startTile (setF s F.TIL_STATUS_FENCED h 0) h) s
          let s := sendRec (resumeFenced s) .port 0 0x1000 (incidentCode g code + (if inc.retired then 2 ^ 31 else 0)) (s.now - inc.since)
          endIncident s inc
    | _ => s

/-- CLOSE: an incident that the runtime holds (R401, R403). -/
def opClose (s : State) : State :=
  match s.recov.incident with
  | some inc =>
    if inc.phase = .handed then endIncident { s with recov := { s.recov with readmit := true } } inc else s
  | none => s

/-! ### Clock sources (R400) -/

/-- CLOCK_SOURCE_LOST: the PLL holds over for 50 µs, after which `switchClock` takes the next alternate; a field whose third
alternate is lost is lost (R400; log entry 138). -/
def opClock (f : Nat) (s : State) : State :=
  if !inService s f || getF s F.FLD_CLK_HOLDOVER f = 1 then s
  else if getF s F.FLD_CLK_SOURCE f = 3 then loseField s f 3
  else setF { s with recov := { s.recov with holdover := insert s.recov.holdover f (s.now + 5000) } } F.FLD_CLK_HOLDOVER f 1

/-! ### Crescents and the port complex (R386) -/

/-- CRESCENT_OR_PORT_COMPLEX_FAILURE: unit 4 is the port complex. -/
def opUnitFailure (u : Nat) (s : State) : State :=
  let cause := if u < 4 then 0 else 1
  let unit := if u < 4 then u else 0
  sendRec (if s.recov.holding then s else holdAll s cause unit) .port 0 0x1007 cause unit

def execFencePacket (t : TileId) (s : State) : Host.Outcome State Fault Refusal := .next (opFencePacket t.gid s)
def execIncidentHandoff (s : State) : Host.Outcome State Fault Refusal := .next (opHandoff s)
def execAutomaticRecovery (ok : Bool) (s : State) : Host.Outcome State Fault Refusal := .next (opAuto ok s)
def execRetestComplete (pass : Bool) (s : State) : Host.Outcome State Fault Refusal := .next (opRetest pass s)
def execColumnRetire (ok : Bool) (s : State) : Host.Outcome State Fault Refusal := .next (opRetire ok s)
def execIncidentClose (s : State) : Host.Outcome State Fault Refusal := .next (opIncClose s)
def execRecClose (s : State) : Host.Outcome State Fault Refusal := .next (opClose s)
def execClockSourceLost (f : Fin 48) (s : State) : Host.Outcome State Fault Refusal := .next (opClock f s)
def execCrescentOrPortComplexFailure (u : Fin 5) (s : State) : Host.Outcome State Fault Refusal := .next (opUnitFailure u s)

end Sys2Proof.Machine
end

