-- ==== Sys2Proof/Machine/Bringup.lean ====
section
/-! DEFINITION. Start-up and reset (R444 to R464): cold start, field admission, warm restart, field and port reset. -/
namespace Sys2Proof.Machine

/-! ### Cold start (R446 to R449) -/

/-- INPUT_QUALIFIED: the input has stayed at or above 56 V for 20 ms. -/
def opQualified (s : State) : State :=
  if !s.power.on && heldFor s cStart 2000000 then
    setF (setF { s with power := { s.power with on := true, start := true } } F.GLB_START_STAT_PHASE 0 0) F.GLB_START_STAT_LAST_START 0 0
  else s

/-- Everything is cleared but the flash and the latest samples of the supply. -/
def coldClear (s : State) : State :=
  let p := s.power
  let d := dark (opRepairAppend s)
  setF { d with power := { d.power with on := true, start := true, vin := p.vin, vins := p.vins, blades := p.blades, since := p.since } }
    F.GLB_START_STAT_LAST_START 0 (getF s F.GLB_START_STAT_LAST_START 0)

/-- Steps 1 and 2: the ledger is read, Brois trains, the window opens at SL0. -/
def startHousekeeping (s : State) : State :=
  let s := coldClear s
  let s := startLedger { s with upSince := s.now }
  setF (setI (setI s F.BRL_STAT_STATE 0 0 1) F.BRL_STAT_STATE 0 1 1) F.GLB_START_STAT_PHASE 0 1

/-- The row remaps of the repair list (R378). -/
def applyRows (s : State) : State :=
  (s.tiers.repairList.filter (fun e => 33600 ≤ e.1)).foldl (fun s e =>
    let ch := e.1 - 33600
    setI { s with tiers := { s.tiers with rows := put s.tiers.rows (ch * 2 ^ 21 + e.2.2) (e.2.1 + 1) 0 } }
      F.STK_CH_ERR_ROWS_USED (ch / 192) (ch % 192) (e.2.1 + 1)) s

/-- The unit of a failed checker goes out of service (R379): a stack channel (row 7), the crescent (row 8), or an adder (row 9), whose
number is that of its edge port, or 32 and the field of its optical engine. -/
def unitOut (s : State) (b : CheckFail) : State :=
  match b.row with
  | 7 => { s with tiers := { s.tiers with dead := (192 * b.cres + b.number % 192) :: s.tiers.dead } }
  | 8 => opUnitFailure b.cres s
  | 9 => { s with coll := { s.coll with dead := (if b.number < 32 then b.number else 0x100 + (b.number - 32)) :: s.coll.dead } }
  | _ => s

/-- Step 3: crescents; each of their checkers that fails takes its unit out of service and sends record 0x1806 (R379). -/
def startCrescents (bad : List CheckFail) (s : State) : State :=
  let s := bad.foldl (fun s b =>
    unitOut (sendRec s (.cres b.cres) 0 0x1806 b.row b.number) b) (applyRows s)
  setF s F.GLB_START_STAT_PHASE 0 2

/-- A field's admission has been decided. -/
def decided (s : State) (f : Nat) : Bool := inService s f || getF s F.FLD_STATE_LOST f == 1

/-- Steps 5 and on: every field admitted or lost. -/
def allDecided (s : State) : Bool := (List.range 48).all (decided s)

/-- The slot that a cold start loads, and what becomes of the staging slot (R426): the active slot after a copy, and the status
of a rejected or absent image. -/
def chooseFrame (s : State) : Option (Manifest × List ImgRec) × State :=
  let fl := s.power.flash
  let put_ := fun (x : Flash) => { s with power := { s.power with flash := x } }
  match frameCheck fl.active, frameCheck fl.staging with
  | .ok a, .ok b =>
    if a.1.digest = b.1.digest then (some a, setF s F.CFG_STAGE_STAT_STATE 0 2)
    else (some b, setF (put_ { fl with active := fl.staging }) F.CFG_STAGE_STAT_STATE 0 2)
  | .ok a, .error st =>
    if fl.staging.mark then
      let told := fl.staging.rejected
      let s := setF (put_ { fl with staging := { fl.staging with rejected := true } }) F.CFG_STAGE_STAT_STATE 0 3
      (some a, if told then s else sendRec s .loader 0 0x3201 (st + 65536) 0)
    else (some a, s)
  | .error _, .ok b => (some b, setF (put_ { fl with active := fl.staging }) F.CFG_STAGE_STAT_STATE 0 2)
  | .error st, .error _ => (none, sendRec s .loader 0 0x3201 st 0)

/-- The gauge tiles that the frame image names (R530; log entry 34). -/
def nameGauges (s : State) : State :=
  (List.range 48).foldl (fun s f => (List.range 16).foldl (fun s g => setI s F.PWR_GAUGE_PTILE f g (Config.gaugeTile f g % 700)) s) s

/-- The word that the REGS records of an image give the register at window address `a`. -/
def imageWord (rs : List ImgRec) (a : Nat) : Option Nat :=
  ((rs.filter (fun r => r.kind == 1 && r.addr ≤ a && a < r.addr + r.data.length)).getLast?).map (fun r =>
    fieldAt' r.data (a - r.addr) 8)

/-- The frame image sets W at cold start, at least 256 (R263); a smaller one, or one beyond the slots of a channel, leaves the reset
value (log entry 133). -/
def setSplit (s : State) (rs : List ImgRec) : State :=
  match imageWord rs (regAddr .GLB_T1_SPLIT 0 0) with
  | some w => if 256 ≤ w % 2 ^ 21 ∧ w % 2 ^ 21 ≤ 2 ^ 20 then setF s F.GLB_T1_SPLIT_WAFER_SLOTS 0 (w % 2 ^ 21) else s
  | none => s

/-- A domain out of service gets its section in the shadows only; it is committed when the domain runs (R447). -/
def shadowSection (s : State) (m : Manifest) (rs : List ImgRec) (d : Nat) : State :=
  let row := m.epochs.getD d {}
  let s := (writeRecs s false (rs.filter (fun r => r.dom == d))).2
  { setI s F.CFG_EPOCH_EPOCH 0 d row.epoch with loader := { s.loader with epochs := put s.loader.epochs d row {} } }

/-- Steps 4 and 6: the frame image takes effect as generation 1 (R426, R447). -/
def startFrame (s : State) : State :=
  let r := chooseFrame s
  let s := r.2
  match r.1 with
  | none => { s with power := { s.power with start := false } }
  | some (m, rs) =>
    let s := setF s F.CFG_STAGE_STAT_ACTIVE_VALID 0 1
    let s := (List.range 54).foldl (fun s d => if domainUp s d then takeSection s m rs d false else shadowSection s m rs d) s
    let s := nameGauges (setF (setF (setSplit s rs) F.GLB_START_STAT_FRAME 0 1) F.GLB_START_STAT_PHASE 0 4)
    updateService { s with power := { s.power with start := false } }

/-- COLD_START: the next step of a cold start; its fields are admitted by STAGE_A, and its stage B by STAGE_B. -/
def opColdStart (bad : List CheckFail) (s : State) : State :=
  if !s.power.on || !s.power.start then s
  else
    match getF s F.GLB_START_STAT_PHASE 0 with
    | 0 => startHousekeeping s
    | 1 => startCrescents bad s
    | 2 => if allDecided s then startFrame (setF s F.GLB_START_STAT_PHASE 0 3) else s
    | _ => s

/-! ### Field admission (R448, R450, R451) -/

/-- The ring of a field (R448). -/
def ringOf (f : Nat) : Nat :=
  let x := f % 8
  let y := f / 8
  if x = 0 || x = 7 || y = 0 || y = 5 then 0 else if x = 1 || x = 6 || y = 1 || y = 4 then 1 else 2

/-- A field's turn in a cold start. -/
def coldTurn (s : State) (f : Nat) : Bool :=
  s.power.start && getF s F.GLB_START_STAT_PHASE 0 == 2 && !decided s f &&
    (List.range 48).all (fun h => ringOf f ≤ ringOf h || decided s h)

/-- A field reset waits for stage A. -/
def resetTurn (s : State) (f : Nat) : Bool := getF s F.FLD_RESET_BUSY f == 1 && !inService s f

/-- The line remaps of a field: those of the repair list, and after a field reset those not appended to it yet (R376, R378). -/
def applyLines (s : State) (f : Nat) : State :=
  ((s.tiers.repairList ++ s.tiers.repairs).filter (fun e => e.1 / 700 == f)).foldl (fun s e =>
    let s := (List.range 8).foldl (fun s k =>
      if rdReg s .TIL_REMAP e.1 k = remapWord e.2.2 then setI s F.TIL_REMAP_VALID e.1 k 0 else s) s
    wrReg (setF s F.TIL_MEM_ERR_SPARES_USED e.1 (e.2.1 + 1)) .TIL_REMAP e.1 e.2.1 (remapWord e.2.2)) s

/-- The retained column retirement and the spare lines of a field, applied before its self-test (R378, R450). -/
def applyRetained (s : State) (f : Nat) : State :=
  applyLines (match find s.power.flash.columns f with | some c => setF s F.FLD_STATE_BYPASS_COL f c | none => s) f

/-- A field is in service at stage A. -/
def admitField (s : State) (f : Nat) : State :=
  let s := { s with tiles := s.tiles.filter (fun e => e.1 / 700 != f), fieldStart := put s.fieldStart f s.now 0 }
  let s := setF (setF s F.PWR_FLD_T0_TICK f (portTicks s)) F.FLD_CLK_LOCKED f 1
  let s := setF (setF s F.FLD_STATE_LOST f 0) F.FLD_STATE_CAUSE f 0
  let s := sendRec (setSlow s f true) .power 0 0x3101 (f + 2 ^ 8) 0
  updateService (showBypass (faceUp s f) f)

/-- A field reset has ended (R458). -/
def endFieldReset (s : State) (f result : Nat) : State :=
  let s := setF (setF s F.FLD_RESET_BUSY f 0) F.FLD_RESET_RESULT f result
  if result = 1 then sendRec s .port 0 0x3102 (1 + f * 256) (s.now - getD s.power.resetAt f s.now) else s

/-- Every other field in service has completed stage B (R458). -/
def othersFull (s : State) (f : Nat) : Bool := getF s F.GLB_FLD_SLOW_FIELDS 0 &&& (2 ^ 48 - 1 - 2 ^ f) == 0

/-- A field that returns before its section was ever committed commits it now (R447). -/
def commitHeld (s : State) (f : Nat) : State :=
  if getF s F.GLB_START_STAT_FRAME 0 = 1 && getI s F.CFG_GEN_GEN 0 f = 0 then loaderCommit s f else s

/-- A field fails stage A. -/
def failA (s : State) (f cause d1 : Nat) : State :=
  let s := setF (setF s F.FLD_STATE_LOST f 1) F.FLD_STATE_CAUSE f cause
  let s := sendRec s .power 0 0x3101 (f + 3 * 2 ^ 8) d1
  if getF s F.FLD_RESET_BUSY f = 1 then endFieldReset s f 4 else s

/-- STAGE_A. -/
def opStageA (f : Nat) (e : StageEnd) (s : State) : State :=
  if !coldTurn s f && !resetTurn s f then s
  else
    match e with
    | .pass =>
      let again_ := resetTurn s f
      let s := admitField (applyRetained s f) f
      if !again_ then s
      else
        let s := commitHeld s f
        if othersFull s f then s else endFieldReset s f 1
    | .trip => failA s f 1 1
    | .noClock => failA s f 3 3
    | .checker row n => failA (sendRec (applyRetained s f) (.field f) 0 0x1806 row n) f 7 row
    | .pattern => failA (applyRetained s f) f 7 7

/-- A tile of the field runs. -/
def fieldRuns (s : State) (f : Nat) : Bool := (List.range 700).any (fun pt => getF s F.TIL_STATUS_RUNNING (700 * f + pt) == 1)

/-- STAGE_B: `pass`: the array pattern test passed in every other mode. A field whose first plan ended below the critical margin
fails (R533). Every accumulator set is left at +0. -/
def opStageB (f : Nat) (pass : Bool) (s : State) : State :=
  if !atStageA s f || getF s F.GLB_START_STAT_FRAME 0 = 0 || !getD s.power.ready f false || fieldRuns s f ||
      (getF s F.FLD_RESET_BUSY f = 1 && !othersFull s f) then s
  else
    let s := { s with tiles := (s.tiles.map (fun e => if e.1 / 700 = f then (e.1, { e.2 with acc := [] }) else e)).filter (fun e => e.2 ≠ {}) }
    let good := pass && !getD s.power.failed f false
    let s := if good then updateService (sendRec (setFull (setSlow s f false) f true) .power 0 0x3101 (f + 2 * 2 ^ 8) 0)
      else sendRec s .power 0 0x3101 (f + 3 * 2 ^ 8) (getF s F.FLD_STATE_CAUSE f)
    if getF s F.FLD_RESET_BUSY f = 1 then endFieldReset s f 1 else s

/-! ### Restarts (R455 to R457, R464) -/

/-- ARM. -/
def opArm (s : State) : State := { s with loader := { s.loader with armed := some s.now } }

/-- A restart has been armed within 1 ms. -/
def isArmed (s : State) : Bool := match s.loader.armed with | some t => s.now - t ≤ 100000 | none => false

/-- Before a restart: every command read and not completed completes with ST_ABANDONED, and held records are written (R455). -/
def abandonAll (s : State) : State :=
  let s := s.cmd.queues.foldl (fun s e =>
    (e.2.inflight ++ e.2.fetched).foldl (fun s c => completeCmd s e.1 c ST_ABANDONED 0) s) s
  drainRecords s 300

/-- What a warm restart keeps of a register: retained state, the frame image in effect, the fields' stages and losses, trained
links, power and ledger, row remaps, and charges of pages that stay where they are (R445, R456, R277; log entry 49). -/
def keepWarm (r : RegName) : Word :=
  match r with
  | .PWR_IN | .PWR_COOL | .PWR_BLADE | .PWR_FLD_RAIL | .PWR_FLD_TJ | .PWR_FLD_PLAN | .PWR_FLD_T0 | .PWR_GAUGE => BitVec.allOnes 64
  | .LIF_CALENDAR | .LIF_CAL_TICK | .LIF_STAT | .LIF_SNAP | .LIF_LB | .GLB_FLD_SLOW | .GLB_FLD_FULL => BitVec.allOnes 64
  | .GLB_START_STAT => BitVec.ofNat 64 0xFFFF
  | .FLD_STATE | .FLD_CLK | .BRL_STAT | .OPT_SUB | .OPT_PEER => BitVec.allOnes 64
  | .PRT_EPORT_STAT => BitVec.ofNat 64 7
  | .GLB_QUOTA => BitVec.allOnes 64
  | .STK_CH_ERR => fldMask F.STK_CH_ERR_ROWS_USED
  | _ => retained r

/-- What is left of writes and reads of companion memory that have left: their answers release nothing. -/
def orphans (u : CmdUnit) : CmdUnit :=
  { nextTag := u.nextTag
    writes := u.writes.map (fun w => { w with what := .data })
    reads := u.reads.map (fun r => { r with what := .readmit 0 0 }) }

/-- The owners at a warm restart (R457). -/
def warmTable (s : State) : State :=
  let moving := s.tiers.copies.map (·.page)
  let backs := (s.tiers.jobs.filter (fun j => j.action == 8)).flatMap (·.busy)
  let s := resolvePlaces s (fun p => placeTier p == 0)
  let s := (s.tiers.pt.map (·.1)).foldl (fun s p =>
    let e := ptEntry s p
    if e.migrating || moving.contains p then setPt s p { e with migrating := false } else s) s
  backs.foldl (fun s p => setPt s p { ptEntry s p with dirty := BitVec.allOnes 64 }) s

/-- The tiers keep T1 with its valid bits and remaps. -/
def warmTiers (t : Tiers) : Tiers :=
  { mem := t.mem, flip := t.flip, valid := t.valid, rows := t.rows, pt := t.pt, repairs := t.repairs, repairList := t.repairList
    dead := t.dead }

/-- A warm restart. -/
def warmRestart (s : State) : State :=
  let s := warmTable (abandonAll s)
  let fl := s.power.flash
  let fl := if s.loader.staging then { fl with staging := { fl.staging with mark := false } } else fl
  let s := surfWarm (netWarm s)
  let s := { s with
    regs := clearRegs s.regs (fun _ => true) keepWarm
    tiles := (s.tiles.map (fun e => (e.1, resetTile e.2))).filter (fun e => e.2 ≠ {})
    cmd := orphans s.cmd
    recov := {}
    slots := []
    notices := []
    cresIn := []
    tiers := warmTiers s.tiers
    samplers := []
    chains := []
    pours := []
    coll := { dead := s.coll.dead }
    loader := { epochs := s.loader.epochs, reached := s.loader.reached }
    power := { s.power with flash := fl } }
  let s := ((List.range 48).filter (inService s)).foldl showBypass s
  let s := setF s F.GLB_START_STAT_LAST_START 0 2
  sendRec { s with free := s.free + 1 } .port 0 0x3102 0 (Config.freeValue s.free).toNat

/-- WARM: armed, not within a cold start, and not before the module has first reached SL1. -/
def opWarm (s : State) : State :=
  let ok := isArmed s && !s.power.start && s.loader.reached
  let s := { s with loader := { s.loader with armed := none } }
  if ok then warmRestart s else discardReset s

/-- COLD: armed; the cold start's first step clears the module. -/
def opCold (s : State) : State :=
  let ok := isArmed s
  let s := { s with loader := { s.loader with armed := none } }
  if !ok then discardReset s
  else
    let s := abandonAll s
    let s := { s with power := { s.power with start := true }, recov := { s.recov with holding := true } }
    setF (setF s F.GLB_START_STAT_PHASE 0 0) F.GLB_START_STAT_LAST_START 0 1

/-- A write of GLB_RESET: the restart bits need an earlier write of ARM. -/
def opResetWrite (v : Word) (s : State) : State :=
  let s := if getBits v 1 1 = 1 then opWarm s else s
  let s := if getBits v 2 1 = 1 then opCold s else s
  if getBits v 0 1 = 1 then opArm s else s

/-! ### Field reset (R458, R459) -/

/-- Why a field reset is refused: 2 an active slot uses it, 3 cause. -/
def resetRefusal (s : State) (f : Nat) : Option Nat :=
  let c := getF s F.FLD_STATE_CAUSE f
  if inService s f && (activeSlots s).any (fun e => e.2.fields.contains f) then some 2
  else if getF s F.FLD_STATE_LOST f = 1 && (c = 1 || c = 4 || c = 7) then some 3
  else if getF (showHeld s) F.PWR_FLD_RAIL_HELD_OFF f = 1 then some 3
  else none

/-- The converters of a field are switched off; its tiles count as reset. -/
def switchOff (s : State) (f : Nat) : State :=
  let s := resolvePlaces s (placeInField f)
  let s := updateService (setFull (setSlow (leaveRuns (faceDown s f) (fun g => g / 700 == f)) f false) f false)
  abandonPours (dropField s f) ((List.range 700).map (· + 700 * f))

/-- FLD_RESET_GO: stage A follows, and stage B once the other fields have completed it. -/
def opFieldReset (f : Nat) (s : State) : State :=
  if s.power.start then discardReset s
  else if getF s F.FLD_RESET_BUSY f = 1 then s
  else
    match resetRefusal s f with
    | some r => setF s F.FLD_RESET_RESULT f r
    | none =>
      let s := if inService s f then switchOff s f else s
      let s := setF (setF s F.FLD_RESET_BUSY f 1) F.FLD_RESET_RESULT f 0
      { s with power := { s.power with resetAt := insert s.power.resetAt f s.now } }

/-! ### Port reset (R463) -/

/-- PRT_PORT_RESET_GO: a write of PRT_PORT_RESET. -/
def opPortReset (v : Word) (s : State) : State :=
  let p := getBits v 0 6
  let kind := getBits v 6 1
  let s := plainWrite s { reg := .PRT_PORT_RESET, unit := 0, inst := 0, shadow := false } v
  if getBits v 7 1 = 0 || (kind = 0 && 31 < p) || (kind = 1 && 47 < p) then s
  else if s.power.start then discardReset s
  else
    let s := if kind = 0 then (if portUp s p then portDown s p else s)
      else (List.range 8).foldl (fun s k => if getI s F.OPT_SUB_STATE p k = 0 then s else loseSub s p k) s
    let s := setF s F.PRT_PORT_RESET_BUSY 0 1
    { s with power := { s.power with resetAt := insert s.power.resetAt 48 s.now } }

def execInputQualified (s : State) : Host.Outcome State Fault Refusal := .next (opQualified s)
def execColdStart (bad : List CheckFail) (s : State) : Host.Outcome State Fault Refusal := .next (opColdStart bad s)
def execStageA (f : Fin 48) (e : StageEnd) (s : State) : Host.Outcome State Fault Refusal := .next (opStageA f e s)
def execStageB (f : Fin 48) (pass : Bool) (s : State) : Host.Outcome State Fault Refusal := .next (opStageB f pass s)
def execResetArm (s : State) : Host.Outcome State Fault Refusal := .next (opArm s)
def execResetWarm (s : State) : Host.Outcome State Fault Refusal := .next (opWarm s)
def execResetCold (s : State) : Host.Outcome State Fault Refusal := .next (opCold s)
def execFldResetGo (f : Fin 48) (s : State) : Host.Outcome State Fault Refusal := .next (opFieldReset f s)
def execPrtPortResetGo (v : Word) (s : State) : Host.Outcome State Fault Refusal := .next (opPortReset v s)

end Sys2Proof.Machine
end

