-- ==== Sys2Proof/Machine/Mesh.lean ====
section
/-! DEFINITION. The mesh router: flits received with their CRC and replay (R84), static and coordinate routing (R81, R82), and the
packets that cannot be forwarded (R568). A packet moves on as one; the cycle-by-cycle order of R79 is timing (log entry 9). -/
namespace Sys2Proof.Machine

/-! ### Receiving (R78, R84, R386) -/

/-- What the loss of the link into port `p` of tile `g` means to the module (R386). -/
def linkLost (s : State) (g : Nat) (p : Port) : State :=
  match neighbour s g p with
  | none =>
    match p with
    | .n | .s => tileIncident s g 0
    | _ => loseField s (g / 700) 5
  | some h =>
    if h / 700 ≠ g / 700 then loseField s (max (g / 700) (h / 700)) 6
    else
      match p with
      | .n => tileIncident s g 0
      | .s => tileIncident s h 0
      | _ => loseField s (g / 700) 5

/-- The same flit has failed its fourth attempt: the sending router declares the link down (R84), the border tile itself for a
link from a crescent. -/
def wireDown (s : State) (g : Nat) (p : Port) : State :=
  let n := wireFlits s g p
  let s := match neighbour s g p with
    | some h => closeOut (linkDown s h p.opposite n) h p.opposite.num
    | none => linkDown s g p n
  linkLost (clearWire s g p) g p

/-- The crescent link of border tile `g` at port `p` fails in the direction of the crescent: the tile declares it down. -/
def cresDown (s : State) (g : Nat) (p : Port) : State :=
  let n := ((List.range 4).flatMap (fun vc => (getD (tileOf s g).cresWire (portKey p vc) []).map (fun w => w.pkt.size - w.got))).sum
  let s := closeOut (linkDown s g p n) g p.num
  let s := modTile s g (fun t => { t with cresWire := (List.range 4).foldl (fun m vc => erase m (portKey p vc)) t.cresWire })
  linkLost s g p

/-- Flits that the input of tile `g` at port `p` holds per class: from the local port or a crescent, in the field, across a seam
(R78). -/
def depth (s : State) (g : Nat) (p : Port) : Nat :=
  if p = .local then 16
  else match neighbour s g p with
    | none => 16
    | some h => if g / 700 = h / 700 then 8 else 32

/-- The input of tile `g` at port `p` has a credit to give in class `vc`. -/
def hasRoom (s : State) (g : Nat) (p : Port) (vc : Nat) : Bool := inputFlits s g (portKey p vc) < depth s g p

/-- An output of router `h` has a credit; the local port, the discard and a crescent, which takes packets in as they come, have one
always. -/
def outRoom (s : State) (h o vc : Nat) : Bool :=
  o ≥ 4 || (match neighbour s h (portOf o) with | some g => hasRoom s g (portOf o).opposite vc | none => true)

/-- Flit `f` of the first packet of input `k` of router `h` can leave at output `o`: it has arrived, and every other output of the
packet has taken it or has a credit for it, so that the branches advance in step (R82). -/
def flitReady (s : State) (h k o f : Nat) : Bool :=
  match inputOf s h k with
  | x :: _ => f < x.arr && x.outs.all (fun e => e.1 == o || f < e.2 || (e.2 == f && outRoom s h e.1 (k % 4)))
  | [] => false

/-- The next flit of a packet from router `src` is there to be sent: a crescent's always is. -/
def flitThere (s : State) (src : Option Nat) (o vc f : Nat) : Bool :=
  match src with
  | none => true
  | some h => match sourceKey s h o vc with | some k => flitReady s h k o f | none => false

/-- The router that a packet comes from has sent one more flit. -/
def flitGone (s : State) (src : Option Nat) (o vc n : Nat) : State :=
  match src with
  | none => s
  | some h => match sourceKey s h o vc with | some k => noteSent s h k o n | none => s

/-- A flit arrives at an input: a header begins a packet. -/
def takeFlit (s : State) (g k : Nat) (q : Packet) (got : Nat) : State :=
  let xs := inputOf s g k
  let s := if got = 0 then setInput s g k (xs ++ [{ pkt := q, arr := 1 }])
    else setInput s g k (xs.dropLast ++ (xs.getLast?.map (fun x => { x with arr := x.arr + 1 })).toList)
  drainHead s g k

/-- A link after a good flit, or one more failed attempt. -/
def wireOn (w : Wired) (rest : List Wired) : List Wired :=
  if w.got + 1 < w.pkt.size then { w with got := w.got + 1, tries := 0 } :: rest else rest

/-- A flit arrives at port `p` of tile `g` (R78, R84). -/
def flitIn (g : Nat) (p : Port) (vc : Nat) (ok : Bool) (s : State) : State :=
  let k := portKey p vc
  match getD (tileOf s g).wire k [] with
  | [] => s
  | w :: rest =>
    if !hasRoom s g p vc || !flitThere s w.src p.opposite.num vc w.got then s
    else if ok then
      let s := takeFlit s g k w.pkt w.got
      let s := modTile s g (fun t => { t with wire := put t.wire k (wireOn w rest) [] })
      flitGone s w.src p.opposite.num vc (w.got + 1)
    else
      let s := setF s F.TIL_ERR_REPLAYED g 1
      if w.tries + 1 < 4 then
        modTile s g (fun t => { t with wire := put t.wire k ({ w with tries := w.tries + 1 } :: rest) [] })
      else wireDown s g p

/-- A packet has arrived at crescent `c`: an increment goes on to the command unit, which takes it at once (R169). -/
def cresTake (s : State) (c : Nat) (q : Packet) : State :=
  if q.typ = tyIncr then sendInc s q.tag q.amount else { s with cresIn := s.cresIn ++ [(c, q)] }

/-- A flit arrives at the crescent that faces port `p` of border tile `g` (R84). -/
def flitOut (g : Nat) (p : Port) (vc : Nat) (ok : Bool) (s : State) : State :=
  let k := portKey p vc
  match getD (tileOf s g).cresWire k [] with
  | [] => s
  | w :: rest =>
    if !flitThere s (some g) p.num vc w.got then s
    else if ok then
      let s := modTile s g (fun t => { t with cresWire := put t.cresWire k (wireOn w rest) [] })
      let s := flitGone s (some g) p.num vc (w.got + 1)
      if w.got + 1 < w.pkt.size then s else cresTake s w.pkt.dc w.pkt
    else if w.tries + 1 < 4 then
      modTile s g (fun t => { t with cresWire := put t.cresWire k ({ w with tries := w.tries + 1 } :: rest) [] })
    else cresDown s g p

/-- The border link of tile `g` on which a flit of a channel comes to a crescent: a corner tile has two (log entry 142). -/
def cresLink (s : State) (g vc : Nat) : Option Port :=
  [Port.n, .e, .s, .w].find? (fun p =>
    (getD (tileOf s g).cresWire (portKey p vc) []).head?.any (fun w => flitThere s (some g) p.num vc w.got))

/-- FLIT_RECEIVE, by the router or, with `p` local, by the crescent of a border link. -/
def opFlit (g : Nat) (p : Port) (vc : Nat) (ok : Bool) (s : State) : State :=
  if p = .local then
    match cresLink s g vc with
    | some o => flitOut g o vc ok s
    | none => s
  else flitIn g p vc ok s

/-! ### Forwarding (R78 to R83, R86) -/

/-- What a router can do with a packet at one output: the state in which the packet holds that output, a wait for room, or a link
that is down. -/
inductive Out where
  | sent (s : State)
  | wait
  | down
  deriving DecidableEq, Repr

/-- Take output `p` of tile `g`, towards tile `h`, for a packet (R78, R399). -/
def takeOut (s : State) (g : Nat) (p : Port) (h : Option Nat) (q : Packet) : Out :=
  if (tileOf s g).down.getLsbD p.num then .down
  else
    match h with
    | none => .down
    | some h =>
      if !inService s (h / 700) then .down
      else if getD (tileOf s h).wire (portKey p.opposite q.cls) [] = [] && hasRoom s h p.opposite q.cls then
        .sent (putWire s h p.opposite q (some g))
      else .wait

/-- Send a packet out of tile `g` at port `p` (R78, R82). -/
def sendOut (s : State) (g : Nat) (p : Port) (q : Packet) : Out := takeOut s g p (neighbour s g p) q

/-- The binding whose stream ends at this tile's optical engine (R509): route index 0xF0 + j at the gateway of its sublink. -/
def boundHere (s : State) (g stream : Nat) : Option Nat :=
  if stream < 0xF0 then none
  else
    let j := stream - 0xF0
    if gateway s (g / 700) (j / 2) = some g then some j else none

/-- A RECV is outstanding on the stream (R117). -/
def receiving (s : State) (g stream : Nat) : Bool :=
  match (tileOf s g).wait with | some ⟨.recv st _ _, _, _⟩ => st == stream | _ => false

/-- Deliver a packet from input `p` at the local port: to the optical engine of a bound stream, or to the tile. The local port has
another packet of the class in hand, or a stream packet finds no RECV outstanding: it stays in its input (R117, R119). -/
def sendLocal (s : State) (g : Nat) (p : Port) (q : Packet) : Out :=
  match if q.typ = tyStream && !q.routed then boundHere s g q.stream else none with
  | some j => match txTake s (g / 700) j q with | some t => .sent t | none => .wait
  | none =>
    if (tileOf s g).localIn.any (fun x => x.pkt.cls == q.cls && (x.arr < x.pkt.size || x.src == p.num)) ||
        (q.typ == tyStream && !receiving s g q.stream) then .wait
    else .sent (modTile s g (fun t => { t with localIn := t.localIn ++ [{ pkt := q, src := p.num, arr := 0 }] }))

/-- The packet at the head of an input, while its header has not been routed. -/
def headPacket (s : State) (g : Nat) (p : Port) (vc : Nat) : Option Packet :=
  match inputOf s g (portKey p vc) with
  | x :: _ => if x.outs.isEmpty then some x.pkt else none
  | [] => none

/-- The header of the first packet of an input takes outputs. -/
def routeHead (s : State) (g : Nat) (p : Port) (vc : Nat) (outs : List Nat) : State :=
  let k := portKey p vc
  match inputOf s g k with
  | [] => s
  | x :: xs => drainHead (setInput s g k ({ x with outs := outs.map (·, 0) } :: xs)) g k

/-- A packet that cannot be forwarded is discarded and counted in the field's error log, by its flits, whatever the case (R568; log
entry 112). -/
def discard (s : State) (g : Nat) (p : Port) (vc : Nat) (q : Packet) : State :=
  countF (routeHead s g p vc [5]) F.FLD_ELOG_DISC_LINK_FLITS (g / 700) q.size

/-- A packet that no route entry or destination lets the router forward (R82, R568): TIL_ERR.NO_ROUTE and record 0x0200 too. -/
def noRoute (s : State) (g : Nat) (p : Port) (vc : Nat) (q : Packet) : State :=
  sendRec (setF (discard s g p vc q) F.TIL_ERR_NO_ROUTE g 1) (.tile g) 0 0x0200 q.stream 0

/-- The outputs of a route entry's mask: N, E, S, W, local from bit 0. -/
def maskPorts (m : Nat) : List Port := [Port.n, .e, .s, .w, .local].filter (fun p => Nat.testBit m p.num)

/-- A packet goes to several outputs together (R82): all take it, or none. -/
def sendAll (s : State) (g : Nat) (i : Port) (q : Packet) : List Port → Out
  | [] => .sent s
  | p :: ps =>
    match if p = .local then sendLocal s g i q else sendOut s g p q with
    | .sent t => sendAll t g i q ps
    | .wait => match sendAll s g i q ps with | .down => .down | _ => .wait
    | .down => .down

/-- A tile that takes part in the mesh: its field in service, the tile not in bypass (R86). -/
def routes (s : State) (g : Nat) : Bool := inService s (g / 700) && getF s F.TIL_STATUS_BYPASS g == 0

/-- The tile next to `g` across its port `p`, E or W, by physical columns, past routers in bypass (R25, R86). -/
def stepPhys (s : State) : Nat → Nat → Port → Option Nat
  | 0, _, _ => none
  | n + 1, g, p =>
    let f := g / 700
    let row := g % 700 / 25
    let col := g % 25
    let next := match p with
      | .e => if col < 24 then some (g + 1) else if f % 8 < 7 then some ((f + 1) * 700 + row * 25) else none
      | .w => if 0 < col then some (g - 1) else if 0 < f % 8 then some ((f - 1) * 700 + row * 25 + 24) else none
      | _ => none
    match next with
    | none => none
    | some h => if getF s F.TIL_STATUS_BYPASS h = 1 then stepPhys s n h p else some h

/-- A router in bypass passes what lies in its E and W inputs straight through (R86). -/
def passThrough (s : State) (g : Nat) (p : Port) (vc : Nat) (q : Packet) : State :=
  if !inService s (g / 700) || !(p == .e || p == .w) then s
  else
    match takeOut s g p.opposite (stepPhys s 3 g p.opposite) q with
    | .sent t => routeHead t g p vc [p.opposite.num]
    | .wait => s
    | .down => discard s g p vc q

/-- STATIC_ROUTE_FORWARD (R82). A valid entry that names no output is taken like an invalid one (DESIGN CHOICE, log entry 113). -/
def opStatic (g : Nat) (p : Port) (vc : Nat) (s : State) : State :=
  match headPacket s g p vc with
  | none => s
  | some q =>
    if q.routed then s
    else if getF s F.TIL_STATUS_BYPASS g = 1 then passThrough s g p vc q
    else if !routes s g then s
    else
      let r := rdReg s .TIL_ROUTE g (q.stream % 256)
      let ports := maskPorts (getBits r 1 5)
      if getBits r 0 1 = 0 || ports.isEmpty || ports.any (fun x => x != .local && (stepPos x (logX s g) (logY s g)).isNone) then
        noRoute s g p vc q
      else
        match sendAll s g p q ports with
        | .sent t => routeHead t g p vc (ports.map (·.num))
        | .wait => s
        | .down => noRoute s g p vc q

/-- Where a coordinate-routed packet goes next: first along x, then along y (R81); none at its destination. -/
def nextPort (s : State) (g : Nat) (q : Packet) : Option Port :=
  let x := logX s g
  let y := logY s g
  if x < q.dx then some .e else if q.dx < x then some .w
  else if y < q.dy then some .s else if q.dy < y then some .n
  else none

/-- A packet leaves its border tile for the crescent. -/
def toCrescent (s : State) (g : Nat) (q : Packet) : Out :=
  let p := cresPort q.dc
  let k := portKey p q.cls
  if (tileOf s g).down.getLsbD p.num then .down
  else if getD (tileOf s g).cresWire k [] = [] then
    .sent (modTile s g (fun t => { t with cresWire := put t.cresWire k [{ pkt := q, src := some g }] [] }))
  else .wait

/-- COORDINATE_ROUTE_FORWARD (R81). -/
def opCoord (g : Nat) (p : Port) (vc : Nat) (s : State) : State :=
  match headPacket s g p vc with
  | none => s
  | some q =>
    if !q.routed then s
    else if getF s F.TIL_STATUS_BYPASS g = 1 then passThrough s g p vc q
    else if !routes s g then s
    else if 191 < q.dx || 167 < q.dy || (q.dcres && !borders q.dc q.dx q.dy) then noRoute s g p vc q
    else
      let next := nextPort s g q
      let r := match next with
        | some o => sendOut s g o q
        | none => if q.dcres then toCrescent s g q else sendLocal s g p q
      let o := match next with | some o => o.num | none => if q.dcres then (cresPort q.dc).num else 4
      match r with
      | .sent t => routeHead t g p vc [o]
      | .wait => s
      | .down => discard s g p vc q

def execFlitReceive (t : TileId) (p : Port) (vc : Fin 4) (crcOk : Bool) (s : State) : Host.Outcome State Fault Refusal :=
  .next (opFlit t.gid p vc crcOk s)
def execStaticRouteForward (t : TileId) (p : Port) (vc : Fin 4) (s : State) : Host.Outcome State Fault Refusal :=
  .next (opStatic t.gid p vc s)
def execCoordinateRouteForward (t : TileId) (p : Port) (vc : Fin 4) (s : State) : Host.Outcome State Fault Refusal :=
  .next (opCoord t.gid p vc s)

end Sys2Proof.Machine
end

