-- ==== Sys2Proof/Machine/Plan.lean ====
section
/-! DEFINITION. Wear gauges and the voltage plan (R530 to R533), and the reference oscillators (R40). -/
namespace Sys2Proof.Machine

/-! ### Gauges (R530) -/

/-- The median of the other gauges' readings. -/
def medianOther (m : List Nat) (g : Nat) : Nat := ((m.eraseIdx g).mergeSort (fun a b => a ≤ b)).getD ((m.length - 1) / 2) 0

/-- A physical column that has been retired. -/
def retiredTile (s : State) (f pt : Nat) : Bool := getF s F.FLD_STATE_BYPASS_COL f != 24 && pt % 25 == getF s F.FLD_STATE_BYPASS_COL f

/-- A gauge is to be replaced. -/
def gaugeBad (s : State) (f : Nat) (m : List Nat) (g : Nat) : Bool :=
  let r := m.getD g 0
  retiredTile s f (getI s F.PWR_GAUGE_PTILE f g) || r < 400 || 1500 < r || 10 * r < 9 * medianOther m g

/-- The next tile in ptile order whose replica is not in use. -/
def nextGauge (s : State) (f from_ : Nat) : Nat :=
  let used := (List.range 16).map (getI s F.PWR_GAUGE_PTILE f)
  (((List.range 699).map (fun i => (from_ + 1 + i) % 700)).find? (fun p => !used.contains p)).getD from_

/-- One gauge after a sweep. -/
def sweepGauge (f : Nat) (m : List Nat) (s : State) (g : Nat) : State :=
  let r := m.getD g 0
  let s := setI s F.PWR_GAUGE_FMAX f g (min r 4095)
  if gaugeBad s f m g then
    let s := setI (setI s F.PWR_GAUGE_PTILE f g (nextGauge s f (getI s F.PWR_GAUGE_PTILE f g))) F.PWR_GAUGE_SUBST f g 1
    sendRec (setI s F.PWR_GAUGE_GOOD f g 0) .power 0 0x3004 (f + g * 2 ^ 12) r
  else setI s F.PWR_GAUGE_GOOD f g 1

/-- GAUGE_SWEEP: the readings of the 16 gauges in MHz; a replica that takes over is read at the next sweep. -/
def opGauge (f : Nat) (m : List Nat) (s : State) : State :=
  if !inService s f then s
  else
    let s := (List.range 16).foldl (sweepGauge f m) s
    setF s F.PWR_FLD_PLAN_GOOD_GAUGES f ((List.range 16).filter (fun g => getI s F.PWR_GAUGE_GOOD f g == 1)).length

/-! ### The plan (R531, R532) -/

/-- The speed bin of a planned voltage (R532). -/
def binOf (v : Nat) : Nat := if v ≤ 700 then 0 else if v ≤ 750 then 1 else if v ≤ 800 then 2 else 3

/-- The lowest reading of the good gauges. -/
def lowGauge (s : State) (f : Nat) : Nat :=
  (((List.range 16).filter (fun g => getI s F.PWR_GAUGE_GOOD f g == 1)).map (getI s F.PWR_GAUGE_FMAX f)).foldl min 4095

/-- m of R531. -/
def marginOf (s : State) (f : Nat) : Int := (1000 * ((lowGauge s f : Int) - 850)).fdiv 850

/-- One plan of a field from voltage `v`; with fewer than 12 good gauges the field is at 850 mV and its plan frozen (R530). -/
def planStep (s : State) (f v : Nat) : State :=
  let old := planOf s f
  let m := marginOf s f
  let frozen := getF s F.PWR_FLD_PLAN_GOOD_GAUGES f < 12
  let lo : Int := getF s F.PWR_CFG_M_LO 0
  let new := if frozen then 850
    else if decide (m < lo) && v < 850 then v + 5
    else if decide ((getF s F.PWR_CFG_M_HI 0 : Int) < m) && 660 < v then v - 5
    else v
  let wear := if frozen then old.wear
    else if new = 850 && decide (m < (getF s F.PWR_CFG_M_CRIT 0 : Int)) then true
    else old.wear && decide (m < lo)
  let s := setF (setF s F.PWR_FLD_PLAN_V_PLAN f new) F.PWR_FLD_PLAN_BIN f (binOf new)
  let s := if frozen then s else setF s F.PWR_FLD_PLAN_MARGIN f (BitVec.ofInt 16 m).toNat
  let s := countF (setF s F.PWR_FLD_PLAN_WEAR_HALVED f (if wear then 1 else 0)) F.PWR_FLD_PLAN_PLANS f 1
  let s := showHalved { s with power := { s.power with plannedAt := insert s.power.plannedAt f s.now } } f
  let told := binOf new ≠ old.bin || (wear && !old.wear)
  let s := if told then sendRec s .power 0 0x3003 (f + binOf new * 2 ^ 8 + old.bin * 2 ^ 10 + (if wear then 2 ^ 31 else 0))
      (new + getF s F.PWR_FLD_PLAN_MARGIN f * 65536) else s
  if binOf new ≠ old.bin then askSnap s 1 else s

/-- PLAN: every 600 s of a field's power. -/
def opPlan (f : Nat) (s : State) : State :=
  if inService s f && getD s.power.ready f false && 600 * second ≤ s.now - getD s.power.plannedAt f 0 then
    planStep s f (getF s F.PWR_FLD_PLAN_V_PLAN f)
  else s

/-- The voltage that the first plan starts from (R533). -/
def firstVoltage (s : State) (f : Nat) : Nat :=
  match find s.power.ledger.plans f with
  | some p => p.v
  | none => 660 + 5 * (Config.factoryVoltage f % 39)

/-- FIRST_PLAN (R533): a step every 1 ms until the margin is in its band, the voltage at an end, or 40 steps. -/
def opFirstPlan (f : Nat) (s : State) : State :=
  if !inService s f || getF s F.GLB_START_STAT_FRAME 0 = 0 || getD s.power.ready f false ||
      s.now - getD s.power.plannedAt f 0 < 100000 then s
  else
    let n := getD s.power.steps f 0
    let s := planStep s f (if n = 0 then firstVoltage s f else getF s F.PWR_FLD_PLAN_V_PLAN f)
    let v := getF s F.PWR_FLD_PLAN_V_PLAN f
    let m := marginOf s f
    let inBand := decide ((getF s F.PWR_CFG_M_LO 0 : Int) ≤ m ∧ m ≤ getF s F.PWR_CFG_M_HI 0)
    let cool := match tjOf s f with | some t => decide (t < 900) | none => true
    let ready := (inBand || v = 660 || v = 850 || 40 ≤ n + 1) && cool
    let bad := ready && v = 850 && decide (m < (getF s F.PWR_CFG_M_CRIT 0 : Int))
    { s with power := { s.power with
      steps := put s.power.steps f (n + 1) 0
      ready := put s.power.ready f ready false
      failed := put s.power.failed f bad false } }

/-- REF_A_FAILURE (R40): the housekeeping, crescent, port and Brois clocks take REF-B; nothing else changes. -/
def opRefA (s : State) : State := { s with power := { s.power with refA := false } }

def execGaugeSweep (f : Fin 48) (m : List Nat) (s : State) : Host.Outcome State Fault Refusal := .next (opGauge f m s)
def execFieldPlan (f : Fin 48) (s : State) : Host.Outcome State Fault Refusal := .next (opPlan f s)
def execFirstPlan (f : Fin 48) (s : State) : Host.Outcome State Fault Refusal := .next (opFirstPlan f s)
def execRefAFailure (s : State) : Host.Outcome State Fault Refusal := .next (opRefA s)

end Sys2Proof.Machine
end

