-- ==== Sys2Proof/Machine/Sampler.lean ====
section
/-! DEFINITION. The token samplers (R351 to R357): headers, sessions, the choice of a token, results. -/
namespace Sys2Proof.Machine

def ST_SAMPLE_MISMATCH : Nat := 0x150
def ST_SAMPLE_INVALID : Nat := 0x151
def ST_SAMPLE_NONE : Nat := 0x152

def samplerOf (s : State) (f : Nat) : Sampler := getD s.samplers f {}
def setSampler (s : State) (f : Nat) (m : Sampler) : State := { s with samplers := put s.samplers f m {} }
def modSampler (s : State) (f : Nat) (h : Sampler → Sampler) : State := setSampler s f (h (samplerOf s f))

/-! ### Headers (R352) -/

/-- A field of unit 0. -/
def headBits (bs : List Byte) (off lo w : Nat) : Nat := leNat ((bs.drop off).take 8) / 2 ^ lo % 2 ^ w

def headSeq (m : BusMsg) : Nat := headBits m.data 0 0 32
def headSession (m : BusMsg) : Nat := headBits m.data 0 32 3

/-- A header as the sampler keeps it. -/
def headOf' (m : BusMsg) : SampHead :=
  let n := headBits m.data 0x18 0 16
  { gid := m.gid, contrib := headBits m.data 0 40 10, topk := headBits m.data 0 50 9, invTemp := headBits m.data 8 0 32,
    topP := headBits m.data 8 32 32, rand := headBits m.data 16 0 64, cands := unpackElems 64 n (m.data.drop 64) }

/-- A field breaks the table of R352 (CONTRIB and TOPK of 0 apart). -/
def headBreaks (m : BusMsg) : Bool :=
  let h := headOf' m
  let t := f32 (BitVec.ofNat 32 h.invTemp)
  let p := f32 (BitVec.ofNat 32 h.topP)
  672 < h.contrib || 256 < h.topk || !t.isFin || numBelow t (.fin false 0 0) || !p.isFin || !numBelow (.fin false 0 0) p ||
    numBelow (.fin false 1 0) p || 8 * (m.data.length / 64 - 1) < headBits m.data 0x18 0 16

/-! ### The choice (R354) -/

/-- A candidate of a contributor. -/
structure SampCand where
  value : W32
  index : Nat
  gid : Nat
  deriving DecidableEq, Repr

/-- The valid candidates of a header; a NaN is never one (R351). -/
def candsOf (h : SampHead) : List SampCand :=
  (h.cands.filter (fun c => Nat.testBit c 52 && !(f32 (BitVec.ofNat 32 c)).isNan)).map
    (fun c => { value := BitVec.ofNat 32 c, index := c / 2 ^ 32 % 2 ^ 20, gid := h.gid })

/-- Rank order: value descending with −0 and +0 tied (R351), index ascending, contributor in increasing ptile order. -/
def rankBefore (a b : SampCand) : Bool :=
  if numBelow (f32 b.value) (f32 a.value) then true
  else if numBelow (f32 a.value) (f32 b.value) then false
  else a.index < b.index || (a.index == b.index && a.gid ≤ b.gid)

/-- Running sums. -/
def runSums : W32 → List W32 → List W32
  | _, [] => []
  | a, w :: ws => let b := (addF32 a w).1; b :: runSums b ws

/-- The weights of the kept candidates. -/
def sampWeights (invTemp : W32) (vs : List W32) : List W32 :=
  let z := vs.map (fun v => (mulF32 v invTemp).1)
  let z0 := z.headD 0
  z.map (fun x =>
    match f32 z0 with
    | .inf false => if f32 x == .inf false then f32One else 0
    | .inf true => f32One
    | _ => (trimFn 7 (subF32 x z0).1).1)

/-- The place chosen, how many lie within top-p, and the probability. -/
def sampChoose (h : SampHead) (l : List SampCand) : Nat × Nat × W32 :=
  let inv := BitVec.ofNat 32 h.invTemp
  if (f32 inv).isZero then (0, 1, f32One)
  else
    let w := sampWeights inv (l.map (·.value))
    let cum := match w with | [] => [] | x :: xs => x :: runSums x xs
    let lim := (mulF32 (BitVec.ofNat 32 h.topP) (cum.getLastD 0)).1
    let m := ((List.range cum.length).find? (fun j => !numLt (f32 (cum.getD j 0)) (f32 lim))).getD (cum.length - 1)
    let t := (mulF32 (toF32 (.fin false (h.rand / 2 ^ 40) (-24))) (cum.getD m 0)).1
    let i := ((List.range (m + 1)).find? (fun j => numLt (f32 t) (f32 (cum.getD j 0)))).getD m
    (i, m + 1, divF32 (w.getD i 0) (cum.getD m 0))

/-! ### Results (R355) -/

/-- The 64 bytes of a result. -/
def resultBytes (status session seq token rank kept : Nat) (logit prob : W32) (received : Nat) : List Byte :=
  bytesOf (token + rank * 2 ^ 20 + status * 2 ^ 32) 8 ++ bytesOf (seq + session * 2 ^ 32 + kept * 2 ^ 40) 8 ++
    bytesOf (logit.toNat + prob.toNat * 2 ^ 32) 8 ++ bytesOf received 40

/-- A result on its way to a tile. -/
def sendResult (s : State) (f g : Nat) (bs : List Byte) : State :=
  modSampler s f (fun m => { m with results := m.results ++ [⟨g, bs⟩] })

/-- A result without a token. -/
def plainResult (status session seq received : Nat) : List Byte := resultBytes status session seq 0 0 0 0 0 received

/-- The result of a session that has all its headers (R353, R354). -/
def sessionResult (ses : Nat) (x : Session) : Nat × List Byte :=
  let all := x.heads.flatMap candsOf
  let same := match x.heads with
    | [] => true
    | h :: t => t.all (fun y => y.contrib == h.contrib && y.topk == h.topk && y.invTemp == h.invTemp && y.topP == h.topP && y.rand == h.rand)
  match x.heads with
  | [] => (ST_SAMPLE_NONE, plainResult ST_SAMPLE_NONE ses x.seq 0)
  | h :: _ =>
    if !same then (ST_SAMPLE_MISMATCH, plainResult ST_SAMPLE_MISMATCH ses x.seq all.length)
    else
      let l := (all.mergeSort rankBefore).take h.topk
      if l.isEmpty then (ST_SAMPLE_NONE, plainResult ST_SAMPLE_NONE ses x.seq all.length)
      else
        let r := sampChoose h l
        let e := l.getD r.1 { value := 0, index := 0, gid := 0 }
        (ST_OK, resultBytes ST_OK ses x.seq e.index r.1 r.2.1 e.value r.2.2 all.length)

/-- A session ends: its result goes to every contributor that sent a header. -/
def endSession (s : State) (f ses : Nat) (x : Session) (bs : List Byte) : State :=
  let s := setF s F.SMP_STAT_BUSY f (getF s F.SMP_STAT_BUSY f - getF s F.SMP_STAT_BUSY f / 2 ^ ses % 2 * 2 ^ ses)
  let s := modSampler s f (fun m => { m with sessions := erase m.sessions ses })
  x.heads.foldl (fun s h => sendResult s f h.gid bs) s

/-- A header beyond the CONTRIB of the session that has finished: every contributor hears ST_SAMPLE_MISMATCH (R353). -/
def excessHeader (s : State) (f ses gid : Nat) (x : Finished) : State :=
  let gids := if x.gids.contains gid then x.gids else x.gids ++ [gid]
  let s := modSampler (countF s F.SMP_ERR_MISMATCH f 1) f (fun m => { m with finished := insert m.finished ses { x with gids } })
  gids.foldl (fun s g => sendResult s f g (plainResult ST_SAMPLE_MISMATCH ses x.seq x.received)) s

/-- SAMPLE_HEADER_RECEIVE (R353): message `k` of the bus, when none of the same tile for the same session is before it. -/
def opSampleHeader (f k : Nat) (s : State) : State :=
  let m := samplerOf s f
  match m.bus[k]? with
  | none => s
  | some b =>
    let ses := headSession b
    let seq := headSeq b
    let h := headOf' b
    let busy := find m.sessions ses
    if (m.bus.take k).any (fun x => x.gid == b.gid && headSession x == ses) then s
    else if headBreaks b then
      sendResult (countF (modSampler s f (fun m => { m with bus := m.bus.eraseIdx k })) F.SMP_ERR_INVALID f 1) f b.gid
        (plainResult ST_SAMPLE_INVALID ses seq 0)
    else if h.contrib = 0 || h.topk = 0 then
      sendResult (modSampler s f (fun m => { m with bus := m.bus.eraseIdx k })) f b.gid (plainResult ST_OK_EMPTY ses seq 0)
    else if (getD m.timedOut ses []).contains seq then
      sendResult (modSampler s f (fun m => { m with bus := m.bus.eraseIdx k })) f b.gid (plainResult ST_TIMEOUT ses seq 0)
    else if (find m.finished ses).any (fun x => x.seq == seq) then
      (find m.finished ses).elim s (excessHeader (modSampler s f (fun m => { m with bus := m.bus.eraseIdx k })) f ses b.gid)
    else
      match busy with
      | some x =>
        if x.seq ≠ seq then s
        else collect (modSampler s f (fun m => { m with bus := m.bus.eraseIdx k })) ses { x with heads := x.heads ++ [h] }
      | none =>
        let s := setF s F.SMP_STAT_BUSY f (getF s F.SMP_STAT_BUSY f + 2 ^ ses)
        collect (modSampler s f (fun m => { m with bus := m.bus.eraseIdx k })) ses { seq, since := s.now, heads := [h] }
where
  /-- Keep the session, or finish it when the CONTRIB of one of its headers has been reached. -/
  collect (s : State) (ses : Nat) (x : Session) : State :=
    if x.heads.any (fun h => h.contrib ≤ x.heads.length) then
      let r := sessionResult ses x
      let s := countF s F.SMP_STAT_SAMPLES f 1
      let s := if r.1 = ST_SAMPLE_MISMATCH then countF s F.SMP_ERR_MISMATCH f 1 else s
      let d : Finished := { seq := x.seq, gids := x.heads.map (·.gid), received := (x.heads.flatMap candsOf).length }
      endSession (modSampler s f (fun m => { m with finished := insert m.finished ses d })) f ses x r.2
    else modSampler s f (fun m => { m with sessions := insert m.sessions ses x })

/-- SESSION_TIMEOUT (R357). -/
def opSessionTimeout (f ses : Nat) (s : State) : State :=
  let tmo := getF s F.SMP_CFG_TMO f
  match find (samplerOf s f).sessions ses with
  | some x =>
    if tmo = 0 || s.now - x.since < tmo then s
    else
      let s := endSession (countF s F.SMP_ERR_TIMEOUTS f 1) f ses x (plainResult ST_TIMEOUT ses x.seq (x.heads.flatMap candsOf).length)
      modSampler s f (fun m => { m with timedOut := put m.timedOut ses (getD m.timedOut ses [] ++ [x.seq]) [] })
  | none => s

/-- SAMPLE_RESULT_RECEIVE (R356): result `k` of the field's sampler reaches its tile. -/
def opSampleResult (g k : Nat) (s : State) : State :=
  let f := g / 700
  match (samplerOf s f).results[k]? with
  | none => s
  | some r =>
    if r.gid ≠ g then s
    else
      let s := modSampler s f (fun m => { m with results := m.results.eraseIdx k })
      let w := leNat ((r.data.drop 8).take 8)
      if w % 2 ^ 32 = getF s F.TIL_SAMPLE_SEQ g && w / 2 ^ 32 % 8 = getF s F.TIL_SAMPLE_SESSION g then
        let s := setF (setF s F.TIL_SAMPLE_READY g 1) F.TIL_SAMPLE_PENDING g 0
        let s := modTile s g (fun t => { t with result := BitVec.ofNat 512 (leNat r.data) })
        match (tileOf s g).wait with
        | some ⟨.sget a, _, _⟩ => endWait (memWrite s g a r.data) g
        | _ => s
      else countF s F.SMP_ERR_STALE f 1

/-- SGET_TIMEOUT (R357). -/
def opSgetTimeout (g : Nat) (s : State) : State :=
  match (tileOf s g).wait with
  | some ⟨.sget a, since, _⟩ =>
    if overdue s (getF s F.SMP_CFG_SGET_TMO (g / 700)) since then
      endWait (memWrite s g a (plainResult ST_TIMEOUT (getF s F.TIL_SAMPLE_SESSION g) (getF s F.TIL_SAMPLE_SEQ g) 0)) g
    else s
  | _ => s

def execSampleHeaderReceive (f : Fin 48) (k : Nat) (s : State) : Host.Outcome State Fault Refusal := .next (opSampleHeader f k s)
def execSampleResultReceive (t : TileId) (k : Nat) (s : State) : Host.Outcome State Fault Refusal := .next (opSampleResult t.gid k s)
def execSessionTimeout (f : Fin 48) (ses : Fin 8) (s : State) : Host.Outcome State Fault Refusal := .next (opSessionTimeout f ses s)
def execSgetTimeout (t : TileId) (s : State) : Host.Outcome State Fault Refusal := .next (opSgetTimeout t.gid s)

end Sys2Proof.Machine
end

