-- ==== Sys2Proof/Machine/TileMove.lean ====
section
/-! DEFINITION. The MOVE class: NOP, LDI, ADDI, MOV, FILL, CVT (R55, R75, R102). -/
namespace Sys2Proof.Machine

/-- Write the register REG of kind KIND (R55, R73). -/
def putReg (g kind reg : Nat) (v : Nat) : TileM Unit :=
  modify (fun s => modTile s g (fun t =>
    match kind with
    | 0 => { t with p := put t.p reg (BitVec.ofNat 48 v) 0 }
    | 1 => { t with s := put t.s reg (BitVec.ofNat 32 v) 0 }
    | 2 => { t with l := put t.l reg (BitVec.ofNat 32 v) 0 }
    | _ => { t with e := put t.e reg (BitVec.ofNat 32 v) 0 }))

/-- Read the register REG of kind KIND. -/
def getReg (s : State) (g kind reg : Nat) : Nat :=
  match kind with
  | 0 => pAt s g reg
  | 1 => (sAt s g reg).toNat
  | 2 => (lAt s g reg).toNat
  | _ => (eAt s g reg).toNat

/-- NOP: nothing (R75). -/
def opNop (w : Word) : TileM OpEnd := do
  faultIf (badS w) 1
  pure .next

/-- LDI (R55, R73). -/
def opLdi (g : Nat) (w : Word) : TileM OpEnd := do
  faultIf (badS w || (wKind w == 2 && 3 < wD w)) 1
  putReg g (wKind w) (wD w) (wImm w)
  pure .next

/-- ADDI (R55, R73). -/
def opAddi (g : Nat) (w : Word) : TileM OpEnd := do
  faultIf (badS w || (wKind w == 2 && 3 < wD w)) 1
  let s ← get
  putReg g (wKind w) (wD w) (addImm (wKind w) (getReg s g (wKind w) (wD w)) (wImm w))
  pure .next

/-- Bytes of a riser range (R53). -/
def readRiserBytes (g a n : Nat) : TileM (List Byte) := do
  let vs ← readRiser g (accAt a) (accSpan a n)
  pure (((packElems 32 (vs.map BitVec.toNat)).drop (a % 4)).take n)

/-- Write bytes of a riser range; an accumulator covered in part keeps its other bytes (R189). -/
def writeRiserBytes (g a : Nat) (bs : List Byte) : TileM Unit := do
  let n := bs.length
  let head ← if a % 4 = 0 then pure [] else do
    pure ((packElems 32 ((← readRiser g (accAt a) 1).map BitVec.toNat)).take (a % 4))
  let tail ← if accPost a n = 0 then pure [] else do
    let last := accAt (a + n - 1)
    let v ← if a % 4 ≠ 0 ∧ last = accAt a then do
        pure [BitVec.ofNat 32 (eccDeliver 32 (getD (tileOf (← get) g).riser last 0).toNat (getD (tileOf (← get) g).riserFlip last 0))]
      else readRiser g last 1
    pure ((packElems 32 (v.map BitVec.toNat)).drop (4 - accPost a n))
  writeRiser g (accAt a) ((words32 (accSpan a n) (head ++ bs ++ tail)).map (BitVec.ofNat 32))

/-- MOV: COUNT bytes between tile memory and riser ranges, read whole before any is written (R48, R75). -/
def opMov (g : Nat) (w : Word) : TileM OpEnd := do
  faultIf (badM w) 1
  let n := wCount w
  if n = 0 then return .next
  let d ← pReg g (wD w)
  let a ← pReg g (wA w)
  faultIf (!(inMem a n || inRiser a n) || !(inMem d n || inRiser d n)) 2
  let bs ← if inMem a n then readMem g a n else readRiserBytes g a n
  if inMem d n then writeMem g d bs else writeRiserBytes g d bs
  pure .next

/-- FILL: the byte at address a takes byte a mod 4 of the pattern S[SEL] (R75). -/
def opFill (g : Nat) (w : Word) : TileM OpEnd := do
  faultIf (badM w) 1
  let n := wCount w
  if n = 0 then return .next
  let d ← pReg g (wD w)
  let pat ← sReg g (wSel w)
  faultIf (!inMem d n) 2
  writeMem g d ((List.range n).map (fun i => BitVec.ofNat 8 (pat / 2 ^ (8 * ((d + i) % 4)))))
  pure .next

/-- COUNT elements converted from FMT to FMT2 under the rounding field (CVT, and RSR of R343). -/
def convertOp (g : Nat) (w : Word) (field : Nat) : TileM OpEnd := do
  faultIf (9 < wFmt w || 9 < wFmt2 w || !roundOk field) 1
  let base ← sReg g (wSel w % 16)
  let base := base % 2 ^ 24
  if roundStoch field then checkLaneAlign base
  let n := wCount w
  if n = 0 then return .next
  let d ← pReg g (wD w)
  let a ← pReg g (wA w)
  faultIf (!inMem a (elemBytes (wFmt w) n) || !inMem d (elemBytes (wFmt2 w) n)) 2
  if roundStoch field then checkLanes g base ((n + 15) / 16)
  let xs ← readElems g (wFmt w) a n
  let rs ← if roundStoch field then stochBits g base n else pure []
  let cs := convertList (wFmt2 w) field (xs.map (decodeFmt (wFmt w))) rs
  writeElems g (wFmt2 w) d (patterns cs)
  raiseFlags g (flagsOf cs)
  pure .next

/-- CVT (R102 to R107). -/
def opCvt (g : Nat) (w : Word) : TileM OpEnd := do
  faultIf (badM w) 1
  convertOp g w (wMode w)

def execNop (t : TileId) (w : Word) (s : State) : Host.Outcome State Fault Refusal := .next (runOp t w 0x00 (opNop w) s)
def execLdi (t : TileId) (w : Word) (s : State) : Host.Outcome State Fault Refusal := .next (runOp t w 0x01 (opLdi t.gid w) s)
def execAddi (t : TileId) (w : Word) (s : State) : Host.Outcome State Fault Refusal := .next (runOp t w 0x02 (opAddi t.gid w) s)
def execMov (t : TileId) (w : Word) (s : State) : Host.Outcome State Fault Refusal := .next (runOp t w 0x03 (opMov t.gid w) s)
def execFill (t : TileId) (w : Word) (s : State) : Host.Outcome State Fault Refusal := .next (runOp t w 0x04 (opFill t.gid w) s)
def execCvt (t : TileId) (w : Word) (s : State) : Host.Outcome State Fault Refusal := .next (runOp t w 0x05 (opCvt t.gid w) s)

end Sys2Proof.Machine
end

