-- ==== Sys2Proof/Machine/TileRandom.lean ====
section
/-! DEFINITION. The RNG class and STOPK: RINIT, RBITS, RUNIF, RSR, STOPK (R336 to R346, R351). -/
namespace Sys2Proof.Machine

/-- One splitmix step of the base state (R341). -/
def seedWord (seed i : Nat) : Nat :=
  let z := (seed + (i + 1) * 0x9E3779B97F4A7C15) % 2 ^ 64
  let z := ((z ^^^ (z / 2 ^ 30)) * 0xBF58476D1CE4E5B9) % 2 ^ 64
  let z := ((z ^^^ (z / 2 ^ 27)) * 0x94D049BB133111EB) % 2 ^ 64
  (z ^^^ (z / 2 ^ 31)) % 2 ^ 32

/-- The base state of a seed (R341). -/
def baseState (seed : Nat) : List Nat :=
  (List.range 89).map (fun i => let x := seedWord seed i; if i = 0 then x ||| 1 else x)

/-- `n` more words of the stream after its last 89 (R336). -/
def extendStream : Nat → List Nat → List Nat
  | 0, xs => xs
  | n + 1, xs =>
    let k := xs.length
    extendStream n (xs ++ [(xs.getD (k - 89) 0 + xs.getD (k - 38) 0) % 2 ^ 32])

/-- Reduce coefficients of degree 89 and above by t^89 = t^51 + 1, highest first (R336). -/
def polyReduce : Nat → List Nat → List Nat
  | 0, p => p
  | n + 1, p =>
    if p.length ≤ 89 then p
    else
      let d := p.length - 1
      let c := p.getD d 0
      let q := p.take d
      let q := q.set (d - 89) ((q.getD (d - 89) 0 + c) % 2 ^ 32)
      let q := q.set (d - 38) ((q.getD (d - 38) 0 + c) % 2 ^ 32)
      polyReduce n q

/-- Product of two residues, coefficients modulo 2^32. -/
def polyMul (p q : List Nat) : List Nat :=
  polyReduce 200 ((List.range (p.length + q.length - 1)).map (fun k =>
    ((List.range (min (k + 1) p.length)).foldl (fun a i => a + p.getD i 0 * q.getD (k - i) 0) 0) % 2 ^ 32))

/-- t^(2^n). -/
def polySq : Nat → List Nat → List Nat
  | 0, p => p
  | n + 1, p => polySq n (polyMul p p)

/-- p^n by squaring over `bits` bits of n. -/
def polyPow : Nat → Nat → List Nat → List Nat
  | 0, _, _ => [1]
  | b + 1, n, p => let r := polyPow b (n / 2) (polyMul p p); if n % 2 = 1 then polyMul p r else r

/-- The state of lane n: the base state advanced by n × 2^64 draws, in canonical form (R341). -/
def laneState (seed n : Nat) : List Nat :=
  if n = 0 then baseState seed
  else
    let c := polyPow 32 n (polySq 64 [0, 1])
    let xs := extendStream 88 (baseState seed)
    (List.range 89).map (fun i => ((List.range c.length).foldl (fun a k => a + c.getD k 0 * xs.getD (i + k) 0) 0) % 2 ^ 32)

/-- The 384 bytes of a freshly seeded lane state (R338, R341). -/
def laneBytes (seed n : Nat) : List Byte :=
  packElems 32 (laneState seed n) ++ bytesOf 0 4 ++ bytesOf 0 8 ++ bytesOf n 4 ++ bytesOf 0 12

/-- RINIT (R340). -/
def opRinit (g : Nat) (w : Word) : TileM OpEnd := do
  let d ← pReg g (wD w)
  let a ← pReg g (wA w)
  let n0 ← sReg g (wSel w % 16)
  let n := wCount w
  faultIf (badM w || wFmt w != 0 || wFmt2 w != 0 || wFunc w != 0 || wMode w != 0 || a % 8 != 0 || d % 64 != 0 ||
    2 ^ 32 < n0 + n) 1
  if n = 0 then return .next
  faultIf (!inMem a 8 || !inMem d (384 * n)) 2
  let seed := leNat (← readMem g a 8)
  modify (fun s => modTile s g (fun t => dropLanes t d (384 * n)))
  for j in List.range n do writeMem g (d + 384 * j) (laneBytes seed (n0 + j))
  pure .next

/-- The 16 words each group draws, cut to the op's elements (R343). -/
def drawRaw (g base n : Nat) : TileM (List Nat) := do
  let mut out := []
  for k in List.range ((n + 15) / 16) do
    out := out ++ (← drawLane g base k 16).take (min 16 (n - 16 * k))
  pure out

/-- RBITS (R343). -/
def opRbits (g : Nat) (w : Word) : TileM OpEnd := do
  let base := (← sReg g (wSel w % 16)) % 2 ^ 24
  faultIf (badM w || base % 64 != 0) 1
  let n := wCount w
  if n = 0 then return .next
  let d ← pReg g (wD w)
  faultIf (!inMem d (4 * n)) 2
  checkLanes g base ((n + 15) / 16)
  writeMem g d (packElems 32 (← drawRaw g base n))
  pure .next

/-- A word as a uniform value in [0, 1) of FP32, BF16 or FP16, exact (R345). -/
def unifBits (f w : Nat) : Nat :=
  let v : Num := match f with
    | 0 => .fin false (w / 2 ^ 8) (-24)
    | 1 => .fin false (w / 2 ^ 24) (-8)
    | _ => .fin false (w / 2 ^ 21) (-11)
  (convert f .nearest false v).1

/-- RUNIF (R343, R345). -/
def opRunif (g : Nat) (w : Word) : TileM OpEnd := do
  let base := (← sReg g (wSel w % 16)) % 2 ^ 24
  faultIf (badM w || 2 < wFmt2 w || base % 64 != 0) 1
  let n := wCount w
  if n = 0 then return .next
  let d ← pReg g (wD w)
  faultIf (!inMem d (elemBytes (wFmt2 w) n)) 2
  checkLanes g base ((n + 15) / 16)
  writeElems g (wFmt2 w) d ((← drawRaw g base n).map (unifBits (wFmt2 w)))
  pure .next

/-- RSR: CVT with stochastic rounding (R343). -/
def opRsr (g : Nat) (w : Word) : TileM OpEnd := do
  faultIf (badM w || wMode w % 8 != 4) 1
  convertOp g w (wMode w)

/-- A candidate (R351): its logit in FP32 and its vocabulary index. -/
structure Cand where
  value : W32
  index : Nat
  deriving DecidableEq, Repr

/-- Rank order: decreasing value, −0 and +0 tied, then the lower index (R351). -/
def candBefore (a b : Cand) : Bool :=
  let x := f32 a.value
  let y := f32 b.value
  numBelow y x || (!numBelow x y && decide (a.index ≤ b.index))

/-- Insert by rank, before the first candidate it does not follow. -/
def insertCand (c : Cand) : List Cand → List Cand
  | [] => [c]
  | d :: ds => if candBefore c d then c :: d :: ds else d :: insertCand c ds

/-- Candidates in rank order. -/
def rankCands (cs : List Cand) : List Cand := cs.foldr insertCand []

/-- Eight bytes of a candidate slot; VALID 0 beyond the valid candidates (R351). -/
def candBytes (c : Option Cand) : List Byte :=
  match c with
  | some c => bytesOf (c.value.toNat + (c.index % 2 ^ 20) * 2 ^ 32 + 2 ^ 52) 8
  | none => bytesOf 0 8

/-- STOPK (R351). A vocabulary index beyond the 20 bits of a candidate is a free value (log entry 6). -/
def opStopk (g : Nat) (w : Word) : TileM OpEnd := do
  let sc ← sReg g (wSel w % 16)
  let k := sc % 512
  let first := sc / 512 % 2 ^ 20
  faultIf (badM w || 2 < wFmt w || 256 < k) 1
  let n := wCount w
  if n = 0 || k = 0 then return .next
  let d ← pReg g (wD w)
  let a ← pReg g (wA w)
  faultIf (!inMem a (elemBytes (wFmt w) n) || !inMem d (8 * k)) 2
  let xs ← readF32 g (wFmt w) a n
  let cs := (List.zip (List.range n) xs).filterMap (fun p =>
    if (f32 p.2).isNan then none else some ⟨p.2, first + p.1⟩)
  let ranked := rankCands cs
  let u := (← get).free
  if ranked.any (fun c => 2 ^ 20 ≤ c.index) then modify (fun s => { s with free := s.free + k })
  writeMem g d ((List.range k).flatMap (fun i => candBytes (ranked[i]?.map (fun c =>
    if c.index < 2 ^ 20 then c else { c with index := (Config.freeValue (u + i)).toNat }))))
  pure .next

def execRinit (t : TileId) (w : Word) (s : State) : Host.Outcome State Fault Refusal := .next (runOp t w 0x30 (opRinit t.gid w) s)
def execRbits (t : TileId) (w : Word) (s : State) : Host.Outcome State Fault Refusal := .next (runOp t w 0x31 (opRbits t.gid w) s)
def execRunif (t : TileId) (w : Word) (s : State) : Host.Outcome State Fault Refusal := .next (runOp t w 0x32 (opRunif t.gid w) s)
def execRsr (t : TileId) (w : Word) (s : State) : Host.Outcome State Fault Refusal := .next (runOp t w 0x33 (opRsr t.gid w) s)
def execStopk (t : TileId) (w : Word) (s : State) : Host.Outcome State Fault Refusal := .next (runOp t w 0x38 (opStopk t.gid w) s)

end Sys2Proof.Machine
end

