-- ==== Sys2Proof/Machine/TileVector.lean ====
section
/-! DEFINITION. The VECTOR class: VBIN, VFMA, VFN, VRED, VSCAN, VQUANT (R69, R109 to R111, R287 to R289, R228). -/
namespace Sys2Proof.Machine

/-- The binary functions of VBIN (R77, R109, R111). -/
def binFn (f : Nat) (a b : W32) : W32 × Flags :=
  match f with
  | 0 => addF32 a b
  | 1 => subF32 a b
  | 2 => mulF32 a b
  | 3 => (maxF32 a b, flNone)
  | _ => (minF32 a b, flNone)

/-- VBIN. -/
def opVbin (g : Nat) (w : Word) : TileM OpEnd := do
  faultIf (badM w || 8 < wFmt w || 8 < wFmt2 w || 4 < wFunc w) 1
  let n := wCount w
  if n = 0 then return .next
  let d ← pReg g (wD w)
  let a ← pReg g (wA w)
  let b ← pReg g (wB w)
  faultIf (!inMem a (elemBytes (wFmt w) n) || !inMem b (elemBytes (wFmt w) n) || !inMem d (elemBytes (wFmt2 w) n)) 2
  let xs ← readF32 g (wFmt w) a n
  let ys ← readF32 g (wFmt w) b n
  writeResults g (wFmt2 w) d (List.zipWith (binFn (wFunc w)) xs ys)
  pure .next

/-- VFMA: the addend is read at P[PD] in FMT2 (R566). -/
def opVfma (g : Nat) (w : Word) : TileM OpEnd := do
  faultIf (badM w || 8 < wFmt w || 8 < wFmt2 w) 1
  let n := wCount w
  if n = 0 then return .next
  let d ← pReg g (wD w)
  let a ← pReg g (wA w)
  let b ← pReg g (wB w)
  faultIf (!inMem a (elemBytes (wFmt w) n) || !inMem b (elemBytes (wFmt w) n) || !inMem d (elemBytes (wFmt2 w) n)) 2
  let xs ← readF32 g (wFmt w) a n
  let ys ← readF32 g (wFmt w) b n
  let zs ← readF32 g (wFmt2 w) d n
  writeResults g (wFmt2 w) d (List.zipWith (fun p z => fmaF32 p.1 p.2 z) (List.zip xs ys) zs)
  pure .next

/-- VFN. -/
def opVfn (g : Nat) (w : Word) : TileM OpEnd := do
  faultIf (badM w || 8 < wFmt w || 8 < wFmt2 w || 12 < wFunc w) 1
  let n := wCount w
  if n = 0 then return .next
  let d ← pReg g (wD w)
  let a ← pReg g (wA w)
  faultIf (!inMem a (elemBytes (wFmt w) n) || !inMem d (elemBytes (wFmt2 w) n)) 2
  let xs ← readF32 g (wFmt w) a n
  writeResults g (wFmt2 w) d (xs.map (trimFn (wFunc w)))
  pure .next

/-- One level of the pairwise tree: entry 2m with entry 2m + 1, an entry without a partner unchanged (R69). -/
def treeLevel (f : W32 → W32 → W32 × Flags) : List (W32 × Flags) → List (W32 × Flags)
  | x :: y :: rest => let r := f x.1 y.1; (r.1, r.2 ||| x.2 ||| y.2) :: treeLevel f rest
  | xs => xs

/-- A group of up to 64 entries combined in `fuel` levels. -/
def treeReduce (f : W32 → W32 → W32 × Flags) : Nat → List (W32 × Flags) → List (W32 × Flags)
  | 0, xs => xs
  | n + 1, xs => treeReduce f n (treeLevel f xs)

/-- Groups of 64 in order. -/
def groups64 {α : Type} : Nat → List α → List (List α)
  | 0, _ => []
  | n + 1, xs => if xs.isEmpty then [] else xs.take 64 :: groups64 n (xs.drop 64)

/-- The reduction of R69: each group by the tree, then the groups' results in address order. -/
def reduceF32 (f : W32 → W32 → W32 × Flags) (xs : List (W32 × Flags)) : W32 × Flags :=
  match (groups64 (xs.length / 64 + 1) xs).flatMap (treeReduce f 6) with
  | [] => (0, flNone)
  | r :: rs => rs.foldl (fun a b => let c := f a.1 b.1; (c.1, c.2 ||| a.2 ||| b.2)) r

/-- The maximum exponent of R111 as an FP32 integer. -/
def maxExpF32 (xs : List W32) : W32 :=
  let vs := xs.map f32
  if vs.any Num.isNan then f32Nan
  else if vs.any (fun v => !v.isFin) then 0x7F800000
  else match maxExp vs with
    | none => 0xFF800000
    | some m => intF32 m

/-- VRED's functions (R77, R109, R111). -/
def redFn (f : Nat) (xs : List W32) : W32 × Flags :=
  let plain := xs.map (fun x => (x, flNone))
  match f with
  | 0 => reduceF32 addF32 plain
  | 1 => reduceF32 (fun a b => (maxF32 a b, flNone)) plain
  | 2 => reduceF32 (fun a b => (minF32 a b, flNone)) plain
  | 3 => reduceF32 addF32 (xs.map (fun x => mulF32 x x))
  | 4 => reduceF32 (fun a b => (maxF32 a b, flNone)) (xs.map (fun x => (absF32 x, flNone)))
  | _ => (maxExpF32 xs, flNone)

/-- VRED: one FP32 value at P[PD]. -/
def opVred (g : Nat) (w : Word) : TileM OpEnd := do
  faultIf (badM w || 8 < wFmt w || wFmt2 w != 0 || 5 < wFunc w) 1
  let n := wCount w
  if n = 0 then return .next
  let d ← pReg g (wD w)
  let a ← pReg g (wA w)
  faultIf (!inMem a (elemBytes (wFmt w) n) || !inMem d 4) 2
  let xs ← readF32 g (wFmt w) a n
  let r := redFn (wFunc w) xs
  writeResults g 0 d [(r.1, r.2)]
  pure .next

/-- VSCAN: each output from the one before it (R109). -/
def scanF32 (f : W32 → W32 → W32 × Flags) : W32 → List W32 → List (W32 × Flags)
  | _, [] => []
  | a, x :: xs => let r := f a x; r :: scanF32 f r.1 xs

def opVscan (g : Nat) (w : Word) : TileM OpEnd := do
  faultIf (badM w || 8 < wFmt w || 8 < wFmt2 w || 1 < wFunc w) 1
  let n := wCount w
  if n = 0 then return .next
  let d ← pReg g (wD w)
  let a ← pReg g (wA w)
  faultIf (!inMem a (elemBytes (wFmt w) n) || !inMem d (elemBytes (wFmt2 w) n)) 2
  let f := if wFunc w = 0 then addF32 else fun a b => (maxF32 a b, flNone)
  match ← readF32 g (wFmt w) a n with
  | [] => pure ()
  | x :: xs => writeResults g (wFmt2 w) d ((x, flNone) :: scanF32 f x xs)
  pure .next

/-- The scale of VQUANT (R288): the scale index and the address of the first lane state. -/
def quantScale (g : Nat) (sc : Nat) : TileM (Nat × Nat) := do
  if sc / 2 ^ 31 % 2 = 0 then pure (sc % 256, 0)
  else
    let v := leNat (← readMem g (sc % 2 ^ 24) 8)
    pure (v % 256, v / 2 ^ 32 % 2 ^ 24)

/-- The FP32 values VQUANT reads; riser accumulators are cleared in the same access (R287). -/
def quantSource (g a n : Nat) : TileM (List W32) := do
  if inRiser a (4 * n) then
    let i := (a - 0x140000) / 4
    let vs ← readRiser g i n
    writeRiser g i (List.replicate n 0)
    pure vs
  else
    pure ((words32 n (← readMem g a (4 * n))).map (BitVec.ofNat 32))

/-- The checks of VQUANT that need no memory (R74, R228, R287, R566). -/
def quantBad (w : Word) (sc : Nat) : Bool :=
  let direct := sc / 2 ^ 31 % 2 == 0
  let billet := wFmt2 w == 0xA
  badM w || wFmt w != 0 || !(billet || (3 ≤ wFmt2 w && wFmt2 w ≤ 7)) || wCount w % 64 != 0 || !roundOk (wMode w) ||
    (direct && roundStoch (wMode w)) || (direct && billet && (sc % 256 == 0 || sc % 256 == 255)) ||
    (!direct && sc % 8 != 0)

/-- VQUANT to billets or ingots (R287, R289, R228). -/
def opVquant (g : Nat) (w : Word) : TileM OpEnd := do
  let sc ← sReg g (wSel w % 16)
  faultIf (quantBad w sc) 1
  let n := wCount w
  if n = 0 then return .next
  let d ← pReg g (wD w)
  let a ← pReg g (wA w)
  let f := wFmt2 w
  let size := if f = 0xA then 72 else ingotSizeOf f
  faultIf (!(inMem a (4 * n) || (inRiser a (4 * n) && a % 4 == 0)) || !inMem d (n / 64 * size)) 2
  faultIf (sc / 2 ^ 31 % 2 == 1 && !inMem (sc % 2 ^ 24) 8) 2
  let x ← quantScale g sc
  faultIf (f == 0xA && (x.1 == 0 || x.1 == 255)) 1
  if roundStoch (wMode w) then
    checkLaneAlign x.2
    checkLanes g x.2 (n / 16)
  let vs ← quantSource g a n
  let rs ← if roundStoch (wMode w) then stochBits g x.2 n else pure []
  for j in List.range (n / 64) do
    let part := ((vs.drop (64 * j)).take 64).map f32
    let modes := (List.range 64).map (fun i => roundMode (wMode w) (rs.getD (64 * j + i) 0))
    if f = 0xA then writeMem g (d + 72 * j) (billetBytes x.1 modes part)
    else
      let r := ingotBytes f modes part
      writeMem g (d + size * j) r.1
      raiseFlags g r.2
  pure .next
where
  ingotSizeOf (f : Nat) : Nat := match f with | 3 => 80 | 4 => 80 | 5 => 64 | 6 => 64 | _ => 48

def execVbin (t : TileId) (w : Word) (s : State) : Host.Outcome State Fault Refusal := .next (runOp t w 0x10 (opVbin t.gid w) s)
def execVfma (t : TileId) (w : Word) (s : State) : Host.Outcome State Fault Refusal := .next (runOp t w 0x11 (opVfma t.gid w) s)
def execVfn (t : TileId) (w : Word) (s : State) : Host.Outcome State Fault Refusal := .next (runOp t w 0x12 (opVfn t.gid w) s)
def execVred (t : TileId) (w : Word) (s : State) : Host.Outcome State Fault Refusal := .next (runOp t w 0x13 (opVred t.gid w) s)
def execVscan (t : TileId) (w : Word) (s : State) : Host.Outcome State Fault Refusal := .next (runOp t w 0x14 (opVscan t.gid w) s)
def execVquant (t : TileId) (w : Word) (s : State) : Host.Outcome State Fault Refusal := .next (runOp t w 0x15 (opVquant t.gid w) s)

end Sys2Proof.Machine
end

