-- ==== Sys2Proof/Machine/Window.lean ====
section
/-! DEFINITION. The configuration window over Brois (R13 to R18, R473 to R481, R542 to R549). -/
namespace Sys2Proof.Machine

/-! ### Writes -/

/-- A write to an active address: registers that start a reset, an image operation or a close, and all others. -/
def fullWrite (s : State) (x : RegAt) (v : Word) : State :=
  match x.reg with
  | .TIL_CTRL =>
    let s := writeTilCtrl s x.unit v
    if getBits v 2 1 = 1 then opTilReset x.unit s else s
  | .GLB_TRESET => opTreset v s
  | .FLD_RESET => if getBits v 0 1 = 1 then opFieldReset x.unit s else s
  | .PRT_PORT_RESET => opPortReset v s
  | .GLB_RESET => opResetWrite v s
  | .CFG_STAGE_CTRL => opStageCtrl v s
  | .CFG_ADOPT => opAdopt (getBits v 0 6) s
  | .GLB_REC_CTRL => if getBits v 0 1 = 1 then opClose s else s
  | _ => basicWrite s x v

/-- A window write that Brois link `l` brings. -/
def windowWrite (s : State) (l a : Nat) (v : Word) : State := writeAt fullWrite s a v (some l)

/-- REGISTER_WRITE (R15); its link does not matter but to GLB_ELOG_ADDR.LINK, and is 0. -/
def opRegWrite (a : Nat) (v : Word) (s : State) : State := windowWrite s 0 a v

/-- UNDECODED_ACCESS (R18, R542, R543). -/
def opUndecoded (a : Nat) (wr : Bool) (l : Nat) (s : State) : State :=
  if decodeReg a = none then noteAccess s a wr false l else s

/-! ### Reads (R15, R543, R544, R548) -/

/-- What a read of a register returns. -/
def readValue (s : State) (x : RegAt) : Word :=
  if x.shadow then rdShadow s x.reg x.unit x.inst
  else
    let v := rdReg s x.reg x.unit x.inst &&& fieldBits x.reg &&& ~~~(accMask x.reg (· == .WO))
    if offline s x then v &&& onlineBits x.reg else v

/-- A window read. -/
def windowRead (s : State) (l a : Nat) : Word × State :=
  match decodeReg a with
  | none => (0, noteAccess s a false false l)
  | some x => (readValue s x, s)

/-! ### Requests (R13, R456, R474, R475, R478, R481) -/

/-- Bits [2:0] or [51:48] of the address are not 0. -/
def badAddr (a : Nat) : Bool := a % 8 != 0 || 2 ^ 48 ≤ a

/-- A request that is refused with RSTAT 1: its form, or its address. -/
def countRefused (s : State) (l : Nat) (form : Bool) : State :=
  if form then countI s F.BRL_ERR_BAD_ACCESS 0 l 1 else countI s F.BRL_ERR_BAD_PACKET 0 l 1

/-- The window is busy with a warm restart, but for GLB_START_STAT (R456). -/
def windowBusy (s : State) (a : Nat) : Bool := getF s F.GLB_START_STAT_PHASE 0 == 5 && a != regAddr .GLB_START_STAT 0 0

/-- WIN_RD: `form`: CLASS and LEN8 are those of its row. -/
def opWinRd (l a tag : Nat) (form : Bool) (s : State) : State :=
  if !linkActive s l then s
  else if !form || badAddr a then sendPkt (countRefused s l form) l (.winRdata tag 1 0)
  else if windowBusy s a then sendPkt s l (.winRdata tag 2 0)
  else
    let r := windowRead s l a
    sendPkt r.2 l (.winRdata tag 0 r.1)

/-- The TAG of an executed write enters its link's record of 256. -/
def noteTag (s : State) (l tag : Nat) : State := modLink s l (fun b => { b with executed := (tag :: b.executed).take 256 })

/-- WIN_WR; a resent write that the other link's record holds has been executed already. -/
def opWinWr (l a : Nat) (v : Word) (tag : Nat) (form resend : Bool) (s : State) : State :=
  if !linkActive s l then s
  else if !form || badAddr a then sendPkt (countRefused s l form) l (.winAck tag 1)
  else if resend && (linkOf s (1 - l)).executed.contains tag then sendPkt s l (.winAck tag 0)
  else if windowBusy s a then sendPkt s l (.winAck tag 2)
  else sendPkt (windowWrite (noteTag s l tag) l a v) l (.winAck tag 0)

def execRegisterWrite (a : BitVec 48) (v : Word) (s : State) : Host.Outcome State Fault Refusal := .next (opRegWrite a.toNat v s)
def execUndecodedAccess (a : BitVec 48) (wr : Bool) (link : Fin 2) (s : State) : Host.Outcome State Fault Refusal :=
  .next (opUndecoded a.toNat wr link s)
def execCfgCommit (d : Fin 54) (v : Word) (s : State) : Host.Outcome State Fault Refusal := .next (opCommit d (getBits v 0 16) s)
def execWinRd (link : Fin 2) (a : BitVec 52) (tag : Fin 4096) (form : Bool) (s : State) : Host.Outcome State Fault Refusal :=
  .next (opWinRd link a.toNat tag form s)
def execWinWr (link : Fin 2) (a : BitVec 52) (v : Word) (tag : Fin 4096) (form resend : Bool) (s : State) :
    Host.Outcome State Fault Refusal := .next (opWinWr link a.toNat v tag form resend s)

end Sys2Proof.Machine
end

