-- ==== Sys2Proof/Machine/Dispatch.lean ====
section
/-! DEFINITION. The meaning of each command: one arm per constructor, each one direct call. -/
namespace Sys2Proof.Machine

/-- A command's effect on everything but the queue of waiting commands. -/
def exec (i : Instr) (s : State) : Host.Outcome State Fault Refusal :=
  match i with
  | .nop t w => Sys2Proof.Machine.execNop t w s
  | .ldi t w => Sys2Proof.Machine.execLdi t w s
  | .addi t w => Sys2Proof.Machine.execAddi t w s
  | .mov t w => Sys2Proof.Machine.execMov t w s
  | .fill t w => Sys2Proof.Machine.execFill t w s
  | .cvt t w => Sys2Proof.Machine.execCvt t w s
  | .mm t w x => Sys2Proof.Machine.execMm t w x s
  | .drain t w => Sys2Proof.Machine.execDrain t w s
  | .drainr t w => Sys2Proof.Machine.execDrainr t w s
  | .draint t w => Sys2Proof.Machine.execDraint t w s
  | .accld t w => Sys2Proof.Machine.execAccld t w s
  | .accst t w => Sys2Proof.Machine.execAccst t w s
  | .vbin t w => Sys2Proof.Machine.execVbin t w s
  | .vfma t w => Sys2Proof.Machine.execVfma t w s
  | .vfn t w => Sys2Proof.Machine.execVfn t w s
  | .vred t w => Sys2Proof.Machine.execVred t w s
  | .vscan t w => Sys2Proof.Machine.execVscan t w s
  | .vquant t w => Sys2Proof.Machine.execVquant t w s
  | .spmm t w x => Sys2Proof.Machine.execSpmm t w x s
  | .bmap t w => Sys2Proof.Machine.execBmap t w s
  | .bpred t w => Sys2Proof.Machine.execBpred t w s
  | .compact t w => Sys2Proof.Machine.execCompact t w s
  | .expand t w => Sys2Proof.Machine.execExpand t w s
  | .feed t w => Sys2Proof.Machine.execFeed t w s
  | .send t w => Sys2Proof.Machine.execSend t w s
  | .recv t w => Sys2Proof.Machine.execRecv t w s
  | .tswap t w => Sys2Proof.Machine.execTswap t w s
  | .trel t w => Sys2Proof.Machine.execTrel t w s
  | .rget t w => Sys2Proof.Machine.execRget t w s
  | .rput t w => Sys2Proof.Machine.execRput t w s
  | .fence t w => Sys2Proof.Machine.execFence t w s
  | .evsig t w => Sys2Proof.Machine.execEvsig t w s
  | .evwait t w => Sys2Proof.Machine.execEvwait t w s
  | .loop t w => Sys2Proof.Machine.execLoop t w s
  | .hoist t w => Sys2Proof.Machine.execHoist t w s
  | .halt t w => Sys2Proof.Machine.execHalt t w s
  | .rinit t w => Sys2Proof.Machine.execRinit t w s
  | .rbits t w => Sys2Proof.Machine.execRbits t w s
  | .runif t w => Sys2Proof.Machine.execRunif t w s
  | .rsr t w => Sys2Proof.Machine.execRsr t w s
  | .stopk t w => Sys2Proof.Machine.execStopk t w s
  | .sput t w => Sys2Proof.Machine.execSput t w s
  | .sget t w => Sys2Proof.Machine.execSget t w s
  | .hangTimerExpiry t => Sys2Proof.Machine.execHangTimerExpiry t s
  | .flitReceive t p vc crcOk => Sys2Proof.Machine.execFlitReceive t p vc crcOk s
  | .staticRouteForward t p vc => Sys2Proof.Machine.execStaticRouteForward t p vc s
  | .coordinateRouteForward t p vc => Sys2Proof.Machine.execCoordinateRouteForward t p vc s
  | .streamPacketAccept t k => Sys2Proof.Machine.execStreamPacketAccept t k s
  | .recvTimeout t => Sys2Proof.Machine.execRecvTimeout t s
  | .tswapTimeout t => Sys2Proof.Machine.execTswapTimeout t s
  | .hoistTimeout t => Sys2Proof.Machine.execHoistTimeout t s
  | .pourPacketLand t k => Sys2Proof.Machine.execPourPacketLand t k s
  | .eventIncrementTile t k => Sys2Proof.Machine.execEventIncrementTile t k s
  | .remoteReadRequest t k => Sys2Proof.Machine.execRemoteReadRequest t k s
  | .remoteWriteRequest t k => Sys2Proof.Machine.execRemoteWriteRequest t k s
  | .readResponseReceive t k => Sys2Proof.Machine.execReadResponseReceive t k s
  | .poisonNotice k => Sys2Proof.Machine.execPoisonNotice k s
  | .fencePacket t => Sys2Proof.Machine.execFencePacket t s
  | .tilCtrlRun t v => Sys2Proof.Machine.execTilCtrlRun t v s
  | .tilCtrlQuiesce t v => Sys2Proof.Machine.execTilCtrlQuiesce t v s
  | .quiesceComplete t => Sys2Proof.Machine.execQuiesceComplete t s
  | .tilCtrlReset t => Sys2Proof.Machine.execTilCtrlReset t s
  | .tilResend t v => Sys2Proof.Machine.execTilResend t v s
  | .registerWrite a v => Sys2Proof.Machine.execRegisterWrite a v s
  | .undecodedAccess a wr link => Sys2Proof.Machine.execUndecodedAccess a wr link s
  | .glbCqTailWrite n v => Sys2Proof.Machine.execGlbCqTailWrite n v s
  | .glbCqCheadWrite n v => Sys2Proof.Machine.execGlbCqCheadWrite n v s
  | .cqRestart n => Sys2Proof.Machine.execCqRestart n s
  | .glbEvcAdd n v => Sys2Proof.Machine.execGlbEvcAdd n v s
  | .glbEvrHeadWrite v => Sys2Proof.Machine.execGlbEvrHeadWrite v s
  | .commandFetch n => Sys2Proof.Machine.execCommandFetch n s
  | .commandStart n => Sys2Proof.Machine.execCommandStart n s
  | .waitTimeout n => Sys2Proof.Machine.execWaitTimeout n s
  | .nopCommand n ix => Sys2Proof.Machine.execNopCommand n ix s
  | .evadd n ix => Sys2Proof.Machine.execEvadd n ix s
  | .cmdRun n ix => Sys2Proof.Machine.execCmdRun n ix s
  | .cmdRequest n ix => Sys2Proof.Machine.execCmdRequest n ix s
  | .requestAdmission n => Sys2Proof.Machine.execRequestAdmission n s
  | .cmdPour n ix => Sys2Proof.Machine.execCmdPour n ix s
  | .descriptorRead c k => Sys2Proof.Machine.execDescriptorRead c k s
  | .pourStart c k => Sys2Proof.Machine.execPourStart c k s
  | .chunkIssue c k => Sys2Proof.Machine.execChunkIssue c k s
  | .pourComplete c k => Sys2Proof.Machine.execPourComplete c k s
  | .deadlineMiss c k => Sys2Proof.Machine.execDeadlineMiss c k s
  | .stkPourStopGo c desc => Sys2Proof.Machine.execStkPourStopGo c desc s
  | .glbMarkClear k => Sys2Proof.Machine.execGlbMarkClear k s
  | .eventIncrementReceive k => Sys2Proof.Machine.execEventIncrementReceive k s
  | .eventRecordReceive k => Sys2Proof.Machine.execEventRecordReceive k s
  | .migrate n ix => Sys2Proof.Machine.execMigrate n ix s
  | .migFetch n ix => Sys2Proof.Machine.execMigFetch n ix s
  | .migEvict n ix => Sys2Proof.Machine.execMigEvict n ix s
  | .moveHome n ix => Sys2Proof.Machine.execMoveHome n ix s
  | .replicate n ix => Sys2Proof.Machine.execReplicate n ix s
  | .dropRepl n ix => Sys2Proof.Machine.execDropRepl n ix s
  | .migAssign n ix => Sys2Proof.Machine.execMigAssign n ix s
  | .unmap n ix => Sys2Proof.Machine.execUnmap n ix s
  | .writeback n ix => Sys2Proof.Machine.execWriteback n ix s
  | .pageCopySwitch n ix => Sys2Proof.Machine.execPageCopySwitch n ix s
  | .entryChange k => Sys2Proof.Machine.execEntryChange k s
  | .entryInvalidation k u => Sys2Proof.Machine.execEntryInvalidation k u s
  | .glbPtIndexWrite v => Sys2Proof.Machine.execGlbPtIndexWrite v s
  | .ptSnapshot => Sys2Proof.Machine.execPtSnapshot s
  | .saturationWindowEnd c tier => Sys2Proof.Machine.execSaturationWindowEnd c tier s
  | .adderCombine a => Sys2Proof.Machine.execAdderCombine a s
  | .adderBlockReceive a k => Sys2Proof.Machine.execAdderBlockReceive a k s
  | .reduceScatter n ix => Sys2Proof.Machine.execReduceScatter n ix s
  | .allGather n ix => Sys2Proof.Machine.execAllGather n ix s
  | .broadcast n ix => Sys2Proof.Machine.execBroadcast n ix s
  | .pennantData k => Sys2Proof.Machine.execPennantData k s
  | .pennantAck k => Sys2Proof.Machine.execPennantAck k s
  | .pennantQuery k => Sys2Proof.Machine.execPennantQuery k s
  | .pennantState k => Sys2Proof.Machine.execPennantState k s
  | .pennantJoin k => Sys2Proof.Machine.execPennantJoin k s
  | .reformReq k => Sys2Proof.Machine.execReformReq k s
  | .reform k => Sys2Proof.Machine.execReform k s
  | .pennantAbort k => Sys2Proof.Machine.execPennantAbort k s
  | .pennantDone k => Sys2Proof.Machine.execPennantDone k s
  | .pennantFinish k => Sys2Proof.Machine.execPennantFinish k s
  | .queryTimerExpiry k => Sys2Proof.Machine.execQueryTimerExpiry k s
  | .collectiveTimeout k => Sys2Proof.Machine.execCollectiveTimeout k s
  | .hopTimeout k => Sys2Proof.Machine.execHopTimeout k s
  | .groupTimeout k => Sys2Proof.Machine.execGroupTimeout k s
  | .settleTimeExpiry k => Sys2Proof.Machine.execSettleTimeExpiry k s
  | .reformReqTimeout k => Sys2Proof.Machine.execReformReqTimeout k s
  | .abortEntryExpiry k => Sys2Proof.Machine.execAbortEntryExpiry k s
  | .sampleHeaderReceive f k => Sys2Proof.Machine.execSampleHeaderReceive f k s
  | .sampleResultReceive t k => Sys2Proof.Machine.execSampleResultReceive t k s
  | .sessionTimeout f ses => Sys2Proof.Machine.execSessionTimeout f ses s
  | .sgetTimeout t => Sys2Proof.Machine.execSgetTimeout t s
  | .tileFettlerLine t line hard => Sys2Proof.Machine.execTileFettlerLine t line hard s
  | .stackFettlerGranule c ch slot g hard => Sys2Proof.Machine.execStackFettlerGranule c ch slot g hard s
  | .stackRead c ch slot g hard => Sys2Proof.Machine.execStackRead c ch slot g hard s
  | .repairListAppend => Sys2Proof.Machine.execRepairListAppend s
  | .incidentHandoff => Sys2Proof.Machine.execIncidentHandoff s
  | .automaticRecovery ok => Sys2Proof.Machine.execAutomaticRecovery ok s
  | .retestComplete pass => Sys2Proof.Machine.execRetestComplete pass s
  | .columnRetire ok => Sys2Proof.Machine.execColumnRetire ok s
  | .incidentClose => Sys2Proof.Machine.execIncidentClose s
  | .recClose => Sys2Proof.Machine.execRecClose s
  | .ctxSave n ix ok => Sys2Proof.Machine.execCtxSave n ix ok s
  | .ctxRestore n ix => Sys2Proof.Machine.execCtxRestore n ix s
  | .fieldLoss f cause => Sys2Proof.Machine.execFieldLoss f cause s
  | .clockSourceLost f => Sys2Proof.Machine.execClockSourceLost f s
  | .broisBothLost => Sys2Proof.Machine.execBroisBothLost s
  | .cfgStageGo v => Sys2Proof.Machine.execCfgStageGo v s
  | .cfgStageAbort => Sys2Proof.Machine.execCfgStageAbort s
  | .stagingComplete => Sys2Proof.Machine.execStagingComplete s
  | .cfgAdopt d => Sys2Proof.Machine.execCfgAdopt d s
  | .cfgCommit d v => Sys2Proof.Machine.execCfgCommit d v s
  | .patch n ix => Sys2Proof.Machine.execPatch n ix s
  | .imgLoad n ix => Sys2Proof.Machine.execImgLoad n ix s
  | .imgApply n ix => Sys2Proof.Machine.execImgApply n ix s
  | .imgUnload n ix => Sys2Proof.Machine.execImgUnload n ix s
  | .inputQualified => Sys2Proof.Machine.execInputQualified s
  | .coldStart bad => Sys2Proof.Machine.execColdStart bad s
  | .stageA f e => Sys2Proof.Machine.execStageA f e s
  | .stageB f pass => Sys2Proof.Machine.execStageB f pass s
  | .resetArm => Sys2Proof.Machine.execResetArm s
  | .resetWarm => Sys2Proof.Machine.execResetWarm s
  | .resetCold => Sys2Proof.Machine.execResetCold s
  | .fldResetGo f => Sys2Proof.Machine.execFldResetGo f s
  | .glbTresetGo v => Sys2Proof.Machine.execGlbTresetGo v s
  | .prtPortResetGo v => Sys2Proof.Machine.execPrtPortResetGo v s
  | .winRd link a tag form => Sys2Proof.Machine.execWinRd link a tag form s
  | .winWr link a v tag form resend => Sys2Proof.Machine.execWinWr link a v tag form resend s
  | .memRdata k rstat data => Sys2Proof.Machine.execMemRdata k rstat data s
  | .memAck k rstat => Sys2Proof.Machine.execMemAck k rstat s
  | .broisFlitReceive link h fixed crcOk => Sys2Proof.Machine.execBroisFlitReceive link h fixed crcOk s
  | .broisReplayTimeout link => Sys2Proof.Machine.execBroisReplayTimeout link s
  | .broisRetrain link => Sys2Proof.Machine.execBroisRetrain link s
  | .broisRecover link ev => Sys2Proof.Machine.execBroisRecover link ev s
  | .broisLinkLoss link => Sys2Proof.Machine.execBroisLinkLoss link s
  | .broisTraining link bad ok => Sys2Proof.Machine.execBroisTraining link bad ok s
  | .edgePortTraining p e => Sys2Proof.Machine.execEdgePortTraining p e s
  | .edgePortDown p n lock => Sys2Proof.Machine.execEdgePortDown p n lock s
  | .cstWrite p k => Sys2Proof.Machine.execCstWrite p k s
  | .readReq p k => Sys2Proof.Machine.execReadReq p k s
  | .readResp p k => Sys2Proof.Machine.execReadResp p k s
  | .cstAck p k => Sys2Proof.Machine.execCstAck p k s
  | .nak p k => Sys2Proof.Machine.execNak p k s
  | .cnp p k => Sys2Proof.Machine.execCnp p k s
  | .coll p k => Sys2Proof.Machine.execColl p k s
  | .rtoExpiry k => Sys2Proof.Machine.execRtoExpiry k s
  | .ackTimerExpiry k => Sys2Proof.Machine.execAckTimerExpiry k s
  | .rateRaise k => Sys2Proof.Machine.execRateRaise k s
  | .connOpen v => Sys2Proof.Machine.execConnOpen v s
  | .connClose v => Sys2Proof.Machine.execConnClose v s
  | .inval => Sys2Proof.Machine.execInval s
  | .roceResponse p k => Sys2Proof.Machine.execRoceResponse p k s
  | .roceInboundRequest p k => Sys2Proof.Machine.execRoceInboundRequest p k s
  | .surfacePacketReceive f k x => Sys2Proof.Machine.execSurfacePacketReceive f k x s
  | .rxInject f j => Sys2Proof.Machine.execRxInject f j s
  | .sublinkTraining f k e x => Sys2Proof.Machine.execSublinkTraining f k e x s
  | .sublinkLoss f k => Sys2Proof.Machine.execSublinkLoss f k s
  | .returnLossMeasure f m => Sys2Proof.Machine.execReturnLossMeasure f m s
  | .optNow f m => Sys2Proof.Machine.execOptNow f m s
  | .telemetrySample x => Sys2Proof.Machine.execTelemetrySample x s
  | .supplyStageChange => Sys2Proof.Machine.execSupplyStageChange s
  | .heatRestore f => Sys2Proof.Machine.execHeatRestore f s
  | .coolantLimit => Sys2Proof.Machine.execCoolantLimit s
  | .lastBreath ok => Sys2Proof.Machine.execLastBreath ok s
  | .gaugeSweep f m => Sys2Proof.Machine.execGaugeSweep f m s
  | .fieldPlan f => Sys2Proof.Machine.execFieldPlan f s
  | .firstPlan f => Sys2Proof.Machine.execFirstPlan f s
  | .ledgerSnapshot ok => Sys2Proof.Machine.execLedgerSnapshot ok s
  | .lifSnapNow => Sys2Proof.Machine.execLifSnapNow s
  | .lifCalendarWrite v => Sys2Proof.Machine.execLifCalendarWrite v s
  | .thermalBandCount f => Sys2Proof.Machine.execThermalBandCount f s
  | .refAFailure => Sys2Proof.Machine.execRefAFailure s
  | .crescentOrPortComplexFailure u => Sys2Proof.Machine.execCrescentOrPortComplexFailure u s
  | .pfcFrameReceive p on off => Sys2Proof.Machine.execPfcFrameReceive p on off s
  | .arpRequest p v6 a => Sys2Proof.Machine.execArpRequest p v6 a s
  | .roceAckTimeout k => Sys2Proof.Machine.execRoceAckTimeout k s

end Sys2Proof.Machine
end

