-- ==== Sys2Proof/Machine/Tick.lean ====
section
/-! DEFINITION. What one tick of the 10 ns time base does by itself (R40, R42; log entry 1). -/
namespace Sys2Proof.Machine

/-- A frame whose priority the peer of its port has paused (R491). -/
def framePaused (s : State) (x : OutFrame) : Bool := (getD s.net.ports x.port {}).paused.getLsbD x.pcp

/-- Frames and surface packets that may go have left the module. -/
def drainPorts (s : State) : State :=
  { s with net := { s.net with
      frames := s.net.frames.filter (framePaused s)
      subs := (s.net.subs.map (fun e => (e.1, { e.2 with out := [] }))).filter (fun e => e.2 ≠ {}) } }

/-- A request of crescent `c` to tier `t` waits in this tick: in T0 one in class C3 behind another at a border link, in T2 a read for a
receive buffer; T1 answers within the command that asks (R279; log entry 72). -/
def stalled (s : State) (c t : Nat) : Bool :=
  match t with
  | 0 => s.tiles.any (fun e => match getD e.2.wire (portKey (cresPort c) 3) [] with
      | _ :: w :: _ => w.src.isNone
      | _ => false)
  | 2 => s.net.outst.any (fun o => !o.sent && o.cres == c && o.far.isSome && (match o.kind with | .read => true | _ => false))
  | _ => false

/-- Stall ticks of each crescent and tier, while windows are measured (R279). -/
def countStalls (s : State) : State :=
  [0, 1, 2, 3].foldl (fun s c =>
    if getF s F.STK_SAT_CFG_WINDOW c = 0 then s
    else [0, 2].foldl (fun s t =>
      if stalled s c t then
        { s with tiers := { s.tiers with stall := put s.tiers.stall (c * 4 + t) (getD s.tiers.stall (c * 4 + t) 0 + 1) 0 } }
      else s) s) s

/-- LIF_STAT.POWER_ON counts seconds of housekeeping power (R536). -/
def showSeconds (s : State) : State :=
  if s.power.on && (s.now - s.power.onSince) % second = 0 then setF s F.LIF_STAT_POWER_ON 0 (powerOn s) else s

/-- The end of a holdover: the next alternate, after a pause of 200 µs of the field's arithmetic, in which its timers and those of
its neighbours hold their counts (R400). -/
def switchClock (s : State) (f : Nat) : State :=
  if !inService s f || getF s F.FLD_CLK_HOLDOVER f = 0 then s
  else
    let n := getF s F.FLD_CLK_SOURCE f
    let near := f :: neighbours f
    let s := { s with tiles := s.tiles.map (fun (e : Nat × Tile) =>
      if near.contains (e.1 / 700) then (e.1, shiftTimers (· + 20000) e.2) else e) }
    let s := { s with recov := { s.recov with relock := insert s.recov.relock f (s.now + 20000) } }
    let s := setF (setF s F.FLD_CLK_HOLDOVER f 0) F.FLD_CLK_LOCKED f 0
    sendRec (countF (setF s F.FLD_CLK_SOURCE f (n + 1)) F.FLD_CLK_SWITCHES f 1) (.field f) 0 0x1003 (f + (n + 1) * 2 ^ 8) 0

/-- Holdovers and relocks that end in this tick (R400). -/
def clocks (s : State) : State :=
  let due := s.recov.holdover.filter (fun e => e.2 ≤ s.now)
  let locked := s.recov.relock.filter (fun e => e.2 ≤ s.now && inService s e.1)
  let s := { s with recov := { s.recov with
    holdover := s.recov.holdover.filter (fun e => s.now < e.2), relock := s.recov.relock.filter (fun e => s.now < e.2) } }
  due.foldl (fun s e => switchClock s e.1) (locked.foldl (fun s e => setF s F.FLD_CLK_LOCKED e.1 1) s)

/-- One tick passes. -/
def tick (s : State) : State :=
  let s := stampBlocks (countStalls (drainPorts (clocks { s with now := s.now + 1 })))
  showSeconds ((List.range 32).foldl pfcCheck (applyStretch s))

end Sys2Proof.Machine
end

