-- ==== Sys2Proof/Safety.lean ====
section
/-! DEFINITION. What counts as a sound state of the module, and the words that statements about commands use: what a command
leaves as it was. -/
namespace Sys2Proof.Machine

/-! ### Sound states -/

/-- A tile's memories are in canonical form. -/
def Tile.Sound (t : Tile) : Prop := Memory.wf t.mem = true ∧ Memory.wf t.half0 = true ∧ Memory.wf t.half1 = true

/-- Every store of registers and bytes is in canonical form: keys rise, and no listed byte is 0. -/
def State.Canonical (s : State) : Prop :=
  sortedKeys s.regs = true ∧ Memory.wf s.tiers.mem = true ∧ ∀ e ∈ s.tiles, e.2.Sound

/-- The module's clock has reached the moment at which its counters started (R42). -/
def State.ClockSound (s : State) : Prop := s.upSince ≤ s.now

/-- A sound state. -/
def State.Sound (s : State) : Prop := s.Canonical ∧ s.ClockSound

/-! ### What a command leaves as it was -/

/-- Every register word but those at the addresses `as` reads as before. -/
def RegsKept (as : List Nat) (s t : State) : Prop := ∀ a, a ∉ as → find t.regs a = find s.regs a

/-- Every tile but `g` is as before. -/
def OtherTiles (g : Nat) (s t : State) : Prop := ∀ h, h ≠ g → tileOf t h = tileOf s h

/-- Every byte of tile `g`'s memory outside [a, a + n) is as before. -/
def BytesKept (g a n : Nat) (s t : State) : Prop :=
  ∀ b, b < a ∨ a + n ≤ b → memByte (tileOf t g) b = memByte (tileOf s g) b

/-- Beside tile `g` and the register words at the addresses `as`, nothing has changed. -/
def OnlyTile (g : Nat) (as : List Nat) (s t : State) : Prop :=
  { t with regs := s.regs, tiles := s.tiles } = s ∧ RegsKept as s t ∧ OtherTiles g s t

/-! ### Ops of a tile -/

/-- Tile `t`'s execute engine takes op word `w` of opcode `op` now, and its bit 57 does not hold it back (R58, R59, R61). -/
def Issues (s : State) (t : TileId) (w : Word) (op : Nat) : Prop :=
  opcode w = op ∧ canIssue s t.gid w = true ∧ (getBits w 57 1 = 1 → pipesBusy (tileOf s t.gid) = false)

/-- The state in which tile `g` carries out op word `w`: with bit 57 set, the lane states that the generator held have been written
back (R347). -/
def issued (s : State) (g : Nat) (w : Word) : State := if getBits w 57 1 = 1 then flushGen s g else s

/-- Tile `g` holds no byte in error, and no error injection is armed: its memories read as they were written (R364 to R369). -/
def Quiet (s : State) (g : Nat) : Prop :=
  (tileOf s g).memFlip = [] ∧ (tileOf s g).hflip0 = [] ∧ (tileOf s g).hflip1 = [] ∧ (tileOf s g).riserFlip = [] ∧
    getF s F.TIL_MEM_INJ_ARM g = 0

/-- Bytes of a tile's memory. -/
def tileBytes (t : Tile) (a n : Nat) : List Byte := (List.range n).map (fun i => memByte t (a + i))

/-- A tile's state beside what its engines note of the ops in hand: FEEDs run ahead, where the engine issues, the hang timer, a fence, a
wait. -/
def Tile.work (t : Tile) : Tile := { t with fed := [], issue := none, fencing := none, wait := none, held := none }

/-- Tile memory with `bs` stored at `a`: lines that were invalid read as 0x00 outside the bytes (R365). -/
def stored (t : Tile) (a : Nat) (bs : List Byte) : Tile := storeBytes ((linesOf a bs.length).foldl openLine t) a bs

/-- An op of tile `g` has retired (R61): the engine goes on at `pc`, past FEEDs already run, and PC with it unless an array op is in
progress; no wait and no fence is left; the tile's work is that of `t`; beside it only TIL_STATUS and the tile registers `rs` have
changed. -/
def OpDone (s u : State) (g pc : Nat) (rs : List RegName) (t : Tile) : Prop :=
  (issueAt u g, (tileOf u g).fed) = skipFed t.fed (pc % 2 ^ 20) t.fed.length ∧
    getF u F.TIL_STATUS_PC g = (if t.arr.isSome then getF s F.TIL_STATUS_PC g else issueAt u g) ∧
    getF u F.TIL_STATUS_WAITKIND g = 0 ∧
    (∀ f ∈ [F.TIL_STATUS_RUNNING, F.TIL_STATUS_QUIESCED, F.TIL_STATUS_FENCED, F.TIL_STATUS_BYPASS, F.TIL_STATUS_FAULT],
      getF u f g = getF s f g) ∧
    (tileOf u g).work = t.work ∧ (tileOf u g).wait = none ∧ (tileOf u g).fencing = none ∧
    OnlyTile g ((RegName.TIL_STATUS :: rs).map (regAddr · g 0)) s u

/-- An op of tile `g` has retired, and the next one follows; the tile's work is that of `t`, the sticky flags `fl` have been
raised (R113), and nothing else has changed. -/
def Did (s u : State) (g : Nat) (t : Tile) (fl : Flags) : Prop :=
  OpDone s u g (issueAt s g + 8) [.TIL_FLAGS] t ∧
    rdReg u .TIL_FLAGS g 0 = rdReg s .TIL_FLAGS g 0 ||| fl.setWidth 64

/-- From `s` to `u` tile `g` becomes `t`, the flags `fl` are raised, and nothing else changes. -/
def Becomes (g : Nat) (s u : State) (t : Tile) (fl : Flags) : Prop :=
  OnlyTile g [regAddr .TIL_FLAGS g 0] s u ∧ tileOf u g = t ∧
    rdReg u .TIL_FLAGS g 0 = rdReg s .TIL_FLAGS g 0 ||| fl.setWidth 64

end Sys2Proof.Machine
end

