-- ==== Sys2Proof/Effects.lean ====
section
/-! DEFINITION. What the ops do, as functions of a tile that holds no byte in error: the words that statements about results use. -/
namespace Sys2Proof.Machine

/-! ### Registers and elements -/

/-- A tile with one register of a kind replaced (R55, R73). -/
def withReg (t : Tile) (kind reg v : Nat) : Tile :=
  match kind with
  | 0 => { t with p := put t.p reg (BitVec.ofNat 48 v) 0 }
  | 1 => { t with s := put t.s reg (BitVec.ofNat 32 v) 0 }
  | 2 => { t with l := put t.l reg (BitVec.ofNat 32 v) 0 }
  | _ => { t with e := put t.e reg (BitVec.ofNat 32 v) 0 }

/-- The local address in pointer register `n`: its bits [23:0] (R55). -/
def ptr (t : Tile) (n : Nat) : Nat := (getD t.p n 0).toNat % 2 ^ 24
/-- Scalar register `n` as a number. -/
def num (t : Tile) (n : Nat) : Nat := (getD t.s n 0).toNat

/-- Element patterns in memory (R89). -/
def tileElems (t : Tile) (f a n : Nat) : List Nat := unpackElems (fmtWidth f) n (tileBytes t a (elemBytes f n))
/-- Elements in memory, converted exactly to FP32 (R91, R109). -/
def tileF32 (t : Tile) (f a n : Nat) : List W32 := (tileElems t f a n).map (fun c => toF32 (decodeFmt f c))
/-- The bytes and flags of FP32 results converted to a format under nearest-even without saturation (R102). -/
def f32Bytes (f : Nat) (xs : List (W32 × Flags)) : List Byte :=
  packElems (fmtWidth f) (patterns (convertList f 0 (xs.map (fun x => f32 x.1)) []))
def f32Flags (f : Nat) (xs : List (W32 × Flags)) : Flags :=
  orFlags (xs.map (·.2)) ||| flagsOf (convertList f 0 (xs.map (fun x => f32 x.1)) [])

/-! ### Riser accumulators as bytes (R48, R53, R189) -/

/-- Riser accumulators of a tile. -/
def riserVals (t : Tile) (i n : Nat) : List W32 := (List.range n).map (fun k => getD t.riser (i + k) 0)

/-- The bytes of accumulators `i` to `i + n − 1`, little-endian. -/
def riserImage (t : Tile) (i n : Nat) : List Byte := packElems 32 ((riserVals t i n).map BitVec.toNat)

/-- Bytes of a riser range. -/
def riserRange (t : Tile) (a n : Nat) : List Byte := ((riserImage t (accAt a) (accSpan a n)).drop (a % 4)).take n

/-- The riser with bytes stored; an accumulator covered in part keeps its other bytes. -/
def riserStored (t : Tile) (a : Nat) (bs : List Byte) : Tile :=
  let head := if a % 4 = 0 then [] else (riserImage t (accAt a) 1).take (a % 4)
  let tail := if accPost a bs.length = 0 then [] else
    (riserImage t (accAt (a + bs.length - 1)) 1).drop (4 - accPost a bs.length)
  putRiser t (accAt a) ((words32 (accSpan a bs.length) (head ++ bs ++ tail)).map (BitVec.ofNat 32))

/-! ### Lane states and random bits (R336 to R344) -/

/-- The bytes of the lane state at `a`: as the generator holds them, or as tile memory does (R347). -/
def laneImage (t : Tile) (a : Nat) : List Byte := ((t.gen.find? (fun h => h.addr == a)).map (·.bytes)).getD (tileBytes t a 384)

/-- The state of lane `k` behind `base`. -/
def laneOf (t : Tile) (base k : Nat) : Lane := Lane.ofBytes (laneImage t (base + 384 * k))

/-- Held states written back, one after another. -/
def writtenBack (t : Tile) (hs : List HeldLane) : Tile := hs.foldl (fun t h => stored t h.addr h.bytes) t

/-- A lane state held as the most recently used; the least recently used beyond 64 is written back (R347). -/
def holding (t : Tile) (h : HeldLane) : Tile :=
  let all := h :: t.gen.filter (fun x => x.addr != h.addr)
  writtenBack { t with gen := all.take genSize } (all.drop genSize)

/-- `n` draws of lane `k`, and the tile after them. -/
def drawOf (t : Tile) (base k n : Nat) : List Nat × Tile :=
  let r := drawWords (laneOf t base k) n
  (r.1, holding t ⟨base + 384 * k, r.2.into (laneImage t (base + 384 * k))⟩)

/-- Random bits for `n` elements, and the tile after their draws (R344). -/
def stochOf (t : Tile) (base n : Nat) : List Nat × Tile :=
  (List.range ((n + 15) / 16)).foldl (fun a k =>
    (a.1 ++ groupBits (drawOf a.2 base k 4).1 (min 16 (n - 16 * k)), (drawOf a.2 base k 4).2)) ([], t)

/-- `n` lane states behind `base` can be drawn from: aligned, in tile memory, every PTR in range (R339, R343). -/
def LanesOk (t : Tile) (base n : Nat) : Prop :=
  base % 64 = 0 ∧ inMem base (384 * n) = true ∧ ∀ k < n, (laneOf t base k).ptr ≤ 88

/-! ### Conversions (CVT and RSR: R102 to R107, R343) -/

/-- The lane base that a converting op names: S[SEL] (R343). -/
def convBase (t : Tile) (w : Word) : Nat := num t (wSel w % 16) % 2 ^ 24

/-- An op word converts under rounding field `field` without a fault: formats and rounding exist, and the ranges and the lanes
it draws from lie in tile memory. -/
def Convertible (t : Tile) (w : Word) (field : Nat) : Prop :=
  wFmt w ≤ 9 ∧ wFmt2 w ≤ 9 ∧ roundOk field = true ∧ (roundStoch field = true → convBase t w % 64 = 0) ∧
    (wCount w ≠ 0 →
      inMem (ptr t (wA w)) (elemBytes (wFmt w) (wCount w)) = true ∧ inMem (ptr t (wD w)) (elemBytes (wFmt2 w) (wCount w)) = true ∧
      (roundStoch field = true → LanesOk t (convBase t w) ((wCount w + 15) / 16)))

/-- The tile and the flags after a conversion: COUNT elements at P[PA] of format FMT, rounded to FMT2, and stored at P[PD]. -/
def converted (t : Tile) (w : Word) (field : Nat) : Tile × Flags :=
  if wCount w = 0 then (t, 0)
  else
    let r := if roundStoch field then stochOf t (convBase t w) (wCount w) else ([], t)
    let cs := convertList (wFmt2 w) field ((tileElems t (wFmt w) (ptr t (wA w)) (wCount w)).map (decodeFmt (wFmt w))) r.1
    (stored r.2 (ptr t (wD w)) (packElems (fmtWidth (wFmt2 w)) (patterns cs)), flagsOf cs)

/-! ### Loops -/

/-- One step after another over a list: the tile goes on, the flags gather. -/
def stepsOf {α : Type} (F : Tile → α → Tile × Flags) : List α → Tile → Tile × Flags
  | [], t => (t, 0)
  | x :: xs, t => ((stepsOf F xs (F t x).1).1, (F t x).2 ||| (stepsOf F xs (F t x).1).2)

/-! ### Accumulator sets in memory (R64 to R68, R100, R186, R191) -/

/-- The rows of an array op: `n` ranges of `bytes` bytes, stride apart, in tile memory. -/
def RowsIn (d st n bytes : Nat) : Prop := ∀ r < n, inMem (d + r * st) bytes = true

/-- Accumulators of `n` rows in memory. -/
def rowVals (t : Tile) (d st n : Nat) : List W32 :=
  (List.range n).flatMap (fun r => (words32 32 (tileBytes t (d + r * st) 128)).map (BitVec.ofNat 32))

/-- The lane base of a stochastic drain: S[15] (R74, R343). -/
def drainBase (t : Tile) : Nat := num t 15 % 2 ^ 24

/-- The rounding of a drain exists, and its lanes can be drawn from. -/
def DrainRound (t : Tile) (field n : Nat) : Prop :=
  roundOk field = true ∧ (roundStoch field = true → drainBase t % 64 = 0 ∧ (n ≠ 0 → LanesOk t (drainBase t) 2))

/-- One row converted and stored (R68, R102). -/
def rowDrained (f field a : Nat) (xs : List W32) (t : Tile) : Tile × Flags :=
  let r := if roundStoch field then stochOf t (drainBase t) 32 else ([], t)
  let cs := convertList f field (xs.map f32) r.1
  (stored r.2 a (packElems (fmtWidth f) (patterns cs)), flagsOf cs)

/-- One row added to riser accumulators (R186, R187). -/
def rowAdded (a : Nat) (xs : List W32) (t : Tile) : Tile × Flags :=
  let ys := List.zipWith (fun o v => addTerm o (f32 v)) (riserVals t (accAt a) 32) xs
  (putRiser t (accAt a) (ys.map (·.1)), orFlags (ys.map (·.2)))

/-- One row of DRAINT: the function, or its derivative times the saved operand (R68, R191). -/
def rowFn (w : Word) (a : Nat) (xs : List W32) (t : Tile) : Tile × Flags :=
  let fn := wFunc w % 128
  let ys := if getBits w 15 1 = 1 then
      List.zipWith (trimDeriv fn) xs (if fn = 0 then List.replicate 32 0 else tileF32 t (wFmt w) a 32)
    else xs.map (trimFn fn)
  let r := rowDrained (wFmt2 w) (wMode w) a (ys.map (·.1)) t
  (r.1, orFlags (ys.map (·.2)) ||| r.2)

/-! ### Queues and matrix products (R54 to R57, R96 to R99) -/

/-- No FEED is in progress or held (R56). -/
def NoFeeds (t : Tile) : Prop := t.feeds = [] ∧ ∀ q, (queueOf t q).feed = none

/-- The entries of K-block `b` among the entries `es` of an operand of format `f`. -/
def blockEntries (f b : Nat) (es : List QEntry) : List QEntry := (es.drop (entriesPer f * b)).take (entriesPer f)

/-- K-block `b` of an MM folded into the accumulators (R96, R97), from the entries `ea` and `eb` of its operands. -/
def mmStep (w : Word) (ea eb : List QEntry) (b : Nat) (acc : List W32) : List (W32 × Flags) :=
  foldSet (group32 (wFmt w) (wFmt2 w)) (min 32 (wCount w - 32 * b)) (blockOf (wFmt w) (blockEntries (wFmt w) b ea))
    (blockOf (wFmt2 w) (blockEntries (wFmt2 w) b eb)) acc

/-- The accumulators and flags after one K-block after another. -/
def mmFold (w : Word) (ea eb : List QEntry) : List Nat → List W32 → List W32 × Flags
  | [], acc => (acc, 0)
  | b :: bs, acc =>
    let rs := mmStep w ea eb b acc
    let r := mmFold w ea eb bs (rs.map (·.1))
    (r.1, orFlags (rs.map (·.2)) ||| r.2)

/-- K-blocks of an MM. -/
def mmBlocks (w : Word) : Nat := (wCount w + 31) / 32

/-- A field at stage A takes BF16 and the two FP8 formats only (R452). -/
def StageTakes (s : State) (g : Nat) (w : Word) : Prop :=
  atStageA s (g / 700) = false ∨ (wFmt w ∈ [1, 3, 4] ∧ wFmt2 w ∈ [1, 3, 4])

/-! ### FEEDs (R57, R223 to R227, R567) -/

/-- Bytes of the tundish draw half as the fetch engine reads them: zero in DRAW_ZERO (R51, R129). -/
def tundishBytes (s : State) (g a n : Nat) : List Byte :=
  let half := if getF s F.TIL_TUNDISH_DRAW g = 0 then (tileOf s g).half0 else (tileOf s g).half1
  if drawState s g = 5 then List.replicate n 0
  else (List.range n).map (fun i =>
    BitVec.ofNat 8 (leNat (rdBytes half (8 * ((a - 0x100000 + i) / 8)) 8) / 2 ^ (8 * ((a - 0x100000 + i) % 8))))

/-- Bytes as the fetch engine reads them. -/
def fetchBytes (s : State) (g a n : Nat) : List Byte := if inMem a n then tileBytes (tileOf s g) a n else tundishBytes s g a n

/-- The ingot at `a` lies in a draw half in DRAW_ZERO: it has no header and reads as zeros (R244; log entry 107). -/
def zeroIngot (s : State) (g : Nat) (fd : Feed) (a : Nat) : Bool := !inMem a (ingotSize fd.fmt) && drawState s g == 5

/-- The elements and the scale of half `half` of the ingot at `a`. -/
def ingotHalf (s : State) (g : Nat) (fd : Feed) (a half : Nat) : List Nat × Nat :=
  if zeroIngot s g fd a then (List.replicate 32 0, 0)
  else (unpackElems (fmtWidth fd.fmt) 32 (fetchBytes s g (a + 16 + half * 4 * fmtWidth fd.fmt) (4 * fmtWidth fd.fmt)),
    leNat (fetchBytes s g a 16) / 2 ^ (8 + 8 * half) % 256)

/-- The ingots that entry `j` of a FEED is read from. -/
def entryIngots (fd : Feed) (j : Nat) : List Nat :=
  let l := lanesPerEntry fd.fmt
  let per := 32 / l
  match fd.mode % 8 with
  | 2 => (List.range l).map (fun q => ingotAddr fd (j / (2 * per)) (j % per * l + q))
  | 3 => (List.range 32).map (fun r => ingotAddr fd (j / per) r)
  | _ => []

/-- Every ingot of entry `j` is dense and of the FEED's format, or of a zero draw half (R225, R227, R244). -/
def IngotsOk (s : State) (g : Nat) (fd : Feed) (j : Nat) : Prop :=
  ∀ a ∈ entryIngots fd j, zeroIngot s g fd a = true ∨ ingotOk fd.fmt (fetchBytes s g a 16) = true

/-- Entry `j` of a FEED. -/
def entryOf (s : State) (g : Nat) (fd : Feed) (j : Nat) : QEntry :=
  let f := fd.fmt
  let l := lanesPerEntry f
  let per := 32 / l
  match fd.mode % 8 with
  | 1 =>
    let el := (List.range 32).map (fun r => unpackElems (fmtWidth f) 32 (fetchBytes s g (rowAddr fd (j / per) r) (4 * fmtWidth f)))
    packEntry f ((List.range l).map (fun q => el.map (fun row => row.getD (j % per * l + q) 0))) [] false
  | 2 =>
    let hs := (entryIngots fd j).map (fun a => ingotHalf s g fd a (j % (2 * per) / per))
    packEntry f (hs.map (·.1)) (hs.map (·.2)) false
  | 3 =>
    let hs := (entryIngots fd j).map (fun a => ingotHalf s g fd a (fd.mode / 8 % 2))
    let scales := if j % per < 4 then ((hs.map (·.2)).drop (8 * (j % per))).take 8 else []
    packEntry f ((List.range l).map (fun q => hs.map (fun h => h.1.getD (j % per * l + q) 0))) scales true
  | _ => ⟨leNat (fetchBytes s g (plainAddr fd j) 128), unitSide, false⟩

/-- The FEED of an op word at address `pc` (R57). -/
def feedOf (t : Tile) (pc : Nat) (w : Word) : Feed :=
  { pc, no := t.feedNo, q := getBits w 46 2, mode := wMode w, fmt := wFmt w, base := ptr t (wA w), stride := num t (wB w), count := wCount w,
    run := getBits w 0 16 }

/-- Entries that a queue takes from a FEED at once: up to sixteen (R54, R56). -/
def feedRoom (t : Tile) (fd : Feed) : Nat := min (fd.count) (16 - (queueOf t fd.q).entries.length)

/-- What a FEED leaves of a tile: its queue filled, and the FEED in progress while entries are left. -/
structure Fed (s : State) (g : Nat) (fd : Feed) (u : Tile) : Prop where
  here : queueOf u fd.q =
    { entries := (queueOf (tileOf s g) fd.q).entries ++ (List.range (feedRoom (tileOf s g) fd)).map (entryOf s g fd)
      feed := if feedRoom (tileOf s g) fd < fd.count then some { fd with next := feedRoom (tileOf s g) fd } else none }
  other : ∀ p, p ≠ fd.q → queueOf u p = queueOf (tileOf s g) p
  count : u.feedNo = (tileOf s g).feedNo + 1
  rest : { u with queues := (tileOf s g).queues, feedNo := (tileOf s g).feedNo } = tileOf s g

/-! ### Vector ops (R69, R109 to R111, R287 to R289, R228) -/

/-- `n` FP32 results converted to a format and stored, with their flags; nothing where COUNT is 0 (R72, R102). -/
def resulted (t : Tile) (n f d : Nat) (xs : List (W32 × Flags)) : Tile × Flags :=
  if n = 0 then (t, 0) else (stored t d (f32Bytes f xs), f32Flags f xs)

/-- The outputs of VSCAN: the first element, and each after it combined with the output before (R109). -/
def scanned (f : W32 → W32 → W32 × Flags) : List W32 → List (W32 × Flags)
  | [] => []
  | x :: xs => (x, flNone) :: scanF32 f x xs

/-- The ranges of a vector op of `n` elements lie in tile memory. -/
def VecIn (n f f2 d : Nat) (srcs : List Nat) : Prop :=
  n ≠ 0 → (∀ a ∈ srcs, inMem a (elemBytes f n) = true) ∧ inMem d (elemBytes f2 n) = true

/-- VQUANT's scale index and lane base, from S[SEL] or from memory (R288). -/
def quantOf (t : Tile) (sc : Nat) : Nat × Nat :=
  if sc / 2 ^ 31 % 2 = 0 then (sc % 256, 0)
  else (leNat (tileBytes t (sc % 2 ^ 24) 8) % 256, leNat (tileBytes t (sc % 2 ^ 24) 8) / 2 ^ 32 % 2 ^ 24)

/-- The FP32 values of VQUANT and the tile after reading them: riser accumulators are cleared (R287). -/
def quantRead (t : Tile) (a n : Nat) : List W32 × Tile :=
  if inRiser a (4 * n) then (riserVals t ((a - 0x140000) / 4) n, putRiser t ((a - 0x140000) / 4) (List.replicate n 0))
  else ((words32 n (tileBytes t a (4 * n))).map (BitVec.ofNat 32), t)

/-- Bytes of a billet or an ingot (R228, R287). -/
def quantSize (f : Nat) : Nat := if f = 0xA then 72 else opVquant.ingotSizeOf f

/-- Block `j` of VQUANT: 64 values made a billet or an ingot (R228, R289). -/
def quantBlock (w : Word) (idx d : Nat) (vs : List W32) (rs : List Nat) (t : Tile) (j : Nat) : Tile × Flags :=
  let part := ((vs.drop (64 * j)).take 64).map f32
  let modes := (List.range 64).map (fun i => roundMode (wMode w) (rs.getD (64 * j + i) 0))
  if wFmt2 w = 0xA then (stored t (d + 72 * j) (billetBytes idx modes part), 0)
  else (stored t (d + quantSize (wFmt2 w) * j) (ingotBytes (wFmt2 w) modes part).1, (ingotBytes (wFmt2 w) modes part).2)

/-- The tile and flags after a VQUANT. -/
def quantized (t : Tile) (w : Word) : Tile × Flags :=
  let n := wCount w
  if n = 0 then (t, 0)
  else
    let x := quantOf t (num t (wSel w % 16))
    let v := quantRead t (ptr t (wA w)) n
    let r := if roundStoch (wMode w) then stochOf v.2 x.2 n else ([], v.2)
    stepsOf (quantBlock w x.1 (ptr t (wD w)) v.1 r.1) (List.range (n / 64)) r.2

/-- The ranges, the scale and the lanes of a VQUANT are usable (R287, R288, R339). -/
def Quantizable (t : Tile) (w : Word) : Prop :=
  let n := wCount w
  let sc := num t (wSel w % 16)
  let a := ptr t (wA w)
  n ≠ 0 → (inMem a (4 * n) = true ∨ (inRiser a (4 * n) = true ∧ a % 4 = 0)) ∧
    inMem (ptr t (wD w)) (n / 64 * quantSize (wFmt2 w)) = true ∧
    (sc / 2 ^ 31 % 2 = 1 → inMem (sc % 2 ^ 24) 8 = true) ∧
    (wFmt2 w = 0xA → (quantOf t sc).1 ≠ 0 ∧ (quantOf t sc).1 ≠ 255) ∧
    (roundStoch (wMode w) = true → LanesOk t (quantOf t sc).2 (n / 16))

/-! ### Maps and compressed blocks (R205, R206, R217 to R222) -/

/-- The elements or rows that a BMAP of n bits reads lie in tile memory. -/
def MapIn (t : Tile) (w : Word) : Prop :=
  match wMode w with
  | 0 => inMem (ptr t (wA w)) (elemBytes (wFmt w) (wCount w)) = true
  | 1 => RowsIn (ptr t (wA w)) (num t (wSel w)) 32 (elemBytes (wFmt w) (wCount w))
  | _ => inMem (ptr t (wA w)) (elemBytes (wFmt w) (32 * wCount w)) = true

/-- The bits of a BMAP (R205): a bit of an element map tells a pattern other than zero, a bit of a slice map a slice in which
some element's value is not zero. -/
def mapBits (t : Tile) (w : Word) : List Bool :=
  let n := wCount w
  let f := wFmt w
  let a := ptr t (wA w)
  match wMode w with
  | 0 => (tileElems t f a n).map (· != 0)
  | 1 => (List.range n).map (fun i => (List.range 32).any (fun r => nonZero f ((tileElems t f (a + r * num t (wSel w)) n).getD i 0)))
  | _ => (List.range n).map (fun i => (((tileElems t f a (32 * n)).drop (32 * i)).take 32).any (nonZero f))

/-- Bytes of a map (R205). -/
def mapSize (n : Nat) : Nat := (n + 1023) / 1024 * 128

/-- The blocks that COMPACT makes, with their addresses (R221): an element is kept that is not zero or, with MODE 1, that the map
at P[PB] names. -/
def compactBlocks (t : Tile) (w : Word) : List (Nat × List Byte) :=
  let n := wCount w
  let f := wFmt w
  let e := blockElems f
  let xs := tileElems t f (ptr t (wA w)) n
  let em := if wMode w % 2 = 1 then leNat (tileBytes t (ptr t (wB w)) (n / 8)) else 0
  let present := (List.zip (List.range n) xs).map (fun p => p.2 != 0 || Nat.testBit em p.1)
  (List.range ((n + e - 1) / e)).map (fun j =>
    (ptr t (wD w) + j * slotBytes f, compressBlock f ((xs.drop (j * e)).take e) ((present.drop (j * e)).take e)))

/-- One block of EXPAND (R222): none where the block breaks R217 or leaves tile memory. -/
def expandSlot (w : Word) (d a : Nat) (t : Tile) (j : Nat) : Option Tile :=
  let f := wFmt w
  let src := a + j * slotBytes f
  let len := leNat (tileBytes t src 16) / 2 ^ 48 % 2 ^ 16
  if slotBytes f < len + 16 ∨ inMem src (16 + len) = false then none
  else
    match expandBlock (tileBytes t src (16 + len)) with
    | none => none
    | some b =>
      if b.1 = f ∧ b.2.length = slotCount f (wCount w) j then
        some (stored t (d + j * (blockElems f * fmtWidth f / 8)) (packElems (fmtWidth f) b.2))
      else none

/-- One block of EXPAND after another. -/
def expandSlots (w : Word) (d a : Nat) : List Nat → Tile → Option Tile
  | [], t => some t
  | j :: js, t => (expandSlot w d a t j).bind (expandSlots w d a js)

/-! ### SPMM (R202 to R212) -/

/-- Entries of the map queue that an SPMM pops (R204, R207). -/
def spMapEntries (w : Word) : Nat := mapEntries (wCount w) * (wMode w % 2 + wMode w / 2)

/-- The maps of an SPMM: one that the MODE does not name keeps every pair (R207). -/
def spMaps (w : Word) (ec : List QEntry) : Nat × Nat :=
  let maps := ec.take (spMapEntries w)
  let ones := 2 ^ (wCount w + 1024) - 1
  (if wMode w % 2 = 1 then mapOf (maps.take (mapEntries (wCount w))) else ones,
   if wMode w / 2 = 1 then mapOf (maps.drop (mapEntries (wCount w) * (wMode w % 2))) else ones)

/-- The operands of block `b`. -/
def spPair (w : Word) (ea eb : List QEntry) (b : Nat) : KBlock × KBlock :=
  (blockOf (wFmt w) (blockEntries (wFmt w) b ea), blockOf (wFmt2 w) (blockEntries (wFmt2 w) b eb))

/-- Which pairs of block `b` contribute, and which the plan keeps. -/
def spPairs (w : Word) (ea eb ec : List QEntry) (b : Nat) : List (Bool × Bool) :=
  List.zip ((List.range 32).map (contributing (spPair w ea eb b).1 (spPair w ea eb b).2))
    ((List.range 32).map (fun i => Nat.testBit (spMaps w ec).1 (32 * b + i) && Nat.testBit (spMaps w ec).2 (32 * b + i)))

/-- Contributing pairs that the plan drops, and pairs kept that do not contribute (R208, R209). -/
def spMisses (w : Word) (ea eb ec : List QEntry) (bs : List Nat) : Nat :=
  (bs.map (fun b => ((spPairs w ea eb ec b).filter (fun e => e.1 && !e.2)).length)).sum
def spIdle (w : Word) (ea eb ec : List QEntry) (bs : List Nat) : Nat :=
  (bs.map (fun b => ((spPairs w ea eb ec b).filter (fun e => !e.1 && e.2)).length)).sum

/-- The blocks of an SPMM folded in chunks (R211). -/
def spFolded (w : Word) (ea eb : List QEntry) : List Nat → SpFold → SpFold × Flags
  | [], x => (x, 0)
  | b :: bs, x =>
    let p := spPair w ea eb b
    let r := spBlock p.1 p.2 (((List.range 32).map (contributing p.1 p.2)).filter id).length x
    ((spFolded w ea eb bs r.1).1, r.2 ||| (spFolded w ea eb bs r.1).2)

/-! ### Random ops and STOPK (R340 to R345, R351) -/

/-- The raw words of `n` elements: sixteen draws for each group of 16, cut to the op's elements (R343). -/
def rawOf (t : Tile) (base n : Nat) : List Nat × Tile :=
  (List.range ((n + 15) / 16)).foldl (fun a k =>
    (a.1 ++ (drawOf a.2 base k 16).1.take (min 16 (n - 16 * k)), (drawOf a.2 base k 16).2)) ([], t)

/-- STOPK's K and first vocabulary index, from S[SEL] (R351). -/
def stopK (t : Tile) (w : Word) : Nat := num t (wSel w % 16) % 512
def stopFirst (t : Tile) (w : Word) : Nat := num t (wSel w % 16) / 512 % 2 ^ 20

/-- The candidates of a STOPK in rank order: NaNs left out (R351). -/
def stopRanked (t : Tile) (w : Word) : List Cand :=
  rankCands ((List.zip (List.range (wCount w)) (tileF32 t (wFmt w) (ptr t (wA w)) (wCount w))).filterMap (fun p =>
    if (f32 p.2).isNan then none else some ⟨p.2, stopFirst t w + p.1⟩))

/-- A candidate's vocabulary index does not fit its 20 bits (log entry 6). -/
def stopOver (t : Tile) (w : Word) : Bool := (stopRanked t w).any (fun c => 2 ^ 20 ≤ c.index)

/-- The K candidate slots of a STOPK; an index that does not fit is a free value. -/
def stopBytes (s : State) (t : Tile) (w : Word) : List Byte :=
  (List.range (stopK t w)).flatMap (fun i => candBytes ((stopRanked t w)[i]?.map (fun c =>
    if c.index < 2 ^ 20 then c else { c with index := (Config.freeValue (s.free + i)).toNat })))

/-! ### Ops whose effect reaches beyond their tile's work -/

/-- With the op's effect made, in state `x`, the op retires: PC moves past it and past FEEDs already run, no wait is left, and
nothing else changes (R61). -/
def Retires (x u : State) (g : Nat) : Prop := OpDone x u g (issueAt x g + 8) [] (tileOf x g)

/-- A declared wait begins (R58): the tile waits for `x` from now on, and TIL_STATUS shows its kind. -/
def waiting (s : State) (g : Nat) (x : WaitFor) : State :=
  setF (modTile s g (fun t => { t with wait := some { what := x, since := s.now } })) F.TIL_STATUS_WAITKIND g (waitKind x)

/-- Loop counter `n` set to `v`. -/
def withLoop (s : State) (g n : Nat) (v : W32) : State := modTile s g (fun t => { t with l := put t.l n v 0 })

/-- A tile's program has ended: held lane states are written back, it no longer runs, and no RUN command waits for it (R75, R158,
R347). -/
def halted (s : State) (g : Nat) : State :=
  let s := setF (flushGen s g) F.TIL_STATUS_RUNNING g 0
  finishRuns { s with cmd := { s.cmd with queues := s.cmd.queues.map (fun e =>
    (e.1, { e.2 with runs := e.2.runs.map (fun j => { j with left := j.left.filter (· != g) }) })) } }

/-- The generation that a HOIST names, and how far it lies ahead of TIL_HOIST (R246). -/
def hoistGen (t : Tile) (w : Word) : Nat := leNat (tileBytes t (ptr t (wD w)) 2) % 2 ^ 15
def hoistAhead (s : State) (g : Nat) (w : Word) : Nat :=
  (hoistGen (tileOf s g) w + 2 ^ 15 - getF s F.TIL_HOIST_GEN g) % 2 ^ 15

/-- The transmit record of a stream after a SEND of `n` units at `a` as transfer `r` (R121). -/
def sentRec (s : State) (g stream a n r : Nat) : State :=
  modTile s g (fun t => { t with tx := put t.tx stream { addr := a, count := n, seq := r, next := (r + 1) % 65536 } {} })

/-- The remote address of an RGET or RPUT (R265). -/
def farAddr (t : Tile) (w : Word) : Nat := (getD t.p (wA w) 0).toNat % 2 ^ 42

/-- The pages of a remote access looked up at the nearest crescent (R265). -/
def lookedUp (s : State) (c a n : Nat) : State := ((pagesOf a n).map (· % 2 ^ 24)).foldl (fun s q => cacheLookup s c q) s

/-- The pieces of an RGET, each with a slot in tile memory behind the one before (R171, R265). -/
def gotPieces (g c : Nat) : List (Nat × Nat × Nat × Nat) → Nat → State → State
  | [], _, s => s
  | p :: ps, d, s =>
    let tag := (tileOf s g).nextTag
    gotPieces g c ps (d + p.2.2.2) (getPiece (modTile s g (fun t =>
      { t with reads := t.reads ++ [ReadSlot.mk tag p.1 d p.2.2.2], nextTag := (tag + 1) % 65536 })) g c tag p)

/-- The pieces of an RPUT, written one after another (R265, R267). -/
def putPieces (g c : Nat) : List (Nat × Nat × Nat × Nat) → List Byte → State → State
  | [], _, s => s
  | p :: ps, bs, s => putPieces g c ps (bs.drop p.2.2.2) (putPiece s g c p (bs.take p.2.2.2))

/-- An SPUT has put its units on the sample bus (R352). -/
def putSample (s : State) (g : Nat) (bs : List Byte) : State :=
  let h := leNat (bs.take 8)
  let s := setF (setF s F.TIL_SAMPLE_SESSION g (h / 2 ^ 32 % 8)) F.TIL_SAMPLE_SEQ g (h % 2 ^ 32)
  let s := setF (setF s F.TIL_SAMPLE_PENDING g 1) F.TIL_SAMPLE_READY g 0
  let m := getD s.samplers (g / 700) {}
  { s with samplers := put s.samplers (g / 700) { m with bus := m.bus ++ [⟨g, bs⟩] } {} }

/-! ### Registers -/

/-- A register whose write has no effect beside its fields. -/
def plainReg (r : RegName) : Bool :=
  !([.GLB_CQ_TAIL, .GLB_CQ_CHEAD, .GLB_CQ_CTRL, .GLB_EVR_HEAD, .GLB_EVC, .GLB_MARK, .GLB_PT_INDEX, .LIF_CALENDAR, .LIF_SNAP, .TIL_CTRL,
    .TIL_RESEND, .OPT_RL_CFG, .STK_POUR_STOP, .PRT_CONN_CTRL, .PRT_RET_CTRL, .BRL_CTRL, .CFG_COMMIT, .GLB_TRESET, .FLD_RESET,
    .PRT_PORT_RESET, .GLB_RESET, .CFG_STAGE_CTRL, .CFG_ADOPT, .GLB_REC_CTRL] : List RegName).contains r

end Sys2Proof.Machine
end

