-- ==== Sys2Proof/Certificates/Slice0/Obligations.lean ====
section
/-! DEFINITION. The statements for the provers. A docstring names the rules of spec/ that a statement rests on; where it rests on a
choice of the model, it names the log entry. -/
open Sys2Proof Sys2Proof.Machine

/-- The block's step: it takes the command at the front of its queue and runs it on the state with the queue's rest. Log entry 1: the
queue is the model's own. -/
def Obligations.StepRunsFrontCommand : Prop :=
  ∀ (c : Instr) (s : State), step { s with pending := c :: s.pending } = exec c s

/-- Log entry 1 (the model's choice, after R40 and R42): with no command waiting, one tick of the 10 ns time base passes: `now` grows
by 1, no command appears, and tile memories, tiers and the active frame slot of the flash stay as they are. Where the PLL of a field ends a
holdover (R400), timers of tiles are held back by the pause; elsewhere all of a tile stays. -/
def Obligations.EmptyQueueTicks : Prop :=
  ∀ s : State, s.pending = [] → ∃ t, step s = .next t ∧ t.now = s.now + 1 ∧ t.pending = [] ∧ (∀ g, ∃ d, tileOf t g = shiftTimers (· + d) (tileOf s g)) ∧
    ((∀ e ∈ s.recov.holdover, s.now + 1 < e.2) → t.tiles = s.tiles) ∧ t.tiers.mem = s.tiers.mem ∧
    t.power.flash.active = s.power.flash.active ∧ t.cmd.queues = s.cmd.queues

/-- Log entry 33 and chapter 20: the state before power-on. No command waits, no register word and no byte of tile memory is listed, so
each register field reads as its table gives it; the flash's active frame slot holds what the module was delivered with. -/
def Obligations.ResetState : Prop :=
  State.reset.Sound ∧ State.reset.pending = [] ∧ State.reset.now = 0 ∧
  (∀ r u i, rdReg State.reset r u i = resetWord r i) ∧ (∀ g a, rdByte (tileOf State.reset g).mem a = 0) ∧
  (∀ g, getF State.reset F.TIL_STATUS_RUNNING g = 0 ∧ getF State.reset F.TIL_HANG_LIMIT g = 0x3B6) ∧
  (∀ n, getI State.reset F.GLB_CQ_STAT_HEAD 0 n = 0 ∧ getI State.reset F.GLB_CQ_STAT_STOPPED 0 n = 0 ∧
    getI State.reset F.GLB_CQ_CTRL_WAIT_TMO 0 n = 100000000) ∧
  getF State.reset F.GLB_START_STAT_SL 0 = 0 ∧ getF State.reset F.GLB_START_STAT_FRAME 0 = 0 ∧
  State.reset.power.on = false ∧ State.reset.power.flash.active = { bytes := Config.factoryFrame, mark := true }

/-- Every step keeps a sound state: register words, tile memories and the crescents' memory stay in canonical form (keys rise, no
listed value equal to what an unlisted one reads as), and the clock is never behind the moment its counters started (R42). -/
def Obligations.StepKeepsSound : Prop :=
  ∀ (s t : State), s.Sound → step s = .next t → t.Sound

/-- Every command completes: for every command and state `exec` answers a next state, in which the queue of waiting commands and the
clock are as before (the time base moves only between commands: log entry 1). -/
def Obligations.EveryCommandAnswersNext : Prop :=
  ∀ (c : Instr) (s : State), ∃ t, exec c s = .next t ∧ t.pending = s.pending ∧ t.now = s.now

/-- Rests in part on R426, its last sentence: copies are the only writes to the active frame slot, and they belong to a cold start. No command but
COLD_START changes the active frame slot of the configuration flash, in any state, and no tick does. -/
def Obligations.OnlyColdStartChangesActiveFrame : Prop :=
  (∀ (c : Instr) (s t : State), (∀ b, c ≠ .coldStart b) → exec c s = .next t → t.power.flash.active = s.power.flash.active) ∧
  (∀ (s t : State), s.pending = [] → step s = .next t → t.power.flash.active = s.power.flash.active)

/-- R105: a NaN converts to the canonical NaN of a format that has one (FP32, BF16, FP16, E4M3 and E5M2, R92), and to 0 with the
flag NAN_LOST where the format has none (E3M2, E2M3, E2M1, INT8, INT32), in every rounding mode and whether MODE bit 3 is set or
not. -/
def Obligations.NanConversion : Prop :=
  ∀ (m : RMode) (sat : Bool),
    (convert 0 m sat .nan = (0x7FC00000, 0) ∧ convert 1 m sat .nan = (0x7FC0, 0) ∧ convert 2 m sat .nan = (0x7E00, 0) ∧
      convert 3 m sat .nan = (0x7F, 0) ∧ convert 4 m sat .nan = (0x7F, 0)) ∧
    (∀ f, f ∈ [5, 6, 7, 8, 9] → (convert f m sat .nan).1 = 0 ∧ (convert f m sat .nan).2.getLsbD 2 = true ∧
      ∀ b, b ≠ 2 → (convert f m sat .nan).2.getLsbD b = false)

/-- R18: a read of an address that no block decodes returns 0x0, and a write to such an address is discarded: beside the packets and
the link's own record of tags, only the global error log changes, and it counts the access. -/
def Obligations.UndecodedAccesses : Prop :=
  (∀ (s : State) (l : Fin 2) (a : BitVec 52) (v : Word) (tag : Fin 4096), linkActive s l = true → badAddr a.toNat = false →
    windowBusy s a.toNat = false → decodeReg a.toNat = none →
    exec (.winRd l a tag true) s = .next (sendPkt (noteAccess s a.toNat false false l) l (.winRdata tag 0 0)) ∧
    exec (.winWr l a v tag true false) s = .next (sendPkt (noteAccess (noteTag s l tag) a.toNat true false l) l (.winAck tag 0))) ∧
  (∀ (s : State) (a : Nat) (wr : Bool) (l : Nat),
    getF (noteAccess s a wr false l) F.GLB_ELOG_UNDEC_UNDECODED 0 = min (getF s F.GLB_ELOG_UNDEC_UNDECODED 0 + 1) (2 ^ 32 - 1) ∧
    RegsKept [regAddr .GLB_ELOG_UNDEC 0 0, regAddr .GLB_ELOG_ADDR 0 0] s (noteAccess s a wr false l) ∧
    { noteAccess s a wr false l with regs := s.regs } = s)

/-- Rests in part on R55, R75, R102 to R107: the ops of the MOVE class, each with every operand form. For LDI and ADDI register REG of kind KIND
takes IMM, or its sum with the sign-extended IMM modulo 2^48 for a pointer and 2^32 otherwise; MOV copies COUNT bytes between
tile memory and riser ranges, all read before any is written; FILL repeats the four bytes of S[SEL]; CVT converts COUNT elements
and raises their flags. Nothing else of the module changes. -/
def Obligations.MoveClassOpsRetire : Prop :=
  ∀ (s₀ : State) (t : TileId) (w : Word), Quiet s₀ t.gid →
    let s := issued s₀ t.gid w
    let T := tileOf s t.gid
    let n := wCount w
    let d := ptr T (wD w)
    let a := ptr T (wA w)
    (Issues s₀ t w 0x00 → badS w = false → ∃ u, exec (.nop t w) s₀ = .next u ∧ Did s u t.gid T 0) ∧
    (Issues s₀ t w 0x01 → badS w = false → (wKind w = 2 → wD w ≤ 3) →
      ∃ u, exec (.ldi t w) s₀ = .next u ∧ Did s u t.gid (withReg T (wKind w) (wD w) (wImm w)) 0) ∧
    (Issues s₀ t w 0x02 → badS w = false → (wKind w = 2 → wD w ≤ 3) →
      ∃ u, exec (.addi t w) s₀ = .next u ∧
        Did s u t.gid (withReg T (wKind w) (wD w) (addImm (wKind w) (getReg s t.gid (wKind w) (wD w)) (wImm w))) 0) ∧
    (Issues s₀ t w 0x03 → badM w = false → (n = 0 ∨ (inMem a n ∨ inRiser a n) ∧ (inMem d n ∨ inRiser d n)) →
      ∃ u, exec (.mov t w) s₀ = .next u ∧
        Did s u t.gid (if n = 0 then T else
          let bs := if inMem a n then tileBytes T a n else riserRange T a n
          if inMem d n then stored T d bs else riserStored T d bs) 0) ∧
    (Issues s₀ t w 0x04 → badM w = false → (n = 0 ∨ inMem d n) →
      ∃ u, exec (.fill t w) s₀ = .next u ∧
        Did s u t.gid (if n = 0 then T else
          stored T d ((List.range n).map (fun i => BitVec.ofNat 8 (num T (wSel w) / 2 ^ (8 * ((d + i) % 4)))))) 0) ∧
    (Issues s₀ t w 0x05 → badM w = false → Convertible T w (wMode w) →
      ∃ u, exec (.cvt t w) s₀ = .next u ∧ Did s u t.gid (converted T w (wMode w)).1 (converted T w (wMode w)).2)

/-- Rests in part on R68, R100, R186, R191, R343: the drains and the loads and stores of an accumulator set, COUNT rows at P[PA]/P[PD] with the
stride S[PS]. DRAIN converts the rows, DRAINT applies its function, or the function's derivative times the operand saved at the
row's place, first; DRAINR adds them to riser accumulators; ACCLD and ACCST move them unchanged. Rows follow one another, and
nothing but the named bytes, accumulators, drawn lanes and flags changes. -/
def Obligations.AccumulatorDrainsAndMoves : Prop :=
  ∀ (s₀ : State) (t : TileId) (w : Word), Quiet s₀ t.gid → badD w = false →
    let s := issued s₀ t.gid w
    let T := tileOf s t.gid
    let n := wCount w
    let d := ptr T (wD w)
    let st := num T (wB w)
    let set := getBits w 43 1
    let row := fun r => setRow (readSet T set) r
    (Issues s₀ t w 0x09 → wFmt2 w ≤ 9 → DrainRound T (wMode w) n → RowsIn d st n (4 * fmtWidth (wFmt2 w)) →
      ∃ u, exec (.drain t w) s₀ = .next u ∧
        let r := stepsOf (fun t r => rowDrained (wFmt2 w) (wMode w) (d + r * st) (row r) t) (List.range n) T
        Did s u t.gid r.1 r.2) ∧
    (Issues s₀ t w 0x0A → wFmt2 w = 0 → wMode w = 0 → wFunc w = 0 →
      (n ≠ 0 → d % 4 = 0 ∧ st % 4 = 0) → (∀ r < n, inRiser (d + r * st) 128 = true) →
      ∃ u, exec (.drainr t w) s₀ = .next u ∧
        let r := stepsOf (fun t r => rowAdded (d + r * st) (row r) t) (List.range n) T
        Did s u t.gid r.1 r.2) ∧
    (Issues s₀ t w 0x0B → draintBad w st = false → DrainRound T (wMode w) n → RowsIn d st n (4 * fmtWidth (wFmt2 w)) →
      (getBits w 15 1 = 1 → wFunc w % 128 ≠ 0 → RowsIn d st n (4 * fmtWidth (wFmt w))) →
      ∃ u, exec (.draint t w) s₀ = .next u ∧
        let r := stepsOf (fun t r => rowFn w (d + r * st) (row r) t) (List.range n) T
        Did s u t.gid r.1 r.2) ∧
    (Issues s₀ t w 0x0C → wFmt2 w = 0 → RowsIn d st n 128 →
      ∃ u, exec (.accld t w) s₀ = .next u ∧
        Did s u t.gid (if n = 0 then T else writeSet T set (rowVals T d st n ++ (readSet T set).drop (32 * n))) 0) ∧
    (Issues s₀ t w 0x0D → wFmt2 w = 0 → RowsIn d st n 128 →
      ∃ u, exec (.accst t w) s₀ = .next u ∧
        Did s u t.gid (stepsOf (fun t r => (stored t (d + r * st) (packElems 32 ((row r).map BitVec.toNat)), 0)) (List.range n) T).1 0)

/-- Rests in part on R54 to R58, R64, R96 to R99, R567: the array and its fetch engine. An MM with no disturbance, whose queues hold the
entries of all its K-blocks (unmarked ones where the group size is 32), folds block after block into its set, which starts at +0
when CLR is set, pops just those entries and raises the flags of every fold. One whose queue A is empty stays in progress and holds
the array alone: the engine goes on behind it, and PC names it until it completes. A FEED given to queue Q while no other FEED is in
progress fills the queue up to sixteen entries, read at the places its mode names, and stays in progress while entries are left;
one that the fetch engine reaches ahead of the execute engine does the same with its own copies of the registers, and PC passes it
later. Nothing else changes.
Where the spec is silent, the model's choices are in log entries 107, 109. -/
def Obligations.MatrixProductAndFeed : Prop :=
  ∀ (s₀ : State) (t : TileId) (w : Word), Quiet s₀ t.gid →
    let s := issued s₀ t.gid w
    let T := tileOf s t.gid
    let qa := getBits w 46 2
    let qb := getBits w 44 2
    let set := getBits w 41 1
    let ea := (queueOf T qa).entries
    let eb := (queueOf T qb).entries
    let na := entriesPer (wFmt w) * mmBlocks w
    let nb := entriesPer (wFmt2 w) * mmBlocks w
    let pc := issueAt s₀ t.gid
    let fd := feedOf T pc w
    (Issues s₀ t w 0x08 → mmBad w = false → StageTakes s t.gid w → wCount w = 0 →
      ∃ u, exec (.mm t w .none) s₀ = .next u ∧ Did s u t.gid T 0) ∧
    (Issues s₀ t w 0x08 → mmBad w = false → StageTakes s t.gid w → wCount w ≠ 0 → NoFeeds T → T.arr = none → T.issue = none →
      na ≤ ea.length → nb ≤ eb.length →
      (group32 (wFmt w) (wFmt2 w) = true → (∀ e ∈ ea.take na, e.mark = false) ∧ ∀ e ∈ eb.take nb, e.mark = false) →
      let r := mmFold w ea eb (List.range (mmBlocks w)) (if getBits w 40 1 = 1 then List.replicate 1024 0 else readSet T set)
      ∃ u v, exec (.mm t w .none) s₀ = .next u ∧ Did s u t.gid v r.2 ∧ readSet v set = r.1 ∧
        (∀ x, x ≠ set → readSet v x = readSet T x) ∧
        queueOf v qa = { queueOf T qa with entries := ea.drop na } ∧ queueOf v qb = { queueOf T qb with entries := eb.drop nb } ∧
        (∀ p, p ≠ qa → p ≠ qb → queueOf v p = queueOf T p) ∧ { v with queues := T.queues, acc := T.acc } = T) ∧
    (∀ x, Issues s₀ t w 0x08 → mmBad w = false → StageTakes s t.gid w → wCount w ≠ 0 → NoFeeds T → T.arr = none → T.issue = none →
      ea = [] →
      ∃ u v, exec (.mm t w x) s₀ = .next u ∧ Becomes t.gid s v { T with arr := some { word := w, since := s.now } } 0 ∧
        u = moveIssue v t.gid (getF s F.TIL_STATUS_PC t.gid + 8)) ∧
    (Issues s₀ t w 0x20 → canFeed s₀ t.gid w = true → (tileOf s₀ t.gid).wait = none →
      (∀ x, reachFeed s₀ t.gid w = .feed x → x.pc = pc) → feedBad w = false →
      (wCount w = 0 ∨ getBits w 0 16 = 0 → ∃ u, exec (.feed t w) s₀ = .next u ∧ Did s u t.gid T 0) ∧
      (wCount w ≠ 0 → getBits w 0 16 ≠ 0 → NoFeeds T →
        (∀ r ∈ feedRanges fd, fetchable r.1 r.2 = true) → (∀ j < feedRoom T fd, IngotsOk s t.gid fd j) →
        ∃ u v, exec (.feed t w) s₀ = .next u ∧ Did s u t.gid v 0 ∧ Fed s t.gid fd v)) ∧
    (∀ x, canFeed s₀ t.gid w = true → reachFeed s₀ t.gid w = .feed x → ((tileOf s₀ t.gid).wait.isSome ∨ x.pc ≠ pc) →
      feedBad w = false → wCount w ≠ 0 → getBits w 0 16 ≠ 0 →
      let c := modTile s₀ t.gid (fun T => { T with p := x.p, s := x.s })
      let T₀ := tileOf s₀ t.gid
      let fd := feedOf (tileOf c t.gid) x.pc w
      NoFeeds T₀ → (∀ r ∈ feedRanges fd, fetchable r.1 r.2 = true) →
      (∀ j < feedRoom (tileOf c t.gid) fd, IngotsOk c t.gid fd j) →
      ∃ u v, exec (.feed t w) s₀ = .next u ∧ Fed c t.gid fd v ∧
        Becomes t.gid s₀ u { v with p := T₀.p, s := T₀.s, fed := T₀.fed ++ [x.pc] } 0)

/-- Rests in part on R69, R72, R77, R102, R109 to R111, R228, R287 to R289: the VECTOR class. VBIN, VFMA, VFN and VSCAN make COUNT results from
FP32 values of their sources (VFMA's addend is what stands at P[PD] in FMT2), VRED one, and each is converted to its format
at P[PD]; VQUANT makes one billet or ingot of every 64 values, clearing the riser accumulators it takes them from. COUNT 0 does
nothing. Their flags are raised, and nothing but the bytes, accumulators and drawn lanes named changes. -/
def Obligations.VectorOpsStoreTheirResults : Prop :=
  ∀ (s₀ : State) (t : TileId) (w : Word), Quiet s₀ t.gid →
    let s := issued s₀ t.gid w
    let T := tileOf s t.gid
    let n := wCount w
    let f := wFmt w
    let f2 := wFmt2 w
    let d := ptr T (wD w)
    let a := ptr T (wA w)
    let b := ptr T (wB w)
    let X := tileF32 T f a n
    let Y := tileF32 T f b n
    let ends := fun (c : Instr) (r : Tile × Flags) => ∃ u, exec c s₀ = .next u ∧ Did s u t.gid r.1 r.2
    (badM w = false → f ≤ 8 → f2 ≤ 8 →
      (Issues s₀ t w 0x10 → wFunc w ≤ 4 → VecIn n f f2 d [a, b] →
        ends (.vbin t w) (resulted T n f2 d (List.zipWith (binFn (wFunc w)) X Y))) ∧
      (Issues s₀ t w 0x11 → VecIn n f f2 d [a, b] →
        ends (.vfma t w) (resulted T n f2 d (List.zipWith (fun p z => fmaF32 p.1 p.2 z) (List.zip X Y) (tileF32 T f2 d n)))) ∧
      (Issues s₀ t w 0x12 → wFunc w ≤ 12 → VecIn n f f2 d [a] →
        ends (.vfn t w) (resulted T n f2 d (X.map (trimFn (wFunc w))))) ∧
      (Issues s₀ t w 0x13 → f2 = 0 → wFunc w ≤ 5 → (n ≠ 0 → inMem a (elemBytes f n) = true ∧ inMem d 4 = true) →
        ends (.vred t w) (resulted T n 0 d [redFn (wFunc w) X])) ∧
      (Issues s₀ t w 0x14 → wFunc w ≤ 1 → VecIn n f f2 d [a] →
        ends (.vscan t w) (resulted T n f2 d (scanned (if wFunc w = 0 then addF32 else fun a b => (maxF32 a b, 0)) X)))) ∧
    (Issues s₀ t w 0x15 → quantBad w (num T (wSel w % 16)) = false → Quantizable T w →
      ends (.vquant t w) (quantized T w))

/-- Rests in part on R205, R206, R217 to R222: maps and compressed blocks. BMAP writes an element or slice map of COUNT bits, BPRED the OR of two
maps, both padded with zero bits; COMPACT writes the compressed blocks of COUNT elements, one to a slot, and EXPAND the elements
of COUNT elements' blocks. COUNT 0 does nothing. Nothing but the bytes written changes. -/
def Obligations.MapsAndCompressedBlocks : Prop :=
  ∀ (s₀ : State) (t : TileId) (w : Word), Quiet s₀ t.gid → badM w = false →
    let s := issued s₀ t.gid w
    let T := tileOf s t.gid
    let n := wCount w
    let f := wFmt w
    let d := ptr T (wD w)
    let a := ptr T (wA w)
    let b := ptr T (wB w)
    let ends := fun (c : Instr) (v : Tile) => ∃ u, exec c s₀ = .next u ∧ Did s u t.gid v 0
    (Issues s₀ t w 0x19 → f ≤ 8 → wMode w ≤ 2 → (n ≠ 0 → inMem d (mapSize n) = true ∧ MapIn T w) →
      ends (.bmap t w) (if n = 0 then T else stored T d (mapBytes (mapBits T w)))) ∧
    (Issues s₀ t w 0x1A → wMode w = 0 → wFunc w = 0 → wSel w = 0 →
      (n ≠ 0 → inMem a ((n + 7) / 8) = true ∧ inMem b ((n + 7) / 8) = true ∧ inMem d (mapSize n) = true) →
      ends (.bpred t w) (if n = 0 then T else
        let x := leNat (tileBytes T a ((n + 7) / 8))
        let y := leNat (tileBytes T b ((n + 7) / 8))
        stored T d (mapBytes ((List.range n).map (fun i => Nat.testBit x i || Nat.testBit y i))))) ∧
    (Issues s₀ t w 0x1B → f ≤ 8 → n % 64 = 0 →
      (n ≠ 0 → inMem a (elemBytes f n) = true ∧ (wMode w % 2 = 1 → inMem b (n / 8) = true) ∧
        ∀ p ∈ compactBlocks T w, inMem p.1 p.2.length = true) →
      ends (.compact t w) ((if n = 0 then [] else compactBlocks T w).foldl (fun t p => stored t p.1 p.2) T)) ∧
    (Issues s₀ t w 0x1C → f ≤ 8 → n = 0 → ends (.expand t w) T) ∧
    (Issues s₀ t w 0x1C → f ≤ 8 → n ≠ 0 →
      let slots := (n + blockElems f - 1) / blockElems f
      inMem d (elemBytes f n) = true → inMem (a + (slots - 1) * slotBytes f) 16 = true →
      (∀ j < slots, inMem (a + j * slotBytes f) (slotUse T f (a + j * slotBytes f)) = true) →
      ∀ v, expandSlots w d a (List.range slots) T = some v → ends (.expand t w) v)

/-- Rests in part on R202 to R212: SPMM. With no disturbance, and with the entries of its K-blocks (unmarked) and of its maps in their queues, an
SPMM folds block after block in chunks of at most 1,024 contributing pairs, merges them into its set, which starts at +0 when CLR is
set, pops just those entries, raises the flags, and adds to TIL_RIDDLE the contributing pairs that its maps drop and the pairs they
keep that do not contribute; both counts stay at their largest value. A contributing pair is folded whatever the maps say. K = 0
does nothing. Nothing else changes. -/
def Obligations.SparseProductFoldsContributingPairs : Prop :=
  ∀ (s₀ : State) (t : TileId) (w : Word), Quiet s₀ t.gid → Issues s₀ t w 0x18 → spmmBad w = false →
    StageTakes (issued s₀ t.gid w) t.gid w →
    let s := issued s₀ t.gid w
    let T := tileOf s t.gid
    let qa := getBits w 46 2
    let qb := getBits w 44 2
    let qc := getBits w 42 2
    let set := getBits w 41 1
    let ea := (queueOf T qa).entries
    let eb := (queueOf T qb).entries
    let ec := (queueOf T qc).entries
    let na := entriesPer (wFmt w) * (wCount w / 32)
    let nb := entriesPer (wFmt2 w) * (wCount w / 32)
    let bs := List.range (wCount w / 32)
    (wCount w = 0 → ∃ u, exec (.spmm t w .none) s₀ = .next u ∧ Did s u t.gid T 0) ∧
    (wCount w ≠ 0 → NoFeeds T → T.arr = none → T.issue = none → na ≤ ea.length → nb ≤ eb.length → (wMode w ≠ 0 → spMapEntries w ≤ ec.length) →
      (∀ e ∈ ea.take na, e.mark = false) → (∀ e ∈ eb.take nb, e.mark = false) →
      let start := if getBits w 40 1 = 1 then List.replicate 1024 0 else readSet T set
      let x := spFolded w ea eb bs ⟨start, List.replicate 1024 0, 0, true⟩
      ∃ u v, exec (.spmm t w .none) s₀ = .next u ∧
        OpDone s u t.gid (issueAt s t.gid + 8) [.TIL_FLAGS, .TIL_RIDDLE] v ∧
        rdReg u .TIL_FLAGS t.gid 0 = rdReg s .TIL_FLAGS t.gid 0 ||| (x.2 ||| (mergeBank x.1).2).setWidth 64 ∧
        getF u F.TIL_RIDDLE_MISSES t.gid = min (getF s F.TIL_RIDDLE_MISSES t.gid + spMisses w ea eb ec bs) (2 ^ 32 - 1) ∧
        getF u F.TIL_RIDDLE_IDLE_PAIRS t.gid = min (getF s F.TIL_RIDDLE_IDLE_PAIRS t.gid + spIdle w ea eb ec bs) (2 ^ 32 - 1) ∧
        readSet v set = (mergeBank x.1).1 ∧ (∀ y, y ≠ set → readSet v y = readSet T y) ∧
        queueOf v qa = { queueOf T qa with entries := ea.drop na } ∧ queueOf v qb = { queueOf T qb with entries := eb.drop nb } ∧
        (∀ p, p ≠ qa → p ≠ qb → queueOf v p =
          if p = qc then { queueOf T p with entries := ec.drop (spMapEntries w) } else queueOf T p) ∧
        { v with queues := T.queues, acc := T.acc } = T)

/-- Rests in part on R340 to R345, R347, R351: the RNG class and STOPK. RINIT drops the held copies of the addresses it writes and writes COUNT freshly
seeded lane states; RBITS and RUNIF write COUNT raw
words or uniform values drawn from the lanes behind S[SEL]; RSR converts as CVT with stochastic rounding; STOPK writes its K best
candidates. COUNT 0 (and K = 0) does nothing. Nothing but the bytes written, the lanes drawn and, for RSR, flags changes. The index
of a candidate beyond 20 bits, which R351 does not state, is the model's free value (log entry 6): taking it is the one other change. -/
def Obligations.RandomAndTopKOps : Prop :=
  ∀ (s₀ : State) (t : TileId) (w : Word), Quiet s₀ t.gid → badM w = false →
    let s := issued s₀ t.gid w
    let T := tileOf s t.gid
    let n := wCount w
    let d := ptr T (wD w)
    let a := ptr T (wA w)
    let base := convBase T w
    let n0 := num T (wSel w % 16)
    let ends := fun (c : Instr) (v : Tile) (fl : Flags) => ∃ u, exec c s₀ = .next u ∧ Did s u t.gid v fl
    (Issues s₀ t w 0x30 → wFmt w = 0 → wFmt2 w = 0 → wFunc w = 0 → wMode w = 0 → a % 8 = 0 → d % 64 = 0 → n0 + n ≤ 2 ^ 32 →
      (n ≠ 0 → inMem a 8 = true ∧ inMem d (384 * n) = true) →
      ends (.rinit t w) (if n = 0 then T else
        (List.range n).foldl (fun t j => stored t (d + 384 * j) (laneBytes (leNat (tileBytes T a 8)) (n0 + j))) (dropLanes T d (384 * n))) 0) ∧
    (Issues s₀ t w 0x31 → base % 64 = 0 → (n ≠ 0 → inMem d (4 * n) = true ∧ LanesOk T base ((n + 15) / 16)) →
      ends (.rbits t w) (if n = 0 then T else stored (rawOf T base n).2 d (packElems 32 (rawOf T base n).1)) 0) ∧
    (Issues s₀ t w 0x32 → base % 64 = 0 → wFmt2 w ≤ 2 →
      (n ≠ 0 → inMem d (elemBytes (wFmt2 w) n) = true ∧ LanesOk T base ((n + 15) / 16)) →
      ends (.runif t w) (if n = 0 then T else
        stored (rawOf T base n).2 d (packElems (fmtWidth (wFmt2 w)) ((rawOf T base n).1.map (unifBits (wFmt2 w))))) 0) ∧
    (Issues s₀ t w 0x33 → wMode w % 8 = 4 → Convertible T w (wMode w) →
      ends (.rsr t w) (converted T w (wMode w)).1 (converted T w (wMode w)).2) ∧
    (Issues s₀ t w 0x38 → wFmt w ≤ 2 → stopK T w ≤ 256 → (n = 0 ∨ stopK T w = 0) → ends (.stopk t w) T 0) ∧
    (Issues s₀ t w 0x38 → wFmt w ≤ 2 → stopK T w ≤ 256 → n ≠ 0 → stopK T w ≠ 0 →
      inMem a (elemBytes (wFmt w) n) = true → inMem d (8 * stopK T w) = true →
      ∃ u, exec (.stopk t w) s₀ = .next u ∧
        Did (if stopOver T w then { s with free := s.free + stopK T w } else s) u t.gid (stored T d (stopBytes s T w)) 0)

/-- Rests in part on R58, R59, R75, R76, R158, R246, R347: the SYNC class. FENCE retires when no pipe holds an op, with the held lane states written back,
and waits until then; EVSIG adds IMM to a
counter of its own tile, of another tile through the mesh, or of the module through the nearest crescent; EVWAIT retires when its counter has reached IMM modulo
2^32 and waits until then; LOOP counts its loop counter down and branches back while it is not 0; HOIST releases the draw half and
exchanges the halves when TIL_HOIST lies behind the generation at P[PD], waiting for the exchange; HALT ends the program.
Where the spec is silent, the model's choices are in log entries 17, 109. -/
def Obligations.SyncOpsRetireOrWait : Prop :=
  ∀ (s₀ : State) (t : TileId) (w : Word),
    let s := issued s₀ t.gid w
    let g := t.gid
    let T := tileOf s g
    let imm := BitVec.ofNat 32 (wImm w)
    let l := getD T.l (wD w) 0
    let target := num T (wB w)
    let goes := fun (c : Instr) (x : State) => ∃ u, exec c s₀ = .next u ∧ Retires x u g
    let rel := releaseDraw s g
    (badS w = false →
      (Issues s₀ t w 0x28 → pipesBusy T = false → goes (.fence t w) (flushGen s g)) ∧
      (Issues s₀ t w 0x28 → pipesBusy T = true → exec (.fence t w) s₀ = .next (holdFence s g w)) ∧
      (Issues s₀ t w 0x2A → reached (getD T.e (wD w) 0) imm = true → goes (.evwait t w) s) ∧
      (Issues s₀ t w 0x2A → reached (getD T.e (wD w) 0) imm = false →
        exec (.evwait t w) s₀ = .next (waiting s g (.evwait (wD w) imm))) ∧
      (Issues s₀ t w 0x2B → wD w ≤ 3 → l = 0 → goes (.loop t w) s) ∧
      (Issues s₀ t w 0x2B → wD w ≤ 3 → l = 1 → goes (.loop t w) (withLoop s g (wD w) 0)) ∧
      (Issues s₀ t w 0x2B → wD w ≤ 3 → l ≠ 0 → l ≠ 1 → ∃ u, exec (.loop t w) s₀ = .next u ∧
        OpDone (withLoop s g (wD w) (l - 1)) u g ((issueAt s g + 8 * wImm w) % 2 ^ 20) []
          (tileOf (withLoop s g (wD w) (l - 1)) g)) ∧
      (Issues s₀ t w 0x2D → goes (.halt t w) (halted s g)) ∧
      (Issues s₀ t w 0x2C → wKind w = 0 → wMode w = 0 → wImm w = 0 → T.memFlip = [] → inMem (ptr T (wD w)) 2 = true →
        (hoistAhead s g w = 0 → goes (.hoist t w) s) ∧
        (hoistAhead s g w ≠ 0 → hoistAhead s g w < 2 ^ 14 → canSwap rel g = true →
          goes (.hoist t w) (setF (swapHalves rel g) F.TIL_HOIST_GEN g (hoistGen T w))) ∧
        (hoistAhead s g w ≠ 0 → hoistAhead s g w < 2 ^ 14 → canSwap rel g = false →
          exec (.hoist t w) s₀ = .next (waiting rel g (.hoist (hoistGen T w)))))) ∧
    (badSig w = false → Issues s₀ t w 0x29 →
      (wMode w = 0 → goes (.evsig t w) (addLocal s g (wD w) imm)) ∧
      (wMode w = 1 → target % 256 ≤ 191 → target / 256 % 256 ≤ 167 →
        goes (.evsig t w) (inject s g { typ := tyIncr, cls := 0, routed := true, dx := target % 256, dy := target / 256 % 256,
                                        addr := wD w, amount := imm })) ∧
      (wMode w = 2 → goes (.evsig t w) (toCommand s g (target % 65536) imm)))

/-- Rests in part on R52, R116 to R122, R129, R130, R352, R356: the ops of the NET pipe that move streams, tundish halves and samples. With the pipe
free, SEND puts COUNT units on its stream and notes the transfer, RECV begins its declared wait, TSWAP exchanges the halves of the
tundish or waits for it, TREL releases the draw half, SPUT puts its units on the field's sample bus, and SGET copies the result
buffer when it is ready and else waits. A COUNT of 0 does nothing. With the pipe in use no op of these changes anything.
Where the spec is silent, the model's choices are in log entries 111. -/
def Obligations.StreamOpsRetireOrWait : Prop :=
  ∀ (s₀ : State) (t : TileId) (w : Word),
    let s := issued s₀ t.gid w
    let g := t.gid
    let T := tileOf s g
    let n := wCount w
    let a := ptr T (wD w)
    let free := netBusy T = false
    let goes := fun (c : Instr) (x : State) => ∃ u, exec c s₀ = .next u ∧ Retires x u g
    (badN w = false →
      (n = 0 → (Issues s₀ t w 0x21 → goes (.send t w) s) ∧ (Issues s₀ t w 0x22 → goes (.recv t w) s) ∧
        (Issues s₀ t w 0x39 → wSel w = 0 → goes (.sput t w) s) ∧ (Issues s₀ t w 0x3A → goes (.sget t w) s)) ∧
      (n ≠ 0 → netBusy T = true → (Issues s₀ t w 0x21 → exec (.send t w) s₀ = .next s₀) ∧ (Issues s₀ t w 0x22 → exec (.recv t w) s₀ = .next s₀)) ∧
      (n ≠ 0 → free → inMem a (64 * n) = true →
        (Issues s₀ t w 0x21 → T.memFlip = [] →
          let r := (getD T.tx (wSel w) {}).next
          goes (.send t w) (sentRec (sendTransfer s g (wSel w) r true (tileBytes T a (64 * n))) g (wSel w) a n r)) ∧
        (Issues s₀ t w 0x22 → exec (.recv t w) s₀ = .next (waiting s g (.recv (wSel w) a n))) ∧
        (Issues s₀ t w 0x39 → wSel w = 0 → T.memFlip = [] → goes (.sput t w) (putSample s g (tileBytes T a (64 * n))))) ∧
      (Issues s₀ t w 0x3A → n = 1 → free → inMem a 64 = true →
        (getF s F.TIL_SAMPLE_READY g = 1 → getF s F.TIL_MEM_INJ_ARM g = 0 →
          goes (.sget t w) (modTile s g (fun t => stored t a (bytesOf T.result.toNat 64)))) ∧
        (getF s F.TIL_SAMPLE_READY g = 0 → exec (.sget t w) s₀ = .next (waiting s g (.sget a))))) ∧
    (badS w = false → free →
      (Issues s₀ t w 0x23 → canSwap s g = true → goes (.tswap t w) (swapHalves s g)) ∧
      (Issues s₀ t w 0x23 → canSwap s g = false → exec (.tswap t w) s₀ = .next (waiting s g .tswap)) ∧
      (Issues s₀ t w 0x24 → goes (.trel t w) (releaseDraw s g)))

/-- Rests in part on R171, R265 to R267, R273, R275: RGET and RPUT. With the NET pipe free, their range in tile memory and below 2^42, every page of
the access is looked up at the nearest crescent; where all are present, and for an RPUT writable, each piece of at most a unit is
read with a slot reserved in tile memory for its answer, or written at its place; the op retires. COUNT 0 does nothing. A page that
is not present, poisoned or not writable faults the tile with code 2, or 6 for poison, having sent nothing but the record of R266. -/
def Obligations.RemoteReadsAndWrites : Prop :=
  ∀ (s₀ : State) (t : TileId) (w : Word), badN w = false →
    let s := issued s₀ t.gid w
    let g := t.gid
    let T := tileOf s g
    let n := unitBytes w
    let d := ptr T (wD w)
    let a := farAddr T w
    let c := nearCres s g
    let x := lookedUp s c a n
    let ps := piecesOf a (n / 4096 + 2) n
    let pages := (pagesOf a n).map (· % 2 ^ 24)
    let goes := fun (c : Instr) (x : State) => ∃ u, exec c s₀ = .next u ∧ Retires x u g
    let fails := fun (f q : Nat) => sendRec (countFail x c f) (.tile g) 0 (if f = 3 then 0x2003 else 0x2000) q (logX x g + 256 * logY x g)
    (n = 0 → (Issues s₀ t w 0x25 → goes (.rget t w) s) ∧ (Issues s₀ t w 0x26 → goes (.rput t w) s)) ∧
    (n ≠ 0 → netBusy T = false → inMem d n = true → a + n ≤ 2 ^ 42 →
      (Issues s₀ t w 0x25 → firstBad x pages false = none → goes (.rget t w) (gotPieces g c ps d x)) ∧
      (Issues s₀ t w 0x26 → T.memFlip = [] → firstBad x pages true = none →
        goes (.rput t w) (putPieces g c ps (tileBytes T d n) x)) ∧
      (Issues s₀ t w 0x25 → ∀ q f, firstBad x pages false = some (q, f) →
        exec (.rget t w) s₀ = .next (tileFault (fails f q) g (if f = 2 then 6 else 2))) ∧
      (Issues s₀ t w 0x26 → T.memFlip = [] → ∀ q f, firstBad x pages true = some (q, f) →
        exec (.rput t w) s₀ = .next (tileFault (fails f q) g (if f = 2 then 6 else 2))))

/-- Rests in part on R58, R62, R63, R71, R73: a tile fault, and the op words that raise one. A fault stops the tile, puts its code in FAULT, its bit in
TIL_ERR and LAST_FAULT, fences the tile and ends its wait, and leaves every other tile as it was. An op word with bit 56 or a reserved
bit of its layout set faults with code 1 and has no other effect; an issued op of the NET or the ARRAY pipe that
makes no progress for TIL_HANG.LIMIT counts faults with code 4: that is what a hang timer's expiry does. -/
def Obligations.TileFaultStopsAndFences : Prop :=
  (∀ (s : State) (t : TileId) (code : Nat), 1 ≤ code → code ≤ 8 →
    let g := t.gid
    let u := tileFault s g code
    getF u F.TIL_STATUS_FAULT g = code ∧ getF u F.TIL_STATUS_RUNNING g = 0 ∧ getF u F.TIL_STATUS_FENCED g = 1 ∧
      getF u F.TIL_STATUS_WAITKIND g = 0 ∧ getF u F.TIL_STATUS_PC g = getF s F.TIL_STATUS_PC g ∧ getF u F.TIL_REC_LAST_FAULT g = code ∧
      rdReg u .TIL_ERR g 0 = rdReg s .TIL_ERR g 0 ||| BitVec.ofNat 64 (2 ^ (code - 1)) ∧
      tileOf u g = { tileOf s g with wait := none, held := none, arr := none, issue := none, fencing := none } ∧ OtherTiles g s u ∧ u.tiers = s.tiers) ∧
  (∀ (s : State) (t : TileId) (w : Word),
    let bad := fun (c : Instr) => exec c s = .next (tileFault (issued s t.gid w) t.gid 1)
    (badS w = true → (Issues s t w 0x00 → bad (.nop t w)) ∧ (Issues s t w 0x01 → bad (.ldi t w)) ∧ (Issues s t w 0x02 → bad (.addi t w)) ∧
      (Issues s t w 0x23 → bad (.tswap t w)) ∧ (Issues s t w 0x24 → bad (.trel t w)) ∧ (Issues s t w 0x28 → bad (.fence t w)) ∧
      (Issues s t w 0x2A → bad (.evwait t w)) ∧ (Issues s t w 0x2B → bad (.loop t w)) ∧ (Issues s t w 0x2C → bad (.hoist t w)) ∧
      (Issues s t w 0x2D → bad (.halt t w))) ∧
    (badM w = true → (Issues s t w 0x03 → bad (.mov t w)) ∧ (Issues s t w 0x04 → bad (.fill t w)) ∧ (Issues s t w 0x05 → bad (.cvt t w)) ∧
      (Issues s t w 0x10 → bad (.vbin t w)) ∧ (Issues s t w 0x11 → bad (.vfma t w)) ∧ (Issues s t w 0x12 → bad (.vfn t w)) ∧
      (Issues s t w 0x13 → bad (.vred t w)) ∧ (Issues s t w 0x14 → bad (.vscan t w)) ∧ (Issues s t w 0x19 → bad (.bmap t w)) ∧
      (Issues s t w 0x1A → bad (.bpred t w)) ∧ (Issues s t w 0x1B → bad (.compact t w)) ∧ (Issues s t w 0x1C → bad (.expand t w)) ∧
      (Issues s t w 0x33 → bad (.rsr t w))) ∧
    (badN w = true → (Issues s t w 0x21 → bad (.send t w)) ∧ (Issues s t w 0x22 → bad (.recv t w)) ∧ (Issues s t w 0x25 → bad (.rget t w)) ∧
      (Issues s t w 0x26 → bad (.rput t w)) ∧ (Issues s t w 0x39 → bad (.sput t w)) ∧ (Issues s t w 0x3A → bad (.sget t w))) ∧
    (badSig w = true → Issues s t w 0x29 → bad (.evsig t w)) ∧
    (∀ t0, ((tileOf s t.gid).held = some t0 ∨ ∃ a, (tileOf s t.gid).arr = some a ∧ a.since = t0) → getF s F.TIL_HANG_LIMIT t.gid ≠ 0 → getF s F.TIL_HANG_LIMIT t.gid ≤ s.now - t0 →
      timersHeld s t.gid = false → exec (.hangTimerExpiry t) s = .next (tileFault s t.gid 4)))

/-- Rests in part on R61, R63, R86, R87, R122, R123, R131, R247, R347, R357, R383: timeouts of declared waits, and TIL_CTRL. A wait that lasts longer
than its timeout (0 disables one; an open incident holds all but that of an SGET): a RECV quiesces its tile and sends record 0x0300;
a TSWAP or HOIST sends record 0x0301 once and waits on; an SGET is given a result with status ST_TIMEOUT and ends. RUN starts a tile
that is not in bypass at its PC with FAULT 0, or stops it; QUIESCE lets it come to rest, which it has when no op is left or a fault
has stopped it: held lane states are written back, PC names the first op not completed (log entry 110), and the queues are empty. A
fenced tile ignores both. TIL_RESEND sends the last transfer of its stream again when the sequence number matches. -/
def Obligations.TileTimersAndControl : Prop :=
  ∀ (s : State) (t : TileId),
    let g := t.gid
    let T := tileOf s g
    let quiet := getF s F.TIL_STATUS_FENCED g = 0
    (timersHeld s g = false →
      (∀ stream base count since rep, T.wait = some ⟨.recv stream base count, since, rep⟩ →
        overdue s (getF s F.FLD_STREAM_TMO_RECV_TMO (g / 700)) since = true →
        exec (.recvTimeout t) s = .next (sendRec (startQuiesce (setF s F.TIL_CTRL_QUIESCE g 1) g) (.tile g) ST_TIMEOUT 0x0300 stream
          (getD T.rx stream {}).seq)) ∧
      (∀ since, overdue s (getF s F.FLD_STREAM_TMO_TSWAP_TMO (g / 700)) since = true →
        let u := modTile (sendRec s (.tile g) ST_TIMEOUT 0x0301 (getF s F.TIL_TUNDISH_FILL_POUR g) 0) g
          (fun t => { t with wait := t.wait.map (fun w => { w with reported := true }) })
        (T.wait = some ⟨.tswap, since, false⟩ → exec (.tswapTimeout t) s = .next u) ∧
        (∀ gen, T.wait = some ⟨.hoist gen, since, false⟩ → exec (.hoistTimeout t) s = .next u))) ∧
    (∀ a since rep, T.wait = some ⟨.sget a, since, rep⟩ → overdue s (getF s F.SMP_CFG_SGET_TMO (g / 700)) since = true →
      ∃ u, exec (.sgetTimeout t) s = .next u ∧
        Retires (memWrite s g a (plainResult ST_TIMEOUT (getF s F.TIL_SAMPLE_SESSION g) (getF s F.TIL_SAMPLE_SEQ g) 0)) u g) ∧
    (∀ since rep, T.wait = some ⟨.tswap, since, rep⟩ →
      (rep = true ∨ overdue s (getF s F.FLD_STREAM_TMO_TSWAP_TMO (g / 700)) since = false) → exec (.tswapTimeout t) s = .next s) ∧
    (quiet →
      (exec (.tilCtrlRun t true) s = .next (startTile s g)) ∧
      (getF (startTile s g) F.TIL_STATUS_FAULT g = 0 ∧ (getF s F.TIL_CTRL_QUIESCE g = 0 → getF s F.TIL_STATUS_BYPASS g = 0 → getF (startTile s g) F.TIL_STATUS_RUNNING g = 1) ∧
        getF (startTile s g) F.TIL_STATUS_PC g = getF s F.TIL_STATUS_PC g) ∧
      (exec (.tilCtrlRun t false) s = .next (setF (setF s F.TIL_CTRL_RUN g 0) F.TIL_STATUS_RUNNING g 0)) ∧
      (exec (.tilCtrlQuiesce t true) s = .next (startQuiesce (setF s F.TIL_CTRL_QUIESCE g 1) g)) ∧
      (exec (.tilCtrlQuiesce t false) s = .next (setF (setF s F.TIL_CTRL_QUIESCE g 0) F.TIL_STATUS_QUIESCED g 0))) ∧
    (getF s F.TIL_STATUS_FENCED g = 1 → ∀ v, exec (.tilCtrlRun t v) s = .next s ∧ exec (.tilCtrlQuiesce t v) s = .next s) ∧
    (getF s F.TIL_STATUS_QUIESCED g = 0 → (getF s F.TIL_CTRL_QUIESCE g = 1 ∨ getF s F.TIL_STATUS_FENCED g = 1) →
      (getF s F.TIL_STATUS_FAULT g ≠ 0 ∨ T.wait = none ∧ pipesBusy T = false) →
      let c := flushGen s g
      ∃ u, exec (.quiesceComplete t) s = .next u ∧ getF u F.TIL_STATUS_QUIESCED g = 1 ∧ getF u F.TIL_STATUS_RUNNING g = 0 ∧
        getF u F.TIL_STATUS_PC g = firstOpen T (getF c F.TIL_STATUS_PC g) % 2 ^ 20 ∧
        tileOf u g = { tileOf c g with queues := [], feeds := [], fed := [], held := none } ∧
        OnlyTile g [regAddr .TIL_STATUS g 0] c u) ∧
    (∀ v : Word, let r := getD T.tx (getBits v 0 8) {}
      r.count ≠ 0 → r.seq = getBits v 16 16 → T.memFlip = [] →
        exec (.tilResend t v) s = .next (sendTransfer s g (getBits v 0 8) r.seq false (tileBytes T r.addr (64 * r.count))))

/-- Rests in part on R76, R117, R118, R122, R123, R126, R130, R139, R171, R265, R268, R275, R366, R367: a command for a packet that has arrived whole at a
tile's local port with none of its class and input before it takes it in, under these conditions alone. A stream packet lands behind the
RECV that waits for it and ends it when its last unit has come, is discarded when its units have come before, and faults when it shows
another length than COUNT (its TAG becoming the record's sequence number is the model's choice, log entry 111); pour data fills the
fill half of the tundish, seals it full or skipped, and wakes a waiting swap; an increment adds to its counter and ends an EVWAIT that
now holds; a read request is answered with its bytes; a write request is stored and marks its unit dirty in a page that is not at home;
an answer lands in its slot. A poison notice has its unit poisoned. -/
def Obligations.LocalPortPackets : Prop :=
  (∀ (s : State) (t : TileId) (k : Nat) (p : Packet), localPacket s t.gid k = some p →
    let g := t.gid
    let x := takeLocal s g k
    (∀ stream base count since rep, (tileOf s g).wait = some ⟨.recv stream base count, since, rep⟩ → p.typ = tyStream → p.stream = stream →
      let n := p.payload.length / 64
      let r := getD (tileOf x g).rx stream {}
      let y := memWrite (modTile x g (fun t => { t with wait := t.wait.map (fun w => { w with since := s.now }) })) g (base + 64 * p.addr) p.payload
      (p.addr = r.units → p.addr + n < count → p.last = false → r.last = false →
        exec (.streamPacketAccept t k) s = .next (setRx y g stream { seq := p.tag, units := p.addr + n, last := false })) ∧
      (p.addr = r.units → p.addr + n = count → p.last = true →
        exec (.streamPacketAccept t k) s =
          .next (recvDone (setRx y g stream { seq := p.tag, units := count, last := true }) g stream p.tag)) ∧
      (p.addr < r.units → p.addr + n ≤ count → p.last = decide (p.addr + n = count) → exec (.streamPacketAccept t k) s = .next x) ∧
      (count < p.addr + n ∨ p.last ≠ decide (p.addr + n = count) → exec (.streamPacketAccept t k) s = .next (tileFault x g 1))) ∧
    (isPour p = true → getF s F.TIL_STATUS_FENCED g = 0 →
      let f := 1 - getF x F.TIL_TUNDISH_DRAW g
      let data := fillHalf x g (p.addr - 0x120000) p.payload
      let skip := p.payload.isEmpty && p.last && Nat.testBit p.addr 23
      let set := fun (y : State) (v : Nat) => wakeSwap (setHalf (setF y F.TIL_TUNDISH_FILL_POUR g p.tag) g f v) g
      (halfState x g f ≠ 2 → halfState x g f ≠ 3 →
        (skip = false → p.last = false → exec (.pourPacketLand t k) s = .next (set data 1)) ∧
        (skip = false → p.last = true → exec (.pourPacketLand t k) s = .next (set data 2)) ∧
        (skip = true → exec (.pourPacketLand t k) s = .next (set x 3))) ∧
      (halfState x g f = 2 ∨ halfState x g f = 3 → exec (.pourPacketLand t k) s =
        .next (countF (setF x F.TIL_TUNDISH_DROPPED g 1) F.FLD_ELOG_DISC_DROPPED_HALF (g / 700) 1))) ∧
    (isPour p = true → getF s F.TIL_STATUS_FENCED g = 1 →
      exec (.pourPacketLand t k) s = .next (countF x F.FLD_ELOG_DISC_FENCED_POUR (g / 700) 1)) ∧
    (p.typ = tyIncr → let y := addLocal x g (p.addr % 16) p.amount
      (∀ e v since rep, (tileOf s g).wait = some ⟨.evwait e v, since, rep⟩ → reached (eAt y g e) v = true →
        ∃ u, exec (.eventIncrementTile t k) s = .next u ∧ Retires y u g) ∧
      ((∀ e v since rep, (tileOf s g).wait = some ⟨.evwait e v, since, rep⟩ → reached (eAt y g e) v = false) →
        exec (.eventIncrementTile t k) s = .next y)) ∧
    (p.typ = tyReadReq → (tileOf s g).memFlip = [] →
      let answer : Packet := { typ := tyReadResp, cls := 0, routed := true, dx := p.sx, dy := p.sy, tag := p.tag, units := p.units }
      exec (.remoteReadRequest t k) s = .next (inject x g { answer with payload := tileBytes (tileOf s g) p.addr p.units })) ∧
    (p.typ = tyWrite → isPour p = false →
      exec (.remoteWriteRequest t k) s = .next (modPt (memWrite x g p.addr p.payload) p.page (fun e =>
        if e.cur = e.home then e else { e with dirty := e.dirty ||| BitVec.ofNat 64 (2 ^ (p.addr / 4096 % 64)) }))) ∧
    (p.typ = tyReadResp → ∀ r, (tileOf s g).reads.find? (fun r => r.tag == p.tag) = some r →
      let y := modTile x g (fun t => { t with reads := t.reads.filter (fun q => q.tag != p.tag) })
      (p.poison = false → exec (.readResponseReceive t k) s = .next (progress (memWrite y g r.base p.payload) g)) ∧
      (p.poison = true → exec (.readResponseReceive t k) s =
        .next (tileFault (sendRec y (.tile g) 0 0x2000 r.page (logX y g + 256 * logY y g)) g 6)))) ∧
  (∀ (s : State) (k n : Nat) (rest : List Nat), takeAt s.notices k = some (n, rest) →
    let x := { s with notices := rest }
    (((ptEntry x (n / 64)).poison = true ∨ ∃ c ∈ s.tiers.changes, c.page = n / 64 ∧ ∃ u v, c.what = .poison u v) →
      exec (.poisonNotice k) s = .next x) ∧
    ((ptEntry x (n / 64)).poison = false → (∀ c ∈ s.tiers.changes, c.page = n / 64 → ∀ u v, c.what ≠ .poison u v) →
      exec (.poisonNotice k) s = .next { x with tiers := { x.tiers with changes := x.tiers.changes ++
        [{ page := n / 64, what := .poison (n % 64) 0 }] } }))

/-- Rests in part on R78, R81 to R84, R86, R568: the mesh router. A flit that has left its sender, with a good CRC and room in the input, joins its
packet; at a crescent, which the command names by the local port (log entry 142), the
last flit of a packet hands it over. One with a bad CRC is sent again, and its fourth failure puts the link
out of use. The header at the head of an input takes all ports of its stream's route entry together, or the port first along x and
then along y to its coordinates, when each can take it; it waits otherwise. No valid entry, an empty mask (log entry 113), a port at
the array's edge, a static port whose link is down or coordinates outside the array: record 0x0200 and NO_ROUTE; each packet that
cannot go on is discarded and counted. A router in bypass passes what lies in its E and W inputs straight through. -/
def Obligations.MeshRouterForwards : Prop :=
  ∀ (s : State) (t : TileId) (p : Port) (vc : Fin 4),
    let g := t.gid
    let T := tileOf s g
    let k := portKey p vc
    (∀ w rest, getD T.wire k [] = w :: rest → hasRoom s g p vc = true → flitThere s w.src p.opposite.num vc w.got = true → p ≠ .local →
      let y := takeFlit s g k w.pkt w.got
      let on := if w.got + 1 < w.pkt.size then { w with got := w.got + 1, tries := 0 } :: rest else rest
      let bad := setF s F.TIL_ERR_REPLAYED g 1
      exec (.flitReceive t p vc true) s = .next
        (flitGone (modTile y g (fun t => { t with wire := put t.wire k on [] })) w.src p.opposite.num vc (w.got + 1)) ∧
      (w.tries + 1 < 4 → exec (.flitReceive t p vc false) s =
        .next (modTile bad g (fun t => { t with wire := put t.wire k ({ w with tries := w.tries + 1 } :: rest) [] }))) ∧
      (4 ≤ w.tries + 1 → exec (.flitReceive t p vc false) s = .next (wireDown bad g p))) ∧
    (∀ o w rest, cresLink s g vc = some o → getD T.cresWire (portKey o vc) [] = w :: rest →
      let y := fun (l : List Wired) => modTile s g (fun t => { t with cresWire := put t.cresWire (portKey o vc) l [] })
      (w.got + 1 < w.pkt.size → exec (.flitReceive t .local vc true) s =
        .next (flitGone (y ({ w with got := w.got + 1, tries := 0 } :: rest)) (some g) o.num vc (w.got + 1))) ∧
      (w.pkt.size ≤ w.got + 1 → exec (.flitReceive t .local vc true) s =
        .next (cresTake (flitGone (y rest) (some g) o.num vc (w.got + 1)) w.pkt.dc w.pkt)) ∧
      (w.tries + 1 < 4 → exec (.flitReceive t .local vc false) s = .next (y ({ w with tries := w.tries + 1 } :: rest))) ∧
      (4 ≤ w.tries + 1 → exec (.flitReceive t .local vc false) s = .next (cresDown s g o))) ∧
    (cresLink s g vc = none → ∀ ok, exec (.flitReceive t .local vc ok) s = .next s) ∧
    (∀ q, headPacket s g p vc = some q → routes s g = true →
      (q.routed = false →
        let r := rdReg s .TIL_ROUTE g (q.stream % 256)
        let ports := maskPorts (getBits r 1 5)
        let on := fun (o : Port) => o = .local ∨ (stepPos o (logX s g) (logY s g)).isSome = true
        ((getBits r 0 1 = 0 ∨ ports = [] ∨ ∃ o ∈ ports, ¬ on o) →
          exec (.staticRouteForward t p vc) s = .next (noRoute s g p vc q)) ∧
        (getBits r 0 1 = 1 → ports ≠ [] → (∀ o ∈ ports, on o) →
          (∀ u, sendAll s g p q ports = .sent u → exec (.staticRouteForward t p vc) s = .next (routeHead u g p vc (ports.map (·.num)))) ∧
          (sendAll s g p q ports = .wait → exec (.staticRouteForward t p vc) s = .next s) ∧
          (sendAll s g p q ports = .down → exec (.staticRouteForward t p vc) s = .next (noRoute s g p vc q)))) ∧
      (q.routed = true →
        let out := 191 < q.dx ∨ 167 < q.dy ∨ (q.dcres = true ∧ borders q.dc q.dx q.dy = false)
        let here := logX s g = q.dx ∧ logY s g = q.dy
        let way : Port := if logX s g < q.dx then .e else if q.dx < logX s g then .w else if logY s g < q.dy then .s else .n
        let go := if logX s g = q.dx ∧ logY s g = q.dy then (if q.dcres then toCrescent s g q else sendLocal s g p q) else sendOut s g way q
        let o := if logX s g = q.dx ∧ logY s g = q.dy then (if q.dcres then (cresPort q.dc).num else 4) else way.num
        (out → exec (.coordinateRouteForward t p vc) s = .next (noRoute s g p vc q)) ∧
        (¬ out → (∀ u, go = .sent u → exec (.coordinateRouteForward t p vc) s = .next (routeHead u g p vc [o])) ∧
          (go = .wait → exec (.coordinateRouteForward t p vc) s = .next s) ∧
          (go = .down → exec (.coordinateRouteForward t p vc) s = .next (discard s g p vc q))))) ∧
    (∀ q, headPacket s g p vc = some q → getF s F.TIL_STATUS_BYPASS g = 1 → inService s (g / 700) = true → (p = .e ∨ p = .w) →
      ∀ u, takeOut s g p.opposite (stepPhys s 3 g p.opposite) q = .sent u →
        (q.routed = false → exec (.staticRouteForward t p vc) s = .next (routeHead u g p vc [p.opposite.num])) ∧
        (q.routed = true → exec (.coordinateRouteForward t p vc) s = .next (routeHead u g p vc [p.opposite.num]))) ∧
    (∀ (o : Port) (q : Packet) (h : Nat), T.down.getLsbD o.num = false → neighbour s g o = some h →
      inService s (h / 700) = true → getD (tileOf s h).wire (portKey o.opposite q.cls) [] = [] →
      hasRoom s h o.opposite q.cls = true → sendOut s g o q = .sent (putWire s h o.opposite q (some g))) ∧
    (∀ (o : Port) (q : Packet), T.down.getLsbD o.num = true → sendOut s g o q = .down)

/-- Rests in part on R351 to R357: the token sampler of a field. Headers of one tile for one session are taken in
order. A header that breaks the table gets
ST_SAMPLE_INVALID and is counted; CONTRIB or TOPK 0, ST_OK_EMPTY; a sequence number that timed out, ST_TIMEOUT, one beyond the CONTRIB of a
session that has just finished, ST_SAMPLE_MISMATCH for every contributor. A header of the session's sequence number is kept, one of another waits; the session is finished, its
result sent to every contributor and counted, once CONTRIB headers have come, and after SMP_CFG.TMO ticks with ST_TIMEOUT. A result
with the tile's number and session fills its buffer, sets READY, clears PENDING and ends a waiting SGET; another is counted stale.
Where the spec is silent, the model's choices are in log entries 141. -/
def Obligations.SamplerSessionsAndResults : Prop :=
  (∀ (s : State) (f : Fin 48) (k : Nat) (b : BusMsg), (samplerOf s f).bus[k]? = some b →
    ((samplerOf s f).bus.take k).any (fun x => x.gid == b.gid && headSession x == headSession b) = false →
    let x := modSampler s f (fun m => { m with bus := m.bus.eraseIdx k })
    let m := samplerOf s f
    let ses := headSession b
    let seq := headSeq b
    let h := headOf' b
    let gets := fun (y : State) (st : Nat) =>
      exec (.sampleHeaderReceive f k) s = .next (modSampler y f (fun m => { m with results := m.results ++ [⟨b.gid, plainResult st ses seq 0⟩] }))
    (headBreaks b = true → gets (countF x F.SMP_ERR_INVALID f 1) ST_SAMPLE_INVALID) ∧
    (headBreaks b = false → (h.contrib = 0 ∨ h.topk = 0) → gets x ST_OK_EMPTY) ∧
    (headBreaks b = false → h.contrib ≠ 0 → h.topk ≠ 0 →
      (seq ∈ getD m.timedOut ses [] → gets x ST_TIMEOUT) ∧
      (seq ∉ getD m.timedOut ses [] →
        (∀ d, find m.finished ses = some d → d.seq = seq →
          exec (.sampleHeaderReceive f k) s = .next (excessHeader x f ses b.gid d)) ∧
        ((∀ d, find m.finished ses = some d → d.seq ≠ seq) →
          (∀ y, find m.sessions ses = some y → y.seq ≠ seq → exec (.sampleHeaderReceive f k) s = .next s) ∧
          (∀ y, find m.sessions ses = some y → y.seq = seq → (∀ e ∈ y.heads ++ [h], y.heads.length + 1 < e.contrib) →
            exec (.sampleHeaderReceive f k) s =
              .next (modSampler x f (fun m => { m with sessions := insert m.sessions ses { y with heads := y.heads ++ [h] } }))) ∧
          (∀ y, find m.sessions ses = some y → y.seq = seq → (∃ e ∈ y.heads ++ [h], e.contrib ≤ y.heads.length + 1) →
            let z := { y with heads := y.heads ++ [h] }
            let r := sessionResult ses z
            let c := countF x F.SMP_STAT_SAMPLES f 1
            let c := if r.1 = ST_SAMPLE_MISMATCH then countF c F.SMP_ERR_MISMATCH f 1 else c
            let d := Finished.mk seq (z.heads.map (·.gid)) (z.heads.flatMap candsOf).length
            exec (.sampleHeaderReceive f k) s =
              .next (endSession (modSampler c f (fun m => { m with finished := insert m.finished ses d })) f ses z r.2)) ∧
          (find m.sessions ses = none → 1 < h.contrib → ∃ u, exec (.sampleHeaderReceive f k) s = .next u ∧
            getF u F.SMP_STAT_BUSY f = (getF s F.SMP_STAT_BUSY f + 2 ^ ses) % 256 ∧
            samplerOf u f = { m with bus := m.bus.eraseIdx k, sessions := insert m.sessions ses ⟨seq, s.now, [h]⟩ }))))) ∧
  (∀ (s : State) (f : Fin 48) (ses : Fin 8) (x : Session), find (samplerOf s f).sessions ses = some x →
    ((getF s F.SMP_CFG_TMO f = 0 ∨ s.now - x.since < getF s F.SMP_CFG_TMO f) → exec (.sessionTimeout f ses) s = .next s) ∧
    (getF s F.SMP_CFG_TMO f ≠ 0 → getF s F.SMP_CFG_TMO f ≤ s.now - x.since →
      exec (.sessionTimeout f ses) s = .next (modSampler
        (endSession (countF s F.SMP_ERR_TIMEOUTS f 1) f ses x (plainResult ST_TIMEOUT ses x.seq (x.heads.flatMap candsOf).length)) f
        (fun m => { m with timedOut := put m.timedOut ses (getD m.timedOut ses [] ++ [x.seq]) [] })))) ∧
  (∀ (s : State) (t : TileId) (k : Nat) (r : BusMsg), (samplerOf s (t.gid / 700)).results[k]? = some r → r.gid = t.gid →
    let g := t.gid
    let x := modSampler s (g / 700) (fun m => { m with results := m.results.eraseIdx k })
    let w := leNat ((r.data.drop 8).take 8)
    let mine := w % 2 ^ 32 = getF s F.TIL_SAMPLE_SEQ g ∧ w / 2 ^ 32 % 8 = getF s F.TIL_SAMPLE_SESSION g
    let y := modTile (setF (setF x F.TIL_SAMPLE_READY g 1) F.TIL_SAMPLE_PENDING g 0) g (fun t => { t with result := BitVec.ofNat 512 (leNat r.data) })
    (mine → (tileOf s g).wait = none → exec (.sampleResultReceive t k) s = .next y) ∧
    (mine → ∀ a since rep, (tileOf s g).wait = some ⟨.sget a, since, rep⟩ →
      ∃ u, exec (.sampleResultReceive t k) s = .next u ∧ Retires (memWrite y g a r.data) u g) ∧
    (¬ mine → exec (.sampleResultReceive t k) s = .next (countF x F.SMP_ERR_STALE (g / 700) 1)))

/-- Rests in part on R13, R15 to R18, R438 to R441, R474, R475, R478, R544 to R548: the configuration window. A write sets RW fields, clears the W1C
bits written as 1 and leaves RO, RWC and reserved bits; at a shadow address it sets the shadow of RWC fields, unless the domain is
owned, when it is counted and discarded. COMMIT of the next generation makes the shadows of its domain active, of another, or of a
domain owned or not in service, is refused with record 0x3203. An access that decodes to no register is counted. WIN_RD and WIN_WR
are answered with RSTAT 1 when their form or address is wrong, 2 when a warm restart keeps the window busy, else 0. -/
def Obligations.ConfigurationWindow : Prop :=
  (∀ (r : RegName) (old v : Word) (b : Nat), b < 64 → (writtenWord r old v).getLsbD b =
    if (accMask r (fun a => a == .RW || a == .RWS)).getLsbD b then v.getLsbD b
    else old.getLsbD b && !((accMask r (· == .W1C)).getLsbD b && v.getLsbD b)) ∧
  (∀ (s : State) (a : BitVec 48) (v : Word) (x : RegAt), decodeReg a.toNat = some x →
    (x.shadow = false → plainReg x.reg = true → offline s x = false → ∃ u, exec (.registerWrite a v) s = .next u ∧
      rdReg u x.reg x.unit x.inst = writtenWord x.reg (rdReg s x.reg x.unit x.inst) v ∧
      RegsKept [regAddr x.reg x.unit x.inst] s u ∧ { u with regs := s.regs } = s) ∧
    (x.shadow = true → owned s (domainOf x) = false → ∃ u, exec (.registerWrite a v) s = .next u ∧
      rdShadow u x.reg x.unit x.inst = v &&& rwcMask x.reg ∧ RegsKept [regAddr x.reg x.unit x.inst + 0x8000] s u ∧
      { u with regs := s.regs } = s) ∧
    (x.shadow = true → owned s (domainOf x) = true →
      exec (.registerWrite a v) s = .next (countI s F.CFG_GEN_DISCARDS 0 (domainOf x) 1))) ∧
  (∀ (s : State) (a : BitVec 48) (wr : Bool) (l : Fin 2), decodeReg a.toNat = none →
    ∃ u, exec (.undecodedAccess a wr l) s = .next u ∧
      getF u F.GLB_ELOG_UNDEC_UNDECODED 0 = min (getF s F.GLB_ELOG_UNDEC_UNDECODED 0 + 1) (2 ^ F.GLB_ELOG_UNDEC_UNDECODED.w - 1) ∧
      (getF s F.GLB_ELOG_UNDEC_UNDECODED 0 = 0 → getF s F.GLB_ELOG_UNDEC_OFFLINE 0 = 0 → getF u F.GLB_ELOG_ADDR_LINK 0 = l) ∧
      RegsKept [regAddr .GLB_ELOG_UNDEC 0 0, regAddr .GLB_ELOG_ADDR 0 0] s u ∧ { u with regs := s.regs } = s) ∧
  (∀ (s : State) (d : Fin 54) (v : Word),
    let gen := getBits v 0 16 % 65536
    let refused := fun (why : Nat) => exec (.cfgCommit d v) s =
      .next (sendRec (setI s F.CFG_GEN_REFUSED 0 d 1) .loader 0 0x3203 (d + why * 256) gen)
    (domainUp s d = false → refused 1) ∧
    (domainUp s d = true → owned s d = true → refused 2) ∧
    (domainUp s d = true → owned s d = false → gen ≠ (getI s F.CFG_GEN_GEN 0 d + 1) % 65536 → refused 0) ∧
    (domainUp s d = true → owned s d = false → gen = (getI s F.CFG_GEN_GEN 0 d + 1) % 65536 →
      ∃ u, exec (.cfgCommit d v) s = .next u ∧ getI u F.CFG_GEN_GEN 0 d = gen ∧
        u = setI (settle s ((listedIn s d).foldl commitReg s) d) F.CFG_GEN_GEN 0 d gen)) ∧
  (∀ (s : State) (x : RegAt), rdReg (commitReg s x) x.reg x.unit x.inst =
    (rdReg s x.reg x.unit x.inst &&& ~~~(rwcMask x.reg)) ||| (rdShadow s x.reg x.unit x.inst &&& rwcMask x.reg)) ∧
  (∀ (s : State) (l : Fin 2) (a : BitVec 52) (v : Word) (tag : Fin 4096) (form : Bool), linkActive s l = true →
    ((form = false ∨ badAddr a.toNat = true) →
      exec (.winRd l a tag form) s = .next (sendPkt (countRefused s l form) l (.winRdata tag 1 0)) ∧
      exec (.winWr l a v tag form false) s = .next (sendPkt (countRefused s l form) l (.winAck tag 1))) ∧
    (form = true → badAddr a.toNat = false → windowBusy s a.toNat = true →
      exec (.winRd l a tag form) s = .next (sendPkt s l (.winRdata tag 2 0)) ∧
      exec (.winWr l a v tag form false) s = .next (sendPkt s l (.winAck tag 2))) ∧
    (form = true → badAddr a.toNat = false → windowBusy s a.toNat = false →
      (∀ x, decodeReg a.toNat = some x → exec (.winRd l a tag form) s = .next (sendPkt s l (.winRdata tag 0 (readValue s x)))) ∧
      exec (.winWr l a v tag form false) s = .next (sendPkt (windowWrite (noteTag s l tag) l a.toNat v) l (.winAck tag 0))))

/-- Rests in part on R146 to R154, R163 to R165, R454: the indices and the starts of the command queues. A TAIL or CHEAD that would break the order of the
indices is discarded and leaves its error bit. A fetch reads the slot of the first command not read yet, below TAIL, at most 8 ahead
of HEAD, and only while its completion slot is free. A queue that is not stopped starts its next command when its wait holds and its
resource is free, the queue of its turn first. A command that has waited too long completes with ST_TIMEOUT.
Where the spec is silent, the model's choices are in log entries 125, 126. -/
def Obligations.CommandQueuesStartInOrder : Prop :=
  (∀ (n : Fin 64) (v : W32) (s : State),
    (if negative (v - headOf s n) || decide (cqSize s n < (v - headOf s n).toNat) then
        exec (.glbCqTailWrite n v) s = .next (setI s F.GLB_CQ_STAT_TAIL_ERR 0 n 1)
      else ∃ u, exec (.glbCqTailWrite n v) s = .next u ∧ tailOf u n = v ∧ RegsKept [regAddr .GLB_CQ_TAIL 0 n] s u ∧
        { u with regs := s.regs } = s) ∧
    (if negative (v - cheadOf s n) || negative (headOf s n - v) then
        exec (.glbCqCheadWrite n v) s = .next (setI s F.GLB_CQ_STAT_CHEAD_ERR 0 n 1)
      else ∃ u, exec (.glbCqCheadWrite n v) s = .next u ∧ cheadOf u n = v ∧ RegsKept [regAddr .GLB_CQ_CHEAD 0 n] s u ∧
        { u with regs := s.regs } = s) ∧
    ∃ u, exec (.cqRestart n) s = .next u ∧ getI u F.GLB_CQ_STAT_STOPPED 0 n = 0 ∧ headOf u n = headOf s n ∧
      RegsKept [regAddr .GLB_CQ_STAT 0 n] s u ∧ { u with regs := s.regs } = s) ∧
  (∀ (n : Fin 64) (s : State),
    let ahead := (cqOf s n).fetched.length + fetchesOut s n
    let i := headOf s n + BitVec.ofNat 32 ahead
    (∀ l, validSize (getI s F.GLB_CQ_CFG_SIZE 0 n) = true → tailOf s n - i ≠ 0 → negative (tailOf s n - i) = false → ahead < 8 →
      (i - cheadOf s n).toNat < getI s F.GLB_CQ_CFG_SIZE 0 n → readLink s = some l →
      exec (.commandFetch n) s = .next (sendRead s l
        (getI s F.GLB_CQ_BASE_BASE 0 n / 4096 * 4096 + 64 * (i.toNat % getI s F.GLB_CQ_CFG_SIZE 0 n)) (.command n i))) ∧
    ((tailOf s n - i = 0 ∨ negative (tailOf s n - i) = true ∨ 8 ≤ ahead ∨ cqSize s n ≤ (i - cheadOf s n).toNat) →
      exec (.commandFetch n) s = .next s)) ∧
  (∀ (n : Fin 64) (s : State) (c : Cmd),
    nextCmd s n = some c → getI s F.GLB_CQ_STAT_STOPPED 0 n = 0 → s.recov.holding = false →
    getI s F.GLB_CQ_STAT_INFLIGHT 0 n < 256 → totalInflight s < 4096 →
    (levelOf s = 0 ∨ ((c.flag 11 = true → getI s F.GLB_CQ_STAT_INFLIGHT 0 n = 0) ∧ waitHolds s c = true ∧ resourceFree s n c = true)) →
    (∀ m : Nat, m < 64 → m ≠ (n : Nat) → (startable s m).isSome = true → serveKey s n ≤ serveKey s m) →
    let x := takeCmd { s with cmd := { s.cmd with served := n } } n c
    exec (.commandStart n) s = .next (if c.bad ≠ 0 then completeCmd x n c c.bad 0
      else if levelOf x = 0 then completeCmd x n c (if cmdBad x n c then ST_CMD_INVALID else 0x180) 0
      else if headerBad c then completeCmd x n c ST_CMD_INVALID 0 else x)) ∧
  (∀ (n : Fin 64) (s : State), (nextCmd s n = none ∨ ((getI s F.GLB_CQ_STAT_STOPPED 0 n ≠ 0 ∨ s.recov.holding = true) ∧
      ∀ c, nextCmd s n = some c → c.opcode ≠ 0x10)) → exec (.commandStart n) s = .next s) ∧
  (∀ (n : Fin 64) (s : State) (c : Cmd) (t : Nat), nextCmd s n = some c → (cqOf s n).since = some t →
    let tmo := getI s F.GLB_CQ_CTRL_WAIT_TMO 0 n
    (tmo ≠ 0 → waitHolds s c = false → tmo < portTicks s - t → getI s F.GLB_CQ_STAT_STOPPED 0 n = 0 →
      exec (.waitTimeout n) s = .next (completeAmong (takeCmd s n c) n c.idx (if cmdBad s n c then [ST_TIMEOUT, ST_CMD_INVALID] else [ST_TIMEOUT]) 0)) ∧
    ((tmo = 0 ∨ waitHolds s c = true ∨ portTicks s - t ≤ tmo) → exec (.waitTimeout n) s = .next s))

/-- Rests in part on R156 to R158, R165 to R169, R174 to R180, R382, R403: the command unit's own opcodes, its counters and its records. An invalid
command completes with ST_CMD_INVALID and an empty one with ST_OK_EMPTY. EVADD and every increment add to a module counter modulo
2^32, and then waits and paced requests on it are looked at. RUN starts the tiles of its rectangle that are in service and not
fenced, and waits for their HALT. A request is admitted in order, at the queue's pace: its slip goes to the mailbox slot a mod 16 of
the entry tile, whose counter gains 1. A record is written in the ring where the ring has room, held where not, and otherwise
counted; the open incident's own records go to the error log alone.
Where the spec is silent, the model's choices are in log entries 127, 128, 129. -/
def Obligations.CommandsCountersAndRecords : Prop :=
  (∀ (n : Fin 64) (i : W32) (s : State) (c : Cmd), inflightCmd s n i = some c → c.run = false →
    (∀ p ∈ ([(0x00, .nopCommand n i), (0x01, .evadd n i), (0x08, .cmdRun n i), (0x09, .cmdRequest n i)] : List (Nat × Instr)),
      c.opcode = p.1 →
      (cmdBad s n c = true → exec p.2 s = .next (completeCmd s n c ST_CMD_INVALID 0)) ∧
      (cmdBad s n c = false → cmdEmpty c = true → exec p.2 s = .next (completeCmd s n c ST_OK_EMPTY 0))) ∧
    (c.opcode = 0x00 → cmdBad s n c = false → exec (.nopCommand n i) s = .next (markRun (completeCmd s n c ST_OK 0) n i)) ∧
    (c.opcode = 0x01 → cmdBad s n c = false → cmdEmpty c = false → exec (.evadd n i) s =
      .next (markRun (completeCmd (addEvc s (bodyF c 0 0 16) (BitVec.ofNat 32 (bodyF c 0 32 32))) n c ST_OK 0) n i)) ∧
    (c.opcode = 0x08 → cmdBad s n c = false → cmdEmpty c = false →
      let gs := rectTiles s (bodyRect c 0)
      let x := gs.foldl (fun s g => launch s g (bodyF c 0 32 1 == 1)) s
      exec (.cmdRun n i) s = .next (markRun (finishRuns (retryReadmit (readmitFor
        (modCq x n (fun q => { q with runs := q.runs ++ [{ idx := i, left := gs, tiles := gs }] })) (bodyRect c 0)))) n i)) ∧
    (c.opcode = 0x09 → cmdBad s n c = false → cmdEmpty c = false → exec (.cmdRequest n i) s = .next (markRun s n i))) ∧
  (∀ (s : State) (g : Nat) (b : Bool), inService s (g / 700) = true → getF s F.TIL_STATUS_FENCED g ≠ 1 → getF s F.TIL_CTRL_QUIESCE g = 0 →
    getF s F.TIL_STATUS_BYPASS g = 0 →
    getF (launch s g b) F.TIL_STATUS_RUNNING g = 1 ∧
    getF (launch s g b) F.TIL_STATUS_PC g = if b then getF s F.TIL_STATUS_PC g else getF s F.TIL_PROG_PROG_BASE g % 2 ^ 20) ∧
  (∀ (n : Fin 65536) (v : W32) (s : State), ∃ x, evcOf x n = evcOf s n + v ∧ RegsKept [regAddr .GLB_EVC 0 n] s x ∧ { x with regs := s.regs } = s ∧
    exec (.glbEvcAdd n v) s = .next (x.cmd.queues.foldl (fun s e => checkPaced (touchNext s e.1) e.1) x)) ∧
  (∀ (v : W32) (s : State), exec (.glbEvrHeadWrite v) s = .next (drainRecords (setF s F.GLB_EVR_HEAD_HEAD 0 v.toNat) 300)) ∧
  (∀ (n : Fin 64) (s : State) (c : Cmd) (cs : List Cmd) (g : Nat), waitingRequests s n = c :: cs → canAdmit s n = true →
    tileAt s (getI s F.GLB_CQ_ENTRY_X 0 n) (getI s F.GLB_CQ_ENTRY_Y 0 n) = some g →
    let a := (cqOf s n).admissions
    let r : PacedReq := { seq := a, idx := c.idx, tick := portTicks s, bytes := c.bytes }
    let x := modCq s n (fun q => { q with admissions := q.admissions + 1, lastAdmit := some (portTicks s), requests := q.requests ++ [r] })
    let y := memWrite x g (getI s F.GLB_CQ_ENTRY_MBOX 0 n / 64 * 64 + 64 * (a.toNat % 16))
      ((c.bytes.drop 16).take 48 ++ bytesOf a.toNat 8 ++ bytesOf (portTicks s) 8)
    exec (.requestAdmission n) s = .next (checkPaced (eventTo y g (getI y F.GLB_CQ_ENTRY_EV 0 n) 1) n)) ∧
  (∀ (n : Fin 64) (s : State), (waitingRequests s n = [] ∨ canAdmit s n = false) → exec (.requestAdmission n) s = .next s) ∧
  (∀ (k : Nat) (s : State) (x : Inc), s.cmd.incs[k]? = some x → exec (.eventIncrementReceive k) s =
    .next (addEvc { s with cmd := { s.cmd with incs := s.cmd.incs.eraseIdx k } } x.ev x.amount)) ∧
  (∀ (k : Nat) (s : State) (r : EvRec), s.cmd.records[k]? = some r →
    let x := { s with cmd := { s.cmd with records := s.cmd.records.eraseIdx k } }
    (absorbs x r = false → waitsBehind x r = true →
      exec (.eventRecordReceive k) s = .next { x with cmd := { x.cmd with waitRecs := x.cmd.waitRecs ++ [r] } }) ∧
    (absorbs x r = false → waitsBehind x r = false → ringRoom x = true → x.cmd.heldRecs = [] → getF x F.GLB_EVR_LOST_COUNT 0 = 0 →
      exec (.eventRecordReceive k) s = .next (ringWrite x r)) ∧
    (absorbs x r = false → waitsBehind x r = false → ringRoom x = false → x.cmd.heldRecs.length < 256 →
      exec (.eventRecordReceive k) s = .next { x with cmd := { x.cmd with heldRecs := x.cmd.heldRecs ++ [r] } }) ∧
    (absorbs x r = false → waitsBehind x r = false → ringRoom x = false → 256 ≤ x.cmd.heldRecs.length → exec (.eventRecordReceive k) s =
      .next (countF (if getF x F.GLB_EVR_LOST_COUNT 0 = 0 then setF x F.GLB_EVR_LOST_FIRST 0 r.cause else x) F.GLB_EVR_LOST_COUNT 0 1)) ∧
    (absorbs x r = true → exec (.eventRecordReceive k) s =
      let y := logAbsorbed x r.kind r.unit r.cause
      .next { y with recov := { y.recov with incident := y.recov.incident.map (fun q => { q with absorbed := q.absorbed + 1 }) } }))

/-- Rests in part on R124 to R128, R132 to R140, R250, R281: pours. POUR opens a chain. A chain's next descriptor is read by the crescent it names, is
refused where R127 says so, and joins the pours of that crescent. It starts when its counter reaches its value. The pour of least
slack issues its next chunk: it asks T2 first for what T2 holds, halts on a page that faults, and sends the bytes to its targets.
It completes when every chunk has landed. A missed deadline is counted, and the descriptor's fallback acts. A stop halts a
descriptor that has not completed and is noted as missed where there is none. A cleared mark lets held descriptors go on.
Where the spec is silent, the model's choices are in log entries 119, 120, 121, 122, 123. -/
def Obligations.PoursIssueInSlackOrder : Prop :=
  (∀ (n : Fin 64) (i : W32) (s : State) (c : Cmd), inflightCmd s n i = some c → c.run = false → c.opcode = 0x10 → cmdBad s n c = false →
    (cmdEmpty c = true → exec (.cmdPour n i) s = .next (completeCmd s n c ST_OK_EMPTY 0)) ∧
    (cmdEmpty c = false → exec (.cmdPour n i) s =
      .next (markRun { s with chains := s.chains ++ [{ q := n, idx := i, next := bodyF c 0 0 42 }] } n i))) ∧
  (∀ (c : Fin 4) (k : Nat) (s : State) (x : PourChain), s.chains[k]? = some x → x.ended = false → x.next ≠ 0 →
    let r := readLogical s x.next 64
    let p : Pour := { addr := x.next, words := wordsOf r.2.1 }
    (r.1 = 0 → p.cres = c → (∀ y ∈ (unitOf s c).pours, y.addr ≠ x.next) → (unitOf s c).pours.length < 256 →
      exec (.descriptorRead c k) s = .next (takeDesc (modChain r.2.2 k (fun x' =>
        { x' with seen := x'.seen ++ [x.next], next := p.w 2 0 42, ended := p.w 2 0 42 == 0 })) c k p)) ∧
    (r.1 = 0 → p.cres ≠ c → exec (.descriptorRead c k) s = .next s)) ∧
  (∀ (s : State) (c k : Nat) (p : Pour), ∃ x, x.chains = s.chains.modify k (fun y => { y with held := y.held ++ [p.addr] }) ∧
    let q := { p with order := (unitOf s c).nextOrder }
    (unitOf x c).pours = (unitOf s c).pours ++ [q] ∧
    takeDesc s c k p = if pourBad q then closePour x c q [ST_POUR_INVALID] else if pourEmpty q then closePour x c q [ST_OK_EMPTY]
      else savePour x c q 0) ∧
  (∀ (c : Fin 4) (k : Nat) (s : State) (p : Pour), (unitOf s c).pours[k]? = some p →
    (p.state = 1 → p.fallback ≠ 1 → evcReached s (p.w 5 32 16) (BitVec.ofNat 32 (p.w 6 0 32)) = true →
      exec (.pourStart c k) s = .next (savePour s c { p with start := some (p.start.getD s.now), state := 2 } 0)) ∧
    ((p.state ≠ 1 ∨ (p.start = none ∧ evcReached s (p.w 5 32 16) (BitVec.ofNat 32 (p.w 6 0 32)) = false)) → exec (.pourStart c k) s = .next s) ∧
    (chunkReady s c p = true → (∀ x ∈ (unitOf s c).pours, x.addr ≠ p.addr → chunkReady s c x = true →
        p.slack s < x.slack s ∨ (p.slack s = x.slack s ∧ (p.start.getD 0 < x.start.getD 0 ∨ (p.start.getD 0 = x.start.getD 0 ∧ p.order ≤ x.order))) ∨
        ∀ r ∈ chunkNeeds s c p, r ∉ chunkNeeds s c x) → chunkMissing s c p = [] →
      let r := readChunk s c p
      (r.1 ≠ 0 → r.1 ≠ 5 → exec (.chunkIssue c k) s = .next (faultPour r.2.2.2 c p r.1 r.2.1)) ∧
      (∀ bs, r.1 = 0 → chunkBytes p r.2.2.1 = some bs → exec (.chunkIssue c k) s =
        .next (savePour (sendChunk r.2.2.2 c p bs) c { p with progress := p.progress + 1, noRepl := [] } 0))) ∧
    ((chunkReady s c p = false ∨ winsSlack s c p = false) → exec (.chunkIssue c k) s = .next s) ∧
    (p.state = 2 → p.hold = 0 → p.progress = p.total → pourInMesh s p.id = false →
      exec (.pourComplete c k) s = .next (closePour s c p (ST_OK :: p.statuses))) ∧
    (p.deadline ≠ 0 → (∃ t, p.start = some t ∧ p.deadline < s.now - t) → p.progress < p.total → p.missed = false → p.hold = 0 →
      let x := countF s F.STK_POUR_STAT_MISSES c 1
      let was := if p.state = 3 ∧ p.cause ≤ 2 ∧ p.fallback ≠ 0 then [haltStatus p.cause] else []
      let q := { p with missed := true, statuses := p.statuses ++ was ++ [ST_DEADLINE_MISS] }
      exec (.deadlineMiss c k) s = .next (if p.state = 3 ∧ 3 ≤ p.cause then putPour x c q else fallBack (putPour x c q) c q)) ∧
    ((p.deadline = 0 ∨ (∀ t, p.start = some t → s.now - t ≤ p.deadline) ∨ p.total ≤ p.progress ∨ p.missed = true) →
      exec (.deadlineMiss c k) s = .next s)) ∧
  (∀ (c : Fin 4) (d : LAddr) (s : State),
    let x := setF s F.STK_POUR_STOP_DESC c (d.toNat / 64 * 64)
    let f := (unitOf s c).pours.find? (fun p => p.addr == d.toNat / 64 * 64)
    (∀ p, f = some p → p.state ≤ 2 → exec (.stkPourStopGo c d) s = .next (haltPour x c p 4 0 0)) ∧
    ((f = none ∨ ∃ p, f = some p ∧ 2 < p.state) → exec (.stkPourStopGo c d) s = .next (setF x F.STK_POUR_STOP_MISSED c 1))) ∧
  (∀ (k : Fin 16) (s : State), exec (.glbMarkClear k) s = .next (releaseHeld (setI s F.GLB_MARK_VALID 0 k 0))) ∧
  (∀ (s : State) (c : Nat) (p : Pour), p.slack s = if p.deadline = 0 then 2 ^ 40 else
    (p.deadline : Int) - p.elapsed s - (if p.estRate = 0 then 0 else (p.remaining + p.estRate - 1) / p.estRate))

/-- Rests in part on R270 to R274, R276 to R278: migration. MIGRATE reserves the charges of its pages and waits, or completes with ST_QUOTA. Each
row of an action takes the next page of a job of that action, at most 16 at once, waiting for a page in copy or in change, and
fails the job on a page whose state forbids the action. WRITEBACK skips clean pages. A page whose last unit has landed is switched.
What an action makes of an entry is R271's table. -/
def Obligations.MigrationMovesPages : Prop :=
  (∀ (n : Fin 64) (i : W32) (s : State) (c : Cmd), inflightCmd s n i = some c → c.run = false → cmdBad s n c = false → cmdEmpty c = false →
    (c.opcode = 0x28 →
      let j : MigJob := { q := n, idx := i, action := bodyF c 0 44 3, page := bodyF c 0 18 24, pages := bodyF c 1 0 32,
                          target := bodyF c 2 0 42, discard := bodyF c 0 47 1 == 1, writable := bodyF c 0 48 1 == 1, ctx := bodyF c 1 32 16 }
      (∀ ks l, quotasOf s (jobContexts s j) = some ks → reserveCharges s (jobCharges s j) = some l →
        (∀ k ∈ ks, ∀ t < 3, getI s F.GLB_QUOTA_USED 0 (quotaIx k t) + reservedIn s k t + l.count (k, t) ≤ getI s F.GLB_QUOTA_LIMIT 0 (quotaIx k t)) →
        exec (.migrate n i) s = .next (markRun { s with tiers := { s.tiers with jobs := s.tiers.jobs ++ [{ j with reserved := l }] } } n i)) ∧
      ((quotasOf s (jobContexts s j) = none ∨ ∃ ks l k t, quotasOf s (jobContexts s j) = some ks ∧ reserveCharges s (jobCharges s j) = some l ∧
          k ∈ ks ∧ t < 3 ∧
          getI s F.GLB_QUOTA_LIMIT 0 (quotaIx k t) < getI s F.GLB_QUOTA_USED 0 (quotaIx k t) + reservedIn s k t + l.count (k, t)) →
        exec (.migrate n i) s = .next (markRun (completeCmd s n c ST_QUOTA 0) n i))) ∧
    (c.opcode = 0x29 → jobOf s n i = none → exec (.writeback n i) s = .next (markRun (nextPage
      { s with tiers := { s.tiers with jobs := s.tiers.jobs ++ [{ q := n, idx := i, action := 8, page := bodyF c 0 18 24,
                                                                  pages := bodyF c 1 0 32 }] } } n i) n i))) ∧
  (∀ (n : Fin 64) (i : W32) (s : State) (j : MigJob), jobOf s n i = some j → j.action ≤ 8 → j.action ≠ 7 →
    ∃ c : Instr, [(0, Instr.migFetch n i), (1, .migEvict n i), (2, .moveHome n i), (3, .replicate n i), (4, .dropRepl n i),
        (5, .migAssign n i), (6, .unmap n i), (8, .writeback n i)].lookup j.action = some c ∧
      let page := j.pageAt j.next
      let e := ptEntry s page
      let x := modJob s n i (fun j => { j with next := j.next + 1 })
      ((j.stopped = true ∨ j.next = j.pages ∨ 16 ≤ j.busy.length ∨ e.migrating = true ∨ ∃ y ∈ s.tiers.changes, y.page = page) →
        exec c s = .next s) ∧
      (j.stopped = false → j.next ≠ j.pages → j.busy.length < 16 → e.migrating = false → (∀ y ∈ s.tiers.changes, y.page ≠ page) →
        (pageFails s j page ≠ [] → exec c s = .next (failJob s n i (pageFails s j page))) ∧
        (pageFails s j page = [] → (j.action = 8 → e.cur ≠ e.home ∧ e.dirty ≠ 0) → exec c s = .next (queueChange
          (modJob x n i (fun j => { j with busy := j.busy ++ [page] })) page (if 4 ≤ j.action ∧ j.action ≤ 6 then .noCopy n i else .start n i))) ∧
        (pageFails s j page = [] → j.action = 8 → (e.cur = e.home ∨ e.dirty = 0) →
          exec c s = .next (finishJob (modJob x n i (fun j => { j with done := j.done + 1 })) n i)))) ∧
  (∀ (n : Fin 64) (i : W32) (s : State) (a : Nat) (c : Instr), (a, c) ∈ [(0, Instr.migFetch n i), (1, .migEvict n i), (2, .moveHome n i),
      (3, .replicate n i), (4, .dropRepl n i), (5, .migAssign n i), (6, .unmap n i)] →
    (∀ j, jobOf s n i = some j → j.action ≠ a) → exec c s = .next s) ∧
  (∀ (n : Fin 64) (i : W32) (s : State) (c : PageCopy),
    s.tiers.copies.find? (fun c => c.q == n.val && c.idx == i && c.waiting.isEmpty && !c.ended) = some c →
    exec (.pageCopySwitch n i) s = .next (queueChange { s with tiers := { s.tiers with copies := s.tiers.copies.map (fun x =>
      if x.page = c.page then { x with ended := true } else x) } } c.page (.switch n i))) ∧
  (∀ (j : MigJob) (e : PtEntry) (k : Nat), let p := BitVec.ofNat 42 (j.placeAt k)
    (j.action = 0 → entryAfter j e k = { e with cur := p }) ∧ (j.action = 1 → entryAfter j e k = { e with cur := e.home, dirty := 0 }) ∧
    (j.action = 2 → entryAfter j e k = { e with cur := p, home := p }) ∧ (j.action = 3 → entryAfter j e k = { e with repl := p }) ∧
    (j.action = 4 → entryAfter j e k = { e with repl := noPlace }) ∧
    (j.action = 5 → entryAfter j e k =
      { e with cur := p, home := p, present := true, poison := false, writable := j.writable, ctx := BitVec.ofNat 16 j.ctx, repl := noPlace, dirty := 0 }) ∧
    (j.action = 6 → (entryAfter j e k).present = false ∧ placesOf (entryAfter j e k) = []))

/-- Rests in part on R258, R259, R261, R268, R273, R279, R280: the Placement Table's entries. A change of an entry waits for the acknowledgements of
the four units that do not own it, and for earlier changes of that entry; then the owner drops its own copy and writes it. A unit
acknowledges when the accesses bound to the entry have ended, and a crescent drops the entry as it does. An index written to
GLB_PT_INDEX clears READY; the snapshot follows the changes that reached the owner before it and sets READY. At the end of a
saturation window the stall ticks are taken, the run of saturated windows grows or ends, and record 0x2002 tells of it. -/
def Obligations.EntriesChangeAfterAcknowledgement : Prop :=
  (∀ (k : Nat) (s : State) (c : PtChange), s.tiers.changes[k]? = some c →
    ((c.acks.length < 4 ∨ ∃ y ∈ s.tiers.changes.take k, y.page = c.page) → exec (.entryChange k) s = .next s) ∧
    (4 ≤ c.acks.length → (∀ y ∈ s.tiers.changes.take k, y.page ≠ c.page) →
      let key := c.page % 4 * 4096 + c.page % 4096
      let x := ptRead { s with tiers := { s.tiers with
        changes := s.tiers.changes.eraseIdx k, cache := put s.tiers.cache key ((getD s.tiers.cache key []).filter (· != c.page)) [] } } c.page
      let e := ptEntry x c.page
      (∀ unit tier, c.what = .poison unit tier → exec (.entryChange k) s = .next (if e.poison then x else
        sendRec (setPt x c.page { e with poison := true }) (.cres (c.page % 4)) ST_DATA_POISON 0x2001 c.page (unit + tier * 256))) ∧
      (∀ f, c.what = .fieldLost f → exec (.entryChange k) s = .next (resolveEntry (placeInField f) x c.page)) ∧
      (∀ n i, c.what = .start n i → exec (.entryChange k) s = .next (startCopy x n i c.page)) ∧
      (∀ n i, c.what = .switch n i → exec (.entryChange k) s = .next (switchPage x n i c.page)) ∧
      (∀ n i, c.what = .giveUp n i → exec (.entryChange k) s = .next (endGiveUp x n i c.page)) ∧
      (∀ n i j, c.what = .noCopy n i → jobOf x n i = some j → exec (.entryChange k) s = .next (finishJob (settlePage
        (setPt x c.page (entryAfter j e (j.offset c.page))) n i c.page e (entryAfter j e (j.offset c.page)) false) n i)))) ∧
  (∀ (k : Nat) (u : Fin 5) (s : State) (c : PtChange), s.tiers.changes[k]? = some c →
    (((u : Nat) = c.page % 4 ∨ (u : Nat) ∈ c.acks ∨ boundDone s u c.page = false) → exec (.entryInvalidation k u) s = .next s) ∧
    ((u : Nat) ≠ c.page % 4 → (u : Nat) ∉ c.acks → boundDone s u c.page = true → ∃ x, exec (.entryInvalidation k u) s = .next x ∧
      x.tiers.changes = s.tiers.changes.modify k (fun c => { c with acks := c.acks ++ [u.val] }) ∧
      (u.val < 4 → c.page ∉ getD x.tiers.cache (u * 4096 + c.page % 4096) []) ∧
      (u.val = 4 → x.tiers.cache = s.tiers.cache) ∧
      { x with tiers := { x.tiers with changes := s.tiers.changes, cache := s.tiers.cache } } = s)) ∧
  (∀ (v : BitVec 24) (s : State), ∃ x, exec (.glbPtIndexWrite v) s = .next x ∧ x.tiers = { s.tiers with snapshot := some v.toNat } ∧
    getF x F.GLB_PT_INDEX_PAGE 0 = v.toNat ∧ getF x F.GLB_PT_INDEX_READY 0 = 0 ∧ RegsKept [regAddr .GLB_PT_INDEX 0 0] s x ∧
    { x with regs := s.regs, tiers := s.tiers } = s) ∧
  (∀ (s : State) (p : Nat), s.tiers.snapshot = some p →
    ((∃ y ∈ s.tiers.changes, y.page = p) → exec .ptSnapshot s = .next s) ∧
    ((∀ y ∈ s.tiers.changes, y.page ≠ p) → ∃ x, exec .ptSnapshot s = .next x ∧ let y := ptRead s p
      (granuleErrs s (ptPlace s p).1 (ptPlace s p).2 = [] → y = s) ∧
      getF x F.GLB_PT_INDEX_READY 0 = 1 ∧ getF x F.GLB_PT_INDEX_PAGE 0 = getF y F.GLB_PT_INDEX_PAGE 0 ∧
      (∀ i v, (entryWords (ptEntry y p))[i]? = some v → getI x F.GLB_PT_ENTRY_WORD 0 i = v % 2 ^ 64) ∧
      x.tiers = { y.tiers with snapshot := none } ∧ { x with regs := y.regs, tiers := y.tiers } = y)) ∧
  (∀ (c : Fin 4) (t : Fin 3) (s : State),
    let win := getF s F.STK_SAT_CFG_WINDOW c
    let k := c.val * 4 + t
    let stall := getD s.tiers.stall k 0
    let sat := decide (getF s F.STK_SAT_CFG_THRESH c * win ≤ stall * 256)
    let run := if sat then getD s.tiers.satRun k 0 + 1 else 0
    let count := getF s F.STK_SAT_CFG_COUNT c
    let x := setI (setI s F.STK_TIER_STALL c t stall) F.STK_TIER_RUN c t (min run 255)
    let y := { x with tiers := { x.tiers with stall := put x.tiers.stall k 0 0, winStart := put x.tiers.winStart k x.now 0,
                                              satRun := put x.tiers.satRun k run 0, lastSat := put x.tiers.lastSat k sat false } }
    ((win = 0 ∨ s.now - getD s.tiers.winStart k 0 < win) → exec (.saturationWindowEnd c t) s = .next s) ∧
    (win ≠ 0 → win ≤ s.now - getD s.tiers.winStart k 0 → exec (.saturationWindowEnd c t) s = .next (
      if count = 0 then y
      else if sat && run % count = 0 then sendRec y (.cres c) 0 0x2002 t stall
      else if !sat && decide (count ≤ getD s.tiers.satRun k 0) then sendRec y (.cres c) 0 0x2002 (t + 2 ^ 31) stall else y)))

/-- Rests in part on R371 to R378: stored data. A tile's fettler takes the lines in turn, and a command that names
another line than the next changes nothing. At a line in which one byte is in error it corrects the byte,
writes it back and, when the error is found hard, retires the line into the lowest free spare, or tells by record 0x1802 that none is
free; a lost byte becomes a poison mark, record 0x1800; a mark stays. A valid-bit copy that disagrees is repaired. A stack's fettler
takes the granules of a channel in turn, likewise. One whose unit is invalid is skipped; one with one corrected word is written back, and its row
is retired when the error is hard; one with a newly lost word gets the mark, record 0x1803, and its row is retired. A read of a granule
that holds a lost word poisons the page at that place. The repair list takes the repairs made so far.
Where the spec is silent, the model's choices are in log entries 133, 135. -/
def Obligations.FettlersCorrectAndRetire : Prop :=
  (∀ (t : TileId) (line : Fin 16384) (hard : Bool) (s : State), let g := t.gid
    ((fettles s g = false ∨ line.val ≠ (tileOf s g).sweep) → exec (.tileFettlerLine t line hard) s = .next s) ∧
    (fettles s g = true → line.val = (tileOf s g).sweep → exec (.tileFettlerLine t line hard) s =
      .next (fettleLine (modTile s g (fun t => { t with sweep := (line.val + 1) % 16384 })) g line hard))) ∧
  (∀ (g line : Nat) (s : State),
    (getD (tileOf s g).valid line 0 = 7 →
      (memErrs (tileOf s g) (64 * line) 64 = [] → ∀ hard, fettleLine s g line hard = s) ∧
      (∀ a m, memErrs (tileOf s g) (64 * line) 64 = [(a, m)] →
        let x := logMemErr s g 8 0 a m
        let b := (rdByte (tileOf x g).mem a).toNat
        (eccIsPoison 8 m = true → ∀ hard, fettleLine s g line hard = s) ∧
        (eccResult 8 m = .corrected → eccIsPoison 8 m = false →
          let y := modTile x g (fun t => { t with mem := wrByte t.mem a (BitVec.ofNat 8 (eccDeliver 8 (rdByte t.mem a).toNat m))
                                                  memFlip := erase t.memFlip a })
          fettleLine s g line false = y ∧
          fettleLine s g line true = retireLine (if 8 ≤ getF s F.TIL_MEM_ERR_SPARES_USED g then x else y) g line) ∧
        (eccResult 8 m = .uncorrectable → eccIsPoison 8 m = false → ∀ hard, fettleLine s g line hard = sendRec
            (modTile x g (fun t => { t with mem := wrByte t.mem a (BitVec.ofNat 8 (b ^^^ (m % 256)))
                                            memFlip := put t.memFlip a (eccPoison 8) 0 })) (.tile g) 0 0x1800 a 0))) ∧
    (∀ v hard, getD (tileOf s g).valid line 0 = v → v ≠ 0 → v ≠ 7 → (tileOf s g).memFlip = [] →
      let x := fettleLine s g line hard
      tileOf x g = { tileOf s g with valid := put (tileOf s g).valid line (if lineValid (tileOf s g) line then 7 else 0) 0 } ∧
      rdReg x .TIL_MEM_LAST g 0 = BitVec.ofNat 64 (64 * line + 3 * 2 ^ 33) ∧
      RegsKept [regAddr .TIL_MEM_ERR g 0, regAddr .TIL_MEM_LAST g 0] s x)) ∧
  (∀ (s : State) (g line : Nat), let used := getF s F.TIL_MEM_ERR_SPARES_USED g
    (8 ≤ used → retireLine s g line = sendRec s (.tile g) 0 0x1802 (64 * line) 0) ∧
    (used < 8 → (∀ k, k < 8 → rdReg s .TIL_REMAP g k ≠ remapWord line) → ∃ x, retireLine s g line = x ∧
      rdReg x .TIL_REMAP g used = remapWord line ∧ x.tiers = { s.tiers with repairs := s.tiers.repairs ++ [(g, used, line)] } ∧
      x.tiles = s.tiles ∧ RegsKept [regAddr .TIL_MEM_ERR g 0, regAddr .TIL_REMAP g used] s x)) ∧
  (∀ (c : Fin 4) (ch : Fin 192) (slot : Fin 1048576) (g : Fin 64) (hard : Bool) (s : State),
    let n := getD s.tiers.sweep (c * 192 + ch) 0
    let k := unitKey c ch slot
    let x := { s with tiers := { s.tiers with sweep := put s.tiers.sweep (c * 192 + ch) ((n + 1) % 67108864) 0 } }
    ((getF s F.STK_FETTLE_SWEEP c = 0 ∨ n ≠ slot * 64 + g) → exec (.stackFettlerGranule c ch slot g hard) s = .next s) ∧
    (getF s F.STK_FETTLE_SWEEP c ≠ 0 → n = slot * 64 + g → exec (.stackFettlerGranule c ch slot g hard) s =
      .next (sweepAt x (ptPage x k g) c ch slot g k hard))) ∧
  (∀ (c : Fin 4) (ch : Fin 192) (slot : Fin 1048576) (g : Fin 64) (hard : Bool) (s : State), let k := unitKey c ch slot
    (∀ p, ptPage s k g = some p → exec (.stackRead c ch slot g hard) s = .next (readTable s k g p hard)) ∧
    (ptPage s k g = none → getD s.tiers.vflip (k / 64) 0 = 0 →
      (unitValid s k = false → sweepAt s none c ch slot g k hard = s ∧ exec (.stackRead c ch slot g hard) s = .next s) ∧
      (unitValid s k = true → deadUnit s k = true → exec (.stackRead c ch slot g false) s = .next (poisonAt s k)) ∧
      (unitValid s k = true → deadUnit s k = false →
        (granuleErrs s k g = [] → sweepAt s none c ch slot g k hard = s ∧ exec (.stackRead c ch slot g hard) s = .next s) ∧
        (∀ e, granuleErrs s k g = [e] → let y := writeBackWord (countChannel s k e) e
          (eccResult 64 e.2 = .corrected → eccIsPoison 64 e.2 = false →
            sweepAt s none c ch slot g k hard = (if hard then retireRow y k g else y) ∧
            exec (.stackRead c ch slot g hard) s = .next (if hard then retireRow y k g else y)) ∧
          (eccResult 64 e.2 = .uncorrectable → eccIsPoison 64 e.2 = false →
            (∃ z, sweepAt s none c ch slot g k hard = retireRow (sendRec y (.cres c) 0 0x1803 (ch + g * 2 ^ 8) z) k g ∧
              z = slot + (t1Frame? (getF y F.GLB_T1_SPLIT_WAFER_SLOTS 0) c ch slot).1 * 2 ^ 20 +
                (t1Frame? (getF y F.GLB_T1_SPLIT_WAFER_SLOTS 0) c ch slot).2 * 2 ^ 44) ∧
            exec (.stackRead c ch slot g hard) s =
              .next (poisonAt (countF (retireRow y k g) F.STK_ELOG_DISC_POISONED (k / 2 ^ 20 / 192) 1) k)))))) ∧
  (∀ s : State, exec .repairListAppend s =
    .next { s with tiers := { s.tiers with repairList := s.tiers.repairList ++ s.tiers.repairs, repairs := [] } })

/-- Rests in part on R384, R386 to R390, R392, R400, R401, R405: incidents. A fence packet sets FENCED and quiesces its tile, halts the pours to it and
holds collectives. When every fenced tile has stopped, a program fault, lost data, or AUTO 0 goes to the runtime, record 0x1001 or
0x1002; a hardware fault is saved, then retested (its first, with RETEST 1) or its column retired, and PRIOR_FAULT is set; a second
column of a field loses the field. A retest that passes leads to the restore. The close restores the saved tiles, starts every fenced
one, resumes pours, writes record 0x1000 and ends the incident; CLOSE ends one that the runtime holds. A field that loses its clock holds
over for 5,000 ticks and then takes the next source, record 0x1003; after the last one the field is lost. A lost crescent or port complex makes the module hold its work, record 0x1007.
Where the spec is silent, the model's choices are in log entries 134, 137, 138, 139, 140. -/
def Obligations.IncidentsRunTheirCourse : Prop :=
  (∀ (t : TileId) (s : State), let g := t.gid
    (g ∉ s.recov.fencePkts → exec (.fencePacket t) s = .next s) ∧
    (g ∈ s.recov.fencePkts →
      let x := { s with recov := { s.recov with fencePkts := s.recov.fencePkts.erase g } }
      let y := haltFor (startQuiesce (setF x F.TIL_STATUS_FENCED g 1) g) g
      (inService x (g / 700) = false → exec (.fencePacket t) s = .next x) ∧
      (inService x (g / 700) = true →
        (∀ inc, y.recov.incident = some inc → g ∈ inc.fenced → exec (.fencePacket t) s = .next (holdFor y (holdKey inc.what) (· == g))) ∧
        ((∀ inc, y.recov.incident = some inc → g ∉ inc.fenced) →
          exec (.fencePacket t) s = .next ((contextsOf y (· == g)).foldl holdContext y))))) ∧
  (∀ s : State, s.recov.incident = none → exec .incidentHandoff s = .next s ∧ (∀ b, exec (.automaticRecovery b) s = .next s) ∧
    (∀ b, exec (.retestComplete b) s = .next s) ∧ (∀ b, exec (.columnRetire b) s = .next s) ∧ exec .incidentClose s = .next s ∧
    exec .recClose s = .next s) ∧
  (∀ (s : State) (inc : Incident), s.recov.incident = some inc →
    ((inc.phase ≠ .opened ∨ allFenced s inc = false ∨ forRuntime s inc = false) → exec .incidentHandoff s = .next s) ∧
    (inc.phase = .opened → allFenced s inc = true → forRuntime s inc = true → exec .incidentHandoff s = .next (handOff s inc)) ∧
    (inc.phase ≠ .handed → exec .recClose s = .next s) ∧
    (inc.phase = .handed → exec .recClose s = .next (endIncident { s with recov := { s.recov with readmit := true } } inc)) ∧
    (∀ g code, inc.what = .tile g code →
      let prior := getF s F.TIL_REC_PRIOR_FAULT g
      (∀ ok, (inc.phase ≠ .opened ∨ allFenced s inc = false ∨ forRuntime s inc = true) → exec (.automaticRecovery ok) s = .next s) ∧
      (inc.phase = .opened → allFenced s inc = true → forRuntime s inc = false →
        exec (.automaticRecovery false) s = .next (handOff s { inc with lost := true }) ∧
        (saveTiles s inc [g] = none → exec (.automaticRecovery true) s = .next (handOff s inc)) ∧
        (∀ j x, saveTiles s inc [g] = some (j, x) →
          (code ≠ 0 → getF x F.GLB_REC_CFG_RETEST 0 = 1 → getF x F.TIL_REC_PRIOR_FAULT g = 0 →
            exec (.automaticRecovery true) s = .next (setInc x (some { j with phase := .retesting }))) ∧
          ((code = 0 ∨ getF x F.GLB_REC_CFG_RETEST 0 ≠ 1 ∨ getF x F.TIL_REC_PRIOR_FAULT g ≠ 0) →
            exec (.automaticRecovery true) s = .next (setInc (setF x F.TIL_REC_PRIOR_FAULT g 1) (some { j with phase := .retiring }))))) ∧
      (∀ pass, inc.phase ≠ .retesting → exec (.retestComplete pass) s = .next s) ∧
      (∀ pass, inc.phase = .retesting → exec (.retestComplete pass) s =
        .next (setInc (setF s F.TIL_REC_PRIOR_FAULT g 1) (some { inc with phase := if pass then .restoring else .retiring }))) ∧
      (∀ ok, inc.phase ≠ .retiring → exec (.columnRetire ok) s = .next s) ∧
      (∀ ok, inc.phase = .retiring → getF s F.FLD_STATE_BYPASS_COL (g / 700) ≠ 24 → exec (.columnRetire ok) s = .next (loseField s (g / 700) 4)) ∧
      (inc.phase = .retiring → getF s F.FLD_STATE_BYPASS_COL (g / 700) = 24 →
        (∀ ok, inc.column = none → exec (.columnRetire ok) s = .next (widenFence s inc (g / 700) (g % 700 % 25))) ∧
        (∀ ok, inc.column ≠ none → allFenced s inc = false → exec (.columnRetire ok) s = .next s) ∧
        (inc.column ≠ none → allFenced s inc = true →
          let r := allShiftRecs s (g / 700) (g % 700 % 25)
          let todo := (shifting s (g / 700) (g % 700 % 25)).filter (fun h => !inc.saved.contains h)
          exec (.columnRetire false) s = .next (handOff s { inc with lost := true }) ∧
          (r.1 = 4 → exec (.columnRetire true) s = .next (again s r.2.2)) ∧
          (r.1 = 0 → slotsIn s (g / 700) ≠ [] → ∀ j x, saveTiles r.2.2 inc todo = some (j, x) →
            exec (.columnRetire true) s = .next (shiftColumn x j (g / 700) (g % 700 % 25) r.2.1)) ∧
          (r.1 ≠ 4 → (r.1 ≠ 0 ∨ slotsIn s (g / 700) = [] ∨ saveTiles r.2.2 inc todo = none) →
            exec (.columnRetire true) s = .next (handOff r.2.2 inc)))) ∧
      (inc.phase ≠ .restoring → exec .incidentClose s = .next s) ∧
      (inc.phase = .restoring → let r := readSaved s inc
        (r.1 = 4 → exec .incidentClose s = .next (again s r.2.2.2)) ∧
        (r.1 ≠ 4 → r.1 ≠ 0 → exec .incidentClose s = .next (handOff r.2.2.2 { inc with lost := true })) ∧
        (r.1 = 0 →
          let x := restoreSaved r.2.2.2 r.2.1 r.2.2.1
          let y := (inc.fenced.filter (fun h => inService x (h / 700))).foldl (fun s h => startTile (setF s F.TIL_STATUS_FENCED h 0) h) x
          exec .incidentClose s = .next (endIncident (sendRec (resumeFenced y) .port 0 0x1000
            (incidentCode g code + (if inc.retired then 2 ^ 31 else 0)) (y.now - inc.since)) inc))))) ∧
  (∀ (f : Fin 48) (s : State),
    (inService s f = false ∨ getF s F.FLD_CLK_HOLDOVER f = 1 → exec (.clockSourceLost f) s = .next s) ∧
    (inService s f = true → getF s F.FLD_CLK_HOLDOVER f ≠ 1 →
      (getF s F.FLD_CLK_SOURCE f = 3 → exec (.clockSourceLost f) s = .next (loseField s f 3)) ∧
      (getF s F.FLD_CLK_SOURCE f ≠ 3 → exec (.clockSourceLost f) s = .next (setF { s with recov := { s.recov with
        holdover := insert s.recov.holdover f (s.now + 5000) } } F.FLD_CLK_HOLDOVER f 1)))) ∧
  (∀ (f : Nat) (s : State), let n := getF s F.FLD_CLK_SOURCE f
    (inService s f = false ∨ getF s F.FLD_CLK_HOLDOVER f = 0 → switchClock s f = s) ∧
    (inService s f = true → getF s F.FLD_CLK_HOLDOVER f ≠ 0 →
      ∃ x, switchClock s f = sendRec x (.field f) 0 0x1003 (f + (n + 1) * 2 ^ 8) 0 ∧ getF x F.FLD_CLK_SOURCE f = (n + 1) % 4 ∧
      RegsKept [regAddr .FLD_CLK f 0] s x ∧ { x with regs := s.regs, tiles := s.tiles, recov := s.recov } = s ∧
      x.recov = { s.recov with relock := insert s.recov.relock f (s.now + 20000) } ∧
      ∀ h, f ≠ h / 700 → h / 700 ∉ neighbours f → tileOf x h = tileOf s h)) ∧
  (∀ (u : Fin 5) (s : State), let cause := if u.val < 4 then 0 else 1
    let unit := if u.val < 4 then u.val else 0
    exec (.crescentOrPortComplexFailure u) s =
      .next (sendRec (if s.recov.holding then s else holdAll s cause unit) .port 0 0x1007 cause unit))

/-- Rests in part on R269, R386, R393 to R397, R399 to R403, R409, R410: contexts and losses. CTX_SAVE fences the mould, waits until its tiles have
stopped, and writes the context, or says why it cannot: ST_DATA_POISON, else ST_CTX_LOST, else ST_CTX_SPACE with
the length it needs; the other conditions are counted (R22). CTX_RESTORE
reads a context, and one that fits its target is put back; one that does not completes with ST_CTX_MISMATCH. The loss of a field in service
halts its pours, takes its links down, drops its state, resolves the pages that lay in it and opens an incident. Both Brois links
lost for 1 s make the module hold its work. When reference A fails, reference B goes on.
Where the spec is silent, the model's choices are in log entries 130, 147. -/
def Obligations.ContextsAndLosses : Prop :=
  (∀ (n : Fin 64) (i : W32) (ok : Bool) (s : State) (c : Cmd), inflightCmd s n i = some c →
    (s.recov.ctxJobs.find? (fun j => j.q == n.val && j.idx == i) = none → c.run = false → c.opcode = 0x20 →
      (cmdBad s n c = true → exec (.ctxSave n i ok) s = .next (completeCmd s n c ST_CMD_INVALID 0)) ∧
      (cmdBad s n c = false → cmdEmpty c = true → exec (.ctxSave n i ok) s = .next (completeCmd s n c ST_OK_EMPTY 0)) ∧
      (cmdBad s n c = false → cmdEmpty c = false →
        let gs := (rectTiles s (bodyRect c 1)).filter (fun g => inService s (g / 700))
        exec (.ctxSave n i ok) s = .next (markRun { s with recov := { s.recov with
          ctxJobs := s.recov.ctxJobs ++ [{ q := n, idx := i, tiles := gs }], fencePkts := s.recov.fencePkts ++ gs } } n i))) ∧
    (∀ j, s.recov.ctxJobs.find? (fun j => j.q == n.val && j.idx == i) = some j →
      (j.tiles.all (fenceDone s) = false → exec (.ctxSave n i ok) s = .next s) ∧
      (j.tiles.all (fenceDone s) = true →
        let x := { s with recov := { s.recov with ctxJobs := s.recov.ctxJobs.erase j } }
        let b := contextBytes x c j.tiles
        let w := writeLogical b.2.2 (bodyF c 0 0 42) b.1
        let cs := saveConds (!ok) (bodyF c 2 0 32 < b.1.length) b.2.1
        (cs ≠ [] → exec (.ctxSave n i ok) s = .next (completeIdx (logOthers b.2.2 cs (bestStatus cs)) n i (bestStatus cs)
          (if bestStatus cs = ST_CTX_SPACE then b.1.length else 0))) ∧
        (ok = true → b.1.length ≤ bodyF c 2 0 32 → b.2.1 = false →
          (w.1 = 0 → exec (.ctxSave n i ok) s = .next (completeIdx w.2 n i ST_OK b.1.length)) ∧
          (w.1 ≠ 0 → exec (.ctxSave n i ok) s = .next (completeIdx w.2 n i (readStatus w.1) 0)))))) ∧
  (∀ lost short poisoned : Bool, bestStatus (saveConds lost short poisoned) =
    if poisoned then ST_DATA_POISON else if lost then ST_CTX_LOST else if short then ST_CTX_SPACE else ST_OK) ∧
  (∀ (n : Fin 64) (i : W32) (s : State) (c : Cmd), inflightCmd s n i = some c → c.run = false → c.opcode = 0x21 →
    (cmdBad s n c = true → exec (.ctxRestore n i) s = .next (completeCmd s n c ST_CMD_INVALID 0)) ∧
    (cmdBad s n c = false → cmdEmpty c = true → exec (.ctxRestore n i) s = .next (completeCmd s n c ST_OK_EMPTY 0)) ∧
    (cmdBad s n c = false → cmdEmpty c = false →
      let a := bodyF c 0 0 42
      let r := readLogical s a 64
      let h := headOfBytes r.2.1
      let q := if h.magic = 0x31585443 && h.length ≤ 2 ^ 42 then readLogical r.2.2 (a + 64) (h.length - 64) else (0, [], r.2.2)
      let secs := parseSections h.sections q.2.1
      (r.1 = 4 → exec (.ctxRestore n i) s = .next r.2.2) ∧
      (r.1 ≠ 4 → r.1 ≠ 0 → exec (.ctxRestore n i) s = .next (markRun (completeCmd r.2.2 n c (readStatus r.1) 0) n i)) ∧
      (r.1 = 0 → (q.1 = 4 → exec (.ctxRestore n i) s = .next q.2.2) ∧
        (q.1 ≠ 4 → q.1 ≠ 0 → exec (.ctxRestore n i) s = .next (markRun (completeCmd q.2.2 n c (readStatus q.1) 0) n i)) ∧
        (q.1 = 0 → restoreFits q.2.2 c h secs = true →
          exec (.ctxRestore n i) s = .next (markRun (completeCmd (applyContext q.2.2 c h secs) n c ST_OK 0) n i)) ∧
        (q.1 = 0 → restoreFits q.2.2 c h secs = false →
          exec (.ctxRestore n i) s = .next (markRun (completeCmd q.2.2 n c ST_CTX_MISMATCH 0) n i))))) ∧
  (∀ (f : Fin 48) (cause : Fin 8) (s : State),
    ((cause = 0 ∨ inService s f = false) → exec (.fieldLoss f cause) s = .next s) ∧
    (cause ≠ 0 → inService s f = true →
      let x := dropField (faceDown (setFull (setSlow (haltRect (holdFor s (f + 1) (fun g => g / 700 == f.val)) (fieldRect f)) f false) f false) f) f
      let y := queueLost (leaveRuns (setF (setF x F.FLD_STATE_LOST f 1) F.FLD_STATE_CAUSE f cause) (fun g => g / 700 == f.val)) f
      let z := askSnap (lossIncident (updateService y) f cause) 1
      (cause ≠ 2 → exec (.fieldLoss f cause) s = .next z) ∧
      (cause = 2 → exec (.fieldLoss f cause) s =
        .next (setF { z with power := { z.power with offAt := insert z.power.offAt f z.now } } F.PWR_FLD_RAIL_HELD_OFF f 1)))) ∧
  (∀ s : State,
    ((∃ l, l < 2 ∧ (4 ≤ getI s F.BRL_STAT_STATE 0 l ∨ (linkOf s l).wasLost = false ∨ s.now - (linkOf s l).since < 100000000)) →
      exec .broisBothLost s = .next s) ∧
    ((∀ l, l < 2 → getI s F.BRL_STAT_STATE 0 l < 4 ∧ (linkOf s l).wasLost = true ∧ 100000000 ≤ s.now - (linkOf s l).since) →
      s.recov.owed = none → s.recov.holding = false → exec .broisBothLost s =
        .next { holdAll s 2 0 with recov := { (holdAll s 2 0).recov with owed := some 2 } })) ∧
  (∀ s : State, exec .refAFailure s = .next { s with power := { s.power with refA := false } })

/-- Rests in part on R426, R444 to R451, R455 to R457, R464: starts. A qualified input begins a cold start; its steps clear the module and read the ledger,
start the crescents, await the fields, and make the chosen frame image generation 1. A field on its turn passes stage A and is in
service, or is lost with its cause; at stage B it runs at full speed, and its accumulators hold +0. WARM and COLD need ARM within the last
1 ms; otherwise, and while a wider start runs, a request is discarded and counted. WARM keeps what is retained and clears the rest. -/
def Obligations.StartsAndRestarts : Prop :=
  (∀ s : State,
    ((s.power.on = true ∨ heldFor s cStart 2000000 = false) → exec .inputQualified s = .next s) ∧
    (s.power.on = false → heldFor s cStart 2000000 = true → ∃ x, exec .inputQualified s = .next x ∧
      x.power = { s.power with on := true, start := true } ∧ getF x F.GLB_START_STAT_PHASE 0 = 0 ∧ getF x F.GLB_START_STAT_LAST_START 0 = 0 ∧
      RegsKept [regAddr .GLB_START_STAT 0 0] s x ∧ { x with regs := s.regs, power := s.power } = s)) ∧
  (∀ (bad : List CheckFail) (s : State), let ph := getF s F.GLB_START_STAT_PHASE 0
    ((s.power.on = false ∨ s.power.start = false ∨ 3 ≤ ph) → exec (.coldStart bad) s = .next s) ∧
    (s.power.on = true → s.power.start = true →
      (ph = 0 → exec (.coldStart bad) s = .next (startHousekeeping s)) ∧
      (ph = 1 → exec (.coldStart bad) s = .next (startCrescents bad s)) ∧
      (ph = 2 → allDecided s = false → exec (.coldStart bad) s = .next s) ∧
      (ph = 2 → allDecided s = true → let x := setF s F.GLB_START_STAT_PHASE 0 3
        (∀ m rs, (chooseFrame x).1 = some (m, rs) → exec (.coldStart bad) s = .next (
          let y := (List.range 54).foldl (fun s d => if domainUp s d then takeSection s m rs d false else shadowSection s m rs d)
            (setF (chooseFrame x).2 F.CFG_STAGE_STAT_ACTIVE_VALID 0 1)
          let z := nameGauges (setF (setF (setSplit y rs) F.GLB_START_STAT_FRAME 0 1) F.GLB_START_STAT_PHASE 0 4)
          updateService { z with power := { z.power with start := false } })) ∧
        ((chooseFrame x).1 = none → exec (.coldStart bad) s =
          .next { (chooseFrame x).2 with power := { (chooseFrame x).2.power with start := false } })))) ∧
  (∀ (f : Fin 48) (s : State), (coldTurn s f = false → resetTurn s f = false → ∀ e, exec (.stageA f e) s = .next s) ∧
    ((coldTurn s f = true ∨ resetTurn s f = true) → let z := applyRetained s f
      exec (.stageA f .trip) s = .next (failA s f 1 1) ∧ exec (.stageA f .noClock) s = .next (failA s f 3 3) ∧
      exec (.stageA f .pattern) s = .next (failA z f 7 7) ∧
      (∀ row n, exec (.stageA f (.checker row n)) s = .next (failA (sendRec z (.field f) 0 0x1806 row n) f 7 row)) ∧
      (resetTurn s f = false → exec (.stageA f .pass) s = .next (admitField z f)) ∧
      (resetTurn s f = true → let x := commitHeld (admitField z f) f
        exec (.stageA f .pass) s = .next (if othersFull x f then x else endFieldReset x f 1)))) ∧
  (∀ (f : Fin 48) (pass : Bool) (s : State),
    let waits := atStageA s f = false ∨ getF s F.GLB_START_STAT_FRAME 0 = 0 ∨ getD s.power.ready f.val false = false ∨ fieldRuns s f = true ∨
      (getF s F.FLD_RESET_BUSY f = 1 ∧ othersFull s f = false)
    (waits → exec (.stageB f pass) s = .next s) ∧
    (¬ waits →
      let x := { s with tiles := (s.tiles.map (fun e => if e.1 / 700 = f.val then (e.1, { e.2 with acc := [] }) else e)).filter (fun e => e.2 ≠ {}) }
      let y := if pass && !getD x.power.failed f.val false then
          updateService (sendRec (setFull (setSlow x f false) f true) .power 0 0x3101 (f + 2 * 2 ^ 8) 0)
        else sendRec x .power 0 0x3101 (f + 3 * 2 ^ 8) (getF x F.FLD_STATE_CAUSE f)
      exec (.stageB f pass) s = .next (if getF y F.FLD_RESET_BUSY f = 1 then endFieldReset y f 1 else y))) ∧
  (∀ s : State, exec .resetArm s = .next { s with loader := { s.loader with armed := some s.now } } ∧
    (let x := { s with loader := { s.loader with armed := none } }
      let armed := ∃ t, s.loader.armed = some t ∧ s.now - t ≤ 100000
      (armed → s.power.start = false → s.loader.reached = true → exec .resetWarm s = .next (warmRestart x)) ∧
      ((¬ armed ∨ s.power.start = true ∨ s.loader.reached = false) → exec .resetWarm s = .next (discardReset x)) ∧
      (armed → ∃ y, exec .resetCold s = .next y ∧ getF y F.GLB_START_STAT_PHASE 0 = 0 ∧ getF y F.GLB_START_STAT_LAST_START 0 = 1 ∧
        y.power = { (abandonAll x).power with start := true } ∧ y.recov.holding = true ∧ y.tiles = (abandonAll x).tiles) ∧
      (¬ armed → exec .resetCold s = .next (discardReset x)))) ∧
  (∀ s : State, getF (discardReset s) F.GLB_START_STAT_DISCARDED 0 = min (getF s F.GLB_START_STAT_DISCARDED 0 + 1) (2 ^ F.GLB_START_STAT_DISCARDED.w - 1) ∧
    RegsKept [regAddr .GLB_START_STAT 0 0] s (discardReset s) ∧ { discardReset s with regs := s.regs } = s)

/-- Rests in part on R87, R130, R189, R339, R356, R364, R434, R458 to R464: resets of tiles, fields and ports. A tile reset sets every pointer, scalar,
loop and event register to 0, and clears valid bits, riser, tundish, queues, records and the result; it resolves the
Placement Table first and abandons RUNs and pours; one of a fenced tile, or of one the sequencer holds, does nothing or is refused. A
reset while a cold start runs, or of tiles whose field is being reset, is discarded and counted. A field reset is refused for a field in
service that an active slot uses (2) or that is lost for good (3);
otherwise the field goes off and BUSY is set. A port reset takes an edge port or a surface port down and sets BUSY; an index out of range
does nothing. Where the spec is silent, the model's choice is in log entry 145. -/
def Obligations.NarrowResets : Prop :=
  (∀ (s : State) (g : Nat), let t := tileOf (clearTile s g) g
    t.p = [] ∧ t.s = [] ∧ t.l = [] ∧ t.e = [] ∧ t.mem = [] ∧ t.valid = [] ∧ t.riser = [] ∧ t.half0 = [] ∧ t.half1 = [] ∧ t.queues = [] ∧
      t.feeds = [] ∧ t.wait = none ∧ t.held = none ∧ t.rx = [] ∧ t.tx = [] ∧ t.result = Tile.result {} ∧ t.reads = [] ∧ t.localIn = [] ∧
      t.input = (tileOf s g).input ∧ t.wire = (tileOf s g).wire ∧ t.down = (tileOf s g).down ∧ OtherTiles g s (clearTile s g)) ∧
  (∀ (s : State) (gs : List Nat), gs ≠ [] →
    let lost := fun (p : Nat) => (gs.map (fun g => (logX s g, logY s g))).any (fun q => placeInTile q.1 q.2 p)
    let x := abandonPours (abandonRuns (gs.foldl clearTile (resolvePlaces s lost)) gs) gs
    resetTiles s gs = sendRec (writeKept x gs) .port 0 0x3102 2
      (if s.tiers.pt.any (fun e => e.2.present && lost e.2.cur.toNat) then 100000 else 500)) ∧
  (∀ (t : TileId) (s : State), let g := t.gid
    (s.power.start = true → exec (.tilCtrlReset t) s = .next (discardReset s)) ∧
    (s.power.start = false → (getF s F.TIL_STATUS_FENCED g = 1 ∨ sequencerHas s [g] = true) → exec (.tilCtrlReset t) s = .next s) ∧
    (s.power.start = false → getF s F.TIL_STATUS_FENCED g ≠ 1 → sequencerHas s [g] = false →
      (getF s F.FLD_RESET_BUSY (g / 700) = 1 → exec (.tilCtrlReset t) s = .next (discardReset s)) ∧
      (getF s F.FLD_RESET_BUSY (g / 700) ≠ 1 → inService s (g / 700) = false → exec (.tilCtrlReset t) s = .next s) ∧
      (getF s F.FLD_RESET_BUSY (g / 700) ≠ 1 → inService s (g / 700) = true →
        exec (.tilCtrlReset t) s = .next (resetTiles s [g])))) ∧
  (∀ (v : Word) (s : State),
    let x := plainWrite s { reg := .GLB_TRESET, unit := 0, inst := 0, shadow := false } v
    let all := rectTiles x { x := getBits v 0 8, y := getBits v 8 8, w := getBits v 16 8, h := getBits v 24 8 }
    let gs := all.filter (fun g => inService x (g / 700) && getF x F.FLD_RESET_BUSY (g / 700) != 1)
    let y := if all.any (fun g => getF x F.FLD_RESET_BUSY (g / 700) == 1) then discardReset x else x
    (getBits v 32 1 = 0 → exec (.glbTresetGo v) s = .next x) ∧
    (getBits v 32 1 = 1 → x.power.start = true → exec (.glbTresetGo v) s = .next (discardReset x)) ∧
    (getBits v 32 1 = 1 → x.power.start = false →
      (gs = [] → exec (.glbTresetGo v) s = .next y) ∧
      (gs ≠ [] → sequencerHas y gs = true → exec (.glbTresetGo v) s = .next (setF y F.GLB_TRESET_REFUSED 0 1)) ∧
      (gs ≠ [] → sequencerHas y gs = false → exec (.glbTresetGo v) s = .next (resetTiles (setF y F.GLB_TRESET_REFUSED 0 0) gs)))) ∧
  (∀ (f : Fin 48) (s : State), let c := getF s F.FLD_STATE_CAUSE f
    let used := inService s f = true ∧ ∃ e ∈ activeSlots s, f.val ∈ e.2.fields
    let dead := (getF s F.FLD_STATE_LOST f = 1 ∧ (c = 1 ∨ c = 4 ∨ c = 7)) ∨ getF (showHeld s) F.PWR_FLD_RAIL_HELD_OFF f = 1
    (s.power.start = true → exec (.fldResetGo f) s = .next (discardReset s)) ∧
    (s.power.start = false → getF s F.FLD_RESET_BUSY f = 1 → exec (.fldResetGo f) s = .next s) ∧
    (s.power.start = false → getF s F.FLD_RESET_BUSY f ≠ 1 →
      (used → exec (.fldResetGo f) s = .next (setF s F.FLD_RESET_RESULT f 2)) ∧
      (¬ used → dead → exec (.fldResetGo f) s = .next (setF s F.FLD_RESET_RESULT f 3)) ∧
      (¬ used → ¬ dead → ∃ x, exec (.fldResetGo f) s = .next x ∧
        let y := if inService s f then switchOff s f else s
        x.power = { y.power with resetAt := insert y.power.resetAt f y.now } ∧
        getF x F.FLD_RESET_BUSY f = 1 ∧ getF x F.FLD_RESET_RESULT f = 0 ∧ RegsKept [regAddr .FLD_RESET f 0] y x ∧
        { x with regs := y.regs, power := y.power } = y))) ∧
  (∀ (v : Word) (s : State), let p := getBits v 0 6
    let x := plainWrite s { reg := .PRT_PORT_RESET, unit := 0, inst := 0, shadow := false } v
    let go := getBits v 7 1 = 1 ∧ (getBits v 6 1 = 0 → p ≤ 31) ∧ (getBits v 6 1 = 1 → p ≤ 47)
    (¬ go → exec (.prtPortResetGo v) s = .next x) ∧ (go → x.power.start = true → exec (.prtPortResetGo v) s = .next (discardReset x)) ∧
    (go → x.power.start = false →
      let y := if getBits v 6 1 = 0 then (if portUp x p then portDown x p else x)
        else (List.range 8).foldl (fun s k => if getI s F.OPT_SUB_STATE p k = 0 then s else loseSub s p k) x
      let z := setF y F.PRT_PORT_RESET_BUSY 0 1
      exec (.prtPortResetGo v) s = .next { z with power := { z.power with resetAt := insert z.power.resetAt 48 z.now } }))

/-- Rests in part on R422, R424 to R426, R429, R443: staging and adoption. GO clears the staging slot's mark and checks the manifest at the address that CFG_STAGE_SRC then holds (log entry 146); what fails ends
the staging with its status and record 0x3200. It is turned away with ST_CFG_BUSY while a staging runs or a domain takes its
section from staging. ABORT ends a staging; the STATUS it leaves is a free value (log entry 6). Completion writes the manifest and
the blocks, and the mark last; a block that fails leaves the slot empty. ADOPT needs a domain that can change now, a good image in the
staging slot and consistent epochs; the domain then takes its section, and record 0x3202 names it. -/
def Obligations.StagingAndAdoption : Prop :=
  (∀ (v : Word) (s : State), getBits v 0 1 = 0 → getBits v 1 1 = 0 → exec (.cfgStageGo v) s = .next s) ∧
  (∀ (v : Word) (s : State), getBits v 0 1 = 1 → getBits v 1 1 = 0 →
    let away := s.loader.staging = true ∨ ∃ d, d < 54 ∧ getI s F.CFG_EPOCH_FROM_STAGING 0 d = 1
    (away → exec (.cfgStageGo v) s = .next (sendRec (setF s F.CFG_STAGE_STAT_STATUS 0 ST_CFG_BUSY) .loader 0 0x3200 ST_CFG_BUSY 0)) ∧
    (¬ away → ∃ x, x.power.flash.staging = { s.power.flash.staging with mark := false, rejected := false } ∧
      x.power.flash.active = s.power.flash.active ∧ x.loader = { s.loader with staging := true, stageAt := getF s F.CFG_STAGE_SRC_ADDR 0 / 64 * 64 } ∧
      getF x F.CFG_STAGE_STAT_STATE 0 = 1 ∧ getF x F.CFG_STAGE_STAT_BLOCKS 0 = 0 ∧ RegsKept [regAddr .CFG_STAGE_STAT 0 0] s x ∧
      { x with regs := s.regs, loader := s.loader, power := s.power } = s ∧
      ((stageCheck x).1 = 0 ∨ (stageCheck x).1 = 4 → exec (.cfgStageGo v) s = .next (again x (stageCheck x).2.2)) ∧
      ((stageCheck x).1 ≠ 0 → (stageCheck x).1 ≠ 4 → exec (.cfgStageGo v) s = .next (endStaging (stageCheck x).2.2 4 (stageCheck x).1 0)))) ∧
  (∀ s : State,
    (s.loader.staging = false → exec .cfgStageAbort s = .next s ∧ exec .stagingComplete s = .next s) ∧
    (s.loader.staging = true →
      (∃ st ∈ statusOrder, exec .cfgStageAbort s = .next (endStaging { s with free := s.free + 1 } 4 st (getF s F.CFG_STAGE_STAT_BLOCKS 0))) ∧
      (let r := stageCheck s
       (r.2.1 = none → r.1 = 4 → exec .stagingComplete s = .next (again s r.2.2)) ∧
        (r.2.1 = none → r.1 ≠ 4 → exec .stagingComplete s = .next (endStaging r.2.2 4 r.1 0)) ∧
        (∀ m, r.2.1 = some m →
          let q := readBlocks' r.2.2 (payloadAt (stageSrc s) m.size) m
          (q.1 = 4 → exec .stagingComplete s = .next (again s q.2.2)) ∧
          (q.1 ≠ 4 → q.1 ≠ 0 → exec .stagingComplete s =
            .next (endStaging (setStaging q.2.2 { bytes := [] }) 4 q.1 (q.2.1.length / 65536))) ∧
          (q.1 = 0 → exec .stagingComplete s = .next (endStaging (setStaging q.2.2
            { bytes := m.raw ++ List.replicate (payloadAt 0 m.size - m.size) 0 ++ q.2.1, mark := true }) 2 ST_OK m.blocks)))))) ∧
  (∀ (s : State) (state status blocks : Nat), state < 8 → ∃ x, endStaging s state status blocks = sendRec x .loader 0 0x3200 (status % 65536) blocks ∧
    getF x F.CFG_STAGE_STAT_STATE 0 = state ∧ getF x F.CFG_STAGE_STAT_STATUS 0 = status % 65536 ∧
    x.loader = { s.loader with staging := false } ∧ RegsKept [regAddr .CFG_STAGE_STAT 0 0] s x ∧ { x with regs := s.regs, loader := s.loader } = s) ∧
  (∀ (d : Fin 64) (s : State),
    (adoptBusy s d = true → exec (.cfgAdopt d) s = .next (setF s F.CFG_STAGE_STAT_STATUS 0 ST_CFG_BUSY)) ∧
    (adoptBusy s d = false →
      (∀ st, frameCheck s.power.flash.staging = .error st → exec (.cfgAdopt d) s = .next (setF s F.CFG_STAGE_STAT_STATUS 0 st)) ∧
      (∀ m rs, frameCheck s.power.flash.staging = .ok (m, rs) →
        let fits := consistent (fun e => if e = d.val then m.epochs.getD d {} else epochRow s e) (domainsUp s)
        (fits = false → exec (.cfgAdopt d) s = .next (setF s F.CFG_STAGE_STAT_STATUS 0 ST_EPOCH)) ∧
        (fits = true → exec (.cfgAdopt d) s = .next (sendRec (setF (takeSection s m rs d true) F.CFG_STAGE_STAT_STATUS 0 ST_OK)
          .loader 0 0x3202 (d + (m.epochs.getD d {}).epoch * 65536) 0)))))

/-- Rests in part on R422, R430 to R436, R441: PATCH and the image slots. A PATCH waits while the loader works; a slot whose state does not allow the action,
or a manifest that fails a check, completes it with the status of that check; otherwise the slot is busy and its domains are
owned. LOAD reads manifest, annex and payload and checks them all before it writes: the slot becomes active, BROKEN on a bad
payload, or free again with ST_IMAGE_CONFLICT or ST_CFG_BUSY; APPLY writes the patch's records and commits, unless tiles that it writes
run; UNLOAD clears the routes of the slot's streams and frees it, unless its tiles run.
Where the spec is silent, the model's choices are in log entries 132. -/
def Obligations.MouldImageSlots : Prop :=
  (∀ (n : Fin 64) (i : W32) (s : State) (c : Cmd), inflightCmd s n i = some c → c.run = false → c.opcode = 0x30 →
    (cmdBad s n c = true → exec (.patch n i) s = .next (completeCmd s n c ST_CMD_INVALID 0)) ∧
    (cmdBad s n c = false → cmdEmpty c = true → exec (.patch n i) s = .next (completeCmd s n c ST_OK_EMPTY 0)) ∧
    (cmdBad s n c = false → cmdEmpty c = false →
      let slot := bodyF c 0 42 4
      let action := bodyF c 0 46 2
      let addr := bodyF c 0 0 42
      let job : LoadJob := { q := n, idx := i, action, slot, addr, annex := bodyF c 1 0 42, was := slotState s slot }
      let r := readManifest s addr (2 ^ 42)
      (s.loader.job ≠ none → exec (.patch n i) s = .next s) ∧
      (s.loader.job = none →
        (∀ st, slotRefusal s slot action = some st → exec (.patch n i) s = .next (markRun (completeCmd s n c st 0) n i)) ∧
        (slotRefusal s slot action = none →
          (action = 2 → slotState s slot = 0 → exec (.patch n i) s = .next (markRun (completeCmd s n c ST_OK 0) n i)) ∧
          (action = 2 → slotState s slot ≠ 0 →
            exec (.patch n i) s = .next (markRun (startJob s { job with owned := (slotOf s slot).fields ++ [53] }) n i)) ∧
          (action ≠ 2 →
            (r.2.1 = none → r.1 = 4 → exec (.patch n i) s = .next (again s r.2.2)) ∧
            (r.2.1 = none → r.1 ≠ 4 → exec (.patch n i) s = .next (markRun (completeCmd r.2.2 n c r.1 0) n i)) ∧
            (∀ m, r.2.1 = some m →
              (∀ st, manifestRefusal r.2.2 slot action m = some st →
                exec (.patch n i) s = .next (markRun (completeCmd r.2.2 n c st 0) n i)) ∧
              (manifestRefusal r.2.2 slot action m = none →
                (action = 1 → m.blocks = 0 → exec (.patch n i) s = .next (markRun (completeCmd r.2.2 n c ST_OK_EMPTY 0) n i)) ∧
                ((action ≠ 1 ∨ m.blocks ≠ 0) → exec (.patch n i) s = .next (markRun
                  (startJob r.2.2 { job with owned := (List.range 54).filter (Nat.testBit m.domains) }) n i))))))))) ∧
  (∀ (s : State) (j : LoadJob), ∃ x, startJob s j = setI x F.CFG_MI_STAT_STATE 0 j.slot 1 ∧ x.loader = { s.loader with job := some j } ∧
    { x with regs := s.regs, loader := s.loader } = s) ∧
  (∀ (n : Fin 64) (i : W32) (s : State),
    (jobFor s n i 0 = none → exec (.imgLoad n i) s = .next s) ∧ (jobFor s n i 1 = none → exec (.imgApply n i) s = .next s) ∧
    (jobFor s n i 2 = none → exec (.imgUnload n i) s = .next s) ∧
    (∀ j, jobFor s n i 0 = some j → let r := readManifest s j.addr (2 ^ 42)
      (r.2.1 = none → r.1 = 4 → exec (.imgLoad n i) s = .next (again s r.2.2)) ∧
      (r.2.1 = none → r.1 ≠ 4 → exec (.imgLoad n i) s = .next (endJob r.2.2 j 0 r.1)) ∧
      (∀ m, r.2.1 = some m → let a := readAnnex r.2.2 m j.annex
        let q := readPayload a.2.2 j.addr m
        (a.1 = 4 → exec (.imgLoad n i) s = .next (again s a.2.2)) ∧
        (a.1 ≠ 4 → a.1 ≠ 0 → exec (.imgLoad n i) s = .next (endJob a.2.2 j 0 a.1)) ∧
        (a.1 = 0 → q.1 = none → exec (.imgLoad n i) s = .next (again s q.2)) ∧
        (∀ p, a.1 = 0 → q.1 = some p → let d := digestAnnex q.2 a.2.1
          (d.1 = 4 → exec (.imgLoad n i) s = .next (again s d.2.2)) ∧
          (d.1 ≠ 4 → exec (.imgLoad n i) s = .next (finishLoad d.2.2 j m a.2.1
            (if p.status = 0 then { p with status := d.1, offset := d.2.1 } else p)))))) ∧
    (∀ j, jobFor s n i 1 = some j → let r := readManifest s j.addr (2 ^ 42)
      (r.2.1 = none → r.1 = 4 → exec (.imgApply n i) s = .next (again s r.2.2)) ∧
      (r.2.1 = none → r.1 ≠ 4 → exec (.imgApply n i) s = .next (endJob r.2.2 j 2 r.1)) ∧
      (∀ m, r.2.1 = some m → let q := readPayload r.2.2 j.addr m
        (q.1 = none → exec (.imgApply n i) s = .next (again s q.2)) ∧
        (∀ p, q.1 = some p → exec (.imgApply n i) s = .next (finishApply q.2 j m p)))) ∧
    (∀ j, jobFor s n i 2 = some j → let x := slotOf s j.slot
      let runs := ∃ g ∈ x.moulds.flatMap (rectTiles s), getF s F.TIL_STATUS_RUNNING g = 1 ∧ getF s F.TIL_STATUS_FENCED g = 0
      (runs → exec (.imgUnload n i) s = .next (endJob s j j.was ST_CFG_BUSY)) ∧
      (¬ runs → exec (.imgUnload n i) s = .next (endJob (showSlot (commitAll (x.fields.foldl (fun y f => clearRoutes y f
        (getI s F.CFG_MI_STAT_STREAM_LO 0 j.slot) (getI s F.CFG_MI_STAT_STREAM_HI 0 j.slot)) s) x.fields) j.slot {} 0 0 0x3F) j 0 ST_OK)))) ∧
  (∀ (s : State) (j : LoadJob) (m : Manifest) (ps : List (Nat × Manifest)) (p : Payload), let x := slotFrom m p.recs ps
    let w := writeRecs s false p.recs
    let runs := ∃ g ∈ tilesOf s p.recs, getF s F.TIL_STATUS_RUNNING g = 1
    (p.status ≠ 0 → finishLoad s j m ps p = breakSlot (showSlot s j.slot x m.lo m.hi 0x3F) j [] p) ∧
    (p.status = 0 → conflicts s m x = true → finishLoad s j m ps p = endJob s j 0 ST_IMAGE_CONFLICT) ∧
    (p.status = 0 → conflicts s m x = false → runs → finishLoad s j m ps p = endJob s j 0 ST_CFG_BUSY) ∧
    (p.status = 0 → conflicts s m x = false → ¬ runs →
      finishLoad s j m ps p = endJob (showSlot (commitAll w.2 w.1) j.slot x m.lo m.hi 0x3F) j 2 ST_OK))

/-- Rests in part on R308, R311 to R314, R317, R318, R328, R329, R331: REDUCE_SCATTER, ALL_GATHER and BROADCAST. A collective reads its group and its tree; it
waits while they come from T2, and completes with the outcome of a read of the group that fails. Its completions carry the group's
generation. It completes with ST_OK_EMPTY for no members or no data, with ST_CMD_INVALID for a member or root outside the group or a
tree with a cycle at a member, and with status 0x140 for a member that is not live, the first of these that R22 ranks before the
others (an empty one is first checked by its group: log entry 116). Otherwise it takes its channel's next sequence number, and binds
the channel, unless an ABORT for just that collective has come before it; when a page of its tree has failed it ends with that
outcome and tells the live members.
Where the spec is silent, the model's choices are in log entries 117. -/
def Obligations.CollectivesStart : Prop :=
  ∀ (op : Nat) (k : Fin 64 → W32 → Instr), (op, k) ∈ [(0x18, Instr.reduceScatter), (0x19, .allGather), (0x1A, .broadcast)] →
  ∀ (n : Fin 64) (i : W32) (s : State) (c : Cmd), inflightCmd s n i = some c → c.run = false → c.opcode = op →
    (cmdBad s n c = true → exec (k n i) s = .next (completeCmd s n c ST_CMD_INVALID 0)) ∧
    (cmdBad s n c = false → cmdEmpty c = true → exec (k n i) s = .next (completeCmd s n c ST_OK_EMPTY 0)) ∧
    (cmdBad s n c = false → cmdEmpty c = false →
      let r := readGroup s (bodyF c 0 0 42)
      let me := bodyF c 1 0 16
      let root := if op = 0x1A then bodyF c 1 16 16 else 0
      let own := if op = 0x1A then bodyF c 4 0 42 else 0
      (r.2.1 = none → r.1 = 4 → exec (k n i) s = .next r.2.2) ∧
      (r.2.1 = none → r.1 ≠ 4 → exec (k n i) s =
        .next (markRun (completeCmd r.2.2 n c (if collEmpty op c then ST_OK_EMPTY else pageStatus r.1) 0) n i)) ∧
      (∀ g, r.2.1 = some g →
        let t := readTree r.2.2 (if own = 0 then g.treeAddr else own) g.members
        let ends := fun st => exec (k n i) s = .next (markRun (completeCmd t.2.2 n c st (g.gen * 2 ^ 48)) n i)
        let outside := g.members ≤ me ∨ g.members ≤ root ∨ 65536 < g.members
        let badTree := t.1 = 0 ∧ treeOk g.members t.2.1 = false
        (t.1 = 4 → exec (k n i) s = .next t.2.2) ∧
        (t.1 ≠ 4 → g.members = 0 → ends ST_OK_EMPTY) ∧
        (t.1 ≠ 4 → g.members ≠ 0 → outside ∨ badTree → ends ST_CMD_INVALID) ∧
        (t.1 ≠ 4 → g.members ≠ 0 → ¬ (outside ∨ badTree) →
          (g.live.contains me = false → ends 0x140) ∧
          (g.live.contains me = true → collEmpty op c = true → ends ST_OK_EMPTY) ∧
          (g.live.contains me = true → collEmpty op c = false →
            let l := loadRanks t.2.2 g.ranks
            let ch := bodyF c 0 42 4
            let cseq := g.cseqs.getD ch 0
            let hash := collHash c op g.id
            let y := (portWrite l.2 (bodyF c 0 0 42 + 0x20 + 4 * ch) (bytesOf (cseq + 1) 4) (ch % 4)).2
            let x : Chan := { q := n, idx := i, bytes := c.bytes, op := op - 0x18, gaddr := bodyF c 0 0 42, group := g.id, gen := g.gen, cseq, hash,
                              ranks := g.ranks, me, root, tree := t.2.1, live := g.live, live0 := g.live,
                              segments := bodyF c 5 0 32, blocks := bodyF c 5 32 17, length := bodyF c 3 0 32 }
            (l.1 = 4 → exec (k n i) s = .next l.2) ∧
            (l.1 ≠ 4 → ∀ a, y.coll.aborts.find? x.abortedBy = some a → exec (k n i) s = .next (markRun (completeCmd
              { y with coll := { y.coll with aborts := y.coll.aborts.erase a } } n c a.status (g.gen * 2 ^ 48)) n i)) ∧
            (l.1 ≠ 4 → y.coll.aborts.find? x.abortedBy = none → t.1 = 0 →
              exec (k n i) s = .next (markRun (bindColl (markRun y n i) x) n i)) ∧
            (l.1 ≠ 4 → y.coll.aborts.find? x.abortedBy = none → t.1 ≠ 0 →
              exec (k n i) s = .next (markRun (failColl (setChan y ch (some x)) ch (pageStatus t.1)) n i))))))

/-- Rests in part on R292, R294, R295, R299, R319, R320, R327, R328: adders and DATA. A block enters its stream's buffer of 64 in its stream's order; one
that is not the next of its stream, or that disagrees about LAST, ends the collective with ST_ORDER_MISMATCH. When every input of a
block is held, the adder takes one block of each input, joins the member's own where it has that share, combines at most 8 in rank
order, more through a cascade of adders, and sends the sum to the parent, or at the owner stage writes it. DATA of a bound collective
is taken in the order of its path, given to its adder or landed; of an older generation it is discarded and counted; of a later
generation, of a held collective or of one not bound it goes to the early pool; a mismatch is detected where the channel's
collective has the same group and CSEQ or still waits on the sender.
Where the spec is silent, the model's choices are in log entries 84, 118. -/
def Obligations.AddersAndData : Prop :=
  (∀ (a k : Nat) (s : State), let d := adderOf s a
    (d.incoming[k]? = none → exec (.adderBlockReceive a k) s = .next s) ∧
    (∀ b, d.incoming[k]? = some b →
      let same := fun (i : RedIn) => i.chan == b.chan && i.segment == b.segment && i.sender == b.sender && i.low == b.low
      let before := (d.incoming.take k).any (fun z => z.chan == b.chan && z.segment == b.segment && z.sender == b.sender && z.low == b.low)
      let i := (d.ins.find? same).getD { chan := b.chan, segment := b.segment, sender := b.sender, low := b.low, contrib := b.contrib }
      let clash := d.ins.any (fun j => j.chan == b.chan && j.segment == b.segment &&
        j.held.any (fun h => h.1.seq == b.block.seq && h.1.last != b.block.last))
      let x := setAdder s a { d with incoming := d.incoming.eraseIdx k }
      let i' := { i with next := i.next + 1, held := i.held ++ [(b.block, b.credit)], contrib := b.contrib }
      ((before = true ∨ 64 ≤ i.held.length) → exec (.adderBlockReceive a k) s = .next s) ∧
      (before = false → i.held.length < 64 → (b.block.seq ≠ i.next ∨ clash = true) →
        exec (.adderBlockReceive a k) s = .next (failColl (giveCredit x b.credit) b.chan ST_ORDER_MISMATCH)) ∧
      (before = false → i.held.length < 64 → b.block.seq = i.next → clash = false → exec (.adderBlockReceive a k) s =
        .next (updateWaits (setAdder x a { incoming := d.incoming.eraseIdx k, ins := d.ins.filter (fun j => !same j) ++ [i'] }) b.chan)))) ∧
  (∀ (a : Nat) (s : State),
    (readyAt s a = none → exec (.adderCombine a) s = .next s) ∧
    (∀ x seg ins, readyAt s a = some (x, seg, ins) →
      let b := nextAt x a seg
      let joins := ((adderShare s x seg a).getD ([], false)).2
      let own := if joins then ownBlock s x seg b else (0, { scale := 0, residue := 0, elems := [] }, s)
      let heads := ins.filterMap (fun i => i.held.head?.map (fun h => (i.low, h.1)))
      let all := inRankOrder (heads ++ (if joins then [(x.ranks.getD x.me 0, own.2.1)] else []))
      let d := adderOf own.2.2 a
      let taken := { d with ins := d.ins.map (fun i => if ins.contains i then { i with held := i.held.drop 1 } else i) }
      let y := ins.foldl (fun s i => giveCredit s ((i.held.head?.map (·.2)).getD none)) (setAdder own.2.2 a taken)
      let l := cascade y a x.num seg all.length 0 all
      let low := (l.1.map (·.1)).headD 0
      let r := combine low (l.1.map (·.2))
      let z := reportCombine l.2 a x.num seg l.1 r
      let contrib := (ins.map (·.contrib)).sum + (if joins then 1 else 0)
      let w := ownerWrite z x seg r.out
      let agree := ∀ e ∈ all, e.2.last = (all.map (·.2.last)).headD false
      (own.1 = 4 → exec (.adderCombine a) s = .next own.2.2) ∧
      (own.1 ≠ 4 → own.1 ≠ 0 → exec (.adderCombine a) s = .next (failColl own.2.2 x.num (pageStatus own.1))) ∧
      (own.1 = 0 → ¬ agree → exec (.adderCombine a) s = .next (failColl own.2.2 x.num ST_ORDER_MISMATCH)) ∧
      (own.1 = 0 → agree → a ≠ ownerStage → exec (.adderCombine a) s =
        .next (pump (markEmitted (sendUp z x seg low contrib [r.out]) x a seg b) x.num)) ∧
      (own.1 = 0 → agree → a = ownerStage → w.1 = 0 → exec (.adderCombine a) s = .next (pump (markEmitted w.2 x a seg b) x.num)) ∧
      (own.1 = 0 → agree → a = ownerStage → w.1 ≠ 0 → exec (.adderCombine a) s =
        .next (failColl w.2 x.num (pageStatus (if w.1 = 2 then 2 else 1)))))) ∧
  (∀ (s : State) (a c seg n : Nat) (l : List (Nat × Block)), (a = ownerStage ∨ l.length ≤ 8) → cascade s a c seg n 0 l = (l, s)) ∧
  (∀ (k : Nat) (s : State), arrivedOf s k 1 = none → exec (.pennantData k) s = .next s) ∧
  (∀ (k : Nat) (s : State) (p : Penn) (v : Via), arrivedOf s k 1 = some (p, v) →
    (dataInTurn s k p v = false → exec (.pennantData k) s = .next s) ∧
    (dataInTurn s k p v = true → chanOf s p.chan = none → exec (.pennantData k) s = .next (keepEarly s k (p, v))) ∧
    (∀ x, dataInTurn s k p v = true → chanOf s p.chan = some x →
      let r := landBlocks (heard (takePenn s k) p.chan p.sender) p.chan p p.count p.block p.payload
      (x.names p = true →
        (p.gen < x.gen → exec (.pennantData k) s = .next (countF (takePenn s k) F.PRT_ELOG_DISC_STALE_GEN 0 1)) ∧
        ((x.gen < p.gen ∨ p.gen = x.gen ∧ x.held = true) → exec (.pennantData k) s = .next (keepEarly s k (p, v))) ∧
        (p.gen = x.gen → x.held = false →
          (x.op = 0 → exec (.pennantData k) s = .next (updateWaits (reduceData (heard (removePenn s k) p.chan p.sender) x p v) p.chan)) ∧
          (x.op ≠ 0 → r.1 = 0 → exec (.pennantData k) s = .next (pump r.2 p.chan)) ∧
          (x.op ≠ 0 → r.1 ≠ 0 → exec (.pennantData k) s =
            .next (failColl r.2 p.chan (pageStatus (if r.1 = 2 then 2 else 1)))))) ∧
      (x.names p = false →
        let wrong := (x.group = p.group ∧ x.cseq = p.cseq) ∨ ∃ m ∈ sendersIn s x p v, expectsData s x m = true
        let g := knownGroup s p.group
        (wrong → g.1 = 4 → exec (.pennantData k) s = .next g.2.2) ∧
        (wrong → g.1 ≠ 4 → exec (.pennantData k) s = .next (mismatch (takePenn g.2.2 k) p.chan p v g.2.1)) ∧
        (¬ wrong → exec (.pennantData k) s = .next (keepEarly s k (p, v))))))

/-- Rests in part on R322, R324, R326, R328 to R333: control pennants. ACK ends the wait for a block; a QUERY is answered with STATE 1 (bound), 2
(another is bound), 3 (held, in the queried collective's own name) or 0 with the group's next CSEQ, once the group's descriptor is
read (of a group that the module does not know the CSEQ is a free value, log entry 6); STATE ends or marks the wait on the member, or
shows a mismatch; JOIN states what a new child lacks; DONE and FINISH are the end barrier; an ABORT ends the collective that it names,
record 0x2803, or enters the abort table of 16 unless its group has passed that CSEQ, the oldest entry making room and being counted. A REFORM_REQ that asks
the leader starts a forming or is answered with the REFORM of that generation; a REFORM is applied when all its packets are here. A
pennant that names no bound collective only leaves its input. -/
def Obligations.ControlPennants : Prop :=
  ∀ (k : Nat) (s : State),
  (∀ (kind : Nat) (i : Instr), (kind, i) ∈ [(2, Instr.pennantAck k), (3, .pennantQuery k), (4, .pennantState k), (5, .pennantJoin k), (6, .reformReq k),
    (7, .reform k), (8, .pennantAbort k), (9, .pennantDone k), (10, .pennantFinish k)] → arrivedOf s k kind = none → exec i s = .next s) ∧
  (∀ (p : Penn) (v : Via), let y := takePenn s k
    (∀ (kind : Nat) (i : Instr), (kind, i) ∈ [(2, Instr.pennantAck k), (5, .pennantJoin k), (9, .pennantDone k), (10, .pennantFinish k)] →
      arrivedOf s k kind = some (p, v) → (chanOf y p.chan = none ∨ ∃ x, chanOf y p.chan = some x ∧ x.names p = false) → exec i s = .next y) ∧
    (∀ x, chanOf y p.chan = some x → x.names p = true → let h := heard y p.chan p.sender
      (arrivedOf s k 2 = some (p, v) → let t := x.childTx p.sender p.segment
        exec (.pennantAck k) s = .next (pump (modChan h p.chan (fun x => x.setChild { t with unacked := t.unacked.filter (fun u => u.1 != p.block) })) p.chan)) ∧
      (arrivedOf s k 5 = some (p, v) → exec (.pennantJoin k) s =
        .next (pump (modChan h p.chan (fun x => x.setChild { member := p.sender, segment := p.segment, next := p.block })) p.chan)) ∧
      (arrivedOf s k 9 = some (p, v) → exec (.pennantDone k) s =
        .next (pump (modChan h p.chan (fun x => { x with doneFrom := ((p.sender, p.gen) :: x.doneFrom).eraseDups })) p.chan)) ∧
      (arrivedOf s k 10 = some (p, v) → exec (.pennantFinish k) s =
        .next (endColl ((x.children x.barrier x.me).foldl (fun s m => sendMember s x m (x.penn 10)) y) p.chan x.statuses))) ∧
    (arrivedOf s k 3 = some (p, v) → let g := knownGroup s p.group
      (∀ x, chanOf s p.chan = some x → x.held = false → exec (.pennantQuery k) s =
        .next (sendBack y v { x.penn 4 with block := if x.names p then 1 else 2 })) ∧
      (∀ x, chanOf s p.chan = some x → x.held = true →
        let me := if x.group = p.group then x.me else ((find s.coll.groups p.group).map (·.me)).getD x.me
        exec (.pennantQuery k) s = .next (sendBack y v { p with kind := 4, sender := me, payload := [], count := 0, block := 3 })) ∧
      (chanOf s p.chan = none → g.1 = 4 → exec (.pennantQuery k) s = .next g.2.2) ∧
      (∀ r d, chanOf s p.chan = none → g.1 ≠ 4 → g.2.1 = some (r, d) → exec (.pennantQuery k) s = .next (sendBack (takePenn g.2.2 k) v
        { kind := 4, chan := p.chan, coll := p.coll, group := p.group, cseq := d.cseqs.getD p.chan 0, hash := 0, gen := d.gen, sender := r.me })) ∧
      (chanOf s p.chan = none → g.1 ≠ 4 → g.2.1 = none → ∃ a b, a < 2 ^ 32 ∧ b < 65536 ∧ exec (.pennantQuery k) s =
        .next (sendBack (takePenn { g.2.2 with free := g.2.2.free + 1 } k) v
          { kind := 4, chan := p.chan, coll := p.coll, group := p.group, cseq := a, hash := 0, gen := p.gen, sender := b }))) ∧
    (arrivedOf s k 4 = some (p, v) → let g := knownGroup s p.group
      (chanOf s p.chan = none → exec (.pennantState k) s = .next y) ∧
      (∀ x, chanOf s p.chan = some x →
        let d : W32 := BitVec.ofNat 32 p.cseq - BitVec.ofNat 32 x.cseq
        let clash := (p.block = 2 ∧ x.names p = false) ∨ (p.block = 0 ∧ p.group = x.group ∧ d ≠ 0 ∧ negative d = false)
        (clash → g.1 = 4 → exec (.pennantState k) s = .next g.2.2) ∧
        (clash → g.1 ≠ 4 → exec (.pennantState k) s = .next (mismatch (takePenn g.2.2 k) p.chan p v g.2.1)) ∧
        (p.block = 0 → p.group = x.group → (d = 0 ∨ negative d = true) → exec (.pennantState k) s =
          .next (modWait y p.chan p.sender (fun w => { w with since := s.now, queried := none, idle := some (w.idle.getD s.now) }))) ∧
        (p.block = 1 → x.names p = true → exec (.pennantState k) s = .next (heard y p.chan p.sender)) ∧
        (3 ≤ p.block → p.group = x.group → let z := modWait y p.chan p.sender (fun w => { w with since := y.now, queried := none })
          exec (.pennantState k) s = .next (if (x.heldSince p.sender).isSome then z else
            modChan z p.chan (fun x => { x with heldBy := (p.sender, z.now) :: x.heldBy }))) ∧
        (((p.block = 0 ∨ 3 ≤ p.block) ∧ p.group ≠ x.group ∨ p.block = 1 ∧ x.names p = false ∨ p.block = 2 ∧ x.names p = true) →
          exec (.pennantState k) s = .next y))) ∧
    (arrivedOf s k 6 = some (p, v) → let r := noteRequest y p.group p.gen (indicesOf p.count p.payload)
      (r.2 = none → exec (.reformReq k) s = .next r.1) ∧
      (∀ f, r.2 = some f → exec (.reformReq k) s = .next ((reformPackets { p with sender := ((find s.coll.groups p.group).map (·.me)).getD 0 }
        (f.base + 1) f.excl).foldl (fun s q => sendBack s v q) r.1))) ∧
    (arrivedOf s k 7 = some (p, v) →
      let same := fun (f : FormIn) => f.group == p.group && f.gen == p.gen
      let f := (s.coll.formIn.find? same).getD { group := p.group, gen := p.gen, total := p.contrib, packets := [] }
      let g := { f with packets := f.packets.filter (fun e => e.1 != p.block) ++ [(p.block, indicesOf p.count p.payload)] }
      let all : List Nat := g.packets.flatMap (fun e => e.2)
      let x := { s with coll := { s.coll with formIn := s.coll.formIn.filter (fun z => !same z) ++ [g] } }
      let q := knownGroup x p.group
      (all.length ≠ g.total → exec (.reform k) s = .next (takePenn x k)) ∧
      (all.length = g.total → q.1 = 4 → exec (.reform k) s = .next q.2.2) ∧
      (all.length = g.total → q.1 ≠ 4 → q.2.1 = none → exec (.reform k) s = .next (takePenn q.2.2 k)) ∧
      (∀ r d, all.length = g.total → q.1 ≠ 4 → q.2.1 = some (r, d) → exec (.reform k) s = .next (applyReform (takePenn q.2.2 k) r d p.gen all))) ∧
    (arrivedOf s k 8 = some (p, v) →
      (∀ x, chanOf s p.chan = some x → x.names p = true → exec (.pennantAbort k) s =
        .next (endCollAs (sendRec y .port p.block 0x2803 p.block p.sender) p.chan p.block x.notices)) ∧
      ((chanOf s p.chan = none ∨ ∃ x, chanOf s p.chan = some x ∧ x.names p = false) → let g := knownGroup s p.group
        let passed := ∃ r d, g.2.1 = some (r, d) ∧ negative (BitVec.ofNat 32 p.cseq - BitVec.ofNat 32 (d.cseqs.getD p.chan 0)) = true
        (g.1 = 4 → exec (.pennantAbort k) s = .next g.2.2) ∧
        (g.1 ≠ 4 → passed → exec (.pennantAbort k) s = .next (takePenn g.2.2 k)) ∧
        (g.1 ≠ 4 → ¬ passed → exec (.pennantAbort k) s = .next (enterAbort (takePenn g.2.2 k) p))))) ∧
  (∀ p : Penn, let e : AbortEntry := { group := p.group, chan := p.chan, cseq := p.cseq, hash := p.hash, status := p.block, since := s.now }
    (s.coll.aborts.length < 16 → enterAbort s p = { s with coll := { s.coll with aborts := s.coll.aborts ++ [e] } }) ∧
    (16 ≤ s.coll.aborts.length → ∃ x, x = countF s F.COL_ERR_ABORT_DROPS 0 1 ∧ x.coll.aborts = s.coll.aborts ∧ x.now = s.now ∧
      enterAbort s p = { x with coll := { x.coll with aborts := s.coll.aborts.drop 1 ++ [{ e with since := x.now }] } }))

/-- Rests in part on R323, R326, R328 to R330: the timers of collectives. Operand k names channel k mod 16 and member k div 16 (log entry 8). A member not
heard from for COLL_TMO / 2 is queried once; one that no path reaches is declared failed with reason 3. One that has not answered
at COLL_TMO is declared failed with reason 0, one whose block has gone unacknowledged for the hop time (blocks that wait for a credit are
not timed) with reason 1, one held for GROUP_TMO with reason 2; one that idles for GROUP_TMO ends the collective with ST_TIMEOUT.
A held collective declares nothing. A leader sends its REFORM after COLL_TMO / 4, once the group's descriptor is read; an unanswered REFORM_REQ is asked of the next live member, unless the group has reached its
generation; an abort entry expires after GROUP_TMO. -/
def Obligations.CollectiveTimers : Prop :=
  ∀ (k : Nat) (s : State),
  (waitAt s k = none → exec (.queryTimerExpiry k) s = .next s ∧ exec (.collectiveTimeout k) s = .next s ∧ exec (.groupTimeout k) s = .next s) ∧
  (∀ x w, waitAt s k = some (x, w) →
    (let r := sendRank s (x.ranks.getD w.member 0) (x.penn 3)
     let due := w.queried = none ∧ collTmo s / 2 ≤ s.now - w.since ∧ x.held = false
     (¬ due → exec (.queryTimerExpiry k) s = .next s) ∧
     (due → r.1 = true → exec (.queryTimerExpiry k) s = .next (modWait r.2 (k % 16) w.member (fun w => { w with queried := some s.now }))) ∧
     (due → r.1 = false → exec (.queryTimerExpiry k) s = .next (declareFailed r.2 (k % 16) w.member 3))) ∧
    (let due := w.queried ≠ none ∧ w.idle = none ∧ x.heldSince w.member = none ∧ collTmo s ≤ s.now - w.since ∧ x.held = false
     (due → exec (.collectiveTimeout k) s = .next (declareFailed s (k % 16) w.member 0)) ∧
     (¬ due → exec (.collectiveTimeout k) s = .next s)) ∧
    (x.held = true → exec (.groupTimeout k) s = .next s) ∧
    (x.heldSince w.member = none → w.idle = none → exec (.groupTimeout k) s = .next s) ∧
    (∀ t, x.held = false → x.heldSince w.member = some t →
      (groupTmo s ≤ s.now - t → exec (.groupTimeout k) s = .next (declareFailed s (k % 16) w.member 2)) ∧
      (s.now - t < groupTmo s → exec (.groupTimeout k) s = .next s)) ∧
    (∀ t, x.held = false → x.heldSince w.member = none → w.idle = some t →
      (groupTmo s ≤ s.now - t → exec (.groupTimeout k) s = .next (failColl s (k % 16) ST_TIMEOUT)) ∧
      (s.now - t < groupTmo s → exec (.groupTimeout k) s = .next s))) ∧
  (chanOf s (k % 16) = none → exec (.hopTimeout k) s = .next s) ∧
  (∀ x, chanOf s (k % 16) = some x →
    let m := k / 16
    let late := x.childs.any (fun t => t.member == m && t.unacked.any (fun u =>
      hopTmo s ≤ s.now - u.2 && !unsentTo s x m t.segment u.1))
    let due := late = true ∧ x.heldSince m = none ∧ x.held = false ∧ m ∉ pendingExcl s x
    (due → exec (.hopTimeout k) s = .next (declareFailed s (k % 16) m 1)) ∧
    (¬ due → exec (.hopTimeout k) s = .next s)) ∧
  (s.coll.forming[k]? = none → exec (.settleTimeExpiry k) s = .next s) ∧
  (∀ f, s.coll.forming[k]? = some f →
    ((f.sent = true ∨ s.now - f.since < collTmo s / 4) → exec (.settleTimeExpiry k) s = .next s) ∧
    (f.sent = false → collTmo s / 4 ≤ s.now - f.since → let g := knownGroup s f.group
      (g.2.1 = none → exec (.settleTimeExpiry k) s = .next g.2.2) ∧
      (∀ r d, g.2.1 = some (r, d) → let y := g.2.2
        exec (.settleTimeExpiry k) s = .next (sendReform
          { y with coll := { y.coll with forming := y.coll.forming.map (fun z => if z = f then { f with sent := true } else z) } } f r d)))) ∧
  (s.coll.requests[k]? = none → exec (.reformReqTimeout k) s = .next s) ∧
  (∀ r, s.coll.requests[k]? = some r →
    let g := knownGroup s r.group
    let y := { g.2.2 with coll := { g.2.2.coll with requests := g.2.2.coll.requests.eraseIdx k } }
    (s.now - r.since < collTmo s → exec (.reformReqTimeout k) s = .next s) ∧
    (collTmo s ≤ s.now - r.since → g.1 = 4 → exec (.reformReqTimeout k) s = .next g.2.2) ∧
    (collTmo s ≤ s.now - r.since → g.1 ≠ 4 → (g.2.1 = none ∨ ∃ e d, g.2.1 = some (e, d) ∧ r.base < d.gen) →
      exec (.reformReqTimeout k) s = .next y) ∧
    (∀ e d, collTmo s ≤ s.now - r.since → g.1 ≠ 4 → g.2.1 = some (e, d) → d.gen ≤ r.base → exec (.reformReqTimeout k) s =
      .next (askReform y { kind := 6, chan := 0, coll := 0, group := r.group, cseq := 0, hash := 0, gen := r.base, sender := e.me }
        d.live d.ranks r.excl (some r.leader)))) ∧
  (s.coll.aborts[k]? = none → exec (.abortEntryExpiry k) s = .next s) ∧
  (∀ a, s.coll.aborts[k]? = some a →
    (s.now - a.since < groupTmo s → exec (.abortEntryExpiry k) s = .next s) ∧
    (groupTmo s ≤ s.now - a.since →
      exec (.abortEntryExpiry k) s = .next { s with coll := { s.coll with aborts := s.coll.aborts.eraseIdx k } }))

/-- Rests in part on R468, R471, R472, R480 to R482, R409: the Brois links. A flit whose CRC fails or that is not the next asks for a replay; a good one
acknowledges, returns credits and counts, and what waited for room or credits goes on. A flit that has gone unacknowledged for 2 µs is replayed, and after its fourth
replay the link enters RECOVER, as RETRAIN makes it. A recovery that ends adds its bad lanes, and takes the link to ACTIVE at the width that is left, with record 0x3300 when it first
narrows (an attempt with no width left counts as failed, log entry 38). Two failed attempts, or ENABLE 0, lose the link. A training runs for a link that is not up, at most each 10 ms,
and gives it credits, with record 0x1006 when it had been lost. When both have been lost for 1 s the module holds its work. -/
def Obligations.BroisLinks : Prop :=
  (∀ (l : Fin 2) (s : State), let st := getI s F.BRL_STAT_STATE 0 l
    let b := linkOf s l
    (∀ (h : W32) (fixed ok : Bool), let w := h.toNat
      let idle := w / 2 ^ 21 % 2 == 1
      let a := w / 1024 % 1024
      let y := if fixed then countI s F.BRL_ERR_FEC_CORR 0 l 1 else s
      let c := linkOf y l
      let d := { c with unacked := c.unacked.filter (fun f => 512 ≤ (a + 1024 - f.seq) % 1024),
                        rxNext := if idle then c.rxNext else (c.rxNext + 1) % 1024, nak := false, c3 := min 64 (c.c3 + w / 2 ^ 26 % 16) }
      let z := setI (setLink y l d) F.BRL_STAT_C0_CREDITS 0 l (min 64 (getI (setLink y l d) F.BRL_STAT_C0_CREDITS 0 l + w / 2 ^ 22 % 16))
      (st ≠ 4 → exec (.broisFlitReceive l h fixed ok) s = .next s) ∧
      (st = 4 → (ok = false ∨ idle = false ∧ w % 1024 ≠ c.rxNext) →
        exec (.broisFlitReceive l h fixed ok) s = .next (setLink y l { c with nak := true })) ∧
      (st = 4 → ok = true → (idle = true ∨ w % 1024 = c.rxNext) → exec (.broisFlitReceive l h fixed ok) s =
        .next (pumpBrois (fillReplay (if w / 2 ^ 20 % 2 = 1 then replay z l else z) l (d.out.length + 1))))) ∧
    (b.unacked = [] → exec (.broisReplayTimeout l) s = .next s) ∧
    (∀ f fs, b.unacked = f :: fs →
      ((st ≠ 4 ∨ s.now - f.since < 200) → exec (.broisReplayTimeout l) s = .next s) ∧
      (st = 4 → 200 ≤ s.now - f.since → 4 ≤ f.tries → exec (.broisReplayTimeout l) s =
        .next (countI (setI s F.BRL_STAT_STATE 0 l 5) F.BRL_ERR_RECOVERIES 0 l 1)) ∧
      (st = 4 → 200 ≤ s.now - f.since → f.tries < 4 → exec (.broisReplayTimeout l) s =
        .next (setLink (countLink (countI s F.BRL_ERR_REPLAYS 0 l 1) (80 + l) 0 1) l
          { b with unacked := b.unacked.map (fun x => { x with tries := x.tries + 1, since := s.now }) }))) ∧
    (st ≠ 4 → exec (.broisRetrain l) s = .next s ∧ exec (.broisRecover l .enter) s = .next s) ∧
    (st = 4 → let y := countI (setI s F.BRL_STAT_STATE 0 l 5) F.BRL_ERR_RECOVERIES 0 l 1
      exec (.broisRetrain l) s = .next y ∧ exec (.broisRecover l .enter) s = .next y) ∧
    (st ≠ 5 → exec (.broisRecover l .fail) s = .next s ∧ ∀ bad, exec (.broisRecover l (.done bad)) s = .next s) ∧
    (st = 5 → exec (.broisRecover l .fail) s = .next (setLink s l { b with fails := b.fails + 1 })) ∧
    (∀ bad, st = 5 → let all := getI s F.BRL_STAT_BAD_LANES 0 l ||| bad.toNat
      (widthFor s l all = none → exec (.broisRecover l (.done bad)) s = .next (setLink s l { b with fails := b.fails + 1 })) ∧
      (∀ x, widthFor s l all = some x →
        let y := setI (setWidth s l all x) F.BRL_STAT_STATE 0 l 4
        let z := modLink y l (fun b => { b with fails := 0, unacked := b.unacked.map (fun f => { f with tries := 0, since := y.now }) })
        exec (.broisRecover l (.done bad)) s =
          .next (pumpBrois (if x.1 = 1 && getI s F.BRL_STAT_X8 0 l = 0 then sendRec z .port 0 0x3300 (l + 2 * x.2) all else z)))) ∧
    (let lost := (st = 5 ∧ 2 ≤ b.fails) ∨ ((st = 4 ∨ st = 5) ∧ getI s F.BRL_CTRL_ENABLE 0 l = 0)
     (lost → exec (.broisLinkLoss l) s = .next (loseLink s l)) ∧
     (¬ lost → exec (.broisLinkLoss l) s = .next s)) ∧
    (∀ (bad : BitVec 16) (ok : Bool),
      let may := s.power.on = true ∧ st ≠ 4 ∧ st ≠ 5 ∧ getI s F.BRL_CTRL_ENABLE 0 l ≠ 0 ∧ ∀ t, b.tried = some t → 1000000 ≤ s.now - t
      let width := if ok then widthFor s l bad.toNat else none
      (¬ may → exec (.broisTraining l bad ok) s = .next s) ∧
      (may → width = none → exec (.broisTraining l bad ok) s = .next (setLink (setI s F.BRL_STAT_STATE 0 l 1) l { b with tried := some s.now })) ∧
      (∀ x, may → width = some x →
        let y := setI (setI (setWidth s l bad.toNat x) F.BRL_STAT_STATE 0 l 4) F.BRL_STAT_C0_CREDITS 0 l 64
        let z := setLink (setI y F.BRL_STAT_RD_OUT 0 l 0) l { c3 := 64 }
        let r := if b.wasLost then sendRec z .port 0 0x1006 (l + 2 ^ 31) 0 else z
        (r.recov.owed = none → exec (.broisTraining l bad ok) s = .next (pumpBrois r)) ∧
        (∀ c, r.recov.owed = some c → exec (.broisTraining l bad ok) s =
          .next (pumpBrois (sendRec { r with recov := { r.recov with owed := none, holding := false } } .port 0 0x1007 c 0)))))) ∧
  (∀ s : State, let lost := fun (l : Nat) => getI s F.BRL_STAT_STATE 0 l < 4 && (linkOf s l).wasLost && 100000000 ≤ s.now - (linkOf s l).since
    ((lost 0 && lost 1 && s.recov.owed.isNone && !s.recov.holding) = false → exec .broisBothLost s = .next s) ∧
    ((lost 0 && lost 1 && s.recov.owed.isNone && !s.recov.holding) = true → ∃ y, y = holdAll s 2 0 ∧
      exec .broisBothLost s = .next { y with recov := { y.recov with owed := some 2 } }))

/-- Rests in part on R160, R162, R178, R181, R478, R479: answers from companion memory. MEM_RDATA ends read k: its bytes become the command that the queue
fetches, or a kept command that is read again; a refused read is counted, and its command takes no effect and ends with ST_DATA_POISON or ST_CMD_INVALID (TAG and OPCODE
of its record are free values, log entry 6). MEM_ACK ends write k: the completion's signal and interrupt, or the record's tail and
interrupt, follow the acknowledgement; a refused write is counted, with record 0x3301. What waited for credits goes on. -/
def Obligations.CompanionMemoryAnswers : Prop :=
  ∀ (k rstat : Nat) (s : State),
  (∀ data, s.cmd.reads[k]? = none → exec (.memRdata k rstat data) s = .next s) ∧
  (∀ data r, s.cmd.reads[k]? = some r →
    let x := { s with cmd := { s.cmd with reads := s.cmd.reads.eraseIdx k } }
    let x := setI x F.BRL_STAT_RD_OUT 0 r.link (getI x F.BRL_STAT_RD_OUT 0 r.link - 1)
    let e := countF x F.BRL_HOSTERR_RD_REFUSED 0 1
    let status := if rstat = 3 then ST_DATA_POISON else ST_CMD_INVALID
    (r.link = 2 → exec (.memRdata k rstat data) s = .next s) ∧
    (∀ n i, r.link ≠ 2 → r.what = .command n i → rstat = 0 → exec (.memRdata k rstat data) s =
      .next (pumpBrois (touchNext (modCq x n (fun q => { q with fetched := q.fetched ++ [{ idx := i, bytes := data }] })) n))) ∧
    (∀ n i, r.link ≠ 2 → r.what = .command n i → rstat ≠ 0 → exec (.memRdata k rstat data) s =
      .next (pumpBrois (touchNext (modCq (lostCmd e i status).2 n (fun q => { q with fetched := q.fetched ++ [(lostCmd e i status).1] })) n)) ∧
      (lostCmd e i status).1.bad = status ∧ (lostCmd e i status).1.idx = i ∧ (lostCmd e i status).2 = { e with free := e.free + 1 }) ∧
    (∀ n i, r.link ≠ 2 → r.what = .readmit n i → rstat = 0 → exec (.memRdata k rstat data) s =
      .next (pumpBrois (flushReadmit (modCq x n (fun q => { q with requests := q.requests.map (fun x =>
        if x.idx = i then { x with bytes := data, kept := 4 } else x) })) n 16))) ∧
    (∀ n i, r.link ≠ 2 → r.what = .readmit n i → rstat ≠ 0 → exec (.memRdata k rstat data) s =
      .next (pumpBrois (flushReadmit (completeIdx (modCq e n (fun q => { q with requests := q.requests.filter (fun x => x.idx != i) })) n i status 0) n 16)))) ∧
  (s.cmd.writes[k]? = none → exec (.memAck k rstat) s = .next s) ∧
  (∀ w, s.cmd.writes[k]? = some w →
    let x := { s with cmd := { s.cmd with writes := s.cmd.writes.eraseIdx k } }
    let y := if rstat = 3 || rstat = 4 then sendRec (countF x F.BRL_HOSTERR_WR_REFUSED 0 1) .port 0 0x3301 (w.link + rstat * 16) w.addr else x
    (w.link = 2 → exec (.memAck k rstat) s = .next s) ∧
    (w.link ≠ 2 → (w.what = .interrupt ∨ w.what = .data) → exec (.memAck k rstat) s = .next (pumpBrois y)) ∧
    (∀ n signal irq, w.link ≠ 2 → w.what = .completion n signal irq →
      let z := setI y F.GLB_CQ_STAT_INFLIGHT 0 n (getI y F.GLB_CQ_STAT_INFLIGHT 0 n - 1)
      let z := match signal with | some e => addEvc z e 1 | none => z
      exec (.memAck k rstat) s = .next (pumpBrois (if irq then sendIrq z (getI z F.GLB_CQ_CFG_VECTOR 0 n) else z))) ∧
    (∀ t irq, w.link ≠ 2 → w.what = .record t irq →
      let z := setF y F.GLB_EVR_TAIL_TAIL 0 (ackedTail y)
      exec (.memAck k rstat) s = .next (pumpBrois (if irq then sendIrq z (getF z F.GLB_EVR_CFG_VECTOR 0) else z))))

/-- Rests in part on R485, R487 to R489, R491, R492, R495 to R497, R499 to R501, R503: edge ports, their timers and connections. A training ends for a port that is neither disabled nor
in service: no mode, the test failed (record 0x1004), or in service (record 0x1004 when it had been in service before), and what waited leaves.
Uncorrectable codewords are counted; lock lost, or more of them than UNCORR_MAX, takes the port down, and its outstanding packets leave on other ports. A packet that is
unanswered for RTO, or ROCE_TMO for RoCEv2, is sent again, and its connection fails after its retries. An ACK goes 2 µs after the first packet that it owes. A limited rate
rises each 50 µs. A write of PRT_CONN_CTRL opens and closes; INVAL empties the rank cache. PFC pauses and releases; an address request for the port's own address is answered. -/
def Obligations.EdgePortsAndConnections : Prop :=
  (∀ (p : Fin 32) (s : State),
    ((getI s F.PRT_EPORT_CFG_MODE 0 p = 3 ∨ portUp s p = true) → ∀ e, exec (.edgePortTraining p e) s = .next s) ∧
    (getI s F.PRT_EPORT_CFG_MODE 0 p ≠ 3 → portUp s p = false →
      exec (.edgePortTraining p .noMode) s = .next (setI s F.PRT_EPORT_STAT_STATE 0 p 0) ∧
      exec (.edgePortTraining p .testFail) s =
        .next (sendRec (setI (setI s F.PRT_EPORT_STAT_STATE 0 p 0) F.PRT_EPORT_STAT_TEST_FAIL 0 p 1) .port 0 0x1004 (p + 2 ^ 30) 0) ∧
      (let x := setI (setI s F.PRT_EPORT_STAT_STATE 0 p 3) F.PRT_EPORT_STAT_TEST_FAIL 0 p 0
       let y := if (getD x.net.ports p {}).seen then sendRec x .port 0 0x1004 (p + 2 ^ 31) 0 else x
       let z := rehome { y with net := { y.net with ports := erase y.net.ports p } }
       exec (.edgePortTraining p .up) s = .next (portResetDone (retryOuts z (z.net.outst.length + 1)) 0 p))) ∧
    (portUp s p = false → (∀ n lock, exec (.edgePortDown p n lock) s = .next s) ∧ (∀ on off, exec (.pfcFrameReceive p on off) s = .next s) ∧
      ∀ v6 a, exec (.arpRequest p v6 a) s = .next s) ∧
    (portUp s p = true →
      (∀ n lock, let y := countLink (countI s F.PRT_EPORT_STAT_FEC_UNCORR 0 p n) p 0 n
        ((lock = false ∨ getI y F.PRT_EPORT_CFG_UNCORR_MAX 0 p < n) → exec (.edgePortDown p n lock) s = .next (portDown y p)) ∧
        (lock = true → n ≤ getI y F.PRT_EPORT_CFG_UNCORR_MAX 0 p → exec (.edgePortDown p n lock) s = .next y)) ∧
      (∀ on off, let e := getD s.net.ports p {}
        exec (.pfcFrameReceive p on off) s =
          .next { s with net := { s.net with ports := put s.net.ports p { e with paused := (e.paused ||| on) &&& ~~~off } {} } }) ∧
      (∀ (v6 : Bool) (a : BitVec 128),
        let own := if v6 then (rdReg s .PRT_ADDR6 0 0).toNat * 2 ^ 64 + (rdReg s .PRT_ADDR6 0 1).toNat else (rdReg s .PRT_ADDR4 0 0).toNat % 2 ^ 32
        (own ≠ 0 → a.toNat = own → exec (.arpRequest p v6 a) s = .next (sendFrame s p 0 (.arp v6 ((getF s F.PRT_MAC_BASE 0 + p) % 2 ^ 48)))) ∧
        ((own = 0 ∨ a.toNat ≠ own) → exec (.arpRequest p v6 a) s = .next s)))) ∧
  (∀ (k : Nat) (s : State),
    (s.net.outst[k]? = none → exec (.rtoExpiry k) s = .next s ∧ exec (.roceAckTimeout k) s = .next s) ∧
    (∀ o, s.net.outst[k]? = some o → let kind := (connOf s o.conn).kind
      ((o.sent = false ∨ kind = 1 ∨ s.now - o.since < getF s F.PRT_CST_CFG_RTO 0) → exec (.rtoExpiry k) s = .next s) ∧
      (o.sent = true → kind ≠ 1 → getF s F.PRT_CST_CFG_RTO 0 ≤ s.now - o.since →
        (getF s F.PRT_CST_CFG_RETRIES 0 + 1 ≤ o.tries → exec (.rtoExpiry k) s = .next (failConn s o.conn 0 0)) ∧
        (o.tries < getF s F.PRT_CST_CFG_RETRIES 0 + 1 → exec (.rtoExpiry k) s = .next (resendOut s o))) ∧
      (let due := 4096 * 2 ^ getF s F.PRT_CST_CFG_ROCE_TMO 0
       ((o.sent = false ∨ kind ≠ 1 ∨ (s.now - o.since) * 10 < due) → exec (.roceAckTimeout k) s = .next s) ∧
       (o.sent = true → kind = 1 → due ≤ (s.now - o.since) * 10 →
        (8 ≤ o.tries → exec (.roceAckTimeout k) s = .next (failConn s o.conn 0 0)) ∧
        (∀ x xs, o.tries < 8 → pairOuts s o.conn o.cres = x :: xs →
          exec (.roceAckTimeout k) s = .next (goBack s o.conn o.cres x.psn.toNat))))) ∧
    ((connOf s k).ackAt = none → exec (.ackTimerExpiry k) s = .next s) ∧
    (∀ t, (connOf s k).ackAt = some t → (s.now - t < 200 → exec (.ackTimerExpiry k) s = .next s) ∧
      (200 ≤ s.now - t → exec (.ackTimerExpiry k) s = .next (sendAck s k))) ∧
    ((rateOf s k).limit = none → exec (.rateRaise k) s = .next s) ∧
    (∀ l, (rateOf s k).limit = some l → let m := l + getF s F.PRT_CST_CFG_RATE_STEP 0 * 1000000000
      (s.now - (rateOf s k).noted < 5000 → exec (.rateRaise k) s = .next s) ∧
      (5000 ≤ s.now - (rateOf s k).noted → exec (.rateRaise k) s =
        .next (setRate s k { rateOf s k with limit := if lineRate s ≤ m then none else some m, noted := s.now })))) ∧
  (∀ (v : Word) (s : State), let n := getBits v 0 14
    let x := setF s F.PRT_CONN_CTRL_CONN 0 n
    let y := if getBits v 14 1 = 1 then openConn x n else x
    let z := showConn (if getBits v 15 1 = 1 then closeConn y n else y)
    (getBits v 14 1 = 1 → exec (.connOpen v) s = .next z) ∧ (getBits v 15 1 = 1 → exec (.connClose v) s = .next z) ∧
    (getBits v 14 1 ≠ 1 → exec (.connOpen v) s = .next s) ∧ (getBits v 15 1 ≠ 1 → exec (.connClose v) s = .next s)) ∧
  (∀ s : State, exec .inval s = .next { s with net := { s.net with ret := [] } })

/-- Rests in part on R220, R490, R492 to R495, R497, R498, R500, R501, R505: CST and RoCEv2 packets that arrive. A port that is down accepts none, and a packet that is not whole is only counted;
one marked for congestion makes the port tell its peer. A WRITE or READ_REQ of a peer is answered with NAK 2. READ_RESP acknowledges and answers its
outstanding read (a malformed payload poisons the page), or is counted as late. CST_ACK acknowledges; NAK fails the connection; CNP halves the rate.
COLL opens its hop, acknowledges, and a new one delivers its pennant. Of RoCEv2, read data, ACK, NAK and CNP act in the same way on their queue pair, going back to the
packet named by a sequence NAK; a request from outside is answered with a NAK for a remote access error.
Where the spec is silent, the model's choices are in log entries 118. -/
def Obligations.PacketsArrive : Prop :=
  (∀ (p : Fin 32) (k : CstPkt) (s : State) (i : Instr), i ∈ [Instr.cstWrite p k, .readReq p k, .readResp p k, .cstAck p k, .nak p k, .cnp p k, .coll p k] →
    (portUp s p = false → exec i s = .next s) ∧
    (portUp s p = true → k.good = false → exec i s = .next (countI s F.PRT_EPORT_STAT_BAD 0 p 1))) ∧
  (∀ (p : Fin 32) (k : CstPkt) (s : State), portUp s p = true → k.good = true →
    let n := rxKey k
    let x := if k.ce && (connOf s n).state == 1 then tellPeer s p (rateKey n 0) (.cst (cstTo s n 6)) else s
    let nak2 := sendFrame x p 0 (.cst { cstTo x n 5 with dst := k.src, psn := k.psn, tag := 2 })
    exec (.cstWrite p k) s = .next nak2 ∧ exec (.readReq p k) s = .next nak2 ∧
    exec (.nak p k) s = .next (failConn x n 1 k.tag) ∧
    ((connOf x n).state = 1 → exec (.cstAck p k) s = .next (resumeReads (acked x n (BitVec.ofNat 32 k.ack) k.bitmap)) ∧
      exec (.cnp p k) s = .next (notify x (rateKey n 0))) ∧
    ((connOf x n).state ≠ 1 → exec (.cstAck p k) s = .next x ∧ exec (.cnp p k) s = .next x) ∧
    (let y := acked x k.conn (BitVec.ofNat 32 k.ack) []
     let live' := (connOf x k.conn).state = 1 ∧ isHop n = false
     (¬ live' → exec (.readResp p k) s = .next x) ∧
     (live' → readFor y k = none → exec (.readResp p k) s = .next (countF y F.PRT_ELOG_DISC_LATE_RESP 0 1)) ∧
     (∀ o, live' → readFor y k = some o → exec (.readResp p k) s = .next (answerRead y o (expandPayload (connOf y k.conn).form o.len k)))) ∧
    ((k.penn = none ∨ isHop n = false ∨ (connOf x n).state = 2) → exec (.coll p k) s = .next x) ∧
    (∀ b, k.penn = some b → isHop n = true → (connOf x n).state ≠ 2 →
      let y := acked (modConn x n (fun c => { c with state := 1, peer := k.src })) n (BitVec.ofNat 32 k.ack) []
      let r := recvSeq y n (BitVec.ofNat 32 k.psn) k.ackreq
      (r.1 = true → exec (.coll p k) s = .next (pfcCheck { r.2 with coll := { r.2.coll with
        arrived := r.2.coll.arrived ++ [({ b with payload := k.payload }.onWire, .edge p k.src (BitVec.ofNat 32 k.psn))] } } p)) ∧
      (r.1 = false → exec (.coll p k) s = .next r.2))) ∧
  (∀ (p : Fin 32) (k : RocePkt) (s : State),
    (portUp s p = false → exec (.roceResponse p k) s = .next s ∧ exec (.roceInboundRequest p k) s = .next s) ∧
    (portUp s p = true → k.good = false → let y := countI s F.PRT_EPORT_STAT_BAD 0 p 1
      exec (.roceResponse p k) s = .next y ∧ exec (.roceInboundRequest p k) s = .next y) ∧
    (portUp s p = true → k.good = true →
      let n := (pairOf k.qpn).1
      let c := (pairOf k.qpn).2
      let live' := 0x100 ≤ k.qpn ∧ n < 16384 ∧ (connOf s n).state = 1 ∧ (connOf s n).kind = 1
      let x := if k.ce then tellPeer s p (rateKey n c) (.roce { op := .cnp, dst := (connOf s n).peer, qpn := (connOf s n).qpns.getD c 0 }) else s
      let y := roceAcked x n c k.psn
      let hit := (pairOuts y n c).find? (fun o => o.psn.toNat == k.psn && (match o.kind with | .read => true | _ => false))
      exec (.roceInboundRequest p k) s = .next (sendFrame s p 0 (.roce
        { op := .nakAccess, dst := k.src, qpn := (connOf s n).qpns.getD c 0, psn := k.psn })) ∧
      (¬ live' → exec (.roceResponse p k) s = .next s) ∧
      (live' →
        (k.kind = .cnp → exec (.roceResponse p k) s = .next (notify x (rateKey n c))) ∧
        (k.kind = .nak 0 → exec (.roceResponse p k) s = .next (goBack x n c k.psn)) ∧
        (∀ code, k.kind = .nak code → code ≠ 0 → exec (.roceResponse p k) s = .next (failConn x n (if code = 2 then 2 else 1) code)) ∧
        (k.kind = .ack → exec (.roceResponse p k) s = .next (retryOuts (resumeReads y) ((resumeReads y).net.outst.length + 1))) ∧
        (k.kind = .readData → hit = none → exec (.roceResponse p k) s = .next (countF y F.PRT_ELOG_DISC_LATE_RESP 0 1)) ∧
        (∀ o, k.kind = .readData → hit = some o → exec (.roceResponse p k) s =
          .next (answerRead y o (if k.payload.length = o.len then some k.payload else none))))))

/-- Rests in part on R481, R506 to R515: surface ports. A damaged packet is a replay; a good one returns credits, gives its own back, and is stream data of a binding (landed, or
counted when the binding does not receive on that sublink), a landing credit, which frees the slot and pays the sending tile, or a pennant. A whole landed transfer
is sent into the gateway when the tile has room, and its credit goes back. A training that ends well brings the sublink up with its peer's identity, clears its credits, tests the cabling
rule of the detour, asks for a return-loss measurement, sends what waited and records a sublink that had been lost (0x3402); a sublink that is lost goes the other way. A measurement, due
or asked for by NOW, reads every fibre. -/
def Obligations.SurfacePorts : Prop :=
  (∀ (f : Fin 48) (k : Fin 8) (x : SurfPkt) (s : State),
    (subActive s f k = false → exec (.surfacePacketReceive f k x) s = .next s) ∧
    (subActive s f k = true → x.good = false → exec (.surfacePacketReceive f k x) s =
      .next (countLink (countF s F.OPT_ERR_REPLAYS f 1) (32 + f) 0 1)) ∧
    (subActive s f k = true → x.good = true →
      let y := if x.credits = 0 then s else returnCredits s f k (x.credClass % 3) x.credits
      let own := if x.detour then f.val ^^^ 1 else f.val
      (x.kind = 1 → let z := creditFlit y f k 2
        ((getI z F.OPT_BIND_VALID_RX own x.bind = 0 ∨ x.bind / 2 ≠ k) → exec (.surfacePacketReceive f k x) s = .next (countF z F.OPT_ERR_BIND f 1)) ∧
        (getI z F.OPT_BIND_VALID_RX own x.bind ≠ 0 → x.bind / 2 = k → exec (.surfacePacketReceive f k x) s = .next (landStream z own x.bind x))) ∧
      (x.kind = 4 → exec (.surfacePacketReceive f k x) s = .next (landingCredit (creditFlit y f k 0) own k x)) ∧
      (∀ p, (x.kind = 2 ∨ x.kind = 3) → x.penn = some p → exec (.surfacePacketReceive f k x) s =
        .next { y with coll := { y.coll with arrived := y.coll.arrived ++ [({ p with payload := x.payload }.onWire, .surface f k)] } }) ∧
      ((x.kind = 2 ∨ x.kind = 3) → x.penn = none → exec (.surfacePacketReceive f k x) s = .next y))) ∧
  (∀ (f : Fin 48) (j : Fin 16) (s : State), let b := bindOf s f j
    ((b.rx = [] ∨ gateway s f (j / 2) = none) → exec (.rxInject f j) s = .next s) ∧
    (∀ x rest g, b.rx = x :: rest → gateway s f (j / 2) = some g →
      let may := getI s F.OPT_BIND_VALID_RX f j = 1 ∧ x.whole = true ∧ (getD (tileOf s g).e (14 + j % 2) 0 - (b.landed + 1)).toNat < 2 ^ 31
      let str := getI s F.OPT_BIND_RX_STREAM f j
      let y := x.inOrder.foldl (fun t z => inject t g
        { typ := tyStream, cls := getI s F.TIL_ROUTE_CLASS g str, routed := false, last := z.2.1, stream := str, addr := z.1, tag := x.tseq, payload := z.2.2 }) s
      (may → exec (.rxInject f j) s =
        .next (sendSurf (setBind y f j { b with rx := rest, landed := b.landed + 1 }) f (j / 2) { kind := 4, bind := j, tseq := x.tseq })) ∧
      (¬ may → exec (.rxInject f j) s = .next s))) ∧
  (∀ (f : Fin 48) (k : Fin 8) (e : TrainEnd) (x : PeerId) (s : State),
    (getI s F.OPT_SUB_STATE f k = 0 → exec (.sublinkLoss f k) s = .next s) ∧
    (getI s F.OPT_SUB_STATE f k ≠ 0 → exec (.sublinkLoss f k) s = .next (loseSub s f k)) ∧
    ((subActive s f k = true ∨ inService s f = false) → exec (.sublinkTraining f k e x) s = .next s) ∧
    (subActive s f k = false → inService s f = true →
      exec (.sublinkTraining f k .noMode x) s = .next s ∧
      exec (.sublinkTraining f k .testFail x) s = .next (sendRec s (.field f) 0 0x3402 (f + k * 2 ^ 8 + 2 ^ 30) (rdReg s .OPT_PEER f k).toNat) ∧
      (let a := setI (setI s F.OPT_SUB_STATE f k 4) F.OPT_SUB_HALF f k (if x.half then 1 else 0)
       let b := cabling (wrReg (setI (setI a F.OPT_SUB_PEER_PORT f k x.port) F.OPT_SUB_PEER_SUB f k x.sub) .OPT_PEER f k x.unitId) f k
       let c := if (subOf s f k).wasLost then sendRec b (.field f) 0 0x3402 (f + k * 2 ^ 8 + 2 ^ 31) x.unitId.toNat else b
       let d := setSub c f k { subOf c f k with used := [0, 0, 0], out := [], wasLost := false }
       let d := { d with net := { d.net with measureDue := put d.net.measureDue f true false } }
       let g := flushSub (showDetour (showDetour d f k) (f.val ^^^ 1) k) f k
       let h := if getI g F.OPT_SUB_DETOUR (f.val ^^^ 1) k = 1 then flushSub g (f.val ^^^ 1) k else g
       exec (.sublinkTraining f k .up x) s = .next (portResetDone (portCheck h f) 1 f)))) ∧
  (∀ (f : Fin 48) (m : List FibreRead) (s : State),
    let due := getD s.net.measureDue f false = true ∨
      (getF s F.OPT_RL_CFG_PERIOD f ≠ 0 ∧ getF s F.OPT_RL_CFG_PERIOD f * 100000000 ≤ s.now - getD s.net.measuredAt f 0)
    (inService s f = false → exec (.returnLossMeasure f m) s = .next s ∧ exec (.optNow f m) s = .next s) ∧
    (inService s f = true → exec (.optNow f m) s = .next (measure f m s) ∧
      (due → exec (.returnLossMeasure f m) s = .next (measure f m s)) ∧ (¬ due → exec (.returnLossMeasure f m) s = .next s)))

/-- Rests in part on R410, R518, R521 to R529, R538: the power controller. A sample sets its register to the mean over the last millisecond (rounded down, log entry 39) and the conditions that it decides: the
input its voltage, current and power, a record after 1 ms above 70 V, a stop after 10 µs above 72 V or two samples below 52 V; a blade's current the good blades; a rail its voltage, current and
power; a field's sensors its temperature, the sensors to be ignored, the halved rate, the switching off and the stop for heat; a stack its slowing and stop; the coolant its limits. A change of stage
is recorded (0x3000) and reaches the fields in six groups of 2 µs. A halved field is restored after 100 ms below 90 °C; the coolant is recorded (0x3005) once outside
a limit for 1 s and once back for 10 s. A stop that is due writes the last-breath record and leaves only what flash holds. -/
def Obligations.PowerController : Prop :=
  (∀ (v : Nat) (s : State), let p := s.power
    let a := sample { s with power :=
      { p with vin := v, vins := ((v :: p.vins.reverse).take 64).reverse, low := if v < 52000 then p.low + 1 else 0, highTold := p.highTold && (70000 < v && v ≤ 72000) } } 0 v
    let b := sample (setF a.2 F.PWR_IN_VIN 0 a.1) 1 (bladeSum (setF a.2 F.PWR_IN_VIN 0 a.1))
    let c := sample (setF b.2 F.PWR_IN_IIN 0 b.1) 2 (inputPower (setF b.2 F.PWR_IN_IIN 0 b.1))
    let x := setF c.2 F.PWR_IN_PIN 0 c.1
    let y := watchSupply (hold (hold (hold x cHigh (70000 < v && v ≤ 72000)) cOver (72000 < v)) cStart (56000 ≤ v))
    let z := if heldFor y cHigh 100000 && !y.power.highTold then sendRec { y with power := { y.power with highTold := true } } .power 0 0x3002 0 v else y
    let w := if heldFor z cOver 1000 then due z 3 else z
    (2 ≤ w.power.low → exec (.telemetrySample (.input v)) s = .next (due w 0)) ∧
    (w.power.low < 2 → exec (.telemetrySample (.input v)) s = .next w)) ∧
  (∀ (b : Fin 16) (i : Nat) (s : State), let a := sample { s with power := { s.power with blades := insert s.power.blades b i } } (8 + b) i
    exec (.telemetrySample (.blade b i)) s = .next (watchSupply (showBlades (setI a.2 F.PWR_BLADE_CURRENT 0 b (min a.1 4095))))) ∧
  (∀ (f : Fin 48) (v i : Nat) (s : State), let a := sample s (32 + 2 * f) v
    let b := sample a.2 (33 + 2 * f) i
    exec (.telemetrySample (.rail f v i)) s = .next (setF (setF (setF b.2 F.PWR_FLD_RAIL_V_CORE f a.1) F.PWR_FLD_RAIL_I_CORE f b.1)
      F.PWR_FLD_RAIL_P f (a.1 * b.1 / 10000))) ∧
  (∀ (f : Fin 48) (q : Word) (s : State), let x := wrReg s .PWR_FLD_TJ f 0 q
    let bad := badSensors (sensors x f)
    let was := getD x.power.badSens f 0
    let y := { x with power := { x.power with badSens := put x.power.badSens f ((bad.map (fun i => 2 ^ i)).sum) 0, blind := put x.power.blind f (2 < bad.length) false } }
    let z := (bad.filter (fun i => !Nat.testBit was i)).foldl (fun t i =>
      sendRec t .power 0 0x3004 (f + 2 ^ 8 + i * 2 ^ 12) (getF t F.PWR_FLD_TJ_TJ f / 2 ^ (16 * i) % 65536)) y
    exec (.telemetrySample (.tj f q)) s = .next (showHeld (showHalved (actHeat (setF z F.PWR_FLD_RAIL_GOOD_SENS f (4 - bad.length)) f) f))) ∧
  (∀ (c : Fin 4) (k : Fin 6) (t : BitVec 16) (s : State), let n := 6 * c.val + k.val
    let m := insert s.power.stackTj n t
    let top := (m.map (fun x => x.2.toInt)).foldl max t.toInt
    let x := hold (setF { s with power := { s.power with stackTj := m } } F.PWR_COOL_STACK_MAX 0 (BitVec.ofInt 16 top).toNat) (cStack n) (decide (t.toInt < 900))
    let slow := (getD x.power.stackSlow n false || decide (950 ≤ t.toInt)) && !heldFor x (cStack n) 10000000
    let y := { x with power := { x.power with stackSlow := put x.power.stackSlow n slow false } }
    (1050 ≤ t.toInt → exec (.telemetrySample (.stack c k t)) s = .next (due y 2)) ∧
    (t.toInt < 1050 → exec (.telemetrySample (.stack c k t)) s = .next y)) ∧
  (∀ (a b : BitVec 16) (q : Nat) (s : State), let x := setF (setF (setF s F.PWR_COOL_INLET 0 a.toNat) F.PWR_COOL_OUTLET 0 b.toNat) F.PWR_COOL_FLOW 0 q
    let out := inletHigh x || flowLow x
    exec (.telemetrySample (.coolant a b q)) s = .next (showHeld (hold (hold x cOut out) cIn (!out)))) ∧
  (∀ s : State, let c := getF s F.PWR_IN_STAGE 0
    let n := nextStage s
    let cause := if n < c then s.power.stageCause else (stageCauses s).idxOf true % 3
    let x := setF s F.PWR_IN_STAGE 0 n
    let y := { x with power := { x.power with stageAt := x.now, stageCause := cause,
                                              stretch := x.power.stretch ++ (List.range 6).map (fun g => (x.now + 200 * (g + 1), g, n)) } }
    ((n = c ∨ s.power.on = false) → exec .supplyStageChange s = .next s) ∧
    (n ≠ c → s.power.on = true → exec .supplyStageChange s =
      .next (sendRec y .power 0 0x3000 (n + c * 4 + cause * 16) (y.power.vin % 65536 + inputPower y * 65536)))) ∧
  (∀ (f : Fin 48) (s : State), let may := getD s.power.heat f false = true ∧ heldFor s (cCool f) 10000000 = true
    (may → exec (.heatRestore f) s = .next (sendRec (showHalved { s with power := { s.power with heat := erase s.power.heat f } } f) .power 0 0x3001 (f + 2 ^ 31)
      ((BitVec.ofInt 16 ((tjOf s f).getD 0)).toNat))) ∧
    (¬ may → exec (.heatRestore f) s = .next s)) ∧
  (∀ s : State, let d1 := getF s F.PWR_COOL_INLET 0 + getF s F.PWR_COOL_FLOW 0 * 65536
    let bits := (if inletHigh s then 1 else 0) + (if flowLow s then 2 else 0)
    (s.power.coolTold = false → heldFor s cOut second = true → exec .coolantLimit s =
      .next (sendRec { s with power := { s.power with coolTold := true } } .power 0 0x3005 bits d1)) ∧
    (s.power.coolTold = true → heldFor s cIn (10 * second) = true → exec .coolantLimit s =
      .next (sendRec { s with power := { s.power with coolTold := false } } .power 0 0x3005 (2 ^ 31) d1)) ∧
    (s.power.coolTold = false → heldFor s cOut second = false → exec .coolantLimit s = .next s) ∧
    (s.power.coolTold = true → heldFor s cIn (10 * second) = false → exec .coolantLimit s = .next s)) ∧
  (∀ (ok : Bool) (s : State),
    (s.power.stop = none → exec (.lastBreath ok) s = .next s) ∧
    (∀ c, s.power.stop = some c →
      let fl := if s.loader.staging then { s.power.flash with staging := { s.power.flash.staging with mark := false } } else s.power.flash
      let kept := if ok then { fl with breaths := fl.breaths ++ [{ bytes := breathBytes s c }] } else fl
      exec (.lastBreath ok) s = .next { State.reset with pending := s.pending, now := s.now, free := s.free,
                                                         tiers := { repairList := s.tiers.repairList }, power := { flash := kept } }))

/-- Rests in part on R525, R530 to R537, R540: wear gauges, plans and the ledger. A sweep reads the 16 gauges of a field in service, replaces the bad ones and counts the good. A plan is made each 600 s and moves the voltage
by 5 mV towards the margin's band, or to 850 mV with fewer than 12 good gauges; the first plan steps each 1 ms until its margin is in the band, the voltage is at an end or 40 steps have gone, and the field is
below 90 °C; it fails at 850 mV with a critical margin. A snapshot that is due is added to the journal, or its failure shown; LIF_SNAP_NOW and a write of the calendar ask for
one. Each second of a field in service counts in the band of its temperature; the module counts a cycle when its mean crosses from below 40 °C to above 70 °C. -/
def Obligations.WearAndLedger : Prop :=
  (∀ (f : Fin 48) (s : State),
    (inService s f = false → (∀ m, exec (.gaugeSweep f m) s = .next s) ∧ exec (.fieldPlan f) s = .next s ∧ exec (.firstPlan f) s = .next s ∧
      exec (.thermalBandCount f) s = .next s) ∧
    (inService s f = true →
      (∀ m, let x := (List.range 16).foldl (sweepGauge f m) s
        exec (.gaugeSweep f m) s = .next (setF x F.PWR_FLD_PLAN_GOOD_GAUGES f ((List.range 16).filter (fun g => getI x F.PWR_GAUGE_GOOD f g == 1)).length)) ∧
      (let timely := getD s.power.ready f false = true ∧ 600 * second ≤ s.now - getD s.power.plannedAt f 0
       (timely → exec (.fieldPlan f) s = .next (planStep s f (getF s F.PWR_FLD_PLAN_V_PLAN f))) ∧
       (¬ timely → exec (.fieldPlan f) s = .next s)) ∧
      (let may := getF s F.GLB_START_STAT_FRAME 0 ≠ 0 ∧ getD s.power.ready f false = false ∧ 100000 ≤ s.now - getD s.power.plannedAt f 0
       (¬ may → exec (.firstPlan f) s = .next s) ∧
       (may →
        let n := getD s.power.steps f 0
        let x := planStep s f (if n = 0 then firstVoltage s f else getF s F.PWR_FLD_PLAN_V_PLAN f)
        let v := getF x F.PWR_FLD_PLAN_V_PLAN f
        let m := marginOf x f
        let inBand := decide ((getF x F.PWR_CFG_M_LO 0 : Int) ≤ m ∧ m ≤ getF x F.PWR_CFG_M_HI 0)
        let cool := match tjOf x f with | some t => decide (t < 900) | none => true
        let ready := (inBand || v = 660 || v = 850 || 40 ≤ n + 1) && cool
        let bad := ready && v = 850 && decide (m < (getF x F.PWR_CFG_M_CRIT 0 : Int))
        exec (.firstPlan f) s = .next { x with power := { x.power with
          steps := put x.power.steps f (n + 1) 0, ready := put x.power.ready f ready false, failed := put x.power.failed f bad false } })) ∧
      (let last := getD s.power.countedAt f (getD s.fieldStart f 0)
       (s.now - last < second → exec (.thermalBandCount f) s = .next s) ∧
       (tjOf s f = none → exec (.thermalBandCount f) s = .next s) ∧
       (∀ t, second ≤ s.now - last → tjOf s f = some t →
        let m := meanTj s (List.range 48)
        let cold := decide (m.1 < 400 * m.2)
        let hot := decide (700 * (m.2 : Int) < m.1)
        let k := 8 * f + bandOf t
        let p := s.power
        exec (.thermalBandCount f) s = .next { s with power := { p with
          countedAt := insert p.countedAt f (last + second), wasCold := (p.wasCold || cold) && !hot,
          ledger := { p.ledger with bands := put p.ledger.bands k (getD p.ledger.bands k 0 + 1) 0,
                                    cycles := p.ledger.cycles + (if p.wasCold && hot then 1 else 0) } } })))) ∧
  (∀ (ok : Bool) (s : State),
    let asked := s.power.on = true ∧ (s.power.snapDue ≠ none ∨ 3600 * second ≤ s.now - s.power.snapAt)
    (¬ asked → exec (.ledgerSnapshot ok) s = .next s) ∧
    (asked → exec (.ledgerSnapshot false) s =
      .next (setF { s with power := { s.power with snapDue := none, snapAt := s.now } } F.LIF_SNAP_FAILED 0 1)) ∧
    (asked → let l := nextTotals s
      exec (.ledgerSnapshot true) s = .next (setF { s with power := { s.power with
        ledger := { l with powerOn := s.power.ledger.powerOn }, base := l, snapAt := s.now, snapDue := none,
        flash := { s.power.flash with journal := addSnap s.power.flash.journal (snapBytes l (s.power.snapDue.getD 0)) } } } F.LIF_SNAP_SEQ 0 l.seq))) ∧
  (∀ s : State, exec .lifSnapNow s = .next (askSnap s 1)) ∧
  (∀ (v : Word) (s : State), exec (.lifCalendarWrite v) s =
    .next (askSnap (setF (setF s F.LIF_CALENDAR_SECONDS 0 v.toNat) F.LIF_CAL_TICK_TICK 0 (portTicks s)) 1))

/-- Rests in part on R61 to R63, R76, R117, R118, R122, R123, R126, R130, R131, R171, R247, R265, R268, R356, R357: each event of a tile completes, with its
own effect, under conditions on the state and the operands alone. The expiry of a hang timer stops and fences the tile with FAULT 4.
An overdue RECV quiesces its tile, an overdue TSWAP or HOIST is told once, an overdue SGET ends. A stream packet in order lands behind its
RECV, and the last one ends it; pour data fills the fill half and its last packet seals it; an increment adds to its counter; a read request
puts its answer into the router; a write and an answer put their bytes into tile memory; a poison notice is handed to the page's owner.
RUN, QUIESCE, the end of a quiesce, and TIL_RESEND act.
Where the spec is silent, the model's choices are in log entries 17, 110, 111. -/
def Obligations.TileEventsComplete : Prop :=
  ∀ (s : State) (t : TileId),
    let g := t.gid
    let T := tileOf s g
    (∀ t0, (T.held = some t0 ∨ ∃ a, T.arr = some a ∧ a.since = t0) → getF s F.TIL_HANG_LIMIT g ≠ 0 → getF s F.TIL_HANG_LIMIT g ≤ s.now - t0 →
      timersHeld s g = false → ∃ u, exec (.hangTimerExpiry t) s = .next u ∧ getF u F.TIL_STATUS_FAULT g = 4 ∧
        getF u F.TIL_STATUS_RUNNING g = 0 ∧ getF u F.TIL_STATUS_FENCED g = 1 ∧ (tileOf u g).wait = none ∧ (tileOf u g).arr = none ∧ OtherTiles g s u) ∧
    (∀ stream base count since rep, T.wait = some ⟨.recv stream base count, since, rep⟩ → timersHeld s g = false →
      getF s F.FLD_STREAM_TMO_RECV_TMO (g / 700) ≠ 0 → getF s F.FLD_STREAM_TMO_RECV_TMO (g / 700) < s.now - since →
      ∃ u r, exec (.recvTimeout t) s = .next u ∧ u.cmd.records = s.cmd.records ++ [r] ∧ r.cause = 0x0300 ∧ r.status = ST_TIMEOUT ∧
        (tileOf u g).wait = none ∧ getF u F.TIL_STATUS_WAITKIND g = 0 ∧ getF u F.TIL_CTRL_QUIESCE g = 1 ∧ OtherTiles g s u) ∧
    (∀ since, getF s F.FLD_STREAM_TMO_TSWAP_TMO (g / 700) ≠ 0 → getF s F.FLD_STREAM_TMO_TSWAP_TMO (g / 700) < s.now - since → timersHeld s g = false →
      ∀ (i : Instr) (x : WaitFor), (i = .tswapTimeout t ∧ x = .tswap) ∨ (i = .hoistTimeout t ∧ ∃ gen, x = .hoist gen) → T.wait = some ⟨x, since, false⟩ →
        ∃ u r, exec i s = .next u ∧ u.cmd.records = s.cmd.records ++ [r] ∧ r.cause = 0x0301 ∧ r.status = ST_TIMEOUT ∧
          tileOf u g = { T with wait := some ⟨x, since, true⟩ } ∧ u.regs = s.regs ∧ OtherTiles g s u) ∧
    (∀ a since rep, T.wait = some ⟨.sget a, since, rep⟩ → getF s F.SMP_CFG_SGET_TMO (g / 700) ≠ 0 →
      getF s F.SMP_CFG_SGET_TMO (g / 700) < s.now - since → ∃ u, exec (.sgetTimeout t) s = .next u ∧ (tileOf u g).wait = none ∧
        (tileOf u g).mem = (stored T a (plainResult ST_TIMEOUT (getF s F.TIL_SAMPLE_SESSION g) (getF s F.TIL_SAMPLE_SEQ g) 0)).mem ∧ OtherTiles g s u) ∧
    (∀ k p, localPacket s g k = some p → let rest := T.localIn.eraseIdx k
      (∀ stream base count since rep, T.wait = some ⟨.recv stream base count, since, rep⟩ → p.typ = tyStream → p.stream = stream →
        let n := p.payload.length / 64
        p.addr = (getD T.rx stream {}).units → (getD T.rx stream {}).last = false → p.addr + n ≤ count → p.last = decide (p.addr + n = count) →
        ∃ u, exec (.streamPacketAccept t k) s = .next u ∧ (tileOf u g).mem = (stored T (base + 64 * p.addr) p.payload).mem ∧
          (tileOf u g).localIn = rest ∧ OtherTiles g s u ∧
          (p.last = false → (tileOf u g).wait = some ⟨.recv stream base count, s.now, rep⟩ ∧ getD (tileOf u g).rx stream {} = ⟨p.tag, p.addr + n, false⟩) ∧
          (p.last = true → (tileOf u g).wait = none ∧ getD (tileOf u g).rx stream {} = ⟨(p.tag + 1) % 65536, 0, false⟩)) ∧
      (isPour p = true → getF s F.TIL_STATUS_FENCED g = 0 → p.payload ≠ [] → T.wait = none → let f := 1 - getF s F.TIL_TUNDISH_DRAW g
        halfState s g f ≠ 2 → halfState s g f ≠ 3 → ∃ u, exec (.pourPacketLand t k) s = .next u ∧
          halfState u g f = (if p.last then 2 else 1) ∧ (tileOf u g).localIn = rest ∧ getF u F.TIL_TUNDISH_FILL_POUR g = p.tag % 65536 ∧
          (if f = 0 then (tileOf u g).half0 else (tileOf u g).half1) = wrBytes (if f = 0 then T.half0 else T.half1) (p.addr - 0x120000) p.payload ∧
          (tileOf u g).mem = T.mem ∧ OtherTiles g s u) ∧
      (p.typ = tyIncr → ∃ u, exec (.eventIncrementTile t k) s = .next u ∧
        getD (tileOf u g).e (p.addr % 16) 0 = getD T.e (p.addr % 16) 0 + p.amount ∧ (tileOf u g).localIn = rest ∧ OtherTiles g s u) ∧
      (p.typ = tyReadReq → T.memFlip = [] → ∃ u q, exec (.remoteReadRequest t k) s = .next u ∧ (tileOf u g).localIn = rest ∧
        getD (tileOf u g).input (portKey .local 0) [] = getD T.input (portKey .local 0) [] ++ [q] ∧ q.pkt.typ = tyReadResp ∧
        q.pkt.payload = tileBytes T p.addr p.units ∧ q.pkt.tag = p.tag ∧ q.pkt.dx = p.sx ∧ q.pkt.dy = p.sy ∧ OtherTiles g s u) ∧
      (p.typ = tyWrite → isPour p = false → ∃ u, exec (.remoteWriteRequest t k) s = .next u ∧ (tileOf u g).localIn = rest ∧
        (tileOf u g).mem = (stored T p.addr p.payload).mem ∧ OtherTiles g s u) ∧
      (p.typ = tyReadResp → p.poison = false → ∀ r, T.reads.find? (fun r => r.tag == p.tag) = some r →
        ∃ u, exec (.readResponseReceive t k) s = .next u ∧ (tileOf u g).localIn = rest ∧ (tileOf u g).mem = (stored T r.base p.payload).mem ∧
          (tileOf u g).reads = T.reads.filter (fun q => q.tag != p.tag) ∧ OtherTiles g s u)) ∧
    (∀ k n, s.notices[k]? = some n → (ptEntry s (n / 64)).poison = false → (∀ c ∈ s.tiers.changes, c.page ≠ n / 64) →
      ∃ u, exec (.poisonNotice k) s = .next u ∧ u.notices = s.notices.eraseIdx k ∧ u.regs = s.regs ∧ u.tiles = s.tiles ∧
        ∃ c, u.tiers = { s.tiers with changes := s.tiers.changes ++ [c] } ∧ c.page = n / 64 ∧ c.what = .poison (n % 64) 0) ∧
    (getF s F.TIL_STATUS_FENCED g = 0 →
      (getF s F.TIL_CTRL_QUIESCE g = 0 → getF s F.TIL_STATUS_BYPASS g = 0 → ∃ u, exec (.tilCtrlRun t true) s = .next u ∧ getF u F.TIL_CTRL_RUN g = 1 ∧
        getF u F.TIL_STATUS_RUNNING g = 1 ∧ getF u F.TIL_STATUS_FAULT g = 0 ∧ getF u F.TIL_STATUS_QUIESCED g = 0 ∧
        getF u F.TIL_STATUS_PC g = getF s F.TIL_STATUS_PC g ∧ u.tiles = s.tiles) ∧
      (∃ u, exec (.tilCtrlRun t false) s = .next u ∧ getF u F.TIL_CTRL_RUN g = 0 ∧ getF u F.TIL_STATUS_RUNNING g = 0 ∧ u.tiles = s.tiles) ∧
      (T.wait = none → T.fencing = none → ∃ u, exec (.tilCtrlQuiesce t true) s = .next u ∧ getF u F.TIL_CTRL_QUIESCE g = 1 ∧ u.tiles = s.tiles) ∧
      (∃ u, exec (.tilCtrlQuiesce t false) s = .next u ∧ getF u F.TIL_CTRL_QUIESCE g = 0 ∧ getF u F.TIL_STATUS_QUIESCED g = 0 ∧ u.tiles = s.tiles)) ∧
    (getF s F.TIL_STATUS_QUIESCED g = 0 → getF s F.TIL_CTRL_QUIESCE g = 1 → T.wait = none → pipesBusy T = false →
      ∃ u, exec (.quiesceComplete t) s = .next u ∧ getF u F.TIL_STATUS_QUIESCED g = 1 ∧ getF u F.TIL_STATUS_RUNNING g = 0 ∧ (tileOf u g).queues = []) ∧
    (∀ v : Word, let r := getD T.tx (getBits v 0 8) {}
      0 < r.count → r.count ≤ 64 → r.seq = getBits v 16 16 → T.memFlip = [] → ∃ u q, exec (.tilResend t v) s = .next u ∧
        getD (tileOf u g).input (portKey .local (getI s F.TIL_ROUTE_CLASS g (getBits v 0 8))) [] =
          getD T.input (portKey .local (getI s F.TIL_ROUTE_CLASS g (getBits v 0 8))) [] ++ [q] ∧
        q.pkt.stream = getBits v 0 8 ∧ q.pkt.tag = r.seq ∧ q.pkt.last = true ∧ q.pkt.payload = tileBytes T r.addr (64 * r.count) ∧
        (tileOf u g).tx = T.tx ∧ OtherTiles g s u)

/-- Rests in part on R124, R125, R128, R132, R134, R137, R138, R250: each event of a pour completes, with its own effect, under conditions on the state and
the operands alone. POUR opens a chain. The next descriptor of a chain, when it can be read, is valid and not empty, joins the pours of
the crescent that it names, and the chain goes on. A pour starts when its counter reaches its value; its chunk of least slack issues when
its bytes can be read. A pour whose chunks have all landed leaves the crescent when it needs no mark. A missed deadline is noted in the
descriptor. A stop halts a descriptor that has not completed, with one record. A cleared mark is free again.
Where the spec is silent, the model's choices are in log entries 119, 121, 122. -/
def Obligations.PoursComplete : Prop :=
  (∀ (n : Fin 64) (i : W32) (s : State) (c : Cmd), inflightCmd s n i = some c → c.run = false → c.opcode = 0x10 → cmdBad s n c = false →
    cmdEmpty c = false → ∃ u x, exec (.cmdPour n i) s = .next u ∧ u.chains = s.chains ++ [x] ∧ x.q = n.val ∧ x.idx = i ∧
      x.next = bodyF c 0 0 42 ∧ x.held = [] ∧ u.pours = s.pours ∧ u.regs = s.regs ∧ u.tiles = s.tiles) ∧
  (∀ (c : Fin 4) (k : Nat) (s : State) (x : PourChain), s.chains[k]? = some x → x.ended = false → x.next ≠ 0 →
    let r := readLogical s x.next 64
    let p : Pour := { addr := x.next, words := wordsOf r.2.1, order := (unitOf s c).nextOrder }
    r.1 = 0 → p.cres = c → (∀ y ∈ (unitOf s c).pours, y.addr ≠ x.next) → (unitOf s c).pours.length < 256 → pourBad p = false → pourEmpty p = false →
      ∃ u y, exec (.descriptorRead c k) s = .next u ∧ (unitOf u c).pours = (unitOf s c).pours ++ [p] ∧ u.chains[k]? = some y ∧
        y.next = p.w 2 0 42 ∧ y.ended = decide (y.next = 0) ∧ y.held = x.held ++ [x.next] ∧ y.seen = x.seen ++ [x.next]) ∧
  (∀ (c : Fin 4) (k : Nat) (s : State) (p : Pour), (unitOf s c).pours[k]? = some p →
    let becomes := fun (q : Pour) (u : State) => (unitOf u c).pours = (unitOf s c).pours.map (fun x => if x.addr = p.addr then q else x)
    (p.state = 1 → p.fallback ≠ 1 → p.start = none → evcReached s (p.w 5 32 16) (BitVec.ofNat 32 (p.w 6 0 32)) = true →
      ∃ u, exec (.pourStart c k) s = .next u ∧ becomes { p with start := some s.now, state := 2 } u ∧ u.chains = s.chains) ∧
    (chunkReady s c p = true → (∀ x ∈ (unitOf s c).pours, x.addr ≠ p.addr → chunkReady s c x = true → p.slack s < x.slack s) →
      chunkMissing s c p = [] → (readChunk s c p).1 = 0 → p.onAlt = false →
      ∃ u, exec (.chunkIssue c k) s = .next u ∧ becomes { p with progress := p.progress + 1, noRepl := [] } u ∧ u.chains = s.chains) ∧
    (p.state = 2 → p.hold = 0 → p.progress = p.total → pourInMesh s p.id = false → p.fell = false → p.statuses = [] →
      ∃ u, exec (.pourComplete c k) s = .next u ∧ (unitOf u c).pours = (unitOf s c).pours.filter (fun x => x.addr != p.addr)) ∧
    (p.deadline ≠ 0 → (∃ t, p.start = some t ∧ p.deadline < s.now - t) → p.progress < p.total → p.missed = false → p.hold = 0 → p.state = 2 →
      p.fallback = 0 → ∃ u, exec (.deadlineMiss c k) s = .next u ∧
        becomes { p with missed := true, statuses := p.statuses ++ [ST_DEADLINE_MISS] } u ∧ u.chains = s.chains)) ∧
  (∀ (c : Fin 4) (d : LAddr) (s : State) (p : Pour),
    (unitOf s c).pours.find? (fun p => p.addr == d.toNat / 64 * 64) = some p → p.state ≤ 2 →
    ∃ u q l r, exec (.stkPourStopGo c d) s = .next u ∧ q.addr = p.addr ∧ q.state = 3 ∧ q.cause = 4 ∧ q.progress = p.progress ∧
      (unitOf u c).pours = (unitOf s c).pours.map (fun x => if x.addr = p.addr then q else x) ∧
      u.cmd.records = l ++ [r] ∧ r.cause = 0x0302 ∧ r.d0 = 4 ∧ r.d1 = p.addr % 2 ^ 64) ∧
  (∀ (k : Fin 16) (s : State), (∀ c < 4, ∀ p ∈ (unitOf s c).pours, p.hold = 0) →
    ∃ u, exec (.glbMarkClear k) s = .next u ∧ getI u F.GLB_MARK_VALID 0 k = 0 ∧ RegsKept [regAddr .GLB_MARK 0 k] s u ∧ { u with regs := s.regs } = s)

/-- Rests in part on R294, R295, R299, R319, R327: the events of an adder complete, with their own effect, under conditions on the state and the operands
alone. A block that is the next of its stream, with no earlier one before it and room in the buffer, enters the buffer. DATA of a
reduce-scatter that is in turn and names the bound collective in its generation leaves its input, and its blocks go towards the adder
of their segment: the owner stage of a segment that this member owns. An adder whose inputs are all held, that agree about LAST, and that
the member's own block does not join, takes one block of each, unless the collective ends with it.
Where the spec is silent, the model's choices are in log entries 84, 118. -/
def Obligations.AddersComplete : Prop :=
  (∀ (a k : Nat) (s : State) (b : InBlock), (adderOf s a).incoming[k]? = some b →
    let d := adderOf s a
    let same := fun (i : RedIn) => i.chan == b.chan && i.segment == b.segment && i.sender == b.sender && i.low == b.low
    let i := (d.ins.find? same).getD { chan := b.chan, segment := b.segment, sender := b.sender, low := b.low, contrib := b.contrib }
    (∀ z ∈ d.incoming.take k, z.chan = b.chan → z.segment = b.segment → z.sender = b.sender → z.low ≠ b.low) → i.held.length < 64 →
    b.block.seq = i.next →
    (∀ j ∈ d.ins, j.chan = b.chan → j.segment = b.segment → ∀ h ∈ j.held, h.1.seq = b.block.seq → h.1.last = b.block.last) →
    ∃ u, exec (.adderBlockReceive a k) s = .next u ∧ (adderOf u a).incoming = d.incoming.eraseIdx k ∧
      (adderOf u a).ins = d.ins.filter (fun j => !same j) ++
        [{ i with next := i.next + 1, held := i.held ++ [(b.block, b.credit)], contrib := b.contrib }] ∧
      u.coll.arrived = s.coll.arrived ∧ u.regs = s.regs ∧ u.tiles = s.tiles ∧ u.tiers = s.tiers) ∧
  (∀ (k : Nat) (s : State) (p : Penn) (v : Via) (x : Chan), arrivedOf s k 1 = some (p, v) → dataInTurn s k p v = true →
    chanOf s p.chan = some x → x.names p = true → p.gen = x.gen → x.held = false → x.op = 0 → x.owner p.segment = x.me →
    readBlocks p.count p.payload ≠ [] → ∃ u l, exec (.pennantData k) s = .next u ∧ u.coll.arrived = s.coll.arrived.eraseIdx k ∧
      (adderOf u ownerStage).incoming = (adderOf s ownerStage).incoming ++ l ∧ (adderOf u ownerStage).ins = (adderOf s ownerStage).ins ∧
      l.map (·.block) = readBlocks p.count p.payload ∧
      (∀ b ∈ l, b.chan = x.num ∧ b.segment = p.segment ∧ b.sender = p.sender ∧ b.low = p.low ∧ b.contrib = p.contrib) ∧
      u.regs = s.regs ∧ u.tiles = s.tiles ∧ u.tiers = s.tiers) ∧
  (∀ (a : Nat) (s : State) (x : Chan) (seg : Nat) (ins : List RedIn) (cs : List Nat), readyAt s a = some (x, seg, ins) → chanOf s x.num = some x →
    a ≠ ownerStage → adderShare s x seg a = some (cs, false) →
    (∀ i ∈ ins, ∀ j ∈ ins, ∀ h g, i.held.head? = some h → j.held.head? = some g → h.1.last = g.1.last) →
    ∃ u, exec (.adderCombine a) s = .next u ∧ (chanOf u x.num ≠ none →
      (adderOf u a).ins = (adderOf s a).ins.map (fun i => if ins.contains i then { i with held := i.held.drop 1 } else i)))

/-- Rests in part on R324, R326, R328 to R331: every control pennant that names the bound collective, or asks for what the module knows, completes, with its
own effect, under conditions on the state and the operands alone; it leaves its input. DONE is noted with its sender and generation,
JOIN makes the child one that is fed, ACK ends the wait for its block, unless the collective ends with it. FINISH and ABORT end the
collective; STATE 1 restarts the wait on its sender; a QUERY for the bound collective is answered with STATE 1. A REFORM_REQ for a
generation that none forms starts one. A REFORM whose packets are all here, of a later generation and with no collective of its group
bound, is reported with record 0x2801. -/
def Obligations.ControlPennantsComplete : Prop :=
  ∀ (k : Nat) (s : State) (p : Penn) (v : Via),
  let taken := fun (u : State) => u.coll.arrived = s.coll.arrived.eraseIdx k
  (∀ x, chanOf s p.chan = some x → x.names p = true → x.num = p.chan →
    (arrivedOf s k 2 = some (p, v) → p.block < (x.childTx p.sender p.segment).next → ∃ u, exec (.pennantAck k) s = .next u ∧ taken u ∧
      ∀ y, chanOf u p.chan = some y → ∀ t ∈ y.childs, t.member = p.sender → t.segment = p.segment → ∀ e ∈ t.unacked, e.1 ≠ p.block) ∧
    (arrivedOf s k 5 = some (p, v) → ∃ u, exec (.pennantJoin k) s = .next u ∧ taken u ∧
      ∀ y, chanOf u p.chan = some y → ∃ t ∈ y.childs, t.member = p.sender ∧ t.segment = p.segment ∧ t.joined = true ∧ p.block ≤ t.next) ∧
    (arrivedOf s k 9 = some (p, v) → ∃ u, exec (.pennantDone k) s = .next u ∧ taken u ∧
      ∀ y, chanOf u p.chan = some y → (p.sender, p.gen) ∈ y.doneFrom) ∧
    (arrivedOf s k 10 = some (p, v) → ∃ u, exec (.pennantFinish k) s = .next u ∧ taken u ∧ chanOf u p.chan = none) ∧
    (arrivedOf s k 8 = some (p, v) → ∃ u, exec (.pennantAbort k) s = .next u ∧ taken u ∧ chanOf u p.chan = none) ∧
    (arrivedOf s k 4 = some (p, v) → p.block = 1 → ∃ u, exec (.pennantState k) s = .next u ∧ taken u ∧ chanOf u p.chan = some { x with
      waits := x.waits.map (fun w => if w.member = p.sender then { member := p.sender, since := s.now } else w)
      heldBy := x.heldBy.filter (fun e => e.1 != p.sender) }) ∧
    (arrivedOf s k 3 = some (p, v) → x.held = false → ∃ u, exec (.pennantQuery k) s = .next u ∧ taken u ∧
      u = sendBack (takePenn s k) v { x.penn 4 with block := 1 } ∧ u.coll.chans = s.coll.chans)) ∧
  (arrivedOf s k 6 = some (p, v) → (∀ f ∈ s.coll.forming, f.group = p.group → f.base ≠ p.gen) → ∃ u, exec (.reformReq k) s = .next u ∧ taken u ∧
    u.coll.forming = s.coll.forming ++ [{ group := p.group, base := p.gen, excl := indicesOf p.count p.payload, since := s.now }] ∧
    u.coll.chans = s.coll.chans ∧ u.regs = s.regs ∧ u.tiles = s.tiles) ∧
  (arrivedOf s k 7 = some (p, v) → (∀ f ∈ s.coll.formIn, f.group = p.group → f.gen ≠ p.gen) →
    (indicesOf p.count p.payload).length = p.contrib →
    let x := { s with coll := { s.coll with formIn := s.coll.formIn ++
      [{ group := p.group, gen := p.gen, total := p.contrib, packets := [(p.block, indicesOf p.count p.payload)] }] } }
    let q := knownGroup x p.group
    ∀ r d, q.1 ≠ 4 → q.2.1 = some (r, d) → d.gen < p.gen → (∀ c y, c < 16 → chanOf s c = some y → y.group ≠ d.id) →
      ∃ u l e, exec (.reform k) s = .next u ∧ taken u ∧ u.coll.chans = s.coll.chans ∧ u.cmd.records = l ++ [e] ∧ e.cause = 0x2801 ∧
        e.d0 = (d.id + p.gen % 65536 * 65536) % 2 ^ 32)

/-- Rests in part on R323, R326, R328 to R330: the timers of collectives complete, with their own effect, under conditions on the state and the operands
alone. The query timer, where a path reaches the member, marks the wait as queried. A member that does not answer, whose block goes
unacknowledged, or that holds for too long is declared failed: its wait ends and it is named for exclusion in a request or a forming of
its generation, where another live member remains. An idle member ends the collective. After the settling time a re-form is sent and
reported with record 0x2801, where no collective of its group is bound here. An unanswered request passes to the next live member. An
old entry of the abort table expires. -/
def Obligations.CollectiveTimersComplete : Prop :=
  ∀ (k : Nat) (s : State),
  (∀ x w, waitAt s k = some (x, w) → x.held = false →
    let others := (s.coll.requests.find? (fun r => r.group == x.group && r.base == x.gen)).elim [] (·.excl)
    let declared := fun (m : Nat) (u : State) => ∃ y, chanOf u (k % 16) = some y ∧ y.waits = x.waits.filter (fun z => z.member != m) ∧
      y.gen = x.gen ∧ y.group = x.group ∧ m ∈ pendingExcl u y
    let open_ := fun (m : Nat) => (∀ f ∈ s.coll.forming, f.group = x.group → f.base ≠ x.gen) ∧ ∃ l ∈ x.live, l ≠ m ∧ l ∉ others
    (w.queried = none → collTmo s / 2 ≤ s.now - w.since → (sendRank s (x.ranks.getD w.member 0) (x.penn 3)).1 = true →
      ∃ u, exec (.queryTimerExpiry k) s = .next u ∧ chanOf u (k % 16) = some { x with waits := x.waits.map (fun z =>
        if z.member = w.member then { z with queried := some s.now } else z) }) ∧
    (w.queried ≠ none → w.idle = none → x.heldSince w.member = none → collTmo s ≤ s.now - w.since → open_ w.member →
      ∃ u, exec (.collectiveTimeout k) s = .next u ∧ declared w.member u) ∧
    (∀ t, x.heldSince w.member = some t → groupTmo s ≤ s.now - t → open_ w.member →
      ∃ u, exec (.groupTimeout k) s = .next u ∧ declared w.member u) ∧
    (∀ t, x.heldSince w.member = none → w.idle = some t → groupTmo s ≤ s.now - t →
      ∃ u, exec (.groupTimeout k) s = .next u ∧ chanOf u (k % 16) = none) ∧
    (∀ t e, t ∈ x.childs → t.member = k / 16 → e ∈ t.unacked → hopTmo s ≤ s.now - e.2 → unsentTo s x (k / 16) t.segment e.1 = false →
      x.heldSince (k / 16) = none → k / 16 ∉ pendingExcl s x → open_ (k / 16) → ∃ u, exec (.hopTimeout k) s = .next u ∧ declared (k / 16) u)) ∧
  (∀ f, s.coll.forming[k]? = some f → f.sent = false → collTmo s / 4 ≤ s.now - f.since → let g := knownGroup s f.group
    ∀ r d, g.2.1 = some (r, d) → d.gen ≤ f.base → (∀ c y, c < 16 → chanOf s c = some y → y.group ≠ d.id) →
      ∃ u l e, exec (.settleTimeExpiry k) s = .next u ∧ u.coll.chans = s.coll.chans ∧
        u.coll.forming = s.coll.forming.map (fun z => if z = f then { f with sent := true } else z) ∧
        u.cmd.records = l ++ [e] ∧ e.cause = 0x2801 ∧ e.d0 = (d.id + (f.base + 1) % 65536 * 65536) % 2 ^ 32) ∧
  (∀ r, s.coll.requests[k]? = some r → collTmo s ≤ s.now - r.since → let g := knownGroup s r.group
    ∀ e d, g.1 ≠ 4 → g.2.1 = some (e, d) → d.gen ≤ r.base → ∀ l ls, d.live.filter (fun m => !r.excl.contains m && r.leader < m) = l :: ls → l ≠ e.me →
      ∃ u, exec (.reformReqTimeout k) s = .next u ∧ u.coll.chans = s.coll.chans ∧ u.coll.requests =
        (s.coll.requests.eraseIdx k).filter (fun q => !(q.group == r.group && q.base == r.base)) ++
          [{ group := r.group, base := r.base, excl := r.excl, leader := l, since := s.now }]) ∧
  (∀ a, s.coll.aborts[k]? = some a → groupTmo s ≤ s.now - a.since →
    ∃ u, exec (.abortEntryExpiry k) s = .next u ∧ u.coll.aborts = s.coll.aborts.eraseIdx k ∧ u.regs = s.regs ∧ u.tiles = s.tiles ∧
      u.coll.chans = s.coll.chans)
end

