-- ==== Sys2Proof/Laws/Assoc.lean ====
section
/-! SUPPORT. The laws of sparse stores: reading after writing, and that every operation keeps the canonical form. -/
namespace Sys2Proof.Machine

variable {α : Type}

/-! ### Reading after writing -/

@[simp] theorem find_insert_same (m : Assoc α) (k : Nat) (v : α) : find (insert m k v) k = some v := by
  induction m with
  | nil => simp [insert, find]
  | cons e m ih =>
    obtain ⟨j, w⟩ := e
    simp only [insert]
    split
    · simp [find]
    · split
      · simp [find]
      · simp [find, *]

theorem find_insert_ne (m : Assoc α) {k j : Nat} (v : α) (h : j ≠ k) : find (insert m k v) j = find m j := by
  induction m with
  | nil => simp [insert, find, h]
  | cons e m ih =>
    obtain ⟨i, w⟩ := e
    simp only [insert]
    split
    · next hk => subst hk; simp [find, h]
    · split
      · simp [find, h]
      · simp only [find, ih]

@[simp] theorem find_erase_same (m : Assoc α) (k : Nat) : find (erase m k) k = none := by
  induction m with
  | nil => rfl
  | cons e m ih =>
    obtain ⟨i, w⟩ := e
    simp only [erase]
    split
    · exact ih
    · next hk => simp [find, hk, ih]

theorem find_erase_ne (m : Assoc α) {k j : Nat} (h : j ≠ k) : find (erase m k) j = find m j := by
  induction m with
  | nil => rfl
  | cons e m ih =>
    obtain ⟨i, w⟩ := e
    simp only [erase]
    split
    · next hk => subst hk; simp [find, h, ih]
    · simp only [find, ih]

@[simp] theorem getD_put_same [DecidableEq α] (m : Assoc α) (k : Nat) (v d : α) : getD (put m k v d) k d = v := by
  unfold put getD
  split
  · next h => simp [h]
  · simp

theorem find_put_ne [DecidableEq α] (m : Assoc α) {k j : Nat} (v d : α) (h : j ≠ k) : find (put m k v d) j = find m j := by
  unfold put
  split
  · exact find_erase_ne m h
  · exact find_insert_ne m v h

theorem getD_put_ne [DecidableEq α] (m : Assoc α) {k j : Nat} (v d e : α) (h : j ≠ k) :
    getD (put m k v d) j e = getD m j e := by
  simp [getD, find_put_ne m v d h]

@[simp] theorem getD_insert_same (m : Assoc α) (k : Nat) (v d : α) : getD (insert m k v) k d = v := by
  simp [getD]

theorem getD_insert_ne (m : Assoc α) {k j : Nat} (v d : α) (h : j ≠ k) : getD (insert m k v) j d = getD m j d := by
  simp [getD, find_insert_ne m v h]

@[simp] theorem getD_nil (k : Nat) (d : α) : getD ([] : Assoc α) k d = d := rfl
@[simp] theorem find_nil (k : Nat) : find ([] : Assoc α) k = none := rfl

/-! ### The canonical form -/

/-- The keys of a store, each above `k`. -/
theorem sortedKeys_cons (k : Nat) (v : α) (m : Assoc α) :
    sortedKeys ((k, v) :: m) = true ↔ (∀ e ∈ m, k < e.1) ∧ sortedKeys m = true := by
  induction m generalizing k v with
  | nil => simp [sortedKeys]
  | cons e m ih =>
    obtain ⟨j, w⟩ := e
    simp only [sortedKeys, Bool.and_eq_true, decide_eq_true_eq]
    constructor
    · rintro ⟨h, hm⟩
      refine ⟨?_, hm⟩
      intro e he
      rcases List.mem_cons.1 he with rfl | he
      · exact h
      · exact Nat.lt_trans h (((ih j w).1 hm).1 e he)
    · rintro ⟨h, hm⟩
      exact ⟨h (j, w) (by simp), hm⟩

theorem mem_insert (m : Assoc α) (k : Nat) (v : α) (e : Nat × α) (h : e ∈ insert m k v) : e = (k, v) ∨ e ∈ m := by
  induction m with
  | nil => simpa [insert] using h
  | cons x m ih =>
    obtain ⟨j, w⟩ := x
    simp only [insert] at h
    split at h
    · rcases List.mem_cons.1 h with h | h
      · exact .inl h
      · exact .inr (by simp [h])
    · split at h
      · exact (List.mem_cons.1 h)
      · rcases List.mem_cons.1 h with h | h
        · exact .inr (by simp [h])
        · exact (ih h).imp id (fun h => by simp [h])

theorem mem_erase (m : Assoc α) (k : Nat) (e : Nat × α) (h : e ∈ erase m k) : e ∈ m := by
  induction m with
  | nil => exact h
  | cons x m ih =>
    obtain ⟨j, w⟩ := x
    simp only [erase] at h
    split at h
    · simp [ih h]
    · rcases List.mem_cons.1 h with h | h
      · simp [h]
      · simp [ih h]

theorem sortedKeys_insert (m : Assoc α) (k : Nat) (v : α) (h : sortedKeys m = true) : sortedKeys (insert m k v) = true := by
  induction m with
  | nil => rfl
  | cons x m ih =>
    obtain ⟨j, w⟩ := x
    obtain ⟨hj, hm⟩ := (sortedKeys_cons j w m).1 h
    simp only [insert]
    split
    · next hk => subst hk; exact (sortedKeys_cons k v m).2 ⟨hj, hm⟩
    · split
      · next hk =>
        refine (sortedKeys_cons _ _ _).2 ⟨?_, h⟩
        intro e he
        rcases List.mem_cons.1 he with rfl | he
        · exact hk
        · exact Nat.lt_trans hk (hj e he)
      · next h1 h2 =>
        refine (sortedKeys_cons _ _ _).2 ⟨?_, ih hm⟩
        intro e he
        rcases mem_insert m k v e he with rfl | he
        · exact Nat.lt_of_le_of_ne (Nat.le_of_not_lt h2) (fun h => h1 h.symm)
        · exact hj e he

theorem sortedKeys_erase (m : Assoc α) (k : Nat) (h : sortedKeys m = true) : sortedKeys (erase m k) = true := by
  induction m with
  | nil => rfl
  | cons x m ih =>
    obtain ⟨j, w⟩ := x
    obtain ⟨hj, hm⟩ := (sortedKeys_cons j w m).1 h
    simp only [erase]
    split
    · exact ih hm
    · exact (sortedKeys_cons _ _ _).2 ⟨fun e he => hj e (mem_erase m k e he), ih hm⟩

theorem canon_put [DecidableEq α] (m : Assoc α) (k : Nat) (v d : α) (h : canon d m = true) : canon d (put m k v d) = true := by
  simp only [canon, Bool.and_eq_true, List.all_eq_true, decide_eq_true_eq] at h ⊢
  unfold put
  split
  · exact ⟨sortedKeys_erase m k h.1, fun e he => h.2 e (mem_erase m k e he)⟩
  · next hv =>
    refine ⟨sortedKeys_insert m k v h.1, fun e he => ?_⟩
    rcases mem_insert m k v e he with rfl | he
    · exact hv
    · exact h.2 e he

theorem sortedKeys_filter (m : Assoc α) (p : Nat × α → Bool) (h : sortedKeys m = true) : sortedKeys (m.filter p) = true := by
  induction m with
  | nil => rfl
  | cons x m ih =>
    obtain ⟨j, w⟩ := x
    obtain ⟨hj, hm⟩ := (sortedKeys_cons j w m).1 h
    simp only [List.filter_cons]
    split
    · exact (sortedKeys_cons _ _ _).2 ⟨fun e he => hj e (List.mem_filter.1 he).1, ih hm⟩
    · exact ih hm

theorem sortedKeys_filterMap (m : Assoc α) (f : Nat × α → Option (Nat × α)) (hf : ∀ e b, f e = some b → b.1 = e.1)
    (h : sortedKeys m = true) : sortedKeys (m.filterMap f) = true := by
  induction m with
  | nil => rfl
  | cons x m ih =>
    obtain ⟨j, w⟩ := x
    obtain ⟨hj, hm⟩ := (sortedKeys_cons j w m).1 h
    simp only [List.filterMap_cons]
    split
    · exact ih hm
    · next b hb =>
      obtain ⟨i, v⟩ := b
      refine (sortedKeys_cons _ _ _).2 ⟨fun e he => ?_, ih hm⟩
      obtain ⟨y, hy, hey⟩ := List.mem_filterMap.1 he
      rw [hf _ _ hey, show i = j from hf _ _ hb]
      exact hj y hy

theorem canon_filter [DecidableEq α] (m : Assoc α) (d : α) (p : Nat × α → Bool) (h : canon d m = true) :
    canon d (m.filter p) = true := by
  simp only [canon, Bool.and_eq_true, List.all_eq_true] at h ⊢
  exact ⟨sortedKeys_filter m p h.1, fun e he => h.2 e (List.mem_filter.1 he).1⟩

/-! ### Byte memories -/

theorem rdByte_wrByte_same (m : Memory) (a : Nat) (v : Byte) : rdByte (wrByte m a v) a = v :=
  getD_put_same m a v 0

theorem rdByte_wrByte_ne (m : Memory) {a b : Nat} (v : Byte) (h : b ≠ a) : rdByte (wrByte m a v) b = rdByte m b :=
  getD_put_ne m v 0 0 h

/-- A byte outside the bytes written reads as before. -/
theorem rdByte_wrBytes_ne (bs : List Byte) (m : Memory) (a b : Nat) (h : b < a ∨ a + bs.length ≤ b) :
    rdByte (wrBytes m a bs) b = rdByte m b := by
  induction bs generalizing m a with
  | nil => rfl
  | cons v bs ih =>
    simp only [wrBytes]
    rw [ih _ _ (by simp at h; omega), rdByte_wrByte_ne m v (by simp at h; omega)]

/-- Byte `i` of the bytes written reads as it was written. -/
theorem rdByte_wrBytes_at (bs : List Byte) (m : Memory) (a i : Nat) (h : i < bs.length) :
    rdByte (wrBytes m a bs) (a + i) = bs[i] := by
  induction bs generalizing m a i with
  | nil => simp at h
  | cons v bs ih =>
    simp only [wrBytes]
    cases i with
    | zero => rw [rdByte_wrBytes_ne _ _ _ _ (by omega)]; simpa using rdByte_wrByte_same m a v
    | succ i =>
      have := ih (wrByte m a v) (a + 1) i (by simpa using h)
      rw [show a + (i + 1) = a + 1 + i by omega]
      simpa using this

theorem Memory.wf_wrByte (m : Memory) (a : Nat) (v : Byte) (h : Memory.wf m = true) : Memory.wf (wrByte m a v) = true :=
  canon_put m a v 0 h

/-- Every memory operation keeps the canonical form: all of them write through this one. -/
theorem Memory.wf_wrBytes (bs : List Byte) (m : Memory) (a : Nat) (h : Memory.wf m = true) :
    Memory.wf (wrBytes m a bs) = true := by
  induction bs generalizing m a with
  | nil => exact h
  | cons v bs ih => exact ih _ _ (Memory.wf_wrByte m a v h)

theorem Memory.wf_filter (m : Memory) (p : Host.Cell → Bool) (h : Memory.wf m = true) : Memory.wf (m.filter p) = true :=
  canon_filter m 0 p h

theorem Memory.wf_nil : Memory.wf [] = true := rfl

theorem clearRegs_sorted (m : Assoc Word) (scope : Nat → Bool) (keep : RegName → Word) (h : sortedKeys m = true) :
    sortedKeys (clearRegs m scope keep) = true := by
  unfold clearRegs
  refine sortedKeys_filterMap m _ ?_ h
  intro e b hb
  dsimp only at hb
  split at hb
  · cases hb; rfl
  · split at hb
    · split at hb
      · cases hb; rfl
      · split at hb
        · cases hb
        · cases hb; rfl
    · cases hb; rfl

end Sys2Proof.Machine
end

