-- ==== Sys2Proof/Laws/Regs.lean ====
section
/-! SUPPORT. The laws of register words and their fields. -/
namespace Sys2Proof.Machine

/-! ### Fields of a word -/

theorem getBits_lt (w : Word) (lo n : Nat) : getBits w lo n < 2 ^ n := Nat.mod_lt _ (Nat.two_pow_pos n)

/-- A field of a number replaced: what lies above, the new value, what lies below. -/
theorem split_field (x lo n : Nat) :
    x = x / 2 ^ (lo + n) * 2 ^ (lo + n) + x / 2 ^ lo % 2 ^ n * 2 ^ lo + x % 2 ^ lo := by
  have h1 := Nat.div_add_mod x (2 ^ lo)
  have h2 := Nat.div_add_mod (x / 2 ^ lo) (2 ^ n)
  rw [Nat.div_div_eq_div_mul, ← Nat.pow_add] at h2
  calc x = 2 ^ lo * (x / 2 ^ lo) + x % 2 ^ lo := h1.symm
    _ = 2 ^ lo * (2 ^ n * (x / 2 ^ (lo + n)) + x / 2 ^ lo % 2 ^ n) + x % 2 ^ lo := by rw [h2]
    _ = _ := by rw [Nat.pow_add]; ring

theorem toNat_setBits (w : Word) (lo n v : Nat) (h : lo + n ≤ 64) :
    (setBits w lo n v).toNat =
      w.toNat / 2 ^ (lo + n) * 2 ^ (lo + n) + v % 2 ^ n * 2 ^ lo + w.toNat % 2 ^ lo := by
  have hs := split_field w.toNat lo n
  have hv : v % 2 ^ n < 2 ^ n := Nat.mod_lt _ (Nat.two_pow_pos n)
  have hl : w.toNat % 2 ^ lo < 2 ^ lo := Nat.mod_lt _ (Nat.two_pow_pos lo)
  have hw := w.isLt
  have hh : w.toNat / 2 ^ (lo + n) < 2 ^ (64 - (lo + n)) := by
    rw [Nat.div_lt_iff_lt_mul (Nat.two_pow_pos _), ← Nat.pow_add, Nat.sub_add_cancel h]; exact hw
  have hb : v % 2 ^ n * 2 ^ lo + w.toNat % 2 ^ lo < 2 ^ (lo + n) := by
    have : v % 2 ^ n * 2 ^ lo + 2 ^ lo ≤ 2 ^ n * 2 ^ lo := by
      rw [← Nat.succ_mul]; exact Nat.mul_le_mul_right _ hv
    rw [Nat.pow_add, Nat.mul_comm (2 ^ lo)]; omega
  have ht : w.toNat / 2 ^ (lo + n) * 2 ^ (lo + n) + 2 ^ (lo + n) ≤ 2 ^ 64 := by
    rw [← Nat.succ_mul]
    calc _ ≤ 2 ^ (64 - (lo + n)) * 2 ^ (lo + n) := Nat.mul_le_mul_right _ hh
      _ = 2 ^ 64 := by rw [← Nat.pow_add, Nat.sub_add_cancel h]
  unfold setBits
  rw [BitVec.toNat_ofNat, Nat.mod_eq_of_lt]
  · unfold getBits; omega
  · unfold getBits; omega

theorem getBits_setBits_same (w : Word) (lo n v : Nat) (h : lo + n ≤ 64) : getBits (setBits w lo n v) lo n = v % 2 ^ n := by
  have hl : w.toNat % 2 ^ lo < 2 ^ lo := Nat.mod_lt _ (Nat.two_pow_pos lo)
  unfold getBits
  rw [toNat_setBits w lo n v h, Nat.pow_add, Nat.mul_comm (2 ^ lo) (2 ^ n), ← Nat.mul_assoc, ← Nat.add_mul,
    Nat.add_comm, Nat.add_mul_div_right _ _ (Nat.two_pow_pos lo), Nat.div_eq_of_lt hl, Nat.zero_add, Nat.add_comm,
    Nat.add_mul_mod_self_right, Nat.mod_mod]

theorem getBits_setBits_below (w : Word) (lo n v l m : Nat) (h : lo + n ≤ 64) (hd : l + m ≤ lo) :
    getBits (setBits w lo n v) l m = getBits w l m := by
  have key : ∀ x : Nat, x / 2 ^ l % 2 ^ m = x % 2 ^ lo / 2 ^ l % 2 ^ m := by
    intro x
    have h1 : x % 2 ^ (l + m) = x % 2 ^ lo % 2 ^ (l + m) := (Nat.mod_mod_of_dvd x (Nat.pow_dvd_pow 2 hd)).symm
    have h2 : ∀ y : Nat, y / 2 ^ l % 2 ^ m = y % 2 ^ (l + m) / 2 ^ l := by
      intro y; rw [Nat.pow_add, Nat.mod_mul_right_div_self]
    rw [h2, h2 (x % 2 ^ lo), h1]
  unfold getBits
  rw [key, key w.toNat, toNat_setBits w lo n v h, Nat.pow_add, ← Nat.mul_assoc, Nat.mul_right_comm, ← Nat.add_mul,
    Nat.add_comm, Nat.add_mul_mod_self_right, Nat.mod_mod]

theorem getBits_setBits_above (w : Word) (lo n v l m : Nat) (h : lo + n ≤ 64) (hd : lo + n ≤ l) :
    getBits (setBits w lo n v) l m = getBits w l m := by
  have hv : v % 2 ^ n < 2 ^ n := Nat.mod_lt _ (Nat.two_pow_pos n)
  have hl : w.toNat % 2 ^ lo < 2 ^ lo := Nat.mod_lt _ (Nat.two_pow_pos lo)
  have hb : v % 2 ^ n * 2 ^ lo + w.toNat % 2 ^ lo < 2 ^ (lo + n) := by
    have : v % 2 ^ n * 2 ^ lo + 2 ^ lo ≤ 2 ^ n * 2 ^ lo := by
      rw [← Nat.succ_mul]; exact Nat.mul_le_mul_right _ hv
    rw [Nat.pow_add, Nat.mul_comm (2 ^ lo)]; omega
  have key : ∀ x : Nat, x / 2 ^ l = x / 2 ^ (lo + n) / 2 ^ (l - (lo + n)) := by
    intro x; rw [Nat.div_div_eq_div_mul, ← Nat.pow_add, Nat.add_sub_cancel' hd]
  unfold getBits
  rw [key, key w.toNat, toNat_setBits w lo n v h, Nat.add_assoc, Nat.add_comm,
    Nat.add_mul_div_right _ _ (Nat.two_pow_pos _), Nat.div_eq_of_lt hb, Nat.zero_add]

/-! ### Registers -/

@[simp] theorem rdReg_wrReg_same (s : State) (r : RegName) (u i : Nat) (v : Word) : rdReg (wrReg s r u i v) r u i = v := by
  simp [rdReg, wrReg]

theorem rdReg_wrReg_ne (s : State) (r q : RegName) (u i x j : Nat) (v : Word) (h : regAddr q x j ≠ regAddr r u i) :
    rdReg (wrReg s r u i v) q x j = rdReg s q x j := by
  simp [rdReg, wrReg, getD_put_ne _ _ _ _ h]

/-- The field lies in the word. -/
abbrev Fld.fits (f : Fld) : Prop := f.lo + f.w ≤ 64

theorem getI_setI_same (s : State) (f : Fld) (u i v : Nat) (h : f.fits) : getI (setI s f u i v) f u i = v % 2 ^ f.w := by
  simp [getI, setI, getBits_setBits_same _ _ _ _ h]

/-- Another field of the same register. -/
theorem getI_setI_other (s : State) (f e : Fld) (u i v : Nat) (hr : e.reg = f.reg) (h : f.fits)
    (hd : e.lo + e.w ≤ f.lo ∨ f.lo + f.w ≤ e.lo) : getI (setI s f u i v) e u i = getI s e u i := by
  unfold getI setI
  rw [hr, rdReg_wrReg_same]
  rcases hd with hd | hd
  · exact getBits_setBits_below _ _ _ _ _ _ h hd
  · exact getBits_setBits_above _ _ _ _ _ _ h hd

/-- A field of another register. -/
theorem getI_setI_ne (s : State) (f e : Fld) (u i x j v : Nat) (h : regAddr e.reg x j ≠ regAddr f.reg u i) :
    getI (setI s f u i v) e x j = getI s e x j := by
  simp [getI, setI, rdReg_wrReg_ne _ _ _ _ _ _ _ _ h]

/-- Register words at other addresses are kept by every write of a register. -/
theorem find_wrReg (s : State) (r : RegName) (u i a : Nat) (v : Word) (h : a ≠ regAddr r u i) :
    find (wrReg s r u i v).regs a = find s.regs a := find_put_ne s.regs v _ h

theorem find_setI (s : State) (f : Fld) (u i v a : Nat) (h : a ≠ regAddr f.reg u i) :
    find (setI s f u i v).regs a = find s.regs a := find_wrReg s f.reg u i a _ h

theorem find_setF (s : State) (f : Fld) (u v a : Nat) (h : a ≠ regAddr f.reg u 0) :
    find (setF s f u v).regs a = find s.regs a := find_setI s f u 0 v a h

theorem find_countF (s : State) (f : Fld) (u n a : Nat) (h : a ≠ regAddr f.reg u 0) :
    find (countF s f u n).regs a = find s.regs a := find_setI s f u 0 _ a h

theorem getF_setF_same (s : State) (f : Fld) (u v : Nat) (h : f.fits) : getF (setF s f u v) f u = v % 2 ^ f.w :=
  getI_setI_same s f u 0 v h

theorem getF_setF_other (s : State) (f e : Fld) (u v : Nat) (hr : e.reg = f.reg) (h : f.fits)
    (hd : e.lo + e.w ≤ f.lo ∨ f.lo + f.w ≤ e.lo) : getF (setF s f u v) e u = getF s e u :=
  getI_setI_other s f e u 0 v hr h hd

theorem getF_setF_ne (s : State) (f e : Fld) (u x v : Nat) (h : regAddr e.reg x 0 ≠ regAddr f.reg u 0) :
    getF (setF s f u v) e x = getF s e x := getI_setI_ne s f e u 0 x 0 v h

theorem rdReg_setF_ne (s : State) (f : Fld) (q : RegName) (u x j v : Nat) (h : regAddr q x j ≠ regAddr f.reg u 0) :
    rdReg (setF s f u v) q x j = rdReg s q x j := rdReg_wrReg_ne s f.reg q u 0 x j _ h

/-! ### Tiles -/

@[simp] theorem tileOf_setTile_same (s : State) (g : Nat) (t : Tile) : tileOf (setTile s g t) g = t := by
  simp [tileOf, setTile]

theorem tileOf_setTile_ne (s : State) (g h : Nat) (t : Tile) (hn : h ≠ g) : tileOf (setTile s g t) h = tileOf s h := by
  simp [tileOf, setTile, getD_put_ne _ _ _ _ hn]

@[simp] theorem tileOf_modTile_same (s : State) (g : Nat) (f : Tile → Tile) : tileOf (modTile s g f) g = f (tileOf s g) :=
  tileOf_setTile_same s g _

theorem tileOf_modTile_ne (s : State) (g h : Nat) (f : Tile → Tile) (hn : h ≠ g) : tileOf (modTile s g f) h = tileOf s h :=
  tileOf_setTile_ne s g h _ hn

end Sys2Proof.Machine
end

