-- ==== Sys2Proof/Laws/State.lean ====
section
/-! SUPPORT. What the named updates of a state leave in each field: one lemma per field per update, true by unfolding. -/
namespace Sys2Proof.Machine

/-! ### wrReg -/
@[simp] theorem wrReg_pending (s : State) (r : RegName) (u i : Nat) (v : Word) : (wrReg s r u i v).pending = s.pending := rfl
@[simp] theorem wrReg_now (s : State) (r : RegName) (u i : Nat) (v : Word) : (wrReg s r u i v).now = s.now := rfl
@[simp] theorem wrReg_tiles (s : State) (r : RegName) (u i : Nat) (v : Word) : (wrReg s r u i v).tiles = s.tiles := rfl
@[simp] theorem wrReg_cmd (s : State) (r : RegName) (u i : Nat) (v : Word) : (wrReg s r u i v).cmd = s.cmd := rfl
@[simp] theorem wrReg_fieldStart (s : State) (r : RegName) (u i : Nat) (v : Word) : (wrReg s r u i v).fieldStart = s.fieldStart := rfl
@[simp] theorem wrReg_upSince (s : State) (r : RegName) (u i : Nat) (v : Word) : (wrReg s r u i v).upSince = s.upSince := rfl
@[simp] theorem wrReg_recov (s : State) (r : RegName) (u i : Nat) (v : Word) : (wrReg s r u i v).recov = s.recov := rfl
@[simp] theorem wrReg_slots (s : State) (r : RegName) (u i : Nat) (v : Word) : (wrReg s r u i v).slots = s.slots := rfl
@[simp] theorem wrReg_notices (s : State) (r : RegName) (u i : Nat) (v : Word) : (wrReg s r u i v).notices = s.notices := rfl
@[simp] theorem wrReg_cresIn (s : State) (r : RegName) (u i : Nat) (v : Word) : (wrReg s r u i v).cresIn = s.cresIn := rfl
@[simp] theorem wrReg_free (s : State) (r : RegName) (u i : Nat) (v : Word) : (wrReg s r u i v).free = s.free := rfl
@[simp] theorem wrReg_tiers (s : State) (r : RegName) (u i : Nat) (v : Word) : (wrReg s r u i v).tiers = s.tiers := rfl
@[simp] theorem wrReg_samplers (s : State) (r : RegName) (u i : Nat) (v : Word) : (wrReg s r u i v).samplers = s.samplers := rfl
@[simp] theorem wrReg_brois (s : State) (r : RegName) (u i : Nat) (v : Word) : (wrReg s r u i v).brois = s.brois := rfl
@[simp] theorem wrReg_chains (s : State) (r : RegName) (u i : Nat) (v : Word) : (wrReg s r u i v).chains = s.chains := rfl
@[simp] theorem wrReg_pours (s : State) (r : RegName) (u i : Nat) (v : Word) : (wrReg s r u i v).pours = s.pours := rfl
@[simp] theorem wrReg_net (s : State) (r : RegName) (u i : Nat) (v : Word) : (wrReg s r u i v).net = s.net := rfl
@[simp] theorem wrReg_coll (s : State) (r : RegName) (u i : Nat) (v : Word) : (wrReg s r u i v).coll = s.coll := rfl
@[simp] theorem wrReg_loader (s : State) (r : RegName) (u i : Nat) (v : Word) : (wrReg s r u i v).loader = s.loader := rfl
@[simp] theorem wrReg_power (s : State) (r : RegName) (u i : Nat) (v : Word) : (wrReg s r u i v).power = s.power := rfl
theorem wrReg_regs (s : State) (r : RegName) (u i : Nat) (v : Word) :
    (wrReg s r u i v).regs = put s.regs (regAddr r u i) v (resetWord r i) := rfl

/-! ### wrShadow -/
@[simp] theorem wrShadow_pending (s : State) (r : RegName) (u i : Nat) (v : Word) : (wrShadow s r u i v).pending = s.pending := rfl
@[simp] theorem wrShadow_now (s : State) (r : RegName) (u i : Nat) (v : Word) : (wrShadow s r u i v).now = s.now := rfl
@[simp] theorem wrShadow_tiles (s : State) (r : RegName) (u i : Nat) (v : Word) : (wrShadow s r u i v).tiles = s.tiles := rfl
@[simp] theorem wrShadow_cmd (s : State) (r : RegName) (u i : Nat) (v : Word) : (wrShadow s r u i v).cmd = s.cmd := rfl
@[simp] theorem wrShadow_fieldStart (s : State) (r : RegName) (u i : Nat) (v : Word) : (wrShadow s r u i v).fieldStart = s.fieldStart := rfl
@[simp] theorem wrShadow_upSince (s : State) (r : RegName) (u i : Nat) (v : Word) : (wrShadow s r u i v).upSince = s.upSince := rfl
@[simp] theorem wrShadow_recov (s : State) (r : RegName) (u i : Nat) (v : Word) : (wrShadow s r u i v).recov = s.recov := rfl
@[simp] theorem wrShadow_slots (s : State) (r : RegName) (u i : Nat) (v : Word) : (wrShadow s r u i v).slots = s.slots := rfl
@[simp] theorem wrShadow_notices (s : State) (r : RegName) (u i : Nat) (v : Word) : (wrShadow s r u i v).notices = s.notices := rfl
@[simp] theorem wrShadow_cresIn (s : State) (r : RegName) (u i : Nat) (v : Word) : (wrShadow s r u i v).cresIn = s.cresIn := rfl
@[simp] theorem wrShadow_free (s : State) (r : RegName) (u i : Nat) (v : Word) : (wrShadow s r u i v).free = s.free := rfl
@[simp] theorem wrShadow_tiers (s : State) (r : RegName) (u i : Nat) (v : Word) : (wrShadow s r u i v).tiers = s.tiers := rfl
@[simp] theorem wrShadow_samplers (s : State) (r : RegName) (u i : Nat) (v : Word) : (wrShadow s r u i v).samplers = s.samplers := rfl
@[simp] theorem wrShadow_brois (s : State) (r : RegName) (u i : Nat) (v : Word) : (wrShadow s r u i v).brois = s.brois := rfl
@[simp] theorem wrShadow_chains (s : State) (r : RegName) (u i : Nat) (v : Word) : (wrShadow s r u i v).chains = s.chains := rfl
@[simp] theorem wrShadow_pours (s : State) (r : RegName) (u i : Nat) (v : Word) : (wrShadow s r u i v).pours = s.pours := rfl
@[simp] theorem wrShadow_net (s : State) (r : RegName) (u i : Nat) (v : Word) : (wrShadow s r u i v).net = s.net := rfl
@[simp] theorem wrShadow_coll (s : State) (r : RegName) (u i : Nat) (v : Word) : (wrShadow s r u i v).coll = s.coll := rfl
@[simp] theorem wrShadow_loader (s : State) (r : RegName) (u i : Nat) (v : Word) : (wrShadow s r u i v).loader = s.loader := rfl
@[simp] theorem wrShadow_power (s : State) (r : RegName) (u i : Nat) (v : Word) : (wrShadow s r u i v).power = s.power := rfl

/-! ### setI -/
@[simp] theorem setI_pending (s : State) (f : Fld) (u i v : Nat) : (setI s f u i v).pending = s.pending := rfl
@[simp] theorem setI_now (s : State) (f : Fld) (u i v : Nat) : (setI s f u i v).now = s.now := rfl
@[simp] theorem setI_tiles (s : State) (f : Fld) (u i v : Nat) : (setI s f u i v).tiles = s.tiles := rfl
@[simp] theorem setI_cmd (s : State) (f : Fld) (u i v : Nat) : (setI s f u i v).cmd = s.cmd := rfl
@[simp] theorem setI_fieldStart (s : State) (f : Fld) (u i v : Nat) : (setI s f u i v).fieldStart = s.fieldStart := rfl
@[simp] theorem setI_upSince (s : State) (f : Fld) (u i v : Nat) : (setI s f u i v).upSince = s.upSince := rfl
@[simp] theorem setI_recov (s : State) (f : Fld) (u i v : Nat) : (setI s f u i v).recov = s.recov := rfl
@[simp] theorem setI_slots (s : State) (f : Fld) (u i v : Nat) : (setI s f u i v).slots = s.slots := rfl
@[simp] theorem setI_notices (s : State) (f : Fld) (u i v : Nat) : (setI s f u i v).notices = s.notices := rfl
@[simp] theorem setI_cresIn (s : State) (f : Fld) (u i v : Nat) : (setI s f u i v).cresIn = s.cresIn := rfl
@[simp] theorem setI_free (s : State) (f : Fld) (u i v : Nat) : (setI s f u i v).free = s.free := rfl
@[simp] theorem setI_tiers (s : State) (f : Fld) (u i v : Nat) : (setI s f u i v).tiers = s.tiers := rfl
@[simp] theorem setI_samplers (s : State) (f : Fld) (u i v : Nat) : (setI s f u i v).samplers = s.samplers := rfl
@[simp] theorem setI_brois (s : State) (f : Fld) (u i v : Nat) : (setI s f u i v).brois = s.brois := rfl
@[simp] theorem setI_chains (s : State) (f : Fld) (u i v : Nat) : (setI s f u i v).chains = s.chains := rfl
@[simp] theorem setI_pours (s : State) (f : Fld) (u i v : Nat) : (setI s f u i v).pours = s.pours := rfl
@[simp] theorem setI_net (s : State) (f : Fld) (u i v : Nat) : (setI s f u i v).net = s.net := rfl
@[simp] theorem setI_coll (s : State) (f : Fld) (u i v : Nat) : (setI s f u i v).coll = s.coll := rfl
@[simp] theorem setI_loader (s : State) (f : Fld) (u i v : Nat) : (setI s f u i v).loader = s.loader := rfl
@[simp] theorem setI_power (s : State) (f : Fld) (u i v : Nat) : (setI s f u i v).power = s.power := rfl

/-! ### setF -/
@[simp] theorem setF_pending (s : State) (f : Fld) (u v : Nat) : (setF s f u v).pending = s.pending := rfl
@[simp] theorem setF_now (s : State) (f : Fld) (u v : Nat) : (setF s f u v).now = s.now := rfl
@[simp] theorem setF_tiles (s : State) (f : Fld) (u v : Nat) : (setF s f u v).tiles = s.tiles := rfl
@[simp] theorem setF_cmd (s : State) (f : Fld) (u v : Nat) : (setF s f u v).cmd = s.cmd := rfl
@[simp] theorem setF_fieldStart (s : State) (f : Fld) (u v : Nat) : (setF s f u v).fieldStart = s.fieldStart := rfl
@[simp] theorem setF_upSince (s : State) (f : Fld) (u v : Nat) : (setF s f u v).upSince = s.upSince := rfl
@[simp] theorem setF_recov (s : State) (f : Fld) (u v : Nat) : (setF s f u v).recov = s.recov := rfl
@[simp] theorem setF_slots (s : State) (f : Fld) (u v : Nat) : (setF s f u v).slots = s.slots := rfl
@[simp] theorem setF_notices (s : State) (f : Fld) (u v : Nat) : (setF s f u v).notices = s.notices := rfl
@[simp] theorem setF_cresIn (s : State) (f : Fld) (u v : Nat) : (setF s f u v).cresIn = s.cresIn := rfl
@[simp] theorem setF_free (s : State) (f : Fld) (u v : Nat) : (setF s f u v).free = s.free := rfl
@[simp] theorem setF_tiers (s : State) (f : Fld) (u v : Nat) : (setF s f u v).tiers = s.tiers := rfl
@[simp] theorem setF_samplers (s : State) (f : Fld) (u v : Nat) : (setF s f u v).samplers = s.samplers := rfl
@[simp] theorem setF_brois (s : State) (f : Fld) (u v : Nat) : (setF s f u v).brois = s.brois := rfl
@[simp] theorem setF_chains (s : State) (f : Fld) (u v : Nat) : (setF s f u v).chains = s.chains := rfl
@[simp] theorem setF_pours (s : State) (f : Fld) (u v : Nat) : (setF s f u v).pours = s.pours := rfl
@[simp] theorem setF_net (s : State) (f : Fld) (u v : Nat) : (setF s f u v).net = s.net := rfl
@[simp] theorem setF_coll (s : State) (f : Fld) (u v : Nat) : (setF s f u v).coll = s.coll := rfl
@[simp] theorem setF_loader (s : State) (f : Fld) (u v : Nat) : (setF s f u v).loader = s.loader := rfl
@[simp] theorem setF_power (s : State) (f : Fld) (u v : Nat) : (setF s f u v).power = s.power := rfl

/-! ### countI -/
@[simp] theorem countI_pending (s : State) (f : Fld) (u i n : Nat) : (countI s f u i n).pending = s.pending := rfl
@[simp] theorem countI_now (s : State) (f : Fld) (u i n : Nat) : (countI s f u i n).now = s.now := rfl
@[simp] theorem countI_tiles (s : State) (f : Fld) (u i n : Nat) : (countI s f u i n).tiles = s.tiles := rfl
@[simp] theorem countI_cmd (s : State) (f : Fld) (u i n : Nat) : (countI s f u i n).cmd = s.cmd := rfl
@[simp] theorem countI_fieldStart (s : State) (f : Fld) (u i n : Nat) : (countI s f u i n).fieldStart = s.fieldStart := rfl
@[simp] theorem countI_upSince (s : State) (f : Fld) (u i n : Nat) : (countI s f u i n).upSince = s.upSince := rfl
@[simp] theorem countI_recov (s : State) (f : Fld) (u i n : Nat) : (countI s f u i n).recov = s.recov := rfl
@[simp] theorem countI_slots (s : State) (f : Fld) (u i n : Nat) : (countI s f u i n).slots = s.slots := rfl
@[simp] theorem countI_notices (s : State) (f : Fld) (u i n : Nat) : (countI s f u i n).notices = s.notices := rfl
@[simp] theorem countI_cresIn (s : State) (f : Fld) (u i n : Nat) : (countI s f u i n).cresIn = s.cresIn := rfl
@[simp] theorem countI_free (s : State) (f : Fld) (u i n : Nat) : (countI s f u i n).free = s.free := rfl
@[simp] theorem countI_tiers (s : State) (f : Fld) (u i n : Nat) : (countI s f u i n).tiers = s.tiers := rfl
@[simp] theorem countI_samplers (s : State) (f : Fld) (u i n : Nat) : (countI s f u i n).samplers = s.samplers := rfl
@[simp] theorem countI_brois (s : State) (f : Fld) (u i n : Nat) : (countI s f u i n).brois = s.brois := rfl
@[simp] theorem countI_chains (s : State) (f : Fld) (u i n : Nat) : (countI s f u i n).chains = s.chains := rfl
@[simp] theorem countI_pours (s : State) (f : Fld) (u i n : Nat) : (countI s f u i n).pours = s.pours := rfl
@[simp] theorem countI_net (s : State) (f : Fld) (u i n : Nat) : (countI s f u i n).net = s.net := rfl
@[simp] theorem countI_coll (s : State) (f : Fld) (u i n : Nat) : (countI s f u i n).coll = s.coll := rfl
@[simp] theorem countI_loader (s : State) (f : Fld) (u i n : Nat) : (countI s f u i n).loader = s.loader := rfl
@[simp] theorem countI_power (s : State) (f : Fld) (u i n : Nat) : (countI s f u i n).power = s.power := rfl

/-! ### countF -/
@[simp] theorem countF_pending (s : State) (f : Fld) (u n : Nat) : (countF s f u n).pending = s.pending := rfl
@[simp] theorem countF_now (s : State) (f : Fld) (u n : Nat) : (countF s f u n).now = s.now := rfl
@[simp] theorem countF_tiles (s : State) (f : Fld) (u n : Nat) : (countF s f u n).tiles = s.tiles := rfl
@[simp] theorem countF_cmd (s : State) (f : Fld) (u n : Nat) : (countF s f u n).cmd = s.cmd := rfl
@[simp] theorem countF_fieldStart (s : State) (f : Fld) (u n : Nat) : (countF s f u n).fieldStart = s.fieldStart := rfl
@[simp] theorem countF_upSince (s : State) (f : Fld) (u n : Nat) : (countF s f u n).upSince = s.upSince := rfl
@[simp] theorem countF_recov (s : State) (f : Fld) (u n : Nat) : (countF s f u n).recov = s.recov := rfl
@[simp] theorem countF_slots (s : State) (f : Fld) (u n : Nat) : (countF s f u n).slots = s.slots := rfl
@[simp] theorem countF_notices (s : State) (f : Fld) (u n : Nat) : (countF s f u n).notices = s.notices := rfl
@[simp] theorem countF_cresIn (s : State) (f : Fld) (u n : Nat) : (countF s f u n).cresIn = s.cresIn := rfl
@[simp] theorem countF_free (s : State) (f : Fld) (u n : Nat) : (countF s f u n).free = s.free := rfl
@[simp] theorem countF_tiers (s : State) (f : Fld) (u n : Nat) : (countF s f u n).tiers = s.tiers := rfl
@[simp] theorem countF_samplers (s : State) (f : Fld) (u n : Nat) : (countF s f u n).samplers = s.samplers := rfl
@[simp] theorem countF_brois (s : State) (f : Fld) (u n : Nat) : (countF s f u n).brois = s.brois := rfl
@[simp] theorem countF_chains (s : State) (f : Fld) (u n : Nat) : (countF s f u n).chains = s.chains := rfl
@[simp] theorem countF_pours (s : State) (f : Fld) (u n : Nat) : (countF s f u n).pours = s.pours := rfl
@[simp] theorem countF_net (s : State) (f : Fld) (u n : Nat) : (countF s f u n).net = s.net := rfl
@[simp] theorem countF_coll (s : State) (f : Fld) (u n : Nat) : (countF s f u n).coll = s.coll := rfl
@[simp] theorem countF_loader (s : State) (f : Fld) (u n : Nat) : (countF s f u n).loader = s.loader := rfl
@[simp] theorem countF_power (s : State) (f : Fld) (u n : Nat) : (countF s f u n).power = s.power := rfl

/-! ### logSupp -/
@[simp] theorem logSupp_pending (s : State) (a b c : Fld) (u n : Nat) : (logSupp s a b c u n).pending = s.pending := by unfold logSupp; dsimp only; split <;> rfl
@[simp] theorem logSupp_now (s : State) (a b c : Fld) (u n : Nat) : (logSupp s a b c u n).now = s.now := by unfold logSupp; dsimp only; split <;> rfl
@[simp] theorem logSupp_tiles (s : State) (a b c : Fld) (u n : Nat) : (logSupp s a b c u n).tiles = s.tiles := by unfold logSupp; dsimp only; split <;> rfl
@[simp] theorem logSupp_cmd (s : State) (a b c : Fld) (u n : Nat) : (logSupp s a b c u n).cmd = s.cmd := by unfold logSupp; dsimp only; split <;> rfl
@[simp] theorem logSupp_fieldStart (s : State) (a b c : Fld) (u n : Nat) : (logSupp s a b c u n).fieldStart = s.fieldStart := by unfold logSupp; dsimp only; split <;> rfl
@[simp] theorem logSupp_upSince (s : State) (a b c : Fld) (u n : Nat) : (logSupp s a b c u n).upSince = s.upSince := by unfold logSupp; dsimp only; split <;> rfl
@[simp] theorem logSupp_recov (s : State) (a b c : Fld) (u n : Nat) : (logSupp s a b c u n).recov = s.recov := by unfold logSupp; dsimp only; split <;> rfl
@[simp] theorem logSupp_slots (s : State) (a b c : Fld) (u n : Nat) : (logSupp s a b c u n).slots = s.slots := by unfold logSupp; dsimp only; split <;> rfl
@[simp] theorem logSupp_notices (s : State) (a b c : Fld) (u n : Nat) : (logSupp s a b c u n).notices = s.notices := by unfold logSupp; dsimp only; split <;> rfl
@[simp] theorem logSupp_cresIn (s : State) (a b c : Fld) (u n : Nat) : (logSupp s a b c u n).cresIn = s.cresIn := by unfold logSupp; dsimp only; split <;> rfl
@[simp] theorem logSupp_free (s : State) (a b c : Fld) (u n : Nat) : (logSupp s a b c u n).free = s.free := by unfold logSupp; dsimp only; split <;> rfl
@[simp] theorem logSupp_tiers (s : State) (a b c : Fld) (u n : Nat) : (logSupp s a b c u n).tiers = s.tiers := by unfold logSupp; dsimp only; split <;> rfl
@[simp] theorem logSupp_samplers (s : State) (a b c : Fld) (u n : Nat) : (logSupp s a b c u n).samplers = s.samplers := by unfold logSupp; dsimp only; split <;> rfl
@[simp] theorem logSupp_brois (s : State) (a b c : Fld) (u n : Nat) : (logSupp s a b c u n).brois = s.brois := by unfold logSupp; dsimp only; split <;> rfl
@[simp] theorem logSupp_chains (s : State) (a b c : Fld) (u n : Nat) : (logSupp s a b c u n).chains = s.chains := by unfold logSupp; dsimp only; split <;> rfl
@[simp] theorem logSupp_pours (s : State) (a b c : Fld) (u n : Nat) : (logSupp s a b c u n).pours = s.pours := by unfold logSupp; dsimp only; split <;> rfl
@[simp] theorem logSupp_net (s : State) (a b c : Fld) (u n : Nat) : (logSupp s a b c u n).net = s.net := by unfold logSupp; dsimp only; split <;> rfl
@[simp] theorem logSupp_coll (s : State) (a b c : Fld) (u n : Nat) : (logSupp s a b c u n).coll = s.coll := by unfold logSupp; dsimp only; split <;> rfl
@[simp] theorem logSupp_loader (s : State) (a b c : Fld) (u n : Nat) : (logSupp s a b c u n).loader = s.loader := by unfold logSupp; dsimp only; split <;> rfl
@[simp] theorem logSupp_power (s : State) (a b c : Fld) (u n : Nat) : (logSupp s a b c u n).power = s.power := by unfold logSupp; dsimp only; split <;> rfl

/-! ### sendRec -/
@[simp] theorem sendRec_pending (s : State) (x : Src) (n c d e : Nat) : (sendRec s x n c d e).pending = s.pending := rfl
@[simp] theorem sendRec_now (s : State) (x : Src) (n c d e : Nat) : (sendRec s x n c d e).now = s.now := rfl
@[simp] theorem sendRec_regs (s : State) (x : Src) (n c d e : Nat) : (sendRec s x n c d e).regs = s.regs := rfl
@[simp] theorem sendRec_tiles (s : State) (x : Src) (n c d e : Nat) : (sendRec s x n c d e).tiles = s.tiles := rfl
@[simp] theorem sendRec_fieldStart (s : State) (x : Src) (n c d e : Nat) : (sendRec s x n c d e).fieldStart = s.fieldStart := rfl
@[simp] theorem sendRec_upSince (s : State) (x : Src) (n c d e : Nat) : (sendRec s x n c d e).upSince = s.upSince := rfl
@[simp] theorem sendRec_recov (s : State) (x : Src) (n c d e : Nat) : (sendRec s x n c d e).recov = s.recov := rfl
@[simp] theorem sendRec_slots (s : State) (x : Src) (n c d e : Nat) : (sendRec s x n c d e).slots = s.slots := rfl
@[simp] theorem sendRec_notices (s : State) (x : Src) (n c d e : Nat) : (sendRec s x n c d e).notices = s.notices := rfl
@[simp] theorem sendRec_cresIn (s : State) (x : Src) (n c d e : Nat) : (sendRec s x n c d e).cresIn = s.cresIn := rfl
@[simp] theorem sendRec_free (s : State) (x : Src) (n c d e : Nat) : (sendRec s x n c d e).free = s.free := rfl
@[simp] theorem sendRec_tiers (s : State) (x : Src) (n c d e : Nat) : (sendRec s x n c d e).tiers = s.tiers := rfl
@[simp] theorem sendRec_samplers (s : State) (x : Src) (n c d e : Nat) : (sendRec s x n c d e).samplers = s.samplers := rfl
@[simp] theorem sendRec_brois (s : State) (x : Src) (n c d e : Nat) : (sendRec s x n c d e).brois = s.brois := rfl
@[simp] theorem sendRec_chains (s : State) (x : Src) (n c d e : Nat) : (sendRec s x n c d e).chains = s.chains := rfl
@[simp] theorem sendRec_pours (s : State) (x : Src) (n c d e : Nat) : (sendRec s x n c d e).pours = s.pours := rfl
@[simp] theorem sendRec_net (s : State) (x : Src) (n c d e : Nat) : (sendRec s x n c d e).net = s.net := rfl
@[simp] theorem sendRec_coll (s : State) (x : Src) (n c d e : Nat) : (sendRec s x n c d e).coll = s.coll := rfl
@[simp] theorem sendRec_loader (s : State) (x : Src) (n c d e : Nat) : (sendRec s x n c d e).loader = s.loader := rfl
@[simp] theorem sendRec_power (s : State) (x : Src) (n c d e : Nat) : (sendRec s x n c d e).power = s.power := rfl

/-! ### sendInc -/
@[simp] theorem sendInc_pending (s : State) (ev : Nat) (v : W32) : (sendInc s ev v).pending = s.pending := rfl
@[simp] theorem sendInc_now (s : State) (ev : Nat) (v : W32) : (sendInc s ev v).now = s.now := rfl
@[simp] theorem sendInc_regs (s : State) (ev : Nat) (v : W32) : (sendInc s ev v).regs = s.regs := rfl
@[simp] theorem sendInc_tiles (s : State) (ev : Nat) (v : W32) : (sendInc s ev v).tiles = s.tiles := rfl
@[simp] theorem sendInc_fieldStart (s : State) (ev : Nat) (v : W32) : (sendInc s ev v).fieldStart = s.fieldStart := rfl
@[simp] theorem sendInc_upSince (s : State) (ev : Nat) (v : W32) : (sendInc s ev v).upSince = s.upSince := rfl
@[simp] theorem sendInc_recov (s : State) (ev : Nat) (v : W32) : (sendInc s ev v).recov = s.recov := rfl
@[simp] theorem sendInc_slots (s : State) (ev : Nat) (v : W32) : (sendInc s ev v).slots = s.slots := rfl
@[simp] theorem sendInc_notices (s : State) (ev : Nat) (v : W32) : (sendInc s ev v).notices = s.notices := rfl
@[simp] theorem sendInc_cresIn (s : State) (ev : Nat) (v : W32) : (sendInc s ev v).cresIn = s.cresIn := rfl
@[simp] theorem sendInc_free (s : State) (ev : Nat) (v : W32) : (sendInc s ev v).free = s.free := rfl
@[simp] theorem sendInc_tiers (s : State) (ev : Nat) (v : W32) : (sendInc s ev v).tiers = s.tiers := rfl
@[simp] theorem sendInc_samplers (s : State) (ev : Nat) (v : W32) : (sendInc s ev v).samplers = s.samplers := rfl
@[simp] theorem sendInc_brois (s : State) (ev : Nat) (v : W32) : (sendInc s ev v).brois = s.brois := rfl
@[simp] theorem sendInc_chains (s : State) (ev : Nat) (v : W32) : (sendInc s ev v).chains = s.chains := rfl
@[simp] theorem sendInc_pours (s : State) (ev : Nat) (v : W32) : (sendInc s ev v).pours = s.pours := rfl
@[simp] theorem sendInc_net (s : State) (ev : Nat) (v : W32) : (sendInc s ev v).net = s.net := rfl
@[simp] theorem sendInc_coll (s : State) (ev : Nat) (v : W32) : (sendInc s ev v).coll = s.coll := rfl
@[simp] theorem sendInc_loader (s : State) (ev : Nat) (v : W32) : (sendInc s ev v).loader = s.loader := rfl
@[simp] theorem sendInc_power (s : State) (ev : Nat) (v : W32) : (sendInc s ev v).power = s.power := rfl
theorem sendInc_cmd (s : State) (ev : Nat) (v : W32) :
    (sendInc s ev v).cmd = { s.cmd with incs := s.cmd.incs ++ [⟨ev % 65536, v⟩] } := rfl

/-! ### setTile -/
@[simp] theorem setTile_pending (s : State) (g : Nat) (t : Tile) : (setTile s g t).pending = s.pending := rfl
@[simp] theorem setTile_now (s : State) (g : Nat) (t : Tile) : (setTile s g t).now = s.now := rfl
@[simp] theorem setTile_regs (s : State) (g : Nat) (t : Tile) : (setTile s g t).regs = s.regs := rfl
@[simp] theorem setTile_cmd (s : State) (g : Nat) (t : Tile) : (setTile s g t).cmd = s.cmd := rfl
@[simp] theorem setTile_fieldStart (s : State) (g : Nat) (t : Tile) : (setTile s g t).fieldStart = s.fieldStart := rfl
@[simp] theorem setTile_upSince (s : State) (g : Nat) (t : Tile) : (setTile s g t).upSince = s.upSince := rfl
@[simp] theorem setTile_recov (s : State) (g : Nat) (t : Tile) : (setTile s g t).recov = s.recov := rfl
@[simp] theorem setTile_slots (s : State) (g : Nat) (t : Tile) : (setTile s g t).slots = s.slots := rfl
@[simp] theorem setTile_notices (s : State) (g : Nat) (t : Tile) : (setTile s g t).notices = s.notices := rfl
@[simp] theorem setTile_cresIn (s : State) (g : Nat) (t : Tile) : (setTile s g t).cresIn = s.cresIn := rfl
@[simp] theorem setTile_free (s : State) (g : Nat) (t : Tile) : (setTile s g t).free = s.free := rfl
@[simp] theorem setTile_tiers (s : State) (g : Nat) (t : Tile) : (setTile s g t).tiers = s.tiers := rfl
@[simp] theorem setTile_samplers (s : State) (g : Nat) (t : Tile) : (setTile s g t).samplers = s.samplers := rfl
@[simp] theorem setTile_brois (s : State) (g : Nat) (t : Tile) : (setTile s g t).brois = s.brois := rfl
@[simp] theorem setTile_chains (s : State) (g : Nat) (t : Tile) : (setTile s g t).chains = s.chains := rfl
@[simp] theorem setTile_pours (s : State) (g : Nat) (t : Tile) : (setTile s g t).pours = s.pours := rfl
@[simp] theorem setTile_net (s : State) (g : Nat) (t : Tile) : (setTile s g t).net = s.net := rfl
@[simp] theorem setTile_coll (s : State) (g : Nat) (t : Tile) : (setTile s g t).coll = s.coll := rfl
@[simp] theorem setTile_loader (s : State) (g : Nat) (t : Tile) : (setTile s g t).loader = s.loader := rfl
@[simp] theorem setTile_power (s : State) (g : Nat) (t : Tile) : (setTile s g t).power = s.power := rfl
theorem setTile_tiles (s : State) (g : Nat) (t : Tile) : (setTile s g t).tiles = put s.tiles g t {} := rfl

/-! ### modTile -/
@[simp] theorem modTile_pending (s : State) (g : Nat) (f : Tile → Tile) : (modTile s g f).pending = s.pending := rfl
@[simp] theorem modTile_now (s : State) (g : Nat) (f : Tile → Tile) : (modTile s g f).now = s.now := rfl
@[simp] theorem modTile_regs (s : State) (g : Nat) (f : Tile → Tile) : (modTile s g f).regs = s.regs := rfl
@[simp] theorem modTile_cmd (s : State) (g : Nat) (f : Tile → Tile) : (modTile s g f).cmd = s.cmd := rfl
@[simp] theorem modTile_fieldStart (s : State) (g : Nat) (f : Tile → Tile) : (modTile s g f).fieldStart = s.fieldStart := rfl
@[simp] theorem modTile_upSince (s : State) (g : Nat) (f : Tile → Tile) : (modTile s g f).upSince = s.upSince := rfl
@[simp] theorem modTile_recov (s : State) (g : Nat) (f : Tile → Tile) : (modTile s g f).recov = s.recov := rfl
@[simp] theorem modTile_slots (s : State) (g : Nat) (f : Tile → Tile) : (modTile s g f).slots = s.slots := rfl
@[simp] theorem modTile_notices (s : State) (g : Nat) (f : Tile → Tile) : (modTile s g f).notices = s.notices := rfl
@[simp] theorem modTile_cresIn (s : State) (g : Nat) (f : Tile → Tile) : (modTile s g f).cresIn = s.cresIn := rfl
@[simp] theorem modTile_free (s : State) (g : Nat) (f : Tile → Tile) : (modTile s g f).free = s.free := rfl
@[simp] theorem modTile_tiers (s : State) (g : Nat) (f : Tile → Tile) : (modTile s g f).tiers = s.tiers := rfl
@[simp] theorem modTile_samplers (s : State) (g : Nat) (f : Tile → Tile) : (modTile s g f).samplers = s.samplers := rfl
@[simp] theorem modTile_brois (s : State) (g : Nat) (f : Tile → Tile) : (modTile s g f).brois = s.brois := rfl
@[simp] theorem modTile_chains (s : State) (g : Nat) (f : Tile → Tile) : (modTile s g f).chains = s.chains := rfl
@[simp] theorem modTile_pours (s : State) (g : Nat) (f : Tile → Tile) : (modTile s g f).pours = s.pours := rfl
@[simp] theorem modTile_net (s : State) (g : Nat) (f : Tile → Tile) : (modTile s g f).net = s.net := rfl
@[simp] theorem modTile_coll (s : State) (g : Nat) (f : Tile → Tile) : (modTile s g f).coll = s.coll := rfl
@[simp] theorem modTile_loader (s : State) (g : Nat) (f : Tile → Tile) : (modTile s g f).loader = s.loader := rfl
@[simp] theorem modTile_power (s : State) (g : Nat) (f : Tile → Tile) : (modTile s g f).power = s.power := rfl

/-! ### Reads that an update of another field leaves alone -/

@[simp] theorem tileOf_wrReg (s : State) (r : RegName) (u i : Nat) (v : Word) (h : Nat) : tileOf (wrReg s r u i v) h = tileOf s h := by simp [tileOf]
@[simp] theorem tileOf_wrShadow (s : State) (r : RegName) (u i : Nat) (v : Word) (h : Nat) : tileOf (wrShadow s r u i v) h = tileOf s h := by simp [tileOf]
@[simp] theorem tileOf_setI (s : State) (f : Fld) (u i v : Nat) (h : Nat) : tileOf (setI s f u i v) h = tileOf s h := by simp [tileOf]
@[simp] theorem tileOf_setF (s : State) (f : Fld) (u v : Nat) (h : Nat) : tileOf (setF s f u v) h = tileOf s h := by simp [tileOf]
@[simp] theorem tileOf_countI (s : State) (f : Fld) (u i n : Nat) (h : Nat) : tileOf (countI s f u i n) h = tileOf s h := by simp [tileOf]
@[simp] theorem tileOf_countF (s : State) (f : Fld) (u n : Nat) (h : Nat) : tileOf (countF s f u n) h = tileOf s h := by simp [tileOf]
@[simp] theorem tileOf_logSupp (s : State) (a b c : Fld) (u n : Nat) (h : Nat) : tileOf (logSupp s a b c u n) h = tileOf s h := by simp [tileOf]
@[simp] theorem rdReg_sendRec (s : State) (x : Src) (n c d e : Nat) (q : RegName) (w j : Nat) :
    rdReg (sendRec s x n c d e) q w j = rdReg s q w j := rfl
@[simp] theorem getI_sendRec (s : State) (x : Src) (n c d e : Nat) (q : Fld) (w j : Nat) :
    getI (sendRec s x n c d e) q w j = getI s q w j := rfl
@[simp] theorem getF_sendRec (s : State) (x : Src) (n c d e : Nat) (q : Fld) (w : Nat) : getF (sendRec s x n c d e) q w = getF s q w := rfl
@[simp] theorem tileOf_sendRec (s : State) (x : Src) (n c d e : Nat) (h : Nat) : tileOf (sendRec s x n c d e) h = tileOf s h := by simp [tileOf]
@[simp] theorem rdReg_sendInc (s : State) (ev : Nat) (v : W32) (q : RegName) (w j : Nat) :
    rdReg (sendInc s ev v) q w j = rdReg s q w j := rfl
@[simp] theorem getI_sendInc (s : State) (ev : Nat) (v : W32) (q : Fld) (w j : Nat) :
    getI (sendInc s ev v) q w j = getI s q w j := rfl
@[simp] theorem getF_sendInc (s : State) (ev : Nat) (v : W32) (q : Fld) (w : Nat) : getF (sendInc s ev v) q w = getF s q w := rfl
@[simp] theorem tileOf_sendInc (s : State) (ev : Nat) (v : W32) (h : Nat) : tileOf (sendInc s ev v) h = tileOf s h := by simp [tileOf]
@[simp] theorem rdReg_setTile (s : State) (g : Nat) (t : Tile) (q : RegName) (w j : Nat) :
    rdReg (setTile s g t) q w j = rdReg s q w j := rfl
@[simp] theorem getI_setTile (s : State) (g : Nat) (t : Tile) (q : Fld) (w j : Nat) :
    getI (setTile s g t) q w j = getI s q w j := rfl
@[simp] theorem getF_setTile (s : State) (g : Nat) (t : Tile) (q : Fld) (w : Nat) : getF (setTile s g t) q w = getF s q w := rfl
@[simp] theorem rdReg_modTile (s : State) (g : Nat) (f : Tile → Tile) (q : RegName) (w j : Nat) :
    rdReg (modTile s g f) q w j = rdReg s q w j := rfl
@[simp] theorem getI_modTile (s : State) (g : Nat) (f : Tile → Tile) (q : Fld) (w j : Nat) :
    getI (modTile s g f) q w j = getI s q w j := rfl
@[simp] theorem getF_modTile (s : State) (g : Nat) (f : Tile → Tile) (q : Fld) (w : Nat) : getF (modTile s g f) q w = getF s q w := rfl

end Sys2Proof.Machine
end

