-- ==== Sys2Proof/Laws/TileRun.lean ====
section
/-! SUPPORT. How an op of a tile runs: the steps of its body one by one, reads and writes of tile memory without errors,
and what retirement leaves. -/
namespace Sys2Proof.Machine

/-! ### Steps of a body -/

theorem tileM_pure {α : Type} (a : α) (s : State) : (pure a : TileM α) s = .ok a s := rfl
theorem tileM_throw {α : Type} (c : Nat) (s : State) : (throw c : TileM α) s = .error c s := rfl
theorem tileM_get (s : State) : (get : TileM State) s = .ok s s := rfl
theorem tileM_modify (f : State → State) (s : State) : (modify f : TileM Unit) s = .ok () (f s) := rfl

theorem tileM_bind_ok {α β : Type} {m : TileM α} {f : α → TileM β} {s u : State} {a : α} (h : m s = .ok a u) :
    (m >>= f) s = f a u := by
  show EStateM.bind m f s = _
  unfold EStateM.bind
  rw [h]

theorem tileM_bind_error {α β : Type} {m : TileM α} {f : α → TileM β} {s u : State} {c : Nat} (h : m s = .error c u) :
    (m >>= f) s = .error c u := by
  show EStateM.bind m f s = _
  unfold EStateM.bind
  rw [h]

theorem faultIf_false {b : Bool} (c : Nat) (s : State) (h : b = false) : faultIf b c s = .ok () s := by
  rw [h]; rfl

theorem faultIf_true {b : Bool} (c : Nat) (s : State) (h : b = true) : faultIf b c s = .error c s := by
  rw [h]; rfl

theorem pReg_run (g n : Nat) (s : State) : pReg g n s = .ok (pAt s g n % 2 ^ 24) s := rfl
theorem sReg_run (g n : Nat) (s : State) : sReg g n s = .ok (sAt s g n).toNat s := rfl

/-! ### Memory without errors -/

theorem memErrs_nil {t : Tile} (h : t.memFlip = []) (a n : Nat) : memErrs t a n = [] := by simp [memErrs, h]

theorem readMem_run {s : State} {g a n : Nat} (hq : (tileOf s g).memFlip = []) (hr : inMem a n = true) :
    readMem g a n s = .ok (tileBytes (tileOf s g) a n) s := by
  have hb : decide (0x100000 < a + n) = false := by
    simp only [inMem, decide_eq_true_eq] at hr
    exact decide_eq_false (by omega)
  unfold readMem
  rw [tileM_bind_ok (faultIf_false _ _ hb), tileM_bind_ok (tileM_get s), memErrs_nil hq]
  rfl

theorem storeByte_flip {t : Tile} {a : Nat} {v : Byte} (h : t.memFlip = []) : (storeByte t a v 0).memFlip = [] := by
  simp [storeByte, h, put, erase]

theorem storeBytes_flip {t : Tile} {a : Nat} {bs : List Byte} (h : t.memFlip = []) : (storeBytes t a bs).memFlip = [] := by
  induction bs generalizing t a with
  | nil => exact h
  | cons b bs ih => exact ih (storeByte_flip h)

theorem openLine_flip {t : Tile} {line : Nat} (h : t.memFlip = []) : (openLine t line).memFlip = [] := by
  unfold openLine
  split
  · exact h
  · simp [h]

theorem openLines_flip {t : Tile} {ls : List Nat} (h : t.memFlip = []) : (ls.foldl openLine t).memFlip = [] := by
  induction ls generalizing t with
  | nil => exact h
  | cons l ls ih => exact ih (openLine_flip h)

theorem stored_flip {t : Tile} {a : Nat} {bs : List Byte} (h : t.memFlip = []) : (stored t a bs).memFlip = [] :=
  storeBytes_flip (openLines_flip h)

/-- A write with no injection armed stores the bytes. -/
theorem memWrite_run {s : State} {g a : Nat} {bs : List Byte} (h : getF s F.TIL_MEM_INJ_ARM g = 0) :
    memWrite s g a bs = setTile s g (stored (tileOf s g) a bs) := by
  have h' : getBits (rdReg s .TIL_MEM_INJ g 0) 19 1 = 0 := h
  unfold memWrite
  simp [h', stored]

theorem writeMem_run {s : State} {g a : Nat} {bs : List Byte} (h : getF s F.TIL_MEM_INJ_ARM g = 0) :
    writeMem g a bs s = .ok () (setTile s g (stored (tileOf s g) a bs)) := by
  unfold writeMem
  rw [tileM_modify, memWrite_run h]

/-! ### Retirement -/

theorem skipFed_lt (fed : List Nat) (pc n : Nat) (h : pc < 2 ^ 20) : (skipFed fed pc n).1 < 2 ^ 20 := by
  induction n generalizing pc fed with
  | zero => exact h
  | succ n ih =>
    unfold skipFed
    split
    · exact ih _ _ (Nat.mod_lt _ (by decide))
    · exact h

theorem OnlyTile.refl (g : Nat) (as : List Nat) (s : State) : OnlyTile g as s s := ⟨rfl, fun _ _ => rfl, fun _ _ => rfl⟩

theorem OnlyTile.trans {g : Nat} {as bs cs : List Nat} {s t u : State} (h : OnlyTile g as s t) (k : OnlyTile g bs t u)
    (ha : as ⊆ cs) (hb : bs ⊆ cs) : OnlyTile g cs s u := by
  refine ⟨?_, ?_, ?_⟩
  · have h1 := h.1
    have k1 := k.1
    rw [← h1, ← k1]
  · intro a hn
    rw [k.2.1 a (fun c => hn (hb c)), h.2.1 a (fun c => hn (ha c))]
  · intro x hx
    rw [k.2.2 x hx, h.2.2 x hx]

theorem onlyTile_setTile (g : Nat) (s : State) (t : Tile) : OnlyTile g [] s (setTile s g t) :=
  ⟨rfl, fun _ _ => rfl, fun h hn => tileOf_setTile_ne s g h t hn⟩

theorem onlyTile_modTile (g : Nat) (s : State) (f : Tile → Tile) : OnlyTile g [] s (modTile s g f) := onlyTile_setTile g s _

theorem onlyTile_wrReg (g : Nat) (s : State) (r : RegName) (v : Word) : OnlyTile g [regAddr r g 0] s (wrReg s r g 0 v) :=
  ⟨rfl, fun a ha => find_wrReg s r g 0 a v (by simpa using ha), fun _ _ => rfl⟩

theorem onlyTile_setF (g : Nat) (s : State) (f : Fld) (v : Nat) : OnlyTile g [regAddr f.reg g 0] s (setF s f g v) :=
  onlyTile_wrReg g s f.reg _

/-- Fields of TIL_STATUS beside PC and WAITKIND. -/
theorem status_kept (s : State) (g : Nat) (f e : Fld) (v : Nat) (hr : e.reg = f.reg) (h : f.fits)
    (hd : e.lo + e.w ≤ f.lo ∨ f.lo + f.w ≤ e.lo) : getF (setF s f g v) e g = getF s e g := getF_setF_other s f e g v hr h hd

/-- What going on at an address does: PC follows unless an array op is in progress (R58, R61). -/
theorem moveIssue_run (s : State) (g pc : Nat) :
    ∃ u, moveIssue s g pc = u ∧ OnlyTile g [regAddr .TIL_STATUS g 0] s u ∧
      (issueAt u g, (tileOf u g).fed) = skipFed (tileOf s g).fed (pc % 2 ^ 20) (tileOf s g).fed.length ∧
      getF u F.TIL_STATUS_PC g = (if (tileOf s g).arr.isSome then getF s F.TIL_STATUS_PC g else issueAt u g) ∧
      tileOf u g = { tileOf s g with fed := (tileOf u g).fed, issue := (tileOf u g).issue } ∧
      (∀ f : Fld, f.reg = .TIL_STATUS → (f.lo + f.w ≤ 16 ∨ 36 ≤ f.lo) → getF u f g = getF s f g) := by
  refine ⟨_, rfl, ?_⟩
  unfold moveIssue
  dsimp only
  generalize hr : skipFed (tileOf s g).fed (pc % 2 ^ 20) (tileOf s g).fed.length = r
  have hlt : r.1 < 2 ^ 20 := by rw [← hr]; exact skipFed_lt _ _ _ (Nat.mod_lt _ (by decide))
  by_cases ha : (tileOf s g).arr.isSome = true
  · simp only [ha, if_true]
    refine ⟨(onlyTile_modTile g _ _).trans (OnlyTile.refl g _ _) (List.nil_subset _) (List.Subset.refl _), ?_, ?_, ?_, ?_⟩
    · simp only [issueAt, tileOf_modTile_same, getF_modTile, ha, if_true, Option.getD_some]
    · rw [getF_modTile]
    · simp only [tileOf_modTile_same]
    · intro f _ _; rw [getF_modTile]
  · simp only [ha, Bool.false_eq_true, if_false]
    have hp : getF (setF s F.TIL_STATUS_PC g r.1) F.TIL_STATUS_PC g = r.1 := by
      rw [getF_setF_same s F.TIL_STATUS_PC g r.1 (by decide)]
      exact Nat.mod_eq_of_lt hlt
    have ho : OnlyTile g [regAddr .TIL_STATUS g 0] s (setF s F.TIL_STATUS_PC g r.1) := onlyTile_setF g s F.TIL_STATUS_PC r.1
    refine ⟨?_, ?_, ?_, ?_, ?_⟩
    · exact ho.trans (onlyTile_modTile g _ _) (List.Subset.refl _) (List.nil_subset _)
    · simp only [issueAt, tileOf_modTile_same, tileOf_setF, getF_modTile, hp, ha, Bool.false_eq_true, if_false, Option.getD_none]
    · simp only [issueAt, tileOf_modTile_same, tileOf_setF, getF_modTile, hp, ha, Bool.false_eq_true, if_false, Option.getD_none]
    · simp only [tileOf_modTile_same, tileOf_setF]
    · intro f hf hd
      rw [getF_modTile]
      exact status_kept _ _ _ _ _ hf (by decide) hd

/-- What retirement does (R61). -/
theorem retire_done {s u : State} {g pc : Nat} {rs : List RegName} (h : OnlyTile g (rs.map (regAddr · g 0)) s u)
    (hs : rdReg u .TIL_STATUS g 0 = rdReg s .TIL_STATUS g 0) : OpDone s (retire u g pc) g pc rs (tileOf u g) := by
  obtain ⟨v, hv, ko, kf, kp, kt, ks⟩ := moveIssue_run u g pc
  have base : ∀ f : Fld, f.reg = .TIL_STATUS → getF u f g = getF s f g := by
    intro f hf
    simp only [getF, getI, hf, hs]
  have key : ∀ W, tileOf W g = { tileOf v g with wait := none, fencing := none, held := (tileOf W g).held } →
      (∀ q, getF W q g = getF (setF v F.TIL_STATUS_WAITKIND g 0) q g) → OnlyTile g [] (setF v F.TIL_STATUS_WAITKIND g 0) W →
      OpDone s W g pc rs (tileOf u g) := by
    intro W ht hg ho
    have hpc : getF W F.TIL_STATUS_PC g = getF v F.TIL_STATUS_PC g := (hg _).trans (status_kept _ _ _ _ _ rfl (by decide) (by decide))
    have hi : issueAt W g = issueAt v g := by
      unfold issueAt
      rw [hpc, ht]
    refine ⟨?_, ?_, ?_, ?_, ?_, ?_, ?_, ?_⟩
    · rw [hi, ht, ← kf]
    · rw [hi, hpc, kp, base _ rfl]
    · rw [hg, getF_setF_same _ _ _ _ (by decide)]
      rfl
    · intro f hf
      simp only [List.mem_cons, List.not_mem_nil, or_false] at hf
      rw [hg]
      have out : ∀ f : Fld, f.reg = .TIL_STATUS → (f.lo + f.w ≤ 4 ∨ 8 ≤ f.lo) → (f.lo + f.w ≤ 16 ∨ 36 ≤ f.lo) →
          getF (setF v F.TIL_STATUS_WAITKIND g 0) f g = getF s f g := fun f hf h1 h2 =>
        (status_kept _ _ _ _ _ hf (by decide) h1).trans ((ks f hf h2).trans (base f hf))
      rcases hf with rfl | rfl | rfl | rfl | rfl <;> exact out _ rfl (by decide) (by decide)
    · rw [ht, kt]
      rfl
    · rw [ht]
    · rw [ht]
    · refine ((h.trans (cs := (RegName.TIL_STATUS :: rs).map (regAddr · g 0)) ko ?_ ?_).trans
        (onlyTile_setF g v F.TIL_STATUS_WAITKIND 0) (List.Subset.refl _) ?_).trans ho (List.Subset.refl _) (List.nil_subset _)
      · intro a ha; simp at ha ⊢; exact Or.inr ha
      · intro a ha; simp at ha ⊢; exact Or.inl ha
      · intro a ha; simp at ha ⊢; exact Or.inl ha
  unfold retire progress
  dsimp only
  rw [hv]
  refine key _ ?_ ?_ ?_
  · simp only [tileOf_modTile_same, tileOf_setF]
  · intro q
    rw [getF_modTile, getF_modTile]
  · exact (onlyTile_modTile g _ _).trans (onlyTile_modTile g _ _) (List.Subset.refl _) (List.Subset.refl _)

/-- An op that issues runs its body in the state `issued`. -/
theorem runOp_body {s : State} {t : TileId} {w : Word} {op : Nat} {body : TileM OpEnd} (hi : Issues s t w op) :
    runOp t w op body s = finishOp s t.gid (body (issued s t.gid w)) := by
  obtain ⟨h1, h2, h3⟩ := hi
  unfold runOp issued
  rw [if_pos ⟨h2, Or.inl h1⟩, if_neg (fun h => by rw [h3 h.1] at h; exact absurd h.2.1 (by decide)), if_pos h1]

/-- An op whose body ends with the next op. -/
theorem runOp_next {s u : State} {t : TileId} {w : Word} {op : Nat} {body : TileM OpEnd} (hi : Issues s t w op)
    (hb : body (issued s t.gid w) = .ok .next u) : runOp t w op body s = retire u t.gid (issueAt u t.gid + 8) := by
  rw [runOp_body hi, hb]
  rfl

/-! ### What a body does to its tile -/

theorem Becomes.refl (g : Nat) (s : State) : Becomes g s s (tileOf s g) 0 := ⟨OnlyTile.refl g _ s, rfl, by simp⟩

theorem Becomes.trans {g : Nat} {s u v : State} {t t' : Tile} {f f' : Flags} (h : Becomes g s u t f) (k : Becomes g u v t' f') :
    Becomes g s v t' (f ||| f') :=
  ⟨h.1.trans k.1 (List.Subset.refl _) (List.Subset.refl _), k.2.1, by
    rw [k.2.2, h.2.2, BitVec.setWidth_or, BitVec.or_assoc]⟩

theorem becomes_setTile (g : Nat) (s : State) (t : Tile) : Becomes g s (setTile s g t) t 0 :=
  ⟨(onlyTile_setTile g s t).trans (OnlyTile.refl g _ _) (List.nil_subset _) (List.Subset.refl _), tileOf_setTile_same s g t, by simp⟩

theorem becomes_modTile (g : Nat) (s : State) (f : Tile → Tile) : Becomes g s (modTile s g f) (f (tileOf s g)) 0 :=
  becomes_setTile g s _

theorem becomes_flags (g : Nat) (s : State) (fl : Flags) :
    Becomes g s (wrReg s .TIL_FLAGS g 0 (rdReg s .TIL_FLAGS g 0 ||| fl.setWidth 64)) (tileOf s g) fl :=
  ⟨onlyTile_wrReg g s .TIL_FLAGS _, by simp, by simp⟩

/-- A register of the tile other than TIL_FLAGS. -/
theorem Becomes.reg {g : Nat} {s u : State} {t : Tile} {fl : Flags} (h : Becomes g s u t fl) {r : RegName}
    (hr : regAddr r g 0 ≠ regAddr .TIL_FLAGS g 0) : rdReg u r g 0 = rdReg s r g 0 := by
  unfold rdReg getD
  rw [h.1.2.1 _ (by simpa using hr)]

theorem tilAddr_ne {r q : RegName} (g : Nat) (hr : (regRow r).region = .til) (hq : (regRow q).region = .til)
    (h : (regRow r).base ≠ (regRow q).base) : regAddr r g 0 ≠ regAddr q g 0 := by
  simp only [regAddr, hr, hq, Nat.zero_div, Nat.zero_mod, Nat.zero_mul]
  omega

theorem Becomes.quiet {g : Nat} {s u : State} {t : Tile} {fl : Flags} (h : Becomes g s u t fl)
    (hi : getF s F.TIL_MEM_INJ_ARM g = 0) : getF u F.TIL_MEM_INJ_ARM g = 0 := by
  have k : rdReg u .TIL_MEM_INJ g 0 = rdReg s .TIL_MEM_INJ g 0 := h.reg (tilAddr_ne g rfl rfl (by decide))
  unfold getF getI at hi ⊢
  rw [show F.TIL_MEM_INJ_ARM.reg = RegName.TIL_MEM_INJ from rfl] at hi ⊢
  rw [k]
  exact hi

/-- The engine issues at the same place. -/
theorem Becomes.issueAt {g : Nat} {s u : State} {t : Tile} {fl : Flags} (h : Becomes g s u t fl)
    (hi : t.issue = (tileOf s g).issue) : Machine.issueAt u g = Machine.issueAt s g := by
  have hs : rdReg u .TIL_STATUS g 0 = rdReg s .TIL_STATUS g 0 := h.reg (tilAddr_ne g rfl rfl (by decide))
  unfold Machine.issueAt getF getI
  rw [h.2.1, hi, show F.TIL_STATUS_PC.reg = RegName.TIL_STATUS from rfl, hs]

/-- An op that retires after its body has left the tile as `t`. -/
theorem retire_did {s u : State} {g : Nat} {tl : Tile} {fl : Flags} (h : Becomes g s u tl fl) :
    Did s (retire u g (issueAt s g + 8)) g tl fl := by
  have hs : rdReg u .TIL_STATUS g 0 = rdReg s .TIL_STATUS g 0 := h.reg (tilAddr_ne g rfl rfl (by decide))
  have hd := retire_done (pc := issueAt s g + 8) (rs := [.TIL_FLAGS]) h.1 hs
  rw [h.2.1] at hd
  refine ⟨hd, ?_⟩
  rw [← h.2.2]
  have k : regAddr .TIL_FLAGS g 0 ≠ regAddr .TIL_STATUS g 0 := tilAddr_ne g rfl rfl (by decide)
  unfold retire progress moveIssue
  dsimp only
  rw [rdReg_modTile, rdReg_modTile, rdReg_setF_ne _ F.TIL_STATUS_WAITKIND _ _ _ _ _ k, rdReg_modTile]
  split
  · rfl
  · exact rdReg_setF_ne _ F.TIL_STATUS_PC _ _ _ _ _ k

/-- An op whose body leaves the tile as `t` and goes on to the next op. -/
theorem runOp_did {s u : State} {t : TileId} {w : Word} {op : Nat} {body : TileM OpEnd} {tl : Tile} {fl : Flags}
    (hi : Issues s t w op) (hb : body (issued s t.gid w) = .ok .next u) (h : Becomes t.gid (issued s t.gid w) u tl fl)
    (hk : tl.issue = (tileOf (issued s t.gid w) t.gid).issue) :
    Did (issued s t.gid w) (runOp t w op body s) t.gid tl fl := by
  rw [runOp_next hi hb, h.issueAt hk]
  exact retire_did h

/-! ### Loops -/

theorem forIn_nil_run {α β : Type} (b : β) (f : α → β → TileM (ForInStep β)) (s : State) :
    (forIn ([] : List α) b f : TileM β) s = .ok b s := rfl

theorem forIn_cons_run {α β : Type} {x : α} {l : List α} {b b' : β} {f : α → β → TileM (ForInStep β)} {s u : State}
    (h : f x b s = .ok (.yield b') u) : (forIn (x :: l) b f : TileM β) s = (forIn l b' f : TileM β) u := by
  rw [List.forIn_cons, tileM_bind_ok h]

/-! ### Quiet runs -/

/-- Tile `g` is `t`, and holds no byte in error. -/
def At (g : Nat) (s : State) (t : Tile) : Prop := Quiet s g ∧ tileOf s g = t

/-- From `s` a body gives `a` and leaves the tile as `t` with the flags `fl` raised; memory stays free of errors. -/
def Runs {α : Type} (g : Nat) (m : TileM α) (s : State) (a : α) (t : Tile) (fl : Flags) : Prop :=
  ∃ u, m s = .ok a u ∧ Becomes g s u t fl ∧ At g u t ∧ t.issue = (tileOf s g).issue

theorem flags_zero (fl : Flags) : fl ||| 0 = fl := BitVec.or_zero
theorem zero_flags (fl : Flags) : 0 ||| fl = fl := BitVec.zero_or

theorem At.of_becomes {g : Nat} {s u : State} {t t' : Tile} {fl : Flags} (h : Becomes g s u t' fl) (q : At g s t)
    (hm : t'.memFlip = t.memFlip ∨ t'.memFlip = []) (h0 : t'.hflip0 = t.hflip0) (h1 : t'.hflip1 = t.hflip1)
    (hr : t'.riserFlip = t.riserFlip ∨ t'.riserFlip = []) : At g u t' := by
  obtain ⟨⟨q0, q1, q2, q3, q4⟩, rfl⟩ := q
  refine ⟨⟨?_, ?_, ?_, ?_, h.quiet q4⟩, h.2.1⟩
  · rw [h.2.1]; rcases hm with hm | hm <;> simp [hm, q0]
  · rw [h.2.1, h0, q1]
  · rw [h.2.1, h1, q2]
  · rw [h.2.1]; rcases hr with hr | hr <;> simp [hr, q3]

theorem Runs.pure {α : Type} {g : Nat} {s : State} {t : Tile} (q : At g s t) (a : α) : Runs g (pure a) s a t 0 :=
  ⟨s, rfl, q.2 ▸ Becomes.refl g s, q, by rw [q.2]⟩

theorem Runs.of_ok {α : Type} {g : Nat} {m : TileM α} {s : State} {t : Tile} {a : α} (q : At g s t) (h : m s = .ok a s) :
    Runs g m s a t 0 := ⟨s, h, q.2 ▸ Becomes.refl g s, q, by rw [q.2]⟩

/-- One body after another. -/
theorem Runs.bind {α β : Type} {g : Nat} {m : TileM α} {f : α → TileM β} {s : State} {a : α} {b : β} {t t' : Tile} {fl fl' : Flags}
    (h : Runs g m s a t fl) (k : ∀ u, Becomes g s u t fl → At g u t → Runs g (f a) u b t' fl') :
    Runs g (m >>= f) s b t' (fl ||| fl') := by
  obtain ⟨u, hm, hb, hq, hi⟩ := h
  obtain ⟨v, hf, hb', hq', hi'⟩ := k u hb hq
  exact ⟨v, by rw [tileM_bind_ok hm, hf], hb.trans hb', hq', by rw [hi', hb.2.1, hi]⟩

/-- Reading the state. -/
theorem Runs.get {β : Type} {g : Nat} {f : State → TileM β} {s : State} {b : β} {t : Tile} {fl : Flags} (h : Runs g (f s) s b t fl) :
    Runs g (MonadStateOf.get >>= f) s b t fl := by
  obtain ⟨u, hm, hr⟩ := h
  exact ⟨u, (tileM_bind_ok (tileM_get s)).trans hm, hr⟩

/-- A first step that raises no flag. -/
theorem Runs.step {α β : Type} {g : Nat} {m : TileM α} {f : α → TileM β} {s : State} {a : α} {b : β} {t t' : Tile} {fl : Flags}
    (h : Runs g m s a t 0) (k : ∀ u, Becomes g s u t 0 → At g u t → Runs g (f a) u b t' fl) :
    Runs g (m >>= f) s b t' fl := by
  have r := h.bind k
  rwa [zero_flags] at r

/-- A last step that raises no flag. -/
theorem Runs.last {α β : Type} {g : Nat} {m : TileM α} {f : α → TileM β} {s : State} {a : α} {b : β} {t t' : Tile} {fl : Flags}
    (h : Runs g m s a t fl) (k : ∀ u, Becomes g s u t fl → At g u t → Runs g (f a) u b t' 0) :
    Runs g (m >>= f) s b t' fl := by
  have r := h.bind k
  rwa [flags_zero] at r

theorem Runs.cast {α : Type} {g : Nat} {m : TileM α} {s : State} {a b : α} {t t' : Tile} {fl fl' : Flags}
    (h : Runs g m s a t fl) (ha : a = b) (ht : t = t') (hf : fl = fl') : Runs g m s b t' fl' := by
  subst ha; subst ht; subst hf; exact h

theorem stored_other (t : Tile) (a : Nat) (bs : List Byte) :
    (stored t a bs).hflip0 = t.hflip0 ∧ (stored t a bs).hflip1 = t.hflip1 ∧ (stored t a bs).riserFlip = t.riserFlip ∧
      (stored t a bs).issue = t.issue := by
  have h1 : ∀ (bs : List Byte) (t : Tile) (a : Nat), (storeBytes t a bs).hflip0 = t.hflip0 ∧
      (storeBytes t a bs).hflip1 = t.hflip1 ∧ (storeBytes t a bs).riserFlip = t.riserFlip ∧ (storeBytes t a bs).issue = t.issue := by
    intro bs
    induction bs with
    | nil => exact fun _ _ => ⟨rfl, rfl, rfl, rfl⟩
    | cons b bs ih => exact fun t a => ih (storeByte t a b 0) (a + 1)
  have h2 : ∀ (ls : List Nat) (t : Tile), (ls.foldl openLine t).hflip0 = t.hflip0 ∧
      (ls.foldl openLine t).hflip1 = t.hflip1 ∧ (ls.foldl openLine t).riserFlip = t.riserFlip ∧ (ls.foldl openLine t).issue = t.issue := by
    intro ls
    induction ls with
    | nil => exact fun _ => ⟨rfl, rfl, rfl, rfl⟩
    | cons l ls ih =>
      intro t
      have k : (openLine t l).hflip0 = t.hflip0 ∧ (openLine t l).hflip1 = t.hflip1 ∧ (openLine t l).riserFlip = t.riserFlip ∧
          (openLine t l).issue = t.issue := by
        unfold openLine
        split <;> exact ⟨rfl, rfl, rfl, rfl⟩
      obtain ⟨a, b, c, d⟩ := ih (openLine t l)
      exact ⟨a.trans k.1, b.trans k.2.1, c.trans k.2.2.1, d.trans k.2.2.2⟩
  obtain ⟨a1, b1, c1, d1⟩ := h1 bs ((linesOf a bs.length).foldl openLine t) a
  obtain ⟨a2, b2, c2, d2⟩ := h2 (linesOf a bs.length) t
  exact ⟨a1.trans a2, b1.trans b2, c1.trans c2, d1.trans d2⟩

theorem writeMem_runs {g a : Nat} {bs : List Byte} {s : State} {t : Tile} (q : At g s t) :
    Runs g (writeMem g a bs) s () (stored t a bs) 0 := by
  obtain ⟨h0, h1, h2, h3⟩ := stored_other t a bs
  have hb : Becomes g s (setTile s g (stored t a bs)) (stored t a bs) 0 := becomes_setTile g s _
  refine ⟨_, ?_, hb, hb.quiet q.1.2.2.2.2 |> fun _ => At.of_becomes hb q (.inr (stored_flip (q.2 ▸ q.1.1))) h0 h1 (.inl h2),
    by rw [h3, q.2]⟩
  rw [writeMem_run q.1.2.2.2.2, q.2]

theorem readMem_runs {g a n : Nat} {s : State} {t : Tile} (q : At g s t) (h : inMem a n = true) :
    Runs g (readMem g a n) s (tileBytes t a n) t 0 := Runs.of_ok q (by rw [readMem_run q.1.1 h, q.2])

theorem raiseFlags_runs {g : Nat} {fl : Flags} {s : State} {t : Tile} (q : At g s t) :
    Runs g (raiseFlags g fl) s () t fl := by
  have hb := becomes_flags g s fl
  rw [q.2] at hb
  exact ⟨_, rfl, hb, At.of_becomes hb q (.inl rfl) rfl rfl (.inl rfl), by rw [q.2]⟩

theorem faultIf_runs {g c : Nat} {b : Bool} {s : State} {t : Tile} (q : At g s t) (h : b = false) :
    Runs g (faultIf b c) s () t 0 := Runs.of_ok q (faultIf_false c s h)

theorem get_runs {g : Nat} {s : State} {t : Tile} (q : At g s t) : Runs g (get : TileM State) s s t 0 := Runs.of_ok q rfl

theorem pReg_runs {g n : Nat} {s : State} {t : Tile} (q : At g s t) : Runs g (pReg g n) s (ptr t n) t 0 :=
  Runs.of_ok q (by rw [← q.2]; rfl)

theorem sReg_runs {g n : Nat} {s : State} {t : Tile} (q : At g s t) : Runs g (sReg g n) s (num t n) t 0 :=
  Runs.of_ok q (by rw [← q.2]; rfl)

/-- A change of the tile beside its error marks. -/
theorem modify_runs {g : Nat} {f : Tile → Tile} {s : State} {t : Tile} (q : At g s t)
    (hm : (f t).memFlip = t.memFlip ∨ (f t).memFlip = []) (h0 : (f t).hflip0 = t.hflip0) (h1 : (f t).hflip1 = t.hflip1)
    (hr : (f t).riserFlip = t.riserFlip ∨ (f t).riserFlip = []) (hi : (f t).issue = t.issue) :
    Runs g (modify (fun s => modTile s g f)) s () (f t) 0 := by
  have hb := becomes_modTile g s f
  rw [q.2] at hb
  exact ⟨_, rfl, hb, At.of_becomes hb q hm h0 h1 hr, by rw [hi, q.2]⟩

/-- An op whose body runs so retires (R61). -/
theorem Runs.did {s : State} {t : TileId} {w : Word} {op : Nat} {body : TileM OpEnd} {tl : Tile} {fl : Flags}
    (h : Runs t.gid body (issued s t.gid w) .next tl fl) (hi : Issues s t w op) :
    Did (issued s t.gid w) (runOp t w op body s) t.gid tl fl := by
  obtain ⟨u, hb, hk, -, he⟩ := h
  exact runOp_did hi hb hk he

/-! ### Elements -/

/-- Element patterns in a tile's memory. -/
theorem readElems_runs {g f a n : Nat} {s : State} {t : Tile} (q : At g s t) (h : inMem a (elemBytes f n) = true) :
    Runs g (readElems g f a n) s (tileElems t f a n) t 0 := by
  refine Runs.of_ok q ?_
  unfold readElems
  rw [tileM_bind_ok (readMem_run q.1.1 h), q.2]
  rfl

theorem readF32_runs {g f a n : Nat} {s : State} {t : Tile} (q : At g s t) (h : inMem a (elemBytes f n) = true) :
    Runs g (readF32 g f a n) s (tileF32 t f a n) t 0 := by
  unfold readF32
  exact (readElems_runs q h).step fun u _ qu => Runs.pure qu _

theorem writeElems_runs {g f a : Nat} {xs : List Nat} {s : State} {t : Tile} (q : At g s t) :
    Runs g (writeElems g f a xs) s () (stored t a (packElems (fmtWidth f) xs)) 0 := writeMem_runs q

theorem writeResults_runs {g f a : Nat} {xs : List (W32 × Flags)} {s : State} {t : Tile} (q : At g s t) :
    Runs g (writeResults g f a xs) s () (stored t a (f32Bytes f xs)) (f32Flags f xs) := by
  unfold writeResults
  exact (writeElems_runs q).step fun u _ qu => raiseFlags_runs qu

/-! ### Lanes -/

theorem loadLane_runs {g a : Nat} {s : State} {t : Tile} (q : At g s t) (h : inMem a 384 = true) :
    Runs g (loadLane g a) s (laneImage t a) t 0 := by
  refine Runs.of_ok q ?_
  unfold loadLane laneImage
  rw [tileM_bind_ok (tileM_get s), q.2]
  cases hf : t.gen.find? (fun h => h.addr == a) with
  | some x => rfl
  | none => exact (readMem_run q.1.1 h).trans (by rw [q.2]; rfl)

/-- Held states written back, one after another. -/
theorem writeBack_run {g : Nat} (hs : List HeldLane) {s : State} {t : Tile} (q : At g s t) :
    Becomes g s (hs.foldl (writeBackLane g) s) (writtenBack t hs) 0 ∧ At g (hs.foldl (writeBackLane g) s) (writtenBack t hs) ∧
      (writtenBack t hs).issue = t.issue := by
  induction hs generalizing s t with
  | nil => exact ⟨q.2 ▸ Becomes.refl g s, q, rfl⟩
  | cons x hs ih =>
    obtain ⟨u, hu, hb, hq, hi⟩ := writeMem_runs (a := x.addr) (bs := x.bytes) q
    cases hu
    obtain ⟨kb, kq, ki⟩ := ih hq
    refine ⟨?_, kq, ki.trans (by rw [hi, q.2])⟩
    have r := hb.trans kb
    rwa [zero_flags] at r

theorem holdLane_runs {g : Nat} {x : HeldLane} {s : State} {t : Tile} (q : At g s t) :
    Runs g (modify (fun s => holdLane s g x)) s () (holding t x) 0 := by
  obtain ⟨q, rfl⟩ := q
  have k := modify_runs (s := s) (g := g) (t := tileOf s g)
    (f := fun t => { t with gen := (x :: (tileOf s g).gen.filter (fun y => y.addr != x.addr)).take genSize }) ⟨q, rfl⟩
    (.inl rfl) rfl rfl (.inl rfl) rfl
  obtain ⟨u, hu, hb, hq, hi⟩ := k
  cases hu
  obtain ⟨kb, kq, ki⟩ := writeBack_run ((x :: (tileOf s g).gen.filter (fun y => y.addr != x.addr)).drop genSize) hq
  have r := hb.trans kb
  rw [zero_flags] at r
  exact ⟨_, rfl, r, kq, ki.trans hi⟩

theorem drawLane_runs {g base k n : Nat} {s : State} {t : Tile} (q : At g s t) (h : inMem (base + 384 * k) 384 = true) :
    Runs g (drawLane g base k n) s (drawOf t base k n).1 (drawOf t base k n).2 0 := by
  unfold drawLane
  exact (loadLane_runs q h).step fun u _ qu => (holdLane_runs qu).step fun v _ qv => Runs.pure qv _

/-- Writing the held states back keeps a tile quiet (R347). -/
theorem flush_run {s : State} {g : Nat} (q : Quiet s g) :
    Becomes g s (flushGen s g) (writtenBack { tileOf s g with gen := [] } (tileOf s g).gen.reverse) 0 ∧ Quiet (flushGen s g) g := by
  obtain ⟨u, hu, hb, hq, -⟩ := modify_runs (s := s) (g := g) (t := tileOf s g) (f := fun t => { t with gen := [] }) ⟨q, rfl⟩
    (.inl rfl) rfl rfl (.inl rfl) rfl
  cases hu
  obtain ⟨kb, kq, -⟩ := writeBack_run (tileOf s g).gen.reverse hq
  have r := hb.trans kb
  rw [zero_flags] at r
  exact ⟨r, kq.1⟩

theorem quiet_issued {s : State} {g : Nat} {w : Word} (q : Quiet s g) : Quiet (issued s g w) g := by
  unfold issued
  split
  · exact (flush_run q).2
  · exact q

theorem lane_inMem {base n k : Nat} (h : inMem base (384 * n) = true) (hk : k < n) : inMem (base + 384 * k) 384 = true := by
  simp only [inMem, decide_eq_true_eq] at h ⊢
  omega

/-- A loop that passes a value on, over a tile. -/
theorem forIn_runs {α β : Type} {g : Nat} {f : α → β → TileM (ForInStep β)} {step : β × Tile → α → β × Tile} {ok : α → Prop}
    (hf : ∀ x b s t, At g s t → ok x → Runs g (f x b) s (.yield (step (b, t) x).1) (step (b, t) x).2 0)
    (l : List α) (hl : ∀ x ∈ l, ok x) (b : β) {s : State} {t : Tile} (q : At g s t) :
    Runs g (forIn l b f) s (l.foldl step (b, t)).1 (l.foldl step (b, t)).2 0 := by
  induction l generalizing b s t with
  | nil => exact Runs.pure q b
  | cons x l ih =>
    rw [List.forIn_cons]
    exact (hf x b s t q (hl x (by simp))).step fun u _ qu => ih (fun y hy => hl y (by simp [hy])) _ qu

/-- A loop of steps over a tile. -/
theorem forM_runs {α : Type} {g : Nat} {f : α → PUnit → TileM (ForInStep PUnit)} {F : Tile → α → Tile × Flags} {ok : α → Prop}
    (hf : ∀ x s t, At g s t → ok x → Runs g (f x PUnit.unit) s (.yield PUnit.unit) (F t x).1 (F t x).2)
    (l : List α) (hl : ∀ x ∈ l, ok x) {s : State} {t : Tile} (q : At g s t) :
    Runs g (forIn l PUnit.unit f) s PUnit.unit (stepsOf F l t).1 (stepsOf F l t).2 := by
  induction l generalizing s t with
  | nil => exact Runs.pure q _
  | cons x l ih =>
    rw [List.forIn_cons]
    exact (hf x s t q (hl x (by simp))).bind fun u _ qu => ih (fun y hy => hl y (by simp [hy])) qu

/-- The random bits of elements, lane by lane. -/
theorem stochBits_runs {g base n m : Nat} {s : State} {t : Tile} (q : At g s t) (hm : (n + 15) / 16 ≤ m)
    (h : inMem base (384 * m) = true) : Runs g (stochBits g base n) s (stochOf t base n).1 (stochOf t base n).2 0 := by
  unfold stochBits
  refine Runs.step (forIn_runs (ok := fun k => k < m) (step := fun a k =>
    (a.1 ++ groupBits (drawOf a.2 base k 4).1 (min 16 (n - 16 * k)), (drawOf a.2 base k 4).2)) ?_ _ ?_ _ q) fun u _ qu => Runs.pure qu _
  · intro k out s t q hk
    exact (drawLane_runs q (lane_inMem h hk)).step fun u _ qu => Runs.pure qu _
  · intro k hk
    exact Nat.lt_of_lt_of_le (List.mem_range.1 hk) hm

/-- A loop of checks that leave the tile as it is. -/
theorem forIn_same {α : Type} {g : Nat} {f : α → PUnit → TileM (ForInStep PUnit)} {t : Tile} {ok : α → Prop}
    (hf : ∀ x s, At g s t → ok x → Runs g (f x PUnit.unit) s (.yield PUnit.unit) t 0)
    (l : List α) (hl : ∀ x ∈ l, ok x) {s : State} (q : At g s t) : Runs g (forIn l PUnit.unit f) s PUnit.unit t 0 := by
  induction l generalizing s with
  | nil => exact Runs.pure q _
  | cons x l ih =>
    rw [List.forIn_cons]
    exact (hf x s q (hl x (by simp))).step fun u _ qu => ih (fun y hy => hl y (by simp [hy])) qu

theorem checkMem_runs {g a n : Nat} {s : State} {t : Tile} (q : At g s t) : Runs g (checkMem g a n) s () t 0 := by
  unfold checkMem
  refine (get_runs q).step fun u _ qu => ?_
  rw [q.2, memErrs_nil (q.2 ▸ q.1.1)]
  exact (Runs.pure qu _ : Runs g (forIn (([] : List (Nat × Nat)).filter _) PUnit.unit _) u PUnit.unit t 0).step fun v _ qv => Runs.pure qv _

theorem checkLanes_runs {g base n : Nat} {s : State} {t : Tile} (q : At g s t) (h : inMem base (384 * n) = true)
    (hp : ∀ k < n, (laneOf t base k).ptr ≤ 88) : Runs g (checkLanes g base n) s () t 0 := by
  unfold checkLanes
  refine (faultIf_runs q (by simp [h])).step fun u _ qu => ?_
  refine Runs.step (forIn_same (ok := fun k => k < n) ?_ _ (fun k hk => List.mem_range.1 hk) qu) fun u _ qu => Runs.pure qu _
  intro k s q hk
  have hk := hp k hk
  unfold laneOf laneImage at hk
  dsimp only
  refine (get_runs q).step fun u _ qu => ?_
  rw [q.2]
  cases hf : t.gen.find? (fun h => h.addr == base + 384 * k) with
  | some x =>
    rw [hf] at hk
    exact (faultIf_runs qu (decide_eq_false (Nat.not_lt.2 hk))).step fun v _ qv => Runs.pure qv _
  | none =>
    rw [hf] at hk
    exact (checkMem_runs qu).step fun v _ qv => (faultIf_runs qv (decide_eq_false (Nat.not_lt.2 hk))).step fun v _ qv => Runs.pure qv _

/-! ### Riser accumulators without errors -/

theorem eccBits_zero (d : Nat) : eccBits d 0 = [] := by simp [eccBits]

/-- A codeword with no bit inverted delivers its data (R362). -/
theorem eccDeliver_zero (d x : Nat) : eccDeliver d x 0 = x := by
  have h : eccResult d 0 = .clean := by simp [eccResult, eccParity, eccSyndrome, eccBits_zero]
  simp [eccDeliver, h]

theorem readRiser_runs {g i n : Nat} {s : State} {t : Tile} (q : At g s t) :
    Runs g (readRiser g i n) s (riserVals t i n) t 0 := by
  have hf : t.riserFlip = [] := q.2 ▸ q.1.2.2.2.1
  unfold readRiser
  refine (get_runs q).step fun u hb qu => ?_
  rw [q.2]
  dsimp only
  rw [hf]
  refine (Runs.pure qu _ : Runs g (forIn (([] : Assoc Nat).filter _) PUnit.unit _) u PUnit.unit t 0).step fun v _ qv => ?_
  refine (Runs.pure qv _).cast ?_ rfl rfl
  unfold riserVals
  refine List.map_congr_left fun k _ => ?_
  rw [getD_nil, eccDeliver_zero]
  exact BitVec.ofNat_toNat _ _ |>.trans (BitVec.setWidth_eq _)

theorem checkRiser_runs {g i n : Nat} {s : State} {t : Tile} (q : At g s t) : Runs g (checkRiser g i n) s () t 0 := by
  have hf : t.riserFlip = [] := q.2 ▸ q.1.2.2.2.1
  unfold checkRiser
  refine (get_runs q).step fun u hb qu => ?_
  rw [q.2]
  dsimp only
  rw [hf]
  exact (Runs.pure qu _ : Runs g (forIn (([] : Assoc Nat).filter _) PUnit.unit _) u PUnit.unit t 0).step fun v _ qv => Runs.pure qv _

theorem putRiser_other (t : Tile) (i : Nat) (vs : List W32) (h : t.riserFlip = []) :
    (putRiser t i vs).memFlip = t.memFlip ∧ (putRiser t i vs).hflip0 = t.hflip0 ∧ (putRiser t i vs).hflip1 = t.hflip1 ∧
      (putRiser t i vs).riserFlip = [] ∧ (putRiser t i vs).issue = t.issue := by
  induction vs generalizing t i with
  | nil => exact ⟨rfl, rfl, rfl, h, rfl⟩
  | cons v vs ih => exact ih _ _ (by simp [h, erase])

theorem writeRiser_runs {g i : Nat} {vs : List W32} {s : State} {t : Tile} (q : At g s t) :
    Runs g (writeRiser g i vs) s () (putRiser t i vs) 0 := by
  obtain ⟨h0, h1, h2, h3, h4⟩ := putRiser_other t i vs (q.2 ▸ q.1.2.2.2.1)
  exact modify_runs (f := fun t => putRiser t i vs) q (.inl h0) h1 h2 (.inr h3) h4

end Sys2Proof.Machine
end

