-- ==== Sys2Proof/Laws/TileOps.lean ====
section
/-! SUPPORT. What the shared parts of the ops' bodies do to a tile without errors: registers, riser bytes, conversions. -/
namespace Sys2Proof.Machine

/-! ### Registers (R55) -/

theorem putReg_runs {g kind reg v : Nat} {s : State} {t : Tile} (q : At g s t) :
    Runs g (putReg g kind reg v) s () (withReg t kind reg v) 0 := by
  unfold putReg
  refine (modify_runs (f := fun t => withReg t kind reg v) q (.inl ?_) ?_ ?_ (.inl ?_) ?_) <;> unfold withReg <;> split <;> rfl

/-! ### Riser bytes (R53) -/

theorem readRiserBytes_runs {g a n : Nat} {s : State} {t : Tile} (q : At g s t) :
    Runs g (readRiserBytes g a n) s (riserRange t a n) t 0 := by
  unfold readRiserBytes
  exact (readRiser_runs q).step fun u _ qu => Runs.pure qu _

/-- An accumulator read without its check delivers its value. -/
theorem rawRiser {t : Tile} (h : t.riserFlip = []) (i : Nat) :
    [BitVec.ofNat 32 (eccDeliver 32 (getD t.riser i 0).toNat (getD t.riserFlip i 0))] = riserVals t i 1 := by
  rw [h, getD_nil, eccDeliver_zero]
  simp [riserVals]

theorem writeRiserBytes_runs {g a : Nat} {bs : List Byte} {s : State} {t : Tile} (q : At g s t) :
    Runs g (writeRiserBytes g a bs) s () (riserStored t a bs) 0 := by
  have hf : t.riserFlip = [] := q.2 ▸ q.1.2.2.2.1
  have last : ∀ {s : State} {f : List W32 → TileM Unit} {t' : Tile}, At g s t →
      (∀ u, At g u t → Runs g (f (riserVals t (accAt (a + bs.length - 1)) 1)) u () t' 0) →
      Runs g (if a % 4 ≠ 0 ∧ accAt (a + bs.length - 1) = accAt a then do
          let x ← get
          let y ← get
          let v ← pure [BitVec.ofNat 32 (eccDeliver 32 (getD (tileOf x g).riser (accAt (a + bs.length - 1)) 0).toNat
            (getD (tileOf y g).riserFlip (accAt (a + bs.length - 1)) 0))]
          f v
        else do
          let v ← readRiser g (accAt (a + bs.length - 1)) 1
          f v) s () t' 0 := by
    intro s f t' q k
    split
    · refine (get_runs q).step fun u _ qu => (get_runs qu).step fun v _ qv => ?_
      rw [q.2, qu.2, rawRiser hf]
      exact (Runs.pure qv _).step fun w _ qw => k w qw
    · exact (readRiser_runs q).step fun u _ qu => k u qu
  unfold writeRiserBytes riserStored
  dsimp only
  split <;> split
  · exact (Runs.pure q _).step fun u _ qu => (Runs.pure qu _).step fun u _ qu => writeRiser_runs qu
  · exact (Runs.pure q _).step fun u _ qu => last qu fun u qu => (Runs.pure qu _).step fun u _ qu => writeRiser_runs qu
  · exact (readRiser_runs q).step fun u _ qu => (Runs.pure qu _).step fun u _ qu => (Runs.pure qu _).step fun u _ qu =>
      writeRiser_runs qu
  · exact (readRiser_runs q).step fun u _ qu => (Runs.pure qu _).step fun u _ qu => last qu fun u qu =>
      (Runs.pure qu _).step fun u _ qu => writeRiser_runs qu

/-! ### Conversions (R102 to R107) -/

theorem convertOp_runs {g : Nat} {w : Word} {field : Nat} {s : State} {t : Tile} (q : At g s t) (h : Convertible t w field) :
    Runs g (convertOp g w field) s .next (converted t w field).1 (converted t w field).2 := by
  obtain ⟨h1, h2, h3, h4, h5⟩ := h
  have hf : (decide (9 < wFmt w) || decide (9 < wFmt2 w) || !roundOk field) = false := by simp [h1, h2, h3]
  unfold convertOp converted
  dsimp only
  by_cases hs : roundStoch field = true
  · simp only [hs, if_true]
    refine (faultIf_runs q hf).step fun u _ qu => (sReg_runs qu).step fun u _ qu =>
      Runs.step (faultIf_runs qu (by simpa [convBase] using h4 hs) : Runs g (checkLaneAlign _) _ _ _ _) fun u _ qu => ?_
    split
    · exact Runs.pure qu _
    · next hn =>
      obtain ⟨k1, k2, k3⟩ := h5 hn
      obtain ⟨l1, l2, l3⟩ := k3 hs
      exact (pReg_runs qu).step fun u _ qu => (pReg_runs qu).step fun u _ qu => (faultIf_runs qu (by simp [k1, k2])).step fun u _ qu =>
        (checkLanes_runs qu l2 l3).step fun u _ qu => (readElems_runs qu k1).step fun u _ qu =>
        (stochBits_runs qu (Nat.le_refl _) l2).step fun u _ qu => (writeElems_runs qu).step fun u _ qu =>
        (raiseFlags_runs qu).last fun u _ qu => Runs.pure qu _
  · simp only [hs, Bool.false_eq_true, if_false]
    refine (faultIf_runs q hf).step fun u _ qu => (sReg_runs qu).step fun u _ qu => ?_
    split
    · exact Runs.pure qu _
    · next hn =>
      obtain ⟨k1, k2, -⟩ := h5 hn
      exact (pReg_runs qu).step fun u _ qu => (pReg_runs qu).step fun u _ qu => (faultIf_runs qu (by simp [k1, k2])).step fun u _ qu =>
        (readElems_runs qu k1).step fun u _ qu => (Runs.pure qu _).step fun u _ qu => (writeElems_runs qu).step fun u _ qu =>
        (raiseFlags_runs qu).last fun u _ qu => Runs.pure qu _

end Sys2Proof.Machine
end

