-- ==== Sys2Proof/Laws/TileArrayRun.lean ====
section
/-! SUPPORT. What the bodies of the array's drains, loads and stores do to a tile without errors. -/
namespace Sys2Proof.Machine

theorem drainRow_runs {g f field a : Nat} {xs : List W32} {s : State} {t : Tile} (q : At g s t)
    (h : roundStoch field = true → inMem (drainBase t) (384 * 2) = true) :
    Runs g (drainRow g f field a xs) s () (rowDrained f field a xs t).1 (rowDrained f field a xs t).2 := by
  unfold drainRow rowDrained drainBits
  dsimp only
  by_cases hs : roundStoch field = true
  · simp only [hs, if_true]
    have hb : Runs g (sReg g 15 >>= fun x => stochBits g (x % 2 ^ 24) 32) s (stochOf t (drainBase t) 32).1
        (stochOf t (drainBase t) 32).2 0 :=
      (sReg_runs q).step fun u _ qu => stochBits_runs (n := 32) (m := 2) qu (by decide) (h hs)
    exact hb.step fun u _ qu => (writeElems_runs qu).step fun u _ qu => raiseFlags_runs qu
  · simp only [hs, Bool.false_eq_true, if_false]
    exact (Runs.pure q _).step fun u _ qu => (writeElems_runs qu).step fun u _ qu => raiseFlags_runs qu

/-- What a row leaves alone: the scalar registers. -/
theorem storeBytes_s (t : Tile) (a : Nat) (bs : List Byte) : (storeBytes t a bs).s = t.s := by
  induction bs generalizing t a with
  | nil => rfl
  | cons b bs ih => exact ih (storeByte t a b 0) (a + 1)

theorem stored_s (t : Tile) (a : Nat) (bs : List Byte) : (stored t a bs).s = t.s := by
  have k : ∀ (ls : List Nat) (t : Tile), (ls.foldl openLine t).s = t.s := by
    intro ls
    induction ls with
    | nil => exact fun _ => rfl
    | cons l ls ih =>
      intro t
      refine (ih (openLine t l)).trans ?_
      unfold openLine
      split <;> rfl
  exact (storeBytes_s _ a bs).trans (k _ t)

theorem writtenBack_s (t : Tile) (hs : List HeldLane) : (writtenBack t hs).s = t.s := by
  induction hs generalizing t with
  | nil => rfl
  | cons x hs ih => exact (ih (stored t x.addr x.bytes)).trans (stored_s _ _ _)

theorem drawOf_s (t : Tile) (base k n : Nat) : (drawOf t base k n).2.s = t.s := writtenBack_s _ _

theorem stochOf_s (t : Tile) (base n : Nat) : (stochOf t base n).2.s = t.s := by
  have key : ∀ (l : List Nat) (a : List Nat × Tile), (l.foldl (fun a k =>
      (a.1 ++ groupBits (drawOf a.2 base k 4).1 (min 16 (n - 16 * k)), (drawOf a.2 base k 4).2)) a).2.s = a.2.s := by
    intro l
    induction l with
    | nil => exact fun _ => rfl
    | cons k l ih => exact fun a => (ih _).trans (drawOf_s a.2 base k 4)
  exact key _ _

theorem rowDrained_base (f field a : Nat) (xs : List W32) (t : Tile) : drainBase (rowDrained f field a xs t).1 = drainBase t := by
  unfold drainBase num rowDrained
  dsimp only
  rw [stored_s]
  split
  · rw [stochOf_s]
  · rfl

/-- A loop of steps over a tile, each of which keeps what the next one needs. -/
theorem forM_runs_inv {α : Type} {g : Nat} {f : α → PUnit → TileM (ForInStep PUnit)} {F : Tile → α → Tile × Flags}
    {ok : α → Prop} {inv : Tile → Prop}
    (hf : ∀ x s t, At g s t → ok x → inv t → Runs g (f x PUnit.unit) s (.yield PUnit.unit) (F t x).1 (F t x).2)
    (hi : ∀ x t, ok x → inv t → inv (F t x).1)
    (l : List α) (hl : ∀ x ∈ l, ok x) {s : State} {t : Tile} (q : At g s t) (ht : inv t) :
    Runs g (forIn l PUnit.unit f) s PUnit.unit (stepsOf F l t).1 (stepsOf F l t).2 := by
  induction l generalizing s t with
  | nil => exact Runs.pure q _
  | cons x l ih =>
    rw [List.forIn_cons]
    exact (hf x s t q (hl x (by simp)) ht).bind fun u _ qu =>
      ih (fun y hy => hl y (by simp [hy])) qu (hi x t (hl x (by simp)) ht)

/-- Rows that all lie in tile memory. -/
theorem rowRanges_any (d st n bytes : Nat) (h : RowsIn d st n bytes) :
    (rowRanges d st n bytes).any (fun r => !inMem r.1 r.2) = false := by
  rw [List.any_eq_false]
  intro r hr
  obtain ⟨k, hk, rfl⟩ := List.mem_map.1 hr
  simp [h k (List.mem_range.1 hk)]

theorem mapM_runs {α β : Type} {g : Nat} {f : α → TileM β} {v : α → β} {s : State} {t : Tile} (l : List α)
    (hf : ∀ x ∈ l, ∀ s, At g s t → Runs g (f x) s (v x) t 0) (q : At g s t) : Runs g (l.mapM f) s (l.map v) t 0 := by
  rw [← List.mapM'_eq_mapM]
  induction l generalizing s with
  | nil => exact Runs.pure q _
  | cons x l ih =>
    rw [List.mapM'_cons]
    exact (hf x (by simp) s q).step fun u _ qu => (ih (fun y hy => hf y (by simp [hy])) qu).step fun u _ qu => Runs.pure qu _

theorem stepsOf_flags {α : Type} {F : Tile → α → Tile × Flags} (h : ∀ t x, (F t x).2 = 0) (l : List α) (t : Tile) :
    (stepsOf F l t).2 = 0 := by
  induction l generalizing t with
  | nil => rfl
  | cons x l ih => simp only [stepsOf, h, ih, flags_zero]

/-! ### The rows of the drains -/

theorem drainChecks_runs {g field n : Nat} {s : State} {t : Tile} (q : At g s t) (h : DrainRound t field n) :
    Runs g (drainChecks g field) s () t 0 := by
  unfold drainChecks
  refine (faultIf_runs q (by simp [h.1])).step fun u _ qu => ?_
  split
  · next hs =>
    exact (sReg_runs qu).step fun u _ qu => (faultIf_runs qu (by simpa [drainBase] using (h.2 hs).1) : Runs g (checkLaneAlign _) _ _ _ _)
  · exact Runs.pure qu _

/-- The rows of DRAIN. -/
theorem drainRows_runs {g f field d st n : Nat} {acc : List W32} {s : State} {t : Tile} (q : At g s t) (h : DrainRound t field n) :
    Runs g (forIn (List.range n) PUnit.unit (fun r _ => do
        drainRow g f field (d + r * st) (setRow acc r)
        pure (ForInStep.yield PUnit.unit))) s PUnit.unit
      (stepsOf (fun t r => rowDrained f field (d + r * st) (setRow acc r) t) (List.range n) t).1
      (stepsOf (fun t r => rowDrained f field (d + r * st) (setRow acc r) t) (List.range n) t).2 := by
  refine forM_runs_inv (ok := fun r => r < n) (inv := fun t' => drainBase t' = drainBase t) ?_ ?_ _
    (fun r hr => List.mem_range.1 hr) q rfl
  · intro r s' t' q' hr hinv
    refine Runs.last (drainRow_runs q' ?_) fun v _ qv => Runs.pure qv _
    intro hs
    rw [hinv]
    exact ((h.2 hs).2 (by omega)).2.1
  · intro r t' _ hinv
    exact (rowDrained_base _ _ _ _ _).trans hinv

/-- The rows of DRAINR. -/
theorem addRows_runs {g d st n : Nat} {acc : List W32} {s : State} {t : Tile} (q : At g s t) :
    Runs g (forIn (List.range n) PUnit.unit (fun r _ => do
        let old ← readRiser g (accAt (d + r * st)) 32
        writeRiser g (accAt (d + r * st)) ((List.zipWith (fun o v => addTerm o (f32 v)) old (setRow acc r)).map (·.1))
        raiseFlags g (orFlags ((List.zipWith (fun o v => addTerm o (f32 v)) old (setRow acc r)).map (·.2)))
        pure (ForInStep.yield PUnit.unit))) s PUnit.unit
      (stepsOf (fun t r => rowAdded (d + r * st) (setRow acc r) t) (List.range n) t).1
      (stepsOf (fun t r => rowAdded (d + r * st) (setRow acc r) t) (List.range n) t).2 := by
  refine forM_runs (ok := fun _ => True) ?_ _ (fun _ _ => trivial) q
  intro r s' t' q' _
  exact (readRiser_runs q').step fun u _ qu => (writeRiser_runs qu).step fun u _ qu =>
    Runs.last (raiseFlags_runs qu) fun v _ qv => Runs.pure qv _

theorem checkRisers_runs {g d st n : Nat} {s : State} {t : Tile} (q : At g s t) :
    Runs g (forIn (List.range n) PUnit.unit (fun r _ => do
        checkRiser g (accAt (d + r * st)) 32
        pure (ForInStep.yield PUnit.unit))) s PUnit.unit t 0 := by
  generalize List.range n = l
  induction l generalizing s with
  | nil => exact Runs.pure q _
  | cons r l ih =>
    rw [List.forIn_cons]
    exact Runs.step (a := ForInStep.yield PUnit.unit) ((checkRiser_runs q).step fun u _ qu => Runs.pure qu _) fun u _ qu => ih qu

theorem elemBytes_row (f : Nat) : elemBytes f 32 = 4 * fmtWidth f := by unfold elemBytes; omega

/-- The rows of DRAINT. -/
theorem fnRows_runs {g d st n : Nat} {w : Word} {acc : List W32} {s : State} {t : Tile} (q : At g s t) (h : DrainRound t (wMode w) n)
    (hs : getBits w 15 1 = 1 → wFunc w % 128 ≠ 0 → RowsIn d st n (4 * fmtWidth (wFmt w))) :
    Runs g (forIn (List.range n) PUnit.unit (fun r _ => do
        let ys ← if (getBits w 15 1 == 1) = true then do
            let ss ← if wFunc w % 128 = 0 then pure (List.replicate 32 (0 : W32)) else readF32 g (wFmt w) (d + r * st) 32
            pure (List.zipWith (trimDeriv (wFunc w % 128)) (setRow acc r) ss)
          else pure ((setRow acc r).map (trimFn (wFunc w % 128)))
        raiseFlags g (orFlags (ys.map (·.2)))
        drainRow g (wFmt2 w) (wMode w) (d + r * st) (ys.map (·.1))
        pure (ForInStep.yield PUnit.unit))) s PUnit.unit
      (stepsOf (fun t r => rowFn w (d + r * st) (setRow acc r) t) (List.range n) t).1
      (stepsOf (fun t r => rowFn w (d + r * st) (setRow acc r) t) (List.range n) t).2 := by
  refine forM_runs_inv (ok := fun r => r < n) (inv := fun t' => drainBase t' = drainBase t) ?_ ?_ _
    (fun r hr => List.mem_range.1 hr) q rfl
  · intro r s' t' q' hr hinv
    have hrow : roundStoch (wMode w) = true → inMem (drainBase t') (384 * 2) = true := by
      intro hst
      rw [hinv]
      exact ((h.2 hst).2 (by omega)).2.1
    unfold rowFn
    dsimp only
    by_cases hd : getBits w 15 1 = 1
    · simp only [hd, beq_self_eq_true, if_true]
      by_cases hf : wFunc w % 128 = 0
      · simp only [hf, if_true]
        exact (Runs.pure q' _).step fun u _ qu => (Runs.pure qu _).step fun u _ qu => (raiseFlags_runs qu).bind fun u _ qu =>
          Runs.last (drainRow_runs qu hrow) fun v _ qv => Runs.pure qv _
      · simp only [hf, if_false]
        exact (readF32_runs q' (by rw [elemBytes_row]; exact hs hd hf r hr)).step fun u _ qu => (Runs.pure qu _).step fun u _ qu =>
          (raiseFlags_runs qu).bind fun u _ qu => Runs.last (drainRow_runs qu hrow) fun v _ qv => Runs.pure qv _
    · have hb : (getBits w 15 1 == 1) = false := by simpa using hd
      simp only [hb, hd, Bool.false_eq_true, if_false]
      exact (Runs.pure q' _).step fun u _ qu => (raiseFlags_runs qu).bind fun u _ qu =>
        Runs.last (drainRow_runs qu hrow) fun v _ qv => Runs.pure qv _
  · intro r t' _ hinv
    refine Eq.trans ?_ hinv
    unfold rowFn
    exact rowDrained_base _ _ _ _ _

/-- The rows of ACCST. -/
theorem storeRows_runs {g d st n : Nat} {acc : List W32} {s : State} {t : Tile} (q : At g s t) :
    Runs g (forIn (List.range n) PUnit.unit (fun r _ => do
        writeMem g (d + r * st) (packElems 32 ((setRow acc r).map BitVec.toNat))
        pure (ForInStep.yield PUnit.unit))) s PUnit.unit
      (stepsOf (fun t r => (stored t (d + r * st) (packElems 32 ((setRow acc r).map BitVec.toNat)), 0)) (List.range n) t).1 0 := by
  refine Runs.cast (forM_runs (ok := fun _ => True) (F := fun t r =>
    (stored t (d + r * st) (packElems 32 ((setRow acc r).map BitVec.toNat)), 0)) ?_ _ (fun _ _ => trivial) q) rfl rfl ?_
  · intro r s' t' q' _
    exact (writeMem_runs q').step fun u _ qu => Runs.pure qu _
  · exact stepsOf_flags (fun _ _ => rfl) _ _

end Sys2Proof.Machine
end

