-- ==== Sys2Proof/Laws/TileMm.lean ====
section
/-! SUPPORT. What popping a K-block and folding it do to a tile without errors and without FEEDs. -/
namespace Sys2Proof.Machine

/-! ### Queues -/

@[simp] theorem queueOf_setQueue_same (t : Tile) (q : Nat) (x : OpQueue) : queueOf (setQueue t q x) q = x := by
  simp [queueOf, setQueue]

theorem queueOf_setQueue_ne (t : Tile) {q p : Nat} (x : OpQueue) (h : p ≠ q) : queueOf (setQueue t q x) p = queueOf t p := by
  simp [queueOf, setQueue, getD_put_ne _ _ _ _ h]

theorem startFeeds_none {t : Tile} (h : t.feeds = []) (n : Nat) : startFeeds t n = t := by
  cases n with
  | zero => rfl
  | succ n => unfold startFeeds; simp [h]

theorem refill_runs {g q n : Nat} {s : State} {t : Tile} (a : At g s t) (h : NoFeeds t) : Runs g (refill g q n) s () t 0 := by
  cases n with
  | zero => exact Runs.pure a ()
  | succ n =>
    unfold refill
    have hs : startFeeds t (t.feeds.length + 1) = t := startFeeds_none h.1 _
    have m : Runs g (modify (fun s => modTile s g (fun t => startFeeds t (t.feeds.length + 1)))) s () t 0 := by
      have r := modify_runs (f := fun t => startFeeds t (t.feeds.length + 1)) a
        (.inl (by rw [hs])) (by rw [hs]) (by rw [hs]) (.inl (by rw [hs])) (by rw [hs])
      rwa [hs] at r
    refine m.step fun u _ qu => (get_runs qu).step fun v _ qv => ?_
    rw [qu.2]
    dsimp only
    rw [h.2 q]
    exact Runs.pure qv ()

theorem refillAll_runs {g : Nat} {s : State} {t : Tile} (a : At g s t) (h : NoFeeds t) : Runs g (refillAll g) s () t 0 := by
  unfold refillAll
  have one : ∀ (l : List Nat) (s : State), At g s t → Runs g (forIn l PUnit.unit (fun q _ => do
      refill g q 20
      pure (ForInStep.yield PUnit.unit))) s PUnit.unit t 0 := by
    intro l
    induction l with
    | nil => exact fun s a => Runs.pure a _
    | cons q l ih =>
      intro s a
      rw [List.forIn_cons]
      exact Runs.step (a := ForInStep.yield PUnit.unit) ((refill_runs a h).step fun u _ qu => Runs.pure qu _) fun u _ qu => ih u qu
  exact (one _ s a).step fun u _ qu => (one _ u qu).step fun u _ qu => Runs.pure qu _

/-- An array op but for the time of its last progress. -/
def ArrOp.core (a : ArrOp) : ArrOp := { a with since := 0 }

theorem arrOf_some {t : Tile} {y : ArrOp} (h : t.arr = some y) : arrOf t = y := by unfold arrOf; rw [h]; rfl

theorem core_block {x y : ArrOp} (h : x.core = y.core) : x.block = y.block := by
  have k := congrArg ArrOp.block h; exact k
theorem core_ea {x y : ArrOp} (h : x.core = y.core) : x.ea = y.ea := by
  have k := congrArg ArrOp.ea h; exact k
theorem core_eb {x y : ArrOp} (h : x.core = y.core) : x.eb = y.eb := by
  have k := congrArg ArrOp.eb h; exact k

/-- What popping leaves of a tile: its queues and its array op alone differ. -/
theorem NoFeeds.of_queue {t u : Tile} {q : Nat} {es : List QEntry} (h : NoFeeds t) (hf : u.feeds = t.feeds)
    (hq : queueOf u q = { queueOf t q with entries := es }) (ho : ∀ p, p ≠ q → queueOf u p = queueOf t p) : NoFeeds u := by
  refine ⟨hf.trans h.1, fun p => ?_⟩
  by_cases hp : p = q
  · subst hp; rw [hq]; exact h.2 p
  · rw [ho p hp]; exact h.2 p

/-- What popping leaves of a tile: queue `q` holds the entries `es`, the array op is `x` but for its time, and nothing else differs. -/
structure Popped (t u : Tile) (q : Nat) (es : List QEntry) (x : ArrOp) : Prop where
  here : queueOf u q = { queueOf t q with entries := es }
  other : ∀ p, p ≠ q → queueOf u p = queueOf t p
  arr : ∃ y, u.arr = some y ∧ y.core = x.core
  rest : { u with queues := t.queues, arr := t.arr } = t

theorem Popped.refl {t : Tile} {x : ArrOp} (q : Nat) (h : t.arr = some x) : Popped t t q (queueOf t q).entries x :=
  ⟨rfl, fun _ _ => rfl, ⟨x, h, rfl⟩, rfl⟩

theorem Popped.trans {t u v : Tile} {q : Nat} {es fs : List QEntry} {x y : ArrOp} (h : Popped t u q es x) (k : Popped u v q fs y) :
    Popped t v q fs y := by
  refine ⟨by rw [k.here, h.here], fun p hp => (k.other p hp).trans (h.other p hp), k.arr, ?_⟩
  have h1 := h.rest
  have k1 := k.rest
  rw [← h1, ← k1]

theorem Popped.feeds {t u : Tile} {q : Nat} {es : List QEntry} {x : ArrOp} (h : Popped t u q es x) : u.feeds = t.feeds := by
  have k := congrArg Tile.feeds h.rest
  exact k

theorem Popped.noFeeds {t u : Tile} {q : Nat} {es : List QEntry} {x : ArrOp} (h : Popped t u q es x) (n : NoFeeds t) : NoFeeds u :=
  n.of_queue h.feeds h.here h.other

theorem popEntry_runs {g q : Nat} {keep : ArrOp → QEntry → ArrOp} {s : State} {t : Tile} {e : QEntry} {es : List QEntry} {x : ArrOp}
    (a : At g s t) (h : NoFeeds t) (hx : t.arr = some x) (he : (queueOf t q).entries = e :: es) :
    ∃ u, Runs g (popEntry g q keep) s () u 0 ∧ Popped t u q es (keep x e) := by
  let u : Tile := { setQueue t q { queueOf t q with entries := es } with arr := t.arr.map (fun a => { keep a e with since := s.now }) }
  have p : Popped t u q es (keep x e) := ⟨queueOf_setQueue_same _ _ _, fun _ h => queueOf_setQueue_ne _ _ h, ⟨{ keep x e with since := s.now }, by
    show t.arr.map _ = _
    rw [hx]; rfl, rfl⟩, rfl⟩
  refine ⟨u, ?_, p⟩
  unfold popEntry
  refine (get_runs a).step fun v hv qv => ?_
  rw [a.2, he]
  dsimp only
  have m := modify_runs (f := fun t => { setQueue t q { queueOf t q with entries := es } with
    arr := t.arr.map (fun a => { keep a e with since := s.now }) }) qv (.inl rfl) rfl rfl (.inl rfl) rfl
  have hn : v.now = s.now := by
    have k := congrArg State.now hv.1.1
    exact k
  rw [← hn] at m
  have m' : Runs g (modify (fun s => modTile s g (fun t => { setQueue t q { queueOf t q with entries := es } with
      arr := t.arr.map (fun a => { keep a e with since := s.now }) }))) v () u 0 := by
    obtain ⟨z, hz, hb, hq, hi⟩ := m
    refine ⟨z, ?_, ?_, ?_, ?_⟩
    · rw [← hz]; rfl
    · rw [hn] at hb; exact hb
    · rw [hn] at hq; exact hq
    · exact hi
  exact m'.step fun v _ qv => refillAll_runs qv (p.noFeeds h)

theorem peekEntry_runs {g q : Nat} {s : State} {t : Tile} {e : QEntry} {es : List QEntry} (a : At g s t)
    (he : (queueOf t q).entries = e :: es) : Runs g (peekEntry g q) s e t 0 := by
  unfold peekEntry
  refine (get_runs a).step fun u _ qu => ?_
  rw [a.2, he]
  exact Runs.pure qu _

/-- Popping entries that are there. -/
theorem popMore_runs {g q : Nat} {g32 : Bool} {keep : ArrOp → QEntry → ArrOp}
    (hk : ∀ a b e, a.core = b.core → (keep a e).core = (keep b e).core) {rest : List QEntry} :
    ∀ (es : List QEntry) {s : State} {t : Tile} {x : ArrOp}, At g s t → NoFeeds t → t.arr = some x →
      (queueOf t q).entries = es ++ rest → (g32 = true → ∀ e ∈ es, e.mark = false) →
      ∃ u, Runs g (popMore g q g32 keep es.length) s () u 0 ∧ Popped t u q rest (es.foldl keep x) := by
  have loop : ∀ (es : List QEntry) (l : List Nat) {s : State} {t : Tile} {x : ArrOp}, es.length = l.length → At g s t → NoFeeds t →
      t.arr = some x → (queueOf t q).entries = es ++ rest → (g32 = true → ∀ e ∈ es, e.mark = false) →
      ∃ u, Runs g (forIn l PUnit.unit (fun _ _ => do
        let e ← peekEntry g q
        faultIf (g32 && e.mark) 1
        popEntry g q keep
        pure (ForInStep.yield PUnit.unit))) s PUnit.unit u 0 ∧ Popped t u q rest (es.foldl keep x) := by
    intro es
    induction es with
    | nil =>
      intro l s t x hl a h hx he hm
      have : l = [] := by simpa using hl.symm
      subst this
      have r := Popped.refl q hx
      rw [show (queueOf t q).entries = rest by simpa using he] at r
      exact ⟨t, Runs.pure a _, r⟩
    | cons e es ih =>
      intro l s t x hl a h hx he hm
      cases l with
      | nil => simp at hl
      | cons n l =>
        have he' : (queueOf t q).entries = e :: (es ++ rest) := by simpa using he
        have hmk : (g32 && e.mark) = false := by
          cases g32 with
          | false => rfl
          | true => exact hm rfl e (by simp)
        obtain ⟨s1, r1, b1, a1, -⟩ := peekEntry_runs a he'
        obtain ⟨s2, r2, b2, a2, -⟩ := faultIf_runs (c := 1) a1 hmk
        obtain ⟨t3, ⟨s3, r3, b3, a3, i3⟩, p3⟩ := popEntry_runs (keep := keep) a2 h hx he'
        obtain ⟨y, hy, hc⟩ := p3.arr
        obtain ⟨u, ⟨s4, r4, b4, a4, i4⟩, p4⟩ := ih l (by simpa using hl) a3 (p3.noFeeds h) hy (by rw [p3.here])
          (fun h1 e' he => hm h1 e' (by simp [he]))
        have hcore : ∀ (es : List QEntry) (x y : ArrOp), x.core = y.core → (es.foldl keep x).core = (es.foldl keep y).core := by
          intro es
          induction es with
          | nil => exact fun _ _ h => h
          | cons e es ih => exact fun x y h => ih _ _ (hk x y e h)
        have pp := p3.trans p4
        refine ⟨u, ⟨s4, ?_, ?_, a4, ?_⟩, ⟨pp.here, pp.other, ?_, pp.rest⟩⟩
        · rw [List.forIn_cons]
          have e : (do
              let e ← peekEntry g q
              faultIf (g32 && e.mark) 1
              popEntry g q keep
              pure (ForInStep.yield PUnit.unit) : TileM (ForInStep PUnit)) s = .ok (.yield PUnit.unit) s3 := by
            rw [tileM_bind_ok r1, tileM_bind_ok r2, tileM_bind_ok r3]
            rfl
          rw [tileM_bind_ok e]
          exact r4
        · have bb := ((b1.trans b2).trans b3).trans b4
          simpa only [zero_flags] using bb
        · rw [i4, b3.2.1, i3, b2.2.1, a.2]
        · obtain ⟨z, hz, hc'⟩ := pp.arr
          exact ⟨z, hz, hc'.trans (hcore es _ _ hc)⟩
  intro es s t x a h hx he hm
  obtain ⟨u, r, p⟩ := loop es (List.range es.length) (by simp) a h hx he hm
  refine ⟨u, ?_, p⟩
  unfold popMore
  exact r.step fun v _ qv => Runs.pure qv _

theorem foldl_ea (es : List QEntry) (x : ArrOp) :
    es.foldl (fun a e => { a with ea := a.ea ++ [e] }) x = { x with ea := x.ea ++ es } := by
  induction es generalizing x with
  | nil => simp
  | cons e es ih => rw [List.foldl_cons, ih]; simp

theorem foldl_eb (es : List QEntry) (x : ArrOp) :
    es.foldl (fun a e => { a with eb := a.eb ++ [e] }) x = { x with eb := x.eb ++ es } := by
  induction es generalizing x with
  | nil => simp
  | cons e es ih => rw [List.foldl_cons, ih]; simp

theorem foldl_maps (es : List QEntry) (x : ArrOp) :
    es.foldl (fun a e => { a with maps := a.maps ++ [e] }) x = { x with maps := x.maps ++ es } := by
  induction es generalizing x with
  | nil => simp
  | cons e es ih => rw [List.foldl_cons, ih]; simp

/-- What the pops of a K-block leave of a tile. -/
structure BlockLeft (t u : Tile) (qa qb : Nat) (ea eb : List QEntry) (x : ArrOp) : Prop where
  left : queueOf u qa = { queueOf t qa with entries := ea }
  right : queueOf u qb = { queueOf t qb with entries := eb }
  other : ∀ p, p ≠ qa → p ≠ qb → queueOf u p = queueOf t p
  arr : ∃ y, u.arr = some y ∧ y.core = x.core
  rest : { u with queues := t.queues, arr := t.arr } = t

theorem BlockLeft.noFeeds {t u : Tile} {qa qb : Nat} {ea eb : List QEntry} {x : ArrOp} (h : BlockLeft t u qa qb ea eb x) (n : NoFeeds t) :
    NoFeeds u := by
  constructor
  · have k := congrArg Tile.feeds h.rest
    exact k.trans n.1
  · intro p
    by_cases ha : p = qa
    · subst ha; rw [h.left]; exact n.2 p
    · by_cases hb : p = qb
      · subst hb; rw [h.right]; exact n.2 p
      · rw [h.other p ha hb]; exact n.2 p

/-- Popping a K-block of both operands. -/
theorem popBlocks_runs {g : Nat} {w : Word} {g32 : Bool} {s : State} {t : Tile} {x : ArrOp} {ea eb ra rb : List QEntry} (a : At g s t)
    (h : NoFeeds t) (hx : t.arr = some x) (hea : x.ea = []) (heb : x.eb = []) (hne : getBits w 46 2 ≠ getBits w 44 2)
    (ha : (queueOf t (getBits w 46 2)).entries = ea ++ ra) (hb : (queueOf t (getBits w 44 2)).entries = eb ++ rb)
    (la : ea.length = entriesPer (wFmt w)) (lb : eb.length = entriesPer (wFmt2 w))
    (ma : g32 = true → ∀ e ∈ ea, e.mark = false) (mb : g32 = true → ∀ e ∈ eb, e.mark = false) :
    ∃ u, Runs g (popBlocks g w g32) s (blockOf (wFmt w) ea, blockOf (wFmt2 w) eb) u 0 ∧
      BlockLeft t u (getBits w 46 2) (getBits w 44 2) ra rb { x with block := x.block + 1 } := by
  obtain ⟨t1, ⟨s1, r1, b1, a1, i1⟩, p1⟩ := popMore_runs (keep := fun a e => { a with ea := a.ea ++ [e] }) (g32 := g32)
    (fun a b e hc => by
      have k := core_ea hc
      unfold ArrOp.core at hc ⊢
      cases a; cases b; simp_all) ea a h hx ha ma
  rw [foldl_ea] at p1
  obtain ⟨x1, hx1, c1⟩ := p1.arr
  have e1 : x1.eb = [] := (core_eb c1).trans heb
  obtain ⟨t2, ⟨s2, r2, b2, a2, i2⟩, p2⟩ := popMore_runs (keep := fun a e => { a with eb := a.eb ++ [e] }) (g32 := g32) (q := getBits w 44 2)
    (rest := rb) (fun a b e hc => by
      have k := core_eb hc
      unfold ArrOp.core at hc ⊢
      cases a; cases b; simp_all) eb a1 (p1.noFeeds h) hx1 (by rw [p1.other _ (Ne.symm hne)]; exact hb) mb
  rw [foldl_eb] at p2
  obtain ⟨x2, hx2, c2⟩ := p2.arr
  have ea2 : x2.ea = ea := by
    have k1 := core_ea c1
    have k2 := core_ea c2
    dsimp only at k1 k2
    rw [k2, k1, hea, List.nil_append]
  have eb2 : x2.eb = eb := by
    have k2 := core_eb c2
    dsimp only at k2
    rw [k2, e1, List.nil_append]
  have m := modify_runs (f := fun t => { t with arr := t.arr.map (fun a => { a with block := a.block + 1, ea := [], eb := [] }) }) a2
    (.inl rfl) rfl rfl (.inl rfl) rfl
  obtain ⟨s3, r3, b3, a3, i3⟩ := m
  refine ⟨_, ⟨s3, ?_, ?_, a3, ?_⟩, ?_, ?_, ?_, ?_, ?_⟩
  · unfold popBlocks
    rw [tileM_bind_ok (tileM_get s), a.2, arrOf_some hx, hea, ← la]
    simp only [List.length_nil, Nat.sub_zero]
    rw [tileM_bind_ok r1, tileM_bind_ok (tileM_get s1), a1.2, arrOf_some hx1, e1, ← lb]
    simp only [List.length_nil, Nat.sub_zero]
    rw [tileM_bind_ok r2, tileM_bind_ok (tileM_get s2), a2.2, arrOf_some hx2, ea2, eb2]
    unfold modArr
    rw [tileM_bind_ok r3]
    rfl
  · have bb := (b1.trans b2).trans b3
    simpa only [zero_flags] using bb
  · rw [i3, b2.2.1, i2, b1.2.1, i1]
  · show queueOf t2 _ = _
    rw [p2.other _ hne, p1.here]
  · show queueOf t2 _ = _
    rw [p2.here, p1.other _ (Ne.symm hne)]
  · intro p h1 h2
    show queueOf t2 p = _
    rw [p2.other p h2, p1.other p h1]
  · refine ⟨{ x2 with block := x2.block + 1, ea := [], eb := [] }, ?_, ?_⟩
    · show t2.arr.map _ = _
      rw [hx2]; rfl
    · unfold ArrOp.core at c1 c2 ⊢
      cases x; cases x1; cases x2
      simp_all
  · have k1 := p1.rest
    have k2 := p2.rest
    show ({ t2 with queues := t.queues, arr := t.arr } : Tile) = t
    conv_rhs => rw [← k1, ← k2]

/-! ### Accumulator sets -/

theorem find_append (a b : Assoc W32) (k : Nat) : find (a ++ b) k = (find a k).or (find b k) := by
  induction a with
  | nil => rfl
  | cons e a ih =>
    obtain ⟨j, v⟩ := e
    simp only [List.cons_append, find]
    split
    · rfl
    · exact ih

theorem find_none_of (m : Assoc W32) (k : Nat) (h : ∀ e ∈ m, e.1 ≠ k) : find m k = none := by
  induction m with
  | nil => rfl
  | cons e m ih =>
    obtain ⟨j, v⟩ := e
    simp only [find]
    rw [if_neg (fun hk => h (j, v) (by simp) hk.symm)]
    exact ih (fun e he => h e (by simp [he]))

/-- The new entries of a set that is written. -/
def setEntries (set : Nat) (is : List Nat) (vs : List W32) : Assoc W32 :=
  (List.zip is vs).filterMap (fun e => if e.2 = 0 then none else some (1024 * set + e.1, e.2))

theorem find_setEntries (set : Nat) (vs : List W32) (a i : Nat) :
    (find (setEntries set (List.range' a vs.length) vs) (1024 * set + i)).getD 0 = if a ≤ i then vs.getD (i - a) 0 else 0 := by
  induction vs generalizing a with
  | nil => simp [setEntries]
  | cons v vs ih =>
    have hcons : setEntries set (List.range' a (v :: vs).length) (v :: vs) =
        (if v = 0 then [] else [(1024 * set + a, v)]) ++ setEntries set (List.range' (a + 1) vs.length) vs := by
      simp only [setEntries, List.length_cons, List.range'_succ, List.zip_cons_cons, List.filterMap_cons]
      split <;> simp_all
    rw [hcons, find_append]
    have k := ih (a + 1)
    by_cases hv : v = 0
    · subst hv
      simp only [if_true, find, Option.none_or]
      rw [k]
      by_cases h : a = i
      · subst h
        simp
      · by_cases h2 : a ≤ i
        · rw [if_pos h2, if_pos (by omega), show i - a = (i - (a + 1)) + 1 by omega]
          rfl
        · rw [if_neg h2, if_neg (by omega)]
    · simp only [hv, if_false, find]
      by_cases h : a = i
      · subst h
        simp
      · rw [if_neg (by omega), Option.none_or, k]
        by_cases h2 : a ≤ i
        · rw [if_pos h2, if_pos (by omega), show i - a = (i - (a + 1)) + 1 by omega]
          rfl
        · rw [if_neg h2, if_neg (by omega)]

theorem getD_writeSet (t : Tile) (set k : Nat) (vs : List W32) (hl : vs.length = 1024) :
    getD (writeSet t set vs).acc k 0 =
      if 1024 * set ≤ k ∧ k < 1024 * (set + 1) then vs.getD (k - 1024 * set) 0 else getD t.acc k 0 := by
  have hacc : (writeSet t set vs).acc = t.acc.filter (fun e => e.1 < 1024 * set) ++ setEntries set (List.range' 0 vs.length) vs ++
      t.acc.filter (fun e => 1024 * (set + 1) ≤ e.1) := by
    unfold writeSet setEntries
    rw [hl, List.range_eq_range']
  have mem_new : ∀ e ∈ setEntries set (List.range' 0 vs.length) vs, 1024 * set ≤ e.1 ∧ e.1 < 1024 * (set + 1) := by
    intro e he
    obtain ⟨x, hx, hf⟩ := List.mem_filterMap.1 he
    have h1 := (List.of_mem_zip hx).1
    rw [List.mem_range'_1] at h1
    split at hf
    · cases hf
    · cases hf
      omega
  have flt : ∀ (m : Assoc W32) (p : Nat → Bool) (k : Nat), p k = true → find (m.filter (fun e => p e.1)) k = find m k := by
    intro m p k hp
    induction m with
    | nil => rfl
    | cons e m ih =>
      obtain ⟨j, v⟩ := e
      by_cases hj : p j = true
      · simp only [List.filter_cons, hj, if_true, find]
        rw [ih]
      · simp only [List.filter_cons, hj, Bool.false_eq_true, if_false, find]
        rw [ih, if_neg]
        intro hk
        subst hk
        exact hj hp
  unfold getD
  rw [hacc, find_append, find_append]
  split
  · next h =>
    rw [find_none_of (t.acc.filter (fun e => e.1 < 1024 * set)) k (by
      intro e he
      have := (List.mem_filter.1 he).2
      simp only [decide_eq_true_eq] at this
      omega)]
    rw [find_none_of (t.acc.filter (fun e => 1024 * (set + 1) ≤ e.1)) k (by
      intro e he
      have := (List.mem_filter.1 he).2
      simp only [decide_eq_true_eq] at this
      omega)]
    rw [Option.none_or, Option.or_none]
    have r := find_setEntries set vs 0 (k - 1024 * set)
    rw [show 1024 * set + (k - 1024 * set) = k by omega] at r
    rw [r]
    simp
  · next h =>
    rw [find_none_of (setEntries set (List.range' 0 vs.length) vs) k (fun e he hk => h (by have := mem_new e he; omega))]
    rw [Option.or_none]
    by_cases hlt : k < 1024 * set
    · rw [flt t.acc (fun j => decide (j < 1024 * set)) k (by simpa using hlt)]
      rw [find_none_of (t.acc.filter (fun e => 1024 * (set + 1) ≤ e.1)) k (by
        intro e he
        have := (List.mem_filter.1 he).2
        simp only [decide_eq_true_eq] at this
        omega), Option.or_none]
    · rw [find_none_of (t.acc.filter (fun e => e.1 < 1024 * set)) k (by
        intro e he
        have := (List.mem_filter.1 he).2
        simp only [decide_eq_true_eq] at this
        omega), Option.none_or]
      exact congrArg (·.getD 0) (flt t.acc (fun j => decide (1024 * (set + 1) ≤ j)) k (by simpa using (by omega : 1024 * (set + 1) ≤ k)))

/-- A set that is written reads as written. -/
theorem readSet_writeSet_same (t : Tile) (set : Nat) (vs : List W32) (hl : vs.length = 1024) :
    readSet (writeSet t set vs) set = vs := by
  unfold readSet
  apply List.ext_getElem
  · simp [hl]
  · intro i h1 h2
    simp only [List.getElem_map, List.getElem_range]
    rw [getD_writeSet t set _ vs hl, if_pos (by omega)]
    simp [h2]

theorem readSet_writeSet_ne (t : Tile) {set other : Nat} (vs : List W32) (hl : vs.length = 1024) (h : other ≠ set) :
    readSet (writeSet t set vs) other = readSet t other := by
  unfold readSet
  refine List.map_congr_left fun i hi => ?_
  have hi := List.mem_range.1 hi
  rw [getD_writeSet t set _ vs hl, if_neg]
  omega

theorem readSet_length (t : Tile) (set : Nat) : (readSet t set).length = 1024 := by simp [readSet]

theorem blockOf_length (f : Nat) (es : List QEntry) (h : es.length = entriesPer f) : (blockOf f es).length = 32 := by
  unfold blockOf
  simp only [List.length_flatMap, List.length_map, List.length_range, List.map_const', List.sum_replicate, smul_eq_mul, h]
  unfold entriesPer lanesPerEntry
  split <;> rfl

theorem foldSet_length {g32 : Bool} {n : Nat} {a b : KBlock} {acc : List W32} (ha : a.length = 32) (hb : b.length = 32)
    (hc : acc.length = 1024) : (foldSet g32 n a b acc).length = 1024 := by
  unfold foldSet
  simp [List.length_zipWith, List.length_flatMap, ha, hb, hc]

/-- What an MM leaves of a tile: entries popped from its two queues, one set written, the array op `x`. -/
structure MmLeft (t u : Tile) (qa qb set : Nat) (ea eb : List QEntry) (acc : List W32) (x : ArrOp) : Prop where
  left : queueOf u qa = { queueOf t qa with entries := ea }
  right : queueOf u qb = { queueOf t qb with entries := eb }
  other : ∀ p, p ≠ qa → p ≠ qb → queueOf u p = queueOf t p
  written : readSet u set = acc
  kept : ∀ x, x ≠ set → readSet u x = readSet t x
  arr : ∃ y, u.arr = some y ∧ y.core = x.core
  rest : { u with queues := t.queues, acc := t.acc, arr := t.arr } = t

theorem blockEntries_length {f b : Nat} {es : List QEntry} (h : entriesPer f * (b + 1) ≤ es.length) :
    (blockEntries f b es).length = entriesPer f := by
  unfold blockEntries
  rw [List.length_take, List.length_drop, Nat.min_eq_left]
  rw [Nat.mul_add, Nat.mul_one] at h
  omega

theorem blockEntries_append (f b : Nat) (es : List QEntry) :
    es.drop (entriesPer f * b) = blockEntries f b es ++ es.drop (entriesPer f * (b + 1)) := by
  unfold blockEntries
  conv_lhs => rw [← List.take_append_drop (entriesPer f) (es.drop (entriesPer f * b))]
  rw [List.drop_drop, Nat.mul_add, Nat.mul_one]

theorem mem_blockEntries {f b : Nat} {es : List QEntry} {e : QEntry} (h : e ∈ blockEntries f b es) :
    e ∈ es.take (entriesPer f * (b + 1)) := by
  unfold blockEntries at h
  rw [Nat.mul_add, Nat.mul_one, List.take_add]
  exact List.mem_append.2 (.inr h)

theorem setAcc_runs {g set : Nat} {s : State} {t : Tile} (a : At g s t) (vs : List W32) (fl : Flags) :
    Runs g (do
        raiseFlags g fl
        modify (fun s => modTile s g (fun t => writeSet t set vs))
        pure (ForInStep.yield PUnit.unit)) s (ForInStep.yield PUnit.unit) (writeSet t set vs) fl := by
  refine (raiseFlags_runs a).last fun u _ qu => ?_
  have m := modify_runs (f := fun t => writeSet t set vs) qu (.inl rfl) rfl rfl (.inl rfl) rfl
  exact m.step fun v _ qv => Runs.pure qv _

/-- The accumulators a K-block is folded into: +0 before the first block when CLR is set (R97). -/
def mmStart (t : Tile) (w : Word) (b : Nat) : List W32 :=
  if b = 0 ∧ getBits w 40 1 = 1 then List.replicate 1024 0 else readSet t (getBits w 41 1)

theorem mmStart_length (t : Tile) (w : Word) (b : Nat) : (mmStart t w b).length = 1024 := by
  unfold mmStart
  split
  · exact List.length_replicate ..
  · exact readSet_length _ _

/-- What one turn of an MM's loop does. -/
def mmTurn (g : Nat) (w : Word) : TileM (ForInStep PUnit) := do
  let _ ← peekEntry g (nextQueue (arrOf (tileOf (← get) g)) w)
  checkUpset .none
  let b := (arrOf (tileOf (← get) g)).block
  let ks ← popBlocks g w (group32 (wFmt w) (wFmt2 w))
  let old := readSet (tileOf (← get) g) (getBits w 41 1)
  let acc := if b = 0 ∧ getBits w 40 1 = 1 then List.replicate 1024 (0 : W32) else old
  let rs := foldSet (group32 (wFmt w) (wFmt2 w)) (min 32 (wCount w - 32 * b)) ks.1 ks.2 acc
  raiseFlags g (orFlags (rs.map (·.2)))
  modify (fun s => modTile s g (fun t => writeSet t (getBits w 41 1) (rs.map (·.1))))
  pure (ForInStep.yield PUnit.unit)

/-- One K-block of an MM. -/
theorem mmBlock_runs {g : Nat} {w : Word} {ea eb : List QEntry} {s : State} {t : Tile} {x : ArrOp}
    (a : At g s t) (hn : NoFeeds t) (hx : t.arr = some x) (hea : x.ea = []) (heb : x.eb = []) (hq : getBits w 46 2 ≠ getBits w 44 2)
    (hqa : (queueOf t (getBits w 46 2)).entries = ea.drop (entriesPer (wFmt w) * x.block))
    (hqb : (queueOf t (getBits w 44 2)).entries = eb.drop (entriesPer (wFmt2 w) * x.block))
    (hla : entriesPer (wFmt w) * (x.block + 1) ≤ ea.length) (hlb : entriesPer (wFmt2 w) * (x.block + 1) ≤ eb.length)
    (hma : group32 (wFmt w) (wFmt2 w) = true → ∀ e ∈ blockEntries (wFmt w) x.block ea, e.mark = false)
    (hmb : group32 (wFmt w) (wFmt2 w) = true → ∀ e ∈ blockEntries (wFmt2 w) x.block eb, e.mark = false) :
    ∃ u, Runs g (mmTurn g w) s (ForInStep.yield PUnit.unit) u (orFlags ((mmStep w ea eb x.block (mmStart t w x.block)).map (·.2))) ∧
      MmLeft t u (getBits w 46 2) (getBits w 44 2) (getBits w 41 1) (ea.drop (entriesPer (wFmt w) * (x.block + 1)))
        (eb.drop (entriesPer (wFmt2 w) * (x.block + 1))) ((mmStep w ea eb x.block (mmStart t w x.block)).map (·.1))
        { x with block := x.block + 1 } := by
  have la := blockEntries_length hla
  have lb := blockEntries_length hlb
  have ha : (queueOf t (getBits w 46 2)).entries = blockEntries (wFmt w) x.block ea ++ ea.drop (entriesPer (wFmt w) * (x.block + 1)) :=
    hqa.trans (blockEntries_append _ _ _)
  have hb : (queueOf t (getBits w 44 2)).entries = blockEntries (wFmt2 w) x.block eb ++ eb.drop (entriesPer (wFmt2 w) * (x.block + 1)) :=
    hqb.trans (blockEntries_append _ _ _)
  have hpos : 0 < entriesPer (wFmt w) := by unfold entriesPer lanesPerEntry; split <;> decide
  obtain ⟨e, es, he⟩ : ∃ e es, (queueOf t (getBits w 46 2)).entries = e :: es := by
    cases hc : blockEntries (wFmt w) x.block ea with
    | nil =>
      rw [hc] at la
      simp at la
      omega
    | cons e es => exact ⟨e, _, by rw [ha, hc]; rfl⟩
  have hnq : nextQueue x w = getBits w 46 2 := by
    unfold nextQueue
    rw [hea]
    exact if_pos hpos
  obtain ⟨s1, r1, b1, a1, i1⟩ := peekEntry_runs a he
  obtain ⟨t2, ⟨s2, r2, b2, a2, i2⟩, p2⟩ := popBlocks_runs (g32 := group32 (wFmt w) (wFmt2 w)) a1 hn hx hea heb hq ha hb la lb hma hmb
  have hstart : mmStart t2 w x.block = mmStart t w x.block := by
    unfold mmStart
    have k := congrArg (fun t => readSet t (getBits w 41 1)) p2.rest
    have k' : readSet t2 (getBits w 41 1) = readSet t (getBits w 41 1) := k
    rw [k']
  have hl : ((mmStep w ea eb x.block (mmStart t w x.block)).map (·.1)).length = 1024 := by
    rw [List.length_map]
    unfold mmStep
    have ka := blockOf_length (wFmt w) _ la
    have kb := blockOf_length (wFmt2 w) _ lb
    exact foldSet_length ka kb (mmStart_length _ _ _)
  refine ⟨writeSet t2 (getBits w 41 1) ((mmStep w ea eb x.block (mmStart t w x.block)).map (·.1)), ?_, ?_, ?_, ?_, ?_, ?_, ?_, ?_⟩
  · obtain ⟨s4, r4, b4, a4, i4⟩ := setAcc_runs (set := getBits w 41 1) a2 ((mmStep w ea eb x.block (mmStart t w x.block)).map (·.1))
      (orFlags ((mmStep w ea eb x.block (mmStart t w x.block)).map (·.2)))
    refine ⟨s4, ?_, ?_, a4, ?_⟩
    · have r1' : checkUpset .none s1 = .ok () s1 := rfl
      unfold mmTurn
      rw [tileM_bind_ok (tileM_get s), a.2, arrOf_some hx, hnq, tileM_bind_ok r1, tileM_bind_ok r1', tileM_bind_ok (tileM_get s1), a1.2,
        arrOf_some hx, tileM_bind_ok r2, tileM_bind_ok (tileM_get s2), a2.2]
      dsimp only
      have e : (if x.block = 0 ∧ getBits w 40 1 = 1 then List.replicate 1024 (0 : W32) else readSet t2 (getBits w 41 1)) =
          mmStart t w x.block := hstart
      rw [e]
      exact r4
    · have bb := (b1.trans b2).trans b4
      rwa [zero_flags, zero_flags] at bb
    · rw [i4, b2.2.1, i2, b1.2.1, i1]
  · exact p2.left
  · exact p2.right
  · exact p2.other
  · exact readSet_writeSet_same _ _ _ hl
  · intro y hy
    rw [readSet_writeSet_ne _ _ hl hy]
    have k2 := congrArg (fun t => readSet t y) p2.rest
    exact k2
  · exact p2.arr
  · have k2 := p2.rest
    show ({ t2 with queues := t.queues, acc := t.acc, arr := t.arr } : Tile) = t
    have e2 := congrArg Tile.acc k2
    dsimp only at e2
    conv_rhs => rw [← k2]
    rw [← e2]

theorem MmLeft.noFeeds {t u : Tile} {qa qb set : Nat} {ea eb : List QEntry} {acc : List W32} {x : ArrOp}
    (h : MmLeft t u qa qb set ea eb acc x) (n : NoFeeds t) : NoFeeds u := by
  constructor
  · have k := congrArg Tile.feeds h.rest
    exact k.trans n.1
  · intro p
    by_cases ha : p = qa
    · subst ha; rw [h.left]; exact n.2 p
    · by_cases hb : p = qb
      · subst hb; rw [h.right]; exact n.2 p
      · rw [h.other p ha hb]; exact n.2 p

theorem MmLeft.trans {t u v : Tile} {qa qb set : Nat} {ea eb fa fb : List QEntry} {acc acc' : List W32} {x y : ArrOp}
    (h : MmLeft t u qa qb set ea eb acc x) (k : MmLeft u v qa qb set fa fb acc' y) : MmLeft t v qa qb set fa fb acc' y := by
  refine ⟨by rw [k.left, h.left], by rw [k.right, h.right], fun p h1 h2 => (k.other p h1 h2).trans (h.other p h1 h2), k.written,
    fun x hx => (k.kept x hx).trans (h.kept x hx), k.arr, ?_⟩
  have h1 := h.rest
  have k1 := k.rest
  rw [← h1, ← k1]

/-- The K-blocks of an MM from block `x.block` on: at least one. -/
theorem mmLoop_runs {g : Nat} {w : Word} {ea eb : List QEntry} (hq : getBits w 46 2 ≠ getBits w 44 2) (l : List Nat) (j : Nat)
    {s : State} {t : Tile} {x : ArrOp} (a : At g s t) (hn : NoFeeds t) (hx : t.arr = some x) (hea : x.ea = []) (heb : x.eb = [])
    (hqa : (queueOf t (getBits w 46 2)).entries = ea.drop (entriesPer (wFmt w) * x.block))
    (hqb : (queueOf t (getBits w 44 2)).entries = eb.drop (entriesPer (wFmt2 w) * x.block))
    (hla : entriesPer (wFmt w) * (x.block + (l.length + 1)) ≤ ea.length) (hlb : entriesPer (wFmt2 w) * (x.block + (l.length + 1)) ≤ eb.length)
    (hma : group32 (wFmt w) (wFmt2 w) = true → ∀ e ∈ ea.take (entriesPer (wFmt w) * (x.block + (l.length + 1))), e.mark = false)
    (hmb : group32 (wFmt w) (wFmt2 w) = true → ∀ e ∈ eb.take (entriesPer (wFmt2 w) * (x.block + (l.length + 1))), e.mark = false) :
    let r := mmFold w ea eb (List.range' x.block (l.length + 1)) (mmStart t w x.block)
    ∃ u, Runs g (forIn (j :: l) PUnit.unit (fun _ _ => mmTurn g w)) s PUnit.unit u r.2 ∧
      MmLeft t u (getBits w 46 2) (getBits w 44 2) (getBits w 41 1) (ea.drop (entriesPer (wFmt w) * (x.block + (l.length + 1))))
        (eb.drop (entriesPer (wFmt2 w) * (x.block + (l.length + 1)))) r.1 { x with block := x.block + (l.length + 1) } := by
  have le_a : entriesPer (wFmt w) * (x.block + 1) ≤ entriesPer (wFmt w) * (x.block + (l.length + 1)) := Nat.mul_le_mul_left _ (by omega)
  have le_b : entriesPer (wFmt2 w) * (x.block + 1) ≤ entriesPer (wFmt2 w) * (x.block + (l.length + 1)) := Nat.mul_le_mul_left _ (by omega)
  have sub_a : ∀ e ∈ blockEntries (wFmt w) x.block ea, e ∈ ea.take (entriesPer (wFmt w) * (x.block + (l.length + 1))) := fun e he =>
    (List.take_subset_take_left _ le_a) (mem_blockEntries he)
  have sub_b : ∀ e ∈ blockEntries (wFmt2 w) x.block eb, e ∈ eb.take (entriesPer (wFmt2 w) * (x.block + (l.length + 1))) := fun e he =>
    (List.take_subset_take_left _ le_b) (mem_blockEntries he)
  obtain ⟨t1, ⟨s1, r1, b1, a1, i1⟩, l1⟩ := mmBlock_runs a hn hx hea heb hq hqa hqb (le_a.trans hla) (le_b.trans hlb)
    (fun h e he => hma h e (sub_a e he)) (fun h e he => hmb h e (sub_b e he))
  dsimp only
  generalize hacc : mmStart t w x.block = acc at *
  have hf : mmFold w ea eb (x.block :: List.range' (x.block + 1) l.length) acc =
      ((mmFold w ea eb (List.range' (x.block + 1) l.length) ((mmStep w ea eb x.block acc).map (·.1))).1,
        orFlags ((mmStep w ea eb x.block acc).map (·.2)) |||
          (mmFold w ea eb (List.range' (x.block + 1) l.length) ((mmStep w ea eb x.block acc).map (·.1))).2) := rfl
  rw [List.range'_succ, hf, List.forIn_cons]
  cases l with
  | nil =>
    refine ⟨t1, ⟨s1, ?_, ?_, a1, i1⟩, l1⟩
    · rw [tileM_bind_ok r1]
      rfl
    · show Becomes g s s1 t1 (_ ||| 0)
      rw [flags_zero]
      exact b1
  | cons k l =>
    obtain ⟨y, hy, hc⟩ := l1.arr
    have hyb : y.block = x.block + 1 := core_block hc
    have hst : mmStart t1 w y.block = (mmStep w ea eb x.block acc).map (·.1) := by
      unfold mmStart
      rw [if_neg (by omega), l1.written]
    obtain ⟨u, ⟨s2, r2, b2, a2, i2⟩, l2⟩ := mmLoop_runs hq l k (x := y) a1 (l1.noFeeds hn) hy ((core_ea hc).trans hea) ((core_eb hc).trans heb)
      (by rw [l1.left, hyb]) (by rw [l1.right, hyb])
      (by rw [hyb, show x.block + 1 + (l.length + 1) = x.block + ((k :: l).length + 1) by simp; omega]; exact hla)
      (by rw [hyb, show x.block + 1 + (l.length + 1) = x.block + ((k :: l).length + 1) by simp; omega]; exact hlb)
      (by rw [hyb, show x.block + 1 + (l.length + 1) = x.block + ((k :: l).length + 1) by simp; omega]; exact hma)
      (by rw [hyb, show x.block + 1 + (l.length + 1) = x.block + ((k :: l).length + 1) by simp; omega]; exact hmb)
    rw [hst] at l2 b2
    rw [hyb] at l2 b2
    have hlen : (k :: l).length = l.length + 1 := rfl
    rw [hlen]
    rw [show x.block + 1 + (l.length + 1) = x.block + (l.length + 1 + 1) by omega] at l2
    have lt := l1.trans l2
    refine ⟨u, ⟨s2, ?_, b1.trans b2, a2, ?_⟩, ⟨lt.left, lt.right, lt.other, lt.written, lt.kept, ?_, lt.rest⟩⟩
    · rw [tileM_bind_ok r1]
      exact r2
    · rw [i2, b1.2.1, i1]
    · obtain ⟨z, hz, hcz⟩ := lt.arr
      refine ⟨z, hz, hcz.trans ?_⟩
      unfold ArrOp.core at hc ⊢
      cases x; cases y
      simp_all

end Sys2Proof.Machine
end

