-- ==== Sys2Proof/Laws/TileFeed.lean ====
section
/-! SUPPORT. What the fetch engine does to a tile without errors: reading entries, filling a queue. -/
namespace Sys2Proof.Machine

/-! ### Reading -/

theorem readDraw_runs {g a n : Nat} {s : State} {t : Tile} (q : At g s t) : Runs g (readDraw g a n) s (tundishBytes s g a n) t 0 := by
  have h0 : (tileOf s g).hflip0 = [] := q.1.2.1
  have h1 : (tileOf s g).hflip1 = [] := q.1.2.2.1
  unfold readDraw tundishBytes
  refine (get_runs q).step fun u hu qu => ?_
  dsimp only
  rw [h0, h1]
  by_cases hd : getF s F.TIL_TUNDISH_DRAW g = 0
  all_goals
    simp only [hd, if_true, if_false]
    by_cases h5 : drawState s g = 5 <;> simp only [h5, if_true, if_false]
    · exact Runs.pure qu _
    · refine (Runs.pure qu _ : Runs g (forIn (([] : Assoc Nat).filter _) PUnit.unit _) u PUnit.unit t 0).step fun v _ qv => ?_
      refine (Runs.pure qv _).cast ?_ rfl rfl
      refine List.map_congr_left fun i _ => ?_
      rw [getD_nil, eccDeliver_zero]

theorem fetchRead_runs {g a n : Nat} {s : State} {t : Tile} (q : At g s t) :
    Runs g (fetchRead g a n) s (fetchBytes s g a n) t 0 := by
  unfold fetchRead fetchBytes
  split
  · next h => exact (readMem_runs q h).cast (by rw [q.2]) rfl rfl
  · exact readDraw_runs q

/-- Two states in which the fetch engine reads the same. -/
def SameFetch (g : Nat) (s u : State) : Prop :=
  (∀ a n, fetchBytes u g a n = fetchBytes s g a n) ∧ drawState u g = drawState s g

theorem SameFetch.of_becomes {g : Nat} {s u : State} {t : Tile} {fl : Flags} (h : Becomes g s u t fl)
    (hm : t.mem = (tileOf s g).mem) (hf : t.memFlip = (tileOf s g).memFlip) (hv : t.valid = (tileOf s g).valid)
    (h0 : t.half0 = (tileOf s g).half0) (h1 : t.half1 = (tileOf s g).half1) : SameFetch g s u := by
  have k : rdReg u .TIL_TUNDISH g 0 = rdReg s .TIL_TUNDISH g 0 := h.reg (tilAddr_ne g rfl rfl (by decide))
  have kf : ∀ f : Fld, f.reg = .TIL_TUNDISH → getF u f g = getF s f g := by
    intro f hr
    unfold getF getI
    rw [hr, k]
  have kd : drawState u g = drawState s g := by
    unfold drawState
    rw [kf F.TIL_TUNDISH_DRAW rfl, kf F.TIL_TUNDISH_H0_STATE rfl, kf F.TIL_TUNDISH_H1_STATE rfl]
  refine ⟨fun a n => ?_, kd⟩
  unfold fetchBytes tundishBytes tileBytes memByte lineValid
  rw [h.2.1, hm, hf, hv, h0, h1, kf F.TIL_TUNDISH_DRAW rfl, kd]

theorem SameFetch.trans {g : Nat} {s u v : State} (h : SameFetch g s u) (k : SameFetch g u v) : SameFetch g s v :=
  ⟨fun a n => (k.1 a n).trans (h.1 a n), k.2.trans h.2⟩

theorem entryOf_congr {g : Nat} {s u : State} (h : SameFetch g s u) (fd : Feed) (j : Nat) : entryOf u g fd j = entryOf s g fd j := by
  unfold entryOf ingotHalf zeroIngot
  simp only [h.1 _ _, h.2]

theorem readHalf_runs {g a half : Nat} {fd : Feed} {s : State} {t : Tile} (q : At g s t)
    (h : zeroIngot s g fd a = true ∨ ingotOk fd.fmt (fetchBytes s g a 16) = true) :
    Runs g (readHalf g fd a half) s (ingotHalf s g fd a half) t 0 := by
  unfold readHalf ingotHalf
  refine Runs.get ?_
  by_cases hz : zeroIngot s g fd a = true
  · have hz' := hz
    unfold zeroIngot at hz'
    rw [if_pos hz, if_pos hz']
    exact Runs.pure q _
  have hz' := hz
  unfold zeroIngot at hz'
  rw [if_neg hz, if_neg hz']
  have h := h.resolve_left hz
  refine (fetchRead_runs q).step fun u hu qu => (faultIf_runs qu (by simp [h])).step fun v hv qv => ?_
  have k : SameFetch g s v := SameFetch.of_becomes (hu.trans hv) (by rw [q.2]) (by rw [q.2]) (by rw [q.2]) (by rw [q.2]) (by rw [q.2])
  refine (fetchRead_runs qv).step fun x _ qx => (Runs.pure qx _).cast ?_ rfl rfl
  rw [k.1]

/-- A list of reads, each of which leaves the tile alone. -/
theorem mapM_fetch {α β : Type} {g : Nat} {f : α → TileM β} {v : State → α → β} {s : State} {t : Tile} (l : List α)
    (hf : ∀ x ∈ l, ∀ u, SameFetch g s u → At g u t → Runs g (f x) u (v s x) t 0) (q : At g s t) :
    Runs g (l.mapM f) s (l.map (v s)) t 0 := by
  rw [← List.mapM'_eq_mapM]
  have key : ∀ (l : List α) (u : State), (∀ x ∈ l, ∀ u, SameFetch g s u → At g u t → Runs g (f x) u (v s x) t 0) →
      SameFetch g s u → At g u t → Runs g (List.mapM' f l) u (l.map (v s)) t 0 := by
    intro l
    induction l with
    | nil => exact fun u _ _ q => Runs.pure q _
    | cons x l ih =>
      intro u hf hs q
      rw [List.mapM'_cons]
      refine (hf x (by simp) u hs q).step fun w hw qw => ?_
      have k : SameFetch g u w := SameFetch.of_becomes hw (by rw [q.2]) (by rw [q.2]) (by rw [q.2]) (by rw [q.2]) (by rw [q.2])
      exact (ih w (fun y hy => hf y (by simp [hy])) (hs.trans k) qw).step fun z _ qz => Runs.pure qz _
  exact key l s hf ⟨fun _ _ => rfl, rfl⟩ q

/-- Entry `j` of a FEED. -/
theorem feedEntry_runs {g j : Nat} {fd : Feed} {s : State} {t : Tile} (q : At g s t) (h : IngotsOk s g fd j) :
    Runs g (feedEntry g fd j) s (entryOf s g fd j) t 0 := by
  unfold feedEntry entryOf
  unfold IngotsOk entryIngots at h
  unfold entryIngots
  dsimp only at h ⊢
  have hh : ∀ a, zeroIngot s g fd a = true ∨ ingotOk fd.fmt (fetchBytes s g a 16) = true → ∀ half u, SameFetch g s u → At g u t →
      Runs g (readHalf g fd a half) u (ingotHalf s g fd a half) t 0 := by
    intro a ha half u hs qu
    have r := readHalf_runs (half := half) qu (by unfold zeroIngot at ha ⊢; rw [hs.1, hs.2]; exact ha)
    have e : ingotHalf u g fd a half = ingotHalf s g fd a half := by
      unfold ingotHalf zeroIngot
      simp only [hs.1 _ _, hs.2]
    rwa [e] at r
  split
  · next hm =>
    exact (mapM_fetch (v := fun s r => fetchBytes s g (rowAddr fd (j / (32 / lanesPerEntry fd.fmt)) r) (4 * fmtWidth fd.fmt)) _
      (fun r _ u hs qu => by have k := fetchRead_runs (a := rowAddr fd (j / (32 / lanesPerEntry fd.fmt)) r) (n := 4 * fmtWidth fd.fmt) qu; rwa [hs.1] at k) q).step
      fun u _ qu => (Runs.pure qu _).cast (by (try rw [hm]); (try simp only [List.map_map]); rfl) rfl rfl
  · next hm =>
    try rw [hm] at h
    try dsimp only at h
    refine (mapM_fetch (v := fun s q => ingotHalf s g fd (ingotAddr fd (j / (2 * (32 / lanesPerEntry fd.fmt)))
      (j % (32 / lanesPerEntry fd.fmt) * lanesPerEntry fd.fmt + q)) (j % (2 * (32 / lanesPerEntry fd.fmt)) / (32 / lanesPerEntry fd.fmt))) _
      (fun x hx u hs qu => hh _ (h _ (List.mem_map.2 ⟨x, hx, rfl⟩)) _ u hs qu) q).step
      fun u _ qu => (Runs.pure qu _).cast ?_ rfl rfl
    try rw [hm]
    try simp only [List.map_map]
    rfl
  · next hm =>
    try rw [hm] at h
    try dsimp only at h
    refine (mapM_fetch (v := fun s r => ingotHalf s g fd (ingotAddr fd (j / (32 / lanesPerEntry fd.fmt)) r) (fd.mode / 8 % 2)) _
      (fun x hx u hs qu => hh _ (h _ (List.mem_map.2 ⟨x, hx, rfl⟩)) _ u hs qu) q).step
      fun u _ qu => (Runs.pure qu _).cast ?_ rfl rfl
    try rw [hm]
    try simp only [List.map_map]
    rfl
  · next h1 h2 h3 =>
    refine (fetchRead_runs q).step fun u _ qu => (Runs.pure qu _).cast ?_ rfl rfl
    first
      | rfl
      | (split
         · next hm => exact absurd hm h1
         · next hm => exact absurd hm h2
         · next hm => exact absurd hm h3
         · rfl)

/-! ### Filling a queue -/

/-- A tile but for one queue. -/
structure QueueSet (t u : Tile) (q : Nat) (x : OpQueue) : Prop where
  here : queueOf u q = x
  other : ∀ p, p ≠ q → queueOf u p = queueOf t p
  rest : { u with queues := t.queues } = t

theorem queueSet_setQueue (t : Tile) (q : Nat) (x : OpQueue) : QueueSet t (setQueue t q x) q x :=
  ⟨queueOf_setQueue_same _ _ _, fun _ h => queueOf_setQueue_ne _ _ h, rfl⟩

theorem QueueSet.trans {t u v : Tile} {q : Nat} {x y : OpQueue} (h : QueueSet t u q x) (k : QueueSet u v q y) : QueueSet t v q y := by
  refine ⟨k.here, fun p hp => (k.other p hp).trans (h.other p hp), ?_⟩
  have h1 := h.rest
  have k1 := k.rest
  rw [← h1, ← k1]

theorem QueueSet.feeds {t u : Tile} {q : Nat} {x : OpQueue} (h : QueueSet t u q x) : u.feeds = t.feeds := by
  have k := congrArg Tile.feeds h.rest
  exact k

theorem QueueSet.issue {t u : Tile} {q : Nat} {x : OpQueue} (h : QueueSet t u q x) : u.issue = t.issue := by
  have k := congrArg Tile.issue h.rest
  exact k

/-- The same bytes are fetched from a tile in which only queues differ. -/
theorem QueueSet.sameFetch {g : Nat} {s u : State} {t v : Tile} {q : Nat} {x : OpQueue} (h : QueueSet t v q x) (a : At g s t)
    (b : Becomes g s u v 0) : SameFetch g s u := by
  have r := h.rest
  refine SameFetch.of_becomes b ?_ ?_ ?_ ?_ ?_ <;> rw [a.2, ← r]

/-- A queue that takes nothing: no FEED, or sixteen entries. -/
theorem refill_idle {g q n : Nat} {s : State} {t t' : Tile} (a : At g s t) (hs : startFeeds t (t.feeds.length + 1) = t')
    (h : (queueOf t' q).feed = none ∨ 16 ≤ (queueOf t' q).entries.length) (hm : t'.memFlip = t.memFlip) (h0 : t'.hflip0 = t.hflip0)
    (h1 : t'.hflip1 = t.hflip1) (hr : t'.riserFlip = t.riserFlip) (he : t'.issue = t.issue) : Runs g (refill g q (n + 1)) s () t' 0 := by
  unfold refill
  have m : Runs g (modify (fun s => modTile s g (fun t => startFeeds t (t.feeds.length + 1)))) s () t' 0 := by
    have r := modify_runs (f := fun t => startFeeds t (t.feeds.length + 1)) a
      (.inl (by rw [hs, hm])) (by rw [hs, h0]) (by rw [hs, h1]) (.inl (by rw [hs, hr])) (by rw [hs, he])
    rwa [hs] at r
  refine m.step fun u _ qu => (get_runs qu).step fun v _ qv => ?_
  rw [qu.2]
  dsimp only
  split
  · exact Runs.pure qv ()
  · next fd hf =>
    have h16 : 16 ≤ (queueOf t' q).entries.length := h.resolve_left (by rw [hf]; simp)
    rw [if_pos h16]
    exact Runs.pure qv ()

/-- Entries that queue `x` takes from its FEED `fd`. -/
def taken (x : OpQueue) (fd : Feed) : Nat := min (fd.count - fd.next) (16 - x.entries.length)

/-- The queue after it has taken what it can. -/
def filled (s : State) (g : Nat) (x : OpQueue) (fd : Feed) : OpQueue :=
  { entries := x.entries ++ (List.range' fd.next (taken x fd)).map (entryOf s g fd)
    feed := if fd.next + taken x fd < fd.count then some { fd with next := fd.next + taken x fd } else none }

theorem entryOf_next (s : State) (g : Nat) (fd : Feed) (n j : Nat) : entryOf s g { fd with next := n } j = entryOf s g fd j := rfl

theorem refill_takes {g q : Nat} {s0 : State} (n : Nat) {s : State} {t t' : Tile} {fd : Feed} (a : At g s t)
    (hs : startFeeds t (t.feeds.length + 1) = t') (hk : t'.feeds = []) (hm : t'.memFlip = t.memFlip) (h0 : t'.hflip0 = t.hflip0)
    (h1 : t'.hflip1 = t.hflip1) (hr : t'.riserFlip = t.riserFlip) (he : t'.issue = t.issue)
    (hf : (queueOf t' q).feed = some fd) (hj : fd.next < fd.count) (hn : taken (queueOf t' q) fd < n)
    (same : ∀ u, Becomes g s u t' 0 → SameFetch g s0 u)
    (hi : ∀ j, fd.next ≤ j → j < fd.next + taken (queueOf t' q) fd → IngotsOk s0 g fd j) :
    ∃ u, Runs g (refill g q n) s () u 0 ∧ QueueSet t' u q (filled s0 g (queueOf t' q) fd) := by
  cases n with
  | zero => omega
  | succ n =>
    by_cases h16 : 16 ≤ (queueOf t' q).entries.length
    · refine ⟨t', refill_idle a hs (.inr h16) hm h0 h1 hr he, ?_, fun _ _ => rfl, rfl⟩
      have ht : taken (queueOf t' q) fd = 0 := by unfold taken; omega
      unfold filled
      rw [ht]
      simp [hj]
      rw [← hf]
    · have m : Runs g (modify (fun s => modTile s g (fun t => startFeeds t (t.feeds.length + 1)))) s () t' 0 := by
        have r := modify_runs (f := fun t => startFeeds t (t.feeds.length + 1)) a
          (.inl (by rw [hs, hm])) (by rw [hs, h0]) (by rw [hs, h1]) (.inl (by rw [hs, hr])) (by rw [hs, he])
        rwa [hs] at r
      obtain ⟨s1, r1, b1, a1, i1⟩ := m
      have ht : 0 < taken (queueOf t' q) fd := by unfold taken; omega
      have same1 := same s1 b1
      obtain ⟨s2, r2, b2, a2, i2⟩ := feedEntry_runs (g := g) (j := fd.next) (fd := fd) a1 (by
        have k := hi fd.next (Nat.le_refl _) (by omega)
        intro x hx
        have k := k x hx
        unfold zeroIngot at k ⊢
        rw [same1.1, same1.2]
        exact k)
      rw [entryOf_congr same1] at r2
      let y : OpQueue := { entries := (queueOf t' q).entries ++ [entryOf s0 g fd fd.next],
                           feed := if fd.next + 1 < fd.count then some { fd with next := fd.next + 1 } else none }
      obtain ⟨s3, r3, b3, a3, i3⟩ := modify_runs (f := fun t => setQueue t q y) a2 (.inl rfl) rfl rfl (.inl rfl) rfl
      have qs := queueSet_setQueue t' q y
      have run : ∀ v, refill g q n s3 = .ok () v → refill g q (n + 1) s = .ok () v := by
        intro v hv
        rw [refill, tileM_bind_ok r1, tileM_bind_ok (tileM_get s1), a1.2]
        dsimp only
        rw [hf]
        dsimp only
        rw [if_neg h16, tileM_bind_ok r2, tileM_bind_ok r3]
        exact hv
      have hsf : startFeeds (setQueue t' q y) ((setQueue t' q y).feeds.length + 1) = setQueue t' q y :=
        startFeeds_none (qs.feeds.trans hk) _
      have b23 : Becomes g s s3 (setQueue t' q y) 0 := by
        have bb := (b1.trans b2).trans b3
        rwa [zero_flags, zero_flags] at bb
      have hlen : y.entries.length = (queueOf t' q).entries.length + 1 := by simp [y]
      by_cases hlast : fd.next + 1 < fd.count
      · have htk : taken y { fd with next := fd.next + 1 } + 1 = taken (queueOf t' q) fd := by
          unfold taken
          dsimp only
          rw [hlen]
          omega
        obtain ⟨u, ⟨s4, r4, b4, a4, i4⟩, l4⟩ := refill_takes (s0 := s0) n (fd := { fd with next := fd.next + 1 }) a3 hsf (qs.feeds.trans hk)
          rfl rfl rfl rfl rfl (by rw [qs.here]; simp [y, hlast]) hlast (by rw [qs.here]; omega)
          (fun v bv => by
            have bb := b23.trans bv
            rw [zero_flags] at bb
            have c2 := (QueueSet.sameFetch qs a1 (by
              have cc := (b2.trans b3).trans bv
              rwa [zero_flags, zero_flags] at cc))
            exact same1.trans c2)
          (fun j hj1 hj2 => by
            rw [qs.here] at hj2
            have k := hi j (by dsimp only at hj1; omega) (by dsimp only at hj2; omega)
            exact k)
        refine ⟨u, ⟨s4, run s4 r4, ?_, a4, by rw [l4.issue, qs.issue, he, a.2]⟩, qs.trans ?_⟩
        · have bb := b23.trans b4
          rwa [zero_flags] at bb
        · rw [qs.here] at l4
          have e : filled s0 g y { fd with next := fd.next + 1 } = filled s0 g (queueOf t' q) fd := by
            unfold filled
            rw [← htk]
            dsimp only
            congr 1
            · rw [List.range'_succ]
              simp [y, entryOf_next]
            · rw [show fd.next + 1 + taken y { fd with next := fd.next + 1 } = fd.next + (taken y { fd with next := fd.next + 1 } + 1) by omega]
          rw [e] at l4
          exact l4
      · have htk : taken (queueOf t' q) fd = 1 := by unfold taken; omega
        have hyf : y.feed = none := by simp [y, hlast]
        obtain ⟨s4, r4, b4, a4, i4⟩ : Runs g (refill g q n) s3 () (setQueue t' q y) 0 := by
          cases n with
          | zero => exact Runs.pure a3 ()
          | succ n => exact refill_idle a3 hsf (.inl (by rw [qs.here]; exact hyf)) rfl rfl rfl rfl rfl
        refine ⟨setQueue t' q y, ⟨s4, run s4 r4, ?_, a4, by rw [qs.issue, he, a.2]⟩, ?_⟩
        · have bb := b23.trans b4
          rwa [zero_flags] at bb
        · have e : filled s0 g (queueOf t' q) fd = y := by
            unfold filled
            rw [htk]
            simp [y]
          rw [e]
          exact qs

/-- A round over queues none of which takes anything. -/
theorem refills_idle {g : Nat} (l : List Nat) {s : State} {t : Tile} (a : At g s t) (hk : t.feeds = [])
    (h : ∀ q ∈ l, (queueOf t q).feed = none ∨ 16 ≤ (queueOf t q).entries.length) :
    Runs g (forIn l PUnit.unit (fun q _ => do
      refill g q 20
      pure (ForInStep.yield PUnit.unit))) s PUnit.unit t 0 := by
  induction l generalizing s with
  | nil => exact Runs.pure a _
  | cons q l ih =>
    rw [List.forIn_cons]
    exact Runs.step (a := ForInStep.yield PUnit.unit)
      ((refill_idle a (startFeeds_none hk _) (h q (by simp)) rfl rfl rfl rfl rfl).step fun u _ qu => Runs.pure qu _)
      fun u _ qu => ih qu (fun p hp => h p (by simp [hp]))

/-- A round over queues one of which takes entries from its FEED. -/
theorem refills_take {g q : Nat} {s0 : State} (l : List Nat) (hq : q ∈ l) {s : State} {t : Tile} {fd : Feed} (a : At g s t) (hk : t.feeds = [])
    (hf : (queueOf t q).feed = some fd) (ho : ∀ p, p ≠ q → (queueOf t p).feed = none) (hj : fd.next < fd.count)
    (same : ∀ u, Becomes g s u t 0 → SameFetch g s0 u)
    (hi : ∀ j, fd.next ≤ j → j < fd.next + taken (queueOf t q) fd → IngotsOk s0 g fd j) :
    ∃ u, Runs g (forIn l PUnit.unit (fun q _ => do
      refill g q 20
      pure (ForInStep.yield PUnit.unit))) s PUnit.unit u 0 ∧ QueueSet t u q (filled s0 g (queueOf t q) fd) := by
  have h20 : taken (queueOf t q) fd < 20 := by unfold taken; omega
  induction l generalizing s with
  | nil => simp at hq
  | cons p l ih =>
    rw [List.forIn_cons]
    by_cases hp : p = q
    · subst hp
      obtain ⟨u, ⟨s1, r1, b1, a1, i1⟩, l1⟩ := refill_takes (s0 := s0) 20 a (startFeeds_none hk _) hk rfl rfl rfl rfl rfl hf hj h20 same hi
      have idle : ∀ x ∈ l, (queueOf u x).feed = none ∨ 16 ≤ (queueOf u x).entries.length := by
        intro x hx
        by_cases hxp : x = p
        · subst hxp
          rw [l1.here]
          unfold filled
          dsimp only
          by_cases hlt : fd.next + taken (queueOf t x) fd < fd.count
          · right
            rw [List.length_append, List.length_map, List.length_range']
            unfold taken at hlt ⊢
            omega
          · left
            rw [if_neg hlt]
        · left
          rw [l1.other x hxp]
          exact ho x hxp
      obtain ⟨s2, r2, b2, a2, i2⟩ := refills_idle l a1 (l1.feeds.trans hk) idle
      refine ⟨u, ⟨s2, ?_, ?_, a2, by rw [i2, b1.2.1, i1]⟩, l1⟩
      · have e : (refill g p 20 >>= fun _ => (pure (ForInStep.yield PUnit.unit) : TileM (ForInStep PUnit))) s =
            .ok (.yield PUnit.unit) s1 := by rw [tileM_bind_ok r1]; rfl
        rw [tileM_bind_ok e]
        exact r2
      · have bb := b1.trans b2
        rwa [zero_flags] at bb
    · obtain ⟨s1, r1, b1, a1, i1⟩ := refill_idle (n := 19) a (startFeeds_none hk _) (.inl (ho p hp)) rfl rfl rfl rfl rfl
      obtain ⟨u, ⟨s2, r2, b2, a2, i2⟩, l2⟩ := ih (by simpa [Ne.symm hp] using hq) a1 (fun v bv => same v (by
        have bb := b1.trans bv
        rwa [zero_flags] at bb))
      refine ⟨u, ⟨s2, ?_, ?_, a2, by rw [i2, b1.2.1, i1]⟩, l2⟩
      · have e : (refill g p 20 >>= fun _ => (pure (ForInStep.yield PUnit.unit) : TileM (ForInStep PUnit))) s =
            .ok (.yield PUnit.unit) s1 := by rw [tileM_bind_ok r1]; rfl
        rw [tileM_bind_ok e]
        exact r2
      · have bb := b1.trans b2
        rwa [zero_flags] at bb

/-- A queue that has taken what it can takes no more. -/
theorem filled_idle {s : State} {g : Nat} {x : OpQueue} {fd : Feed} :
    (filled s g x fd).feed = none ∨ 16 ≤ (filled s g x fd).entries.length := by
  unfold filled
  dsimp only
  by_cases hlt : fd.next + taken x fd < fd.count
  · right
    rw [List.length_append, List.length_map, List.length_range']
    unfold taken at hlt ⊢
    omega
  · left
    rw [if_neg hlt]

/-- A FEED that has just been given to the fetch engine fills its queue. -/
theorem refillAll_takes {g : Nat} {s0 : State} {s : State} {t : Tile} {fd : Feed} (a : At g s t) (hk : t.feeds = [fd]) (hq : fd.q < 4)
    (ho : ∀ p, (queueOf t p).feed = none) (hj : fd.next < fd.count) (same : ∀ u v, Becomes g s u v 0 →
      (∃ x, QueueSet { t with feeds := [] } v fd.q x) → SameFetch g s0 u)
    (hi : ∀ j, fd.next ≤ j → j < fd.next + taken (queueOf t fd.q) fd → IngotsOk s0 g fd j) :
    ∃ u, Runs g (refillAll g) s () u 0 ∧ QueueSet { t with feeds := [] } u fd.q (filled s0 g (queueOf t fd.q) fd) := by
  let t1 : Tile := { setQueue t fd.q { queueOf t fd.q with feed := some fd } with feeds := [] }
  have hs : startFeeds t (t.feeds.length + 1) = t1 := by
    rw [hk]
    unfold startFeeds
    rw [hk]
    dsimp only
    rw [ho fd.q]
    simp only [Option.isNone_none, if_true]
    exact startFeeds_none rfl _
  have e1 : queueOf t1 fd.q = { queueOf t fd.q with feed := some fd } := queueOf_setQueue_same _ _ _
  have e2 : ∀ p, p ≠ fd.q → queueOf t1 p = queueOf t p := fun p hp => queueOf_setQueue_ne _ _ hp
  have qs1 : QueueSet { t with feeds := [] } t1 fd.q { queueOf t fd.q with feed := some fd } := ⟨e1, e2, rfl⟩
  have hf1 : (queueOf t1 fd.q).feed = some fd := by rw [e1]
  have ho1 : ∀ p, p ≠ fd.q → (queueOf t1 p).feed = none := fun p hp => by rw [e2 p hp]; exact ho p
  have htk : taken (queueOf t1 fd.q) fd = taken (queueOf t fd.q) fd := by rw [e1]; rfl
  have hfl : filled s0 g (queueOf t1 fd.q) fd = filled s0 g (queueOf t fd.q) fd := by rw [e1]; rfl
  have h20 : taken (queueOf t1 fd.q) fd < 20 := by unfold taken; omega
  have same1 : ∀ u, Becomes g s u t1 0 → SameFetch g s0 u := fun u b => same u t1 b ⟨_, qs1⟩
  have hi1 : ∀ j, fd.next ≤ j → j < fd.next + taken (queueOf t1 fd.q) fd → IngotsOk s0 g fd j := by rw [htk]; exact hi
  have first : ∃ u, Runs g (forIn [0, 1, 2, 3] PUnit.unit (fun q _ => do
      refill g q 20
      pure (ForInStep.yield PUnit.unit))) s PUnit.unit u 0 ∧ QueueSet t1 u fd.q (filled s0 g (queueOf t1 fd.q) fd) := by
    rw [List.forIn_cons]
    by_cases h0 : fd.q = 0
    · obtain ⟨u, ⟨s1, r1, b1, a1, i1⟩, l1⟩ := refill_takes (s0 := s0) 20 a hs rfl rfl rfl rfl rfl rfl hf1 hj h20 same1 hi1
      have idle : ∀ x ∈ [1, 2, 3], (queueOf u x).feed = none ∨ 16 ≤ (queueOf u x).entries.length := by
        intro x hx
        left
        have hx0 : x ≠ fd.q := by rw [h0]; rintro rfl; simp at hx
        rw [l1.other x hx0]
        exact ho1 x hx0
      obtain ⟨s2, r2, b2, a2, i2⟩ := refills_idle [1, 2, 3] a1 l1.feeds idle
      refine ⟨u, ⟨s2, ?_, ?_, a2, by rw [i2, b1.2.1, i1]⟩, l1⟩
      · rw [h0] at r1
        have e : (refill g 0 20 >>= fun _ => (pure (ForInStep.yield PUnit.unit) : TileM (ForInStep PUnit))) s =
            .ok (.yield PUnit.unit) s1 := by rw [tileM_bind_ok r1]; rfl
        rw [tileM_bind_ok e]
        exact r2
      · have bb := b1.trans b2
        rwa [zero_flags] at bb
    · obtain ⟨s1, r1, b1, a1, i1⟩ := refill_idle (q := 0) (n := 19) a hs (.inl (ho1 0 (fun h => h0 h.symm))) rfl rfl rfl rfl rfl
      obtain ⟨u, ⟨s2, r2, b2, a2, i2⟩, l2⟩ := refills_take (s0 := s0) (q := fd.q) [1, 2, 3] (by
        have : fd.q = 1 ∨ fd.q = 2 ∨ fd.q = 3 := by omega
        simpa using this) a1 rfl hf1 ho1 hj (fun v bv => same1 v (by
          have bb := b1.trans bv
          rwa [zero_flags] at bb)) hi1
      refine ⟨u, ⟨s2, ?_, ?_, a2, by rw [i2, b1.2.1, i1]⟩, l2⟩
      · have e : (refill g 0 20 >>= fun _ => (pure (ForInStep.yield PUnit.unit) : TileM (ForInStep PUnit))) s =
            .ok (.yield PUnit.unit) s1 := by rw [tileM_bind_ok r1]; rfl
        rw [tileM_bind_ok e]
        exact r2
      · have bb := b1.trans b2
        rwa [zero_flags] at bb
  obtain ⟨u, ⟨s1, r1, b1, a1, i1⟩, l1⟩ := first
  have idle : ∀ x ∈ [0, 1, 2, 3], (queueOf u x).feed = none ∨ 16 ≤ (queueOf u x).entries.length := by
    intro x _
    by_cases hx : x = fd.q
    · subst hx
      rw [l1.here]
      exact filled_idle
    · left
      rw [l1.other x hx]
      exact ho1 x hx
  obtain ⟨s2, r2, b2, a2, i2⟩ := refills_idle [0, 1, 2, 3] a1 l1.feeds idle
  refine ⟨u, ⟨s2, ?_, ?_, a2, by rw [i2, b1.2.1, i1]⟩, ?_⟩
  · unfold refillAll
    rw [tileM_bind_ok r1, tileM_bind_ok r2]
    rfl
  · have bb := b1.trans b2
    rwa [zero_flags] at bb
  · rw [hfl] at l1
    exact qs1.trans l1

end Sys2Proof.Machine
end

