-- ==== Sys2Proof/Laws/TileRetire.lean ====
section
/-! SUPPORT. How an op ends whose effect reaches beyond its tile's work: it retires from the state its effect left. -/
namespace Sys2Proof.Machine

theorem retires_of_run {s x : State} {t : TileId} {w : Word} {op : Nat} {body : TileM OpEnd} (hi : Issues s t w op)
    (hb : body (issued s t.gid w) = .ok .next x) : Retires x (runOp t w op body s) t.gid := by
  rw [runOp_next hi hb]
  exact retire_done (rs := []) (OnlyTile.refl _ _ _) rfl

theorem netFree_ok {s : State} {g : Nat} (h : netBusy (tileOf s g) = false) : netFree g s = .ok () s := by
  unfold netFree
  have eg : (get : TileM State) s = .ok s s := rfl
  rw [tileM_bind_ok eg, if_neg (by rw [h]; decide)]
  rfl

theorem netFree_busy {s : State} {g : Nat} (h : netBusy (tileOf s g) = true) : netFree g s = .error notYet s := by
  unfold netFree
  have eg : (get : TileM State) s = .ok s s := rfl
  rw [tileM_bind_ok eg, if_pos h]
  rfl

/-- A remote reader meets no byte in error. -/
theorem memReadRemote_clean {s : State} {g : Nat} (hm : (tileOf s g).memFlip = []) (a n : Nat) :
    memReadRemote s g a n = (tileBytes (tileOf s g) a n, false, s) := by
  unfold memReadRemote
  dsimp only
  rw [memErrs_nil hm]
  rfl

end Sys2Proof.Machine
end

