-- ==== Sys2Proof/Laws/Incident.lean ====
section
/-! SUPPORT. What a tile fault and an incident leave of a tile's registers and state. -/
namespace Sys2Proof.Machine

theorem faults_of_run {s x : State} {t : TileId} {w : Word} {op c : Nat} {body : TileM OpEnd} (hi : Issues s t w op)
    (h1 : c ≠ notYet) (h2 : c ≠ starve) (hb : body (issued s t.gid w) = .error c x) : runOp t w op body s = tileFault x t.gid c := by
  rw [runOp_body hi, hb]
  unfold finishOp
  dsimp only
  rw [if_neg h1, if_neg h2]

theorem til_ne_recStat {r : RegName} (g : Nat) (hr : (regRow r).region = .til) : regAddr r g 0 ≠ regAddr .GLB_REC_STAT 0 0 := by
  simp only [regAddr, hr, regionBase, show (regRow .GLB_REC_STAT).region = .glb from rfl, show (regRow .GLB_REC_STAT).base = 0x70010 from rfl,
    Nat.zero_div, Nat.zero_mod, Nat.zero_mul]
  omega

theorem til_ne_elog {r : RegName} (g : Nat) (hr : (regRow r).region = .til) : regAddr r g 0 ≠ regAddr .FLD_ELOG_SUPP (g / 700) 0 := by
  simp only [regAddr, hr, regionBase, show (regRow .FLD_ELOG_SUPP).region = .fld from rfl, show (regRow .FLD_ELOG_SUPP).base = 0xf00 from rfl,
    Nat.zero_div, Nat.zero_mod, Nat.zero_mul]
  omega

theorem rdReg_countF_ne (s : State) (f : Fld) (q : RegName) (u x j n : Nat) (h : regAddr q x j ≠ regAddr f.reg u 0) :
    rdReg (countF s f u n) q x j = rdReg s q x j := rdReg_wrReg_ne s f.reg q u 0 x j _ h

theorem openIncident_til {s : State} {f : Failure} {l : List Nat} {n g : Nat} {r : RegName} (hr : (regRow r).region = .til) :
    rdReg (openIncident s f l n) r g 0 = rdReg s r g 0 := by
  have k := til_ne_recStat g hr
  have e : ∀ (s : State) (f : Fld) (v : Nat), f.reg = .GLB_REC_STAT → rdReg (setF s f 0 v) r g 0 = rdReg s r g 0 := by
    intro s f v hf
    exact rdReg_setF_ne s f r 0 g 0 v (by rw [hf]; exact k)
  have e' : ∀ (s : State) (f : Fld) (v : Nat), f.reg = .GLB_REC_STAT → rdReg (countF s f 0 v) r g 0 = rdReg s r g 0 := by
    intro s f v hf
    exact rdReg_countF_ne s f r 0 g 0 v (by rw [hf]; exact k)
  have e0 : ∀ (x : State) (rc : RecState), rdReg { x with recov := rc } r g 0 = rdReg x r g 0 := fun _ _ => rfl
  unfold openIncident
  rw [e0, e' _ _ _ rfl, e _ _ _ rfl, e _ _ _ rfl, e _ _ _ rfl, e _ _ _ rfl]

theorem tileIncident_til {s : State} {g h code : Nat} {r : RegName} (hr : (regRow r).region = .til) :
    rdReg (tileIncident s h code) r g 0 = rdReg s r g 0 := by
  unfold tileIncident
  dsimp only
  split
  · exact openIncident_til hr
  · split
    · split <;> rfl
    · rfl

theorem logSupp_til {s : State} {u g code : Nat} {r : RegName} (k : regAddr r g 0 ≠ regAddr .FLD_ELOG_SUPP u 0) :
    rdReg (logSupp s F.FLD_ELOG_SUPP_COUNT F.FLD_ELOG_SUPP_FIRST F.FLD_ELOG_SUPP_LAST u code) r g 0 = rdReg s r g 0 := by
  unfold logSupp
  dsimp only
  rw [rdReg_countF_ne _ F.FLD_ELOG_SUPP_COUNT _ _ _ _ _ k, rdReg_setF_ne _ F.FLD_ELOG_SUPP_LAST _ _ _ _ _ k]
  split
  · rw [rdReg_setF_ne _ F.FLD_ELOG_SUPP_FIRST _ _ _ _ _ k]
  · rfl

theorem logAbsorbed_zero (s : State) (u code : Nat) :
    logAbsorbed s 0 u code = logSupp s F.FLD_ELOG_SUPP_COUNT F.FLD_ELOG_SUPP_FIRST F.FLD_ELOG_SUPP_LAST u code := rfl

theorem logAbsorbed_til {s : State} {g code : Nat} {r : RegName} (hr : (regRow r).region = .til) :
    rdReg (logAbsorbed s 0 (g / 700) code) r g 0 = rdReg s r g 0 := by
  have k := til_ne_elog g hr
  generalize g / 700 = u at k ⊢
  rw [logAbsorbed_zero]
  exact logSupp_til k

theorem openIncident_tile {s : State} {f : Failure} {l : List Nat} {n g : Nat} :
    tileOf (openIncident s f l n) g = tileOf s g ∧ (openIncident s f l n).tiers = s.tiers := by
  have e0 : ∀ (x : State) (rc : RecState), tileOf { x with recov := rc } g = tileOf x g := fun _ _ => rfl
  have e1 : ∀ (x : State) (rc : RecState), ({ x with recov := rc } : State).tiers = x.tiers := fun _ _ => rfl
  unfold openIncident
  constructor
  · rw [e0, tileOf_countF, tileOf_setF, tileOf_setF, tileOf_setF, tileOf_setF]
  · rw [e1, countF_tiers, setF_tiers, setF_tiers, setF_tiers, setF_tiers]

theorem tileIncident_tile {s : State} {g h code : Nat} : tileOf (tileIncident s h code) g = tileOf s g ∧ (tileIncident s h code).tiers = s.tiers := by
  have e0 : ∀ (x : State) (rc : RecState), tileOf { x with recov := rc } g = tileOf x g ∧ ({ x with recov := rc } : State).tiers = x.tiers :=
    fun _ _ => ⟨rfl, rfl⟩
  unfold tileIncident
  dsimp only
  split
  · exact openIncident_tile
  · split
    · split <;> exact e0 _ _
    · exact e0 _ _

theorem tileFault_reg {s : State} {g code : Nat} {r : RegName} (hr : (regRow r).region = .til) :
    rdReg (tileFault s g code) r g 0 = rdReg (setF (setF (setF (setF (setF (wrReg s .TIL_ERR g 0 (rdReg s .TIL_ERR g 0 ||| BitVec.ofNat 64 (2 ^ (code - 1))))
      F.TIL_STATUS_FAULT g code) F.TIL_STATUS_RUNNING g 0) F.TIL_STATUS_FENCED g 1) F.TIL_REC_LAST_FAULT g code) F.TIL_STATUS_WAITKIND g 0) r g 0 := by
  unfold tileFault
  dsimp only
  rw [tileIncident_til hr, logAbsorbed_til hr, rdReg_modTile]

theorem tileFault_fld {s : State} {g code : Nat} {f : Fld} (hr : (regRow f.reg).region = .til) :
    getF (tileFault s g code) f g = getF (setF (setF (setF (setF (setF (wrReg s .TIL_ERR g 0 (rdReg s .TIL_ERR g 0 ||| BitVec.ofNat 64 (2 ^ (code - 1))))
      F.TIL_STATUS_FAULT g code) F.TIL_STATUS_RUNNING g 0) F.TIL_STATUS_FENCED g 1) F.TIL_REC_LAST_FAULT g code) F.TIL_STATUS_WAITKIND g 0) f g := by
  unfold getF getI
  rw [tileFault_reg hr]

end Sys2Proof.Machine
end

