-- ==== Sys2Proof/Laws/Kept.lean ====
section
/-! SUPPORT. What every meaning but that of COLD_START leaves alone: the queue, the clock and the active frame slot of the flash; and
that it keeps a state sound. -/
namespace Sys2Proof.Machine

/-- A step of this kind from `s` to `t` leaves the queue, the clock and the active frame slot alone, and keeps a state sound. -/
def Kept (s t : State) : Prop :=
  t.pending = s.pending ∧ t.now = s.now ∧ t.power.flash.active = s.power.flash.active ∧ (s.Sound → t.Sound)

theorem Kept.refl (s : State) : Kept s s := ⟨rfl, rfl, rfl, id⟩

theorem Kept.trans {s t u : State} (h : Kept s t) (k : Kept t u) : Kept s u :=
  ⟨k.1.trans h.1, k.2.1.trans h.2.1, k.2.2.1.trans h.2.2.1, fun c => k.2.2.2 (h.2.2.2 c)⟩

/-- The parts of a state that `Kept` speaks about, for a state that is written out. -/
def KeptParts (s₀ : State) (pending : List Instr) (now : Nat) (regs : Assoc Word) (tiles : Assoc Tile) (upSince : Nat)
    (mem : Memory) (active : FrameSlot) : Prop :=
  pending = s₀.pending ∧ now = s₀.now ∧ active = s₀.power.flash.active ∧
    (s₀.Sound → (sortedKeys regs = true ∧ Memory.wf mem = true ∧ ∀ e ∈ tiles, e.2.Sound) ∧ upSince ≤ now)

theorem kept_mk {s₀ : State} {pending : List Instr} {now : Nat} {upSince : Nat} {regs : Assoc Word} {tiles : Assoc Tile}
    {cmd : CmdUnit} {fieldStart : Assoc Nat}
    {recov : RecState} {slots : Assoc ImgSlot} {notices : List Nat} {cresIn : List (Nat × Packet)} {free : Nat} {tiers : Tiers}
    {samplers : Assoc Sampler} {brois : Assoc BLink} {chains : List PourChain} {pours : Assoc PourUnit} {net : NetState}
    {coll : CollState} {loader : Loader} {power : PowerState} :
    Kept s₀ (State.mk pending now regs tiles cmd fieldStart upSince recov slots notices cresIn free tiers samplers brois
      chains pours net coll loader power) = KeptParts s₀ pending now regs tiles upSince tiers.mem power.flash.active := rfl

/-- An update that leaves the queue, the clock and the stores alone. -/
theorem KeptParts.same {s₀ s : State} (h : Kept s₀ s) :
    KeptParts s₀ s.pending s.now s.regs s.tiles s.upSince s.tiers.mem s.power.flash.active := h

/-- An update of the stores. -/
theorem KeptParts.upd {s₀ s : State} {regs : Assoc Word} {tiles : Assoc Tile} {mem : Memory} {active : FrameSlot}
    (h : Kept s₀ s) (ha : active = s.power.flash.active) (hr : sortedKeys s.regs = true → sortedKeys regs = true)
    (ht : (∀ e ∈ s.tiles, e.2.Sound) → ∀ e ∈ tiles, e.2.Sound)
    (hm : Memory.wf s.tiers.mem = true → Memory.wf mem = true) :
    KeptParts s₀ s.pending s.now regs tiles s.upSince mem active :=
  ⟨h.1, h.2.1, ha.trans h.2.2.1, fun c =>
    have k := h.2.2.2 c
    ⟨⟨hr k.1.1, hm k.1.2.1, ht k.1.2.2⟩, k.2⟩⟩

theorem kept_power {s₀ s : State} {p : PowerState} (h : Kept s₀ s) (ha : p.flash.active = s.power.flash.active) :
    Kept s₀ { s with power := p } := by
  rw [kept_mk, ha]
  exact KeptParts.same h

/-- What holds of the start of a fold and stays at each of its steps holds at its end. -/
theorem foldl_keeps {α β : Type} {P : β → Prop} {f : β → α → β} (l : List α) {b : β} (h : P b)
    (hs : ∀ b x, P b → P (f b x)) : P (l.foldl f b) := by
  induction l generalizing b with
  | nil => exact h
  | cons x l ih => exact ih (hs b x h)

theorem kept_foldl {s₀ s : State} {α : Type} {l : List α} {f : State → α → State} (h : Kept s₀ s)
    (hs : ∀ t x, Kept s₀ t → Kept s₀ (f t x)) : Kept s₀ (l.foldl f s) := foldl_keeps (P := Kept s₀) l h hs

theorem kept_foldl_snd {s₀ : State} {α β : Type} {l : List α} {f : β × State → α → β × State} {b : β × State}
    (h : Kept s₀ b.2) (hs : ∀ t x, Kept s₀ t.2 → Kept s₀ (f t x).2) : Kept s₀ (l.foldl f b).2 :=
  foldl_keeps (P := fun b : β × State => Kept s₀ b.2) l h hs

theorem kept_foldl_fst {s₀ : State} {α β : Type} {l : List α} {f : State × β → α → State × β} {b : State × β}
    (h : Kept s₀ b.1) (hs : ∀ t x, Kept s₀ t.1 → Kept s₀ (f t x).1) : Kept s₀ (l.foldl f b).1 :=
  foldl_keeps (P := fun b : State × β => Kept s₀ b.1) l h hs

theorem kept_foldl_thd {s₀ : State} {α β γ : Type} {l : List α} {f : β × γ × State → α → β × γ × State} {b : β × γ × State}
    (h : Kept s₀ b.2.2) (hs : ∀ t x, Kept s₀ t.2.2 → Kept s₀ (f t x).2.2) : Kept s₀ (l.foldl f b).2.2 :=
  foldl_keeps (P := fun b : β × γ × State => Kept s₀ b.2.2) l h hs

theorem kept_foldl_fth {s₀ : State} {α β γ δ : Type} {l : List α} {f : β × γ × δ × State → α → β × γ × δ × State}
    {b : β × γ × δ × State} (h : Kept s₀ b.2.2.2) (hs : ∀ t x, Kept s₀ t.2.2.2 → Kept s₀ (f t x).2.2.2) :
    Kept s₀ (l.foldl f b).2.2.2 :=
  foldl_keeps (P := fun b : β × γ × δ × State => Kept s₀ b.2.2.2) l h hs

theorem kept_foldl_last {s₀ : State} {α β γ δ ε : Type} {l : List α} {f : β × γ × δ × ε × State → α → β × γ × δ × ε × State}
    {b : β × γ × δ × ε × State} (h : Kept s₀ b.2.2.2.2) (hs : ∀ t x, Kept s₀ t.2.2.2.2 → Kept s₀ (f t x).2.2.2.2) :
    Kept s₀ (l.foldl f b).2.2.2.2 :=
  foldl_keeps (P := fun b : β × γ × δ × ε × State => Kept s₀ b.2.2.2.2) l h hs

theorem kept_ite {s₀ a b : State} {c : Prop} [Decidable c] (ha : Kept s₀ a) (hb : Kept s₀ b) :
    Kept s₀ (if c then a else b) := by split <;> assumption

theorem kept_elim {s₀ s : State} {α : Type} {o : Option α} {f : α → State} (h : Kept s₀ s) (hf : ∀ x, Kept s₀ (f x)) :
    Kept s₀ (o.elim s f) := by cases o with | none => exact h | some x => exact hf x

theorem kept_ite_snd {β : Type} {s₀ : State} {a b : β × State} {c : Prop} [Decidable c] (ha : Kept s₀ a.2) (hb : Kept s₀ b.2) :
    Kept s₀ (if c then a else b).2 := by split <;> assumption

theorem kept_ite_thd {β γ : Type} {s₀ : State} {a b : β × γ × State} {c : Prop} [Decidable c] (ha : Kept s₀ a.2.2)
    (hb : Kept s₀ b.2.2) : Kept s₀ (if c then a else b).2.2 := by split <;> assumption

/-! ### Tiles -/

theorem Tile.sound_default : Tile.Sound {} := ⟨rfl, rfl, rfl⟩

/-- An update of a tile beside its memories. -/
theorem Tile.sound_of {t u : Tile} (h : t.Sound) (hm : u.mem = t.mem) (h0 : u.half0 = t.half0) (h1 : u.half1 = t.half1) :
    u.Sound := by
  unfold Tile.Sound
  rw [hm, h0, h1]
  exact h

theorem sound_getD {m : Assoc Tile} (h : ∀ e ∈ m, e.2.Sound) (g : Nat) : (getD m g {}).Sound := by
  unfold getD
  induction m with
  | nil => exact Tile.sound_default
  | cons e m ih =>
    obtain ⟨j, t⟩ := e
    simp only [find]
    split
    · exact h (j, t) (by simp)
    · exact ih (fun e he => h e (by simp [he]))

theorem sound_put {m : Assoc Tile} (h : ∀ e ∈ m, e.2.Sound) {g : Nat} {t : Tile} (ht : t.Sound) :
    ∀ e ∈ put m g t {}, e.2.Sound := by
  intro e he
  unfold put at he
  split at he
  · exact h e (mem_erase _ _ _ he)
  · rcases mem_insert _ _ _ _ he with rfl | he
    · exact ht
    · exact h e he

theorem sound_filter {m : Assoc Tile} {p : Nat × Tile → Bool} (h : ∀ e ∈ m, e.2.Sound) : ∀ e ∈ m.filter p, e.2.Sound :=
  fun e he => h e (List.mem_filter.1 he).1

theorem sound_map {m : Assoc Tile} {f : Nat × Tile → Nat × Tile} (hf : ∀ e, e.2.Sound → (f e).2.Sound)
    (h : ∀ e ∈ m, e.2.Sound) : ∀ e ∈ m.map f, e.2.Sound := by
  intro e he
  obtain ⟨x, hx, rfl⟩ := List.mem_map.1 he
  exact hf x (h x hx)

theorem setTile_kept {s₀ s : State} {g : Nat} {t : Tile} (h : Kept s₀ s) (ht : (∀ e ∈ s.tiles, e.2.Sound) → t.Sound) :
    Kept s₀ (setTile s g t) :=
  KeptParts.upd (s := s) h rfl id (fun c => sound_put c (ht c)) id

theorem modTile_kept {s₀ s : State} {g : Nat} {f : Tile → Tile} (h : Kept s₀ s) (hf : ∀ t, t.Sound → (f t).Sound) :
    Kept s₀ (modTile s g f) := setTile_kept h (fun c => hf _ (sound_getD c g))

/-! ### Registers -/

theorem sortedKeys_put {α : Type} [DecidableEq α] (m : Assoc α) (k : Nat) (v d : α) (h : sortedKeys m = true) :
    sortedKeys (put m k v d) = true := by
  unfold put
  split
  · exact sortedKeys_erase m k h
  · exact sortedKeys_insert m k v h

theorem wrReg_kept {s₀ s : State} {r : RegName} {u i : Nat} {v : Word} (h : Kept s₀ s) : Kept s₀ (wrReg s r u i v) :=
  KeptParts.upd (s := s) h rfl (sortedKeys_put _ _ _ _) id id

theorem wrShadow_kept {s₀ s : State} {r : RegName} {u i : Nat} {v : Word} (h : Kept s₀ s) :
    Kept s₀ (wrShadow s r u i v) :=
  KeptParts.upd (s := s) h rfl (sortedKeys_put _ _ _ _) id id

/-! ### Ops of a tile -/

/-- The state in which the body of an op ends, faulted or not. -/
def endState {α : Type} (r : EStateM.Result Nat State α) : State := match r with | .ok _ t => t | .error _ t => t

/-- Wherever the body of an op ends, what it has done is of this kind. -/
def KeepsM {α : Type} (m : TileM α) : Prop := ∀ s₀ s, Kept s₀ s → Kept s₀ (endState (m s))

theorem keepsM_pure {α : Type} {a : α} : KeepsM (pure a : TileM α) := fun _ _ h => h
theorem keepsM_get : KeepsM (get : TileM State) := fun _ _ h => h
theorem keepsM_throw {α : Type} {c : Nat} : KeepsM (throw c : TileM α) := fun _ _ h => h

theorem keepsM_modify {f : State → State} (hf : ∀ s₀ s, Kept s₀ s → Kept s₀ (f s)) : KeepsM (modify f : TileM Unit) :=
  fun s₀ s h => hf s₀ s h

theorem keepsM_set {t : State} (ht : ∀ s₀ s, Kept s₀ s → Kept s₀ t) : KeepsM (set t : TileM PUnit) :=
  fun s₀ s h => ht s₀ s h

theorem keepsM_bind {α β : Type} {m : TileM α} {f : α → TileM β} (hm : KeepsM m) (hf : ∀ a, KeepsM (f a)) :
    KeepsM (m >>= f) := by
  intro s₀ s h
  have h1 := hm s₀ s h
  show Kept s₀ (endState (EStateM.bind m f s))
  unfold EStateM.bind
  split
  · next a t heq => rw [heq] at h1; exact hf a s₀ t h1
  · next e t heq => rw [heq] at h1; exact h1

theorem keepsM_ite {α : Type} {a b : TileM α} {c : Prop} [Decidable c] (ha : KeepsM a) (hb : KeepsM b) :
    KeepsM (if c then a else b) := by split <;> assumption

theorem keepsM_forIn {α β : Type} {l : List α} {b : β} {f : α → β → TileM (ForInStep β)} (hf : ∀ a b, KeepsM (f a b)) :
    KeepsM (forIn l b f) := by
  induction l generalizing b with
  | nil => exact keepsM_pure
  | cons x l ih =>
    rw [List.forIn_cons]
    refine keepsM_bind (hf x b) (fun r => ?_)
    cases r with
    | done b => exact keepsM_pure
    | yield b => exact ih

theorem keepsM_mapM {α β : Type} {l : List α} {f : α → TileM β} (hf : ∀ a, KeepsM (f a)) : KeepsM (l.mapM f) := by
  rw [← List.mapM'_eq_mapM]
  induction l with
  | nil => exact keepsM_pure
  | cons x l ih =>
    rw [List.mapM'_cons]
    exact keepsM_bind (hf x) (fun _ => keepsM_bind ih (fun _ => keepsM_pure))

end Sys2Proof.Machine
end

