-- ==== Sys2Proof/Laws/KeptOps.lean ====
section
/-! SUPPORT. What the functions of Machine/Ops.lean leave alone (Laws/Kept.lean). -/
namespace Sys2Proof.Machine

theorem setI_kept {s₀ : State} {s : State} {f : Fld} {u : ℕ} {i : ℕ} {v : ℕ} (hk : Kept s₀ s) : Kept s₀ (setI s f u i
    v) := by
  unfold setI
  try dsimp only
  repeat' first | with_reducible assumption | with_reducible apply wrReg_kept

theorem setF_kept {s₀ : State} {s : State} {f : Fld} {u : ℕ} {v : ℕ} (hk : Kept s₀ s) : Kept s₀ (setF s f u v) := by
  unfold setF
  try dsimp only
  repeat' first | with_reducible assumption | with_reducible apply setI_kept

theorem countI_kept {s₀ : State} {s : State} {f : Fld} {u : ℕ} {i : ℕ} {n : ℕ} (hk : Kept s₀ s) : Kept s₀ (countI s f
    u i n) := by
  unfold countI
  try dsimp only
  repeat' first | with_reducible assumption | with_reducible apply setI_kept

theorem countF_kept {s₀ : State} {s : State} {f : Fld} {u : ℕ} {n : ℕ} (hk : Kept s₀ s) : Kept s₀ (countF s f u n) := by
  unfold countF
  try dsimp only
  repeat' first | with_reducible assumption | with_reducible apply countI_kept

theorem logSupp_kept {s₀ : State} {s : State} {fc : Fld} {ff : Fld} {fl : Fld} {u : ℕ} {code : ℕ} (hk : Kept s₀ s) :
    Kept s₀ (logSupp s fc ff fl u code) := by
  unfold logSupp
  try dsimp only
  repeat' first
    | with_reducible assumption | with_reducible apply kept_ite | with_reducible apply setF_kept
    | with_reducible apply countF_kept

theorem sendRec_kept {s₀ : State} {s : State} {x : Src} {status : ℕ} {cause : ℕ} {d0 : ℕ} {d1 : ℕ} (hk : Kept s₀ s) :
    Kept s₀ (sendRec s x status cause d0 d1) := by
  unfold sendRec
  try dsimp only
  repeat' first | with_reducible assumption | with_reducible apply KeptParts.same | simp only [kept_mk]

theorem sendInc_kept {s₀ : State} {s : State} {ev : ℕ} {v : W32} (hk : Kept s₀ s) : Kept s₀ (sendInc s ev v) := by
  unfold sendInc
  try dsimp only
  repeat' first | with_reducible assumption | with_reducible apply KeptParts.same | simp only [kept_mk]

theorem countLink_kept {s₀ : State} {s : State} {k : ℕ} {losses : ℕ} {words : ℕ} (hk : Kept s₀ s) : Kept s₀
    (countLink s k losses words) := by
  unfold countLink
  try dsimp only
  repeat' first | with_reducible assumption | with_reducible apply KeptParts.same | simp only [kept_mk]

theorem askSnap_kept {s₀ : State} {s : State} {k : ℕ} (hk : Kept s₀ s) : Kept s₀ (askSnap s k) := by
  unfold askSnap
  try dsimp only
  repeat' first | with_reducible assumption | with_reducible apply KeptParts.same | simp only [kept_mk]

theorem openIncident_kept {s₀ : State} {s : State} {f : Failure} {tiles : List ℕ} {absorbed : ℕ} (hk : Kept s₀ s) :
    Kept s₀ (openIncident s f tiles absorbed) := by
  unfold openIncident
  try dsimp only
  repeat' first
    | with_reducible assumption | with_reducible apply KeptParts.same | with_reducible apply setF_kept
    | with_reducible apply countF_kept | simp only [kept_mk]

theorem logAbsorbed_kept {s₀ : State} {s : State} {kind : ℕ} {unit : ℕ} {cause : ℕ} (hk : Kept s₀ s) : Kept s₀
    (logAbsorbed s kind unit cause) := by
  unfold logAbsorbed
  try dsimp only
  repeat' first | with_reducible assumption | with_reducible apply logSupp_kept | split

theorem tileIncident_kept {s₀ : State} {s : State} {g : ℕ} {code : ℕ} (hk : Kept s₀ s) : Kept s₀ (tileIncident s g
    code) := by
  unfold tileIncident
  try dsimp only
  repeat' first
    | with_reducible assumption | with_reducible apply kept_ite | with_reducible apply KeptParts.same
    | with_reducible apply openIncident_kept | simp only [kept_mk] | split

theorem tileFault_kept {s₀ : State} {s : State} {g : ℕ} {code : ℕ} (hk : Kept s₀ s) : Kept s₀ (tileFault s g code) := by
  unfold tileFault
  try dsimp only
  repeat' first
    | with_reducible assumption | (intro _ ht; exact Tile.sound_of ht rfl rfl rfl) | with_reducible apply wrReg_kept
    | with_reducible apply setF_kept | with_reducible apply modTile_kept | with_reducible apply tileIncident_kept
    | with_reducible apply logAbsorbed_kept

theorem logMemErr_kept {s₀ : State} {s : State} {g : ℕ} {d : ℕ} {st : ℕ} {a : ℕ} {m : ℕ} (hk : Kept s₀ s) : Kept s₀
    (logMemErr s g d st a m) := by
  unfold logMemErr
  try dsimp only
  repeat' first
    | with_reducible assumption | with_reducible apply kept_ite | with_reducible apply countF_kept
    | with_reducible apply setF_kept

theorem storeByte_sound {t : Tile} {a : Nat} {v : Byte} {m : Nat} (h : t.Sound) : (storeByte t a v m).Sound :=
  ⟨Memory.wf_wrByte _ _ _ h.1, h.2⟩

theorem storeBytes_sound {t : Tile} {a : Nat} {bs : List Byte} (h : t.Sound) : (storeBytes t a bs).Sound := by
  induction bs generalizing t a with
  | nil => exact h
  | cons b bs ih => exact ih (storeByte_sound h)

theorem openLine_sound {t : Tile} {line : Nat} (h : t.Sound) : (openLine t line).Sound := by
  unfold openLine
  split
  · exact h
  · exact ⟨Memory.wf_filter _ _ h.1, h.2⟩

theorem openLines_sound {t : Tile} {ls : List Nat} (h : t.Sound) : (ls.foldl openLine t).Sound :=
  foldl_keeps (P := Tile.Sound) ls h (fun _ _ h => openLine_sound h)

theorem memWrite_kept {s₀ s : State} {g a : Nat} {bs : List Byte} (h : Kept s₀ s) : Kept s₀ (memWrite s g a bs) := by
  have k : (∀ e ∈ s.tiles, e.2.Sound) →
      (storeBytes ((linesOf a bs.length).foldl openLine (tileOf s g)) a bs).Sound :=
    fun c => storeBytes_sound (openLines_sound (sound_getD c g))
  unfold memWrite
  dsimp only
  split
  · exact setF_kept (setTile_kept h k)
  · exact setTile_kept h k

theorem memReadRemote_kept {s₀ : State} {s : State} {g : ℕ} {a : ℕ} {n : ℕ} (hk : Kept s₀ s) : Kept s₀ (memReadRemote
    s g a n).2.2 := by
  unfold memReadRemote
  try dsimp only
  repeat' first
    | with_reducible assumption | (intro; try dsimp only) | with_reducible apply kept_foldl
    | with_reducible apply logMemErr_kept

theorem faultIf_kept {b : Bool} {c : ℕ} : KeepsM (faultIf b c) := by
  unfold faultIf
  try dsimp only
  repeat' first | with_reducible apply keepsM_ite | with_reducible apply keepsM_pure | with_reducible apply keepsM_throw

theorem readMem_kept {g : ℕ} {a : ℕ} {n : ℕ} : KeepsM (readMem g a n) := by
  unfold readMem
  try dsimp only
  repeat' first
    | with_reducible apply keepsM_bind | with_reducible apply keepsM_pure | with_reducible apply keepsM_get
    | with_reducible apply keepsM_modify | with_reducible apply keepsM_forIn | with_reducible apply faultIf_kept
    | with_reducible apply logMemErr_kept | (intro; try dsimp only)

theorem checkMem_kept {g : ℕ} {a : ℕ} {n : ℕ} : KeepsM (checkMem g a n) := by
  unfold checkMem
  try dsimp only
  repeat' first
    | with_reducible apply keepsM_bind | with_reducible apply keepsM_pure | with_reducible apply keepsM_get
    | with_reducible apply keepsM_throw | with_reducible apply keepsM_modify | with_reducible apply keepsM_forIn
    | with_reducible apply logMemErr_kept | (intro; try dsimp only)

theorem writeMem_kept {g : ℕ} {a : ℕ} {bs : List Byte} : KeepsM (writeMem g a bs) := by
  unfold writeMem
  try dsimp only
  repeat' first | with_reducible apply keepsM_modify | with_reducible apply memWrite_kept | (intro; try dsimp only)

theorem readRiser_kept {g : ℕ} {i : ℕ} {n : ℕ} : KeepsM (readRiser g i n) := by
  unfold readRiser
  try dsimp only
  repeat' first
    | with_reducible assumption | with_reducible apply keepsM_bind | with_reducible apply keepsM_pure
    | with_reducible apply keepsM_get | with_reducible apply keepsM_modify | with_reducible apply keepsM_forIn
    | with_reducible apply setF_kept | with_reducible apply logMemErr_kept | with_reducible apply faultIf_kept | split
    | (intro; try dsimp only)

theorem checkRiser_kept {g : ℕ} {i : ℕ} {n : ℕ} : KeepsM (checkRiser g i n) := by
  unfold checkRiser
  try dsimp only
  repeat' first
    | with_reducible apply keepsM_bind | with_reducible apply keepsM_pure | with_reducible apply keepsM_get
    | with_reducible apply keepsM_throw | with_reducible apply keepsM_modify | with_reducible apply keepsM_forIn
    | with_reducible apply logMemErr_kept | (intro; try dsimp only)

theorem putRiser_sound {t : Tile} {i : Nat} {vs : List W32} (h : t.Sound) : (putRiser t i vs).Sound := by
  induction vs generalizing t i with
  | nil => exact h
  | cons v vs ih => exact ih h

theorem writeRiser_kept {g i : Nat} {vs : List W32} : KeepsM (writeRiser g i vs) :=
  keepsM_modify (fun _ _ h => modTile_kept h (fun _ ht => putRiser_sound ht))

end Sys2Proof.Machine
end

