-- ==== Sys2Proof/Laws/KeptNetOps.lean ====
section
/-! SUPPORT. What the functions of Machine/NetOps.lean leave alone (Laws/Kept.lean). -/
namespace Sys2Proof.Machine

theorem setConn_kept {s₀ : State} {s : State} {n : ℕ} {c : Conn} (hk : Kept s₀ s) : Kept s₀ (setConn s n c) := by
  unfold setConn
  try dsimp only
  repeat' first | with_reducible assumption | with_reducible apply KeptParts.same | simp only [kept_mk]

theorem modConn_kept {s₀ : State} {s : State} {n : ℕ} {f : Conn → Conn} (hk : Kept s₀ s) : Kept s₀ (modConn s n f) := by
  unfold modConn
  try dsimp only
  repeat' first | with_reducible assumption | with_reducible apply setConn_kept

theorem pickPort_kept {s₀ : State} {s : State} {c : ℕ} {k : ℕ} (hk : Kept s₀ s) : Kept s₀ (pickPort s c k).2 := by
  unfold pickPort
  try dsimp only
  repeat' first | with_reducible assumption | with_reducible apply KeptParts.same | simp only [kept_mk] | split

theorem sendFrame_kept {s₀ : State} {s : State} {p : ℕ} {cls : ℕ} {x : Frame} (hk : Kept s₀ s) : Kept s₀ (sendFrame s
    p cls x) := by
  unfold sendFrame
  try dsimp only
  repeat' first | with_reducible assumption | with_reducible apply KeptParts.same | simp only [kept_mk]

theorem wireOut_kept {s₀ : State} {s : State} {o : NetOut} {retx : Bool} (hk : Kept s₀ s) : Kept s₀ (wireOut s o
    retx) := by
  unfold wireOut
  try dsimp only
  repeat' first | with_reducible assumption | with_reducible apply KeptParts.same | simp only [kept_mk]

theorem portFor_kept {s₀ : State} {s : State} {o : NetOut} (hk : Kept s₀ s) : Kept s₀ (portFor s o).2 := by
  unfold portFor
  try dsimp only
  repeat' first
    | with_reducible assumption | with_reducible apply kept_ite_snd | with_reducible apply pickPort_kept | split

theorem startOut_kept {s₀ : State} {s : State} {o : NetOut} (hk : Kept s₀ s) : Kept s₀ (startOut s o) := by
  unfold startOut
  try dsimp only
  repeat' first
    | with_reducible assumption | with_reducible apply KeptParts.same | with_reducible apply portFor_kept
    | with_reducible apply setConn_kept | with_reducible apply wireOut_kept | simp only [kept_mk] | split

theorem retryOuts_kept {s₀ : State} {s : State} {n0 : ℕ} (hk : Kept s₀ s) : Kept s₀ (retryOuts s n0) := by
  induction n0 generalizing s with
  | zero =>
    unfold retryOuts
    try dsimp only
    repeat' first | with_reducible assumption
  | succ n ih =>
    unfold retryOuts
    try dsimp only
    repeat' first
      | with_reducible assumption | with_reducible apply ih | with_reducible apply KeptParts.same
      | with_reducible apply startOut_kept | simp only [kept_mk] | split

theorem resendOut_kept {s₀ : State} {s : State} {o : NetOut} (hk : Kept s₀ s) : Kept s₀ (resendOut s o) := by
  unfold resendOut
  try dsimp only
  repeat' first
    | with_reducible assumption | with_reducible apply kept_ite | with_reducible apply kept_ite_snd
    | with_reducible apply KeptParts.same | with_reducible apply pickPort_kept | with_reducible apply wireOut_kept
    | simp only [kept_mk] | split

end Sys2Proof.Machine
end

