-- ==== Sys2Proof/Laws/KeptFlags.lean ====
section
/-! SUPPORT. What the functions of Machine/Flags.lean leave alone (Laws/Kept.lean). -/
namespace Sys2Proof.Machine

theorem raiseFlags_kept {g : ℕ} {f : Flags} : KeepsM (raiseFlags g f) := by
  unfold raiseFlags
  try dsimp only
  repeat' first | with_reducible apply keepsM_modify | with_reducible apply wrReg_kept | (intro; try dsimp only)

end Sys2Proof.Machine
end

