-- ==== Sys2Proof/Laws/KeptOperands.lean ====
section
/-! SUPPORT. What the functions of Machine/Operands.lean leave alone (Laws/Kept.lean). -/
namespace Sys2Proof.Machine

theorem pReg_kept {g : ℕ} {n : ℕ} : KeepsM (pReg g n) := by
  unfold pReg
  try dsimp only
  repeat' first
    | with_reducible apply keepsM_bind | with_reducible apply keepsM_pure | with_reducible apply keepsM_get
    | (intro; try dsimp only)

theorem sReg_kept {g : ℕ} {n : ℕ} : KeepsM (sReg g n) := by
  unfold sReg
  try dsimp only
  repeat' first
    | with_reducible apply keepsM_bind | with_reducible apply keepsM_pure | with_reducible apply keepsM_get
    | (intro; try dsimp only)

theorem readElems_kept {g : ℕ} {f : ℕ} {a : ℕ} {n : ℕ} : KeepsM (readElems g f a n) := by
  unfold readElems
  try dsimp only
  repeat' first
    | with_reducible apply keepsM_bind | with_reducible apply keepsM_pure | with_reducible apply readMem_kept
    | (intro; try dsimp only)

theorem readF32_kept {g : ℕ} {f : ℕ} {a : ℕ} {n : ℕ} : KeepsM (readF32 g f a n) := by
  unfold readF32
  try dsimp only
  repeat' first
    | with_reducible apply keepsM_bind | with_reducible apply keepsM_pure | with_reducible apply readElems_kept
    | (intro; try dsimp only)

theorem writeElems_kept {g : ℕ} {f : ℕ} {a : ℕ} {xs : List ℕ} : KeepsM (writeElems g f a xs) := by
  unfold writeElems
  try dsimp only
  repeat' first | with_reducible apply writeMem_kept

theorem writeResults_kept {g : ℕ} {f : ℕ} {a : ℕ} {xs : List (W32 × Flags)} : KeepsM (writeResults g f a xs) := by
  unfold writeResults
  try dsimp only
  repeat' first
    | with_reducible apply keepsM_bind | with_reducible apply writeElems_kept | with_reducible apply raiseFlags_kept
    | (intro; try dsimp only)

theorem loadLane_kept {g : ℕ} {a : ℕ} : KeepsM (loadLane g a) := by
  unfold loadLane
  try dsimp only
  repeat' first
    | with_reducible apply keepsM_bind | with_reducible apply keepsM_pure | with_reducible apply keepsM_get
    | with_reducible apply readMem_kept | split | (intro; try dsimp only)

theorem writeBackLane_kept {s₀ : State} {g : ℕ} {s : State} {h : HeldLane} (hk : Kept s₀ s) : Kept s₀ (writeBackLane
    g s h) := by
  unfold writeBackLane
  try dsimp only
  repeat' first | with_reducible assumption | with_reducible apply memWrite_kept

theorem holdLane_kept {s₀ : State} {s : State} {g : ℕ} {h : HeldLane} (hk : Kept s₀ s) : Kept s₀ (holdLane s g h) := by
  unfold holdLane
  try dsimp only
  repeat' first
    | with_reducible assumption | (intro _ ht; exact Tile.sound_of ht rfl rfl rfl) | (intro; try dsimp only)
    | with_reducible apply kept_foldl | with_reducible apply writeBackLane_kept | with_reducible apply modTile_kept

theorem flushGen_kept {s₀ : State} {s : State} {g : ℕ} (hk : Kept s₀ s) : Kept s₀ (flushGen s g) := by
  unfold flushGen
  try dsimp only
  repeat' first
    | with_reducible assumption | (intro _ ht; exact Tile.sound_of ht rfl rfl rfl) | (intro; try dsimp only)
    | with_reducible apply kept_foldl | with_reducible apply writeBackLane_kept | with_reducible apply modTile_kept

theorem checkLaneAlign_kept {base : ℕ} : KeepsM (checkLaneAlign base) := by
  unfold checkLaneAlign
  try dsimp only
  repeat' first | with_reducible apply faultIf_kept

theorem checkLanes_kept {g : ℕ} {base : ℕ} {n : ℕ} : KeepsM (checkLanes g base n) := by
  unfold checkLanes
  try dsimp only
  repeat' first
    | with_reducible apply keepsM_bind | with_reducible apply keepsM_pure | with_reducible apply keepsM_get
    | with_reducible apply keepsM_forIn | with_reducible apply faultIf_kept | with_reducible apply checkMem_kept | split
    | (intro; try dsimp only)

theorem drawLane_kept {g : ℕ} {base : ℕ} {k : ℕ} {n : ℕ} : KeepsM (drawLane g base k n) := by
  unfold drawLane
  try dsimp only
  repeat' first
    | with_reducible apply keepsM_bind | with_reducible apply keepsM_pure | with_reducible apply keepsM_modify
    | with_reducible apply loadLane_kept | with_reducible apply holdLane_kept | (intro; try dsimp only)

theorem stochBits_kept {g : ℕ} {base : ℕ} {n : ℕ} : KeepsM (stochBits g base n) := by
  unfold stochBits
  try dsimp only
  repeat' first
    | with_reducible apply keepsM_bind | with_reducible apply keepsM_pure | with_reducible apply keepsM_forIn
    | with_reducible apply drawLane_kept | (intro; try dsimp only)

theorem progress_kept {s₀ : State} {s : State} {g : ℕ} (hk : Kept s₀ s) : Kept s₀ (progress s g) := by
  unfold progress
  try dsimp only
  repeat' first
    | with_reducible assumption | (intro _ ht; exact Tile.sound_of ht rfl rfl rfl) | with_reducible apply modTile_kept

theorem moveIssue_kept {s₀ : State} {s : State} {g : ℕ} {pc : ℕ} (hk : Kept s₀ s) : Kept s₀ (moveIssue s g pc) := by
  unfold moveIssue
  try dsimp only
  repeat' first
    | with_reducible assumption | (intro _ ht; exact Tile.sound_of ht rfl rfl rfl) | with_reducible apply kept_ite
    | with_reducible apply setF_kept | with_reducible apply modTile_kept

theorem retire_kept {s₀ : State} {s : State} {g : ℕ} {pc : ℕ} (hk : Kept s₀ s) : Kept s₀ (retire s g pc) := by
  unfold retire
  try dsimp only
  repeat' first
    | with_reducible assumption | (intro _ ht; exact Tile.sound_of ht rfl rfl rfl) | with_reducible apply setF_kept
    | with_reducible apply moveIssue_kept | with_reducible apply progress_kept | with_reducible apply modTile_kept

theorem endWait_kept {s₀ : State} {s : State} {g : ℕ} (hk : Kept s₀ s) : Kept s₀ (endWait s g) := by
  unfold endWait
  try dsimp only
  repeat' first | with_reducible assumption | with_reducible apply retire_kept

theorem holdFence_kept {s₀ : State} {s : State} {g : ℕ} {w : Word} (hk : Kept s₀ s) : Kept s₀ (holdFence s g w) := by
  unfold holdFence
  try dsimp only
  repeat' first
    | with_reducible assumption | (intro _ ht; exact Tile.sound_of ht rfl rfl rfl) | with_reducible apply setF_kept
    | with_reducible apply modTile_kept

theorem issueArr_kept {s₀ : State} {s : State} {g : ℕ} (hk : Kept s₀ s) : Kept s₀ (issueArr s g) := by
  unfold issueArr
  try dsimp only
  repeat' first | with_reducible assumption | with_reducible apply kept_ite | with_reducible apply moveIssue_kept

theorem endArr_kept {s₀ : State} {s : State} {g : ℕ} (hk : Kept s₀ s) : Kept s₀ (endArr s g) := by
  unfold endArr
  try dsimp only
  repeat' first
    | with_reducible assumption | (intro _ ht; exact Tile.sound_of ht rfl rfl rfl) | with_reducible apply setF_kept
    | with_reducible apply modTile_kept | split

theorem beginWait_kept {g : ℕ} {x : WaitFor} : KeepsM (beginWait g x) := by
  unfold beginWait
  try dsimp only
  repeat' first
    | with_reducible assumption | with_reducible apply keepsM_bind | with_reducible apply keepsM_pure
    | with_reducible apply keepsM_modify | with_reducible apply setF_kept | with_reducible apply modTile_kept
    | (intro _ ht; exact Tile.sound_of ht rfl rfl rfl) | (intro; try dsimp only)

theorem finishOp_kept {s₀ s : State} {g : Nat} {r : EStateM.Result Nat State OpEnd} (h : Kept s₀ s)
    (hr : Kept s₀ (endState r)) : Kept s₀ (finishOp s g r) := by
  unfold finishOp
  split
  · exact retire_kept hr
  · split
    · exact endArr_kept hr
    · exact retire_kept (endArr_kept hr)
  · exact retire_kept hr
  · exact hr
  · split
    · exact h
    · split
      · exact issueArr_kept hr
      · exact tileFault_kept hr

theorem runOp_kept {s₀ s : State} {t : TileId} {w : Word} {op : Nat} {body : TileM OpEnd} (h : Kept s₀ s)
    (hb : KeepsM body) : Kept s₀ (runOp t w op body s) := by
  unfold runOp
  split
  · split
    · exact holdFence_kept h
    · split
      · refine finishOp_kept h (hb s₀ _ ?_)
        split
        · exact flushGen_kept h
        · exact h
      · exact tileFault_kept h
  · exact h

end Sys2Proof.Machine
end

