-- ==== Sys2Proof/Laws/KeptTierOps.lean ====
section
/-! SUPPORT. What the functions of Machine/TierOps.lean leave alone (Laws/Kept.lean). -/
namespace Sys2Proof.Machine

theorem scrubValid_kept {s₀ : State} {s : State} {k : ℕ} (hk : Kept s₀ s) : Kept s₀ (scrubValid s k) := by
  unfold scrubValid
  try dsimp only
  repeat' first | with_reducible assumption | with_reducible apply KeptParts.same | simp only [kept_mk] | split

theorem writeBackWord_kept {s₀ : State} {s : State} {e : ℕ × ℕ} (hk : Kept s₀ s) : Kept s₀ (writeBackWord s e) := by
  unfold writeBackWord
  try dsimp only
  repeat' first
    | with_reducible assumption | with_reducible exact id | with_reducible exact Memory.wf_wrBytes _ _ _
    | with_reducible apply KeptParts.upd | simp only [kept_mk]

theorem countChannel_kept {s₀ : State} {s : State} {k : ℕ} {e : ℕ × ℕ} (hk : Kept s₀ s) : Kept s₀ (countChannel s k
    e) := by
  unfold countChannel
  try dsimp only
  repeat' first | with_reducible assumption | with_reducible apply kept_ite | with_reducible apply countI_kept

theorem copyRow_kept {s₀ : State} {s : State} {k : ℕ} {g : ℕ} (hk : Kept s₀ s) : Kept s₀ (copyRow s k g) := by
  unfold copyRow
  try dsimp only
  repeat' first
    | with_reducible assumption | (intro; try dsimp only) | with_reducible apply kept_foldl
    | with_reducible apply writeBackWord_kept | with_reducible apply countChannel_kept

theorem retireRow_kept {s₀ : State} {s : State} {k : ℕ} {g : ℕ} (hk : Kept s₀ s) : Kept s₀ (retireRow s k g) := by
  unfold retireRow
  try dsimp only
  repeat' first
    | with_reducible assumption | with_reducible apply kept_ite | with_reducible apply KeptParts.same
    | with_reducible apply sendRec_kept | with_reducible apply setI_kept | with_reducible apply copyRow_kept
    | simp only [kept_mk]

theorem readGranule_kept {s₀ : State} {s : State} {k : ℕ} {g : ℕ} (hk : Kept s₀ s) : Kept s₀ (readGranule s k g).2.2 := by
  unfold readGranule
  try dsimp only
  repeat' first
    | with_reducible assumption | (intro; try dsimp only) | with_reducible apply kept_foldl
    | with_reducible apply kept_ite | with_reducible apply kept_ite_thd | with_reducible apply scrubValid_kept
    | with_reducible apply writeBackWord_kept | with_reducible apply countChannel_kept
    | with_reducible apply retireRow_kept | with_reducible apply countF_kept

theorem writeGranule_kept {s₀ : State} {s : State} {k : ℕ} {g : ℕ} {bs : List Byte} {cov : optParam (ℕ → Bool) fun x
    => Bool.true} (hk : Kept s₀ s) : Kept s₀ (writeGranule s k g bs cov) := by
  unfold writeGranule
  try dsimp only
  repeat' first
    | with_reducible assumption | with_reducible exact id | with_reducible exact Memory.wf_wrBytes _ _ _
    | with_reducible exact Memory.wf_filter _ _ | with_reducible apply kept_ite | with_reducible apply KeptParts.upd
    | with_reducible apply scrubValid_kept | with_reducible apply setF_kept | simp only [kept_mk]

theorem putPt_kept {s₀ : State} {s : State} {page : ℕ} {e : PtEntry} (hk : Kept s₀ s) : Kept s₀ (putPt s page e) := by
  unfold putPt
  try dsimp only
  repeat' first
    | with_reducible assumption | with_reducible apply kept_ite | with_reducible apply KeptParts.same
    | with_reducible apply setF_kept | simp only [kept_mk]

theorem ptRead_kept {s₀ : State} {s : State} {page : ℕ} (hk : Kept s₀ s) : Kept s₀ (ptRead s page) := by
  unfold ptRead
  try dsimp only
  repeat' first
    | with_reducible assumption | (intro; try dsimp only) | with_reducible apply kept_foldl
    | with_reducible apply kept_ite | with_reducible apply writeBackWord_kept | with_reducible apply countChannel_kept
    | with_reducible apply retireRow_kept | with_reducible apply sendRec_kept | with_reducible apply putPt_kept

theorem modPt_kept {s₀ : State} {s : State} {page : ℕ} {f : PtEntry → PtEntry} (hk : Kept s₀ s) : Kept s₀ (modPt s
    page f) := by
  unfold modPt
  try dsimp only
  repeat' first | with_reducible assumption | with_reducible apply ptRead_kept | with_reducible apply putPt_kept

theorem setPt_kept {s₀ : State} {s : State} {page : ℕ} {e : PtEntry} (hk : Kept s₀ s) : Kept s₀ (setPt s page e) := by
  unfold setPt
  try dsimp only
  repeat' first | with_reducible assumption | with_reducible apply modPt_kept

theorem setDirty_kept {s₀ : State} {s : State} {page : ℕ} {u : ℕ} (hk : Kept s₀ s) : Kept s₀ (setDirty s page u) := by
  unfold setDirty
  try dsimp only
  repeat' first | with_reducible assumption | with_reducible apply modPt_kept

theorem poisonPage_kept {s₀ : State} {s : State} {page : ℕ} {unit : ℕ} {tier : ℕ} (hk : Kept s₀ s) : Kept s₀
    (poisonPage s page unit tier) := by
  unfold poisonPage
  try dsimp only
  repeat' first
    | with_reducible assumption | with_reducible apply kept_ite | with_reducible apply KeptParts.same
    | simp only [kept_mk]

theorem poisonAt_kept {s₀ : State} {s : State} {k : ℕ} (hk : Kept s₀ s) : Kept s₀ (poisonAt s k) := by
  unfold poisonAt
  try dsimp only
  repeat' first | with_reducible assumption | with_reducible apply poisonPage_kept | split

theorem readGranules_kept {s₀ : State} {s : State} {k : ℕ} {g : ℕ} {n0 : ℕ} (hk : Kept s₀ s) : Kept s₀ (readGranules
    s k g n0).2.2 := by
  induction n0 generalizing s k g with
  | zero =>
    unfold readGranules
    try dsimp only
    repeat' first | with_reducible assumption
  | succ n ih =>
    unfold readGranules
    try dsimp only
    repeat' first | with_reducible assumption | with_reducible apply ih | with_reducible apply readGranule_kept

theorem writeGranules_kept {s₀ : State} {s : State} {k : ℕ} {g : ℕ} {bs : List Byte} {n0 : ℕ} (hk : Kept s₀ s) : Kept
    s₀ (writeGranules s k g bs n0) := by
  induction n0 generalizing s k g bs with
  | zero =>
    unfold writeGranules
    try dsimp only
    repeat' first | with_reducible assumption
  | succ n ih =>
    unfold writeGranules
    try dsimp only
    repeat' first | with_reducible assumption | with_reducible apply ih | with_reducible apply writeGranule_kept

theorem mergeGranule_kept {s₀ : State} {s : State} {k : ℕ} {g : ℕ} {off : ℕ} {bs : List Byte} (hk : Kept s₀ s) : Kept
    s₀ (mergeGranule s k g off bs) := by
  unfold mergeGranule
  try dsimp only
  repeat' first
    | with_reducible assumption | with_reducible apply kept_ite | with_reducible apply readGranule_kept
    | with_reducible apply writeGranule_kept | with_reducible apply poisonAt_kept

theorem granulesWrite_kept {s₀ : State} {s : State} {k : ℕ} {off : ℕ} {bs : List Byte} {n0 : ℕ} (hk : Kept s₀ s) :
    Kept s₀ (granulesWrite s k off bs n0) := by
  induction n0 generalizing s k off bs with
  | zero =>
    unfold granulesWrite
    try dsimp only
    repeat' first | with_reducible assumption
  | succ n ih =>
    unfold granulesWrite
    try dsimp only
    repeat' first
      | with_reducible assumption | with_reducible apply ih | with_reducible apply kept_ite
      | with_reducible apply writeGranule_kept | with_reducible apply mergeGranule_kept

theorem freePlace_kept {s₀ : State} {s : State} {p : ℕ} (hk : Kept s₀ s) : Kept s₀ (freePlace s p) := by
  unfold freePlace
  try dsimp only
  repeat' first
    | with_reducible assumption | with_reducible apply kept_ite | with_reducible apply KeptParts.same
    | simp only [kept_mk]

theorem scrubSet_kept {s₀ : State} {s : State} {k : ℕ} (hk : Kept s₀ s) : Kept s₀ (scrubSet s k) := by
  unfold scrubSet
  try dsimp only
  repeat' first | with_reducible assumption | with_reducible apply KeptParts.same | simp only [kept_mk] | split

theorem cacheLookup_kept {s₀ : State} {s : State} {c : ℕ} {page : ℕ} (hk : Kept s₀ s) : Kept s₀ (cacheLookup s c
    page) := by
  unfold cacheLookup
  try dsimp only
  repeat' first
    | with_reducible assumption | with_reducible apply kept_ite | with_reducible apply KeptParts.same
    | with_reducible apply scrubSet_kept | with_reducible apply countF_kept | with_reducible apply ptRead_kept
    | simp only [kept_mk]

theorem cacheDrop_kept {s₀ : State} {s : State} {page : ℕ} (hk : Kept s₀ s) : Kept s₀ (cacheDrop s page) := by
  unfold cacheDrop
  try dsimp only
  repeat' first | with_reducible assumption | with_reducible apply KeptParts.same | simp only [kept_mk]

theorem changePt_kept {s₀ : State} {s : State} {page : ℕ} {e : PtEntry} (hk : Kept s₀ s) : Kept s₀ (changePt s page
    e) := by
  unfold changePt
  try dsimp only
  repeat' first | with_reducible assumption | with_reducible apply setPt_kept | with_reducible apply cacheDrop_kept

theorem sendFar_kept {s₀ : State} {s : State} {write : Bool} {p : ℕ} {u : ℕ} {off : ℕ} {bytes : ℕ} {data : List Byte}
    {page : ℕ} {cres : ℕ} {what : FarFor} {turn : optParam (Option ℕ) Option.none} (hk : Kept s₀ s) : Kept s₀
    (sendFar s write p u off bytes data page cres what turn) := by
  unfold sendFar
  try dsimp only
  repeat' first
    | with_reducible assumption | with_reducible apply KeptParts.same | with_reducible apply startOut_kept
    | simp only [kept_mk]

theorem placeRead_kept {s₀ : State} {s : State} {p : ℕ} {u : ℕ} {off : ℕ} {n : ℕ} (hk : Kept s₀ s) : Kept s₀
    (placeRead s p u off n).2.2 := by
  unfold placeRead
  try dsimp only
  repeat' first
    | with_reducible assumption | with_reducible apply kept_ite_thd | with_reducible apply memReadRemote_kept
    | with_reducible apply readGranules_kept | split

theorem placeWrite_kept {s₀ : State} {s : State} {p : ℕ} {u : ℕ} {off : ℕ} {bs : List Byte} (hk : Kept s₀ s) : Kept
    s₀ (placeWrite s p u off bs) := by
  unfold placeWrite
  try dsimp only
  repeat' first
    | with_reducible assumption | with_reducible apply kept_ite | with_reducible apply memWrite_kept
    | with_reducible apply granulesWrite_kept | split

theorem placeBytes_kept {s₀ : State} {s : State} {p : ℕ} {u : ℕ} {off : ℕ} {n : ℕ} (hk : Kept s₀ s) : Kept s₀
    (placeBytes s p u off n).2.2 := by
  unfold placeBytes
  try dsimp only
  repeat' first | with_reducible assumption | with_reducible apply placeRead_kept

theorem countFail_kept {s₀ : State} {s : State} {c : ℕ} {f : ℕ} (hk : Kept s₀ s) : Kept s₀ (countFail s c f) := by
  unfold countFail
  try dsimp only
  repeat' first | with_reducible assumption | with_reducible apply kept_ite | with_reducible apply countF_kept

theorem writeThrough_kept {s₀ s : State} {page u off : Nat} {bs : List Byte} {write : State → Nat → Bool → State} (hk : Kept s₀ s)
    (hw : ∀ s p d, Kept s₀ s → Kept s₀ (write s p d)) : Kept s₀ (writeThrough s page u off bs write) := by
  unfold writeThrough
  dsimp only
  repeat' first
    | with_reducible assumption | apply hw | with_reducible apply kept_ite | simp only [kept_mk] | split
    | with_reducible apply KeptParts.same

theorem pageWrite_kept {s₀ : State} {s : State} {page : ℕ} {u : ℕ} {off : ℕ} {bs : List Byte} (hk : Kept s₀ s) : Kept
    s₀ (pageWrite s page u off bs) := by
  unfold pageWrite
  try dsimp only
  repeat' first
    | with_reducible assumption | (intro; try dsimp only) | with_reducible apply kept_ite
    | with_reducible apply writeThrough_kept | with_reducible apply sendFar_kept | with_reducible apply placeWrite_kept
    | with_reducible apply setDirty_kept

theorem stageMissing_kept {s₀ : State} {s : State} {c : ℕ} {ps : List (ℕ × ℕ × ℕ × ℕ)} (hk : Kept s₀ s) : Kept s₀
    (stageMissing s c ps).2 := by
  unfold stageMissing
  try dsimp only
  repeat' first
    | with_reducible assumption | (intro; try dsimp only) | with_reducible apply kept_foldl
    | with_reducible apply kept_ite | with_reducible apply sendFar_kept

theorem readPiece_kept {s₀ : State} {s : State} {place : ℕ} {p : ℕ × ℕ × ℕ × ℕ} (hk : Kept s₀ s) : Kept s₀ (readPiece
    s place p).2.2 := by
  unfold readPiece
  try dsimp only
  repeat' first
    | with_reducible assumption | with_reducible apply kept_ite_thd | with_reducible apply KeptParts.same
    | with_reducible apply placeBytes_kept | with_reducible apply poisonPage_kept | simp only [kept_mk] | split

theorem checkEntries_kept {s₀ : State} {s : State} {a : ℕ} {n : ℕ} (hk : Kept s₀ s) : Kept s₀ (checkEntries s a n) := by
  unfold checkEntries
  try dsimp only
  repeat' first
    | with_reducible assumption | (intro; try dsimp only) | with_reducible apply kept_foldl
    | with_reducible apply ptRead_kept

theorem readLogical_kept {s₀ : State} {s : State} {a : ℕ} {n : ℕ} (hk : Kept s₀ s) : Kept s₀ (readLogical s a n).2.2 := by
  unfold readLogical
  try dsimp only
  repeat' first
    | with_reducible assumption | (intro; try dsimp only) | with_reducible apply kept_foldl_thd
    | with_reducible apply kept_ite_thd | with_reducible apply checkEntries_kept | with_reducible apply stageMissing_kept
    | with_reducible apply readPiece_kept

theorem writeLogical_kept {s₀ : State} {s : State} {a : ℕ} {bs : List Byte} (hk : Kept s₀ s) : Kept s₀ (writeLogical
    s a bs).2 := by
  unfold writeLogical
  try dsimp only
  repeat' first
    | with_reducible assumption | (intro; try dsimp only) | with_reducible apply kept_foldl_thd
    | with_reducible apply kept_ite_thd | with_reducible apply checkEntries_kept | with_reducible apply sendRec_kept
    | with_reducible apply countF_kept | with_reducible apply pageWrite_kept

end Sys2Proof.Machine
end

