-- ==== Sys2Proof/Laws/KeptIntegrity.lean ====
section
/-! SUPPORT. What the functions of Machine/Integrity.lean leave alone (Laws/Kept.lean). -/
namespace Sys2Proof.Machine

theorem fettleValid_kept {s₀ : State} {s : State} {g : ℕ} {line : ℕ} (hk : Kept s₀ s) : Kept s₀ (fettleValid s g
    line) := by
  unfold fettleValid
  try dsimp only
  repeat' first
    | with_reducible assumption | (intro _ ht; exact Tile.sound_of ht rfl rfl rfl) | with_reducible apply kept_ite
    | with_reducible apply countF_kept | with_reducible apply wrReg_kept | with_reducible apply modTile_kept

theorem fettleByte_kept {s₀ s : State} {g : Nat} {stuck : Bool} {e : Nat × Nat} (h : Kept s₀ s) :
    Kept s₀ (fettleByte g stuck s e) := by
  unfold fettleByte
  refine kept_ite h ?_
  extract_lets s1
  have h1 : Kept s₀ s1 := logMemErr_kept h
  refine kept_ite ?_ (kept_ite h1 ?_)
  · exact sendRec_kept (modTile_kept h1 fun _ ht => ⟨Memory.wf_wrByte _ _ _ ht.1, ht.2⟩)
  · exact modTile_kept h1 fun _ ht => ⟨Memory.wf_wrByte _ _ _ ht.1, ht.2⟩

theorem retireLine_kept {s₀ : State} {s : State} {g : ℕ} {line : ℕ} (hk : Kept s₀ s) : Kept s₀ (retireLine s g line) := by
  unfold retireLine
  try dsimp only
  repeat' first
    | with_reducible assumption | (intro; try dsimp only) | with_reducible apply kept_foldl
    | with_reducible apply kept_ite | with_reducible apply KeptParts.same | with_reducible apply sendRec_kept
    | with_reducible apply setI_kept | with_reducible apply wrReg_kept | with_reducible apply setF_kept
    | simp only [kept_mk]

theorem fettleLine_kept {s₀ : State} {s : State} {g : ℕ} {line : ℕ} {hard : Bool} (hk : Kept s₀ s) : Kept s₀
    (fettleLine s g line hard) := by
  unfold fettleLine
  try dsimp only
  repeat' first
    | with_reducible assumption | (intro; try dsimp only) | with_reducible apply kept_foldl
    | with_reducible apply kept_ite | with_reducible apply fettleValid_kept | with_reducible apply fettleByte_kept
    | with_reducible apply retireLine_kept

theorem opTileFettler_kept {s₀ : State} {g line : ℕ} {hard : Bool} {s : State} (hk : Kept s₀ s) : Kept s₀ (opTileFettler g
    line hard s) := by
  unfold opTileFettler
  try dsimp only
  repeat' first
    | with_reducible assumption | (intro _ ht; exact Tile.sound_of ht rfl rfl rfl) | with_reducible apply kept_ite
    | with_reducible apply fettleLine_kept | with_reducible apply modTile_kept

theorem hardRow_kept {s₀ : State} {s : State} {k : ℕ} {g : ℕ} {hard : Bool} {corrected : Bool} (hk : Kept s₀ s) :
    Kept s₀ (hardRow s k g hard corrected) := by
  unfold hardRow
  try dsimp only
  repeat' first | with_reducible assumption | with_reducible apply kept_ite | with_reducible apply retireRow_kept

theorem readTable_kept {s₀ : State} {s : State} {k : ℕ} {g : ℕ} {p : ℕ} {hard : Bool} (hk : Kept s₀ s) : Kept s₀
    (readTable s k g p hard) := by
  unfold readTable
  try dsimp only
  repeat' first | with_reducible assumption | with_reducible apply hardRow_kept | with_reducible apply ptRead_kept

theorem fettlerRecord_kept {s₀ : State} {s : State} {c : ℕ} {ch : ℕ} {slot : ℕ} {g : ℕ} (hk : Kept s₀ s) : Kept s₀
    (fettlerRecord s c ch slot g) := by
  unfold fettlerRecord
  try dsimp only
  repeat' first | with_reducible assumption | with_reducible apply sendRec_kept

theorem reportLost_kept {s₀ : State} {s : State} {c : ℕ} {ch : ℕ} {slot : ℕ} {g : ℕ} {k : ℕ} (hk : Kept s₀ s) : Kept
    s₀ (reportLost s c ch slot g k) := by
  unfold reportLost
  try dsimp only
  repeat' first
    | with_reducible assumption | with_reducible apply retireRow_kept | with_reducible apply fettlerRecord_kept

theorem sweepGranule_kept {s₀ : State} {s : State} {c : ℕ} {ch : ℕ} {slot : ℕ} {g : ℕ} {k : ℕ} {hard : Bool} (hk :
    Kept s₀ s) : Kept s₀ (sweepGranule s c ch slot g k hard) := by
  unfold sweepGranule
  try dsimp only
  repeat' first
    | with_reducible assumption | (intro; try dsimp only) | with_reducible apply kept_foldl
    | with_reducible apply kept_ite | with_reducible apply scrubValid_kept | with_reducible apply writeBackWord_kept
    | with_reducible apply countChannel_kept | with_reducible apply reportLost_kept | with_reducible apply hardRow_kept

theorem sweepAt_kept {s₀ : State} {s : State} {p : Option ℕ} {c : ℕ} {ch : ℕ} {slot : ℕ} {g : ℕ} {k : ℕ} {hard :
    Bool} (hk : Kept s₀ s) : Kept s₀ (sweepAt s p c ch slot g k hard) := by
  unfold sweepAt
  try dsimp only
  repeat' first
    | with_reducible assumption | with_reducible apply kept_ite | with_reducible apply readTable_kept
    | with_reducible apply fettlerRecord_kept | with_reducible apply sweepGranule_kept | split

theorem opStackFettler_kept {s₀ : State} {c ch slot g : ℕ} {hard : Bool} {s : State} (hk : Kept s₀ s) : Kept s₀
    (opStackFettler c ch slot g hard s) := by
  unfold opStackFettler
  try dsimp only
  repeat' first
    | with_reducible assumption | with_reducible apply kept_ite | with_reducible apply KeptParts.same
    | with_reducible apply sweepAt_kept | simp only [kept_mk]

theorem readData_kept {s₀ : State} {s : State} {g : ℕ} {k : ℕ} {hard : Bool} (hk : Kept s₀ s) : Kept s₀ (readData s g
    k hard) := by
  unfold readData
  try dsimp only
  repeat' first
    | with_reducible assumption | with_reducible apply kept_ite | with_reducible apply scrubValid_kept
    | with_reducible apply readGranule_kept | with_reducible apply poisonAt_kept | with_reducible apply hardRow_kept

theorem serveRead_kept {s₀ : State} {s : State} {p : Option ℕ} {g : ℕ} {k : ℕ} {hard : Bool} (hk : Kept s₀ s) : Kept
    s₀ (serveRead s p g k hard) := by
  unfold serveRead
  try dsimp only
  repeat' first
    | with_reducible assumption | with_reducible apply readTable_kept | with_reducible apply readData_kept | split

theorem opStackRead_kept {s₀ : State} {c : ℕ} {ch : ℕ} {slot : ℕ} {g : ℕ} {hard : Bool} {s : State} (hk : Kept s₀ s)
    : Kept s₀ (opStackRead c ch slot g hard s) := by
  unfold opStackRead
  try dsimp only
  repeat' first | with_reducible assumption | with_reducible apply serveRead_kept

theorem opRepairAppend_kept {s₀ : State} {s : State} (hk : Kept s₀ s) : Kept s₀ (opRepairAppend s) := by
  unfold opRepairAppend
  try dsimp only
  repeat' first | with_reducible assumption | with_reducible apply KeptParts.same | simp only [kept_mk]

end Sys2Proof.Machine
end

