-- ==== Sys2Proof/Laws/KeptBroisOps.lean ====
section
/-! SUPPORT. What the functions of Machine/BroisOps.lean leave alone (Laws/Kept.lean). -/
namespace Sys2Proof.Machine

theorem setLink_kept {s₀ : State} {s : State} {l : ℕ} {b : BLink} (hk : Kept s₀ s) : Kept s₀ (setLink s l b) := by
  unfold setLink
  try dsimp only
  repeat' first | with_reducible assumption | with_reducible apply KeptParts.same | simp only [kept_mk]

theorem sendPkt_kept {s₀ : State} {s : State} {l : ℕ} {p : BPkt} (hk : Kept s₀ s) : Kept s₀ (sendPkt s l p) := by
  unfold sendPkt
  try dsimp only
  repeat' first | with_reducible assumption | with_reducible apply kept_ite | with_reducible apply setLink_kept

theorem startWrite_kept {s₀ : State} {s : State} {l : ℕ} {w : CompWrite} (hk : Kept s₀ s) : Kept s₀ (startWrite s l
    w) := by
  unfold startWrite
  try dsimp only
  repeat' first
    | with_reducible assumption | with_reducible apply KeptParts.same | with_reducible apply setI_kept
    | with_reducible apply sendPkt_kept | simp only [kept_mk]

theorem sendWrite_kept {s₀ : State} {s : State} {addr : ℕ} {data : List Byte} {what : WriteFor} (hk : Kept s₀ s) :
    Kept s₀ (sendWrite s addr data what) := by
  unfold sendWrite
  try dsimp only
  repeat' first
    | with_reducible assumption | with_reducible apply KeptParts.same | with_reducible apply startWrite_kept
    | simp only [kept_mk] | split

theorem retryWrites_kept {s₀ : State} {s : State} {n0 : ℕ} (hk : Kept s₀ s) : Kept s₀ (retryWrites s n0) := by
  induction n0 generalizing s with
  | zero =>
    unfold retryWrites
    try dsimp only
    repeat' first | with_reducible assumption
  | succ n ih =>
    unfold retryWrites
    try dsimp only
    repeat' first
      | with_reducible assumption | with_reducible apply ih | with_reducible apply KeptParts.same
      | with_reducible apply startWrite_kept | simp only [kept_mk] | split

theorem sendRead_kept {s₀ : State} {s : State} {l : ℕ} {addr : ℕ} {what : ReadFor} (hk : Kept s₀ s) : Kept s₀
    (sendRead s l addr what) := by
  unfold sendRead
  try dsimp only
  repeat' first
    | with_reducible assumption | with_reducible apply KeptParts.same | with_reducible apply setLink_kept
    | with_reducible apply sendPkt_kept | with_reducible apply setI_kept | simp only [kept_mk]

end Sys2Proof.Machine
end

