-- ==== Sys2Proof/Laws/KeptCmdOps.lean ====
section
/-! SUPPORT. What the functions of Machine/CmdOps.lean leave alone (Laws/Kept.lean). -/
namespace Sys2Proof.Machine

theorem logOthers_kept {s₀ : State} {s : State} {cs : List ℕ} {best : ℕ} (hk : Kept s₀ s) : Kept s₀ (logOthers s cs
    best) := by
  unfold logOthers
  try dsimp only
  repeat' first
    | with_reducible assumption | (intro; try dsimp only) | with_reducible apply kept_foldl
    | with_reducible apply logSupp_kept

theorem logPort_kept {s₀ : State} {s : State} {cs : List ℕ} {best : ℕ} (hk : Kept s₀ s) : Kept s₀ (logPort s cs best)
    := by
  unfold logPort
  try dsimp only
  repeat' first
    | with_reducible assumption | (intro; try dsimp only) | with_reducible apply kept_foldl
    | with_reducible apply logSupp_kept

theorem logStack_kept {s₀ : State} {s : State} {c : ℕ} {cs : List ℕ} {best : ℕ} (hk : Kept s₀ s) : Kept s₀ (logStack
    s c cs best) := by
  unfold logStack
  try dsimp only
  repeat' first
    | with_reducible assumption | (intro; try dsimp only) | with_reducible apply kept_foldl
    | with_reducible apply logSupp_kept

theorem updateService_kept {s₀ : State} {s : State} (hk : Kept s₀ s) : Kept s₀ (updateService s) := by
  unfold updateService
  try dsimp only
  repeat' first
    | with_reducible assumption | with_reducible apply kept_ite | with_reducible apply KeptParts.same
    | with_reducible apply setF_kept | with_reducible apply sendRec_kept | simp only [kept_mk]

theorem setCq_kept {s₀ : State} {s : State} {n : ℕ} {q : CmdQueue} (hk : Kept s₀ s) : Kept s₀ (setCq s n q) := by
  unfold setCq
  try dsimp only
  repeat' first | with_reducible assumption | with_reducible apply KeptParts.same | simp only [kept_mk]

theorem modCq_kept {s₀ : State} {s : State} {n : ℕ} {f : CmdQueue → CmdQueue} (hk : Kept s₀ s) : Kept s₀ (modCq s n
    f) := by
  unfold modCq
  try dsimp only
  repeat' first | with_reducible assumption | with_reducible apply setCq_kept

theorem touchNext_kept {s₀ : State} {s : State} {n : ℕ} (hk : Kept s₀ s) : Kept s₀ (touchNext s n) := by
  unfold touchNext
  try dsimp only
  repeat' first | with_reducible assumption | with_reducible apply setI_kept | with_reducible apply setCq_kept | split

theorem sendIrq_kept {s₀ : State} {s : State} {v : ℕ} (hk : Kept s₀ s) : Kept s₀ (sendIrq s v) := by
  unfold sendIrq
  try dsimp only
  repeat' first
    | with_reducible assumption | with_reducible apply kept_ite | with_reducible apply countF_kept
    | with_reducible apply sendWrite_kept

theorem ringWrite_kept {s₀ : State} {s : State} {r : EvRec} (hk : Kept s₀ s) : Kept s₀ (ringWrite s r) := by
  unfold ringWrite
  try dsimp only
  repeat' first
    | with_reducible assumption | with_reducible apply KeptParts.same | with_reducible apply sendWrite_kept
    | simp only [kept_mk]

theorem lostRecord_kept {s₀ : State} {s : State} (hk : Kept s₀ s) : Kept s₀ (lostRecord s).2 := by
  unfold lostRecord
  try dsimp only
  repeat' first
    | with_reducible assumption | with_reducible apply KeptParts.same | with_reducible apply setF_kept
    | simp only [kept_mk]

theorem drainRecords_kept {s₀ : State} {s : State} {n0 : ℕ} (hk : Kept s₀ s) : Kept s₀ (drainRecords s n0) := by
  induction n0 generalizing s with
  | zero =>
    unfold drainRecords
    try dsimp only
    repeat' first | with_reducible assumption
  | succ n ih =>
    unfold drainRecords
    try dsimp only
    repeat' first
      | with_reducible assumption | with_reducible apply ih | with_reducible apply kept_ite
      | with_reducible apply KeptParts.same | with_reducible apply lostRecord_kept | with_reducible apply ringWrite_kept
      | simp only [kept_mk] | split

theorem takeRecord_kept {s₀ : State} {s : State} {r : EvRec} (hk : Kept s₀ s) : Kept s₀ (takeRecord s r) := by
  unfold takeRecord
  try dsimp only
  repeat' first
    | with_reducible assumption | with_reducible apply kept_ite | with_reducible apply KeptParts.same
    | with_reducible apply ringWrite_kept | with_reducible apply drainRecords_kept | with_reducible apply setF_kept
    | with_reducible apply countF_kept | simp only [kept_mk]

theorem completeCmd_kept {s₀ : State} {s : State} {n : ℕ} {c : Cmd} {status : ℕ} {detail : ℕ} (hk : Kept s₀ s) : Kept
    s₀ (completeCmd s n c status detail) := by
  unfold completeCmd
  try dsimp only
  repeat' first
    | with_reducible assumption | with_reducible apply kept_ite | with_reducible apply modCq_kept
    | with_reducible apply sendWrite_kept | with_reducible apply setI_kept

theorem completeIdx_kept {s₀ : State} {s : State} {n : ℕ} {i : W32} {status : ℕ} {detail : ℕ} (hk : Kept s₀ s) : Kept
    s₀ (completeIdx s n i status detail) := by
  unfold completeIdx
  try dsimp only
  repeat' first | with_reducible assumption | with_reducible apply completeCmd_kept | split

theorem completeAmong_kept {s₀ : State} {s : State} {n : ℕ} {i : W32} {cs : List ℕ} {detail : ℕ} (hk : Kept s₀ s) :
    Kept s₀ (completeAmong s n i cs detail) := by
  unfold completeAmong
  try dsimp only
  repeat' first | with_reducible assumption | with_reducible apply completeIdx_kept | with_reducible apply logOthers_kept

theorem markRun_kept {s₀ : State} {s : State} {n : ℕ} {i : W32} (hk : Kept s₀ s) : Kept s₀ (markRun s n i) := by
  unfold markRun
  try dsimp only
  repeat' first | with_reducible assumption | with_reducible apply modCq_kept

theorem onCmd_kept {s₀ s : State} {n : Nat} {i : W32} {op : Nat} {f : Cmd → State → State} (h : Kept s₀ s)
    (hf : ∀ c t, Kept s₀ t → Kept s₀ (f c t)) : Kept s₀ (onCmd s n i op f) := by
  unfold onCmd
  repeat' first | with_reducible assumption | with_reducible apply markRun_kept | with_reducible apply hf | split

theorem completeRequest_kept {s₀ : State} {s : State} {n : ℕ} {r : PacedReq} (hk : Kept s₀ s) : Kept s₀
    (completeRequest s n r) := by
  unfold completeRequest
  try dsimp only
  repeat' first | with_reducible assumption | with_reducible apply modCq_kept | with_reducible apply completeAmong_kept

theorem checkPaced_kept {s₀ : State} {s : State} {n : ℕ} (hk : Kept s₀ s) : Kept s₀ (checkPaced s n) := by
  unfold checkPaced
  try dsimp only
  repeat' first
    | with_reducible assumption | (intro; try dsimp only) | with_reducible apply kept_foldl
    | with_reducible apply kept_ite | with_reducible apply completeRequest_kept

theorem addEvc_kept {s₀ : State} {s : State} {n : ℕ} {v : W32} (hk : Kept s₀ s) : Kept s₀ (addEvc s n v) := by
  unfold addEvc
  try dsimp only
  repeat' first
    | with_reducible assumption | (intro; try dsimp only) | with_reducible apply kept_foldl
    | with_reducible apply setI_kept | with_reducible apply checkPaced_kept | with_reducible apply touchNext_kept

theorem finishRuns_kept {s₀ : State} {s : State} (hk : Kept s₀ s) : Kept s₀ (finishRuns s) := by
  unfold finishRuns
  try dsimp only
  repeat' first
    | with_reducible assumption | (intro; try dsimp only) | with_reducible apply kept_foldl
    | with_reducible apply modCq_kept | with_reducible apply completeIdx_kept

end Sys2Proof.Machine
end

