-- ==== Sys2Proof/Laws/KeptCmdChecks.lean ====
section
/-! SUPPORT. What the functions of Machine/CmdChecks.lean leave alone (Laws/Kept.lean). -/
namespace Sys2Proof.Machine

theorem onValid_kept {s₀ s : State} {n : Nat} {i : W32} {op : Nat} {f : Cmd → State → Bool × State} (h : Kept s₀ s)
    (hf : ∀ c t, Kept s₀ t → Kept s₀ (f c t).2) : Kept s₀ (onValid s n i op f) := by
  unfold onValid
  dsimp only
  repeat' first
    | with_reducible assumption | with_reducible apply completeCmd_kept | with_reducible apply markRun_kept
    | with_reducible apply hf | split

end Sys2Proof.Machine
end

