-- ==== Sys2Proof/Laws/KeptRoute.lean ====
section
/-! SUPPORT. What the functions of Machine/Route.lean leave alone (Laws/Kept.lean). -/
namespace Sys2Proof.Machine

theorem inject_kept {s₀ : State} {s : State} {g : ℕ} {p : Packet} (hk : Kept s₀ s) : Kept s₀ (inject s g p) := by
  unfold inject
  try dsimp only
  repeat' first
    | with_reducible assumption | (intro _ ht; exact Tile.sound_of ht rfl rfl rfl) | with_reducible apply modTile_kept

theorem putWire_kept {s₀ : State} {s : State} {g : ℕ} {p : Port} {q : Packet} {src : optParam (Option ℕ) Option.none}
    (hk : Kept s₀ s) : Kept s₀ (putWire s g p q src) := by
  unfold putWire
  try dsimp only
  repeat' first
    | with_reducible assumption | (intro _ ht; exact Tile.sound_of ht rfl rfl rfl) | with_reducible apply modTile_kept

theorem cresSend_kept {s₀ : State} {s : State} {c : ℕ} {p : Packet} (hk : Kept s₀ s) : Kept s₀ (cresSend s c p) := by
  unfold cresSend
  try dsimp only
  repeat' first | with_reducible assumption | with_reducible apply kept_ite | with_reducible apply putWire_kept | split

end Sys2Proof.Machine
end

