-- ==== Sys2Proof/Laws/KeptTileStream.lean ====
section
/-! SUPPORT. What the functions of Machine/TileStream.lean leave alone (Laws/Kept.lean). -/
namespace Sys2Proof.Machine

theorem netFree_kept {g : ℕ} : KeepsM (netFree g) := by
  unfold netFree
  try dsimp only
  repeat' first
    | with_reducible apply keepsM_ite | with_reducible apply keepsM_bind | with_reducible apply keepsM_pure
    | with_reducible apply keepsM_get | with_reducible apply keepsM_throw | (intro; try dsimp only)

theorem sendTransfer_kept {s₀ : State} {s : State} {g : ℕ} {stream : ℕ} {seq : ℕ} {own : Bool} {bs : List Byte} (hk :
    Kept s₀ s) : Kept s₀ (sendTransfer s g stream seq own bs) := by
  unfold sendTransfer
  try dsimp only
  repeat' first
    | with_reducible assumption | (intro; try dsimp only) | with_reducible apply kept_foldl
    | with_reducible apply inject_kept

theorem opSend_kept {g : ℕ} {w : Word} : KeepsM (opSend g w) := by
  unfold opSend
  try dsimp only
  repeat' first
    | with_reducible assumption | with_reducible apply keepsM_bind | with_reducible apply keepsM_pure
    | with_reducible apply keepsM_get | with_reducible apply keepsM_modify | with_reducible apply faultIf_kept
    | with_reducible apply netFree_kept | with_reducible apply pReg_kept | with_reducible apply readMem_kept
    | with_reducible apply sendTransfer_kept | with_reducible apply modTile_kept | split
    | (intro _ ht; exact Tile.sound_of ht rfl rfl rfl) | (intro; try dsimp only)

theorem showRx_kept {s₀ : State} {s : State} {g : ℕ} (hk : Kept s₀ s) : Kept s₀ (showRx s g) := by
  unfold showRx
  try dsimp only
  repeat' first | with_reducible assumption | with_reducible apply setF_kept

theorem setRx_kept {s₀ : State} {s : State} {g : ℕ} {stream : ℕ} {r : RxRec} (hk : Kept s₀ s) : Kept s₀ (setRx s g
    stream r) := by
  unfold setRx
  try dsimp only
  repeat' first
    | with_reducible assumption | (intro _ ht; exact Tile.sound_of ht rfl rfl rfl) | with_reducible apply showRx_kept
    | with_reducible apply modTile_kept

theorem opRecv_kept {g : ℕ} {w : Word} : KeepsM (opRecv g w) := by
  unfold opRecv
  try dsimp only
  repeat' first
    | with_reducible apply keepsM_bind | with_reducible apply keepsM_pure | with_reducible apply faultIf_kept
    | with_reducible apply netFree_kept | with_reducible apply pReg_kept | with_reducible apply beginWait_kept | split
    | (intro; try dsimp only)

theorem recvDone_kept {s₀ : State} {s : State} {g : ℕ} {stream : ℕ} {seq : ℕ} (hk : Kept s₀ s) : Kept s₀ (recvDone s
    g stream seq) := by
  unfold recvDone
  try dsimp only
  repeat' first
    | with_reducible assumption | with_reducible apply kept_ite | with_reducible apply setRx_kept
    | with_reducible apply setF_kept | with_reducible apply endWait_kept

theorem acceptStream_kept {s₀ : State} {s : State} {g : ℕ} {stream : ℕ} {base : ℕ} {count : ℕ} {p : Packet} (hk :
    Kept s₀ s) : Kept s₀ (acceptStream s g stream base count p) := by
  unfold acceptStream
  try dsimp only
  repeat' first
    | with_reducible assumption | (intro _ ht; exact Tile.sound_of ht rfl rfl rfl) | with_reducible apply kept_ite
    | with_reducible apply tileFault_kept | with_reducible apply modTile_kept | with_reducible apply memWrite_kept
    | with_reducible apply setRx_kept | with_reducible apply recvDone_kept

theorem setHalf_kept {s₀ : State} {s : State} {g : ℕ} {h : ℕ} {v : ℕ} (hk : Kept s₀ s) : Kept s₀ (setHalf s g h v) := by
  unfold setHalf
  try dsimp only
  repeat' first | with_reducible assumption | with_reducible apply kept_ite | with_reducible apply setF_kept

theorem releaseDraw_kept {s₀ : State} {s : State} {g : ℕ} (hk : Kept s₀ s) : Kept s₀ (releaseDraw s g) := by
  unfold releaseDraw
  try dsimp only
  repeat' first | with_reducible assumption | with_reducible apply kept_ite | with_reducible apply setHalf_kept

theorem swapHalves_kept {s₀ : State} {s : State} {g : ℕ} (hk : Kept s₀ s) : Kept s₀ (swapHalves s g) := by
  unfold swapHalves
  try dsimp only
  repeat' first
    | with_reducible assumption | (intro _ ht; exact Tile.sound_of ht rfl rfl rfl) | with_reducible apply setHalf_kept
    | with_reducible apply setF_kept | with_reducible apply modTile_kept

theorem opTswap_kept {g : ℕ} {w : Word} : KeepsM (opTswap g w) := by
  unfold opTswap
  try dsimp only
  repeat' first
    | with_reducible apply keepsM_ite | with_reducible apply keepsM_bind | with_reducible apply keepsM_pure
    | with_reducible apply keepsM_get | with_reducible apply keepsM_modify | with_reducible apply faultIf_kept
    | with_reducible apply netFree_kept | with_reducible apply swapHalves_kept | with_reducible apply beginWait_kept
    | (intro; try dsimp only)

theorem opTrel_kept {g : ℕ} {w : Word} : KeepsM (opTrel g w) := by
  unfold opTrel
  try dsimp only
  repeat' first
    | with_reducible apply keepsM_bind | with_reducible apply keepsM_pure | with_reducible apply keepsM_modify
    | with_reducible apply faultIf_kept | with_reducible apply netFree_kept | with_reducible apply releaseDraw_kept
    | (intro; try dsimp only)

theorem wakeSwap_kept {s₀ : State} {s : State} {g : ℕ} (hk : Kept s₀ s) : Kept s₀ (wakeSwap s g) := by
  unfold wakeSwap
  try dsimp only
  repeat' first
    | with_reducible assumption | with_reducible apply kept_ite | with_reducible apply endWait_kept
    | with_reducible apply swapHalves_kept | with_reducible apply setF_kept | split

theorem forwardT0_kept {s₀ : State} {s : State} {c : ℕ} {p : ℕ} {page : ℕ} {u : ℕ} {off : ℕ} {q : Packet} (hk : Kept
    s₀ s) : Kept s₀ (forwardT0 s c p page u off q) := by
  unfold forwardT0
  try dsimp only
  repeat' first | with_reducible assumption | with_reducible apply cresSend_kept

theorem getPiece_kept {s₀ : State} {s : State} {g : ℕ} {c : ℕ} {tag : ℕ} {p : ℕ × ℕ × ℕ × ℕ} (hk : Kept s₀ s) : Kept
    s₀ (getPiece s g c tag p) := by
  unfold getPiece
  try dsimp only
  repeat' first
    | with_reducible assumption | with_reducible apply kept_ite | with_reducible apply forwardT0_kept
    | with_reducible apply placeBytes_kept | with_reducible apply poisonPage_kept | with_reducible apply cresSend_kept
    | with_reducible apply sendFar_kept | split

theorem putPlace_kept {s₀ : State} {s : State} {g : ℕ} {c : ℕ} {place : ℕ} {page : ℕ} {u : ℕ} {off : ℕ} {bs : List
    Byte} {dirty : Bool} (hk : Kept s₀ s) : Kept s₀ (putPlace s g c place page u off bs dirty) := by
  unfold putPlace
  try dsimp only
  repeat' first
    | with_reducible assumption | with_reducible apply kept_ite | with_reducible apply forwardT0_kept
    | with_reducible apply placeWrite_kept | with_reducible apply setDirty_kept | with_reducible apply sendFar_kept
    | split

theorem putPiece_kept {s₀ : State} {s : State} {g : ℕ} {c : ℕ} {p : ℕ × ℕ × ℕ × ℕ} {bs : List Byte} (hk : Kept s₀ s)
    : Kept s₀ (putPiece s g c p bs) := by
  unfold putPiece
  try dsimp only
  repeat' first
    | with_reducible assumption | (intro; try dsimp only) | with_reducible apply writeThrough_kept
    | with_reducible apply putPlace_kept

theorem bindPages_kept {g : ℕ} {c : ℕ} {a : ℕ} {n : ℕ} {write : Bool} : KeepsM (bindPages g c a n write) := by
  unfold bindPages
  try dsimp only
  repeat' first
    | with_reducible assumption | with_reducible apply keepsM_bind | with_reducible apply keepsM_pure
    | with_reducible apply keepsM_get | with_reducible apply keepsM_throw | with_reducible apply keepsM_modify
    | with_reducible apply kept_foldl | with_reducible apply cacheLookup_kept | with_reducible apply sendRec_kept
    | with_reducible apply countFail_kept | split | (intro; try dsimp only)

theorem opRget_kept {g : ℕ} {w : Word} : KeepsM (opRget g w) := by
  unfold opRget
  try dsimp only
  repeat' first
    | with_reducible assumption | with_reducible apply keepsM_bind | with_reducible apply keepsM_pure
    | with_reducible apply keepsM_get | with_reducible apply keepsM_modify | with_reducible apply keepsM_forIn
    | with_reducible apply faultIf_kept | with_reducible apply netFree_kept | with_reducible apply pReg_kept
    | with_reducible apply bindPages_kept | with_reducible apply modTile_kept | with_reducible apply getPiece_kept
    | split | (intro _ ht; exact Tile.sound_of ht rfl rfl rfl) | (intro; try dsimp only)

theorem opRput_kept {g : ℕ} {w : Word} : KeepsM (opRput g w) := by
  unfold opRput
  try dsimp only
  repeat' first
    | with_reducible apply keepsM_bind | with_reducible apply keepsM_pure | with_reducible apply keepsM_get
    | with_reducible apply keepsM_modify | with_reducible apply keepsM_forIn | with_reducible apply faultIf_kept
    | with_reducible apply netFree_kept | with_reducible apply pReg_kept | with_reducible apply readMem_kept
    | with_reducible apply bindPages_kept | with_reducible apply putPiece_kept | split | (intro; try dsimp only)

theorem opSput_kept {g : ℕ} {w : Word} : KeepsM (opSput g w) := by
  unfold opSput
  try dsimp only
  repeat' first
    | with_reducible assumption | with_reducible apply keepsM_bind | with_reducible apply keepsM_pure
    | with_reducible apply keepsM_modify | with_reducible apply KeptParts.same | with_reducible apply faultIf_kept
    | with_reducible apply netFree_kept | with_reducible apply pReg_kept | with_reducible apply readMem_kept
    | with_reducible apply setF_kept | simp only [kept_mk] | split | (intro; try dsimp only)

theorem opSget_kept {g : ℕ} {w : Word} : KeepsM (opSget g w) := by
  unfold opSget
  try dsimp only
  repeat' first
    | with_reducible apply keepsM_ite | with_reducible apply keepsM_bind | with_reducible apply keepsM_pure
    | with_reducible apply keepsM_get | with_reducible apply faultIf_kept | with_reducible apply netFree_kept
    | with_reducible apply pReg_kept | with_reducible apply writeMem_kept | with_reducible apply beginWait_kept | split
    | (intro; try dsimp only)

end Sys2Proof.Machine
end

