-- ==== Sys2Proof/Laws/KeptTileSync.lean ====
section
/-! SUPPORT. What the functions of Machine/TileSync.lean leave alone (Laws/Kept.lean). -/
namespace Sys2Proof.Machine

theorem opFence_kept {g : ℕ} {w : Word} : KeepsM (opFence g w) := by
  unfold opFence
  try dsimp only
  repeat' first
    | with_reducible apply keepsM_ite | with_reducible apply keepsM_bind | with_reducible apply keepsM_pure
    | with_reducible apply keepsM_get | with_reducible apply keepsM_modify | with_reducible apply faultIf_kept
    | with_reducible apply holdFence_kept | with_reducible apply flushGen_kept | (intro; try dsimp only)

theorem addLocal_kept {s₀ : State} {s : State} {g : ℕ} {n : ℕ} {v : W32} (hk : Kept s₀ s) : Kept s₀ (addLocal s g n
    v) := by
  unfold addLocal
  try dsimp only
  repeat' first
    | with_reducible assumption | (intro _ ht; exact Tile.sound_of ht rfl rfl rfl) | with_reducible apply modTile_kept

theorem toCommand_kept {s₀ : State} {s : State} {g : ℕ} {ev : ℕ} {v : W32} (hk : Kept s₀ s) : Kept s₀ (toCommand s g
    ev v) := by
  unfold toCommand
  try dsimp only
  repeat' first | with_reducible assumption | with_reducible apply inject_kept

theorem opEvsig_kept {g : ℕ} {w : Word} : KeepsM (opEvsig g w) := by
  unfold opEvsig
  try dsimp only
  repeat' first
    | with_reducible apply keepsM_bind | with_reducible apply keepsM_pure | with_reducible apply keepsM_modify
    | with_reducible apply faultIf_kept | with_reducible apply addLocal_kept | with_reducible apply sReg_kept
    | with_reducible apply inject_kept | with_reducible apply toCommand_kept | split | (intro; try dsimp only)

theorem opEvwait_kept {g : ℕ} {w : Word} : KeepsM (opEvwait g w) := by
  unfold opEvwait
  try dsimp only
  repeat' first
    | with_reducible apply keepsM_ite | with_reducible apply keepsM_bind | with_reducible apply keepsM_pure
    | with_reducible apply keepsM_get | with_reducible apply faultIf_kept | with_reducible apply beginWait_kept
    | (intro; try dsimp only)

theorem opLoop.putLoop_kept {g : ℕ} {n : ℕ} {v : W32} : KeepsM (opLoop.putLoop g n v) := by
  unfold opLoop.putLoop
  try dsimp only
  repeat' first
    | with_reducible assumption | with_reducible apply keepsM_modify | with_reducible apply modTile_kept
    | (intro _ ht; exact Tile.sound_of ht rfl rfl rfl) | (intro; try dsimp only)

theorem opLoop_kept {g : ℕ} {w : Word} : KeepsM (opLoop g w) := by
  unfold opLoop
  try dsimp only
  repeat' first
    | with_reducible apply keepsM_ite | with_reducible apply keepsM_bind | with_reducible apply keepsM_pure
    | with_reducible apply keepsM_get | with_reducible apply faultIf_kept | with_reducible apply opLoop.putLoop_kept
    | split | (intro; try dsimp only)

theorem opHoist_kept {g : ℕ} {w : Word} : KeepsM (opHoist g w) := by
  unfold opHoist
  try dsimp only
  repeat' first
    | with_reducible assumption | with_reducible apply keepsM_ite | with_reducible apply keepsM_bind
    | with_reducible apply keepsM_pure | with_reducible apply keepsM_get | with_reducible apply keepsM_modify
    | with_reducible apply faultIf_kept | with_reducible apply pReg_kept | with_reducible apply readMem_kept
    | with_reducible apply releaseDraw_kept | with_reducible apply setF_kept | with_reducible apply swapHalves_kept
    | with_reducible apply beginWait_kept | (intro; try dsimp only)

theorem opHalt_kept {g : ℕ} {w : Word} : KeepsM (opHalt g w) := by
  unfold opHalt
  try dsimp only
  repeat' first
    | with_reducible assumption | with_reducible apply keepsM_bind | with_reducible apply keepsM_pure
    | with_reducible apply keepsM_modify | with_reducible apply KeptParts.same | with_reducible apply faultIf_kept
    | with_reducible apply setF_kept | with_reducible apply flushGen_kept | with_reducible apply finishRuns_kept
    | simp only [kept_mk] | (intro; try dsimp only)

end Sys2Proof.Machine
end

