-- ==== Sys2Proof/Laws/KeptTileEvents.lean ====
section
/-! SUPPORT. What the functions of Machine/TileEvents.lean leave alone (Laws/Kept.lean). -/
namespace Sys2Proof.Machine

theorem resumeTimers_kept {s₀ : State} {s : State} {from_ : ℕ} (hk : Kept s₀ s) : Kept s₀ (resumeTimers s from_) := by
  unfold resumeTimers
  rw [kept_mk]
  refine KeptParts.upd hk rfl id (sound_map (fun e he => ?_)) id
  split
  · exact Tile.sound_of he rfl rfl rfl
  · exact he

theorem opHang_kept {s₀ : State} {g : ℕ} {s : State} (hk : Kept s₀ s) : Kept s₀ (opHang g s) := by
  unfold opHang
  try dsimp only
  repeat' first | with_reducible assumption | with_reducible apply kept_ite | with_reducible apply tileFault_kept

theorem startQuiesce_kept {s₀ : State} {s : State} {g : ℕ} (hk : Kept s₀ s) : Kept s₀ (startQuiesce s g) := by
  unfold startQuiesce
  try dsimp only
  repeat' first
    | with_reducible assumption | (intro _ ht; exact Tile.sound_of ht rfl rfl rfl) | with_reducible apply kept_ite
    | with_reducible apply showRx_kept | with_reducible apply setF_kept | with_reducible apply modTile_kept | split

theorem opQuiesceComplete_kept {s₀ : State} {g : ℕ} {s : State} (hk : Kept s₀ s) : Kept s₀ (opQuiesceComplete g s) := by
  unfold opQuiesceComplete
  try dsimp only
  repeat' first
    | with_reducible assumption | (intro _ ht; exact Tile.sound_of ht rfl rfl rfl) | with_reducible apply kept_ite
    | with_reducible apply setF_kept | with_reducible apply flushGen_kept | with_reducible apply modTile_kept

theorem startTile_kept {s₀ : State} {s : State} {g : ℕ} (hk : Kept s₀ s) : Kept s₀ (startTile s g) := by
  unfold startTile
  try dsimp only
  repeat' first | with_reducible assumption | with_reducible apply kept_ite | with_reducible apply setF_kept

theorem opTilRun_kept {s₀ : State} {g : ℕ} {v : Bool} {s : State} (hk : Kept s₀ s) : Kept s₀ (opTilRun g v s) := by
  unfold opTilRun
  try dsimp only
  repeat' first
    | with_reducible assumption | with_reducible apply kept_ite | with_reducible apply startTile_kept
    | with_reducible apply setF_kept

theorem opTilQuiesce_kept {s₀ : State} {g : ℕ} {v : Bool} {s : State} (hk : Kept s₀ s) : Kept s₀ (opTilQuiesce g v s)
    := by
  unfold opTilQuiesce
  try dsimp only
  repeat' first
    | with_reducible assumption | with_reducible apply kept_ite | with_reducible apply startQuiesce_kept
    | with_reducible apply setF_kept

theorem opRecvTimeout_kept {s₀ : State} {g : ℕ} {s : State} (hk : Kept s₀ s) : Kept s₀ (opRecvTimeout g s) := by
  unfold opRecvTimeout
  try dsimp only
  repeat' first
    | with_reducible assumption | with_reducible apply kept_ite | with_reducible apply sendRec_kept
    | with_reducible apply startQuiesce_kept | with_reducible apply setF_kept | split

theorem swapTimeout_kept {s₀ : State} {g : ℕ} {since : ℕ} {reported : Bool} {s : State} (hk : Kept s₀ s) : Kept s₀
    (swapTimeout g since reported s) := by
  unfold swapTimeout
  try dsimp only
  repeat' first
    | with_reducible assumption | (intro _ ht; exact Tile.sound_of ht rfl rfl rfl) | with_reducible apply kept_ite
    | with_reducible apply modTile_kept | with_reducible apply sendRec_kept

theorem opTswapTimeout_kept {s₀ : State} {g : ℕ} {s : State} (hk : Kept s₀ s) : Kept s₀ (opTswapTimeout g s) := by
  unfold opTswapTimeout
  try dsimp only
  repeat' first | with_reducible assumption | with_reducible apply swapTimeout_kept | split

theorem opHoistTimeout_kept {s₀ : State} {g : ℕ} {s : State} (hk : Kept s₀ s) : Kept s₀ (opHoistTimeout g s) := by
  unfold opHoistTimeout
  try dsimp only
  repeat' first | with_reducible assumption | with_reducible apply swapTimeout_kept | split

theorem takeLocal_kept {s₀ : State} {s : State} {g : ℕ} {k : ℕ} (hk : Kept s₀ s) : Kept s₀ (takeLocal s g k) := by
  unfold takeLocal
  try dsimp only
  repeat' first
    | with_reducible assumption | (intro _ ht; exact Tile.sound_of ht rfl rfl rfl) | with_reducible apply modTile_kept

theorem opStreamAccept_kept {s₀ : State} {g : ℕ} {k : ℕ} {s : State} (hk : Kept s₀ s) : Kept s₀ (opStreamAccept g k
    s) := by
  unfold opStreamAccept
  try dsimp only
  repeat' first
    | with_reducible assumption | with_reducible apply kept_ite | with_reducible apply acceptStream_kept
    | with_reducible apply takeLocal_kept | split

theorem fillHalf_kept {s₀ s : State} {g off : Nat} {bs : List Byte} (h : Kept s₀ s) : Kept s₀ (fillHalf s g off bs) := by
  unfold fillHalf
  refine modTile_kept h fun t ht => ?_
  split
  · exact ⟨ht.1, Memory.wf_wrBytes _ _ _ ht.2.1, ht.2.2⟩
  · exact ⟨ht.1, ht.2.1, Memory.wf_wrBytes _ _ _ ht.2.2⟩

theorem landPour_kept {s₀ : State} {s : State} {g : ℕ} {p : Packet} (hk : Kept s₀ s) : Kept s₀ (landPour s g p) := by
  unfold landPour
  try dsimp only
  repeat' first
    | with_reducible assumption | with_reducible apply kept_ite | with_reducible apply countF_kept
    | with_reducible apply setF_kept | with_reducible apply fillHalf_kept | with_reducible apply wakeSwap_kept
    | with_reducible apply setHalf_kept

theorem opPourLand_kept {s₀ : State} {g : ℕ} {k : ℕ} {s : State} (hk : Kept s₀ s) : Kept s₀ (opPourLand g k s) := by
  unfold opPourLand
  try dsimp only
  repeat' first
    | with_reducible assumption | with_reducible apply kept_ite | with_reducible apply countF_kept
    | with_reducible apply takeLocal_kept | with_reducible apply landPour_kept | split

theorem opEventTile_kept {s₀ : State} {g : ℕ} {k : ℕ} {s : State} (hk : Kept s₀ s) : Kept s₀ (opEventTile g k s) := by
  unfold opEventTile
  try dsimp only
  repeat' first
    | with_reducible assumption | with_reducible apply kept_ite | with_reducible apply addLocal_kept
    | with_reducible apply takeLocal_kept | with_reducible apply endWait_kept | split

theorem opRemoteRead_kept {s₀ : State} {g : ℕ} {k : ℕ} {s : State} (hk : Kept s₀ s) : Kept s₀ (opRemoteRead g k s) := by
  unfold opRemoteRead
  try dsimp only
  repeat' first
    | with_reducible assumption | with_reducible apply kept_ite | with_reducible apply KeptParts.same
    | with_reducible apply memReadRemote_kept | with_reducible apply takeLocal_kept | with_reducible apply inject_kept
    | simp only [kept_mk] | split

theorem opRemoteWrite_kept {s₀ : State} {g : ℕ} {k : ℕ} {s : State} (hk : Kept s₀ s) : Kept s₀ (opRemoteWrite g k s) := by
  unfold opRemoteWrite
  try dsimp only
  repeat' first
    | with_reducible assumption | with_reducible apply kept_ite | with_reducible apply memWrite_kept
    | with_reducible apply takeLocal_kept | with_reducible apply setDirty_kept | split

theorem takeResponse_kept {s₀ : State} {s : State} {g : ℕ} {tag : ℕ} {bs : List Byte} {poison : Bool} (hk : Kept s₀
    s) : Kept s₀ (takeResponse s g tag bs poison) := by
  unfold takeResponse
  try dsimp only
  repeat' first
    | with_reducible assumption | (intro _ ht; exact Tile.sound_of ht rfl rfl rfl) | with_reducible apply kept_ite
    | with_reducible apply modTile_kept | with_reducible apply tileFault_kept | with_reducible apply sendRec_kept
    | with_reducible apply progress_kept | with_reducible apply memWrite_kept | split

theorem opReadResponse_kept {s₀ : State} {g : ℕ} {k : ℕ} {s : State} (hk : Kept s₀ s) : Kept s₀ (opReadResponse g k
    s) := by
  unfold opReadResponse
  try dsimp only
  repeat' first
    | with_reducible assumption | with_reducible apply kept_ite | with_reducible apply takeResponse_kept
    | with_reducible apply takeLocal_kept | split

theorem opPoisonNotice_kept {s₀ : State} {k : ℕ} {s : State} (hk : Kept s₀ s) : Kept s₀ (opPoisonNotice k s) := by
  unfold opPoisonNotice
  try dsimp only
  repeat' first
    | with_reducible assumption | with_reducible apply KeptParts.same | with_reducible apply poisonPage_kept
    | simp only [kept_mk] | split

theorem opResend_kept {s₀ : State} {g : ℕ} {v : Word} {s : State} (hk : Kept s₀ s) : Kept s₀ (opResend g v s) := by
  unfold opResend
  try dsimp only
  repeat' first
    | with_reducible assumption | with_reducible apply kept_ite | with_reducible apply memReadRemote_kept
    | with_reducible apply tileFault_kept | with_reducible apply sendTransfer_kept

end Sys2Proof.Machine
end

