-- ==== Sys2Proof/Laws/KeptCmdRows.lean ====
section
/-! SUPPORT. What the functions of Machine/CmdRows.lean leave alone (Laws/Kept.lean). -/
namespace Sys2Proof.Machine

theorem opTail_kept {s₀ : State} {n : ℕ} {v : W32} {s : State} (hk : Kept s₀ s) : Kept s₀ (opTail n v s) := by
  unfold opTail
  try dsimp only
  repeat' first | with_reducible assumption | with_reducible apply kept_ite | with_reducible apply setI_kept

theorem opChead_kept {s₀ : State} {n : ℕ} {v : W32} {s : State} (hk : Kept s₀ s) : Kept s₀ (opChead n v s) := by
  unfold opChead
  try dsimp only
  repeat' first | with_reducible assumption | with_reducible apply kept_ite | with_reducible apply setI_kept

theorem opRestart_kept {s₀ : State} {n : ℕ} {s : State} (hk : Kept s₀ s) : Kept s₀ (opRestart n s) := by
  unfold opRestart
  try dsimp only
  repeat' first | with_reducible assumption | with_reducible apply setI_kept

theorem opEvrHead_kept {s₀ : State} {v : W32} {s : State} (hk : Kept s₀ s) : Kept s₀ (opEvrHead v s) := by
  unfold opEvrHead
  try dsimp only
  repeat' first | with_reducible assumption | with_reducible apply drainRecords_kept | with_reducible apply setF_kept

theorem opFetch_kept {s₀ : State} {n : ℕ} {s : State} (hk : Kept s₀ s) : Kept s₀ (opFetch n s) := by
  unfold opFetch
  try dsimp only
  repeat' first | with_reducible assumption | with_reducible apply kept_ite | with_reducible apply sendRead_kept | split

theorem takeCmd_kept {s₀ : State} {s : State} {n : ℕ} {c : Cmd} (hk : Kept s₀ s) : Kept s₀ (takeCmd s n c) := by
  unfold takeCmd
  try dsimp only
  repeat' first
    | with_reducible assumption | with_reducible apply modCq_kept | with_reducible apply setI_kept
    | with_reducible apply touchNext_kept

theorem askDesc_kept {s₀ : State} {s : State} {n : ℕ} (hk : Kept s₀ s) : Kept s₀ (askDesc s n) := by
  unfold askDesc
  try dsimp only
  repeat' first
    | with_reducible assumption | with_reducible apply kept_ite | with_reducible apply readLogical_kept | split

theorem opStart_kept {s₀ : State} {n : ℕ} {s : State} (hk : Kept s₀ s) : Kept s₀ (opStart n s) := by
  unfold opStart
  try dsimp only
  repeat' first
    | with_reducible assumption | with_reducible apply kept_ite | with_reducible apply KeptParts.same
    | with_reducible apply askDesc_kept | with_reducible apply takeCmd_kept | with_reducible apply completeCmd_kept
    | simp only [kept_mk] | split

theorem opWaitTimeout_kept {s₀ : State} {n : ℕ} {s : State} (hk : Kept s₀ s) : Kept s₀ (opWaitTimeout n s) := by
  unfold opWaitTimeout
  try dsimp only
  repeat' first
    | with_reducible assumption | with_reducible apply kept_ite | with_reducible apply completeAmong_kept
    | with_reducible apply takeCmd_kept | split

theorem opNopCommand_kept {s₀ : State} {n : ℕ} {i : W32} {s : State} (hk : Kept s₀ s) : Kept s₀ (opNopCommand n i s) := by
  unfold opNopCommand
  try dsimp only
  repeat' first
    | with_reducible assumption | (intro; try dsimp only) | with_reducible apply onValid_kept
    | with_reducible apply completeCmd_kept

theorem opEvadd_kept {s₀ : State} {n : ℕ} {i : W32} {s : State} (hk : Kept s₀ s) : Kept s₀ (opEvadd n i s) := by
  unfold opEvadd
  try dsimp only
  repeat' first
    | with_reducible assumption | (intro; try dsimp only) | with_reducible apply onValid_kept
    | with_reducible apply completeCmd_kept | with_reducible apply addEvc_kept

theorem launch_kept {s₀ : State} {s : State} {g : ℕ} {resume : Bool} (hk : Kept s₀ s) : Kept s₀ (launch s g resume) := by
  unfold launch
  try dsimp only
  repeat' first
    | with_reducible assumption | with_reducible apply kept_ite | with_reducible apply startTile_kept
    | with_reducible apply setF_kept

theorem readmitFor_kept {s₀ : State} {s : State} {r : Rect} (hk : Kept s₀ s) : Kept s₀ (readmitFor s r) := by
  unfold readmitFor
  try dsimp only
  repeat' first
    | with_reducible assumption | (intro; try dsimp only) | with_reducible apply kept_foldl
    | with_reducible apply kept_ite | with_reducible apply modCq_kept

theorem retryReadmit_kept {s₀ : State} {s : State} (hk : Kept s₀ s) : Kept s₀ (retryReadmit s) := by
  unfold retryReadmit
  try dsimp only
  repeat' first
    | with_reducible assumption | (intro; try dsimp only) | with_reducible apply kept_foldl
    | with_reducible apply kept_ite | with_reducible apply sendRead_kept | with_reducible apply modCq_kept | split

theorem opRun_kept {s₀ : State} {n : ℕ} {i : W32} {s : State} (hk : Kept s₀ s) : Kept s₀ (opRun n i s) := by
  unfold opRun
  try dsimp only
  repeat' first
    | with_reducible assumption | (intro; try dsimp only) | with_reducible apply kept_foldl
    | with_reducible apply onValid_kept | with_reducible apply launch_kept | with_reducible apply modCq_kept
    | with_reducible apply finishRuns_kept | with_reducible apply retryReadmit_kept
    | with_reducible apply readmitFor_kept

theorem opRequest_kept {s₀ : State} {n : ℕ} {i : W32} {s : State} (hk : Kept s₀ s) : Kept s₀ (opRequest n i s) := by
  unfold opRequest
  try dsimp only
  repeat' first
    | with_reducible assumption | with_reducible exact id | (intro; try dsimp only) | with_reducible apply onValid_kept

theorem eventTo_kept {s₀ : State} {s : State} {g : ℕ} {e : ℕ} {v : W32} (hk : Kept s₀ s) : Kept s₀ (eventTo s g e v) := by
  unfold eventTo
  try dsimp only
  repeat' first
    | with_reducible assumption | (intro _ ht; exact Tile.sound_of ht rfl rfl rfl) | with_reducible apply modTile_kept

theorem writeSlip_kept {s₀ : State} {s : State} {n : ℕ} {r : PacedReq} (hk : Kept s₀ s) : Kept s₀ (writeSlip s n r) := by
  unfold writeSlip
  try dsimp only
  repeat' first
    | with_reducible assumption | with_reducible apply memWrite_kept | with_reducible apply eventTo_kept | split

theorem opAdmit_kept {s₀ : State} {n : ℕ} {s : State} (hk : Kept s₀ s) : Kept s₀ (opAdmit n s) := by
  unfold opAdmit
  try dsimp only
  repeat' first
    | with_reducible assumption | with_reducible apply kept_ite | with_reducible apply modCq_kept
    | with_reducible apply checkPaced_kept | with_reducible apply writeSlip_kept | split

theorem flushReadmit_kept {s₀ : State} {s : State} {n : ℕ} {n0 : ℕ} (hk : Kept s₀ s) : Kept s₀ (flushReadmit s n n0) := by
  induction n0 generalizing s n with
  | zero =>
    unfold flushReadmit
    try dsimp only
    repeat' first | with_reducible assumption
  | succ n ih =>
    unfold flushReadmit
    try dsimp only
    repeat' first
      | with_reducible assumption | with_reducible apply ih | with_reducible apply kept_ite
      | with_reducible apply writeSlip_kept | with_reducible apply modCq_kept | split

theorem opIncReceive_kept {s₀ : State} {k : ℕ} {s : State} (hk : Kept s₀ s) : Kept s₀ (opIncReceive k s) := by
  unfold opIncReceive
  try dsimp only
  repeat' first
    | with_reducible assumption | with_reducible apply KeptParts.same | with_reducible apply addEvc_kept
    | simp only [kept_mk] | split

theorem opRecReceive_kept {s₀ : State} {k : ℕ} {s : State} (hk : Kept s₀ s) : Kept s₀ (opRecReceive k s) := by
  unfold opRecReceive
  try dsimp only
  repeat' first
    | with_reducible assumption | with_reducible apply kept_ite | with_reducible apply KeptParts.same
    | with_reducible apply logAbsorbed_kept | with_reducible apply takeRecord_kept | simp only [kept_mk] | split

end Sys2Proof.Machine
end

