-- ==== Sys2Proof/Laws/KeptPours.lean ====
section
/-! SUPPORT. What the functions of Machine/Pours.lean leave alone (Laws/Kept.lean). -/
namespace Sys2Proof.Machine

theorem setUnit_kept {s₀ : State} {s : State} {c : ℕ} {u : PourUnit} (hk : Kept s₀ s) : Kept s₀ (setUnit s c u) := by
  unfold setUnit
  try dsimp only
  repeat' first
    | with_reducible assumption | with_reducible apply KeptParts.same | with_reducible apply setF_kept
    | simp only [kept_mk]

theorem putPour_kept {s₀ : State} {s : State} {c : ℕ} {p : Pour} (hk : Kept s₀ s) : Kept s₀ (putPour s c p) := by
  unfold putPour
  try dsimp only
  repeat' first | with_reducible assumption | with_reducible apply setUnit_kept

theorem dropPour_kept {s₀ : State} {s : State} {c : ℕ} {p : Pour} (hk : Kept s₀ s) : Kept s₀ (dropPour s c p) := by
  unfold dropPour
  try dsimp only
  repeat' first | with_reducible assumption | with_reducible apply setUnit_kept

theorem putDesc_kept {s₀ : State} {s : State} {c : ℕ} {d : DescWrite} (hk : Kept s₀ s) : Kept s₀ (putDesc s c d) := by
  unfold putDesc
  try dsimp only
  repeat' first
    | with_reducible assumption | with_reducible apply readLogical_kept | with_reducible apply writeLogical_kept
    | with_reducible apply setUnit_kept | split

theorem writeDesc_kept {s₀ : State} {s : State} {c : ℕ} {p : Pour} {state : ℕ} {status : ℕ} (hk : Kept s₀ s) : Kept
    s₀ (writeDesc s c p state status) := by
  unfold writeDesc
  try dsimp only
  repeat' first | with_reducible assumption | with_reducible apply putDesc_kept

theorem savePour_kept {s₀ : State} {s : State} {c : ℕ} {p : Pour} {status : ℕ} (hk : Kept s₀ s) : Kept s₀ (savePour s
    c p status) := by
  unfold savePour
  try dsimp only
  repeat' first | with_reducible assumption | with_reducible apply writeDesc_kept | with_reducible apply putPour_kept

theorem enterMark_kept {s₀ s : State} {id status : Nat} {m : Nat × State} (h : Kept s₀ s) (he : enterMark s id status = some m) :
    Kept s₀ m.2 := by
  unfold enterMark at he
  repeat' split at he
  all_goals first | (cases he; done) | (cases he; exact wrReg_kept h) | (cases he; exact h)

theorem fixMark_kept {s₀ : State} {s : State} {p : Pour} {status : ℕ} (hk : Kept s₀ s) : Kept s₀ (fixMark s p status)
    := by
  unfold fixMark
  try dsimp only
  repeat' first | with_reducible assumption | with_reducible apply kept_ite | with_reducible apply setI_kept | split

theorem finishChains_kept {s₀ : State} {s : State} (hk : Kept s₀ s) : Kept s₀ (finishChains s) := by
  unfold finishChains
  try dsimp only
  repeat' first
    | with_reducible assumption | (intro; try dsimp only) | with_reducible apply kept_foldl
    | with_reducible apply KeptParts.same | with_reducible apply completeAmong_kept | simp only [kept_mk]

theorem tellChains_kept {s₀ : State} {s : State} {a : ℕ} {status : ℕ} (hk : Kept s₀ s) : Kept s₀ (tellChains s a
    status) := by
  unfold tellChains
  try dsimp only
  repeat' first
    | with_reducible assumption | with_reducible apply KeptParts.same | with_reducible apply finishChains_kept
    | simp only [kept_mk]

theorem endPour_kept {s₀ : State} {s : State} {c : ℕ} {p : Pour} {cs : List ℕ} (hk : Kept s₀ s) : Kept s₀ (endPour s
    c p cs) := by
  unfold endPour
  try dsimp only
  repeat' first
    | with_reducible assumption | with_reducible apply kept_ite | with_reducible apply writeDesc_kept
    | with_reducible apply fixMark_kept | with_reducible apply logStack_kept | with_reducible apply sendInc_kept
    | with_reducible apply tellChains_kept | with_reducible apply dropPour_kept

theorem closePour_kept {s₀ : State} {s : State} {c : ℕ} {p : Pour} {cs : List ℕ} (hk : Kept s₀ s) : Kept s₀
    (closePour s c p cs) := by
  unfold closePour
  try dsimp only
  repeat' first
    | with_reducible assumption | with_reducible apply kept_ite | with_reducible apply endPour_kept
    | with_reducible apply savePour_kept | split | refine enterMark_kept ?_ (by assumption)

theorem readAt_kept {s₀ : State} {s : State} {c : ℕ} {p : Pour} {x : ℕ × ℕ × ℕ × ℕ} (hk : Kept s₀ s) : Kept s₀
    (readAt s c p x).2.2.2 := by
  unfold readAt
  try dsimp only
  repeat' first
    | with_reducible assumption | with_reducible apply cacheLookup_kept | with_reducible apply countFail_kept
    | with_reducible apply readPiece_kept | with_reducible apply placeBytes_kept | simp only [kept_mk] | split

theorem readChunk_kept {s₀ : State} {s : State} {c : ℕ} {p : Pour} (hk : Kept s₀ s) : Kept s₀ (readChunk s c p).2.2.2
    := by
  unfold readChunk
  try dsimp only
  repeat' first
    | with_reducible assumption | (intro; try dsimp only) | with_reducible apply kept_foldl_last
    | with_reducible apply kept_ite | with_reducible apply readAt_kept | with_reducible apply countF_kept | split

theorem sendChunk_kept {s₀ : State} {s : State} {c : ℕ} {p : Pour} {bs : List Byte} (hk : Kept s₀ s) : Kept s₀
    (sendChunk s c p bs) := by
  unfold sendChunk
  try dsimp only
  repeat' first | with_reducible assumption | with_reducible apply kept_ite | with_reducible apply cresSend_kept

theorem haltPour_kept {s₀ : State} {s : State} {c : ℕ} {p : Pour} {cause : ℕ} {page : ℕ} {status : ℕ} (hk : Kept s₀
    s) : Kept s₀ (haltPour s c p cause page status) := by
  unfold haltPour
  try dsimp only
  repeat' first | with_reducible assumption | with_reducible apply sendRec_kept | with_reducible apply savePour_kept

theorem faultPour_kept {s₀ : State} {s : State} {c : ℕ} {p : Pour} {f : ℕ} {page : ℕ} (hk : Kept s₀ s) : Kept s₀
    (faultPour s c p f page) := by
  unfold faultPour
  try dsimp only
  repeat' first | with_reducible assumption | with_reducible apply haltPour_kept

theorem haltFor_kept {s₀ : State} {s : State} {g : ℕ} (hk : Kept s₀ s) : Kept s₀ (haltFor s g) := by
  unfold haltFor
  try dsimp only
  repeat' first
    | with_reducible assumption | (intro; try dsimp only) | with_reducible apply kept_foldl
    | with_reducible apply kept_ite | with_reducible apply haltPour_kept

theorem lowerCheck_kept {s₀ : State} {s : State} {c : ℕ} {p : Pour} (hk : Kept s₀ s) : Kept s₀ (lowerCheck s c p).2.2
    := by
  unfold lowerCheck
  try dsimp only
  repeat' first
    | with_reducible assumption | with_reducible apply kept_ite_thd | with_reducible apply readLogical_kept
    | with_reducible apply closePour_kept | with_reducible apply faultPour_kept | with_reducible apply countFail_kept
    | split

theorem sendSeals_kept {s₀ : State} {s : State} {c : ℕ} {p : Pour} (hk : Kept s₀ s) : Kept s₀ (sendSeals s c p) := by
  unfold sendSeals
  try dsimp only
  repeat' first
    | with_reducible assumption | (intro; try dsimp only) | with_reducible apply kept_foldl
    | with_reducible apply cresSend_kept

theorem skipPour_kept {s₀ : State} {s : State} {c : ℕ} {p : Pour} (hk : Kept s₀ s) : Kept s₀ (skipPour s c p) := by
  unfold skipPour
  try dsimp only
  repeat' first
    | with_reducible assumption | with_reducible apply kept_ite | with_reducible apply endPour_kept
    | with_reducible apply sendSeals_kept | with_reducible apply savePour_kept | split
    | refine enterMark_kept ?_ (by assumption)

theorem lowerPour_kept {s₀ : State} {s : State} {c : ℕ} {p : Pour} (hk : Kept s₀ s) : Kept s₀ (lowerPour s c p) := by
  unfold lowerPour
  try dsimp only
  repeat' first
    | with_reducible assumption | with_reducible apply kept_ite | with_reducible apply savePour_kept | split
    | refine enterMark_kept ?_ (by assumption)

theorem beginPour_kept {s₀ : State} {s : State} {c : ℕ} {p : Pour} (hk : Kept s₀ s) : Kept s₀ (beginPour s c p) := by
  unfold beginPour
  try dsimp only
  repeat' first
    | with_reducible assumption | with_reducible apply kept_ite | with_reducible apply lowerCheck_kept
    | with_reducible apply lowerPour_kept | with_reducible apply savePour_kept | split

theorem fallBack_kept {s₀ : State} {s : State} {c : ℕ} {p : Pour} (hk : Kept s₀ s) : Kept s₀ (fallBack s c p) := by
  unfold fallBack
  try dsimp only
  repeat' first
    | with_reducible assumption | with_reducible apply kept_ite | with_reducible apply savePour_kept
    | with_reducible apply beginPour_kept | with_reducible apply closePour_kept | with_reducible apply sendInc_kept
    | with_reducible apply skipPour_kept | split

theorem opPour_kept {s₀ : State} {n : ℕ} {i : W32} {s : State} (hk : Kept s₀ s) : Kept s₀ (opPour n i s) := by
  unfold opPour
  try dsimp only
  repeat' first
    | with_reducible assumption | (intro; try dsimp only) | with_reducible apply KeptParts.same
    | with_reducible apply onValid_kept | simp only [kept_mk]

theorem resumePour_kept {s₀ : State} {s : State} {c : ℕ} {p : Pour} {ws : List ℕ} (hk : Kept s₀ s) : Kept s₀
    (resumePour s c p ws) := by
  unfold resumePour
  try dsimp only
  repeat' first
    | with_reducible assumption | with_reducible apply kept_ite | with_reducible apply fallBack_kept
    | with_reducible apply beginPour_kept | with_reducible apply savePour_kept

theorem resumeDue_kept {s₀ : State} {s : State} {c : ℕ} {p : Pour} (hk : Kept s₀ s) : Kept s₀ (resumeDue s c p) := by
  unfold resumeDue
  try dsimp only
  repeat' first
    | with_reducible assumption | with_reducible apply readLogical_kept | with_reducible apply resumePour_kept
    | with_reducible apply putPour_kept | split

theorem flushDescs_kept {s₀ : State} {s : State} (hk : Kept s₀ s) : Kept s₀ (flushDescs s) := by
  unfold flushDescs
  try dsimp only
  repeat' first
    | with_reducible assumption | (intro; try dsimp only) | with_reducible apply kept_foldl
    | with_reducible apply kept_ite | with_reducible apply putDesc_kept | with_reducible apply resumeDue_kept

theorem modChain_kept {s₀ : State} {s : State} {k : ℕ} {f : PourChain → PourChain} (hk : Kept s₀ s) : Kept s₀
    (modChain s k f) := by
  unfold modChain
  try dsimp only
  repeat' first | with_reducible assumption | with_reducible apply KeptParts.same | simp only [kept_mk]

theorem takeDesc_kept {s₀ : State} {s : State} {c : ℕ} {k : ℕ} {p : Pour} (hk : Kept s₀ s) : Kept s₀ (takeDesc s c k
    p) := by
  unfold takeDesc
  try dsimp only
  repeat' first
    | with_reducible assumption | with_reducible apply kept_ite | with_reducible apply modChain_kept
    | with_reducible apply setUnit_kept | with_reducible apply closePour_kept | with_reducible apply savePour_kept

theorem opDescRead_kept {s₀ : State} {c : ℕ} {k : ℕ} {s : State} (hk : Kept s₀ s) : Kept s₀ (opDescRead c k s) := by
  unfold opDescRead
  try dsimp only
  repeat' first
    | with_reducible assumption | with_reducible apply kept_ite | with_reducible apply readLogical_kept
    | with_reducible apply modChain_kept | with_reducible apply resumePour_kept | with_reducible apply takeDesc_kept
    | with_reducible apply finishChains_kept | with_reducible apply countFail_kept | split

theorem opPourStart_kept {s₀ : State} {c : ℕ} {k : ℕ} {s : State} (hk : Kept s₀ s) : Kept s₀ (opPourStart c k s) := by
  unfold opPourStart
  try dsimp only
  repeat' first | with_reducible assumption | with_reducible apply kept_ite | with_reducible apply beginPour_kept | split

theorem opChunkIssue_kept {s₀ : State} {c : ℕ} {k : ℕ} {s : State} (hk : Kept s₀ s) : Kept s₀ (opChunkIssue c k s) := by
  unfold opChunkIssue
  try dsimp only
  repeat' first
    | with_reducible assumption | (intro; try dsimp only) | with_reducible apply kept_foldl
    | with_reducible apply kept_ite | with_reducible apply sendFar_kept | with_reducible apply readChunk_kept
    | with_reducible apply closePour_kept | with_reducible apply savePour_kept | with_reducible apply sendChunk_kept
    | with_reducible apply putPour_kept | with_reducible apply faultPour_kept | split

theorem opPourComplete_kept {s₀ : State} {c : ℕ} {k : ℕ} {s : State} (hk : Kept s₀ s) : Kept s₀ (opPourComplete c k
    s) := by
  unfold opPourComplete
  try dsimp only
  repeat' first | with_reducible assumption | with_reducible apply kept_ite | with_reducible apply closePour_kept | split

theorem opDeadlineMiss_kept {s₀ : State} {c : ℕ} {k : ℕ} {s : State} (hk : Kept s₀ s) : Kept s₀ (opDeadlineMiss c k
    s) := by
  unfold opDeadlineMiss
  try dsimp only
  repeat' first
    | with_reducible assumption | with_reducible apply kept_ite | with_reducible apply countF_kept
    | with_reducible apply putPour_kept | with_reducible apply fallBack_kept | split

theorem opPourStop_kept {s₀ : State} {c : ℕ} {a : ℕ} {s : State} (hk : Kept s₀ s) : Kept s₀ (opPourStop c a s) := by
  unfold opPourStop
  try dsimp only
  repeat' first
    | with_reducible assumption | with_reducible apply kept_ite | with_reducible apply setF_kept
    | with_reducible apply haltPour_kept | split

theorem releaseHeld_kept {s₀ : State} {s : State} (hk : Kept s₀ s) : Kept s₀ (releaseHeld s) := by
  unfold releaseHeld
  try dsimp only
  repeat' first
    | with_reducible assumption | (intro; try dsimp only) | with_reducible apply kept_foldl
    | with_reducible apply kept_ite | with_reducible apply putPour_kept | with_reducible apply skipPour_kept
    | with_reducible apply closePour_kept | split | refine enterMark_kept ?_ (by assumption)

theorem opMarkClear_kept {s₀ : State} {k : ℕ} {s : State} (hk : Kept s₀ s) : Kept s₀ (opMarkClear k s) := by
  unfold opMarkClear
  try dsimp only
  repeat' first | with_reducible assumption | with_reducible apply releaseHeld_kept | with_reducible apply setI_kept

theorem resumeFenced_kept {s₀ : State} {s : State} (hk : Kept s₀ s) : Kept s₀ (resumeFenced s) := by
  unfold resumeFenced
  try dsimp only
  repeat' first
    | with_reducible assumption | (intro; try dsimp only) | with_reducible apply kept_foldl
    | with_reducible apply kept_ite | with_reducible apply resumeDue_kept

end Sys2Proof.Machine
end

