-- ==== Sys2Proof/Laws/KeptSurfOps.lean ====
section
/-! SUPPORT. What the functions of Machine/SurfOps.lean leave alone (Laws/Kept.lean). -/
namespace Sys2Proof.Machine

theorem setSub_kept {s₀ : State} {s : State} {f : ℕ} {k : ℕ} {b : Sub} (hk : Kept s₀ s) : Kept s₀ (setSub s f k b) := by
  unfold setSub
  try dsimp only
  repeat' first | with_reducible assumption | with_reducible apply KeptParts.same | simp only [kept_mk]

theorem portResetDone_kept {s₀ : State} {s : State} {kind : ℕ} {p : ℕ} (hk : Kept s₀ s) : Kept s₀ (portResetDone s
    kind p) := by
  unfold portResetDone
  try dsimp only
  repeat' first
    | with_reducible assumption | with_reducible apply kept_ite | with_reducible apply sendRec_kept
    | with_reducible apply setF_kept

theorem pushSub_kept {s₀ : State} {s : State} {f : ℕ} {k : ℕ} {x : SurfPkt} (hk : Kept s₀ s) : Kept s₀ (pushSub s f k
    x) := by
  unfold pushSub
  try dsimp only
  repeat' first | with_reducible assumption | with_reducible apply kept_ite | with_reducible apply setSub_kept

theorem sendSurf_kept {s₀ : State} {s : State} {f : ℕ} {k : ℕ} {x : SurfPkt} (hk : Kept s₀ s) : Kept s₀ (sendSurf s f
    k x) := by
  unfold sendSurf
  try dsimp only
  repeat' first | with_reducible assumption | with_reducible apply pushSub_kept | with_reducible apply setSub_kept | split

theorem creditFlit_kept {s₀ : State} {s : State} {f : ℕ} {k : ℕ} {c : ℕ} (hk : Kept s₀ s) : Kept s₀ (creditFlit s f k
    c) := by
  unfold creditFlit
  try dsimp only
  repeat' first | with_reducible assumption | with_reducible apply setSub_kept

theorem returnCredits_kept {s₀ : State} {s : State} {f : ℕ} {k : ℕ} {c : ℕ} {n : ℕ} (hk : Kept s₀ s) : Kept s₀
    (returnCredits s f k c n) := by
  unfold returnCredits
  try dsimp only
  repeat' first | with_reducible assumption | with_reducible apply setSub_kept

end Sys2Proof.Machine
end

