-- ==== Sys2Proof/Laws/KeptCollOps.lean ====
section
/-! SUPPORT. What the functions of Machine/CollOps.lean leave alone (Laws/Kept.lean). -/
namespace Sys2Proof.Machine

theorem setChan_kept {s₀ : State} {s : State} {c : ℕ} {x : Option Chan} (hk : Kept s₀ s) : Kept s₀ (setChan s c x) := by
  unfold setChan
  try dsimp only
  repeat' first | with_reducible assumption | with_reducible apply KeptParts.same | simp only [kept_mk]

theorem modChan_kept {s₀ : State} {s : State} {c : ℕ} {f : Chan → Chan} (hk : Kept s₀ s) : Kept s₀ (modChan s c f) := by
  unfold modChan
  try dsimp only
  repeat' first | with_reducible assumption | with_reducible apply setChan_kept | split

theorem portLookup_kept {s₀ : State} {s : State} {c : ℕ} {a : ℕ} {n : ℕ} (hk : Kept s₀ s) : Kept s₀ (portLookup s c a
    n) := by
  unfold portLookup
  try dsimp only
  repeat' first
    | with_reducible assumption | (intro; try dsimp only) | with_reducible apply kept_foldl
    | with_reducible apply cacheLookup_kept

theorem portFail_kept {s₀ : State} {s : State} {c : ℕ} {f : ℕ} {page : ℕ} (hk : Kept s₀ s) : Kept s₀ (portFail s c f
    page) := by
  unfold portFail
  try dsimp only
  repeat' first | with_reducible assumption | with_reducible apply sendRec_kept | with_reducible apply countFail_kept

theorem portRead_kept {s₀ : State} {s : State} {a : ℕ} {n : ℕ} {c : optParam ℕ 0} (hk : Kept s₀ s) : Kept s₀
    (portRead s a n c).2.2 := by
  unfold portRead
  try dsimp only
  repeat' first
    | with_reducible assumption | with_reducible apply kept_ite_thd | with_reducible apply portLookup_kept
    | with_reducible apply readLogical_kept | with_reducible apply portFail_kept

theorem portWrite_kept {s₀ : State} {s : State} {a : ℕ} {bs : List Byte} {c : optParam ℕ 0} (hk : Kept s₀ s) : Kept
    s₀ (portWrite s a bs c).2 := by
  unfold portWrite
  try dsimp only
  repeat' first
    | with_reducible assumption | with_reducible apply kept_ite_snd | with_reducible apply portLookup_kept
    | with_reducible apply writeLogical_kept | with_reducible apply portFail_kept

theorem retEntry_kept {s₀ : State} {s : State} {rank : ℕ} (hk : Kept s₀ s) : Kept s₀ (retEntry s rank).2.2 := by
  unfold retEntry
  try dsimp only
  repeat' first
    | with_reducible assumption | with_reducible apply kept_ite_thd | with_reducible apply KeptParts.same
    | with_reducible apply portRead_kept | simp only [kept_mk] | split

theorem pathTo_kept {s₀ : State} {s : State} {rank : ℕ} {ch : ℕ} (hk : Kept s₀ s) : Kept s₀ (pathTo s rank ch).2 := by
  unfold pathTo
  try dsimp only
  repeat' first
    | with_reducible assumption | with_reducible apply kept_ite_snd | with_reducible apply retEntry_kept
    | with_reducible apply countF_kept

theorem sendPath_kept {s₀ : State} {s : State} {x : Path} {p : Penn} (hk : Kept s₀ s) : Kept s₀ (sendPath s x p) := by
  unfold sendPath
  try dsimp only
  repeat' first
    | with_reducible assumption | with_reducible apply sendSurf_kept | with_reducible apply modConn_kept
    | with_reducible apply startOut_kept | split

theorem sendRank_kept {s₀ : State} {s : State} {rank : ℕ} {p : Penn} (hk : Kept s₀ s) : Kept s₀ (sendRank s rank p).2
    := by
  unfold sendRank
  try dsimp only
  repeat' first
    | with_reducible assumption | with_reducible apply pathTo_kept | with_reducible apply sendPath_kept | split

theorem sendBack_kept {s₀ : State} {s : State} {v : Via} {p : Penn} (hk : Kept s₀ s) : Kept s₀ (sendBack s v p) := by
  unfold sendBack
  try dsimp only
  repeat' first | with_reducible assumption | with_reducible apply sendPath_kept | split

theorem sendMember_kept {s₀ : State} {s : State} {x : Chan} {m : ℕ} {p : Penn} (hk : Kept s₀ s) : Kept s₀ (sendMember
    s x m p) := by
  unfold sendMember
  try dsimp only
  repeat' first | with_reducible assumption | with_reducible apply sendRank_kept

theorem sendLive_kept {s₀ : State} {s : State} {x : Chan} {p : Penn} (hk : Kept s₀ s) : Kept s₀ (sendLive s x p) := by
  unfold sendLive
  try dsimp only
  repeat' first
    | with_reducible assumption | (intro; try dsimp only) | with_reducible apply kept_foldl
    | with_reducible apply sendMember_kept

theorem readGroup_kept {s₀ : State} {s : State} {a : ℕ} (hk : Kept s₀ s) : Kept s₀ (readGroup s a).2.2 := by
  unfold readGroup
  try dsimp only
  repeat' first | with_reducible assumption | with_reducible apply kept_ite_thd | with_reducible apply portRead_kept

theorem knownGroup_kept {s₀ : State} {s : State} {id : ℕ} (hk : Kept s₀ s) : Kept s₀ (knownGroup s id).2.2 := by
  unfold knownGroup
  try dsimp only
  repeat' first
    | with_reducible assumption | (intro; try dsimp only) | with_reducible apply kept_foldl_thd
    | with_reducible apply kept_ite_thd | with_reducible apply readGroup_kept

theorem updateWaits_kept {s₀ : State} {s : State} {c : ℕ} (hk : Kept s₀ s) : Kept s₀ (updateWaits s c) := by
  unfold updateWaits
  try dsimp only
  repeat' first | with_reducible assumption | with_reducible apply setChan_kept | split

theorem heard_kept {s₀ : State} {s : State} {c : ℕ} {m : ℕ} (hk : Kept s₀ s) : Kept s₀ (heard s c m) := by
  unfold heard
  try dsimp only
  repeat' first | with_reducible assumption | with_reducible apply modChan_kept

theorem modWait_kept {s₀ : State} {s : State} {c : ℕ} {m : ℕ} {f : CWait → CWait} (hk : Kept s₀ s) : Kept s₀ (modWait
    s c m f) := by
  unfold modWait
  try dsimp only
  repeat' first | with_reducible assumption | with_reducible apply modChan_kept

theorem showChan_kept {s₀ : State} {s : State} {c : ℕ} (hk : Kept s₀ s) : Kept s₀ (showChan s c) := by
  unfold showChan
  try dsimp only
  repeat' first | with_reducible assumption | with_reducible apply wrReg_kept | split

theorem giveCredit_kept {s₀ : State} {s : State} {k : Credit} (hk : Kept s₀ s) : Kept s₀ (giveCredit s k) := by
  unfold giveCredit
  try dsimp only
  repeat' first | with_reducible assumption | with_reducible apply creditFlit_kept | split

theorem dropAdders_kept {s₀ : State} {s : State} {c : ℕ} (hk : Kept s₀ s) : Kept s₀ (dropAdders s c) := by
  unfold dropAdders
  try dsimp only
  repeat' first
    | with_reducible assumption | (intro; try dsimp only) | with_reducible apply kept_foldl
    | with_reducible apply KeptParts.same | with_reducible apply giveCredit_kept | simp only [kept_mk]

theorem endCollAs_kept {s₀ : State} {s : State} {c : ℕ} {best : ℕ} {cs : List ℕ} (hk : Kept s₀ s) : Kept s₀
    (endCollAs s c best cs) := by
  unfold endCollAs
  try dsimp only
  repeat' first
    | with_reducible assumption | with_reducible apply completeIdx_kept | with_reducible apply logPort_kept
    | with_reducible apply showChan_kept | with_reducible apply dropAdders_kept | with_reducible apply setChan_kept
    | split

theorem endColl_kept {s₀ : State} {s : State} {c : ℕ} {cs : List ℕ} (hk : Kept s₀ s) : Kept s₀ (endColl s c cs) := by
  unfold endColl
  try dsimp only
  repeat' first | with_reducible assumption | with_reducible apply endCollAs_kept

theorem failColl_kept {s₀ : State} {s : State} {c : ℕ} {status : ℕ} (hk : Kept s₀ s) : Kept s₀ (failColl s c status) := by
  unfold failColl
  try dsimp only
  repeat' first
    | with_reducible assumption | with_reducible apply endCollAs_kept | with_reducible apply sendLive_kept | split

theorem mismatch_kept {s₀ : State} {s : State} {c : ℕ} {y : Penn} {v : Via} {other : Option (GroupRef × Group)} (hk :
    Kept s₀ s) : Kept s₀ (mismatch s c y v other) := by
  unfold mismatch
  try dsimp only
  repeat' first
    | with_reducible assumption | (intro; try dsimp only) | with_reducible apply kept_foldl
    | with_reducible apply sendRec_kept | with_reducible apply countF_kept | with_reducible apply sendRank_kept
    | with_reducible apply sendBack_kept | with_reducible apply failColl_kept | split

theorem noteRequest_kept {s₀ : State} {s : State} {group : ℕ} {g : ℕ} {excl : List ℕ} (hk : Kept s₀ s) : Kept s₀
    (noteRequest s group g excl).1 := by
  unfold noteRequest
  try dsimp only
  repeat' first | with_reducible assumption | with_reducible apply KeptParts.same | simp only [kept_mk] | split

theorem askReform_kept {s₀ : State} {s : State} {base : Penn} {live : List ℕ} {ranks : List ℕ} {excl : List ℕ} {after
    : Option ℕ} (hk : Kept s₀ s) : Kept s₀ (askReform s base live ranks excl after) := by
  unfold askReform
  try dsimp only
  repeat' first
    | with_reducible assumption | with_reducible apply kept_ite | with_reducible apply KeptParts.same
    | with_reducible apply noteRequest_kept | with_reducible apply sendRank_kept | simp only [kept_mk] | split

theorem requestReform_kept {s₀ : State} {s : State} {x : Chan} {excl : List ℕ} (hk : Kept s₀ s) : Kept s₀
    (requestReform s x excl) := by
  unfold requestReform
  try dsimp only
  repeat' first | with_reducible assumption | with_reducible apply askReform_kept

theorem declareFailed_kept {s₀ : State} {s : State} {c : ℕ} {m : ℕ} {reason : ℕ} (hk : Kept s₀ s) : Kept s₀
    (declareFailed s c m reason) := by
  unfold declareFailed
  try dsimp only
  repeat' first
    | with_reducible assumption | with_reducible apply sendRec_kept | with_reducible apply countF_kept
    | with_reducible apply modChan_kept | with_reducible apply requestReform_kept | split

end Sys2Proof.Machine
end

