-- ==== Sys2Proof/Laws/KeptCollectives.lean ====
section
/-! SUPPORT. What the functions of Machine/Collectives.lean leave alone (Laws/Kept.lean). -/
namespace Sys2Proof.Machine

theorem setAdder_kept {s₀ : State} {s : State} {a : ℕ} {x : Adder} (hk : Kept s₀ s) : Kept s₀ (setAdder s a x) := by
  unfold setAdder
  try dsimp only
  repeat' first | with_reducible assumption | with_reducible apply KeptParts.same | simp only [kept_mk]

theorem ownBlock_kept {s₀ : State} {s : State} {x : Chan} {seg : ℕ} {b : ℕ} (hk : Kept s₀ s) : Kept s₀ (ownBlock s x
    seg b).2.2 := by
  unfold ownBlock
  try dsimp only
  repeat' first | with_reducible assumption | with_reducible apply portRead_kept

theorem reportCombine_kept {s₀ : State} {s : State} {a : ℕ} {c : ℕ} {seg : ℕ} {ins : List (ℕ × Block)} {r : Combined}
    (hk : Kept s₀ s) : Kept s₀ (reportCombine s a c seg ins r) := by
  unfold reportCombine
  try dsimp only
  repeat' first
    | with_reducible assumption | with_reducible apply kept_ite | with_reducible apply countF_kept
    | with_reducible apply modChan_kept | with_reducible apply sendRec_kept

theorem sendUp_kept {s₀ : State} {s : State} {x : Chan} {seg : ℕ} {low : ℕ} {contrib : ℕ} {bs : List Block} (hk :
    Kept s₀ s) : Kept s₀ (sendUp s x seg low contrib bs) := by
  unfold sendUp
  try dsimp only
  repeat' first | with_reducible assumption | with_reducible apply sendMember_kept | split

theorem ownerWrite_kept {s₀ : State} {s : State} {x : Chan} {seg : ℕ} {b : Block} (hk : Kept s₀ s) : Kept s₀
    (ownerWrite s x seg b).2 := by
  unfold ownerWrite
  try dsimp only
  repeat' first
    | with_reducible assumption | with_reducible apply kept_ite_snd | with_reducible apply portWrite_kept
    | with_reducible apply modChan_kept

theorem markEmitted_kept {s₀ : State} {s : State} {x : Chan} {a : ℕ} {seg : ℕ} {b : ℕ} (hk : Kept s₀ s) : Kept s₀
    (markEmitted s x a seg b) := by
  unfold markEmitted
  try dsimp only
  repeat' first | with_reducible assumption | with_reducible apply kept_ite | with_reducible apply modChan_kept

theorem sendLeaf_kept {s₀ : State} {s : State} {x : Chan} {seg : ℕ} {n0 : ℕ} (hk : Kept s₀ s) : Kept s₀ (sendLeaf s x
    seg n0).2 := by
  induction n0 generalizing s x seg with
  | zero =>
    unfold sendLeaf
    try dsimp only
    repeat' first | with_reducible assumption
  | succ n ih =>
    unfold sendLeaf
    try dsimp only
    repeat' first
      | with_reducible assumption | with_reducible apply ih | with_reducible apply kept_ite_snd
      | with_reducible apply portRead_kept | with_reducible apply sendUp_kept | with_reducible apply modChan_kept | split

theorem sendLeaves_kept {s₀ : State} {s : State} {x : Chan} (hk : Kept s₀ s) : Kept s₀ (sendLeaves s x).2 := by
  unfold sendLeaves
  try dsimp only
  repeat' first
    | with_reducible assumption | (intro; try dsimp only) | with_reducible apply kept_foldl_snd
    | with_reducible apply kept_ite_snd | with_reducible apply sendLeaf_kept

theorem feedChild_kept {s₀ : State} {s : State} {c : ℕ} {m : ℕ} {seg : ℕ} {n0 : ℕ} (hk : Kept s₀ s) : Kept s₀
    (feedChild s c m seg n0).2 := by
  induction n0 generalizing s c m seg with
  | zero =>
    unfold feedChild
    try dsimp only
    repeat' first | with_reducible assumption
  | succ n ih =>
    unfold feedChild
    try dsimp only
    repeat' first
      | with_reducible assumption | with_reducible apply ih | with_reducible apply kept_ite_snd
      | with_reducible apply kept_ite_thd | with_reducible apply setChan_kept | with_reducible apply portRead_kept
      | with_reducible apply sendMember_kept | with_reducible apply modChan_kept | split

theorem feedAll_kept {s₀ : State} {s : State} {x : Chan} (hk : Kept s₀ s) : Kept s₀ (feedAll s x).2 := by
  unfold feedAll
  try dsimp only
  repeat' first
    | with_reducible assumption | (intro; try dsimp only) | with_reducible apply kept_foldl_snd
    | with_reducible apply kept_ite_snd | with_reducible apply feedChild_kept

theorem barrierStep_kept {s₀ : State} {s : State} {c : ℕ} (hk : Kept s₀ s) : Kept s₀ (barrierStep s c) := by
  unfold barrierStep
  try dsimp only
  repeat' first
    | with_reducible assumption | (intro; try dsimp only) | with_reducible apply kept_foldl
    | with_reducible apply kept_ite | with_reducible apply sendMember_kept | with_reducible apply endColl_kept
    | with_reducible apply modChan_kept | split

theorem pump_kept {s₀ : State} {s : State} {c : ℕ} (hk : Kept s₀ s) : Kept s₀ (pump s c) := by
  unfold pump
  try dsimp only
  repeat' first
    | with_reducible assumption | with_reducible apply kept_ite | with_reducible apply kept_ite_snd
    | with_reducible apply updateWaits_kept | with_reducible apply sendLeaves_kept | with_reducible apply feedAll_kept
    | with_reducible apply failColl_kept | with_reducible apply barrierStep_kept | split

theorem pumpAll_kept {s₀ : State} {s : State} (hk : Kept s₀ s) : Kept s₀ (pumpAll s) := by
  unfold pumpAll
  try dsimp only
  repeat' first
    | with_reducible assumption | (intro; try dsimp only) | with_reducible apply kept_foldl
    | with_reducible apply pump_kept

theorem readTree_kept {s₀ : State} {s : State} {a : ℕ} {n : ℕ} (hk : Kept s₀ s) : Kept s₀ (readTree s a n).2.2 := by
  unfold readTree
  try dsimp only
  repeat' first | with_reducible assumption | with_reducible apply portRead_kept

theorem takeEarly_kept {s₀ : State} {s : State} {c : ℕ} (hk : Kept s₀ s) : Kept s₀ (takeEarly s c) := by
  unfold takeEarly
  try dsimp only
  repeat' first | with_reducible assumption | with_reducible apply KeptParts.same | simp only [kept_mk] | split

theorem loadRanks_kept {s₀ : State} {s : State} {l : List ℕ} (hk : Kept s₀ s) : Kept s₀ (loadRanks s l).2 := by
  unfold loadRanks
  try dsimp only
  repeat' first
    | with_reducible assumption | (intro; try dsimp only) | with_reducible apply kept_foldl_snd
    | with_reducible apply kept_ite_snd | with_reducible apply retEntry_kept

theorem bindColl_kept {s₀ : State} {s : State} {x : Chan} (hk : Kept s₀ s) : Kept s₀ (bindColl s x) := by
  unfold bindColl
  try dsimp only
  repeat' first
    | with_reducible assumption | with_reducible apply KeptParts.same | with_reducible apply setChan_kept
    | with_reducible apply pump_kept | with_reducible apply takeEarly_kept | with_reducible apply showChan_kept
    | simp only [kept_mk]

theorem takeCseq_kept {s₀ : State} {s : State} {x : Chan} (hk : Kept s₀ s) : Kept s₀ (takeCseq s x) := by
  unfold takeCseq
  try dsimp only
  repeat' first | with_reducible assumption | with_reducible apply portWrite_kept

theorem startColl_kept {s₀ : State} {s : State} {x : Chan} {c : Cmd} {fail : ℕ} (hk : Kept s₀ s) : Kept s₀ (startColl
    s x c fail) := by
  unfold startColl
  try dsimp only
  repeat' first
    | with_reducible assumption | with_reducible apply kept_ite | with_reducible apply KeptParts.same
    | with_reducible apply takeCseq_kept | with_reducible apply completeCmd_kept | with_reducible apply failColl_kept
    | with_reducible apply setChan_kept | with_reducible apply bindColl_kept | with_reducible apply markRun_kept
    | simp only [kept_mk] | split

theorem opColl_kept {s₀ : State} {op : ℕ} {n : ℕ} {i : W32} {s : State} (hk : Kept s₀ s) : Kept s₀ (opColl op n i s) := by
  unfold opColl
  try dsimp only
  repeat' first
    | with_reducible assumption | (intro; try dsimp only) | with_reducible apply kept_ite_snd
    | with_reducible apply onValid_kept | with_reducible apply readGroup_kept | with_reducible apply completeCmd_kept
    | with_reducible apply readTree_kept | with_reducible apply loadRanks_kept | with_reducible apply startColl_kept
    | split

theorem removePenn_kept {s₀ : State} {s : State} {k : ℕ} (hk : Kept s₀ s) : Kept s₀ (removePenn s k) := by
  unfold removePenn
  try dsimp only
  repeat' first | with_reducible assumption | with_reducible apply KeptParts.same | simp only [kept_mk]

theorem takePenn_kept {s₀ : State} {s : State} {k : ℕ} (hk : Kept s₀ s) : Kept s₀ (takePenn s k) := by
  unfold takePenn
  try dsimp only
  repeat' first
    | with_reducible assumption | with_reducible apply creditFlit_kept | with_reducible apply removePenn_kept | split

theorem keepEarly_kept {s₀ : State} {s : State} {k : ℕ} {e : Penn × Via} (hk : Kept s₀ s) : Kept s₀ (keepEarly s k e)
    := by
  unfold keepEarly
  try dsimp only
  repeat' first
    | with_reducible assumption | with_reducible apply kept_ite | with_reducible apply KeptParts.same
    | simp only [kept_mk]

theorem reduceData_kept {s₀ : State} {s : State} {x : Chan} {p : Penn} {v : Via} (hk : Kept s₀ s) : Kept s₀
    (reduceData s x p v) := by
  unfold reduceData
  try dsimp only
  repeat' first
    | with_reducible assumption | with_reducible apply kept_ite | with_reducible apply giveCredit_kept
    | with_reducible apply setAdder_kept | split

theorem landBlock_kept {s₀ : State} {s : State} {x : Chan} {p : Penn} {b : ℕ} {bs : List Byte} (hk : Kept s₀ s) :
    Kept s₀ (landBlock s x p b bs).2 := by
  unfold landBlock
  try dsimp only
  repeat' first
    | with_reducible assumption | with_reducible apply kept_ite_snd | with_reducible apply portWrite_kept
    | with_reducible apply modChan_kept | with_reducible apply sendMember_kept

theorem landBlocks_kept {s₀ : State} {s : State} {c : ℕ} {p : Penn} {n0 : ℕ} {n1 : ℕ} {n2 : List Byte} (hk : Kept s₀
    s) : Kept s₀ (landBlocks s c p n0 n1 n2).2 := by
  induction n0 generalizing s c p n1 n2 with
  | zero =>
    unfold landBlocks
    try dsimp only
    repeat' first
      | with_reducible assumption | with_reducible apply kept_ite_snd | with_reducible apply portWrite_kept
      | with_reducible apply modChan_kept | split
  | succ n ih =>
    unfold landBlocks
    try dsimp only
    repeat' first
      | with_reducible assumption | with_reducible apply ih | with_reducible apply kept_ite_snd
      | with_reducible apply landBlock_kept | split

theorem foundMismatch_kept {s₀ : State} {s : State} {k : ℕ} {c : ℕ} {p : Penn} {v : Via} (hk : Kept s₀ s) : Kept s₀
    (foundMismatch s k c p v) := by
  unfold foundMismatch
  try dsimp only
  repeat' first
    | with_reducible assumption | with_reducible apply kept_ite | with_reducible apply knownGroup_kept
    | with_reducible apply mismatch_kept | with_reducible apply takePenn_kept

theorem opData_kept {s₀ : State} {k : ℕ} {s : State} (hk : Kept s₀ s) : Kept s₀ (opData k s) := by
  unfold opData
  try dsimp only
  repeat' first
    | with_reducible assumption | with_reducible apply kept_ite | with_reducible apply keepEarly_kept
    | with_reducible apply countF_kept | with_reducible apply takePenn_kept | with_reducible apply updateWaits_kept
    | with_reducible apply reduceData_kept | with_reducible apply heard_kept | with_reducible apply removePenn_kept
    | with_reducible apply landBlocks_kept | with_reducible apply failColl_kept | with_reducible apply pump_kept
    | with_reducible apply foundMismatch_kept | split

theorem opAdderReceive_kept {s₀ : State} {a : ℕ} {k : ℕ} {s : State} (hk : Kept s₀ s) : Kept s₀ (opAdderReceive a k
    s) := by
  unfold opAdderReceive
  try dsimp only
  repeat' first
    | with_reducible assumption | with_reducible apply kept_ite | with_reducible apply setAdder_kept
    | with_reducible apply failColl_kept | with_reducible apply giveCredit_kept | with_reducible apply updateWaits_kept
    | split

theorem cascade_kept {s₀ : State} {s : State} {a : ℕ} {c : ℕ} {seg : ℕ} {n0 : ℕ} {n1 : ℕ} {n2 : List (ℕ × Block)} (hk
    : Kept s₀ s) : Kept s₀ (cascade s a c seg n0 n1 n2).2 := by
  induction n0 generalizing s a c seg n1 n2 with
  | zero =>
    unfold cascade
    try dsimp only
    repeat' first | with_reducible assumption
  | succ n ih =>
    unfold cascade
    try dsimp only
    repeat' first
      | with_reducible assumption | with_reducible apply ih | with_reducible apply kept_ite_snd
      | with_reducible apply reportCombine_kept

theorem emitBlock_kept {s₀ : State} {s : State} {a : ℕ} {x : Chan} {seg : ℕ} {b : ℕ} {low : ℕ} {contrib : ℕ} {out :
    Block} (hk : Kept s₀ s) : Kept s₀ (emitBlock s a x seg b low contrib out) := by
  unfold emitBlock
  try dsimp only
  repeat' first
    | with_reducible assumption | with_reducible apply kept_ite | with_reducible apply ownerWrite_kept
    | with_reducible apply failColl_kept | with_reducible apply pump_kept | with_reducible apply markEmitted_kept
    | with_reducible apply sendUp_kept

theorem opAdderCombine_kept {s₀ : State} {a : ℕ} {s : State} (hk : Kept s₀ s) : Kept s₀ (opAdderCombine a s) := by
  unfold opAdderCombine
  try dsimp only
  repeat' first
    | with_reducible assumption | (intro; try dsimp only) | with_reducible apply kept_foldl
    | with_reducible apply kept_ite | with_reducible apply kept_ite_thd | with_reducible apply ownBlock_kept
    | with_reducible apply failColl_kept | with_reducible apply setAdder_kept | with_reducible apply giveCredit_kept
    | with_reducible apply cascade_kept | with_reducible apply reportCombine_kept | with_reducible apply emitBlock_kept
    | split

theorem opAck_kept {s₀ : State} {k : ℕ} {s : State} (hk : Kept s₀ s) : Kept s₀ (opAck k s) := by
  unfold opAck
  try dsimp only
  repeat' first
    | with_reducible assumption | with_reducible apply kept_ite | with_reducible apply takePenn_kept
    | with_reducible apply heard_kept | with_reducible apply pump_kept | with_reducible apply modChan_kept | split

theorem idleState_kept {s₀ : State} {s : State} {p : Penn} {g : Option (GroupRef × Group)} (hk : Kept s₀ s) : Kept s₀
    (idleState s p g).2 := by
  unfold idleState
  try dsimp only
  repeat' first | with_reducible assumption | with_reducible apply KeptParts.same | simp only [kept_mk] | split

theorem opQuery_kept {s₀ : State} {k : ℕ} {s : State} (hk : Kept s₀ s) : Kept s₀ (opQuery k s) := by
  unfold opQuery
  try dsimp only
  repeat' first
    | with_reducible assumption | with_reducible apply kept_ite | with_reducible apply sendBack_kept
    | with_reducible apply takePenn_kept | with_reducible apply knownGroup_kept | with_reducible apply idleState_kept
    | split

theorem stateIdle_kept {s₀ : State} {s : State} {k : ℕ} {x : Chan} {p : Penn} {v : Via} (hk : Kept s₀ s) : Kept s₀
    (stateIdle s k x p v) := by
  unfold stateIdle
  try dsimp only
  repeat' first
    | with_reducible assumption | with_reducible apply kept_ite | with_reducible apply modWait_kept
    | with_reducible apply takePenn_kept | with_reducible apply foundMismatch_kept

theorem stateHeld_kept {s₀ : State} {s : State} {x : Chan} {p : Penn} (hk : Kept s₀ s) : Kept s₀ (stateHeld s x p) := by
  unfold stateHeld
  try dsimp only
  repeat' first
    | with_reducible assumption | with_reducible apply kept_ite | with_reducible apply modWait_kept
    | with_reducible apply modChan_kept

theorem opState_kept {s₀ : State} {k : ℕ} {s : State} (hk : Kept s₀ s) : Kept s₀ (opState k s) := by
  unfold opState
  try dsimp only
  repeat' first
    | with_reducible assumption | with_reducible apply kept_ite | with_reducible apply takePenn_kept
    | with_reducible apply stateIdle_kept | with_reducible apply heard_kept | with_reducible apply foundMismatch_kept
    | with_reducible apply stateHeld_kept | split

theorem opJoin_kept {s₀ : State} {k : ℕ} {s : State} (hk : Kept s₀ s) : Kept s₀ (opJoin k s) := by
  unfold opJoin
  try dsimp only
  repeat' first
    | with_reducible assumption | with_reducible apply kept_ite | with_reducible apply takePenn_kept
    | with_reducible apply pump_kept | with_reducible apply modChan_kept | with_reducible apply heard_kept | split

theorem sendJoins_kept {s₀ : State} {s : State} {old : Chan} {x : Chan} (hk : Kept s₀ s) : Kept s₀ (sendJoins s old
    x) := by
  unfold sendJoins
  try dsimp only
  repeat' first
    | with_reducible assumption | (intro; try dsimp only) | with_reducible apply kept_foldl
    | with_reducible apply kept_ite | with_reducible apply sendMember_kept | split

theorem reformChan_kept {s₀ : State} {s : State} {c : ℕ} {gen : ℕ} {excl : List ℕ} (hk : Kept s₀ s) : Kept s₀
    (reformChan s c gen excl) := by
  unfold reformChan
  try dsimp only
  repeat' first
    | with_reducible assumption | with_reducible apply kept_ite | with_reducible apply setChan_kept
    | with_reducible apply endColl_kept | with_reducible apply dropAdders_kept | with_reducible apply pump_kept
    | with_reducible apply takeEarly_kept | with_reducible apply sendJoins_kept | split

theorem applyReform_kept {s₀ : State} {s : State} {r : GroupRef} {g : Group} {gen : ℕ} {excl : List ℕ} (hk : Kept s₀
    s) : Kept s₀ (applyReform s r g gen excl) := by
  unfold applyReform
  try dsimp only
  repeat' first
    | with_reducible assumption | (intro; try dsimp only) | with_reducible apply kept_foldl
    | with_reducible apply kept_ite | with_reducible apply KeptParts.same | with_reducible apply portWrite_kept
    | with_reducible apply sendRec_kept | with_reducible apply countF_kept | with_reducible apply reformChan_kept
    | simp only [kept_mk] | split

theorem sendReform_kept {s₀ : State} {s : State} {f : Forming} {r : GroupRef} {g : Group} (hk : Kept s₀ s) : Kept s₀
    (sendReform s f r g) := by
  unfold sendReform
  try dsimp only
  repeat' first
    | with_reducible assumption | (intro; try dsimp only) | with_reducible apply kept_foldl
    | with_reducible apply sendRank_kept | with_reducible apply applyReform_kept

theorem opReformReq_kept {s₀ : State} {k : ℕ} {s : State} (hk : Kept s₀ s) : Kept s₀ (opReformReq k s) := by
  unfold opReformReq
  try dsimp only
  repeat' first
    | with_reducible assumption | (intro; try dsimp only) | with_reducible apply kept_foldl
    | with_reducible apply noteRequest_kept | with_reducible apply takePenn_kept | with_reducible apply sendBack_kept
    | split

theorem opReform_kept {s₀ : State} {k : ℕ} {s : State} (hk : Kept s₀ s) : Kept s₀ (opReform k s) := by
  unfold opReform
  try dsimp only
  repeat' first
    | with_reducible assumption | with_reducible apply kept_ite | with_reducible apply KeptParts.same
    | with_reducible apply knownGroup_kept | with_reducible apply applyReform_kept | with_reducible apply takePenn_kept
    | simp only [kept_mk] | split

theorem enterAbort_kept {s₀ : State} {s : State} {p : Penn} (hk : Kept s₀ s) : Kept s₀ (enterAbort s p) := by
  unfold enterAbort
  try dsimp only
  repeat' first
    | with_reducible assumption | with_reducible apply kept_ite | with_reducible apply KeptParts.same
    | with_reducible apply countF_kept | simp only [kept_mk]

theorem opAbort.other_kept {s₀ : State} {k : ℕ} {s : State} {p : Penn} (hk : Kept s₀ s) : Kept s₀ (opAbort.other k s
    p) := by
  unfold opAbort.other
  try dsimp only
  repeat' first
    | with_reducible assumption | with_reducible apply kept_ite | with_reducible apply knownGroup_kept
    | with_reducible apply takePenn_kept | with_reducible apply enterAbort_kept

theorem opAbort_kept {s₀ : State} {k : ℕ} {s : State} (hk : Kept s₀ s) : Kept s₀ (opAbort k s) := by
  unfold opAbort
  try dsimp only
  repeat' first
    | with_reducible assumption | with_reducible apply kept_ite | with_reducible apply endCollAs_kept
    | with_reducible apply sendRec_kept | with_reducible apply takePenn_kept | with_reducible apply opAbort.other_kept
    | split

theorem opDone_kept {s₀ : State} {k : ℕ} {s : State} (hk : Kept s₀ s) : Kept s₀ (opDone k s) := by
  unfold opDone
  try dsimp only
  repeat' first
    | with_reducible assumption | with_reducible apply kept_ite | with_reducible apply takePenn_kept
    | with_reducible apply pump_kept | with_reducible apply modChan_kept | with_reducible apply heard_kept | split

theorem opFinish_kept {s₀ : State} {k : ℕ} {s : State} (hk : Kept s₀ s) : Kept s₀ (opFinish k s) := by
  unfold opFinish
  try dsimp only
  repeat' first
    | with_reducible assumption | (intro; try dsimp only) | with_reducible apply kept_foldl
    | with_reducible apply kept_ite | with_reducible apply takePenn_kept | with_reducible apply sendMember_kept
    | with_reducible apply endColl_kept | split

theorem opQueryTimer_kept {s₀ : State} {k : ℕ} {s : State} (hk : Kept s₀ s) : Kept s₀ (opQueryTimer k s) := by
  unfold opQueryTimer
  try dsimp only
  repeat' first
    | with_reducible assumption | with_reducible apply kept_ite | with_reducible apply sendRank_kept
    | with_reducible apply modWait_kept | with_reducible apply declareFailed_kept | split

theorem opCollTimeout_kept {s₀ : State} {k : ℕ} {s : State} (hk : Kept s₀ s) : Kept s₀ (opCollTimeout k s) := by
  unfold opCollTimeout
  try dsimp only
  repeat' first
    | with_reducible assumption | with_reducible apply kept_ite | with_reducible apply declareFailed_kept | split

theorem stampBlocks_kept {s₀ : State} {s : State} (hk : Kept s₀ s) : Kept s₀ (stampBlocks s) := by
  unfold stampBlocks
  try dsimp only
  repeat' first
    | with_reducible assumption | (intro; try dsimp only) | with_reducible apply kept_foldl
    | with_reducible apply setChan_kept | split

theorem opHopTimeout_kept {s₀ : State} {k : ℕ} {s : State} (hk : Kept s₀ s) : Kept s₀ (opHopTimeout k s) := by
  unfold opHopTimeout
  try dsimp only
  repeat' first
    | with_reducible assumption | with_reducible apply kept_ite | with_reducible apply declareFailed_kept | split

theorem opGroupTimeout_kept {s₀ : State} {k : ℕ} {s : State} (hk : Kept s₀ s) : Kept s₀ (opGroupTimeout k s) := by
  unfold opGroupTimeout
  try dsimp only
  repeat' first
    | with_reducible assumption | with_reducible apply kept_ite | with_reducible apply declareFailed_kept
    | with_reducible apply failColl_kept | split

theorem opSettle_kept {s₀ : State} {k : ℕ} {s : State} (hk : Kept s₀ s) : Kept s₀ (opSettle k s) := by
  unfold opSettle
  try dsimp only
  repeat' first
    | with_reducible assumption | with_reducible apply kept_ite | with_reducible apply KeptParts.same
    | with_reducible apply knownGroup_kept | with_reducible apply sendReform_kept | simp only [kept_mk] | split

theorem opReqTimeout_kept {s₀ : State} {k : ℕ} {s : State} (hk : Kept s₀ s) : Kept s₀ (opReqTimeout k s) := by
  unfold opReqTimeout
  try dsimp only
  repeat' first
    | with_reducible assumption | with_reducible apply kept_ite | with_reducible apply KeptParts.same
    | with_reducible apply knownGroup_kept | with_reducible apply askReform_kept | simp only [kept_mk] | split

theorem opAbortExpiry_kept {s₀ : State} {k : ℕ} {s : State} (hk : Kept s₀ s) : Kept s₀ (opAbortExpiry k s) := by
  unfold opAbortExpiry
  try dsimp only
  repeat' first
    | with_reducible assumption | with_reducible apply kept_ite | with_reducible apply KeptParts.same
    | simp only [kept_mk] | split

theorem holdContext_kept {s₀ : State} {s : State} {ctx : ℕ} (hk : Kept s₀ s) : Kept s₀ (holdContext s ctx) := by
  unfold holdContext
  try dsimp only
  repeat' first
    | with_reducible assumption | (intro; try dsimp only) | with_reducible apply kept_foldl
    | with_reducible apply kept_ite | with_reducible apply sendLive_kept | with_reducible apply showChan_kept
    | with_reducible apply setChan_kept | split

theorem endHolds_kept {s₀ : State} {s : State} {ctx : ℕ} (hk : Kept s₀ s) : Kept s₀ (endHolds s ctx) := by
  unfold endHolds
  try dsimp only
  repeat' first
    | with_reducible assumption | (intro; try dsimp only) | with_reducible apply kept_foldl
    | with_reducible apply kept_ite | with_reducible apply requestReform_kept | with_reducible apply showChan_kept
    | with_reducible apply setChan_kept | with_reducible apply endColl_kept | split

end Sys2Proof.Machine
end

