-- ==== Sys2Proof/Laws/KeptMigration.lean ====
section
/-! SUPPORT. What the functions of Machine/Migration.lean leave alone (Laws/Kept.lean). -/
namespace Sys2Proof.Machine

theorem chargeUsed_kept {s₀ : State} {s : State} {k : ℕ} {t : ℕ} {up : Bool} (hk : Kept s₀ s) : Kept s₀ (chargeUsed s
    k t up) := by
  unfold chargeUsed
  try dsimp only
  repeat' first | with_reducible assumption | with_reducible apply setI_kept

theorem modJob_kept {s₀ : State} {s : State} {n : ℕ} {i : W32} {f : MigJob → MigJob} (hk : Kept s₀ s) : Kept s₀
    (modJob s n i f) := by
  unfold modJob
  try dsimp only
  repeat' first | with_reducible assumption | with_reducible apply KeptParts.same | simp only [kept_mk]

theorem opMigrate_kept {s₀ : State} {n : ℕ} {i : W32} {s : State} (hk : Kept s₀ s) : Kept s₀ (opMigrate n i s) := by
  unfold opMigrate
  try dsimp only
  repeat' first
    | with_reducible assumption | (intro; try dsimp only) | with_reducible apply kept_ite_snd
    | with_reducible apply KeptParts.same | with_reducible apply onValid_kept | with_reducible apply completeCmd_kept
    | simp only [kept_mk] | split

theorem releasePlaces_kept {s₀ : State} {s : State} {j : MigJob} (hk : Kept s₀ s) : Kept s₀ (releasePlaces s j) := by
  unfold releasePlaces
  try dsimp only
  repeat' first
    | with_reducible assumption | (intro; try dsimp only) | with_reducible apply kept_foldl
    | with_reducible apply kept_ite | with_reducible apply freePlace_kept | with_reducible apply chargeUsed_kept

theorem finishJob_kept {s₀ : State} {s : State} {n : ℕ} {i : W32} (hk : Kept s₀ s) : Kept s₀ (finishJob s n i) := by
  unfold finishJob
  try dsimp only
  repeat' first
    | with_reducible assumption | with_reducible apply kept_ite | with_reducible apply KeptParts.same
    | with_reducible apply releasePlaces_kept | with_reducible apply completeAmong_kept | simp only [kept_mk] | split

theorem failJob_kept {s₀ : State} {s : State} {n : ℕ} {i : W32} {cs : List ℕ} (hk : Kept s₀ s) : Kept s₀ (failJob s n
    i cs) := by
  unfold failJob
  try dsimp only
  repeat' first | with_reducible assumption | with_reducible apply finishJob_kept | with_reducible apply modJob_kept

theorem queueChange_kept {s₀ : State} {s : State} {page : ℕ} {w : PtWhat} (hk : Kept s₀ s) : Kept s₀ (queueChange s
    page w) := by
  unfold queueChange
  try dsimp only
  repeat' first | with_reducible assumption | with_reducible apply KeptParts.same | simp only [kept_mk]

theorem nextPage_kept {s₀ : State} {s : State} {n : ℕ} {i : W32} (hk : Kept s₀ s) : Kept s₀ (nextPage s n i) := by
  unfold nextPage
  try dsimp only
  repeat' first
    | with_reducible assumption | with_reducible apply kept_ite | with_reducible apply modJob_kept
    | with_reducible apply finishJob_kept | with_reducible apply queueChange_kept | with_reducible apply failJob_kept
    | split

theorem opAction_kept {s₀ : State} {a : ℕ} {n : ℕ} {i : W32} {s : State} (hk : Kept s₀ s) : Kept s₀ (opAction a n i
    s) := by
  unfold opAction
  try dsimp only
  repeat' first | with_reducible assumption | with_reducible apply kept_ite | with_reducible apply nextPage_kept | split

theorem opWriteback_kept {s₀ : State} {n : ℕ} {i : W32} {s : State} (hk : Kept s₀ s) : Kept s₀ (opWriteback n i s) := by
  unfold opWriteback
  try dsimp only
  repeat' first
    | with_reducible assumption | (intro; try dsimp only) | with_reducible apply kept_ite
    | with_reducible apply KeptParts.same | with_reducible apply nextPage_kept | with_reducible apply onValid_kept
    | simp only [kept_mk] | split

theorem landUnit_kept {s₀ : State} {s : State} {page : ℕ} {unit : ℕ} (hk : Kept s₀ s) : Kept s₀ (landUnit s page
    unit) := by
  unfold landUnit
  try dsimp only
  repeat' first
    | with_reducible assumption | (intro; try dsimp only) | with_reducible apply kept_foldl
    | with_reducible apply kept_ite | with_reducible apply KeptParts.same | with_reducible apply sendFar_kept
    | with_reducible apply placeWrite_kept | simp only [kept_mk] | split

theorem giveUpCopy_kept {s₀ : State} {s : State} {n : ℕ} {i : W32} {page : ℕ} {status : ℕ} (hk : Kept s₀ s) : Kept s₀
    (giveUpCopy s n i page status) := by
  unfold giveUpCopy
  try dsimp only
  repeat' first
    | with_reducible assumption | with_reducible apply KeptParts.same | with_reducible apply queueChange_kept
    | with_reducible apply modJob_kept | simp only [kept_mk]

theorem copyWrite_kept {s₀ : State} {s : State} {n : ℕ} {i : W32} {page : ℕ} {dest : ℕ} {unit : ℕ} {bs : List Byte}
    (hk : Kept s₀ s) : Kept s₀ (copyWrite s n i page dest unit bs) := by
  unfold copyWrite
  try dsimp only
  repeat' first
    | with_reducible assumption | with_reducible apply kept_ite | with_reducible apply giveUpCopy_kept
    | with_reducible apply modJob_kept | with_reducible apply sendFar_kept | with_reducible apply landUnit_kept
    | with_reducible apply placeWrite_kept

theorem copyUnit_kept {s₀ : State} {s : State} {n : ℕ} {i : W32} {page : ℕ} {dest : ℕ} {unit : ℕ} (hk : Kept s₀ s) :
    Kept s₀ (copyUnit s n i page dest unit) := by
  unfold copyUnit
  try dsimp only
  repeat' first
    | with_reducible assumption | with_reducible apply kept_ite | with_reducible apply giveUpCopy_kept
    | with_reducible apply sendFar_kept | with_reducible apply placeRead_kept | with_reducible apply poisonPage_kept
    | with_reducible apply copyWrite_kept

theorem startCopy_kept {s₀ : State} {s : State} {n : ℕ} {i : W32} {page : ℕ} (hk : Kept s₀ s) : Kept s₀ (startCopy s
    n i page) := by
  unfold startCopy
  try dsimp only
  repeat' first
    | with_reducible assumption | (intro; try dsimp only) | with_reducible apply kept_foldl
    | with_reducible apply KeptParts.same | with_reducible apply setPt_kept | with_reducible apply copyUnit_kept
    | simp only [kept_mk] | split

theorem settlePage_kept {s₀ : State} {s : State} {n : ℕ} {i : W32} {page : ℕ} {old : PtEntry} {new : PtEntry} {frees
    : Bool} (hk : Kept s₀ s) : Kept s₀ (settlePage s n i page old new frees) := by
  unfold settlePage
  try dsimp only
  repeat' first
    | with_reducible assumption | (intro; try dsimp only) | with_reducible apply kept_foldl
    | with_reducible apply kept_ite | with_reducible apply chargeUsed_kept | with_reducible apply modJob_kept | split

theorem dropCopy_kept {s₀ : State} {s : State} {page : ℕ} (hk : Kept s₀ s) : Kept s₀ (dropCopy s page) := by
  unfold dropCopy
  try dsimp only
  repeat' first | with_reducible assumption | with_reducible apply KeptParts.same | simp only [kept_mk]

theorem switchPage_kept {s₀ : State} {s : State} {n : ℕ} {i : W32} {page : ℕ} (hk : Kept s₀ s) : Kept s₀ (switchPage
    s n i page) := by
  unfold switchPage
  try dsimp only
  repeat' first
    | with_reducible assumption | with_reducible apply finishJob_kept | with_reducible apply settlePage_kept
    | with_reducible apply dropCopy_kept | with_reducible apply setPt_kept | split

theorem endGiveUp_kept {s₀ : State} {s : State} {n : ℕ} {i : W32} {page : ℕ} (hk : Kept s₀ s) : Kept s₀ (endGiveUp s
    n i page) := by
  unfold endGiveUp
  try dsimp only
  repeat' first
    | with_reducible assumption | with_reducible apply dropCopy_kept | with_reducible apply setPt_kept
    | with_reducible apply finishJob_kept | with_reducible apply modJob_kept | split

theorem opCopySwitch_kept {s₀ : State} {n : ℕ} {i : W32} {s : State} (hk : Kept s₀ s) : Kept s₀ (opCopySwitch n i s) := by
  unfold opCopySwitch
  try dsimp only
  repeat' first
    | with_reducible assumption | with_reducible apply KeptParts.same | with_reducible apply queueChange_kept
    | simp only [kept_mk] | split

theorem opInvalidation_kept {s₀ : State} {k : ℕ} {u : ℕ} {s : State} (hk : Kept s₀ s) : Kept s₀ (opInvalidation k u
    s) := by
  unfold opInvalidation
  try dsimp only
  repeat' first
    | with_reducible assumption | with_reducible apply kept_ite | with_reducible apply KeptParts.same
    | simp only [kept_mk] | split

theorem resolveEntry_kept {s₀ : State} {lost : ℕ → Bool} {s : State} {page : ℕ} (hk : Kept s₀ s) : Kept s₀
    (resolveEntry lost s page) := by
  unfold resolveEntry
  try dsimp only
  repeat' first
    | with_reducible assumption | (intro; try dsimp only) | with_reducible apply kept_foldl
    | with_reducible apply kept_ite | with_reducible apply setPt_kept | with_reducible apply cacheDrop_kept
    | with_reducible apply chargeUsed_kept | split

theorem opEntryChange_kept {s₀ : State} {k : ℕ} {s : State} (hk : Kept s₀ s) : Kept s₀ (opEntryChange k s) := by
  unfold opEntryChange
  try dsimp only
  repeat' first
    | with_reducible assumption | with_reducible apply kept_ite | with_reducible apply KeptParts.same
    | with_reducible apply ptRead_kept | with_reducible apply resolveEntry_kept | with_reducible apply sendRec_kept
    | with_reducible apply setPt_kept | with_reducible apply startCopy_kept | with_reducible apply switchPage_kept
    | with_reducible apply endGiveUp_kept | with_reducible apply finishJob_kept | with_reducible apply settlePage_kept
    | simp only [kept_mk] | split

theorem opPtIndex_kept {s₀ : State} {v : ℕ} {s : State} (hk : Kept s₀ s) : Kept s₀ (opPtIndex v s) := by
  unfold opPtIndex
  try dsimp only
  repeat' first
    | with_reducible assumption | with_reducible apply KeptParts.same | with_reducible apply setF_kept
    | simp only [kept_mk]

theorem opSnapshot_kept {s₀ : State} {s : State} (hk : Kept s₀ s) : Kept s₀ (opSnapshot s) := by
  unfold opSnapshot
  try dsimp only
  repeat' first
    | with_reducible assumption | (intro; try dsimp only) | with_reducible apply kept_foldl
    | with_reducible apply kept_ite | with_reducible apply KeptParts.same | with_reducible apply ptRead_kept
    | with_reducible apply setI_kept | with_reducible apply setF_kept | simp only [kept_mk] | split

theorem opWindowEnd_kept {s₀ : State} {c : ℕ} {t : ℕ} {s : State} (hk : Kept s₀ s) : Kept s₀ (opWindowEnd c t s) := by
  unfold opWindowEnd
  try dsimp only
  repeat' first
    | with_reducible assumption | with_reducible apply kept_ite | with_reducible apply KeptParts.same
    | with_reducible apply setI_kept | with_reducible apply sendRec_kept | simp only [kept_mk]

end Sys2Proof.Machine
end

