-- ==== Sys2Proof/Laws/KeptResolve.lean ====
section
/-! SUPPORT. What the functions of Machine/Resolve.lean leave alone (Laws/Kept.lean). -/
namespace Sys2Proof.Machine

theorem resolveCopies_kept {s₀ : State} {lost : ℕ → Bool} {s : State} (hk : Kept s₀ s) : Kept s₀ (resolveCopies lost
    s) := by
  unfold resolveCopies
  try dsimp only
  repeat' first
    | with_reducible assumption | (intro; try dsimp only) | with_reducible apply kept_foldl
    | with_reducible apply kept_ite | with_reducible apply giveUpCopy_kept

theorem queueLost_kept {s₀ : State} {s : State} {f : ℕ} (hk : Kept s₀ s) : Kept s₀ (queueLost s f) := by
  unfold queueLost
  try dsimp only
  repeat' first
    | with_reducible assumption | (intro; try dsimp only) | with_reducible apply kept_foldl
    | with_reducible apply resolveCopies_kept | with_reducible apply queueChange_kept

theorem resolvePlaces_kept {s₀ : State} {s : State} {lost : ℕ → Bool} (hk : Kept s₀ s) : Kept s₀ (resolvePlaces s
    lost) := by
  unfold resolvePlaces
  try dsimp only
  repeat' first
    | with_reducible assumption | (intro; try dsimp only) | with_reducible apply kept_foldl
    | with_reducible apply resolveCopies_kept | with_reducible apply resolveEntry_kept

end Sys2Proof.Machine
end

