-- ==== Sys2Proof/Laws/KeptTileArray.lean ====
section
/-! SUPPORT. What the functions of Machine/TileArray.lean leave alone (Laws/Kept.lean). -/
namespace Sys2Proof.Machine

theorem readDraw_kept {g a n : Nat} : KeepsM (readDraw g a n) := by
  unfold readDraw
  refine keepsM_bind keepsM_get fun s => ?_
  dsimp only
  repeat' first
    | with_reducible apply keepsM_bind | with_reducible apply keepsM_pure | with_reducible apply keepsM_get
    | with_reducible apply keepsM_modify | with_reducible apply keepsM_forIn | with_reducible apply faultIf_kept
    | with_reducible assumption | with_reducible apply logMemErr_kept | with_reducible apply setF_kept
    | with_reducible apply sendRec_kept | with_reducible apply modTile_kept | split | intro
  all_goals assumption

theorem fetchRead_kept {g : ℕ} {a : ℕ} {n : ℕ} : KeepsM (fetchRead g a n) := by
  unfold fetchRead
  try dsimp only
  repeat' first | with_reducible apply keepsM_ite | with_reducible apply readMem_kept | with_reducible apply readDraw_kept

theorem readHalf_kept {g : ℕ} {fd : Feed} {a : ℕ} {half : ℕ} : KeepsM (readHalf g fd a half) := by
  unfold readHalf
  try dsimp only
  repeat' first
    | with_reducible apply keepsM_ite | with_reducible apply keepsM_bind | with_reducible apply keepsM_pure
    | with_reducible apply keepsM_get | with_reducible apply fetchRead_kept | with_reducible apply faultIf_kept
    | (intro; try dsimp only)

theorem feedEntry_kept {g : ℕ} {fd : Feed} {j : ℕ} : KeepsM (feedEntry g fd j) := by
  unfold feedEntry
  try dsimp only
  repeat' first
    | with_reducible apply keepsM_bind | with_reducible apply keepsM_pure | with_reducible apply keepsM_mapM
    | with_reducible apply fetchRead_kept | with_reducible apply readHalf_kept | split | (intro; try dsimp only)

theorem startFeeds_sound {t : Tile} {n : Nat} (h : t.Sound) : (startFeeds t n).Sound := by
  induction n generalizing t with
  | zero => exact h
  | succ n ih =>
    unfold startFeeds
    split
    · exact h
    · dsimp only
      split
      · exact ih h
      · exact h

theorem refill_kept {g q n : Nat} : KeepsM (refill g q n) := by
  induction n with
  | zero => exact keepsM_pure
  | succ n ih =>
    unfold refill
    refine keepsM_bind (keepsM_modify fun _ _ h => modTile_kept h fun _ ht => startFeeds_sound ht) fun _ =>
      keepsM_bind keepsM_get fun s => ?_
    dsimp only
    split
    · exact keepsM_pure
    · split
      · exact keepsM_pure
      · exact keepsM_bind feedEntry_kept fun _ => keepsM_bind (keepsM_modify fun _ _ h => modTile_kept h fun _ ht => ht)
          fun _ => ih

theorem refillAll_kept {g : ℕ} : KeepsM (refillAll g) := by
  unfold refillAll
  try dsimp only
  repeat' first
    | with_reducible apply keepsM_bind | with_reducible apply keepsM_pure | with_reducible apply keepsM_forIn
    | with_reducible apply refill_kept | (intro; try dsimp only)

theorem opFeed_kept {g : ℕ} {pc : ℕ} {w : Word} : KeepsM (opFeed g pc w) := by
  unfold opFeed
  try dsimp only
  repeat' first
    | with_reducible assumption | with_reducible apply keepsM_bind | with_reducible apply keepsM_pure
    | with_reducible apply keepsM_get | with_reducible apply keepsM_modify | with_reducible apply faultIf_kept
    | with_reducible apply pReg_kept | with_reducible apply sReg_kept | with_reducible apply modTile_kept
    | with_reducible apply refillAll_kept | split | (intro _ ht; exact Tile.sound_of ht rfl rfl rfl)
    | (intro; try dsimp only)

theorem modArr_kept {g : ℕ} {f : ArrOp → ArrOp} : KeepsM (modArr g f) := by
  unfold modArr
  try dsimp only
  repeat' first
    | with_reducible assumption | with_reducible apply keepsM_modify | with_reducible apply modTile_kept
    | (intro _ ht; exact Tile.sound_of ht rfl rfl rfl) | (intro; try dsimp only)

theorem beginArr_kept {g : Nat} {w : Word} : KeepsM (beginArr g w) :=
  keepsM_modify fun _ _ h => modTile_kept h fun _ ht => by split <;> exact ht

theorem popEntry_kept {g : ℕ} {q : ℕ} {keep : ArrOp → QEntry → ArrOp} : KeepsM (popEntry g q keep) := by
  unfold popEntry
  try dsimp only
  repeat' first
    | with_reducible assumption | with_reducible apply keepsM_bind | with_reducible apply keepsM_get
    | with_reducible apply keepsM_throw | with_reducible apply keepsM_modify | with_reducible apply modTile_kept
    | with_reducible apply refillAll_kept | split | (intro _ ht; exact Tile.sound_of ht rfl rfl rfl)
    | (intro; try dsimp only)

theorem peekEntry_kept {g : ℕ} {q : ℕ} : KeepsM (peekEntry g q) := by
  unfold peekEntry
  try dsimp only
  repeat' first
    | with_reducible apply keepsM_bind | with_reducible apply keepsM_pure | with_reducible apply keepsM_get
    | with_reducible apply keepsM_throw | split | (intro; try dsimp only)

theorem popMore_kept {g : ℕ} {q : ℕ} {g32 : Bool} {keep : ArrOp → QEntry → ArrOp} {n : ℕ} : KeepsM (popMore g q g32
    keep n) := by
  unfold popMore
  try dsimp only
  repeat' first
    | with_reducible apply keepsM_bind | with_reducible apply keepsM_pure | with_reducible apply keepsM_forIn
    | with_reducible apply peekEntry_kept | with_reducible apply faultIf_kept | with_reducible apply popEntry_kept
    | (intro; try dsimp only)

theorem popBlocks_kept {g : ℕ} {w : Word} {g32 : Bool} : KeepsM (popBlocks g w g32) := by
  unfold popBlocks
  try dsimp only
  repeat' first
    | with_reducible apply keepsM_bind | with_reducible apply keepsM_pure | with_reducible apply keepsM_get
    | with_reducible apply popMore_kept | with_reducible apply modArr_kept | (intro; try dsimp only)

theorem checkUpset_kept {x : Upset} : KeepsM (checkUpset x) := by
  unfold checkUpset
  try dsimp only
  repeat' first | with_reducible apply keepsM_pure | with_reducible apply keepsM_throw | split

theorem checkStage_kept {g : ℕ} {w : Word} : KeepsM (checkStage g w) := by
  unfold checkStage
  try dsimp only
  repeat' first
    | with_reducible apply keepsM_bind | with_reducible apply keepsM_get | with_reducible apply faultIf_kept
    | (intro; try dsimp only)

theorem opMm_kept {g : ℕ} {w : Word} {x : Upset} : KeepsM (opMm g w x) := by
  unfold opMm
  try dsimp only
  repeat' first
    | with_reducible assumption | with_reducible apply keepsM_bind | with_reducible apply keepsM_pure
    | with_reducible apply keepsM_get | with_reducible apply keepsM_modify | with_reducible apply keepsM_forIn
    | with_reducible apply faultIf_kept | with_reducible apply checkStage_kept | with_reducible apply beginArr_kept
    | with_reducible apply refillAll_kept | with_reducible apply peekEntry_kept | with_reducible apply checkUpset_kept
    | with_reducible apply popBlocks_kept | with_reducible apply raiseFlags_kept | with_reducible apply modTile_kept
    | split | (intro _ ht; exact Tile.sound_of ht rfl rfl rfl) | (intro; try dsimp only)

theorem drainBits_kept {g : ℕ} {field : ℕ} : KeepsM (drainBits g field) := by
  unfold drainBits
  try dsimp only
  repeat' first
    | with_reducible apply keepsM_ite | with_reducible apply keepsM_bind | with_reducible apply keepsM_pure
    | with_reducible apply sReg_kept | with_reducible apply stochBits_kept | (intro; try dsimp only)

theorem drainChecks_kept {g : ℕ} {field : ℕ} : KeepsM (drainChecks g field) := by
  unfold drainChecks
  try dsimp only
  repeat' first
    | with_reducible apply keepsM_bind | with_reducible apply keepsM_pure | with_reducible apply faultIf_kept
    | with_reducible apply sReg_kept | with_reducible apply checkLaneAlign_kept | split | (intro; try dsimp only)

theorem drainRow_kept {g : ℕ} {f : ℕ} {field : ℕ} {a : ℕ} {xs : List W32} : KeepsM (drainRow g f field a xs) := by
  unfold drainRow
  try dsimp only
  repeat' first
    | with_reducible apply keepsM_bind | with_reducible apply drainBits_kept | with_reducible apply writeElems_kept
    | with_reducible apply raiseFlags_kept | (intro; try dsimp only)

theorem opDrain_kept {g : ℕ} {w : Word} : KeepsM (opDrain g w) := by
  unfold opDrain
  try dsimp only
  repeat' first
    | with_reducible apply keepsM_bind | with_reducible apply keepsM_pure | with_reducible apply keepsM_get
    | with_reducible apply keepsM_forIn | with_reducible apply faultIf_kept | with_reducible apply drainChecks_kept
    | with_reducible apply pReg_kept | with_reducible apply sReg_kept | with_reducible apply drainRow_kept
    | with_reducible apply checkLanes_kept | split | (intro; try dsimp only)

theorem opDrainr_kept {g : ℕ} {w : Word} : KeepsM (opDrainr g w) := by
  unfold opDrainr
  try dsimp only
  repeat' first
    | with_reducible apply keepsM_bind | with_reducible apply keepsM_pure | with_reducible apply keepsM_get
    | with_reducible apply keepsM_forIn | with_reducible apply faultIf_kept | with_reducible apply pReg_kept
    | with_reducible apply sReg_kept | with_reducible apply checkRiser_kept | with_reducible apply readRiser_kept
    | with_reducible apply writeRiser_kept | with_reducible apply raiseFlags_kept | split | (intro; try dsimp only)

theorem opDraint_kept {g : ℕ} {w : Word} : KeepsM (opDraint g w) := by
  unfold opDraint
  try dsimp only
  repeat' first
    | with_reducible apply keepsM_bind | with_reducible apply keepsM_pure | with_reducible apply keepsM_get
    | with_reducible apply keepsM_forIn | with_reducible apply sReg_kept | with_reducible apply faultIf_kept
    | with_reducible apply drainChecks_kept | with_reducible apply pReg_kept | with_reducible apply raiseFlags_kept
    | with_reducible apply drainRow_kept | with_reducible apply readF32_kept | with_reducible apply checkLanes_kept
    | split | (intro; try dsimp only)

theorem opAccld_kept {g : ℕ} {w : Word} : KeepsM (opAccld g w) := by
  unfold opAccld
  try dsimp only
  repeat' first
    | with_reducible assumption | with_reducible apply keepsM_bind | with_reducible apply keepsM_pure
    | with_reducible apply keepsM_modify | with_reducible apply keepsM_mapM | with_reducible apply faultIf_kept
    | with_reducible apply pReg_kept | with_reducible apply sReg_kept | with_reducible apply readMem_kept
    | with_reducible apply modTile_kept | split | (intro _ ht; exact Tile.sound_of ht rfl rfl rfl)
    | (intro; try dsimp only)

theorem opAccst_kept {g : ℕ} {w : Word} : KeepsM (opAccst g w) := by
  unfold opAccst
  try dsimp only
  repeat' first
    | with_reducible apply keepsM_bind | with_reducible apply keepsM_pure | with_reducible apply keepsM_get
    | with_reducible apply keepsM_forIn | with_reducible apply faultIf_kept | with_reducible apply pReg_kept
    | with_reducible apply sReg_kept | with_reducible apply writeMem_kept | split | (intro; try dsimp only)

theorem feedAhead_kept {s₀ s : State} {g : Nat} {w : Word} {x : Fetch} (h : Kept s₀ s) : Kept s₀ (feedAhead s g w x) := by
  have h' : Kept s₀ (modTile s g (fun t => { t with p := x.p, s := x.s })) := modTile_kept h (fun _ ht => ht)
  have k := opFeed_kept (g := g) (pc := x.pc) (w := w) s₀ _ h'
  unfold feedAhead
  dsimp only
  split
  · next heq => rw [heq] at k; exact modTile_kept k (fun _ ht => ht)
  · next heq => rw [heq] at k; exact tileFault_kept (modTile_kept k (fun _ ht => ht))

theorem runFeed_kept {s₀ s : State} {t : TileId} {w : Word} (h : Kept s₀ s) : Kept s₀ (runFeed t w s) := by
  have k := opFeed_kept (g := t.gid) (pc := issueAt s t.gid) (w := w) s₀ s h
  unfold runFeed
  dsimp only
  split
  · split
    · split
      · exact runOp_kept h opFeed_kept
      · exact feedAhead_kept h
    · split
      · exact runOp_kept h opFeed_kept
      · split
        · exact h
        · split
          · next heq => rw [heq] at k; exact k
          · next heq => rw [heq] at k; exact tileFault_kept k
  · split
    · exact h
    · exact runOp_kept h opFeed_kept

end Sys2Proof.Machine
end

