-- ==== Sys2Proof/Laws/KeptTileSparse.lean ====
section
/-! SUPPORT. What the functions of Machine/TileSparse.lean leave alone (Laws/Kept.lean). -/
namespace Sys2Proof.Machine

theorem popMaps_kept {g : ℕ} {w : Word} {x : Upset} : KeepsM (popMaps g w x) := by
  unfold popMaps
  try dsimp only
  repeat' first
    | with_reducible apply keepsM_ite | with_reducible apply keepsM_bind | with_reducible apply keepsM_pure
    | with_reducible apply keepsM_get | with_reducible apply peekEntry_kept | with_reducible apply checkUpset_kept
    | with_reducible apply popMore_kept | (intro; try dsimp only)

theorem opSpmm_kept {g : Nat} {w : Word} {x : Upset} : KeepsM (opSpmm g w x) := by
  unfold opSpmm
  dsimp only
  repeat' first
    | with_reducible apply keepsM_bind | with_reducible apply keepsM_pure | with_reducible apply keepsM_get
    | with_reducible apply keepsM_modify | with_reducible apply keepsM_forIn | with_reducible apply faultIf_kept
    | with_reducible apply checkStage_kept | with_reducible apply refillAll_kept | with_reducible apply peekEntry_kept
    | with_reducible apply checkUpset_kept | with_reducible apply popMaps_kept | with_reducible apply popBlocks_kept
    | with_reducible apply beginArr_kept | with_reducible apply modArr_kept | with_reducible apply raiseFlags_kept
    | with_reducible apply countF_kept | with_reducible apply modTile_kept | with_reducible assumption | split | intro
  all_goals assumption

theorem opBmap_kept {g : ℕ} {w : Word} : KeepsM (opBmap g w) := by
  unfold opBmap
  try dsimp only
  repeat' first
    | with_reducible apply keepsM_bind | with_reducible apply keepsM_pure | with_reducible apply keepsM_mapM
    | with_reducible apply faultIf_kept | with_reducible apply pReg_kept | with_reducible apply sReg_kept
    | with_reducible apply writeMem_kept | with_reducible apply readElems_kept | split | (intro; try dsimp only)

theorem opBpred_kept {g : ℕ} {w : Word} : KeepsM (opBpred g w) := by
  unfold opBpred
  try dsimp only
  repeat' first
    | with_reducible apply keepsM_bind | with_reducible apply keepsM_pure | with_reducible apply faultIf_kept
    | with_reducible apply pReg_kept | with_reducible apply readMem_kept | with_reducible apply writeMem_kept | split
    | (intro; try dsimp only)

theorem opCompact_kept {g : ℕ} {w : Word} : KeepsM (opCompact g w) := by
  unfold opCompact
  try dsimp only
  repeat' first
    | with_reducible apply keepsM_bind | with_reducible apply keepsM_pure | with_reducible apply keepsM_forIn
    | with_reducible apply faultIf_kept | with_reducible apply pReg_kept | with_reducible apply readElems_kept
    | with_reducible apply writeMem_kept | with_reducible apply readMem_kept | split | (intro; try dsimp only)

theorem opExpand_kept {g : ℕ} {w : Word} : KeepsM (opExpand g w) := by
  unfold opExpand
  try dsimp only
  repeat' first
    | with_reducible apply keepsM_bind | with_reducible apply keepsM_pure | with_reducible apply keepsM_get
    | with_reducible apply keepsM_throw | with_reducible apply keepsM_forIn | with_reducible apply faultIf_kept
    | with_reducible apply pReg_kept | with_reducible apply readMem_kept | with_reducible apply writeElems_kept | split
    | (intro; try dsimp only)

end Sys2Proof.Machine
end

