-- ==== Sys2Proof/Laws/KeptNetRecv.lean ====
section
/-! SUPPORT. What the functions of Machine/NetRecv.lean leave alone (Laws/Kept.lean). -/
namespace Sys2Proof.Machine

theorem finishFar_kept {s₀ : State} {s : State} {id : ℕ} {fail : ℕ} {bs : List Byte} (hk : Kept s₀ s) : Kept s₀
    (finishFar s id fail bs) := by
  unfold finishFar
  try dsimp only
  repeat' first
    | with_reducible assumption | with_reducible apply kept_ite | with_reducible apply KeptParts.same
    | with_reducible apply cresSend_kept | with_reducible apply copyWrite_kept | with_reducible apply giveUpCopy_kept
    | with_reducible apply landUnit_kept | with_reducible apply setDirty_kept | simp only [kept_mk] | split

theorem showConn_kept {s₀ : State} {s : State} (hk : Kept s₀ s) : Kept s₀ (showConn s) := by
  unfold showConn
  try dsimp only
  repeat' first | with_reducible assumption | with_reducible apply setF_kept

theorem rehome_kept {s₀ : State} {s : State} (hk : Kept s₀ s) : Kept s₀ (rehome s) := by
  unfold rehome
  try dsimp only
  repeat' first
    | with_reducible assumption | (intro; try dsimp only) | with_reducible apply kept_foldl
    | with_reducible apply resendOut_kept

theorem openConn_kept {s₀ : State} {s : State} {n : ℕ} (hk : Kept s₀ s) : Kept s₀ (openConn s n) := by
  unfold openConn
  try dsimp only
  repeat' first
    | with_reducible assumption | with_reducible apply kept_ite | with_reducible apply KeptParts.same
    | with_reducible apply portRead_kept | with_reducible apply rehome_kept | with_reducible apply showConn_kept
    | with_reducible apply setConn_kept | simp only [kept_mk]

theorem resumeReads_kept {s₀ : State} {s : State} (hk : Kept s₀ s) : Kept s₀ (resumeReads s) := by
  unfold resumeReads
  try dsimp only
  repeat' first
    | with_reducible assumption | (intro; try dsimp only) | with_reducible apply kept_foldl
    | with_reducible apply pumpAll_kept | with_reducible apply flushDescs_kept | with_reducible apply openConn_kept

theorem abandonConn_kept {s₀ : State} {s : State} {n : ℕ} (hk : Kept s₀ s) : Kept s₀ (abandonConn s n) := by
  unfold abandonConn
  try dsimp only
  repeat' first
    | with_reducible assumption | (intro; try dsimp only) | with_reducible apply kept_foldl
    | with_reducible apply KeptParts.same | with_reducible apply finishFar_kept | simp only [kept_mk] | split

theorem hopLost_kept {s₀ : State} {s : State} {n : ℕ} (hk : Kept s₀ s) : Kept s₀ (hopLost s n) := by
  unfold hopLost
  try dsimp only
  repeat' first
    | with_reducible assumption | (intro; try dsimp only) | with_reducible apply kept_foldl
    | with_reducible apply kept_ite | with_reducible apply declareFailed_kept | split

theorem failConn_kept {s₀ : State} {s : State} {n : ℕ} {reason : ℕ} {nak : ℕ} (hk : Kept s₀ s) : Kept s₀ (failConn s
    n reason nak) := by
  unfold failConn
  try dsimp only
  repeat' first
    | with_reducible assumption | with_reducible apply kept_ite | with_reducible apply showConn_kept
    | with_reducible apply modConn_kept | with_reducible apply sendRec_kept | with_reducible apply rehome_kept
    | with_reducible apply abandonConn_kept | with_reducible apply hopLost_kept | with_reducible apply resumeReads_kept

theorem closeConn_kept {s₀ : State} {s : State} {n : ℕ} (hk : Kept s₀ s) : Kept s₀ (closeConn s n) := by
  unfold closeConn
  try dsimp only
  repeat' first
    | with_reducible assumption | with_reducible apply kept_ite | with_reducible apply resumeReads_kept
    | with_reducible apply rehome_kept | with_reducible apply showConn_kept | with_reducible apply setConn_kept
    | with_reducible apply abandonConn_kept

theorem setRate_kept {s₀ : State} {s : State} {k : ℕ} {r : Rate} (hk : Kept s₀ s) : Kept s₀ (setRate s k r) := by
  unfold setRate
  try dsimp only
  repeat' first | with_reducible assumption | with_reducible apply KeptParts.same | simp only [kept_mk]

theorem notify_kept {s₀ : State} {s : State} {k : ℕ} (hk : Kept s₀ s) : Kept s₀ (notify s k) := by
  unfold notify
  try dsimp only
  repeat' first | with_reducible assumption | with_reducible apply kept_ite | with_reducible apply setRate_kept | split

theorem tellPeer_kept {s₀ : State} {s : State} {p : ℕ} {k : ℕ} {x : Frame} (hk : Kept s₀ s) : Kept s₀ (tellPeer s p k
    x) := by
  unfold tellPeer
  try dsimp only
  repeat' first
    | with_reducible assumption | with_reducible apply kept_ite | with_reducible apply sendFrame_kept
    | with_reducible apply setRate_kept | split

theorem cstIn_kept {s₀ s : State} {p : Nat} {k : CstPkt} {f : State → State} (h : Kept s₀ s)
    (hf : ∀ t, Kept s₀ t → Kept s₀ (f t)) : Kept s₀ (cstIn s p k f) := by
  unfold cstIn
  dsimp only
  repeat' first
    | with_reducible assumption | with_reducible apply kept_ite | with_reducible apply countI_kept
    | with_reducible apply tellPeer_kept | with_reducible apply hf

theorem acked_kept {s₀ : State} {s : State} {n : ℕ} {a : W32} {bitmap : List ℕ} (hk : Kept s₀ s) : Kept s₀ (acked s n
    a bitmap) := by
  unfold acked
  try dsimp only
  repeat' first
    | with_reducible assumption | (intro; try dsimp only) | with_reducible apply kept_foldl
    | with_reducible apply KeptParts.same | with_reducible apply finishFar_kept | with_reducible apply resendOut_kept
    | simp only [kept_mk] | split

theorem sendAck_kept {s₀ : State} {s : State} {n : ℕ} (hk : Kept s₀ s) : Kept s₀ (sendAck s n) := by
  unfold sendAck
  try dsimp only
  repeat' first
    | with_reducible assumption | with_reducible apply pickPort_kept | with_reducible apply modConn_kept
    | with_reducible apply sendFrame_kept | split

theorem recvSeq_kept {s₀ : State} {s : State} {n : ℕ} {psn : W32} {ackreq : Bool} (hk : Kept s₀ s) : Kept s₀ (recvSeq
    s n psn ackreq).2 := by
  unfold recvSeq
  try dsimp only
  repeat' first
    | with_reducible assumption | with_reducible apply kept_ite | with_reducible apply kept_ite_snd
    | with_reducible apply setConn_kept | with_reducible apply sendAck_kept

theorem pfcCheck_kept {s₀ : State} {s : State} {p : ℕ} (hk : Kept s₀ s) : Kept s₀ (pfcCheck s p) := by
  unfold pfcCheck
  try dsimp only
  repeat' first
    | with_reducible assumption | with_reducible apply kept_ite | with_reducible apply KeptParts.same
    | with_reducible apply sendFrame_kept | simp only [kept_mk]

end Sys2Proof.Machine
end

