-- ==== Sys2Proof/Laws/KeptSurface.lean ====
section
/-! SUPPORT. What the functions of Machine/Surface.lean leave alone (Laws/Kept.lean). -/
namespace Sys2Proof.Machine

theorem setBind_kept {s₀ : State} {s : State} {f : ℕ} {j : ℕ} {b : Bind} (hk : Kept s₀ s) : Kept s₀ (setBind s f j b)
    := by
  unfold setBind
  try dsimp only
  repeat' first | with_reducible assumption | with_reducible apply KeptParts.same | simp only [kept_mk]

theorem txTake.store_kept {s₀ : State} {f : ℕ} {j : ℕ} {p : Packet} {s : State} (hk : Kept s₀ s) : Kept s₀
    (txTake.store f j p s) := by
  unfold txTake.store
  try dsimp only
  repeat' first
    | with_reducible assumption | with_reducible apply kept_ite | with_reducible apply setBind_kept
    | with_reducible apply countF_kept | with_reducible apply sendSurf_kept

theorem txTake_kept {s₀ s t : State} {f j : Nat} {p : Packet} (h : Kept s₀ s) (he : txTake s f j p = some t) :
    Kept s₀ t := by
  unfold txTake at he
  dsimp only at he
  split at he
  · cases he; exact h
  · split at he
    · split at he
      · cases he
      · cases he; exact txTake.store_kept (setBind_kept h)
    · cases he; exact txTake.store_kept h

theorem txResend_kept {s₀ : State} {s : State} {f : ℕ} {j : ℕ} (hk : Kept s₀ s) : Kept s₀ (txResend s f j) := by
  unfold txResend
  try dsimp only
  repeat' first
    | with_reducible assumption | (intro; try dsimp only) | with_reducible apply kept_foldl
    | with_reducible apply sendSurf_kept

theorem creditTile_kept {s₀ : State} {s : State} {f : ℕ} {j : ℕ} (hk : Kept s₀ s) : Kept s₀ (creditTile s f j) := by
  unfold creditTile
  try dsimp only
  repeat' first | with_reducible assumption | with_reducible apply inject_kept | split

theorem bindChanged_kept {s₀ : State} {s : State} {f : ℕ} {j : ℕ} {old : Word} (hk : Kept s₀ s) : Kept s₀
    (bindChanged s f j old) := by
  unfold bindChanged
  try dsimp only
  repeat' first
    | with_reducible assumption | with_reducible apply kept_ite | with_reducible apply creditTile_kept
    | with_reducible apply setBind_kept

theorem gatewayReset_kept {s₀ : State} {s : State} {g : ℕ} (hk : Kept s₀ s) : Kept s₀ (gatewayReset s g) := by
  unfold gatewayReset
  try dsimp only
  repeat' first
    | with_reducible assumption | (intro; try dsimp only) | with_reducible apply kept_foldl
    | with_reducible apply kept_ite | with_reducible apply setBind_kept

theorem landStream_kept {s₀ : State} {s : State} {f : ℕ} {j : ℕ} {x : SurfPkt} (hk : Kept s₀ s) : Kept s₀ (landStream
    s f j x) := by
  unfold landStream
  try dsimp only
  repeat' first | with_reducible assumption | with_reducible apply kept_ite | with_reducible apply setBind_kept

theorem landingCredit_kept {s₀ : State} {s : State} {f : ℕ} {k : ℕ} {x : SurfPkt} (hk : Kept s₀ s) : Kept s₀
    (landingCredit s f k x) := by
  unfold landingCredit
  try dsimp only
  repeat' first
    | with_reducible assumption | with_reducible apply kept_ite | with_reducible apply creditTile_kept
    | with_reducible apply setBind_kept | split

theorem opSurfaceReceive_kept {s₀ : State} {f : ℕ} {k : ℕ} {x : SurfPkt} {s : State} (hk : Kept s₀ s) : Kept s₀
    (opSurfaceReceive f k x s) := by
  unfold opSurfaceReceive
  try dsimp only
  repeat' first
    | with_reducible assumption | with_reducible apply kept_ite | with_reducible apply KeptParts.same
    | with_reducible apply countLink_kept | with_reducible apply countF_kept | with_reducible apply returnCredits_kept
    | with_reducible apply creditFlit_kept | with_reducible apply landStream_kept
    | with_reducible apply landingCredit_kept | simp only [kept_mk] | split

theorem opRxInject_kept {s₀ : State} {f : ℕ} {j : ℕ} {s : State} (hk : Kept s₀ s) : Kept s₀ (opRxInject f j s) := by
  unfold opRxInject
  try dsimp only
  repeat' first
    | with_reducible assumption | (intro; try dsimp only) | with_reducible apply kept_foldl
    | with_reducible apply kept_ite | with_reducible apply inject_kept | with_reducible apply sendSurf_kept
    | with_reducible apply setBind_kept | split

theorem showDetour_kept {s₀ : State} {s : State} {f : ℕ} {k : ℕ} (hk : Kept s₀ s) : Kept s₀ (showDetour s f k) := by
  unfold showDetour
  try dsimp only
  repeat' first | with_reducible assumption | with_reducible apply setI_kept

theorem cabling_kept {s₀ : State} {s : State} {f : ℕ} {k : ℕ} (hk : Kept s₀ s) : Kept s₀ (cabling s f k) := by
  unfold cabling
  try dsimp only
  repeat' first | with_reducible assumption | with_reducible apply kept_ite | with_reducible apply setI_kept

theorem resendSub_kept {s₀ : State} {s : State} {f : ℕ} {k : ℕ} (hk : Kept s₀ s) : Kept s₀ (resendSub s f k) := by
  unfold resendSub
  try dsimp only
  repeat' first | with_reducible assumption | with_reducible apply txResend_kept

theorem flushSub_kept {s₀ : State} {s : State} {f : ℕ} {k : ℕ} (hk : Kept s₀ s) : Kept s₀ (flushSub s f k) := by
  unfold flushSub
  try dsimp only
  repeat' first
    | with_reducible assumption | (intro; try dsimp only) | with_reducible apply kept_foldl
    | with_reducible apply setSub_kept | with_reducible apply resendSub_kept | with_reducible apply sendSurf_kept

theorem portCheck_kept {s₀ : State} {s : State} {f : ℕ} (hk : Kept s₀ s) : Kept s₀ (portCheck s f) := by
  unfold portCheck
  try dsimp only
  repeat' first
    | with_reducible assumption | with_reducible apply kept_ite | with_reducible apply KeptParts.same
    | with_reducible apply sendRec_kept | with_reducible apply countLink_kept | simp only [kept_mk]

theorem loseSub_kept {s₀ : State} {s : State} {f : ℕ} {k : ℕ} (hk : Kept s₀ s) : Kept s₀ (loseSub s f k) := by
  unfold loseSub
  try dsimp only
  repeat' first
    | with_reducible assumption | with_reducible apply setI_kept | with_reducible apply sendRec_kept
    | with_reducible apply setSub_kept | with_reducible apply showDetour_kept | with_reducible apply portCheck_kept
    | with_reducible apply resendSub_kept | with_reducible apply flushSub_kept

theorem opSubTraining_kept {s₀ : State} {f : ℕ} {k : ℕ} {e : TrainEnd} {x : PeerId} {s : State} (hk : Kept s₀ s) :
    Kept s₀ (opSubTraining f k e x s) := by
  unfold opSubTraining
  try dsimp only
  repeat' first
    | with_reducible assumption | with_reducible apply kept_ite | with_reducible apply KeptParts.same
    | with_reducible apply sendRec_kept | with_reducible apply setI_kept | with_reducible apply cabling_kept
    | with_reducible apply wrReg_kept | with_reducible apply setSub_kept | with_reducible apply showDetour_kept
    | with_reducible apply flushSub_kept | with_reducible apply portResetDone_kept | with_reducible apply portCheck_kept
    | simp only [kept_mk] | split

theorem opSubLoss_kept {s₀ : State} {f : ℕ} {k : ℕ} {s : State} (hk : Kept s₀ s) : Kept s₀ (opSubLoss f k s) := by
  unfold opSubLoss
  try dsimp only
  repeat' first | with_reducible assumption | with_reducible apply kept_ite | with_reducible apply loseSub_kept

theorem measureFibre_kept {s₀ : State} {f : ℕ} {s : State} {e : FibreRead × ℕ} (hk : Kept s₀ s) : Kept s₀
    (measureFibre f s e) := by
  unfold measureFibre
  try dsimp only
  repeat' first
    | with_reducible assumption | with_reducible apply kept_ite | with_reducible apply setI_kept
    | with_reducible apply sendRec_kept

theorem measure_kept {s₀ : State} {f : ℕ} {m : List FibreRead} {s : State} (hk : Kept s₀ s) : Kept s₀ (measure f m s)
    := by
  unfold measure
  try dsimp only
  repeat' first
    | with_reducible assumption | (intro; try dsimp only) | with_reducible apply kept_foldl
    | with_reducible apply KeptParts.same | with_reducible apply measureFibre_kept | simp only [kept_mk]

theorem opReturnLoss_kept {s₀ : State} {f : ℕ} {m : List FibreRead} {s : State} (hk : Kept s₀ s) : Kept s₀
    (opReturnLoss f m s) := by
  unfold opReturnLoss
  try dsimp only
  repeat' first | with_reducible assumption | with_reducible apply kept_ite | with_reducible apply measure_kept

theorem askMeasure_kept {s₀ : State} {f : ℕ} {s : State} (hk : Kept s₀ s) : Kept s₀ (askMeasure f s) := by
  unfold askMeasure
  try dsimp only
  repeat' first | with_reducible assumption | with_reducible apply KeptParts.same | simp only [kept_mk]

theorem opNow_kept {s₀ : State} {f : ℕ} {m : List FibreRead} {s : State} (hk : Kept s₀ s) : Kept s₀ (opNow f m s) := by
  unfold opNow
  try dsimp only
  repeat' first | with_reducible assumption | with_reducible apply kept_ite | with_reducible apply measure_kept

theorem surfWarm_kept {s₀ : State} {s : State} (hk : Kept s₀ s) : Kept s₀ (surfWarm s) := by
  unfold surfWarm
  try dsimp only
  repeat' first | with_reducible assumption | with_reducible apply KeptParts.same | simp only [kept_mk]

end Sys2Proof.Machine
end

