-- ==== Sys2Proof/Laws/KeptLoss.lean ====
section
/-! SUPPORT. What the functions of Machine/Loss.lean leave alone (Laws/Kept.lean). -/
namespace Sys2Proof.Machine

theorem linkDown_kept {s₀ : State} {s : State} {g : ℕ} {p : Port} {flits : ℕ} (hk : Kept s₀ s) : Kept s₀ (linkDown s
    g p flits) := by
  unfold linkDown
  try dsimp only
  repeat' first
    | with_reducible assumption | (intro _ ht; exact Tile.sound_of ht rfl rfl rfl) | with_reducible apply kept_ite
    | with_reducible apply modTile_kept | with_reducible apply setF_kept | with_reducible apply countF_kept
    | with_reducible apply sendRec_kept

theorem setInput_kept {s₀ : State} {s : State} {g : ℕ} {k : ℕ} {xs : List InPkt} (hk : Kept s₀ s) : Kept s₀ (setInput
    s g k xs) := by
  unfold setInput
  try dsimp only
  repeat' first
    | with_reducible assumption | (intro _ ht; exact Tile.sound_of ht rfl rfl rfl) | with_reducible apply modTile_kept

theorem drainHead_kept {s₀ : State} {s : State} {g : ℕ} {k : ℕ} (hk : Kept s₀ s) : Kept s₀ (drainHead s g k) := by
  unfold drainHead
  try dsimp only
  repeat' first
    | with_reducible assumption | (intro _ ht; exact Tile.sound_of ht rfl rfl rfl) | with_reducible apply kept_ite
    | with_reducible apply modTile_kept | with_reducible apply setInput_kept | with_reducible apply progress_kept | split

theorem noteSent_kept {s₀ : State} {s : State} {g : ℕ} {k : ℕ} {o : ℕ} {n : ℕ} (hk : Kept s₀ s) : Kept s₀ (noteSent s
    g k o n) := by
  unfold noteSent
  try dsimp only
  repeat' first
    | with_reducible assumption | with_reducible apply drainHead_kept | with_reducible apply setInput_kept | split

theorem dropPart_kept {s₀ : State} {n0 : ℕ} {n1 : State} {n2 : ℕ} {n3 : ℕ} (hk : Kept s₀ n1) : Kept s₀ (dropPart n0
    n1 n2 n3) := by
  induction n0 generalizing n1 n2 n3 with
  | zero =>
    unfold dropPart
    try dsimp only
    repeat' first | with_reducible assumption
  | succ n ih =>
    unfold dropPart
    try dsimp only
    repeat' first
      | with_reducible assumption | (intro _ ht; exact Tile.sound_of ht rfl rfl rfl) | (intro; try dsimp only)
      | with_reducible apply ih | with_reducible apply kept_foldl | with_reducible apply kept_ite
      | with_reducible apply setInput_kept | with_reducible apply modTile_kept | split

theorem clearWire_kept {s₀ : State} {s : State} {g : ℕ} {p : Port} (hk : Kept s₀ s) : Kept s₀ (clearWire s g p) := by
  unfold clearWire
  try dsimp only
  repeat' first
    | with_reducible assumption | (intro _ ht; exact Tile.sound_of ht rfl rfl rfl) | (intro; try dsimp only)
    | with_reducible apply kept_foldl | with_reducible apply kept_ite | with_reducible apply dropPart_kept
    | with_reducible apply modTile_kept

theorem closeOut_kept {s₀ : State} {s : State} {g : ℕ} {o : ℕ} (hk : Kept s₀ s) : Kept s₀ (closeOut s g o) := by
  unfold closeOut
  try dsimp only
  repeat' first
    | with_reducible assumption | (intro; try dsimp only) | with_reducible apply kept_foldl
    | with_reducible apply noteSent_kept | split

theorem faceDown_kept {s₀ : State} {s : State} {f : ℕ} (hk : Kept s₀ s) : Kept s₀ (faceDown s f) := by
  unfold faceDown
  try dsimp only
  repeat' first
    | with_reducible assumption | (intro; try dsimp only) | with_reducible apply kept_foldl
    | with_reducible apply kept_ite | with_reducible apply linkDown_kept | with_reducible apply clearWire_kept
    | with_reducible apply closeOut_kept | split

theorem faceUp_kept {s₀ : State} {s : State} {f : ℕ} (hk : Kept s₀ s) : Kept s₀ (faceUp s f) := by
  unfold faceUp
  try dsimp only
  repeat' first
    | with_reducible assumption | (intro _ ht; exact Tile.sound_of ht rfl rfl rfl) | (intro; try dsimp only)
    | with_reducible apply kept_foldl | with_reducible apply modTile_kept | split

theorem leaveRuns_kept {s₀ : State} {s : State} {gone : ℕ → Bool} (hk : Kept s₀ s) : Kept s₀ (leaveRuns s gone) := by
  unfold leaveRuns
  try dsimp only
  repeat' first
    | with_reducible assumption | with_reducible apply KeptParts.same | with_reducible apply finishRuns_kept
    | simp only [kept_mk]

theorem haltRect_kept {s₀ : State} {s : State} {r : Rect} (hk : Kept s₀ s) : Kept s₀ (haltRect s r) := by
  unfold haltRect
  try dsimp only
  repeat' first
    | with_reducible assumption | (intro; try dsimp only) | with_reducible apply kept_foldl
    | with_reducible apply kept_ite | with_reducible apply haltPour_kept

theorem holdFor_kept {s₀ s : State} {k : Nat} {on : Nat → Bool} (h : Kept s₀ s) : Kept s₀ (holdFor s k on) := by
  have hk : Kept s₀ ((contextsOf s on).foldl holdContext s) := kept_foldl h fun _ _ ht => holdContext_kept ht
  unfold holdFor
  dsimp only
  rw [kept_mk]
  exact KeptParts.same hk

theorem endHeld_kept {s₀ s : State} {k : Nat} (h : Kept s₀ s) : Kept s₀ (endHeld s k) := by
  unfold endHeld
  dsimp only
  refine kept_foldl ?_ fun _ _ ht => endHolds_kept ht
  rw [kept_mk]
  exact KeptParts.same h

theorem moveHeld_kept {s₀ : State} {s : State} {k : ℕ} (hk : Kept s₀ s) : Kept s₀ (moveHeld s k) := by
  unfold moveHeld
  try dsimp only
  repeat' first | with_reducible assumption | with_reducible apply KeptParts.same | simp only [kept_mk]

theorem keepRequests_kept {s₀ : State} {s : State} {rs : List Rect} (hk : Kept s₀ s) : Kept s₀ (keepRequests s rs) := by
  unfold keepRequests
  try dsimp only
  repeat' first | with_reducible assumption | with_reducible apply KeptParts.same | simp only [kept_mk]

theorem openLoss_kept {s₀ : State} {s : State} {f : ℕ} {cause : ℕ} {old : Option Incident} (hk : Kept s₀ s) : Kept s₀
    (openLoss s f cause old) := by
  unfold openLoss
  try dsimp only
  repeat' first
    | with_reducible assumption | with_reducible apply KeptParts.same | with_reducible apply openIncident_kept
    | with_reducible apply keepRequests_kept | simp only [kept_mk]

theorem joinLoss_kept {s₀ : State} {s : State} {inc : Incident} {f : ℕ} (hk : Kept s₀ s) : Kept s₀ (joinLoss s inc f)
    := by
  unfold joinLoss
  try dsimp only
  repeat' first
    | with_reducible assumption | with_reducible apply KeptParts.same | with_reducible apply keepRequests_kept
    | simp only [kept_mk]

theorem lossIncident_kept {s₀ : State} {s : State} {f : ℕ} {cause : ℕ} (hk : Kept s₀ s) : Kept s₀ (lossIncident s f
    cause) := by
  unfold lossIncident
  try dsimp only
  repeat' first
    | with_reducible assumption | with_reducible apply kept_ite | with_reducible apply KeptParts.same
    | with_reducible apply openLoss_kept | with_reducible apply resumeTimers_kept | with_reducible apply moveHeld_kept
    | with_reducible apply joinLoss_kept | simp only [kept_mk] | split

theorem holdAll_kept {s₀ : State} {s : State} {cause : ℕ} {unit : ℕ} (hk : Kept s₀ s) : Kept s₀ (holdAll s cause
    unit) := by
  unfold holdAll
  try dsimp only
  repeat' first
    | with_reducible assumption | with_reducible apply KeptParts.same | with_reducible apply openIncident_kept
    | simp only [kept_mk] | split

theorem setSlow_kept {s₀ : State} {s : State} {f : ℕ} {on : Bool} (hk : Kept s₀ s) : Kept s₀ (setSlow s f on) := by
  unfold setSlow
  try dsimp only
  repeat' first | with_reducible assumption | with_reducible apply setF_kept

theorem setFull_kept {s₀ : State} {s : State} {f : ℕ} {on : Bool} (hk : Kept s₀ s) : Kept s₀ (setFull s f on) := by
  unfold setFull
  try dsimp only
  repeat' first | with_reducible assumption | with_reducible apply setF_kept

theorem dropField_kept {s₀ s : State} {f : Nat} (h : Kept s₀ s) : Kept s₀ (dropField s f) := by
  unfold dropField
  have k : Kept s₀ ((List.range 8).foldl (fun s k => if getI s F.OPT_SUB_STATE f k = 0 then s else loseSub s f k) s) :=
    kept_foldl h fun t x ht => kept_ite ht (loseSub_kept ht)
  dsimp only
  rw [kept_mk]
  exact KeptParts.upd k rfl (clearRegs_sorted _ _ _) sound_filter id

theorem loseField_kept {s₀ : State} {s : State} {f : ℕ} {cause : ℕ} (hk : Kept s₀ s) : Kept s₀ (loseField s f cause) := by
  unfold loseField
  try dsimp only
  repeat' first
    | with_reducible assumption | with_reducible apply kept_ite | with_reducible apply holdFor_kept
    | with_reducible apply haltRect_kept | with_reducible apply setFull_kept | with_reducible apply setSlow_kept
    | with_reducible apply faceDown_kept | with_reducible apply dropField_kept | with_reducible apply setF_kept
    | with_reducible apply queueLost_kept | with_reducible apply leaveRuns_kept | with_reducible apply askSnap_kept
    | with_reducible apply lossIncident_kept | with_reducible apply updateService_kept

theorem opFieldLoss_kept {s₀ : State} {f : ℕ} {cause : ℕ} {s : State} (hk : Kept s₀ s) : Kept s₀ (opFieldLoss f cause
    s) := by
  unfold opFieldLoss
  try dsimp only
  repeat' first
    | with_reducible assumption | with_reducible apply kept_ite | with_reducible apply KeptParts.same
    | with_reducible apply loseField_kept | with_reducible apply setF_kept | simp only [kept_mk]

end Sys2Proof.Machine
end

