-- ==== Sys2Proof/Laws/KeptBroisRows.lean ====
section
/-! SUPPORT. What the functions of Machine/BroisRows.lean leave alone (Laws/Kept.lean). -/
namespace Sys2Proof.Machine

theorem modLink_kept {s₀ : State} {s : State} {l : ℕ} {f : BLink → BLink} (hk : Kept s₀ s) : Kept s₀ (modLink s l f) := by
  unfold modLink
  try dsimp only
  repeat' first | with_reducible assumption | with_reducible apply setLink_kept

theorem retryReads_kept {s₀ : State} {s : State} {n0 : ℕ} (hk : Kept s₀ s) : Kept s₀ (retryReads s n0) := by
  induction n0 generalizing s with
  | zero =>
    unfold retryReads
    try dsimp only
    repeat' first | with_reducible assumption
  | succ n ih =>
    unfold retryReads
    try dsimp only
    repeat' first
      | with_reducible assumption | with_reducible apply ih | with_reducible apply KeptParts.same
      | with_reducible apply modLink_kept | with_reducible apply setI_kept | with_reducible apply sendPkt_kept
      | simp only [kept_mk] | split

theorem pumpBrois_kept {s₀ : State} {s : State} (hk : Kept s₀ s) : Kept s₀ (pumpBrois s) := by
  unfold pumpBrois
  try dsimp only
  repeat' first
    | with_reducible assumption | with_reducible apply retryReadmit_kept | with_reducible apply retryReads_kept
    | with_reducible apply retryWrites_kept

theorem fillReplay_kept {s₀ : State} {s : State} {l : ℕ} {n0 : ℕ} (hk : Kept s₀ s) : Kept s₀ (fillReplay s l n0) := by
  induction n0 generalizing s l with
  | zero =>
    unfold fillReplay
    try dsimp only
    repeat' first | with_reducible assumption
  | succ n ih =>
    unfold fillReplay
    try dsimp only
    repeat' first
      | with_reducible assumption | with_reducible apply ih | with_reducible apply kept_ite
      | with_reducible apply sendPkt_kept | with_reducible apply setLink_kept | split

theorem enterRecover_kept {s₀ : State} {s : State} {l : ℕ} (hk : Kept s₀ s) : Kept s₀ (enterRecover s l) := by
  unfold enterRecover
  try dsimp only
  repeat' first
    | with_reducible assumption | with_reducible apply kept_ite | with_reducible apply countI_kept
    | with_reducible apply setI_kept

theorem replay_kept {s₀ : State} {s : State} {l : ℕ} (hk : Kept s₀ s) : Kept s₀ (replay s l) := by
  unfold replay
  try dsimp only
  repeat' first
    | with_reducible assumption | with_reducible apply kept_ite | with_reducible apply enterRecover_kept
    | with_reducible apply countLink_kept | with_reducible apply countI_kept | with_reducible apply setLink_kept | split

theorem opBroisFlit_kept {s₀ : State} {l : ℕ} {h : W32} {fixed : Bool} {ok : Bool} {s : State} (hk : Kept s₀ s) :
    Kept s₀ (opBroisFlit l h fixed ok s) := by
  unfold opBroisFlit
  try dsimp only
  repeat' first
    | with_reducible assumption | with_reducible apply kept_ite | with_reducible apply countI_kept
    | with_reducible apply setLink_kept | with_reducible apply setI_kept | with_reducible apply replay_kept
    | with_reducible apply pumpBrois_kept | with_reducible apply fillReplay_kept

theorem opReplayTimeout_kept {s₀ : State} {l : ℕ} {s : State} (hk : Kept s₀ s) : Kept s₀ (opReplayTimeout l s) := by
  unfold opReplayTimeout
  try dsimp only
  repeat' first | with_reducible assumption | with_reducible apply kept_ite | with_reducible apply replay_kept | split

theorem setWidth_kept {s₀ : State} {s : State} {l : ℕ} {bad : ℕ} {x : ℕ × ℕ} (hk : Kept s₀ s) : Kept s₀ (setWidth s l
    bad x) := by
  unfold setWidth
  try dsimp only
  repeat' first | with_reducible assumption | with_reducible apply setI_kept

theorem failAttempt_kept {s₀ : State} {s : State} {l : ℕ} (hk : Kept s₀ s) : Kept s₀ (failAttempt s l) := by
  unfold failAttempt
  try dsimp only
  repeat' first | with_reducible assumption | with_reducible apply modLink_kept

theorem opRecover_kept {s₀ : State} {l : ℕ} {e : RecoverEvent} {s : State} (hk : Kept s₀ s) : Kept s₀ (opRecover l e
    s) := by
  unfold opRecover
  try dsimp only
  repeat' first
    | with_reducible assumption | with_reducible apply kept_ite | with_reducible apply enterRecover_kept
    | with_reducible apply failAttempt_kept | with_reducible apply setI_kept | with_reducible apply setWidth_kept
    | with_reducible apply modLink_kept | with_reducible apply sendRec_kept | with_reducible apply pumpBrois_kept | split

theorem loseLink_kept {s₀ : State} {s : State} {l : ℕ} (hk : Kept s₀ s) : Kept s₀ (loseLink s l) := by
  unfold loseLink
  try dsimp only
  repeat' first
    | with_reducible assumption | with_reducible apply KeptParts.same | with_reducible apply countLink_kept
    | with_reducible apply sendRec_kept | with_reducible apply setI_kept | with_reducible apply setLink_kept
    | with_reducible apply pumpBrois_kept | simp only [kept_mk]

theorem opLinkLoss_kept {s₀ : State} {l : ℕ} {s : State} (hk : Kept s₀ s) : Kept s₀ (opLinkLoss l s) := by
  unfold opLinkLoss
  try dsimp only
  repeat' first | with_reducible assumption | with_reducible apply kept_ite | with_reducible apply loseLink_kept

theorem opRetrain_kept {s₀ : State} {l : ℕ} {s : State} (hk : Kept s₀ s) : Kept s₀ (opRetrain l s) := by
  unfold opRetrain
  try dsimp only
  repeat' first | with_reducible assumption | with_reducible apply enterRecover_kept

theorem opBroisTraining_kept {s₀ : State} {l : ℕ} {bad : ℕ} {ok : Bool} {s : State} (hk : Kept s₀ s) : Kept s₀
    (opBroisTraining l bad ok s) := by
  unfold opBroisTraining
  try dsimp only
  repeat' first
    | with_reducible assumption | with_reducible apply kept_ite | with_reducible apply KeptParts.same
    | with_reducible apply setLink_kept | with_reducible apply setI_kept | with_reducible apply setWidth_kept
    | with_reducible apply sendRec_kept | with_reducible apply pumpBrois_kept | simp only [kept_mk] | split

theorem opBothLost_kept {s₀ : State} {s : State} (hk : Kept s₀ s) : Kept s₀ (opBothLost s) := by
  unfold opBothLost
  try dsimp only
  repeat' first
    | with_reducible assumption | with_reducible apply kept_ite | with_reducible apply KeptParts.same
    | with_reducible apply holdAll_kept | simp only [kept_mk]

theorem lostCmd_kept {s₀ : State} {s : State} {idx : W32} {status : ℕ} (hk : Kept s₀ s) : Kept s₀ (lostCmd s idx
    status).2 := by
  unfold lostCmd
  try dsimp only
  repeat' first | with_reducible assumption | with_reducible apply KeptParts.same | simp only [kept_mk]

theorem opMemRdata_kept {s₀ : State} {k : ℕ} {rstat : ℕ} {data : List Byte} {s : State} (hk : Kept s₀ s) : Kept s₀
    (opMemRdata k rstat data s) := by
  unfold opMemRdata
  try dsimp only
  repeat' first
    | with_reducible assumption | with_reducible apply kept_ite | with_reducible apply kept_ite_snd
    | with_reducible apply KeptParts.same | with_reducible apply setI_kept | with_reducible apply countF_kept
    | with_reducible apply lostCmd_kept | with_reducible apply touchNext_kept | with_reducible apply modCq_kept
    | with_reducible apply flushReadmit_kept | with_reducible apply completeIdx_kept
    | with_reducible apply pumpBrois_kept | simp only [kept_mk] | split

theorem released_kept {s₀ : State} {s : State} {w : CompWrite} (hk : Kept s₀ s) : Kept s₀ (released s w) := by
  unfold released
  try dsimp only
  repeat' first
    | with_reducible assumption | with_reducible apply kept_ite | with_reducible apply setI_kept
    | with_reducible apply addEvc_kept | with_reducible apply sendIrq_kept | with_reducible apply setF_kept | split

theorem opMemAck_kept {s₀ : State} {k : ℕ} {rstat : ℕ} {s : State} (hk : Kept s₀ s) : Kept s₀ (opMemAck k rstat s) := by
  unfold opMemAck
  try dsimp only
  repeat' first
    | with_reducible assumption | with_reducible apply kept_ite | with_reducible apply KeptParts.same
    | with_reducible apply sendRec_kept | with_reducible apply countF_kept | with_reducible apply pumpBrois_kept
    | with_reducible apply released_kept | simp only [kept_mk] | split

end Sys2Proof.Machine
end

