-- ==== Sys2Proof/Laws/KeptPorts.lean ====
section
/-! SUPPORT. What the functions of Machine/Ports.lean leave alone (Laws/Kept.lean). -/
namespace Sys2Proof.Machine

theorem opPortTraining_kept {s₀ : State} {p : ℕ} {e : TrainEnd} {s : State} (hk : Kept s₀ s) : Kept s₀
    (opPortTraining p e s) := by
  unfold opPortTraining
  try dsimp only
  repeat' first
    | with_reducible assumption | with_reducible apply kept_ite | with_reducible apply KeptParts.same
    | with_reducible apply setI_kept | with_reducible apply sendRec_kept | with_reducible apply rehome_kept
    | with_reducible apply portResetDone_kept | with_reducible apply retryOuts_kept | simp only [kept_mk] | split

theorem portDown_kept {s₀ : State} {s : State} {p : ℕ} (hk : Kept s₀ s) : Kept s₀ (portDown s p) := by
  unfold portDown
  try dsimp only
  repeat' first
    | with_reducible assumption | (intro; try dsimp only) | with_reducible apply kept_foldl
    | with_reducible apply KeptParts.same | with_reducible apply countLink_kept | with_reducible apply sendRec_kept
    | with_reducible apply setI_kept | with_reducible apply resendOut_kept | with_reducible apply rehome_kept
    | simp only [kept_mk]

theorem opPortDown_kept {s₀ : State} {p : ℕ} {n : ℕ} {lock : Bool} {s : State} (hk : Kept s₀ s) : Kept s₀ (opPortDown
    p n lock s) := by
  unfold opPortDown
  try dsimp only
  repeat' first
    | with_reducible assumption | with_reducible apply kept_ite | with_reducible apply countLink_kept
    | with_reducible apply countI_kept | with_reducible apply portDown_kept

theorem opPeerRequest_kept {s₀ : State} {p : ℕ} {k : CstPkt} {s : State} (hk : Kept s₀ s) : Kept s₀ (opPeerRequest p
    k s) := by
  unfold opPeerRequest
  try dsimp only
  repeat' first
    | with_reducible assumption | (intro; try dsimp only) | with_reducible apply cstIn_kept
    | with_reducible apply sendFrame_kept

theorem answerRead_kept {s₀ : State} {s : State} {o : NetOut} {bs : Option (List Byte)} (hk : Kept s₀ s) : Kept s₀
    (answerRead s o bs) := by
  unfold answerRead
  try dsimp only
  repeat' first
    | with_reducible assumption | with_reducible apply KeptParts.same | with_reducible apply finishFar_kept
    | with_reducible apply poisonPage_kept | with_reducible apply resumeReads_kept | with_reducible apply retryOuts_kept
    | simp only [kept_mk] | split

theorem opReadResp_kept {s₀ : State} {p : ℕ} {k : CstPkt} {s : State} (hk : Kept s₀ s) : Kept s₀ (opReadResp p k s) := by
  unfold opReadResp
  try dsimp only
  repeat' first
    | with_reducible assumption | (intro; try dsimp only) | with_reducible apply kept_ite
    | with_reducible apply cstIn_kept | with_reducible apply acked_kept | with_reducible apply countF_kept
    | with_reducible apply answerRead_kept | split

theorem opCstAck_kept {s₀ : State} {p : ℕ} {k : CstPkt} {s : State} (hk : Kept s₀ s) : Kept s₀ (opCstAck p k s) := by
  unfold opCstAck
  try dsimp only
  repeat' first
    | with_reducible assumption | (intro; try dsimp only) | with_reducible apply kept_ite
    | with_reducible apply cstIn_kept | with_reducible apply resumeReads_kept | with_reducible apply acked_kept

theorem opNak_kept {s₀ : State} {p : ℕ} {k : CstPkt} {s : State} (hk : Kept s₀ s) : Kept s₀ (opNak p k s) := by
  unfold opNak
  try dsimp only
  repeat' first
    | with_reducible assumption | (intro; try dsimp only) | with_reducible apply cstIn_kept
    | with_reducible apply failConn_kept

theorem opCnp_kept {s₀ : State} {p : ℕ} {k : CstPkt} {s : State} (hk : Kept s₀ s) : Kept s₀ (opCnp p k s) := by
  unfold opCnp
  try dsimp only
  repeat' first
    | with_reducible assumption | (intro; try dsimp only) | with_reducible apply kept_ite
    | with_reducible apply cstIn_kept | with_reducible apply notify_kept

theorem opCollPkt_kept {s₀ : State} {p : ℕ} {k : CstPkt} {s : State} (hk : Kept s₀ s) : Kept s₀ (opCollPkt p k s) := by
  unfold opCollPkt
  try dsimp only
  repeat' first
    | with_reducible assumption | (intro; try dsimp only) | with_reducible apply kept_ite
    | with_reducible apply KeptParts.same | with_reducible apply cstIn_kept | with_reducible apply modConn_kept
    | with_reducible apply acked_kept | with_reducible apply recvSeq_kept | with_reducible apply pfcCheck_kept
    | simp only [kept_mk] | split

theorem opRto_kept {s₀ : State} {k : ℕ} {s : State} (hk : Kept s₀ s) : Kept s₀ (opRto k s) := by
  unfold opRto
  try dsimp only
  repeat' first
    | with_reducible assumption | with_reducible apply kept_ite | with_reducible apply failConn_kept
    | with_reducible apply resendOut_kept | split

theorem opAckTimer_kept {s₀ : State} {k : ℕ} {s : State} (hk : Kept s₀ s) : Kept s₀ (opAckTimer k s) := by
  unfold opAckTimer
  try dsimp only
  repeat' first | with_reducible assumption | with_reducible apply kept_ite | with_reducible apply sendAck_kept | split

theorem opRateRaise_kept {s₀ : State} {k : ℕ} {s : State} (hk : Kept s₀ s) : Kept s₀ (opRateRaise k s) := by
  unfold opRateRaise
  try dsimp only
  repeat' first | with_reducible assumption | with_reducible apply kept_ite | with_reducible apply setRate_kept | split

theorem connCtrl_kept {s₀ : State} {v : Word} {s : State} (hk : Kept s₀ s) : Kept s₀ (connCtrl v s) := by
  unfold connCtrl
  try dsimp only
  repeat' first
    | with_reducible assumption | with_reducible apply kept_ite | with_reducible apply setF_kept
    | with_reducible apply openConn_kept | with_reducible apply showConn_kept | with_reducible apply closeConn_kept

theorem opOpen_kept {s₀ : State} {v : Word} {s : State} (hk : Kept s₀ s) : Kept s₀ (opOpen v s) := by
  unfold opOpen
  try dsimp only
  repeat' first | with_reducible assumption | with_reducible apply kept_ite | with_reducible apply connCtrl_kept

theorem opCloseConn_kept {s₀ : State} {v : Word} {s : State} (hk : Kept s₀ s) : Kept s₀ (opCloseConn v s) := by
  unfold opCloseConn
  try dsimp only
  repeat' first | with_reducible assumption | with_reducible apply kept_ite | with_reducible apply connCtrl_kept

theorem opInval_kept {s₀ : State} {s : State} (hk : Kept s₀ s) : Kept s₀ (opInval s) := by
  unfold opInval
  try dsimp only
  repeat' first | with_reducible assumption | with_reducible apply KeptParts.same | simp only [kept_mk]

theorem roceIn_kept {s₀ s : State} {p : Nat} {k : RocePkt} {f : Nat → Nat → State → State} (h : Kept s₀ s)
    (hf : ∀ n c t, Kept s₀ t → Kept s₀ (f n c t)) : Kept s₀ (roceIn s p k f) := by
  unfold roceIn
  dsimp only
  repeat' first
    | with_reducible assumption | with_reducible apply kept_ite | with_reducible apply countI_kept
    | with_reducible apply tellPeer_kept | with_reducible apply hf

theorem roceAcked_kept {s₀ : State} {s : State} {n : ℕ} {c : ℕ} {psn : ℕ} (hk : Kept s₀ s) : Kept s₀ (roceAcked s n c
    psn) := by
  unfold roceAcked
  try dsimp only
  repeat' first
    | with_reducible assumption | (intro; try dsimp only) | with_reducible apply kept_foldl
    | with_reducible apply KeptParts.same | with_reducible apply finishFar_kept | simp only [kept_mk] | split

theorem goBack_kept {s₀ : State} {s : State} {n : ℕ} {c : ℕ} {psn : ℕ} (hk : Kept s₀ s) : Kept s₀ (goBack s n c psn) := by
  unfold goBack
  try dsimp only
  repeat' first
    | with_reducible assumption | (intro; try dsimp only) | with_reducible apply kept_foldl
    | with_reducible apply resendOut_kept

theorem opRoceResponse_kept {s₀ : State} {p : ℕ} {k : RocePkt} {s : State} (hk : Kept s₀ s) : Kept s₀ (opRoceResponse
    p k s) := by
  unfold opRoceResponse
  try dsimp only
  repeat' first
    | with_reducible assumption | (intro; try dsimp only) | with_reducible apply kept_ite
    | with_reducible apply roceIn_kept | with_reducible apply roceAcked_kept | with_reducible apply answerRead_kept
    | with_reducible apply countF_kept | with_reducible apply resumeReads_kept | with_reducible apply retryOuts_kept
    | with_reducible apply goBack_kept | with_reducible apply failConn_kept | with_reducible apply notify_kept | split

theorem opRoceInbound_kept {s₀ : State} {p : ℕ} {k : RocePkt} {s : State} (hk : Kept s₀ s) : Kept s₀ (opRoceInbound p
    k s) := by
  unfold opRoceInbound
  try dsimp only
  repeat' first
    | with_reducible assumption | with_reducible apply kept_ite | with_reducible apply countI_kept
    | with_reducible apply sendFrame_kept

theorem opRoceTimeout_kept {s₀ : State} {k : ℕ} {s : State} (hk : Kept s₀ s) : Kept s₀ (opRoceTimeout k s) := by
  unfold opRoceTimeout
  try dsimp only
  repeat' first
    | with_reducible assumption | with_reducible apply kept_ite | with_reducible apply failConn_kept
    | with_reducible apply goBack_kept | split

theorem opPfc_kept {s₀ : State} {p : ℕ} {on : BitVec 8} {off : BitVec 8} {s : State} (hk : Kept s₀ s) : Kept s₀
    (opPfc p on off s) := by
  unfold opPfc
  try dsimp only
  repeat' first
    | with_reducible assumption | with_reducible apply kept_ite | with_reducible apply KeptParts.same
    | simp only [kept_mk]

theorem opArp_kept {s₀ : State} {p : ℕ} {v6 : Bool} {a : BitVec 128} {s : State} (hk : Kept s₀ s) : Kept s₀ (opArp p
    v6 a s) := by
  unfold opArp
  try dsimp only
  repeat' first | with_reducible assumption | with_reducible apply kept_ite | with_reducible apply sendFrame_kept

theorem netWarm_kept {s₀ : State} {s : State} (hk : Kept s₀ s) : Kept s₀ (netWarm s) := by
  unfold netWarm
  try dsimp only
  repeat' first | with_reducible assumption | with_reducible apply KeptParts.same | simp only [kept_mk]

end Sys2Proof.Machine
end

