-- ==== Sys2Proof/Laws/KeptLedger.lean ====
section
/-! SUPPORT. What the functions of Machine/Ledger.lean leave alone (Laws/Kept.lean). -/
namespace Sys2Proof.Machine

theorem putSnap_kept {s₀ : State} {s : State} {l : Ledger} {kind : ℕ} (hk : Kept s₀ s) : Kept s₀ (putSnap s l kind) := by
  unfold putSnap
  try dsimp only
  repeat' first
    | with_reducible assumption | with_reducible apply KeptParts.same | with_reducible apply setF_kept
    | simp only [kept_mk]

theorem writeSnap_kept {s₀ : State} {s : State} {kind : ℕ} (hk : Kept s₀ s) : Kept s₀ (writeSnap s kind) := by
  unfold writeSnap
  try dsimp only
  repeat' first | with_reducible assumption | with_reducible apply putSnap_kept

theorem opSnap_kept {s₀ : State} {ok : Bool} {s : State} (hk : Kept s₀ s) : Kept s₀ (opSnap ok s) := by
  unfold opSnap
  try dsimp only
  repeat' first
    | with_reducible assumption | with_reducible apply kept_ite | with_reducible apply KeptParts.same
    | with_reducible apply writeSnap_kept | with_reducible apply setF_kept | simp only [kept_mk]

theorem opSnapNow_kept {s₀ : State} {s : State} (hk : Kept s₀ s) : Kept s₀ (opSnapNow s) := by
  unfold opSnapNow
  try dsimp only
  repeat' first | with_reducible assumption | with_reducible apply askSnap_kept

theorem opCalendar_kept {s₀ : State} {v : Word} {s : State} (hk : Kept s₀ s) : Kept s₀ (opCalendar v s) := by
  unfold opCalendar
  try dsimp only
  repeat' first | with_reducible assumption | with_reducible apply askSnap_kept | with_reducible apply setF_kept

theorem opBand_kept {s₀ : State} {f : ℕ} {s : State} (hk : Kept s₀ s) : Kept s₀ (opBand f s) := by
  unfold opBand
  try dsimp only
  repeat' first
    | with_reducible assumption | with_reducible apply kept_ite | with_reducible apply KeptParts.same
    | simp only [kept_mk] | split

theorem dark_kept {s₀ s : State} (h : Kept s₀ s) : Kept s₀ (dark s) := by
  unfold dark State.reset
  rw [kept_mk]
  exact ⟨h.1, h.2.1, h.2.2.1, fun _ => ⟨⟨rfl, rfl, fun _ he => absurd he List.not_mem_nil⟩, Nat.zero_le _⟩⟩

theorem flashAtStop_active (s : State) (c : Nat) (ok : Bool) : (flashAtStop s c ok).active = s.power.flash.active := by
  unfold flashAtStop
  dsimp only
  cases ok <;> cases s.loader.staging <;> rfl

theorem opLastBreath_kept {s₀ s : State} {ok : Bool} (h : Kept s₀ s) : Kept s₀ (opLastBreath ok s) := by
  unfold opLastBreath
  split
  · exact h
  · refine dark_kept ?_
    rw [kept_mk, flashAtStop_active]
    exact KeptParts.same h

theorem mergeBreaths_kept {s₀ : State} {s : State} (hk : Kept s₀ s) : Kept s₀ (mergeBreaths s) := by
  unfold mergeBreaths
  try dsimp only
  repeat' first
    | with_reducible assumption | (intro; try dsimp only) | with_reducible apply kept_foldl
    | with_reducible apply kept_ite | with_reducible apply KeptParts.same | with_reducible apply setF_kept
    | with_reducible apply sendRec_kept | simp only [kept_mk]

theorem startLedger_kept {s₀ : State} {s : State} (hk : Kept s₀ s) : Kept s₀ (startLedger s) := by
  unfold startLedger
  try dsimp only
  repeat' first
    | with_reducible assumption | with_reducible apply KeptParts.same | with_reducible apply mergeBreaths_kept
    | with_reducible apply setF_kept | with_reducible apply writeSnap_kept | simp only [kept_mk]

end Sys2Proof.Machine
end

