-- ==== Sys2Proof/Laws/KeptTelemetry.lean ====
section
/-! SUPPORT. What the functions of Machine/Telemetry.lean leave alone (Laws/Kept.lean). -/
namespace Sys2Proof.Machine

theorem hold_kept {s₀ : State} {s : State} {k : ℕ} {b : Bool} (hk : Kept s₀ s) : Kept s₀ (hold s k b) := by
  unfold hold
  try dsimp only
  repeat' first | with_reducible assumption | with_reducible apply KeptParts.same | simp only [kept_mk]

theorem sample_kept {s₀ : State} {s : State} {k : ℕ} {v : ℕ} (hk : Kept s₀ s) : Kept s₀ (sample s k v).2 := by
  unfold sample
  try dsimp only
  repeat' first | with_reducible assumption | with_reducible apply KeptParts.same | simp only [kept_mk]

theorem due_kept {s₀ : State} {s : State} {cause : ℕ} (hk : Kept s₀ s) : Kept s₀ (due s cause) := by
  unfold due
  try dsimp only
  repeat' first
    | with_reducible assumption | with_reducible apply kept_ite | with_reducible apply KeptParts.same
    | simp only [kept_mk]

theorem watchSupply_kept {s₀ : State} {s : State} (hk : Kept s₀ s) : Kept s₀ (watchSupply s) := by
  unfold watchSupply
  try dsimp only
  repeat' first | with_reducible assumption | with_reducible apply hold_kept

theorem showBlades_kept {s₀ : State} {s : State} (hk : Kept s₀ s) : Kept s₀ (showBlades s) := by
  unfold showBlades
  try dsimp only
  repeat' first
    | with_reducible assumption | (intro; try dsimp only) | with_reducible apply kept_foldl
    | with_reducible apply kept_ite | with_reducible apply setI_kept | with_reducible apply sendRec_kept
    | with_reducible apply setF_kept

theorem takeInput_kept {s₀ s : State} {vin : Nat} (h : Kept s₀ s) : Kept s₀ (takeInput vin s) := by
  unfold takeInput
  extract_lets p s1 a s2 b s3 c s4 s5 s6 pw s7 s8
  have h1 : Kept s₀ s1 := kept_power h rfl
  clear_value s1
  have h2 : Kept s₀ s2 := setF_kept (sample_kept h1)
  clear_value s2
  have h3 : Kept s₀ s3 := setF_kept (sample_kept h2)
  clear_value s3
  have h4 : Kept s₀ s4 := setF_kept (sample_kept h3)
  clear_value s4
  have h6 : Kept s₀ s6 := watchSupply_kept (hold_kept (hold_kept (hold_kept h4)))
  clear_value s6
  have h7 : Kept s₀ s7 := kept_ite (sendRec_kept (kept_power h6 rfl)) h6
  clear_value s7
  have h8 : Kept s₀ s8 := kept_ite (due_kept h7) h7
  exact kept_ite (due_kept h8) h8

theorem takeBlade_kept {s₀ : State} {b : ℕ} {current : ℕ} {s : State} (hk : Kept s₀ s) : Kept s₀ (takeBlade b current
    s) := by
  unfold takeBlade
  try dsimp only
  repeat' first
    | with_reducible assumption | with_reducible apply KeptParts.same | with_reducible apply sample_kept
    | with_reducible apply watchSupply_kept | with_reducible apply showBlades_kept | with_reducible apply setI_kept
    | simp only [kept_mk]

theorem takeRail_kept {s₀ : State} {f : ℕ} {v : ℕ} {i : ℕ} {s : State} (hk : Kept s₀ s) : Kept s₀ (takeRail f v i s) := by
  unfold takeRail
  try dsimp only
  repeat' first | with_reducible assumption | with_reducible apply sample_kept | with_reducible apply setF_kept

theorem opStage_kept {s₀ : State} {s : State} (hk : Kept s₀ s) : Kept s₀ (opStage s) := by
  unfold opStage
  try dsimp only
  repeat' first
    | with_reducible assumption | with_reducible apply kept_ite | with_reducible apply KeptParts.same
    | with_reducible apply setF_kept | with_reducible apply sendRec_kept | simp only [kept_mk]

theorem applyStretch_kept {s₀ : State} {s : State} (hk : Kept s₀ s) : Kept s₀ (applyStretch s) := by
  unfold applyStretch
  try dsimp only
  repeat' first
    | with_reducible assumption | (intro; try dsimp only) | with_reducible apply kept_foldl
    | with_reducible apply KeptParts.same | with_reducible apply setF_kept | simp only [kept_mk]

theorem showHalved_kept {s₀ : State} {s : State} {f : ℕ} (hk : Kept s₀ s) : Kept s₀ (showHalved s f) := by
  unfold showHalved
  try dsimp only
  repeat' first | with_reducible assumption | with_reducible apply setF_kept

theorem showHeld_kept {s₀ s : State} (h : Kept s₀ s) : Kept s₀ (showHeld s) := by
  unfold showHeld
  refine kept_foldl h fun t f ht => kept_ite (setF_kept ht) ?_
  exact kept_power (setF_kept ht) rfl

theorem heatOff_kept {s₀ : State} {s : State} {f : ℕ} (hk : Kept s₀ s) : Kept s₀ (heatOff s f) := by
  unfold heatOff
  try dsimp only
  repeat' first
    | with_reducible assumption | with_reducible apply KeptParts.same | with_reducible apply setF_kept
    | with_reducible apply loseField_kept | simp only [kept_mk]

theorem actHeat_kept {s₀ : State} {s : State} {f : ℕ} (hk : Kept s₀ s) : Kept s₀ (actHeat s f) := by
  unfold actHeat
  try dsimp only
  repeat' first
    | with_reducible assumption | with_reducible apply kept_ite | with_reducible apply KeptParts.same
    | with_reducible apply hold_kept | with_reducible apply due_kept | with_reducible apply heatOff_kept
    | with_reducible apply sendRec_kept | simp only [kept_mk] | split

theorem takeTj_kept {s₀ : State} {f : ℕ} {q : Word} {s : State} (hk : Kept s₀ s) : Kept s₀ (takeTj f q s) := by
  unfold takeTj
  try dsimp only
  repeat' first
    | with_reducible assumption | (intro; try dsimp only) | with_reducible apply kept_foldl
    | with_reducible apply KeptParts.same | with_reducible apply wrReg_kept | with_reducible apply sendRec_kept
    | with_reducible apply showHeld_kept | with_reducible apply showHalved_kept | with_reducible apply actHeat_kept
    | with_reducible apply setF_kept | simp only [kept_mk]

theorem opHeatRestore_kept {s₀ : State} {f : ℕ} {s : State} (hk : Kept s₀ s) : Kept s₀ (opHeatRestore f s) := by
  unfold opHeatRestore
  try dsimp only
  repeat' first
    | with_reducible assumption | with_reducible apply kept_ite | with_reducible apply KeptParts.same
    | with_reducible apply sendRec_kept | with_reducible apply showHalved_kept | simp only [kept_mk]

theorem takeStack_kept {s₀ : State} {n : ℕ} {t : BitVec 16} {s : State} (hk : Kept s₀ s) : Kept s₀ (takeStack n t s) := by
  unfold takeStack
  try dsimp only
  repeat' first
    | with_reducible assumption | with_reducible apply kept_ite | with_reducible apply KeptParts.same
    | with_reducible apply setF_kept | with_reducible apply hold_kept | with_reducible apply due_kept
    | simp only [kept_mk]

theorem takeCoolant_kept {s₀ : State} {inlet : BitVec 16} {outlet : BitVec 16} {flow : ℕ} {s : State} (hk : Kept s₀
    s) : Kept s₀ (takeCoolant inlet outlet flow s) := by
  unfold takeCoolant
  try dsimp only
  repeat' first
    | with_reducible assumption | with_reducible apply setF_kept | with_reducible apply showHeld_kept
    | with_reducible apply hold_kept

theorem opCoolant_kept {s₀ : State} {s : State} (hk : Kept s₀ s) : Kept s₀ (opCoolant s) := by
  unfold opCoolant
  try dsimp only
  repeat' first
    | with_reducible assumption | with_reducible apply kept_ite | with_reducible apply KeptParts.same
    | with_reducible apply sendRec_kept | simp only [kept_mk]

theorem opTelemetry_kept {s₀ : State} {x : Telem} {s : State} (hk : Kept s₀ s) : Kept s₀ (opTelemetry x s) := by
  unfold opTelemetry
  try dsimp only
  repeat' first
    | with_reducible assumption | with_reducible apply takeInput_kept | with_reducible apply takeBlade_kept
    | with_reducible apply takeRail_kept | with_reducible apply takeTj_kept | with_reducible apply takeStack_kept
    | with_reducible apply takeCoolant_kept | split

end Sys2Proof.Machine
end

