-- ==== Sys2Proof/Laws/KeptRegWrite.lean ====
section
/-! SUPPORT. What the functions of Machine/RegWrite.lean leave alone (Laws/Kept.lean). -/
namespace Sys2Proof.Machine

theorem plainWrite_kept {s₀ : State} {s : State} {x : RegAt} {v : Word} (hk : Kept s₀ s) : Kept s₀ (plainWrite s x v)
    := by
  unfold plainWrite
  try dsimp only
  repeat' first | with_reducible assumption | with_reducible apply wrReg_kept

theorem noteAccess_kept {s₀ : State} {s : State} {a : ℕ} {wr : Bool} {offline : Bool} {link : ℕ} (hk : Kept s₀ s) :
    Kept s₀ (noteAccess s a wr offline link) := by
  unfold noteAccess
  try dsimp only
  repeat' first
    | with_reducible assumption | with_reducible apply kept_ite | with_reducible apply countF_kept
    | with_reducible apply setF_kept

theorem latchBase_kept {s₀ : State} {s : State} {n : ℕ} (hk : Kept s₀ s) : Kept s₀ (latchBase s n) := by
  unfold latchBase
  try dsimp only
  repeat' first | with_reducible assumption | with_reducible apply modCq_kept

theorem commitReg_kept {s₀ : State} {s : State} {x : RegAt} (hk : Kept s₀ s) : Kept s₀ (commitReg s x) := by
  unfold commitReg
  try dsimp only
  repeat' first | with_reducible assumption | with_reducible apply wrReg_kept

theorem settleQueue_kept {s₀ : State} {before : State} {s : State} {n : ℕ} (hk : Kept s₀ s) : Kept s₀ (settleQueue
    before s n) := by
  unfold settleQueue
  try dsimp only
  repeat' first
    | with_reducible assumption | with_reducible apply kept_ite | with_reducible apply setI_kept
    | with_reducible apply latchBase_kept

theorem showBypass_kept {s₀ : State} {s : State} {f : ℕ} (hk : Kept s₀ s) : Kept s₀ (showBypass s f) := by
  unfold showBypass
  try dsimp only
  repeat' first
    | with_reducible assumption | (intro; try dsimp only) | with_reducible apply kept_foldl
    | with_reducible apply setF_kept

theorem recountQuota_kept {s₀ : State} {s : State} {k : ℕ} (hk : Kept s₀ s) : Kept s₀ (recountQuota s k) := by
  unfold recountQuota
  try dsimp only
  repeat' first
    | with_reducible assumption | (intro; try dsimp only) | with_reducible apply kept_foldl
    | with_reducible apply setI_kept

theorem remode_kept {s₀ : State} {before : State} {s : State} {p : ℕ} (hk : Kept s₀ s) : Kept s₀ (remode before s p) := by
  unfold remode
  exact kept_ite (portDown_kept hk) hk

theorem settle_kept {s₀ : State} {before : State} {s : State} {d : ℕ} (hk : Kept s₀ s) : Kept s₀ (settle before s d) := by
  unfold settle
  try dsimp only
  repeat' first
    | with_reducible assumption | (intro; try dsimp only) | with_reducible apply kept_foldl
    | with_reducible apply kept_ite | with_reducible apply showBypass_kept | with_reducible apply remode_kept | with_reducible apply bindChanged_kept
    | with_reducible apply recountQuota_kept | with_reducible apply drainRecords_kept
    | with_reducible apply settleQueue_kept

theorem switchDomain_kept {s₀ : State} {s : State} {d : ℕ} (hk : Kept s₀ s) : Kept s₀ (switchDomain s d) := by
  unfold switchDomain
  try dsimp only
  repeat' first
    | with_reducible assumption | (intro; try dsimp only) | with_reducible apply kept_foldl
    | with_reducible apply settle_kept | with_reducible apply commitReg_kept

theorem opCommit_kept {s₀ : State} {d : ℕ} {v : ℕ} {s : State} (hk : Kept s₀ s) : Kept s₀ (opCommit d v s) := by
  unfold opCommit
  try dsimp only
  repeat' first
    | with_reducible assumption | with_reducible apply sendRec_kept | with_reducible apply setI_kept
    | with_reducible apply switchDomain_kept | split

theorem loaderCommit_kept {s₀ : State} {s : State} {d : ℕ} (hk : Kept s₀ s) : Kept s₀ (loaderCommit s d) := by
  unfold loaderCommit
  try dsimp only
  repeat' first | with_reducible assumption | with_reducible apply setI_kept | with_reducible apply switchDomain_kept

theorem writeTilCtrl_kept {s₀ : State} {s : State} {g : ℕ} {v : Word} (hk : Kept s₀ s) : Kept s₀ (writeTilCtrl s g v)
    := by
  unfold writeTilCtrl
  try dsimp only
  repeat' first
    | with_reducible assumption | with_reducible apply kept_ite | with_reducible apply opTilRun_kept
    | with_reducible apply opTilQuiesce_kept

theorem writeBrl_kept {s₀ : State} {s : State} {x : RegAt} {v : Word} (hk : Kept s₀ s) : Kept s₀ (writeBrl s x v) := by
  unfold writeBrl
  try dsimp only
  repeat' first
    | with_reducible assumption | with_reducible apply kept_ite | with_reducible apply plainWrite_kept
    | with_reducible apply opRetrain_kept | with_reducible apply opLinkLoss_kept
    | with_reducible apply setI_kept

theorem basicWrite_kept {s₀ : State} {s : State} {x : RegAt} {v : Word} (hk : Kept s₀ s) : Kept s₀ (basicWrite s x v)
    := by
  unfold basicWrite
  try dsimp only
  repeat' first
    | with_reducible assumption | with_reducible apply kept_ite | with_reducible apply opTail_kept
    | with_reducible apply opChead_kept | with_reducible apply plainWrite_kept | with_reducible apply opRestart_kept
    | with_reducible apply opEvrHead_kept | with_reducible apply addEvc_kept | with_reducible apply opMarkClear_kept
    | with_reducible apply opPtIndex_kept | with_reducible apply opCalendar_kept | with_reducible apply opSnapNow_kept
    | with_reducible apply writeTilCtrl_kept | with_reducible apply opResend_kept | with_reducible apply askMeasure_kept
    | with_reducible apply opPourStop_kept | with_reducible apply connCtrl_kept | with_reducible apply opInval_kept
    | with_reducible apply writeBrl_kept | with_reducible apply opCommit_kept | split

theorem writeAt_kept {s₀ s : State} {write : State → RegAt → Word → State} {a : Nat} {v : Word} {link : Option Nat}
    (h : Kept s₀ s) (hw : ∀ t x v, Kept s₀ t → Kept s₀ (write t x v)) : Kept s₀ (writeAt write s a v link) := by
  unfold writeAt
  dsimp only
  repeat' first
    | with_reducible assumption | with_reducible apply kept_ite | with_reducible apply noteAccess_kept
    | with_reducible apply countI_kept | with_reducible apply wrShadow_kept | with_reducible apply wrReg_kept
    | with_reducible apply hw | split

theorem recordWrite_kept {s₀ : State} {s : State} {a : ℕ} {v : Word} (hk : Kept s₀ s) : Kept s₀ (recordWrite s a v) := by
  unfold recordWrite
  try dsimp only
  repeat' first
    | with_reducible assumption | (intro; try dsimp only) | with_reducible apply writeAt_kept
    | with_reducible apply basicWrite_kept

end Sys2Proof.Machine
end

