-- ==== Sys2Proof/Laws/KeptTileReset.lean ====
section
/-! SUPPORT. What the functions of Machine/TileReset.lean leave alone (Laws/Kept.lean). -/
namespace Sys2Proof.Machine

theorem recordWrites_kept {s₀ : State} {s : State} {a : ℕ} {bs : List Byte} (hk : Kept s₀ s) : Kept s₀ (recordWrites
    s a bs) := by
  unfold recordWrites
  try dsimp only
  repeat' first
    | with_reducible assumption | (intro; try dsimp only) | with_reducible apply kept_foldl
    | with_reducible apply recordWrite_kept

theorem writeRec_kept {s₀ : State} {s : State} {g : ℕ} {r : ImgRec} (hk : Kept s₀ s) : Kept s₀ (writeRec s g r) := by
  unfold writeRec
  try dsimp only
  repeat' first
    | with_reducible assumption | with_reducible apply recordWrites_kept | with_reducible apply memWrite_kept | split

theorem clearTile_kept {s₀ : State} {s : State} {g : ℕ} (hk : Kept s₀ s) : Kept s₀ (clearTile s g) := by
  unfold clearTile
  dsimp only
  refine gatewayReset_kept (setF_kept (setTile_kept ?_ (fun _ => ⟨rfl, rfl, rfl⟩)))
  rw [kept_mk]
  exact KeptParts.upd (countF_kept hk) rfl (clearRegs_sorted _ _ _) id id

theorem abandonRuns_kept {s₀ : State} {s : State} {gs : List ℕ} (hk : Kept s₀ s) : Kept s₀ (abandonRuns s gs) := by
  unfold abandonRuns
  try dsimp only
  repeat' first
    | with_reducible assumption | with_reducible apply KeptParts.same | with_reducible apply finishRuns_kept
    | simp only [kept_mk]

theorem abandonPours_kept {s₀ : State} {s : State} {gs : List ℕ} (hk : Kept s₀ s) : Kept s₀ (abandonPours s gs) := by
  unfold abandonPours
  try dsimp only
  repeat' first
    | with_reducible assumption | (intro; try dsimp only) | with_reducible apply kept_foldl
    | with_reducible apply kept_ite | with_reducible apply closePour_kept | with_reducible apply putPour_kept

theorem writeKept_kept {s₀ : State} {s : State} {gs : List ℕ} (hk : Kept s₀ s) : Kept s₀ (writeKept s gs) := by
  unfold writeKept
  try dsimp only
  repeat' first
    | with_reducible assumption | (intro; try dsimp only) | with_reducible apply kept_foldl
    | with_reducible apply KeptParts.same | with_reducible apply writeRec_kept | with_reducible apply loaderCommit_kept
    | simp only [kept_mk]

theorem resetTiles_kept {s₀ : State} {s : State} {gs : List ℕ} (hk : Kept s₀ s) : Kept s₀ (resetTiles s gs) := by
  unfold resetTiles
  try dsimp only
  repeat' first
    | with_reducible assumption | (intro; try dsimp only) | with_reducible apply kept_foldl
    | with_reducible apply kept_ite | with_reducible apply clearTile_kept | with_reducible apply resolvePlaces_kept
    | with_reducible apply writeKept_kept | with_reducible apply abandonPours_kept
    | with_reducible apply abandonRuns_kept | with_reducible apply sendRec_kept

theorem discardReset_kept {s₀ : State} {s : State} (hk : Kept s₀ s) : Kept s₀ (discardReset s) := by
  unfold discardReset
  try dsimp only
  repeat' first | with_reducible assumption | with_reducible apply countF_kept

theorem discardHeld_kept {s₀ : State} {s : State} {gs : List ℕ} (hk : Kept s₀ s) : Kept s₀ (discardHeld s gs) := by
  unfold discardHeld
  exact kept_ite (discardReset_kept hk) hk

theorem opTreset_kept {s₀ : State} {v : Word} {s : State} (hk : Kept s₀ s) : Kept s₀ (opTreset v s) := by
  unfold opTreset
  try dsimp only
  repeat' first
    | with_reducible assumption | with_reducible apply kept_ite | with_reducible apply plainWrite_kept
    | with_reducible apply discardReset_kept | with_reducible apply discardHeld_kept | with_reducible apply setF_kept | with_reducible apply resetTiles_kept

theorem opTilReset_kept {s₀ : State} {g : ℕ} {s : State} (hk : Kept s₀ s) : Kept s₀ (opTilReset g s) := by
  unfold opTilReset
  try dsimp only
  repeat' first
    | with_reducible assumption | with_reducible apply kept_ite | with_reducible apply discardReset_kept | with_reducible apply discardHeld_kept
    | with_reducible apply resetTiles_kept

end Sys2Proof.Machine
end

