-- ==== Sys2Proof/Laws/KeptImgFormat.lean ====
section
/-! SUPPORT. What the functions of Machine/ImgFormat.lean leave alone (Laws/Kept.lean). -/
namespace Sys2Proof.Machine

theorem manifestTail_kept {s₀ : State} {h : List Byte} {q : Nat × List Byte × State} (hk : Kept s₀ q.2.2) :
    Kept s₀ (manifestTail h q).2.2 := kept_ite_thd hk (kept_ite_thd hk hk)

theorem readManifest_kept {s₀ : State} {s : State} {a : ℕ} {limit : ℕ} (hk : Kept s₀ s) : Kept s₀ (readManifest s a
    limit).2.2 := by
  unfold readManifest
  try dsimp only
  repeat' first
    | with_reducible assumption | with_reducible apply kept_ite_thd | with_reducible apply readLogical_kept
    | with_reducible apply manifestTail_kept

theorem readBlocks'_kept {s₀ : State} {s : State} {a : ℕ} {m : Manifest} (hk : Kept s₀ s) : Kept s₀ (readBlocks' s a
    m).2.2 := by
  unfold readBlocks'
  try dsimp only
  repeat' first
    | with_reducible assumption | (intro; try dsimp only) | with_reducible apply kept_foldl_thd
    | with_reducible apply kept_ite_thd | with_reducible apply readLogical_kept

theorem readPayload_kept {s₀ : State} {s : State} {addr : ℕ} {m : Manifest} (hk : Kept s₀ s) : Kept s₀ (readPayload s
    addr m).2 := by
  unfold readPayload
  try dsimp only
  repeat' first | with_reducible assumption | with_reducible apply kept_ite_snd | with_reducible apply readBlocks'_kept

theorem writeRecs_kept {s₀ : State} {s : State} {keep : Bool} {rs : List ImgRec} (hk : Kept s₀ s) : Kept s₀
    (writeRecs s keep rs).2 := by
  unfold writeRecs
  try dsimp only
  repeat' first
    | with_reducible assumption | (intro; try dsimp only) | with_reducible apply kept_foldl_snd
    | with_reducible apply kept_ite_snd | with_reducible apply KeptParts.same | with_reducible apply writeRec_kept
    | simp only [kept_mk] | split

theorem commitAll_kept {s₀ : State} {s : State} {ds : List ℕ} (hk : Kept s₀ s) : Kept s₀ (commitAll s ds) := by
  unfold commitAll
  try dsimp only
  repeat' first
    | with_reducible assumption | (intro; try dsimp only) | with_reducible apply kept_foldl
    | with_reducible apply loaderCommit_kept

theorem revertShadows_kept {s₀ : State} {s : State} {ds : List ℕ} (hk : Kept s₀ s) : Kept s₀ (revertShadows s ds) := by
  unfold revertShadows
  try dsimp only
  repeat' first
    | with_reducible assumption | (intro; try dsimp only) | with_reducible apply kept_foldl
    | with_reducible apply wrShadow_kept

end Sys2Proof.Machine
end

