-- ==== Sys2Proof/Laws/KeptContext.lean ====
section
/-! SUPPORT. What the functions of Machine/Context.lean leave alone (Laws/Kept.lean). -/
namespace Sys2Proof.Machine

theorem logSaved_kept {s₀ : State} {s : State} {g : ℕ} {a : ℕ} {n : ℕ} (hk : Kept s₀ s) : Kept s₀ (logSaved s g a n) := by
  unfold logSaved
  try dsimp only
  repeat' first
    | with_reducible assumption | (intro; try dsimp only) | with_reducible apply kept_foldl
    | with_reducible apply kept_ite | with_reducible apply setF_kept | with_reducible apply logMemErr_kept

theorem saveRegs_kept {s₀ : State} {s : State} {g : ℕ} (hk : Kept s₀ s) : Kept s₀ (saveRegs s g).2 := by
  unfold saveRegs
  try dsimp only
  repeat' first | with_reducible assumption | with_reducible apply KeptParts.same | simp only [kept_mk]

theorem tileSection_kept {s₀ : State} {s : State} {g : ℕ} (hk : Kept s₀ s) : Kept s₀ (tileSection s g).2.2 := by
  unfold tileSection
  try dsimp only
  repeat' first
    | with_reducible assumption | (intro; try dsimp only) | with_reducible apply kept_foldl
    | with_reducible apply saveRegs_kept | with_reducible apply logSaved_kept

theorem laneSections_kept {s₀ : State} {s : State} {g : ℕ} (hk : Kept s₀ s) : Kept s₀ (laneSections s g).2 := by
  unfold laneSections
  try dsimp only
  repeat' first
    | with_reducible assumption | (intro; try dsimp only) | with_reducible apply kept_foldl
    | with_reducible apply logSaved_kept

theorem exactSections_kept {s₀ : State} {s : State} {gs : List ℕ} (hk : Kept s₀ s) : Kept s₀ (exactSections s gs).2.2
    := by
  unfold exactSections
  try dsimp only
  repeat' first
    | with_reducible assumption | (intro; try dsimp only) | with_reducible apply kept_foldl_thd
    | with_reducible apply tileSection_kept | with_reducible apply laneSections_kept

theorem logicalSections_kept {s₀ : State} {s : State} {r : Rect} {m : List MapEntry} (hk : Kept s₀ s) : Kept s₀
    (logicalSections s r m).2.2 := by
  unfold logicalSections
  try dsimp only
  repeat' first
    | with_reducible assumption | (intro; try dsimp only) | with_reducible apply kept_foldl_thd
    | with_reducible apply logSaved_kept | split

theorem putLine_sound {t : Tile} {line : Nat} {bs : List Byte} {mask : Nat} (h : t.Sound) : (putLine t line bs mask).Sound :=
  storeBytes_sound (openLine_sound h)

theorem putLines_sound {t : Tile} {ls : List Nat} {bs : List Byte} (h : t.Sound) : (putLines t ls bs).Sound := by
  induction ls generalizing t bs with
  | nil => exact h
  | cons l ls ih => exact ih (putLine_sound h)

theorem halfOf_wf (c : Prop) [Decidable c] (m : Memory) (h : Memory.wf m = true) : Memory.wf (if c then m else []) = true := by
  split
  · exact h
  · rfl

theorem halfOf_wf' (c : Prop) [Decidable c] (m : Memory) (h : Memory.wf m = true) : Memory.wf (if c then [] else m) = true := by
  split
  · rfl
  · exact h

theorem restoreTile_kept {s₀ : State} {s : State} {g : ℕ} {bs : List Byte} {r : SavedRegs} (hk : Kept s₀ s) :
    Kept s₀ (restoreTile s g bs r) :=
  setF_kept (setF_kept (wrReg_kept (wrReg_kept (wrReg_kept (wrReg_kept (setTile_kept hk (fun _ =>
    putRiser_sound (putLines_sound ⟨rfl, halfOf_wf _ _ (Memory.wf_wrBytes _ _ _ rfl),
      halfOf_wf' _ _ (Memory.wf_wrBytes _ _ _ rfl)⟩))))))))

theorem putPlaceOf_kept {s₀ : State} {s : State} {g : ℕ} {a : ℕ} {bs : List Byte} (hk : Kept s₀ s) :
    Kept s₀ (putPlaceOf s g a bs) :=
  kept_ite (modTile_kept hk (fun _ => putRiser_sound)) (memWrite_kept hk)

theorem restoreSection_kept {s₀ : State} {s : State} {m : List MapEntry} {sec : ℕ × ℕ × List Byte} (hk : Kept s₀ s) :
    Kept s₀ (restoreSection s m sec) := by
  unfold restoreSection
  try dsimp only
  repeat' first
    | with_reducible assumption | (intro; try dsimp only) | with_reducible apply kept_foldl
    | with_reducible apply putPlaceOf_kept | split

theorem restoreExact_kept {s₀ : State} {s : State} {m : List MapEntry} {secs : List (ℕ × ℕ × List Byte)} (hk : Kept
    s₀ s) : Kept s₀ (restoreExact s m secs) := by
  unfold restoreExact
  try dsimp only
  repeat' first
    | with_reducible assumption | (intro; try dsimp only) | with_reducible apply kept_foldl
    | with_reducible apply restoreTile_kept | with_reducible apply restoreSection_kept | split

theorem sendFence_kept {s₀ : State} {s : State} {gs : List ℕ} (hk : Kept s₀ s) : Kept s₀ (sendFence s gs) := by
  unfold sendFence
  try dsimp only
  repeat' first | with_reducible assumption | with_reducible apply KeptParts.same | simp only [kept_mk]

theorem contextBytes_kept {s₀ : State} {s : State} {c : Cmd} {gs : List ℕ} (hk : Kept s₀ s) : Kept s₀ (contextBytes s
    c gs).2.2 := by
  unfold contextBytes
  try dsimp only
  repeat' first
    | with_reducible assumption | with_reducible apply logicalSections_kept | with_reducible apply exactSections_kept
    | split

theorem finishSave_kept {s₀ : State} {s : State} {n : ℕ} {i : W32} {c : Cmd} {gs : List ℕ} {ok : Bool} (hk : Kept s₀
    s) : Kept s₀ (finishSave s n i c gs ok) := by
  unfold finishSave
  try dsimp only
  repeat' first
    | with_reducible assumption | with_reducible apply kept_ite | with_reducible apply completeIdx_kept
    | with_reducible apply contextBytes_kept | with_reducible apply writeLogical_kept
    | with_reducible apply logOthers_kept

theorem opCtxSave_kept {s₀ : State} {n : ℕ} {i : W32} {ok : Bool} {s : State} (hk : Kept s₀ s) : Kept s₀ (opCtxSave n
    i ok s) := by
  unfold opCtxSave
  try dsimp only
  repeat' first
    | with_reducible assumption | (intro; try dsimp only) | with_reducible apply kept_ite
    | with_reducible apply KeptParts.same | with_reducible apply finishSave_kept | with_reducible apply onValid_kept
    | with_reducible apply sendFence_kept | simp only [kept_mk] | split

theorem endSavedHolds_kept {s₀ : State} {s : State} {secs : List (ℕ × ℕ × List Byte)} (hk : Kept s₀ s) : Kept s₀
    (endSavedHolds s secs) := by
  unfold endSavedHolds
  try dsimp only
  repeat' first
    | with_reducible assumption | (intro; try dsimp only) | with_reducible apply kept_foldl
    | with_reducible apply kept_ite | with_reducible apply endHolds_kept | split

theorem mergeFlags_kept {s₀ : State} {s : State} {gs : List ℕ} {flags : ℕ} (hk : Kept s₀ s) : Kept s₀ (mergeFlags s
    gs flags) := by
  unfold mergeFlags
  try dsimp only
  repeat' first
    | with_reducible assumption | (intro; try dsimp only) | with_reducible apply kept_foldl
    | with_reducible apply wrReg_kept

theorem resetQuietly_kept {s₀ : State} {s : State} {gs : List ℕ} (hk : Kept s₀ s) : Kept s₀ (resetQuietly s gs) := by
  unfold resetQuietly
  try dsimp only
  repeat' first
    | with_reducible assumption | (intro; try dsimp only) | with_reducible apply kept_foldl
    | with_reducible apply clearTile_kept | with_reducible apply resolvePlaces_kept | with_reducible apply writeKept_kept
    | with_reducible apply abandonPours_kept | with_reducible apply abandonRuns_kept

theorem applyContext_kept {s₀ : State} {s : State} {c : Cmd} {h : CtxHead} {secs : List (ℕ × ℕ × List Byte)} (hk :
    Kept s₀ s) : Kept s₀ (applyContext s c h secs) := by
  unfold applyContext
  try dsimp only
  repeat' first
    | with_reducible assumption | (intro; try dsimp only) | with_reducible apply kept_foldl
    | with_reducible apply kept_ite | with_reducible apply resetQuietly_kept | with_reducible apply restoreSection_kept
    | with_reducible apply endSavedHolds_kept | with_reducible apply mergeFlags_kept | with_reducible apply setF_kept
    | with_reducible apply restoreExact_kept | with_reducible apply startTile_kept

theorem opCtxRestore_kept {s₀ : State} {n : ℕ} {i : W32} {s : State} (hk : Kept s₀ s) : Kept s₀ (opCtxRestore n i s) := by
  unfold opCtxRestore
  try dsimp only
  repeat' first
    | with_reducible assumption | (intro; try dsimp only) | with_reducible apply kept_ite_snd
    | with_reducible apply kept_ite_thd | with_reducible apply onValid_kept | with_reducible apply readLogical_kept
    | with_reducible apply completeCmd_kept | with_reducible apply applyContext_kept

end Sys2Proof.Machine
end

