-- ==== Sys2Proof/Laws/KeptImages.lean ====
section
/-! SUPPORT. What the functions of Machine/Images.lean leave alone (Laws/Kept.lean). -/
namespace Sys2Proof.Machine

theorem again_kept {s₀ : State} {s : State} {r : State} (hk : Kept s₀ r) : Kept s₀ (again s r) := by
  unfold again
  try dsimp only
  repeat' first | with_reducible assumption | with_reducible apply KeptParts.same | simp only [kept_mk]

theorem setSlotState_kept {s₀ : State} {s : State} {n : ℕ} {v : ℕ} (hk : Kept s₀ s) : Kept s₀ (setSlotState s n v) := by
  unfold setSlotState
  try dsimp only
  repeat' first | with_reducible assumption | with_reducible apply setI_kept

theorem setSlot_kept {s₀ : State} {s : State} {n : ℕ} {x : ImgSlot} (hk : Kept s₀ s) : Kept s₀ (setSlot s n x) := by
  unfold setSlot
  try dsimp only
  repeat' first | with_reducible assumption | with_reducible apply KeptParts.same | simp only [kept_mk]

theorem startJob_kept {s₀ : State} {s : State} {j : LoadJob} (hk : Kept s₀ s) : Kept s₀ (startJob s j) := by
  unfold startJob
  try dsimp only
  repeat' first
    | with_reducible assumption | (intro; try dsimp only) | with_reducible apply kept_foldl
    | with_reducible apply KeptParts.same | with_reducible apply setI_kept | with_reducible apply setSlotState_kept
    | simp only [kept_mk]

theorem endJob_kept {s₀ : State} {s : State} {j : LoadJob} {state : ℕ} {status : ℕ} (hk : Kept s₀ s) : Kept s₀
    (endJob s j state status) := by
  unfold endJob
  try dsimp only
  repeat' first
    | with_reducible assumption | (intro; try dsimp only) | with_reducible apply kept_foldl
    | with_reducible apply KeptParts.same | with_reducible apply setI_kept | with_reducible apply completeIdx_kept
    | with_reducible apply setSlotState_kept | simp only [kept_mk]

theorem breakSlot_kept {s₀ : State} {s : State} {j : LoadJob} {written : List ℕ} {p : Payload} (hk : Kept s₀ s) :
    Kept s₀ (breakSlot s j written p) := by
  unfold breakSlot
  try dsimp only
  repeat' first
    | with_reducible assumption | with_reducible apply revertShadows_kept | with_reducible apply endJob_kept
    | with_reducible apply sendRec_kept

theorem opPatch_kept {s₀ : State} {n : ℕ} {i : W32} {s : State} (hk : Kept s₀ s) : Kept s₀ (opPatch n i s) := by
  unfold opPatch
  try dsimp only
  repeat' first
    | with_reducible assumption | (intro; try dsimp only) | with_reducible apply kept_ite_snd
    | with_reducible apply onValid_kept | with_reducible apply completeCmd_kept | with_reducible apply startJob_kept
    | with_reducible apply readManifest_kept | with_reducible apply again_kept | split

theorem readAnnex_kept {s₀ : State} {s : State} {base : Manifest} {addr : ℕ} (hk : Kept s₀ s) : Kept s₀ (readAnnex s
    base addr).2.2 := by
  unfold readAnnex
  try dsimp only
  repeat' first
    | with_reducible assumption | (intro; try dsimp only) | with_reducible apply kept_foldl_thd
    | with_reducible apply kept_ite_thd | with_reducible apply readLogical_kept | with_reducible apply readManifest_kept
    | split

theorem digestAnnex_kept {s₀ : State} {s : State} {ps : List (ℕ × Manifest)} (hk : Kept s₀ s) : Kept s₀ (digestAnnex
    s ps).2.2 := by
  unfold digestAnnex
  try dsimp only
  repeat' first
    | with_reducible assumption | (intro; try dsimp only) | with_reducible apply kept_foldl_thd
    | with_reducible apply kept_ite_thd | with_reducible apply readBlocks'_kept

theorem showSlot_kept {s₀ : State} {s : State} {n : ℕ} {x : ImgSlot} {lo : ℕ} {hi : ℕ} {alt : ℕ} (hk : Kept s₀ s) :
    Kept s₀ (showSlot s n x lo hi alt) := by
  unfold showSlot
  try dsimp only
  repeat' first | with_reducible assumption | with_reducible apply setI_kept | with_reducible apply setSlot_kept

theorem finishLoad_kept {s₀ : State} {s : State} {j : LoadJob} {m : Manifest} {ps : List (ℕ × Manifest)} {p :
    Payload} (hk : Kept s₀ s) : Kept s₀ (finishLoad s j m ps p) := by
  unfold finishLoad
  try dsimp only
  repeat' first
    | with_reducible assumption | with_reducible apply kept_ite | with_reducible apply breakSlot_kept
    | with_reducible apply showSlot_kept | with_reducible apply endJob_kept | with_reducible apply writeRecs_kept
    | with_reducible apply commitAll_kept

theorem opLoad_kept {s₀ : State} {n : ℕ} {i : W32} {s : State} (hk : Kept s₀ s) : Kept s₀ (opLoad n i s) := by
  unfold opLoad
  try dsimp only
  repeat' first
    | with_reducible assumption | with_reducible apply kept_ite | with_reducible apply readManifest_kept
    | with_reducible apply again_kept | with_reducible apply endJob_kept | with_reducible apply readAnnex_kept
    | with_reducible apply readPayload_kept | with_reducible apply digestAnnex_kept
    | with_reducible apply finishLoad_kept | split

theorem retireColumn_kept {s₀ : State} {s : State} {f : ℕ} {c : ℕ} (hk : Kept s₀ s) : Kept s₀ (retireColumn s f c) := by
  unfold retireColumn
  try dsimp only
  repeat' first
    | with_reducible assumption | with_reducible apply KeptParts.same | with_reducible apply setF_kept
    | with_reducible apply askSnap_kept | simp only [kept_mk]

theorem patchSlot_kept {s₀ : State} {s : State} {j : LoadJob} {m : Manifest} {rs : List ImgRec} (hk : Kept s₀ s) :
    Kept s₀ (patchSlot s j m rs) := by
  unfold patchSlot
  try dsimp only
  repeat' first
    | with_reducible assumption | with_reducible apply setI_kept | with_reducible apply setSlot_kept
    | with_reducible apply retireColumn_kept | split

theorem finishApply_kept {s₀ : State} {s : State} {j : LoadJob} {m : Manifest} {p : Payload} (hk : Kept s₀ s) : Kept
    s₀ (finishApply s j m p) := by
  unfold finishApply
  try dsimp only
  repeat' first
    | with_reducible assumption | with_reducible apply kept_ite | with_reducible apply KeptParts.same
    | with_reducible apply endJob_kept | with_reducible apply writeRecs_kept | with_reducible apply breakSlot_kept
    | with_reducible apply patchSlot_kept | with_reducible apply commitAll_kept | simp only [kept_mk]

theorem opApply_kept {s₀ : State} {n : ℕ} {i : W32} {s : State} (hk : Kept s₀ s) : Kept s₀ (opApply n i s) := by
  unfold opApply
  try dsimp only
  repeat' first
    | with_reducible assumption | with_reducible apply kept_ite | with_reducible apply readManifest_kept
    | with_reducible apply again_kept | with_reducible apply endJob_kept | with_reducible apply readPayload_kept
    | with_reducible apply finishApply_kept | split

theorem clearRoutes_kept {s₀ : State} {s : State} {f : ℕ} {lo : ℕ} {hi : ℕ} (hk : Kept s₀ s) : Kept s₀ (clearRoutes s
    f lo hi) := by
  unfold clearRoutes
  try dsimp only
  repeat' first
    | with_reducible assumption | (intro; try dsimp only) | with_reducible apply kept_foldl
    | with_reducible apply wrShadow_kept

theorem opUnload_kept {s₀ : State} {n : ℕ} {i : W32} {s : State} (hk : Kept s₀ s) : Kept s₀ (opUnload n i s) := by
  unfold opUnload
  split
  · exact hk
  · exact kept_ite (endJob_kept hk)
      (endJob_kept (showSlot_kept (commitAll_kept (kept_foldl hk (fun _ _ h => clearRoutes_kept h)))))

theorem setStaging_kept {s₀ : State} {s : State} {x : FrameSlot} (hk : Kept s₀ s) : Kept s₀ (setStaging s x) := by
  unfold setStaging
  try dsimp only
  repeat' first | with_reducible assumption | with_reducible apply KeptParts.same | simp only [kept_mk]

theorem endStaging_kept {s₀ : State} {s : State} {state : ℕ} {status : ℕ} {blocks : ℕ} (hk : Kept s₀ s) : Kept s₀
    (endStaging s state status blocks) := by
  unfold endStaging
  try dsimp only
  repeat' first
    | with_reducible assumption | with_reducible apply KeptParts.same | with_reducible apply setF_kept
    | with_reducible apply sendRec_kept | simp only [kept_mk]

theorem stageCheck_kept {s₀ : State} {s : State} (hk : Kept s₀ s) : Kept s₀ (stageCheck s).2.2 := by
  unfold stageCheck
  try dsimp only
  repeat' first
    | with_reducible assumption | with_reducible apply kept_ite_thd | with_reducible apply readManifest_kept | split

theorem opStageGo_kept {s₀ : State} {s : State} (hk : Kept s₀ s) : Kept s₀ (opStageGo s) := by
  unfold opStageGo
  try dsimp only
  repeat' first
    | with_reducible assumption | with_reducible apply kept_ite | with_reducible apply KeptParts.same
    | with_reducible apply sendRec_kept | with_reducible apply setF_kept | with_reducible apply setStaging_kept
    | with_reducible apply stageCheck_kept | with_reducible apply again_kept | with_reducible apply endStaging_kept
    | simp only [kept_mk]

theorem opStageAbort_kept {s₀ : State} {s : State} (hk : Kept s₀ s) : Kept s₀ (opStageAbort s) := by
  unfold opStageAbort
  try dsimp only
  repeat' first
    | with_reducible assumption | with_reducible apply kept_ite | with_reducible apply KeptParts.same
    | with_reducible apply endStaging_kept | simp only [kept_mk]

theorem opStageCtrl_kept {s₀ : State} {v : Word} {s : State} (hk : Kept s₀ s) : Kept s₀ (opStageCtrl v s) := by
  unfold opStageCtrl
  try dsimp only
  repeat' first
    | with_reducible assumption | with_reducible apply kept_ite | with_reducible apply opStageGo_kept
    | with_reducible apply opStageAbort_kept

theorem opStaged_kept {s₀ : State} {s : State} (hk : Kept s₀ s) : Kept s₀ (opStaged s) := by
  unfold opStaged
  try dsimp only
  repeat' first
    | with_reducible assumption | with_reducible apply kept_ite | with_reducible apply stageCheck_kept
    | with_reducible apply again_kept | with_reducible apply endStaging_kept | with_reducible apply readBlocks'_kept
    | with_reducible apply setStaging_kept | split

theorem adoptEnds_kept {s₀ : State} {s : State} {status : ℕ} (hk : Kept s₀ s) : Kept s₀ (adoptEnds s status) := by
  unfold adoptEnds
  try dsimp only
  repeat' first | with_reducible assumption | with_reducible apply setF_kept

theorem takeSection_kept {s₀ : State} {s : State} {m : Manifest} {rs : List ImgRec} {d : ℕ} {staged : Bool} (hk :
    Kept s₀ s) : Kept s₀ (takeSection s m rs d staged) := by
  unfold takeSection
  try dsimp only
  repeat' first
    | with_reducible assumption | with_reducible apply KeptParts.same | with_reducible apply loaderCommit_kept
    | with_reducible apply writeRecs_kept | with_reducible apply setI_kept | simp only [kept_mk]

theorem opAdopt_kept {s₀ : State} {d : ℕ} {s : State} (hk : Kept s₀ s) : Kept s₀ (opAdopt d s) := by
  unfold opAdopt
  try dsimp only
  repeat' first
    | with_reducible assumption | with_reducible apply kept_ite | with_reducible apply adoptEnds_kept
    | with_reducible apply sendRec_kept | with_reducible apply takeSection_kept | split

end Sys2Proof.Machine
end

