-- ==== Sys2Proof/Laws/KeptRecovery.lean ====
section
/-! SUPPORT. What the functions of Machine/Recovery.lean leave alone (Laws/Kept.lean). -/
namespace Sys2Proof.Machine

theorem setInc_kept {s₀ : State} {s : State} {i : Option Incident} (hk : Kept s₀ s) : Kept s₀ (setInc s i) := by
  unfold setInc
  try dsimp only
  repeat' first | with_reducible assumption | with_reducible apply KeptParts.same | simp only [kept_mk]

theorem opFencePacket_kept {s₀ : State} {g : ℕ} {s : State} (hk : Kept s₀ s) : Kept s₀ (opFencePacket g s) := by
  unfold opFencePacket
  refine kept_ite hk (kept_ite hk ?_)
  have h : Kept s₀ (haltFor (startQuiesce (setF { s with recov := { s.recov with fencePkts := s.recov.fencePkts.erase g } }
      F.TIL_STATUS_FENCED g 1) g) g) := haltFor_kept (startQuiesce_kept (setF_kept hk))
  dsimp only
  split
  · exact kept_ite (holdFor_kept h) (kept_foldl h (fun _ _ h => holdContext_kept h))
  · exact kept_foldl h (fun _ _ h => holdContext_kept h)

theorem openNext_kept {s₀ : State} {s : State} {n0 : List Failure} (hk : Kept s₀ s) : Kept s₀ (openNext s n0) := by
  induction n0 generalizing s with
  | nil =>
    unfold openNext
    try dsimp only
    repeat' first | with_reducible assumption | with_reducible apply KeptParts.same | simp only [kept_mk]
  | cons x xs ih =>
    unfold openNext
    try dsimp only
    repeat' first
      | with_reducible assumption | with_reducible apply ih | with_reducible apply kept_ite
      | with_reducible apply KeptParts.same | with_reducible apply openIncident_kept | with_reducible apply openLoss_kept
      | simp only [kept_mk] | split

theorem endIncident_kept {s₀ : State} {s : State} {inc : Incident} (hk : Kept s₀ s) : Kept s₀ (endIncident s inc) := by
  unfold endIncident
  try dsimp only
  repeat' first
    | with_reducible assumption | (intro; try dsimp only) | with_reducible apply kept_foldl
    | with_reducible apply KeptParts.same | with_reducible apply setInc_kept | with_reducible apply resumeTimers_kept
    | with_reducible apply endHeld_kept | with_reducible apply setF_kept | with_reducible apply takeRecord_kept
    | with_reducible apply openNext_kept | simp only [kept_mk]

theorem handOff_kept {s₀ : State} {s : State} {inc : Incident} (hk : Kept s₀ s) : Kept s₀ (handOff s inc) := by
  unfold handOff
  try dsimp only
  repeat' first
    | with_reducible assumption | with_reducible apply kept_ite | with_reducible apply setF_kept
    | with_reducible apply setInc_kept | with_reducible apply sendRec_kept | with_reducible apply endIncident_kept
    | split

theorem opHandoff_kept {s₀ : State} {s : State} (hk : Kept s₀ s) : Kept s₀ (opHandoff s) := by
  unfold opHandoff
  try dsimp only
  repeat' first | with_reducible assumption | with_reducible apply kept_ite | with_reducible apply handOff_kept | split

theorem saveTiles_kept {s₀ s t : State} {inc i : Incident} {gs : List ℕ} (hk : Kept s₀ s)
    (he : saveTiles s inc gs = some (i, t)) : Kept s₀ t := by
  unfold saveTiles at he
  dsimp only at he
  split at he
  · cases he
  · split at he
    · cases he
    · cases he
      exact writeLogical_kept (writeLogical_kept (exactSections_kept hk))

theorem readSaved_kept {s₀ : State} {s : State} {inc : Incident} (hk : Kept s₀ s) : Kept s₀ (readSaved s inc).2.2.2 := by
  unfold readSaved
  try dsimp only
  repeat' first | with_reducible assumption | with_reducible apply readLogical_kept

theorem restoreSaved_kept {s₀ : State} {s : State} {flags : ℕ} {secs : List (ℕ × ℕ × List Byte)} (hk : Kept s₀ s) :
    Kept s₀ (restoreSaved s flags secs) := by
  unfold restoreSaved
  try dsimp only
  repeat' first
    | with_reducible assumption | (intro; try dsimp only) | with_reducible apply kept_foldl_snd
    | with_reducible apply kept_ite_snd | with_reducible apply restoreExact_kept | with_reducible apply mergeFlags_kept

theorem opAuto_kept {s₀ : State} {ok : Bool} {s : State} (hk : Kept s₀ s) : Kept s₀ (opAuto ok s) := by
  unfold opAuto
  try dsimp only
  repeat' first
    | with_reducible assumption | with_reducible apply kept_ite | with_reducible apply handOff_kept
    | with_reducible apply setInc_kept | with_reducible apply setF_kept | split
    | refine saveTiles_kept ?_ (by assumption)

theorem opRetest_kept {s₀ : State} {pass : Bool} {s : State} (hk : Kept s₀ s) : Kept s₀ (opRetest pass s) := by
  unfold opRetest
  try dsimp only
  repeat' first
    | with_reducible assumption | with_reducible apply kept_ite | with_reducible apply setInc_kept
    | with_reducible apply setF_kept | split

theorem widenFence_kept {s₀ : State} {s : State} {inc : Incident} {f : ℕ} {c : ℕ} (hk : Kept s₀ s) : Kept s₀
    (widenFence s inc f c) := by
  unfold widenFence
  try dsimp only
  repeat' first | with_reducible assumption | with_reducible apply setInc_kept | with_reducible apply sendFence_kept

theorem shiftRecs_kept {s₀ : State} {s : State} {x : ImgSlot} {f : ℕ} {c : ℕ} (hk : Kept s₀ s) : Kept s₀ (shiftRecs s
    x f c).2.2 := by
  unfold shiftRecs
  try dsimp only
  repeat' first
    | with_reducible assumption | with_reducible apply readManifest_kept | with_reducible apply readPayload_kept | split

theorem allShiftRecs_kept {s₀ : State} {s : State} {f : ℕ} {c : ℕ} (hk : Kept s₀ s) : Kept s₀ (allShiftRecs s f
    c).2.2 := by
  unfold allShiftRecs
  try dsimp only
  repeat' first
    | with_reducible assumption | (intro; try dsimp only) | with_reducible apply kept_foldl_thd
    | with_reducible apply kept_ite_thd | with_reducible apply shiftRecs_kept

theorem followTiles_kept {s₀ : State} {s : State} {m : List (ℕ × ℕ)} (hk : Kept s₀ s) : Kept s₀ (followTiles s m) := by
  unfold followTiles
  try dsimp only
  repeat' first | with_reducible assumption | with_reducible apply KeptParts.same | simp only [kept_mk]

theorem moveFence_kept {s₀ : State} {s : State} {inc : Incident} {m : List (ℕ × ℕ)} (hk : Kept s₀ s) : Kept s₀
    (moveFence s inc m) := by
  unfold moveFence
  try dsimp only
  repeat' first
    | with_reducible assumption | (intro; try dsimp only) | with_reducible apply kept_foldl
    | with_reducible apply setF_kept | with_reducible apply setInc_kept

theorem shiftColumn_kept {s₀ : State} {s : State} {inc : Incident} {f : ℕ} {c : ℕ} {rs : List ImgRec} (hk : Kept s₀
    s) : Kept s₀ (shiftColumn s inc f c rs) := by
  unfold shiftColumn
  try dsimp only
  repeat' first
    | with_reducible assumption | with_reducible apply retireColumn_kept | with_reducible apply loaderCommit_kept
    | with_reducible apply writeRecs_kept | with_reducible apply followTiles_kept | with_reducible apply moveFence_kept

theorem opRetire_kept {s₀ : State} {ok : Bool} {s : State} (hk : Kept s₀ s) : Kept s₀ (opRetire ok s) := by
  unfold opRetire
  try dsimp only
  repeat' first
    | with_reducible assumption | with_reducible apply kept_ite | with_reducible apply loseField_kept
    | with_reducible apply widenFence_kept | with_reducible apply handOff_kept | with_reducible apply allShiftRecs_kept
    | with_reducible apply again_kept | with_reducible apply shiftColumn_kept | split
    | refine saveTiles_kept ?_ (by assumption)

theorem opIncClose_kept {s₀ : State} {s : State} (hk : Kept s₀ s) : Kept s₀ (opIncClose s) := by
  unfold opIncClose
  try dsimp only
  repeat' first
    | with_reducible assumption | (intro; try dsimp only) | with_reducible apply kept_foldl
    | with_reducible apply kept_ite | with_reducible apply readSaved_kept | with_reducible apply again_kept
    | with_reducible apply handOff_kept | with_reducible apply restoreSaved_kept | with_reducible apply startTile_kept
    | with_reducible apply setF_kept | with_reducible apply sendRec_kept | with_reducible apply resumeFenced_kept
    | with_reducible apply endIncident_kept | split

theorem opClose_kept {s₀ : State} {s : State} (hk : Kept s₀ s) : Kept s₀ (opClose s) := by
  unfold opClose
  try dsimp only
  repeat' first
    | with_reducible assumption | with_reducible apply kept_ite | with_reducible apply KeptParts.same
    | with_reducible apply endIncident_kept | simp only [kept_mk] | split

theorem opClock_kept {s₀ : State} {f : ℕ} {s : State} (hk : Kept s₀ s) : Kept s₀ (opClock f s) := by
  unfold opClock
  exact kept_ite hk (kept_ite (loseField_kept hk) (setF_kept (KeptParts.same hk)))

theorem opUnitFailure_kept {s₀ : State} {u : ℕ} {s : State} (hk : Kept s₀ s) : Kept s₀ (opUnitFailure u s) := by
  unfold opUnitFailure
  try dsimp only
  repeat' first
    | with_reducible assumption | with_reducible apply kept_ite | with_reducible apply sendRec_kept
    | with_reducible apply holdAll_kept

end Sys2Proof.Machine
end

