-- ==== Sys2Proof/Laws/KeptBringup.lean ====
section
/-! SUPPORT. What the functions of Machine/Bringup.lean leave alone (Laws/Kept.lean). -/
namespace Sys2Proof.Machine

theorem opQualified_kept {s₀ : State} {s : State} (hk : Kept s₀ s) : Kept s₀ (opQualified s) := by
  unfold opQualified
  try dsimp only
  repeat' first
    | with_reducible assumption | with_reducible apply kept_ite | with_reducible apply KeptParts.same
    | with_reducible apply setF_kept | simp only [kept_mk]

theorem coldClear_kept {s₀ : State} {s : State} (hk : Kept s₀ s) : Kept s₀ (coldClear s) := by
  unfold coldClear
  try dsimp only
  repeat' first
    | with_reducible assumption | with_reducible apply KeptParts.same | with_reducible apply dark_kept
    | with_reducible apply opRepairAppend_kept | with_reducible apply setF_kept | simp only [kept_mk]

theorem applyRows_kept {s₀ : State} {s : State} (hk : Kept s₀ s) : Kept s₀ (applyRows s) := by
  unfold applyRows
  try dsimp only
  repeat' first
    | with_reducible assumption | (intro; try dsimp only) | with_reducible apply kept_foldl
    | with_reducible apply KeptParts.same | with_reducible apply setI_kept | simp only [kept_mk]

theorem unitOut_kept {s₀ : State} {s : State} {b : CheckFail} (hk : Kept s₀ s) : Kept s₀ (unitOut s b) := by
  unfold unitOut
  try dsimp only
  repeat' first
    | with_reducible assumption | with_reducible apply KeptParts.same | with_reducible apply opUnitFailure_kept
    | simp only [kept_mk] | split

theorem startCrescents_kept {s₀ : State} {bad : List CheckFail} {s : State} (hk : Kept s₀ s) : Kept s₀
    (startCrescents bad s) := by
  unfold startCrescents
  try dsimp only
  repeat' first
    | with_reducible assumption | (intro; try dsimp only) | with_reducible apply kept_foldl
    | with_reducible apply unitOut_kept | with_reducible apply sendRec_kept | with_reducible apply applyRows_kept
    | with_reducible apply setF_kept

theorem nameGauges_kept {s₀ : State} {s : State} (hk : Kept s₀ s) : Kept s₀ (nameGauges s) := by
  unfold nameGauges
  try dsimp only
  repeat' first
    | with_reducible assumption | (intro; try dsimp only) | with_reducible apply kept_foldl
    | with_reducible apply setI_kept

theorem setSplit_kept {s₀ : State} {s : State} {rs : List ImgRec} (hk : Kept s₀ s) : Kept s₀ (setSplit s rs) := by
  unfold setSplit
  try dsimp only
  repeat' first | with_reducible assumption | with_reducible apply kept_ite | with_reducible apply setF_kept | split

theorem shadowSection_kept {s₀ : State} {s : State} {m : Manifest} {rs : List ImgRec} {d : ℕ} (hk : Kept s₀ s) : Kept
    s₀ (shadowSection s m rs d) := by
  unfold shadowSection
  try dsimp only
  repeat' first
    | with_reducible assumption | with_reducible apply KeptParts.same | with_reducible apply writeRecs_kept
    | with_reducible apply setI_kept | simp only [kept_mk]

theorem applyLines_kept {s₀ : State} {s : State} {f : ℕ} (hk : Kept s₀ s) : Kept s₀ (applyLines s f) :=
  kept_foldl hk fun _ _ h => wrReg_kept (setF_kept (kept_foldl h fun _ _ h => kept_ite (setI_kept h) h))

theorem applyRetained_kept {s₀ : State} {s : State} {f : ℕ} (hk : Kept s₀ s) : Kept s₀ (applyRetained s f) := by
  unfold applyRetained
  try dsimp only
  repeat' first
    | with_reducible assumption | with_reducible apply applyLines_kept | with_reducible apply setF_kept | split

theorem admitField_kept {s₀ : State} {s : State} {f : ℕ} (hk : Kept s₀ s) : Kept s₀ (admitField s f) := by
  unfold admitField
  try dsimp only
  repeat' first
    | with_reducible assumption | with_reducible exact id | with_reducible exact sound_filter
    | with_reducible apply KeptParts.upd | with_reducible apply setF_kept | with_reducible apply sendRec_kept
    | with_reducible apply setSlow_kept | with_reducible apply updateService_kept | with_reducible apply showBypass_kept
    | with_reducible apply faceUp_kept | simp only [kept_mk]

theorem endFieldReset_kept {s₀ : State} {s : State} {f : ℕ} {result : ℕ} (hk : Kept s₀ s) : Kept s₀ (endFieldReset s
    f result) := by
  unfold endFieldReset
  try dsimp only
  repeat' first
    | with_reducible assumption | with_reducible apply kept_ite | with_reducible apply setF_kept
    | with_reducible apply sendRec_kept

theorem commitHeld_kept {s₀ : State} {s : State} {f : ℕ} (hk : Kept s₀ s) : Kept s₀ (commitHeld s f) := by
  unfold commitHeld
  try dsimp only
  repeat' first | with_reducible assumption | with_reducible apply kept_ite | with_reducible apply loaderCommit_kept

theorem failA_kept {s₀ : State} {s : State} {f : ℕ} {cause : ℕ} {d1 : ℕ} (hk : Kept s₀ s) : Kept s₀ (failA s f cause
    d1) := by
  unfold failA
  try dsimp only
  repeat' first
    | with_reducible assumption | with_reducible apply kept_ite | with_reducible apply setF_kept
    | with_reducible apply sendRec_kept | with_reducible apply endFieldReset_kept

theorem opStageA_kept {s₀ : State} {f : ℕ} {e : StageEnd} {s : State} (hk : Kept s₀ s) : Kept s₀ (opStageA f e s) := by
  unfold opStageA
  try dsimp only
  repeat' first
    | with_reducible assumption | with_reducible apply kept_ite | with_reducible apply admitField_kept
    | with_reducible apply applyRetained_kept | with_reducible apply commitHeld_kept
    | with_reducible apply endFieldReset_kept | with_reducible apply failA_kept | with_reducible apply sendRec_kept
    | split

theorem opStageB_kept {s₀ : State} {f : ℕ} {pass : Bool} {s : State} (hk : Kept s₀ s) : Kept s₀ (opStageB f pass s) := by
  have h : Kept s₀ { s with tiles :=
      (s.tiles.map (fun e => if e.1 / 700 = f then (e.1, { e.2 with acc := [] }) else e)).filter (fun e => e.2 ≠ {}) } := by
    rw [kept_mk]
    refine KeptParts.upd hk rfl id (fun c => sound_filter (sound_map (fun e he => ?_) c)) id
    split
    · exact Tile.sound_of he rfl rfl rfl
    · exact he
  unfold opStageB
  refine kept_ite hk (kept_ite (endFieldReset_kept ?_) ?_) <;>
    exact kept_ite (updateService_kept (sendRec_kept (setFull_kept (setSlow_kept h)))) (sendRec_kept h)

theorem opArm_kept {s₀ : State} {s : State} (hk : Kept s₀ s) : Kept s₀ (opArm s) := by
  unfold opArm
  try dsimp only
  repeat' first | with_reducible assumption | with_reducible apply KeptParts.same | simp only [kept_mk]

theorem abandonAll_kept {s₀ : State} {s : State} (hk : Kept s₀ s) : Kept s₀ (abandonAll s) := by
  unfold abandonAll
  try dsimp only
  repeat' first
    | with_reducible assumption | (intro; try dsimp only) | with_reducible apply kept_foldl
    | with_reducible apply completeCmd_kept | with_reducible apply drainRecords_kept

theorem warmTable_kept {s₀ : State} {s : State} (hk : Kept s₀ s) : Kept s₀ (warmTable s) := by
  unfold warmTable
  try dsimp only
  repeat' first
    | with_reducible assumption | (intro; try dsimp only) | with_reducible apply kept_foldl
    | with_reducible apply kept_ite | with_reducible apply resolvePlaces_kept | with_reducible apply setPt_kept

theorem kept_upd_free {s₀ s : State} {n : Nat} (h : Kept s₀ s) : Kept s₀ { s with free := n } := h

theorem warmRestart_kept {s₀ : State} {s : State} (hk : Kept s₀ s) : Kept s₀ (warmRestart s) := by
  have h1 : Kept s₀ (warmTable (abandonAll s)) := warmTable_kept (abandonAll_kept hk)
  unfold warmRestart
  generalize warmTable (abandonAll s) = a at h1
  have h : Kept s₀ (surfWarm (netWarm a)) := surfWarm_kept (netWarm_kept h1)
  have k : (surfWarm (netWarm a)).power.flash.active = a.power.flash.active := (surfWarm_kept (netWarm_kept (Kept.refl a))).2.2.1
  dsimp only
  generalize surfWarm (netWarm a) = b at h k ⊢
  refine sendRec_kept (kept_upd_free (setF_kept (kept_foldl (f := showBypass) ?_ fun _ _ h => showBypass_kept h)))
  rw [kept_mk]
  refine KeptParts.upd h ?_ (clearRegs_sorted _ _ _) (fun c => sound_filter (sound_map (fun e he => ?_) c)) id
  · rw [k]
    split <;> rfl
  · exact ⟨rfl, rfl, rfl⟩

theorem opWarm_kept {s₀ : State} {s : State} (hk : Kept s₀ s) : Kept s₀ (opWarm s) := by
  unfold opWarm
  try dsimp only
  repeat' first
    | with_reducible assumption | with_reducible apply kept_ite | with_reducible apply KeptParts.same
    | with_reducible apply warmRestart_kept | with_reducible apply discardReset_kept | simp only [kept_mk]

theorem opCold_kept {s₀ : State} {s : State} (hk : Kept s₀ s) : Kept s₀ (opCold s) := by
  unfold opCold
  try dsimp only
  repeat' first
    | with_reducible assumption | with_reducible apply kept_ite | with_reducible apply KeptParts.same
    | with_reducible apply discardReset_kept | with_reducible apply abandonAll_kept | with_reducible apply setF_kept
    | simp only [kept_mk]

theorem opResetWrite_kept {s₀ : State} {v : Word} {s : State} (hk : Kept s₀ s) : Kept s₀ (opResetWrite v s) := by
  unfold opResetWrite
  try dsimp only
  repeat' first
    | with_reducible assumption | with_reducible apply kept_ite | with_reducible apply opWarm_kept
    | with_reducible apply opCold_kept | with_reducible apply opArm_kept

theorem switchOff_kept {s₀ : State} {s : State} {f : ℕ} (hk : Kept s₀ s) : Kept s₀ (switchOff s f) := by
  unfold switchOff
  try dsimp only
  repeat' first
    | with_reducible assumption | with_reducible apply resolvePlaces_kept | with_reducible apply updateService_kept
    | with_reducible apply setFull_kept | with_reducible apply setSlow_kept | with_reducible apply leaveRuns_kept
    | with_reducible apply faceDown_kept | with_reducible apply abandonPours_kept | with_reducible apply dropField_kept

theorem opFieldReset_kept {s₀ : State} {f : ℕ} {s : State} (hk : Kept s₀ s) : Kept s₀ (opFieldReset f s) := by
  unfold opFieldReset
  try dsimp only
  repeat' first
    | with_reducible assumption | with_reducible apply kept_ite | with_reducible apply KeptParts.same
    | with_reducible apply discardReset_kept | with_reducible apply setF_kept | with_reducible apply switchOff_kept
    | simp only [kept_mk] | split

theorem opPortReset_kept {s₀ : State} {v : Word} {s : State} (hk : Kept s₀ s) : Kept s₀ (opPortReset v s) := by
  unfold opPortReset
  try dsimp only
  repeat' first
    | with_reducible assumption | (intro; try dsimp only) | with_reducible apply kept_foldl
    | with_reducible apply kept_ite | with_reducible apply KeptParts.same | with_reducible apply plainWrite_kept
    | with_reducible apply discardReset_kept | with_reducible apply portDown_kept | with_reducible apply loseSub_kept
    | with_reducible apply setF_kept | simp only [kept_mk]

end Sys2Proof.Machine
end

