-- ==== Sys2Proof/Laws/KeptMesh.lean ====
section
/-! SUPPORT. What the functions of Machine/Mesh.lean leave alone (Laws/Kept.lean). -/
namespace Sys2Proof.Machine

theorem linkLost_kept {s₀ : State} {s : State} {g : ℕ} {p : Port} (hk : Kept s₀ s) : Kept s₀ (linkLost s g p) := by
  unfold linkLost
  try dsimp only
  repeat' first
    | with_reducible assumption | with_reducible apply kept_ite | with_reducible apply tileIncident_kept
    | with_reducible apply loseField_kept | split

theorem wireDown_kept {s₀ : State} {s : State} {g : ℕ} {p : Port} (hk : Kept s₀ s) : Kept s₀ (wireDown s g p) := by
  unfold wireDown
  try dsimp only
  repeat' first
    | with_reducible assumption | with_reducible apply closeOut_kept | with_reducible apply linkDown_kept
    | with_reducible apply linkLost_kept | with_reducible apply clearWire_kept | split

theorem cresDown_kept {s₀ : State} {s : State} {g : ℕ} {p : Port} (hk : Kept s₀ s) : Kept s₀ (cresDown s g p) := by
  unfold cresDown
  try dsimp only
  repeat' first
    | with_reducible assumption | (intro _ ht; exact Tile.sound_of ht rfl rfl rfl) | with_reducible apply closeOut_kept
    | with_reducible apply linkDown_kept | with_reducible apply modTile_kept | with_reducible apply linkLost_kept

theorem flitGone_kept {s₀ : State} {s : State} {src : Option ℕ} {o : ℕ} {vc : ℕ} {n : ℕ} (hk : Kept s₀ s) : Kept s₀
    (flitGone s src o vc n) := by
  unfold flitGone
  try dsimp only
  repeat' first | with_reducible assumption | with_reducible apply noteSent_kept | split

theorem takeFlit_kept {s₀ : State} {s : State} {g : ℕ} {k : ℕ} {q : Packet} {got : ℕ} (hk : Kept s₀ s) : Kept s₀
    (takeFlit s g k q got) := by
  unfold takeFlit
  try dsimp only
  repeat' first
    | with_reducible assumption | with_reducible apply kept_ite | with_reducible apply setInput_kept
    | with_reducible apply drainHead_kept

theorem flitIn_kept {s₀ : State} {g : ℕ} {p : Port} {vc : ℕ} {ok : Bool} {s : State} (hk : Kept s₀ s) : Kept s₀
    (flitIn g p vc ok s) := by
  unfold flitIn
  try dsimp only
  repeat' first
    | with_reducible assumption | (intro _ ht; exact Tile.sound_of ht rfl rfl rfl) | with_reducible apply kept_ite
    | with_reducible apply takeFlit_kept | with_reducible apply modTile_kept | with_reducible apply flitGone_kept
    | with_reducible apply setF_kept | with_reducible apply wireDown_kept | split

theorem cresTake_kept {s₀ : State} {s : State} {c : ℕ} {q : Packet} (hk : Kept s₀ s) : Kept s₀ (cresTake s c q) := by
  unfold cresTake
  try dsimp only
  repeat' first
    | with_reducible assumption | with_reducible apply kept_ite | with_reducible apply KeptParts.same
    | with_reducible apply sendInc_kept | simp only [kept_mk]

theorem flitOut_kept {s₀ : State} {g : ℕ} {p : Port} {vc : ℕ} {ok : Bool} {s : State} (hk : Kept s₀ s) : Kept s₀
    (flitOut g p vc ok s) := by
  unfold flitOut
  try dsimp only
  repeat' first
    | with_reducible assumption | (intro _ ht; exact Tile.sound_of ht rfl rfl rfl) | with_reducible apply kept_ite
    | with_reducible apply modTile_kept | with_reducible apply flitGone_kept | with_reducible apply cresTake_kept
    | with_reducible apply cresDown_kept | split

theorem opFlit_kept {s₀ : State} {g : ℕ} {p : Port} {vc : ℕ} {ok : Bool} {s : State} (hk : Kept s₀ s) :
    Kept s₀ (opFlit g p vc ok s) := by
  unfold opFlit
  try dsimp only
  repeat' first
    | with_reducible assumption | with_reducible apply kept_ite | with_reducible apply flitOut_kept
    | with_reducible apply flitIn_kept | split

theorem routeHead_kept {s₀ : State} {s : State} {g : ℕ} {p : Port} {vc : ℕ} {outs : List ℕ} (hk : Kept s₀ s) : Kept
    s₀ (routeHead s g p vc outs) := by
  unfold routeHead
  try dsimp only
  repeat' first
    | with_reducible assumption | with_reducible apply drainHead_kept | with_reducible apply setInput_kept | split

theorem discard_kept {s₀ : State} {s : State} {g : ℕ} {p : Port} {vc : ℕ} {q : Packet} (hk : Kept s₀ s) : Kept s₀
    (discard s g p vc q) := by
  unfold discard
  try dsimp only
  repeat' first | with_reducible assumption | with_reducible apply countF_kept | with_reducible apply routeHead_kept

theorem noRoute_kept {s₀ : State} {s : State} {g : ℕ} {p : Port} {vc : ℕ} {q : Packet} (hk : Kept s₀ s) : Kept s₀
    (noRoute s g p vc q) := by
  unfold noRoute
  try dsimp only
  repeat' first
    | with_reducible assumption | with_reducible apply sendRec_kept | with_reducible apply setF_kept
    | with_reducible apply discard_kept

/-- What a router sends leaves a state of this kind. -/
def Out.Kept (s₀ : State) (o : Out) : Prop := ∀ t, o = .sent t → Machine.Kept s₀ t

theorem takeOut_kept {s₀ s : State} {g : Nat} {p : Port} {h : Option Nat} {q : Packet} (hk : Kept s₀ s) : (takeOut s g p h q).Kept s₀ := by
  intro t h
  unfold takeOut at h
  repeat' split at h
  all_goals cases h
  exact putWire_kept hk

theorem sendOut_kept {s₀ s : State} {g : Nat} {p : Port} {q : Packet} (hk : Kept s₀ s) : (sendOut s g p q).Kept s₀ := takeOut_kept hk

theorem sendLocal_kept {s₀ s : State} {g : Nat} {p : Port} {q : Packet} (hk : Kept s₀ s) : (sendLocal s g p q).Kept s₀ := by
  intro t h
  unfold sendLocal at h
  split at h
  · split at h
    · cases h
      exact txTake_kept hk (by assumption)
    · cases h
  · split at h
    · cases h
    · cases h
      exact modTile_kept hk (fun _ ht => Tile.sound_of ht rfl rfl rfl)

theorem sendAll_kept {s₀ s : State} {g : Nat} {i : Port} {q : Packet} {ps : List Port} (hk : Kept s₀ s) :
    (sendAll s g i q ps).Kept s₀ := by
  induction ps generalizing s with
  | nil =>
    intro t h
    cases h
    exact hk
  | cons p ps ih =>
    intro t h
    unfold sendAll at h
    split at h
    · next u hu =>
      have k : Kept s₀ u := by
        split at hu
        · exact sendLocal_kept hk _ hu
        · exact sendOut_kept hk _ hu
      exact ih k t h
    · split at h <;> cases h
    · cases h

theorem toCrescent_kept {s₀ s : State} {g : Nat} {q : Packet} (hk : Kept s₀ s) : (toCrescent s g q).Kept s₀ := by
  intro t h
  unfold toCrescent at h
  dsimp only at h
  split at h
  · cases h
  · split at h
    · cases h
      exact modTile_kept hk (fun _ ht => Tile.sound_of ht rfl rfl rfl)
    · cases h

theorem passThrough_kept {s₀ s : State} {g : Nat} {p : Port} {vc : Nat} {q : Packet} (hk : Kept s₀ s) :
    Kept s₀ (passThrough s g p vc q) := by
  unfold passThrough
  refine kept_ite hk ?_
  split
  · exact routeHead_kept (takeOut_kept hk _ (by assumption))
  · exact hk
  · exact discard_kept hk

theorem opStatic_kept {s₀ : State} {g : ℕ} {p : Port} {vc : ℕ} {s : State} (hk : Kept s₀ s) : Kept s₀ (opStatic g p vc s) := by
  unfold opStatic
  split
  · exact hk
  · refine kept_ite hk (kept_ite (passThrough_kept hk) (kept_ite hk (kept_ite (noRoute_kept hk) ?_)))
    split
    · exact routeHead_kept (sendAll_kept hk _ (by assumption))
    · exact hk
    · exact noRoute_kept hk

theorem opCoord_kept {s₀ : State} {g : ℕ} {p : Port} {vc : ℕ} {s : State} (hk : Kept s₀ s) : Kept s₀ (opCoord g p vc s) := by
  unfold opCoord
  split
  · exact hk
  · refine kept_ite hk (kept_ite (passThrough_kept hk) (kept_ite hk (kept_ite (noRoute_kept hk) ?_)))
    dsimp only
    split
    · next u hu =>
      refine routeHead_kept ?_
      split at hu
      · exact sendOut_kept hk _ hu
      · split at hu
        · exact toCrescent_kept hk _ hu
        · exact sendLocal_kept hk _ hu
    · exact hk
    · exact discard_kept hk

end Sys2Proof.Machine
end

