-- ==== Sys2Proof/Laws/KeptPlan.lean ====
section
/-! SUPPORT. What the functions of Machine/Plan.lean leave alone (Laws/Kept.lean). -/
namespace Sys2Proof.Machine

theorem sweepGauge_kept {s₀ : State} {f : ℕ} {m : List ℕ} {s : State} {g : ℕ} (hk : Kept s₀ s) : Kept s₀ (sweepGauge
    f m s g) := by
  unfold sweepGauge
  try dsimp only
  repeat' first
    | with_reducible assumption | with_reducible apply kept_ite | with_reducible apply setI_kept
    | with_reducible apply sendRec_kept

theorem opGauge_kept {s₀ : State} {f : ℕ} {m : List ℕ} {s : State} (hk : Kept s₀ s) : Kept s₀ (opGauge f m s) := by
  unfold opGauge
  try dsimp only
  repeat' first
    | with_reducible assumption | (intro; try dsimp only) | with_reducible apply kept_foldl
    | with_reducible apply kept_ite | with_reducible apply sweepGauge_kept | with_reducible apply setF_kept

theorem planStep_kept {s₀ : State} {s : State} {f : ℕ} {v : ℕ} (hk : Kept s₀ s) : Kept s₀ (planStep s f v) := by
  unfold planStep
  try dsimp only
  repeat' first
    | with_reducible assumption | with_reducible apply kept_ite | with_reducible apply KeptParts.same
    | with_reducible apply setF_kept | with_reducible apply countF_kept | with_reducible apply showHalved_kept
    | with_reducible apply sendRec_kept | with_reducible apply askSnap_kept | simp only [kept_mk]

theorem opPlan_kept {s₀ : State} {f : ℕ} {s : State} (hk : Kept s₀ s) : Kept s₀ (opPlan f s) := by
  unfold opPlan
  try dsimp only
  repeat' first | with_reducible assumption | with_reducible apply kept_ite | with_reducible apply planStep_kept

theorem opFirstPlan_kept {s₀ : State} {f : ℕ} {s : State} (hk : Kept s₀ s) : Kept s₀ (opFirstPlan f s) := by
  unfold opFirstPlan
  try dsimp only
  repeat' first
    | with_reducible assumption | with_reducible apply kept_ite | with_reducible apply KeptParts.same
    | with_reducible apply planStep_kept | simp only [kept_mk]

theorem opRefA_kept {s₀ : State} {s : State} (hk : Kept s₀ s) : Kept s₀ (opRefA s) := by
  unfold opRefA
  try dsimp only
  repeat' first | with_reducible assumption | with_reducible apply KeptParts.same | simp only [kept_mk]

end Sys2Proof.Machine
end

