-- ==== Sys2Proof/Laws/KeptSampler.lean ====
section
/-! SUPPORT. What the functions of Machine/Sampler.lean leave alone (Laws/Kept.lean). -/
namespace Sys2Proof.Machine

theorem setSampler_kept {s₀ : State} {s : State} {f : ℕ} {m : Sampler} (hk : Kept s₀ s) : Kept s₀ (setSampler s f m) := by
  unfold setSampler
  try dsimp only
  repeat' first | with_reducible assumption | with_reducible apply KeptParts.same | simp only [kept_mk]

theorem modSampler_kept {s₀ : State} {s : State} {f : ℕ} {h : Sampler → Sampler} (hk : Kept s₀ s) : Kept s₀
    (modSampler s f h) := by
  unfold modSampler
  try dsimp only
  repeat' first | with_reducible assumption | with_reducible apply setSampler_kept

theorem sendResult_kept {s₀ : State} {s : State} {f : ℕ} {g : ℕ} {bs : List Byte} (hk : Kept s₀ s) : Kept s₀
    (sendResult s f g bs) := by
  unfold sendResult
  try dsimp only
  repeat' first | with_reducible assumption | with_reducible apply modSampler_kept

theorem endSession_kept {s₀ : State} {s : State} {f : ℕ} {ses : ℕ} {x : Session} {bs : List Byte} (hk : Kept s₀ s) :
    Kept s₀ (endSession s f ses x bs) := by
  unfold endSession
  try dsimp only
  repeat' first
    | with_reducible assumption | (intro; try dsimp only) | with_reducible apply kept_foldl
    | with_reducible apply setF_kept | with_reducible apply modSampler_kept | with_reducible apply sendResult_kept

theorem excessHeader_kept {s₀ : State} {s : State} {f : ℕ} {ses : ℕ} {gid : ℕ} {x : Finished} (hk : Kept s₀ s) : Kept
    s₀ (excessHeader s f ses gid x) := by
  unfold excessHeader
  try dsimp only
  repeat' first
    | with_reducible assumption | (intro; try dsimp only) | with_reducible apply kept_foldl
    | with_reducible apply modSampler_kept | with_reducible apply countF_kept | with_reducible apply sendResult_kept

theorem opSampleHeader.collect_kept {s₀ : State} {f : ℕ} {s : State} {ses : ℕ} {x : Session} (hk : Kept s₀ s) : Kept
    s₀ (opSampleHeader.collect f s ses x) := by
  unfold opSampleHeader.collect
  try dsimp only
  repeat' first
    | with_reducible assumption | with_reducible apply kept_ite | with_reducible apply countF_kept
    | with_reducible apply endSession_kept | with_reducible apply modSampler_kept

theorem opSampleHeader_kept {s₀ : State} {f : ℕ} {k : ℕ} {s : State} (hk : Kept s₀ s) : Kept s₀ (opSampleHeader f k
    s) := by
  unfold opSampleHeader
  try dsimp only
  repeat' first
    | with_reducible assumption | (intro; try dsimp only) | with_reducible apply kept_elim
    | with_reducible apply kept_ite | with_reducible apply sendResult_kept | with_reducible apply countF_kept
    | with_reducible apply modSampler_kept | with_reducible apply excessHeader_kept
    | with_reducible apply opSampleHeader.collect_kept | with_reducible apply setF_kept | split

theorem opSessionTimeout_kept {s₀ : State} {f : ℕ} {ses : ℕ} {s : State} (hk : Kept s₀ s) : Kept s₀ (opSessionTimeout
    f ses s) := by
  unfold opSessionTimeout
  try dsimp only
  repeat' first
    | with_reducible assumption | with_reducible apply kept_ite | with_reducible apply endSession_kept
    | with_reducible apply countF_kept | with_reducible apply modSampler_kept | split

theorem opSampleResult_kept {s₀ : State} {g : ℕ} {k : ℕ} {s : State} (hk : Kept s₀ s) : Kept s₀ (opSampleResult g k
    s) := by
  unfold opSampleResult
  try dsimp only
  repeat' first
    | with_reducible assumption | (intro _ ht; exact Tile.sound_of ht rfl rfl rfl) | with_reducible apply kept_ite
    | with_reducible apply modSampler_kept | with_reducible apply setF_kept | with_reducible apply modTile_kept
    | with_reducible apply endWait_kept | with_reducible apply memWrite_kept | with_reducible apply countF_kept | split

theorem opSgetTimeout_kept {s₀ : State} {g : ℕ} {s : State} (hk : Kept s₀ s) : Kept s₀ (opSgetTimeout g s) := by
  unfold opSgetTimeout
  try dsimp only
  repeat' first
    | with_reducible assumption | with_reducible apply kept_ite | with_reducible apply endWait_kept
    | with_reducible apply memWrite_kept | split

end Sys2Proof.Machine
end

