-- ==== Sys2Proof/Laws/KeptTick.lean ====
section
/-! SUPPORT. What the functions of Machine/Tick.lean leave alone (Laws/Kept.lean). -/
namespace Sys2Proof.Machine

theorem drainPorts_kept {s₀ : State} {s : State} (hk : Kept s₀ s) : Kept s₀ (drainPorts s) := by
  unfold drainPorts
  try dsimp only
  repeat' first | with_reducible assumption | with_reducible apply KeptParts.same | simp only [kept_mk]

theorem countStalls_kept {s₀ : State} {s : State} (hk : Kept s₀ s) : Kept s₀ (countStalls s) := by
  unfold countStalls
  try dsimp only
  repeat' first
    | with_reducible assumption | (intro; try dsimp only) | with_reducible apply kept_foldl
    | with_reducible apply kept_ite | with_reducible apply KeptParts.same | simp only [kept_mk]

theorem switchClock_kept {s₀ : State} {s : State} {f : ℕ} (hk : Kept s₀ s) : Kept s₀ (switchClock s f) := by
  unfold switchClock
  refine kept_ite hk (sendRec_kept (countF_kept (setF_kept (setF_kept (setF_kept ?_)))))
  dsimp only
  rw [kept_mk]
  refine KeptParts.upd hk rfl id (sound_map (fun e he => ?_)) id
  split
  · exact Tile.sound_of he rfl rfl rfl
  · exact he

theorem clocks_kept {s₀ : State} {s : State} (hk : Kept s₀ s) : Kept s₀ (clocks s) := by
  unfold clocks
  exact kept_foldl (kept_foldl (KeptParts.same hk) (fun _ _ h => setF_kept h)) (fun _ _ h => switchClock_kept h)

theorem showSeconds_kept {s₀ : State} {s : State} (hk : Kept s₀ s) : Kept s₀ (showSeconds s) := by
  unfold showSeconds
  try dsimp only
  repeat' first | with_reducible assumption | with_reducible apply kept_ite | with_reducible apply setF_kept

end Sys2Proof.Machine
end

