-- ==== Sys2Proof/Laws/KeptTileMove.lean ====
section
/-! SUPPORT. What the functions of Machine/TileMove.lean leave alone (Laws/Kept.lean). -/
namespace Sys2Proof.Machine

theorem putReg_kept {g : ℕ} {kind : ℕ} {reg : ℕ} {v : ℕ} : KeepsM (putReg g kind reg v) := by
  unfold putReg
  try dsimp only
  repeat' first
    | with_reducible assumption | with_reducible apply keepsM_modify | with_reducible apply modTile_kept | split
    | (intro _ ht; exact Tile.sound_of ht rfl rfl rfl) | (intro; try dsimp only)

theorem opNop_kept {w : Word} : KeepsM (opNop w) := by
  unfold opNop
  try dsimp only
  repeat' first
    | with_reducible apply keepsM_bind | with_reducible apply keepsM_pure | with_reducible apply faultIf_kept
    | (intro; try dsimp only)

theorem opLdi_kept {g : ℕ} {w : Word} : KeepsM (opLdi g w) := by
  unfold opLdi
  try dsimp only
  repeat' first
    | with_reducible apply keepsM_bind | with_reducible apply keepsM_pure | with_reducible apply faultIf_kept
    | with_reducible apply putReg_kept | (intro; try dsimp only)

theorem opAddi_kept {g : ℕ} {w : Word} : KeepsM (opAddi g w) := by
  unfold opAddi
  try dsimp only
  repeat' first
    | with_reducible apply keepsM_bind | with_reducible apply keepsM_pure | with_reducible apply keepsM_get
    | with_reducible apply faultIf_kept | with_reducible apply putReg_kept | (intro; try dsimp only)

theorem readRiserBytes_kept {g : ℕ} {a : ℕ} {n : ℕ} : KeepsM (readRiserBytes g a n) := by
  unfold readRiserBytes
  try dsimp only
  repeat' first
    | with_reducible apply keepsM_bind | with_reducible apply keepsM_pure | with_reducible apply readRiser_kept
    | (intro; try dsimp only)

theorem writeRiserBytes_kept {g : ℕ} {a : ℕ} {bs : List Byte} : KeepsM (writeRiserBytes g a bs) := by
  unfold writeRiserBytes
  try dsimp only
  repeat' first
    | with_reducible apply keepsM_ite | with_reducible apply keepsM_bind | with_reducible apply keepsM_pure
    | with_reducible apply keepsM_get | with_reducible apply writeRiser_kept | with_reducible apply readRiser_kept
    | split | (intro; try dsimp only)

theorem opMov_kept {g : ℕ} {w : Word} : KeepsM (opMov g w) := by
  unfold opMov
  try dsimp only
  repeat' first
    | with_reducible apply keepsM_bind | with_reducible apply keepsM_pure | with_reducible apply faultIf_kept
    | with_reducible apply pReg_kept | with_reducible apply writeMem_kept | with_reducible apply writeRiserBytes_kept
    | with_reducible apply readMem_kept | with_reducible apply readRiserBytes_kept | split | (intro; try dsimp only)

theorem opFill_kept {g : ℕ} {w : Word} : KeepsM (opFill g w) := by
  unfold opFill
  try dsimp only
  repeat' first
    | with_reducible apply keepsM_bind | with_reducible apply keepsM_pure | with_reducible apply faultIf_kept
    | with_reducible apply pReg_kept | with_reducible apply sReg_kept | with_reducible apply writeMem_kept | split
    | (intro; try dsimp only)

theorem convertOp_kept {g : ℕ} {w : Word} {field : ℕ} : KeepsM (convertOp g w field) := by
  unfold convertOp
  try dsimp only
  repeat' first
    | with_reducible apply keepsM_bind | with_reducible apply keepsM_pure | with_reducible apply faultIf_kept
    | with_reducible apply sReg_kept | with_reducible apply pReg_kept | with_reducible apply readElems_kept
    | with_reducible apply writeElems_kept | with_reducible apply raiseFlags_kept | with_reducible apply stochBits_kept
    | with_reducible apply checkLanes_kept | with_reducible apply checkLaneAlign_kept | split | (intro; try dsimp only)

theorem opCvt_kept {g : ℕ} {w : Word} : KeepsM (opCvt g w) := by
  unfold opCvt
  try dsimp only
  repeat' first
    | with_reducible apply keepsM_bind | with_reducible apply faultIf_kept | with_reducible apply convertOp_kept
    | (intro; try dsimp only)

end Sys2Proof.Machine
end

