-- ==== Sys2Proof/Laws/KeptTileRandom.lean ====
section
/-! SUPPORT. What the functions of Machine/TileRandom.lean leave alone (Laws/Kept.lean). -/
namespace Sys2Proof.Machine

theorem opRinit_kept {g : ℕ} {w : Word} : KeepsM (opRinit g w) := by
  unfold opRinit
  try dsimp only
  repeat' first
    | with_reducible assumption | with_reducible apply keepsM_bind | with_reducible apply keepsM_pure
    | with_reducible apply keepsM_modify | with_reducible apply keepsM_forIn | with_reducible apply pReg_kept
    | with_reducible apply sReg_kept | with_reducible apply faultIf_kept | with_reducible apply readMem_kept
    | with_reducible apply modTile_kept | with_reducible apply writeMem_kept | split
    | (intro _ ht; exact Tile.sound_of ht rfl rfl rfl) | (intro; try dsimp only)

theorem drawRaw_kept {g : ℕ} {base : ℕ} {n : ℕ} : KeepsM (drawRaw g base n) := by
  unfold drawRaw
  try dsimp only
  repeat' first
    | with_reducible apply keepsM_bind | with_reducible apply keepsM_pure | with_reducible apply keepsM_forIn
    | with_reducible apply drawLane_kept | (intro; try dsimp only)

theorem opRbits_kept {g : ℕ} {w : Word} : KeepsM (opRbits g w) := by
  unfold opRbits
  try dsimp only
  repeat' first
    | with_reducible apply keepsM_bind | with_reducible apply keepsM_pure | with_reducible apply sReg_kept
    | with_reducible apply faultIf_kept | with_reducible apply pReg_kept | with_reducible apply checkLanes_kept
    | with_reducible apply drawRaw_kept | with_reducible apply writeMem_kept | split | (intro; try dsimp only)

theorem opRunif_kept {g : ℕ} {w : Word} : KeepsM (opRunif g w) := by
  unfold opRunif
  try dsimp only
  repeat' first
    | with_reducible apply keepsM_bind | with_reducible apply keepsM_pure | with_reducible apply sReg_kept
    | with_reducible apply faultIf_kept | with_reducible apply pReg_kept | with_reducible apply checkLanes_kept
    | with_reducible apply drawRaw_kept | with_reducible apply writeElems_kept | split | (intro; try dsimp only)

theorem opRsr_kept {g : ℕ} {w : Word} : KeepsM (opRsr g w) := by
  unfold opRsr
  try dsimp only
  repeat' first
    | with_reducible apply keepsM_bind | with_reducible apply faultIf_kept | with_reducible apply convertOp_kept
    | (intro; try dsimp only)

theorem opStopk_kept {g : ℕ} {w : Word} : KeepsM (opStopk g w) := by
  unfold opStopk
  try dsimp only
  repeat' first
    | with_reducible apply keepsM_bind | with_reducible apply keepsM_pure | with_reducible apply keepsM_get
    | with_reducible apply keepsM_modify | with_reducible apply KeptParts.same | with_reducible apply sReg_kept
    | with_reducible apply faultIf_kept | with_reducible apply pReg_kept | with_reducible apply readF32_kept
    | with_reducible apply writeMem_kept | simp only [kept_mk] | split | (intro; try dsimp only)

end Sys2Proof.Machine
end

