-- ==== Sys2Proof/Laws/KeptTileVector.lean ====
section
/-! SUPPORT. What the functions of Machine/TileVector.lean leave alone (Laws/Kept.lean). -/
namespace Sys2Proof.Machine

theorem opVbin_kept {g : ℕ} {w : Word} : KeepsM (opVbin g w) := by
  unfold opVbin
  try dsimp only
  repeat' first
    | with_reducible apply keepsM_bind | with_reducible apply keepsM_pure | with_reducible apply faultIf_kept
    | with_reducible apply pReg_kept | with_reducible apply readF32_kept | with_reducible apply writeResults_kept | split
    | (intro; try dsimp only)

theorem opVfma_kept {g : ℕ} {w : Word} : KeepsM (opVfma g w) := by
  unfold opVfma
  try dsimp only
  repeat' first
    | with_reducible apply keepsM_bind | with_reducible apply keepsM_pure | with_reducible apply faultIf_kept
    | with_reducible apply pReg_kept | with_reducible apply readF32_kept | with_reducible apply writeResults_kept | split
    | (intro; try dsimp only)

theorem opVfn_kept {g : ℕ} {w : Word} : KeepsM (opVfn g w) := by
  unfold opVfn
  try dsimp only
  repeat' first
    | with_reducible apply keepsM_bind | with_reducible apply keepsM_pure | with_reducible apply faultIf_kept
    | with_reducible apply pReg_kept | with_reducible apply readF32_kept | with_reducible apply writeResults_kept | split
    | (intro; try dsimp only)

theorem opVred_kept {g : ℕ} {w : Word} : KeepsM (opVred g w) := by
  unfold opVred
  try dsimp only
  repeat' first
    | with_reducible apply keepsM_bind | with_reducible apply keepsM_pure | with_reducible apply faultIf_kept
    | with_reducible apply pReg_kept | with_reducible apply readF32_kept | with_reducible apply writeResults_kept | split
    | (intro; try dsimp only)

theorem opVscan_kept {g : ℕ} {w : Word} : KeepsM (opVscan g w) := by
  unfold opVscan
  try dsimp only
  repeat' first
    | with_reducible apply keepsM_bind | with_reducible apply keepsM_pure | with_reducible apply faultIf_kept
    | with_reducible apply pReg_kept | with_reducible apply readF32_kept | with_reducible apply writeResults_kept | split
    | (intro; try dsimp only)

theorem quantScale_kept {g : ℕ} {sc : ℕ} : KeepsM (quantScale g sc) := by
  unfold quantScale
  try dsimp only
  repeat' first
    | with_reducible apply keepsM_ite | with_reducible apply keepsM_bind | with_reducible apply keepsM_pure
    | with_reducible apply readMem_kept | (intro; try dsimp only)

theorem quantSource_kept {g : ℕ} {a : ℕ} {n : ℕ} : KeepsM (quantSource g a n) := by
  unfold quantSource
  try dsimp only
  repeat' first
    | with_reducible apply keepsM_ite | with_reducible apply keepsM_bind | with_reducible apply keepsM_pure
    | with_reducible apply readRiser_kept | with_reducible apply writeRiser_kept | with_reducible apply readMem_kept
    | (intro; try dsimp only)

theorem opVquant_kept {g : ℕ} {w : Word} : KeepsM (opVquant g w) := by
  unfold opVquant
  try dsimp only
  repeat' first
    | with_reducible apply keepsM_bind | with_reducible apply keepsM_pure | with_reducible apply keepsM_forIn
    | with_reducible apply sReg_kept | with_reducible apply faultIf_kept | with_reducible apply pReg_kept
    | with_reducible apply quantScale_kept | with_reducible apply quantSource_kept | with_reducible apply writeMem_kept
    | with_reducible apply raiseFlags_kept | with_reducible apply stochBits_kept
    | with_reducible apply checkLaneAlign_kept | with_reducible apply checkLanes_kept | split | (intro; try dsimp only)

end Sys2Proof.Machine
end

