-- ==== Sys2Proof/Laws/KeptWindow.lean ====
section
/-! SUPPORT. What the functions of Machine/Window.lean leave alone (Laws/Kept.lean). -/
namespace Sys2Proof.Machine

theorem fullWrite_kept {s₀ : State} {s : State} {x : RegAt} {v : Word} (hk : Kept s₀ s) : Kept s₀ (fullWrite s x v) := by
  unfold fullWrite
  try dsimp only
  repeat' first
    | with_reducible assumption | with_reducible apply kept_ite | with_reducible apply writeTilCtrl_kept
    | with_reducible apply opTilReset_kept | with_reducible apply opTreset_kept | with_reducible apply opFieldReset_kept
    | with_reducible apply opPortReset_kept | with_reducible apply opResetWrite_kept
    | with_reducible apply opStageCtrl_kept | with_reducible apply opAdopt_kept | with_reducible apply opClose_kept
    | with_reducible apply basicWrite_kept | split

theorem windowWrite_kept {s₀ : State} {s : State} {l : ℕ} {a : ℕ} {v : Word} (hk : Kept s₀ s) : Kept s₀ (windowWrite
    s l a v) := by
  unfold windowWrite
  try dsimp only
  repeat' first
    | with_reducible assumption | (intro; try dsimp only) | with_reducible apply writeAt_kept
    | with_reducible apply fullWrite_kept

theorem opRegWrite_kept {s₀ : State} {a : ℕ} {v : Word} {s : State} (hk : Kept s₀ s) : Kept s₀ (opRegWrite a v s) := by
  unfold opRegWrite
  try dsimp only
  repeat' first | with_reducible assumption | with_reducible apply windowWrite_kept

theorem opUndecoded_kept {s₀ : State} {a : ℕ} {wr : Bool} {l : ℕ} {s : State} (hk : Kept s₀ s) : Kept s₀ (opUndecoded
    a wr l s) := by
  unfold opUndecoded
  try dsimp only
  repeat' first | with_reducible assumption | with_reducible apply kept_ite | with_reducible apply noteAccess_kept

theorem windowRead_kept {s₀ : State} {s : State} {l : ℕ} {a : ℕ} (hk : Kept s₀ s) : Kept s₀ (windowRead s l a).2 := by
  unfold windowRead
  try dsimp only
  repeat' first | with_reducible assumption | with_reducible apply noteAccess_kept | split

theorem countRefused_kept {s₀ : State} {s : State} {l : ℕ} {form : Bool} (hk : Kept s₀ s) : Kept s₀ (countRefused s l
    form) := by
  unfold countRefused
  try dsimp only
  repeat' first | with_reducible assumption | with_reducible apply kept_ite | with_reducible apply countI_kept

theorem opWinRd_kept {s₀ : State} {l : ℕ} {a : ℕ} {tag : ℕ} {form : Bool} {s : State} (hk : Kept s₀ s) : Kept s₀
    (opWinRd l a tag form s) := by
  unfold opWinRd
  try dsimp only
  repeat' first
    | with_reducible assumption | with_reducible apply kept_ite | with_reducible apply sendPkt_kept
    | with_reducible apply countRefused_kept | with_reducible apply windowRead_kept

theorem noteTag_kept {s₀ : State} {s : State} {l : ℕ} {tag : ℕ} (hk : Kept s₀ s) : Kept s₀ (noteTag s l tag) := by
  unfold noteTag
  try dsimp only
  repeat' first | with_reducible assumption | with_reducible apply modLink_kept

theorem opWinWr_kept {s₀ : State} {l : ℕ} {a : ℕ} {v : Word} {tag : ℕ} {form : Bool} {resend : Bool} {s : State} (hk
    : Kept s₀ s) : Kept s₀ (opWinWr l a v tag form resend s) := by
  unfold opWinWr
  try dsimp only
  repeat' first
    | with_reducible assumption | with_reducible apply kept_ite | with_reducible apply sendPkt_kept
    | with_reducible apply countRefused_kept | with_reducible apply windowWrite_kept | with_reducible apply noteTag_kept

end Sys2Proof.Machine
end

