-- ==== Sys2Proof/Laws/Side.lean ====
section
/-! SUPPORT. What registers, records, links and accesses to memory leave alone: the units that issue them. -/
namespace Sys2Proof.Machine

/-- From `s` to `t` the queues, pours, collectives, sequencer, images, loader, samplers, power and time have not changed. -/
def Side (s t : State) : Prop :=
  t.pours = s.pours ∧ t.chains = s.chains ∧ t.coll = s.coll ∧ t.recov = s.recov ∧ t.slots = s.slots ∧ t.loader = s.loader ∧
    t.power = s.power ∧ t.samplers = s.samplers ∧ t.cmd.queues = s.cmd.queues ∧ t.now = s.now

theorem Side.refl (s : State) : Side s s := ⟨rfl, rfl, rfl, rfl, rfl, rfl, rfl, rfl, rfl, rfl⟩

theorem Side.trans {s t u : State} (h : Side s t) (k : Side t u) : Side s u := by
  obtain ⟨a1, a2, a3, a4, a5, a6, a7, a8, a9, a10⟩ := h
  obtain ⟨b1, b2, b3, b4, b5, b6, b7, b8, b9, b10⟩ := k
  exact ⟨b1.trans a1, b2.trans a2, b3.trans a3, b4.trans a4, b5.trans a5, b6.trans a6, b7.trans a7, b8.trans a8, b9.trans a9, b10.trans a10⟩

/-- The parts of a state that `Side` speaks about. -/
def SideParts (s₀ : State) (pours : Assoc PourUnit) (chains : List PourChain) (coll : CollState) (recov : RecState) (slots : Assoc ImgSlot)
    (loader : Loader) (power : PowerState) (samplers : Assoc Sampler) (queues : Assoc CmdQueue) (now : Nat) : Prop :=
  pours = s₀.pours ∧ chains = s₀.chains ∧ coll = s₀.coll ∧ recov = s₀.recov ∧ slots = s₀.slots ∧ loader = s₀.loader ∧
    power = s₀.power ∧ samplers = s₀.samplers ∧ queues = s₀.cmd.queues ∧ now = s₀.now

theorem side_mk {s₀ : State} {pending : List Instr} {now : Nat} {upSince : Nat} {regs : Assoc Word} {tiles : Assoc Tile}
    {cmd : CmdUnit} {fieldStart : Assoc Nat}
    {recov : RecState} {slots : Assoc ImgSlot} {notices : List Nat} {cresIn : List (Nat × Packet)} {free : Nat} {tiers : Tiers}
    {samplers : Assoc Sampler} {brois : Assoc BLink} {chains : List PourChain} {pours : Assoc PourUnit} {net : NetState}
    {coll : CollState} {loader : Loader} {power : PowerState} :
    Side s₀ (State.mk pending now regs tiles cmd fieldStart upSince recov slots notices cresIn free tiers samplers brois
      chains pours net coll loader power) = SideParts s₀ pours chains coll recov slots loader power samplers cmd.queues now := rfl

theorem SideParts.same {s₀ s : State} (h : Side s₀ s) :
    SideParts s₀ s.pours s.chains s.coll s.recov s.slots s.loader s.power s.samplers s.cmd.queues s.now := h

theorem side_foldl {s₀ s : State} {α : Type} {l : List α} {f : State → α → State} (h : Side s₀ s)
    (hs : ∀ t x, Side s₀ t → Side s₀ (f t x)) : Side s₀ (l.foldl f s) := foldl_keeps (P := Side s₀) l h hs
theorem side_foldl_snd {s₀ : State} {α β : Type} {l : List α} {f : β × State → α → β × State} {b : β × State}
    (h : Side s₀ b.2) (hs : ∀ t x, Side s₀ t.2 → Side s₀ (f t x).2) : Side s₀ (l.foldl f b).2 := foldl_keeps (P := fun b : β × State => Side s₀ b.2) l h hs
theorem side_foldl_thd {s₀ : State} {α β γ : Type} {l : List α} {f : β × γ × State → α → β × γ × State} {b : β × γ × State}
    (h : Side s₀ b.2.2) (hs : ∀ t x, Side s₀ t.2.2 → Side s₀ (f t x).2.2) : Side s₀ (l.foldl f b).2.2 :=
  foldl_keeps (P := fun b : β × γ × State => Side s₀ b.2.2) l h hs
theorem side_foldl_fth {s₀ : State} {α β γ δ : Type} {l : List α} {f : β × γ × δ × State → α → β × γ × δ × State} {b : β × γ × δ × State}
    (h : Side s₀ b.2.2.2) (hs : ∀ t x, Side s₀ t.2.2.2 → Side s₀ (f t x).2.2.2) : Side s₀ (l.foldl f b).2.2.2 :=
  foldl_keeps (P := fun b : β × γ × δ × State => Side s₀ b.2.2.2) l h hs
theorem side_foldl_last {s₀ : State} {α β γ δ ε : Type} {l : List α} {f : β × γ × δ × ε × State → α → β × γ × δ × ε × State}
    {b : β × γ × δ × ε × State} (h : Side s₀ b.2.2.2.2) (hs : ∀ t x, Side s₀ t.2.2.2.2 → Side s₀ (f t x).2.2.2.2) :
    Side s₀ (l.foldl f b).2.2.2.2 := foldl_keeps (P := fun b : β × γ × δ × ε × State => Side s₀ b.2.2.2.2) l h hs
theorem side_ite {s₀ a b : State} {c : Prop} [Decidable c] (ha : Side s₀ a) (hb : Side s₀ b) : Side s₀ (if c then a else b) := by
  split <;> assumption
theorem side_elim {s₀ s : State} {α : Type} {o : Option α} {f : α → State} (h : Side s₀ s) (hf : ∀ x, Side s₀ (f x)) :
    Side s₀ (o.elim s f) := by cases o <;> first | exact h | exact hf _
theorem side_ite_snd {β : Type} {s₀ : State} {a b : β × State} {c : Prop} [Decidable c] (ha : Side s₀ a.2) (hb : Side s₀ b.2) :
    Side s₀ (if c then a else b).2 := by split <;> assumption
theorem side_ite_thd {β γ : Type} {s₀ : State} {a b : β × γ × State} {c : Prop} [Decidable c] (ha : Side s₀ a.2.2) (hb : Side s₀ b.2.2) :
    Side s₀ (if c then a else b).2.2 := by split <;> assumption
theorem wrReg_side {s₀ s : State} {r : RegName} {u i : Nat} {v : Word} (h : Side s₀ s) : Side s₀ (wrReg s r u i v) := h
theorem setTile_side {s₀ s : State} {g : Nat} {t : Tile} (h : Side s₀ s) : Side s₀ (setTile s g t) := h
theorem modTile_side {s₀ s : State} {g : Nat} {f : Tile → Tile} (h : Side s₀ s) : Side s₀ (modTile s g f) := h

theorem setI_side {s₀ : State} {s : State} {f : Fld} {u : ℕ} {i : ℕ} {v : ℕ} (hk : Side s₀ s) : Side s₀ (setI s f u i
    v) := by
  unfold setI
  try dsimp only
  repeat' first | with_reducible assumption | with_reducible apply wrReg_side

theorem setF_side {s₀ : State} {s : State} {f : Fld} {u : ℕ} {v : ℕ} (hk : Side s₀ s) : Side s₀ (setF s f u v) := by
  unfold setF
  try dsimp only
  repeat' first | with_reducible assumption | with_reducible apply setI_side

theorem countI_side {s₀ : State} {s : State} {f : Fld} {u : ℕ} {i : ℕ} {n : ℕ} (hk : Side s₀ s) : Side s₀ (countI s f
    u i n) := by
  unfold countI
  try dsimp only
  repeat' first | with_reducible assumption | with_reducible apply setI_side

theorem countF_side {s₀ : State} {s : State} {f : Fld} {u : ℕ} {n : ℕ} (hk : Side s₀ s) : Side s₀ (countF s f u n) := by
  unfold countF
  try dsimp only
  repeat' first | with_reducible assumption | with_reducible apply countI_side

theorem logSupp_side {s₀ : State} {s : State} {fc : Fld} {ff : Fld} {fl : Fld} {u : ℕ} {code : ℕ} (hk : Side s₀ s) :
    Side s₀ (logSupp s fc ff fl u code) := by
  unfold logSupp
  try dsimp only
  repeat' first
    | with_reducible assumption | with_reducible apply side_ite | with_reducible apply setF_side
    | with_reducible apply countF_side

theorem sendRec_side {s₀ : State} {s : State} {x : Src} {status : ℕ} {cause : ℕ} {d0 : ℕ} {d1 : ℕ} (hk : Side s₀ s) :
    Side s₀ (sendRec s x status cause d0 d1) := by
  unfold sendRec
  try dsimp only
  repeat' first | with_reducible assumption | with_reducible apply SideParts.same | simp only [side_mk]

theorem sendInc_side {s₀ : State} {s : State} {ev : ℕ} {v : W32} (hk : Side s₀ s) : Side s₀ (sendInc s ev v) := by
  unfold sendInc
  try dsimp only
  repeat' first | with_reducible assumption | with_reducible apply SideParts.same | simp only [side_mk]

theorem logMemErr_side {s₀ : State} {s : State} {g : ℕ} {d : ℕ} {st : ℕ} {a : ℕ} {m : ℕ} (hk : Side s₀ s) : Side s₀
    (logMemErr s g d st a m) := by
  unfold logMemErr
  try dsimp only
  repeat' first
    | with_reducible assumption | with_reducible apply side_ite | with_reducible apply countF_side
    | with_reducible apply setF_side

theorem memWrite_side {s₀ s : State} {g a : Nat} {bs : List Byte} (h : Side s₀ s) : Side s₀ (memWrite s g a bs) := by
  unfold memWrite
  exact side_ite (setF_side (setTile_side h)) (setTile_side h)

theorem memReadRemote_side {s₀ : State} {s : State} {g : ℕ} {a : ℕ} {n : ℕ} (hk : Side s₀ s) : Side s₀ (memReadRemote
    s g a n).2.2 := by
  unfold memReadRemote
  try dsimp only
  repeat' first
    | with_reducible assumption | (intro; try dsimp only) | with_reducible apply side_foldl
    | with_reducible apply logMemErr_side

theorem putWire_side {s₀ : State} {s : State} {g : ℕ} {p : Port} {q : Packet} {src : optParam (Option ℕ) Option.none}
    (hk : Side s₀ s) : Side s₀ (putWire s g p q src) := by
  unfold putWire
  try dsimp only
  repeat' first | with_reducible assumption | with_reducible apply modTile_side

theorem cresSend_side {s₀ : State} {s : State} {c : ℕ} {p : Packet} (hk : Side s₀ s) : Side s₀ (cresSend s c p) := by
  unfold cresSend
  try dsimp only
  repeat' first | with_reducible assumption | with_reducible apply side_ite | with_reducible apply putWire_side | split

theorem setConn_side {s₀ : State} {s : State} {n : ℕ} {c : Conn} (hk : Side s₀ s) : Side s₀ (setConn s n c) := by
  unfold setConn
  try dsimp only
  repeat' first | with_reducible assumption | with_reducible apply SideParts.same | simp only [side_mk]

theorem modConn_side {s₀ : State} {s : State} {n : ℕ} {f : Conn → Conn} (hk : Side s₀ s) : Side s₀ (modConn s n f) := by
  unfold modConn
  try dsimp only
  repeat' first | with_reducible assumption | with_reducible apply setConn_side

theorem pickPort_side {s₀ : State} {s : State} {c : ℕ} {k : ℕ} (hk : Side s₀ s) : Side s₀ (pickPort s c k).2 := by
  unfold pickPort
  try dsimp only
  repeat' first | with_reducible assumption | with_reducible apply SideParts.same | simp only [side_mk] | split

theorem wireOut_side {s₀ : State} {s : State} {o : NetOut} {retx : Bool} (hk : Side s₀ s) : Side s₀ (wireOut s o
    retx) := by
  unfold wireOut
  try dsimp only
  repeat' first | with_reducible assumption | with_reducible apply SideParts.same | simp only [side_mk]

theorem portFor_side {s₀ : State} {s : State} {o : NetOut} (hk : Side s₀ s) : Side s₀ (portFor s o).2 := by
  unfold portFor
  try dsimp only
  repeat' first
    | with_reducible assumption | with_reducible apply side_ite_snd | with_reducible apply pickPort_side | split

theorem startOut_side {s₀ : State} {s : State} {o : NetOut} (hk : Side s₀ s) : Side s₀ (startOut s o) := by
  unfold startOut
  try dsimp only
  repeat' first
    | with_reducible assumption | with_reducible apply SideParts.same | with_reducible apply portFor_side
    | with_reducible apply setConn_side | with_reducible apply wireOut_side | simp only [side_mk] | split

theorem scrubValid_side {s₀ : State} {s : State} {k : ℕ} (hk : Side s₀ s) : Side s₀ (scrubValid s k) := by
  unfold scrubValid
  try dsimp only
  repeat' first | with_reducible assumption | with_reducible apply SideParts.same | simp only [side_mk] | split

theorem writeBackWord_side {s₀ : State} {s : State} {e : ℕ × ℕ} (hk : Side s₀ s) : Side s₀ (writeBackWord s e) := by
  unfold writeBackWord
  try dsimp only
  repeat' first | with_reducible assumption | with_reducible apply SideParts.same | simp only [side_mk]

theorem countChannel_side {s₀ : State} {s : State} {k : ℕ} {e : ℕ × ℕ} (hk : Side s₀ s) : Side s₀ (countChannel s k
    e) := by
  unfold countChannel
  try dsimp only
  repeat' first | with_reducible assumption | with_reducible apply side_ite | with_reducible apply countI_side

theorem copyRow_side {s₀ : State} {s : State} {k : ℕ} {g : ℕ} (hk : Side s₀ s) : Side s₀ (copyRow s k g) := by
  unfold copyRow
  try dsimp only
  repeat' first
    | with_reducible assumption | (intro; try dsimp only) | with_reducible apply side_foldl
    | with_reducible apply writeBackWord_side | with_reducible apply countChannel_side

theorem retireRow_side {s₀ : State} {s : State} {k : ℕ} {g : ℕ} (hk : Side s₀ s) : Side s₀ (retireRow s k g) := by
  unfold retireRow
  try dsimp only
  repeat' first
    | with_reducible assumption | with_reducible apply side_ite | with_reducible apply SideParts.same
    | with_reducible apply sendRec_side | with_reducible apply setI_side | with_reducible apply copyRow_side
    | simp only [side_mk]

theorem readGranule_side {s₀ : State} {s : State} {k : ℕ} {g : ℕ} (hk : Side s₀ s) : Side s₀ (readGranule s k g).2.2 := by
  unfold readGranule
  try dsimp only
  repeat' first
    | with_reducible assumption | (intro; try dsimp only) | with_reducible apply side_foldl
    | with_reducible apply side_ite | with_reducible apply side_ite_thd | with_reducible apply scrubValid_side
    | with_reducible apply writeBackWord_side | with_reducible apply countChannel_side
    | with_reducible apply retireRow_side | with_reducible apply countF_side

theorem writeGranule_side {s₀ : State} {s : State} {k : ℕ} {g : ℕ} {bs : List Byte} {cov : optParam (ℕ → Bool) fun x
    => Bool.true} (hk : Side s₀ s) : Side s₀ (writeGranule s k g bs cov) := by
  unfold writeGranule
  try dsimp only
  repeat' first
    | with_reducible assumption | with_reducible apply side_ite | with_reducible apply SideParts.same
    | with_reducible apply scrubValid_side | with_reducible apply setF_side | simp only [side_mk]

theorem putPt_side {s₀ : State} {s : State} {page : ℕ} {e : PtEntry} (hk : Side s₀ s) : Side s₀ (putPt s page e) := by
  unfold putPt
  try dsimp only
  repeat' first
    | with_reducible assumption | with_reducible apply side_ite | with_reducible apply SideParts.same
    | with_reducible apply setF_side | simp only [side_mk]

theorem ptRead_side {s₀ : State} {s : State} {page : ℕ} (hk : Side s₀ s) : Side s₀ (ptRead s page) := by
  unfold ptRead
  try dsimp only
  repeat' first
    | with_reducible assumption | (intro; try dsimp only) | with_reducible apply side_foldl
    | with_reducible apply side_ite | with_reducible apply writeBackWord_side | with_reducible apply countChannel_side
    | with_reducible apply retireRow_side | with_reducible apply sendRec_side | with_reducible apply putPt_side

theorem modPt_side {s₀ : State} {s : State} {page : ℕ} {f : PtEntry → PtEntry} (hk : Side s₀ s) : Side s₀ (modPt s
    page f) := by
  unfold modPt
  try dsimp only
  repeat' first | with_reducible assumption | with_reducible apply ptRead_side | with_reducible apply putPt_side

theorem setDirty_side {s₀ : State} {s : State} {page : ℕ} {u : ℕ} (hk : Side s₀ s) : Side s₀ (setDirty s page u) := by
  unfold setDirty
  try dsimp only
  repeat' first | with_reducible assumption | with_reducible apply modPt_side

theorem poisonPage_side {s₀ : State} {s : State} {page : ℕ} {unit : ℕ} {tier : ℕ} (hk : Side s₀ s) : Side s₀
    (poisonPage s page unit tier) := by
  unfold poisonPage
  try dsimp only
  repeat' first
    | with_reducible assumption | with_reducible apply side_ite | with_reducible apply SideParts.same
    | simp only [side_mk]

theorem poisonAt_side {s₀ : State} {s : State} {k : ℕ} (hk : Side s₀ s) : Side s₀ (poisonAt s k) := by
  unfold poisonAt
  try dsimp only
  repeat' first | with_reducible assumption | with_reducible apply poisonPage_side | split

theorem readGranules_side {s₀ : State} {s : State} {k : ℕ} {g : ℕ} {n0 : ℕ} (hk : Side s₀ s) : Side s₀ (readGranules
    s k g n0).2.2 := by
  induction n0 generalizing s k g with
  | zero =>
    unfold readGranules
    try dsimp only
    repeat' first | with_reducible assumption
  | succ n ih =>
    unfold readGranules
    try dsimp only
    repeat' first | with_reducible assumption | with_reducible apply ih | with_reducible apply readGranule_side

theorem mergeGranule_side {s₀ : State} {s : State} {k : ℕ} {g : ℕ} {off : ℕ} {bs : List Byte} (hk : Side s₀ s) : Side
    s₀ (mergeGranule s k g off bs) := by
  unfold mergeGranule
  try dsimp only
  repeat' first
    | with_reducible assumption | with_reducible apply side_ite | with_reducible apply readGranule_side
    | with_reducible apply writeGranule_side | with_reducible apply poisonAt_side

theorem granulesWrite_side {s₀ : State} {s : State} {k : ℕ} {off : ℕ} {bs : List Byte} {n0 : ℕ} (hk : Side s₀ s) :
    Side s₀ (granulesWrite s k off bs n0) := by
  induction n0 generalizing s k off bs with
  | zero =>
    unfold granulesWrite
    try dsimp only
    repeat' first | with_reducible assumption
  | succ n ih =>
    unfold granulesWrite
    try dsimp only
    repeat' first
      | with_reducible assumption | with_reducible apply ih | with_reducible apply side_ite
      | with_reducible apply writeGranule_side | with_reducible apply mergeGranule_side

theorem scrubSet_side {s₀ : State} {s : State} {k : ℕ} (hk : Side s₀ s) : Side s₀ (scrubSet s k) := by
  unfold scrubSet
  try dsimp only
  repeat' first | with_reducible assumption | with_reducible apply SideParts.same | simp only [side_mk] | split

theorem cacheLookup_side {s₀ : State} {s : State} {c : ℕ} {page : ℕ} (hk : Side s₀ s) : Side s₀ (cacheLookup s c
    page) := by
  unfold cacheLookup
  try dsimp only
  repeat' first
    | with_reducible assumption | with_reducible apply side_ite | with_reducible apply SideParts.same
    | with_reducible apply scrubSet_side | with_reducible apply countF_side | with_reducible apply ptRead_side
    | simp only [side_mk]

theorem sendFar_side {s₀ : State} {s : State} {write : Bool} {p : ℕ} {u : ℕ} {off : ℕ} {bytes : ℕ} {data : List Byte}
    {page : ℕ} {cres : ℕ} {what : FarFor} {turn : optParam (Option ℕ) Option.none} (hk : Side s₀ s) : Side s₀
    (sendFar s write p u off bytes data page cres what turn) := by
  unfold sendFar
  try dsimp only
  repeat' first
    | with_reducible assumption | with_reducible apply SideParts.same | with_reducible apply startOut_side
    | simp only [side_mk]

theorem placeRead_side {s₀ : State} {s : State} {p : ℕ} {u : ℕ} {off : ℕ} {n : ℕ} (hk : Side s₀ s) : Side s₀
    (placeRead s p u off n).2.2 := by
  unfold placeRead
  try dsimp only
  repeat' first
    | with_reducible assumption | with_reducible apply side_ite_thd | with_reducible apply memReadRemote_side
    | with_reducible apply readGranules_side | split

theorem placeWrite_side {s₀ : State} {s : State} {p : ℕ} {u : ℕ} {off : ℕ} {bs : List Byte} (hk : Side s₀ s) : Side
    s₀ (placeWrite s p u off bs) := by
  unfold placeWrite
  try dsimp only
  repeat' first
    | with_reducible assumption | with_reducible apply side_ite | with_reducible apply memWrite_side
    | with_reducible apply granulesWrite_side | split

theorem placeBytes_side {s₀ : State} {s : State} {p : ℕ} {u : ℕ} {off : ℕ} {n : ℕ} (hk : Side s₀ s) : Side s₀
    (placeBytes s p u off n).2.2 := by
  unfold placeBytes
  try dsimp only
  repeat' first | with_reducible assumption | with_reducible apply placeRead_side

theorem countFail_side {s₀ : State} {s : State} {c : ℕ} {f : ℕ} (hk : Side s₀ s) : Side s₀ (countFail s c f) := by
  unfold countFail
  try dsimp only
  repeat' first | with_reducible assumption | with_reducible apply side_ite | with_reducible apply countF_side

theorem writeThrough_side {s₀ s : State} {page u off : Nat} {bs : List Byte} {write : State → Nat → Bool → State} (hk : Side s₀ s)
    (hw : ∀ s p d, Side s₀ s → Side s₀ (write s p d)) : Side s₀ (writeThrough s page u off bs write) := by
  unfold writeThrough
  dsimp only
  repeat' first
    | with_reducible assumption | apply hw | with_reducible apply side_ite | simp only [side_mk] | split
    | with_reducible apply SideParts.same

theorem pageWrite_side {s₀ : State} {s : State} {page : ℕ} {u : ℕ} {off : ℕ} {bs : List Byte} (hk : Side s₀ s) : Side
    s₀ (pageWrite s page u off bs) := by
  unfold pageWrite
  try dsimp only
  repeat' first
    | with_reducible assumption | (intro; try dsimp only) | with_reducible apply side_ite
    | with_reducible apply writeThrough_side | with_reducible apply sendFar_side | with_reducible apply placeWrite_side
    | with_reducible apply setDirty_side

theorem stageMissing_side {s₀ : State} {s : State} {c : ℕ} {ps : List (ℕ × ℕ × ℕ × ℕ)} (hk : Side s₀ s) : Side s₀
    (stageMissing s c ps).2 := by
  unfold stageMissing
  try dsimp only
  repeat' first
    | with_reducible assumption | (intro; try dsimp only) | with_reducible apply side_foldl
    | with_reducible apply side_ite | with_reducible apply sendFar_side

theorem readPiece_side {s₀ : State} {s : State} {place : ℕ} {p : ℕ × ℕ × ℕ × ℕ} (hk : Side s₀ s) : Side s₀ (readPiece
    s place p).2.2 := by
  unfold readPiece
  try dsimp only
  repeat' first
    | with_reducible assumption | with_reducible apply side_ite_thd | with_reducible apply SideParts.same
    | with_reducible apply placeBytes_side | with_reducible apply poisonPage_side | simp only [side_mk] | split

theorem checkEntries_side {s₀ : State} {s : State} {a : ℕ} {n : ℕ} (hk : Side s₀ s) : Side s₀ (checkEntries s a n) := by
  unfold checkEntries
  try dsimp only
  repeat' first
    | with_reducible assumption | (intro; try dsimp only) | with_reducible apply side_foldl
    | with_reducible apply ptRead_side

theorem readLogical_side {s₀ : State} {s : State} {a : ℕ} {n : ℕ} (hk : Side s₀ s) : Side s₀ (readLogical s a n).2.2 := by
  unfold readLogical
  try dsimp only
  repeat' first
    | with_reducible assumption | (intro; try dsimp only) | with_reducible apply side_foldl_thd
    | with_reducible apply side_ite_thd | with_reducible apply checkEntries_side | with_reducible apply stageMissing_side
    | with_reducible apply readPiece_side

theorem writeLogical_side {s₀ : State} {s : State} {a : ℕ} {bs : List Byte} (hk : Side s₀ s) : Side s₀ (writeLogical
    s a bs).2 := by
  unfold writeLogical
  try dsimp only
  repeat' first
    | with_reducible assumption | (intro; try dsimp only) | with_reducible apply side_foldl_thd
    | with_reducible apply side_ite_thd | with_reducible apply checkEntries_side | with_reducible apply sendRec_side
    | with_reducible apply countF_side | with_reducible apply pageWrite_side

theorem forwardT0_side {s₀ : State} {s : State} {c : ℕ} {p : ℕ} {page : ℕ} {u : ℕ} {off : ℕ} {q : Packet} (hk : Side
    s₀ s) : Side s₀ (forwardT0 s c p page u off q) := by
  unfold forwardT0
  try dsimp only
  repeat' first | with_reducible assumption | with_reducible apply cresSend_side

theorem getPiece_side {s₀ : State} {s : State} {g : ℕ} {c : ℕ} {tag : ℕ} {p : ℕ × ℕ × ℕ × ℕ} (hk : Side s₀ s) : Side
    s₀ (getPiece s g c tag p) := by
  unfold getPiece
  try dsimp only
  repeat' first
    | with_reducible assumption | with_reducible apply side_ite | with_reducible apply forwardT0_side
    | with_reducible apply placeBytes_side | with_reducible apply poisonPage_side | with_reducible apply cresSend_side
    | with_reducible apply sendFar_side | split

theorem logOthers_side {s₀ : State} {s : State} {cs : List ℕ} {best : ℕ} (hk : Side s₀ s) : Side s₀ (logOthers s cs
    best) := by
  unfold logOthers
  try dsimp only
  repeat' first
    | with_reducible assumption | (intro; try dsimp only) | with_reducible apply side_foldl
    | with_reducible apply logSupp_side

theorem logPort_side {s₀ : State} {s : State} {cs : List ℕ} {best : ℕ} (hk : Side s₀ s) : Side s₀ (logPort s cs best)
    := by
  unfold logPort
  try dsimp only
  repeat' first
    | with_reducible assumption | (intro; try dsimp only) | with_reducible apply side_foldl
    | with_reducible apply logSupp_side

theorem logStack_side {s₀ : State} {s : State} {c : ℕ} {cs : List ℕ} {best : ℕ} (hk : Side s₀ s) : Side s₀ (logStack
    s c cs best) := by
  unfold logStack
  try dsimp only
  repeat' first
    | with_reducible assumption | (intro; try dsimp only) | with_reducible apply side_foldl
    | with_reducible apply logSupp_side

theorem setSub_side {s₀ : State} {s : State} {f : ℕ} {k : ℕ} {b : Sub} (hk : Side s₀ s) : Side s₀ (setSub s f k b) := by
  unfold setSub
  try dsimp only
  repeat' first | with_reducible assumption | with_reducible apply SideParts.same | simp only [side_mk]

theorem pushSub_side {s₀ : State} {s : State} {f : ℕ} {k : ℕ} {x : SurfPkt} (hk : Side s₀ s) : Side s₀ (pushSub s f k
    x) := by
  unfold pushSub
  try dsimp only
  repeat' first | with_reducible assumption | with_reducible apply side_ite | with_reducible apply setSub_side

theorem sendSurf_side {s₀ : State} {s : State} {f : ℕ} {k : ℕ} {x : SurfPkt} (hk : Side s₀ s) : Side s₀ (sendSurf s f
    k x) := by
  unfold sendSurf
  try dsimp only
  repeat' first | with_reducible assumption | with_reducible apply pushSub_side | with_reducible apply setSub_side | split

theorem creditFlit_side {s₀ : State} {s : State} {f : ℕ} {k : ℕ} {c : ℕ} (hk : Side s₀ s) : Side s₀ (creditFlit s f k
    c) := by
  unfold creditFlit
  try dsimp only
  repeat' first | with_reducible assumption | with_reducible apply setSub_side

theorem portLookup_side {s₀ : State} {s : State} {c : ℕ} {a : ℕ} {n : ℕ} (hk : Side s₀ s) : Side s₀ (portLookup s c a
    n) := by
  unfold portLookup
  try dsimp only
  repeat' first
    | with_reducible assumption | (intro; try dsimp only) | with_reducible apply side_foldl
    | with_reducible apply cacheLookup_side

theorem portFail_side {s₀ : State} {s : State} {c : ℕ} {f : ℕ} {page : ℕ} (hk : Side s₀ s) : Side s₀ (portFail s c f
    page) := by
  unfold portFail
  try dsimp only
  repeat' first | with_reducible assumption | with_reducible apply sendRec_side | with_reducible apply countFail_side

theorem portRead_side {s₀ : State} {s : State} {a : ℕ} {n : ℕ} {c : optParam ℕ 0} (hk : Side s₀ s) : Side s₀
    (portRead s a n c).2.2 := by
  unfold portRead
  try dsimp only
  repeat' first
    | with_reducible assumption | with_reducible apply side_ite_thd | with_reducible apply portLookup_side
    | with_reducible apply readLogical_side | with_reducible apply portFail_side

theorem portWrite_side {s₀ : State} {s : State} {a : ℕ} {bs : List Byte} {c : optParam ℕ 0} (hk : Side s₀ s) : Side
    s₀ (portWrite s a bs c).2 := by
  unfold portWrite
  try dsimp only
  repeat' first
    | with_reducible assumption | with_reducible apply side_ite_snd | with_reducible apply portLookup_side
    | with_reducible apply writeLogical_side | with_reducible apply portFail_side

theorem retEntry_side {s₀ : State} {s : State} {rank : ℕ} (hk : Side s₀ s) : Side s₀ (retEntry s rank).2.2 := by
  unfold retEntry
  try dsimp only
  repeat' first
    | with_reducible assumption | with_reducible apply side_ite_thd | with_reducible apply SideParts.same
    | with_reducible apply portRead_side | simp only [side_mk] | split

theorem pathTo_side {s₀ : State} {s : State} {rank : ℕ} {ch : ℕ} (hk : Side s₀ s) : Side s₀ (pathTo s rank ch).2 := by
  unfold pathTo
  try dsimp only
  repeat' first
    | with_reducible assumption | with_reducible apply side_ite_snd | with_reducible apply retEntry_side
    | with_reducible apply countF_side

theorem sendPath_side {s₀ : State} {s : State} {x : Path} {p : Penn} (hk : Side s₀ s) : Side s₀ (sendPath s x p) := by
  unfold sendPath
  try dsimp only
  repeat' first
    | with_reducible assumption | with_reducible apply sendSurf_side | with_reducible apply modConn_side
    | with_reducible apply startOut_side | split

theorem sendRank_side {s₀ : State} {s : State} {rank : ℕ} {p : Penn} (hk : Side s₀ s) : Side s₀ (sendRank s rank p).2
    := by
  unfold sendRank
  try dsimp only
  repeat' first
    | with_reducible assumption | with_reducible apply pathTo_side | with_reducible apply sendPath_side | split

theorem sendBack_side {s₀ : State} {s : State} {v : Via} {p : Penn} (hk : Side s₀ s) : Side s₀ (sendBack s v p) := by
  unfold sendBack
  try dsimp only
  repeat' first | with_reducible assumption | with_reducible apply sendPath_side | split

theorem sendMember_side {s₀ : State} {s : State} {x : Chan} {m : ℕ} {p : Penn} (hk : Side s₀ s) : Side s₀ (sendMember
    s x m p) := by
  unfold sendMember
  try dsimp only
  repeat' first | with_reducible assumption | with_reducible apply sendRank_side

theorem sendLive_side {s₀ : State} {s : State} {x : Chan} {p : Penn} (hk : Side s₀ s) : Side s₀ (sendLive s x p) := by
  unfold sendLive
  try dsimp only
  repeat' first
    | with_reducible assumption | (intro; try dsimp only) | with_reducible apply side_foldl
    | with_reducible apply sendMember_side

theorem readGroup_side {s₀ : State} {s : State} {a : ℕ} (hk : Side s₀ s) : Side s₀ (readGroup s a).2.2 := by
  unfold readGroup
  try dsimp only
  repeat' first | with_reducible assumption | with_reducible apply side_ite_thd | with_reducible apply portRead_side

theorem knownGroup_side {s₀ : State} {s : State} {id : ℕ} (hk : Side s₀ s) : Side s₀ (knownGroup s id).2.2 := by
  unfold knownGroup
  try dsimp only
  repeat' first
    | with_reducible assumption | (intro; try dsimp only) | with_reducible apply side_foldl_thd
    | with_reducible apply side_ite_thd | with_reducible apply readGroup_side

theorem giveCredit_side {s₀ : State} {s : State} {k : Credit} (hk : Side s₀ s) : Side s₀ (giveCredit s k) := by
  unfold giveCredit
  try dsimp only
  repeat' first | with_reducible assumption | with_reducible apply creditFlit_side | split

theorem readTree_side {s₀ : State} {s : State} {a : ℕ} {n : ℕ} (hk : Side s₀ s) : Side s₀ (readTree s a n).2.2 := by
  unfold readTree
  try dsimp only
  repeat' first | with_reducible assumption | with_reducible apply portRead_side

theorem loadRanks_side {s₀ : State} {s : State} {l : List ℕ} (hk : Side s₀ s) : Side s₀ (loadRanks s l).2 := by
  unfold loadRanks
  try dsimp only
  repeat' first
    | with_reducible assumption | (intro; try dsimp only) | with_reducible apply side_foldl_snd
    | with_reducible apply side_ite_snd | with_reducible apply retEntry_side

end Sys2Proof.Machine
end

