-- ==== Sys2Proof/WellFormed.lean ====
section
/-! DEFINITION. Well-formed commands: what the spec lets each command carry. An op word of a tile names the row's opcode
in bits [63:58] (R71, R75); an access to a register is aligned to 8 bytes (R14); read data is 64 bytes or none (R474). -/
namespace Sys2Proof

/-- Bits [63:58] of an op word name opcode `op` (R71), or one that R75 does not list, which raises fault 0x01 in any op. -/
def wordIs (op : Nat) (w : Word) : Bool := w.toNat / 2 ^ 58 == op || !Machine.listedOp (w.toNat / 2 ^ 58)

/-- A command is well formed. -/
def wellFormed (i : Instr) : Bool :=
  match i with
  | .nop _ w => wordIs 0x00 w
  | .ldi _ w => wordIs 0x01 w
  | .addi _ w => wordIs 0x02 w
  | .mov _ w => wordIs 0x03 w
  | .fill _ w => wordIs 0x04 w
  | .cvt _ w => wordIs 0x05 w
  | .mm _ w _ => wordIs 0x08 w
  | .drain _ w => wordIs 0x09 w
  | .drainr _ w => wordIs 0x0A w
  | .draint _ w => wordIs 0x0B w
  | .accld _ w => wordIs 0x0C w
  | .accst _ w => wordIs 0x0D w
  | .vbin _ w => wordIs 0x10 w
  | .vfma _ w => wordIs 0x11 w
  | .vfn _ w => wordIs 0x12 w
  | .vred _ w => wordIs 0x13 w
  | .vscan _ w => wordIs 0x14 w
  | .vquant _ w => wordIs 0x15 w
  | .spmm _ w _ => wordIs 0x18 w
  | .bmap _ w => wordIs 0x19 w
  | .bpred _ w => wordIs 0x1A w
  | .compact _ w => wordIs 0x1B w
  | .expand _ w => wordIs 0x1C w
  | .feed _ w => wordIs 0x20 w
  | .send _ w => wordIs 0x21 w
  | .recv _ w => wordIs 0x22 w
  | .tswap _ w => wordIs 0x23 w
  | .trel _ w => wordIs 0x24 w
  | .rget _ w => wordIs 0x25 w
  | .rput _ w => wordIs 0x26 w
  | .fence _ w => wordIs 0x28 w
  | .evsig _ w => wordIs 0x29 w
  | .evwait _ w => wordIs 0x2A w
  | .loop _ w => wordIs 0x2B w
  | .hoist _ w => wordIs 0x2C w
  | .halt _ w => wordIs 0x2D w
  | .rinit _ w => wordIs 0x30 w
  | .rbits _ w => wordIs 0x31 w
  | .runif _ w => wordIs 0x32 w
  | .rsr _ w => wordIs 0x33 w
  | .stopk _ w => wordIs 0x38 w
  | .sput _ w => wordIs 0x39 w
  | .sget _ w => wordIs 0x3A w
  | .hangTimerExpiry _ => true
  | .flitReceive _ _ _ _ => true
  | .staticRouteForward _ _ _ => true
  | .coordinateRouteForward _ _ _ => true
  | .streamPacketAccept _ _ => true
  | .recvTimeout _ => true
  | .tswapTimeout _ => true
  | .hoistTimeout _ => true
  | .pourPacketLand _ _ => true
  | .eventIncrementTile _ _ => true
  | .remoteReadRequest _ _ => true
  | .remoteWriteRequest _ _ => true
  | .readResponseReceive _ _ => true
  | .poisonNotice _ => true
  | .fencePacket _ => true
  | .tilCtrlRun _ _ => true
  | .tilCtrlQuiesce _ _ => true
  | .quiesceComplete _ => true
  | .tilCtrlReset _ => true
  | .tilResend _ _ => true
  | .registerWrite a _ => a.toNat % 8 == 0
  | .undecodedAccess a _ _ => a.toNat % 8 == 0
  | .glbCqTailWrite _ _ => true
  | .glbCqCheadWrite _ _ => true
  | .cqRestart _ => true
  | .glbEvcAdd _ _ => true
  | .glbEvrHeadWrite _ => true
  | .commandFetch _ => true
  | .commandStart _ => true
  | .waitTimeout _ => true
  | .nopCommand _ _ => true
  | .evadd _ _ => true
  | .cmdRun _ _ => true
  | .cmdRequest _ _ => true
  | .requestAdmission _ => true
  | .cmdPour _ _ => true
  | .descriptorRead _ _ => true
  | .pourStart _ _ => true
  | .chunkIssue _ _ => true
  | .pourComplete _ _ => true
  | .deadlineMiss _ _ => true
  | .stkPourStopGo _ _ => true
  | .glbMarkClear _ => true
  | .eventIncrementReceive _ => true
  | .eventRecordReceive _ => true
  | .migrate _ _ => true
  | .migFetch _ _ => true
  | .migEvict _ _ => true
  | .moveHome _ _ => true
  | .replicate _ _ => true
  | .dropRepl _ _ => true
  | .migAssign _ _ => true
  | .unmap _ _ => true
  | .writeback _ _ => true
  | .pageCopySwitch _ _ => true
  | .entryChange _ => true
  | .entryInvalidation _ _ => true
  | .glbPtIndexWrite _ => true
  | .ptSnapshot => true
  | .saturationWindowEnd _ _ => true
  | .adderCombine _ => true
  | .adderBlockReceive _ _ => true
  | .reduceScatter _ _ => true
  | .allGather _ _ => true
  | .broadcast _ _ => true
  | .pennantData _ => true
  | .pennantAck _ => true
  | .pennantQuery _ => true
  | .pennantState _ => true
  | .pennantJoin _ => true
  | .reformReq _ => true
  | .reform _ => true
  | .pennantAbort _ => true
  | .pennantDone _ => true
  | .pennantFinish _ => true
  | .queryTimerExpiry _ => true
  | .collectiveTimeout _ => true
  | .hopTimeout _ => true
  | .groupTimeout _ => true
  | .settleTimeExpiry _ => true
  | .reformReqTimeout _ => true
  | .abortEntryExpiry _ => true
  | .sampleHeaderReceive _ _ => true
  | .sampleResultReceive _ _ => true
  | .sessionTimeout _ _ => true
  | .sgetTimeout _ => true
  | .tileFettlerLine _ _ _ => true
  | .stackFettlerGranule _ _ _ _ _ => true
  | .stackRead _ _ _ _ _ => true
  | .repairListAppend => true
  | .incidentHandoff => true
  | .automaticRecovery _ => true
  | .retestComplete _ => true
  | .columnRetire _ => true
  | .incidentClose => true
  | .recClose => true
  | .ctxSave _ _ _ => true
  | .ctxRestore _ _ => true
  | .fieldLoss _ _ => true
  | .clockSourceLost _ => true
  | .broisBothLost => true
  | .cfgStageGo _ => true
  | .cfgStageAbort => true
  | .stagingComplete => true
  | .cfgAdopt _ => true
  | .cfgCommit _ _ => true
  | .patch _ _ => true
  | .imgLoad _ _ => true
  | .imgApply _ _ => true
  | .imgUnload _ _ => true
  | .inputQualified => true
  | .coldStart _ => true
  | .stageA _ _ => true
  | .stageB _ _ => true
  | .resetArm => true
  | .resetWarm => true
  | .resetCold => true
  | .fldResetGo _ => true
  | .glbTresetGo _ => true
  | .prtPortResetGo _ => true
  | .winRd _ _ _ _ => true
  | .winWr _ _ _ _ _ _ => true
  | .memRdata _ _ data => data.length == 64 || data.isEmpty
  | .memAck _ _ => true
  | .broisFlitReceive _ _ _ _ => true
  | .broisReplayTimeout _ => true
  | .broisRetrain _ => true
  | .broisRecover _ _ => true
  | .broisLinkLoss _ => true
  | .broisTraining _ _ _ => true
  | .edgePortTraining _ _ => true
  | .edgePortDown _ _ _ => true
  | .cstWrite _ _ => true
  | .readReq _ _ => true
  | .readResp _ _ => true
  | .cstAck _ _ => true
  | .nak _ _ => true
  | .cnp _ _ => true
  | .coll _ _ => true
  | .rtoExpiry _ => true
  | .ackTimerExpiry _ => true
  | .rateRaise _ => true
  | .connOpen _ => true
  | .connClose _ => true
  | .inval => true
  | .roceResponse _ _ => true
  | .roceInboundRequest _ _ => true
  | .surfacePacketReceive _ _ _ => true
  | .rxInject _ _ => true
  | .sublinkTraining _ _ _ _ => true
  | .sublinkLoss _ _ => true
  | .returnLossMeasure _ _ => true
  | .optNow _ _ => true
  | .telemetrySample _ => true
  | .supplyStageChange => true
  | .heatRestore _ => true
  | .coolantLimit => true
  | .lastBreath _ => true
  | .gaugeSweep _ _ => true
  | .fieldPlan _ => true
  | .firstPlan _ => true
  | .ledgerSnapshot _ => true
  | .lifSnapNow => true
  | .lifCalendarWrite _ => true
  | .thermalBandCount _ => true
  | .refAFailure => true
  | .crescentOrPortComplexFailure _ => true
  | .pfcFrameReceive _ _ _ => true
  | .arpRequest _ _ _ => true
  | .roceAckTimeout _ => true

end Sys2Proof
end

