-- ==== Sys2Proof/Tests/Slice0.lean ====
section
/-! SUPPORT. Tests: ill-formed commands, the manual's worked examples, one step of small states, and states that meet the
hypotheses of the statements. -/
namespace Sys2Proof.Machine
open Sys2Proof

set_option Elab.async false

/-! ### Ill-formed commands -/

/-- R71, R75: an op whose word names another listed opcode is ill formed. -/
theorem test_wf_ops_refused_a : ([.nop ⟨0, 0⟩ 0x0400000000000000,
   .ldi ⟨0, 0⟩ 0x0000000000000000,
   .addi ⟨0, 0⟩ 0x0400000000000000,
   .mov ⟨0, 0⟩ 0x0400000000000000,
   .fill ⟨0, 0⟩ 0x0400000000000000,
   .cvt ⟨0, 0⟩ 0x0400000000000000,
   .mm ⟨0, 0⟩ 0x0400000000000000 .none,
   .drain ⟨0, 0⟩ 0x0400000000000000,
   .drainr ⟨0, 0⟩ 0x0400000000000000,
   .draint ⟨0, 0⟩ 0x0400000000000000,
   .accld ⟨0, 0⟩ 0x0400000000000000,
   .accst ⟨0, 0⟩ 0x0400000000000000,
   .vbin ⟨0, 0⟩ 0x0400000000000000,
   .vfma ⟨0, 0⟩ 0x0400000000000000,
   .vfn ⟨0, 0⟩ 0x0400000000000000,
   .vred ⟨0, 0⟩ 0x0400000000000000,
   .vscan ⟨0, 0⟩ 0x0400000000000000,
   .vquant ⟨0, 0⟩ 0x0400000000000000,
   .spmm ⟨0, 0⟩ 0x0400000000000000 .none,
   .bmap ⟨0, 0⟩ 0x0400000000000000,
   .bpred ⟨0, 0⟩ 0x0400000000000000] : List Instr).all (fun c => !wellFormed c) = true := by decide

theorem test_wf_ops_refused_b : ([.compact ⟨0, 0⟩ 0x0400000000000000,
   .expand ⟨0, 0⟩ 0x0400000000000000,
   .feed ⟨0, 0⟩ 0x0400000000000000,
   .send ⟨0, 0⟩ 0x0400000000000000,
   .recv ⟨0, 0⟩ 0x0400000000000000,
   .tswap ⟨0, 0⟩ 0x0400000000000000,
   .trel ⟨0, 0⟩ 0x0400000000000000,
   .rget ⟨0, 0⟩ 0x0400000000000000,
   .rput ⟨0, 0⟩ 0x0400000000000000,
   .fence ⟨0, 0⟩ 0x0400000000000000,
   .evsig ⟨0, 0⟩ 0x0400000000000000,
   .evwait ⟨0, 0⟩ 0x0400000000000000,
   .loop ⟨0, 0⟩ 0x0400000000000000,
   .hoist ⟨0, 0⟩ 0x0400000000000000,
   .halt ⟨0, 0⟩ 0x0400000000000000,
   .rinit ⟨0, 0⟩ 0x0400000000000000,
   .rbits ⟨0, 0⟩ 0x0400000000000000,
   .runif ⟨0, 0⟩ 0x0400000000000000,
   .rsr ⟨0, 0⟩ 0x0400000000000000,
   .stopk ⟨0, 0⟩ 0x0400000000000000,
   .sput ⟨0, 0⟩ 0x0400000000000000,
   .sget ⟨0, 0⟩ 0x0400000000000000] : List Instr).all (fun c => !wellFormed c) = true := by decide

/-- R71, R75: an op whose word names its own opcode is well formed. -/
theorem test_wf_ops_taken_a : ([.nop ⟨0, 0⟩ 0x0000000000000000,
   .ldi ⟨0, 0⟩ 0x0400000000000000,
   .addi ⟨0, 0⟩ 0x0800000000000000,
   .mov ⟨0, 0⟩ 0x0C00000000000000,
   .fill ⟨0, 0⟩ 0x1000000000000000,
   .cvt ⟨0, 0⟩ 0x1400000000000000,
   .mm ⟨0, 0⟩ 0x2000000000000000 .none,
   .drain ⟨0, 0⟩ 0x2400000000000000,
   .drainr ⟨0, 0⟩ 0x2800000000000000,
   .draint ⟨0, 0⟩ 0x2C00000000000000,
   .accld ⟨0, 0⟩ 0x3000000000000000,
   .accst ⟨0, 0⟩ 0x3400000000000000,
   .vbin ⟨0, 0⟩ 0x4000000000000000,
   .vfma ⟨0, 0⟩ 0x4400000000000000,
   .vfn ⟨0, 0⟩ 0x4800000000000000,
   .vred ⟨0, 0⟩ 0x4C00000000000000,
   .vscan ⟨0, 0⟩ 0x5000000000000000,
   .vquant ⟨0, 0⟩ 0x5400000000000000,
   .spmm ⟨0, 0⟩ 0x6000000000000000 .none,
   .bmap ⟨0, 0⟩ 0x6400000000000000,
   .bpred ⟨0, 0⟩ 0x6800000000000000] : List Instr).all wellFormed = true := by decide

theorem test_wf_ops_taken_b : ([.compact ⟨0, 0⟩ 0x6C00000000000000,
   .expand ⟨0, 0⟩ 0x7000000000000000,
   .feed ⟨0, 0⟩ 0x8000000000000000,
   .send ⟨0, 0⟩ 0x8400000000000000,
   .recv ⟨0, 0⟩ 0x8800000000000000,
   .tswap ⟨0, 0⟩ 0x8C00000000000000,
   .trel ⟨0, 0⟩ 0x9000000000000000,
   .rget ⟨0, 0⟩ 0x9400000000000000,
   .rput ⟨0, 0⟩ 0x9800000000000000,
   .fence ⟨0, 0⟩ 0xA000000000000000,
   .evsig ⟨0, 0⟩ 0xA400000000000000,
   .evwait ⟨0, 0⟩ 0xA800000000000000,
   .loop ⟨0, 0⟩ 0xAC00000000000000,
   .hoist ⟨0, 0⟩ 0xB000000000000000,
   .halt ⟨0, 0⟩ 0xB400000000000000,
   .rinit ⟨0, 0⟩ 0xC000000000000000,
   .rbits ⟨0, 0⟩ 0xC400000000000000,
   .runif ⟨0, 0⟩ 0xC800000000000000,
   .rsr ⟨0, 0⟩ 0xCC00000000000000,
   .stopk ⟨0, 0⟩ 0xE000000000000000,
   .sput ⟨0, 0⟩ 0xE400000000000000,
   .sget ⟨0, 0⟩ 0xE800000000000000] : List Instr).all wellFormed = true := by decide

/-- R14: a register access that is not aligned to 8 bytes is ill formed. -/
theorem test_wf_register_write_refused : wellFormed (.registerWrite 0x100204 0) = false := by decide

theorem test_wf_undecoded_refused : wellFormed (.undecodedAccess 0x100201 true 0) = false := by decide

/-- R474: read data is 64 bytes or none. -/
theorem test_wf_read_data_refused : wellFormed (.memRdata 0 0 [0, 0, 0]) = false := by decide

/-! ### The manual's worked examples -/

/-- The example after R12: the register page of the tile at physical (4, 4) of field (4, 2), fid 20, ptile 104. -/
theorem test_tile_page_address : regAddr .TIL_CTRL (700 * 20 + 104) 0 = 0x000150780000 := by decide

/-- The example of chapter 20: 0x0001_2479_0018 is TIL_LOGXY of physical tile (5, 4) of field 9. -/
theorem test_address_decodes : (decodeReg 0x000124790018).map (fun r => (r.reg, r.unit, r.shadow)) = some (.TIL_LOGXY, 700 * 9 + 105, false) := by decide

/-- The same example: the place opposite TIL_ERR in the shadow half is no register. -/
theorem test_no_shadow_of_err : decodeReg 0x000124798028 = none := by decide

/-- The example of R71: the op word of the MM names opcode 0x08, K 1,024 and set 1. -/
theorem test_mm_word : opcode 0x2033130004000000 = 0x08 ∧ wCount 0x2033130004000000 = 1024 ∧ getBits 0x2033130004000000 41 1 = 1 := by decide

/-- The example of R89: four FP6 elements pack into the bytes 21 F3 17. -/
theorem test_fp6_packing : packElems 6 [0x21, 0x0C, 0x3F, 0x05] = [0x21, 0xF3, 0x17] := by decide

/-- The example of conversions: 470 goes to NaN in E4M3, to 448 with MODE bit 3, and 464 goes to 448. -/
theorem test_e4m3_overflow : (convert 3 .nearest false (.fin false 470 0)).1 = 0x7F ∧ (convert 3 .nearest true (.fin false 470 0)).1 = 0x7E ∧
    (convert 3 .nearest false (.fin false 464 0)).1 = 0x7E := by decide

/-- The example of stochastic rounding: 0x3F80_5800 with r = 9 goes to 1.0 in BF16. -/
theorem test_stochastic : (convert 1 (roundMode 4 9) false (decodeFmt 0 0x3F805800)).1 = 0x3F80 := by decide

/-- The same with r = 5, which is below 6: the value is rounded up. -/
theorem test_stochastic_up : (convert 1 (roundMode 4 5) false (decodeFmt 0 0x3F805800)).1 = 0x3F81 := by decide

/-- The example of R361: data bit 5 of a byte flips; the syndrome is 10 and the byte is corrected. -/
theorem test_ecc_example : eccSyndrome 8 (2 ^ 5) = 10 ∧ eccDeliver 8 0xA5 (2 ^ 5) = 0xA5 := by decide


/-! ### States and operands that meet the statements' hypotheses -/

/-- Tile (0, 0) of field 0. -/
def t0 : TileId := ⟨0, 0⟩
/-- After reset, with tile 0 running and as given. -/
def up (T : Tile) : State := setF (setTile State.reset 0 T) F.TIL_STATUS_RUNNING 0 1
/-- An op word: opcode, formats, registers, mode, COUNT, the low half. -/
def op (c f f2 d a b m n lo : Nat) : Word :=
  BitVec.ofNat 64 (c * 2 ^ 58 + f * 2 ^ 52 + f2 * 2 ^ 48 + d * 2 ^ 44 + a * 2 ^ 40 + b * 2 ^ 36 + m * 2 ^ 32 + n * 2 ^ 16 + lo)
/-- The tile takes every one of these op words now, and holds no byte in error. -/
def takes (ws : List (Nat × Word)) (s : State) : Bool :=
  ws.all (fun x => opcode x.2 == x.1 && canIssue s 0 x.2 && getBits x.2 57 1 == 0) && (tileOf s 0).memFlip.isEmpty && (tileOf s 0).riserFlip.isEmpty &&
    (tileOf s 0).hflip0.isEmpty && (tileOf s 0).hflip1.isEmpty && getF s F.TIL_MEM_INJ_ARM 0 == 0

/-- MoveClassOpsRetire: every premise of every form, for a running tile. -/
theorem witness_move : takes [(0, op 0 0 0 0 0 0 0 0 0), (1, op 1 0 0 1 0 0 0 0 7), (2, op 2 0 0 1 0 0 0 0 7), (3, op 3 0 0 0 0 0 0 64 0),
      (4, op 4 0 0 0 0 0 0 64 0), (5, op 5 1 3 0 0 0 0 64 0)] (up {}) = true ∧
    badS (op 0 0 0 0 0 0 0 0 0) = false ∧ badS (op 1 0 0 1 0 0 0 0 7) = false ∧ badS (op 2 0 0 1 0 0 0 0 7) = false ∧
    badM (op 3 0 0 0 0 0 0 64 0) = false ∧ inMem (ptr {} 0) 64 = true ∧ badM (op 4 0 0 0 0 0 0 64 0) = false ∧ badM (op 5 1 3 0 0 0 0 64 0) = false ∧
    Convertible {} (op 5 1 3 0 0 0 0 64 0) 0 := by
  refine ⟨?_, ?_, ?_, ?_, ?_, ?_, ?_, ?_, ⟨?_, ?_, ?_, ?_, fun _ => ⟨?_, ?_, fun h => absurd h (by decide +kernel)⟩⟩⟩ <;> decide +kernel

/-- The last word of LDI's and ADDI's loop registers, and a conversion with lanes. -/
theorem witness_move_edges : wKind (op 1 0 0 3 8 0 0 0 7) = 2 ∧ wD (op 1 0 0 3 8 0 0 0 7) ≤ 3 ∧ badS (op 1 0 0 3 8 0 0 0 7) = false ∧
    Convertible {} (op 5 1 3 0 0 0 4 16 0) 4 ∧ inRiser (ptr { p := [(0, 0x140000)] } 0) 128 = true := by
  refine ⟨?_, ?_, ?_, ⟨?_, ?_, ?_, ?_, fun _ => ⟨?_, ?_, fun _ => ⟨?_, ?_, ?_⟩⟩⟩, ?_⟩ <;> decide +kernel

/-- AccumulatorDrainsAndMoves. -/
theorem witness_drains : takes [(9, op 9 0 1 0 0 0 0 32 0), (10, op 10 0 0 1 0 1 0 32 0), (11, op 11 1 1 0 0 1 0 32 0x8100), (12, op 12 0 0 0 0 1 0 32 0),
      (13, op 13 0 0 0 0 1 0 32 0)] (up {}) = true ∧ badD (op 9 0 1 0 0 0 0 32 0) = false ∧ badD (op 10 0 0 1 0 1 0 32 0) = false ∧
    draintBad (op 11 1 1 0 0 1 0 32 0x8100) 128 = false ∧ badD (op 12 0 0 0 0 1 0 32 0) = false ∧ DrainRound {} 0 32 ∧ RowsIn 0 128 32 128 ∧
    (∀ r < 32, inRiser (ptr { p := [(1, 0x140000)] } 1 + r * 128) 128 = true) := by
  refine ⟨?_, ?_, ?_, ?_, ?_, ⟨?_, fun h => absurd h (by decide +kernel)⟩, ?_, ?_⟩ <;> (try unfold RowsIn) <;> decide +kernel

/-- MatrixProductAndFeed: an MM with K = 0, one whose queue A is empty, one with its entries, and a FEED of 16 entries. -/
theorem witness_mm : takes [(8, 0x2033100000000000), (8, 0x2033110000200000), (0x20, op 0x20 3 0 0 0 1 0 16 64)] (up {}) = true ∧
    mmBad 0x2033100000000000 = false ∧ mmBad 0x2033110000200000 = false ∧ StageTakes (up {}) 0 0x2033110000200000 ∧ NoFeeds {} ∧
    wCount 0x2033110000200000 = 32 ∧ entriesPer (wFmt 0x2033110000200000) * mmBlocks 0x2033110000200000 ≤ (List.replicate 16 (⟨0, 0, false⟩ : QEntry)).length := by
  refine ⟨by decide +kernel, by decide +kernel, by decide +kernel, .inl (by decide +kernel), ⟨rfl, fun q => rfl⟩, by decide +kernel, by decide +kernel⟩

/-- The FEED that has been reached lies at `pc`. -/
def reachesAt (r : Reach) (pc : Nat) : Bool := match r with | .feed x => x.pc == pc | _ => false

theorem witness_feed : canFeed (up {}) 0 (op 0x20 3 0 0 0 1 0 16 64) = true ∧ reachesAt (reachFeed (up (stored {} 0 (bytesOf (op 0x20 3 0 0 0 1 0 16 64).toNat 8))) 0 (op 0x20 3 0 0 0 1 0 16 64)) 0 = true ∧
    feedBad (op 0x20 3 0 0 0 1 0 16 64) = false ∧ NoFeeds {} ∧ (∀ r ∈ feedRanges (feedOf {} 0 (op 0x20 3 0 0 0 1 0 16 64)), fetchable r.1 r.2 = true) ∧
    (∀ j < feedRoom {} (feedOf {} 0 (op 0x20 3 0 0 0 1 0 16 64)), IngotsOk (up {}) 0 (feedOf {} 0 (op 0x20 3 0 0 0 1 0 16 64)) j) := by
  refine ⟨by decide +kernel, by decide +kernel, by decide +kernel, ⟨rfl, fun q => rfl⟩, by decide +kernel, fun j _ a ha => absurd ha (by rw [show entryIngots (feedOf {} 0 (op 0x20 3 0 0 0 1 0 16 64)) j = [] from rfl]; simp)⟩

/-- VectorOpsStoreTheirResults. -/
theorem witness_vector : takes [(0x10, op 0x10 1 1 0 0 0 0 64 0x400), (0x11, op 0x11 1 1 0 0 0 0 64 0), (0x12, op 0x12 1 1 0 0 0 0 64 0xC00),
      (0x13, op 0x13 1 0 0 0 0 0 64 0x500), (0x14, op 0x14 1 1 0 0 0 0 64 0x100), (0x15, op 0x15 0 10 0 0 0 0 64 0)] (up {}) = true ∧
    [op 0x10 1 1 0 0 0 0 64 0x400, op 0x11 1 1 0 0 0 0 64 0, op 0x12 1 1 0 0 0 0 64 0xC00, op 0x13 1 0 0 0 0 0 64 0x500, op 0x14 1 1 0 0 0 0 64 0x100].all
      (fun w => !badM w && decide (wFmt w ≤ 8) && decide (wFmt2 w ≤ 8)) = true ∧ wFunc (op 0x10 1 1 0 0 0 0 64 0x400) ≤ 4 ∧
    wFunc (op 0x12 1 1 0 0 0 0 64 0xC00) ≤ 12 ∧ wFunc (op 0x13 1 0 0 0 0 0 64 0x500) ≤ 5 ∧ wFunc (op 0x14 1 1 0 0 0 0 64 0x100) ≤ 1 ∧ VecIn 64 1 1 0 [0, 0] ∧
    quantBad (op 0x15 0 10 0 0 0 0 64 0) 127 = false ∧ Quantizable { s := [(0, 127)] } (op 0x15 0 10 0 0 0 0 64 0) := by
  refine ⟨by decide +kernel, by decide +kernel, by decide +kernel, by decide +kernel, by decide +kernel, by decide +kernel, by unfold VecIn; decide +kernel, by decide +kernel,
    fun _ => ⟨by decide +kernel, by decide +kernel, by decide +kernel, by decide +kernel, fun h => absurd h (by decide +kernel)⟩⟩
/-- MapsAndCompressedBlocks. -/
theorem witness_maps : takes [(0x19, op 0x19 3 0 0 0 0 0 64 0), (0x1A, op 0x1A 0 0 0 0 0 0 64 0), (0x1B, op 0x1B 3 0 0 0 0 1 64 0), (0x1C, op 0x1C 3 0 0 0 0 0 64 0)] (up {}) = true ∧
    badM (op 0x19 3 0 0 0 0 0 64 0) = false ∧ badM (op 0x1A 0 0 0 0 0 0 64 0) = false ∧ badM (op 0x1B 3 0 0 0 0 1 64 0) = false ∧ badM (op 0x1C 3 0 0 0 0 0 64 0) = false ∧
    inMem 0 (mapSize 64) = true ∧ MapIn {} (op 0x19 3 0 0 0 0 0 64 0) ∧ (∀ p ∈ compactBlocks {} (op 0x1B 3 0 0 0 0 1 64 0), inMem p.1 p.2.length = true) ∧
    inMem 0 (slotUse {} 3 0) = true ∧ (expandSlots (op 0x1C 3 0 0 0 0 0 64 0) 0 0 (List.range ((64 + blockElems 3 - 1) / blockElems 3))
      (stored {} 0 (compressBlock 3 (List.replicate 64 0) (List.replicate 64 false)))).isSome = true := by
  refine ⟨?_, ?_, ?_, ?_, ?_, ?_, ?_, ?_, ?_, ?_⟩ <;> (try rw [show MapIn {} (op 0x19 3 0 0 0 0 0 64 0) ↔ inMem 0 (elemBytes 3 64) = true from Iff.rfl]) <;> decide +kernel

/-- SparseProductFoldsContributingPairs: K = 0, and K = 32 with entries in queues A and B and no map. -/
theorem witness_spmm : takes [(0x18, op 0x18 3 3 1 1 0 0 0 0), (0x18, op 0x18 3 3 1 1 0 0 32 0)] (up {}) = true ∧ spmmBad (op 0x18 3 3 1 1 0 0 0 0) = false ∧
    spmmBad (op 0x18 3 3 1 1 0 0 32 0) = false ∧ StageTakes (up {}) 0 (op 0x18 3 3 1 1 0 0 32 0) ∧ wMode (op 0x18 3 3 1 1 0 0 32 0) = 0 ∧
    NoFeeds { queues := [(0, { entries := List.replicate 8 ⟨0, 0, false⟩ }), (1, { entries := List.replicate 8 ⟨0, 0, false⟩ })] } ∧
    entriesPer 3 * (32 / 32) ≤ (queueOf { queues := [(0, { entries := List.replicate 8 ⟨0, 0, false⟩ }), (1, { entries := List.replicate 8 ⟨0, 0, false⟩ })] } 0).entries.length := by
  refine ⟨by decide +kernel, by decide +kernel, by decide +kernel, .inl (by decide +kernel), by decide +kernel, ⟨rfl, fun q => ?_⟩, by decide +kernel⟩
  match q with
  | 0 => rfl
  | 1 => rfl
  | n + 2 => rfl

/-- RandomAndTopKOps: one aligned lane at 0, drawn from; three candidates kept of 64. -/
theorem witness_random : takes [(0x30, op 0x30 0 0 1 0 0 0 2 0), (0x31, op 0x31 0 0 0 0 0 0 16 0), (0x32, op 0x32 0 2 0 0 0 0 16 0), (0x33, op 0x33 1 3 0 0 0 4 16 0),
      (0x38, op 0x38 1 0 0 0 0 0 64 1)] (up {}) = true ∧ badM (op 0x30 0 0 1 0 0 0 2 0) = false ∧ badM (op 0x31 0 0 0 0 0 0 16 0) = false ∧
    badM (op 0x32 0 2 0 0 0 0 16 0) = false ∧ badM (op 0x33 1 3 0 0 0 4 16 0) = false ∧ badM (op 0x38 1 0 0 0 0 0 64 1) = false ∧
    inMem (ptr { p := [(1, 512)] } 1) (384 * 2) = true ∧ LanesOk {} 0 1 ∧ stopK { s := [(1, 3)] } (op 0x38 1 0 0 0 0 0 64 1) = 3 := by
  refine ⟨?_, ?_, ?_, ?_, ?_, ?_, ?_, ⟨?_, ?_, ?_⟩, ?_⟩ <;> decide +kernel

/-- SyncOpsRetireOrWait: the ops issue; a counter reached and one not, a loop counter of 1 and 2, a hoist behind and ahead, a tile that
exists. -/
theorem witness_sync : takes [(0x28, op 0x28 0 0 0 0 0 0 0 0), (0x29, op 0x29 0 0 0 0 1 1 0 1), (0x29, op 0x29 0 0 0 0 0 0 0 1), (0x29, op 0x29 0 0 0 0 1 2 0 1),
      (0x2A, op 0x2A 0 0 0 0 0 0 0 1), (0x2B, op 0x2B 0 0 0 0 0 0 0 0xFFFFFF), (0x2C, op 0x2C 0 0 0 0 0 0 0 0), (0x2D, op 0x2D 0 0 0 0 0 0 0 0)] (up {}) = true ∧
    badS (op 0x28 0 0 0 0 0 0 0 0) = false ∧ badS (op 0x2A 0 0 0 0 0 0 0 1) = false ∧ badSig (op 0x29 0 0 0 0 1 1 0 1) = false ∧ pipesBusy {} = false ∧
    pipesBusy { arr := some { word := 0, since := 0 } } = true ∧ reached 1 1 = true ∧ reached 0 1 = false ∧
    hoistAhead (up {}) 0 (op 0x2C 0 0 0 0 0 0 0 0) = 0 ∧ hoistAhead (up (stored {} 0 [1, 0])) 0 (op 0x2C 0 0 0 0 0 0 0 0) = 1 ∧
    canSwap (setF (setF (up {}) F.TIL_TUNDISH_H0_STATE 0 6) F.TIL_TUNDISH_H1_STATE 0 2) 0 = true := by
  refine ⟨?_, ?_, ?_, ?_, ?_, ?_, ?_, ?_, ?_, ?_, ?_⟩ <;> decide +kernel

/-- StreamOpsRetireOrWait: the NET pipe free and in use; a result buffer ready and not; halves that exchange and that do not. -/
theorem witness_streams : takes [(0x21, op 0x21 0 0 0 0 0 0 2 0), (0x22, op 0x22 0 0 0 0 0 0 2 0), (0x39, op 0x39 0 0 0 0 0 0 1 0), (0x3A, op 0x3A 0 0 0 0 0 0 1 0),
      (0x23, op 0x23 0 0 0 0 0 0 0 0), (0x24, op 0x24 0 0 0 0 0 0 0 0)] (up {}) = true ∧ badN (op 0x21 0 0 0 0 0 0 2 0) = false ∧ badS (op 0x23 0 0 0 0 0 0 0 0) = false ∧
    netBusy {} = false ∧ netBusy { reads := [{ tag := 0, base := 0, page := 0, units := 1 }] } = true ∧ inMem 0 (64 * 2) = true ∧ getF (up {}) F.TIL_SAMPLE_READY 0 = 0 ∧
    getF (setF (up {}) F.TIL_SAMPLE_READY 0 1) F.TIL_SAMPLE_READY 0 = 1 ∧ canSwap (up {}) 0 = false := by
  refine ⟨?_, ?_, ?_, ?_, ?_, ?_, ?_, ?_, ?_⟩ <;> decide +kernel

/-- RemoteReadsAndWrites: page 0 at T1 frame 2048, readable and writable; the same page poisoned; not writable. -/
theorem witness_remote : takes [(0x25, op 0x25 0 0 0 0 0 0 1 0), (0x26, op 0x26 0 0 0 0 0 0 1 0)] (up {}) = true ∧ badN (op 0x25 0 0 0 0 0 0 1 0) = false ∧
    unitBytes (op 0x25 0 0 0 0 0 0 1 0) = 64 ∧
    firstBad { State.reset with tiers := { State.reset.tiers with pt := [(0, { present := true, writable := true, cur := 2048 * 4 + 1 })] } } [0] true = none ∧
    firstBad { State.reset with tiers := { State.reset.tiers with pt := [(0, { present := true, cur := 2048 * 4 + 1 })] } } [0] true = some (0, 3) ∧
    firstBad { State.reset with tiers := { State.reset.tiers with pt := [(0, { poison := true })] } } [0] false = some (0, 2) ∧
    firstBad State.reset [0] false = some (0, 1) := by
  refine ⟨?_, ?_, ?_, ?_, ?_, ?_, ?_⟩ <;> decide +kernel
/-- A packet of a type at the local port of tile (0, 0), whole. -/
def arrived (p : Packet) (T : Tile := {}) : State := up { T with localIn := [⟨p, 0, p.size⟩] }
/-- A unit of zeros. -/
def unit0 : List Byte := List.replicate 64 0

/-- UndecodedAccesses: a link in STATE 4, an address that no block decodes. -/
theorem witness_undecoded : linkActive (setI State.reset F.BRL_STAT_STATE 0 0 4) 0 = true ∧ badAddr 0x000124798028 = false ∧
    windowBusy State.reset 0x000124798028 = false ∧ decodeReg 0x000124798028 = none := by decide +kernel

/-- TileFaultStopsAndFences: op words with bit 56 set, and one of each pipe that made no progress for LIMIT. -/
theorem witness_fault : takes ([0x00, 0x01, 0x02, 0x23, 0x24, 0x28, 0x2A, 0x2B, 0x2C, 0x2D, 0x03, 0x04, 0x05, 0x10, 0x11, 0x12, 0x13, 0x14, 0x19, 0x1A, 0x1B, 0x1C,
      0x33, 0x21, 0x22, 0x25, 0x26, 0x39, 0x3A, 0x29].map (fun c => (c, op c 16 0 0 0 0 0 0 0))) (up {}) = true ∧
    badS (op 0 16 0 0 0 0 0 0 0) = true ∧ badM (op 3 16 0 0 0 0 0 0 0) = true ∧ badN (op 0x21 16 0 0 0 0 0 0 0) = true ∧ badSig (op 0x29 16 0 0 0 0 0 0 0) = true ∧
    getF (setF State.reset F.TIL_HANG_LIMIT 0 1) F.TIL_HANG_LIMIT 0 = 1 ∧ timersHeld State.reset 0 = false := by decide +kernel

/-- TileTimersAndControl: a wait one tick longer than the timeout; a tile at rest; a stream that has sent. -/
theorem witness_timers :
    overdue { State.reset with now := 2 } 1 0 = true ∧ overdue { State.reset with now := 2 } 0 0 = false ∧ getF State.reset F.TIL_STATUS_FENCED 0 = 0 ∧
    getF (setF State.reset F.TIL_STATUS_FENCED 0 1) F.TIL_STATUS_FENCED 0 = 1 ∧
    getF (setF (setF State.reset F.FLD_STREAM_TMO_RECV_TMO 0 1) F.SMP_CFG_SGET_TMO 0 1) F.FLD_STREAM_TMO_RECV_TMO 0 = 1 ∧
    getF State.reset F.TIL_STATUS_QUIESCED 0 = 0 ∧ getF (setF State.reset F.TIL_CTRL_QUIESCE 0 1) F.TIL_CTRL_QUIESCE 0 = 1 ∧ pipesBusy {} = false ∧
    (getD ({ tx := [(0, { count := 1, seq := 0 })] } : Tile).tx (getBits 0 0 8) {}).count ≠ 0 ∧ getBits (0 : Word) 16 16 = 0 := by decide +kernel

/-- LocalPortPackets: a stream packet behind its RECV, in its place, past it, too long; pour data, full, empty and at the end; an
increment that a wait reaches; requests and answers; a notice of a clean page and of one in change. -/
theorem witness_local :
    localPacket (arrived { typ := tyStream, cls := 1, routed := false, payload := unit0 }) 0 0 = some { typ := tyStream, cls := 1, routed := false, payload := unit0 } ∧
    unit0.length / 64 = 1 ∧ isPour { typ := tyWrite, cls := 2, routed := true, addr := 0x120000, payload := unit0 } = true ∧
    localPacket (arrived { typ := tyWrite, cls := 2, routed := true, addr := 0x120000, payload := unit0 }) 0 0 ≠ none ∧
    halfState State.reset 0 1 = 0 ∧
    halfState (setF State.reset F.TIL_TUNDISH_H1_STATE 0 2) 0 1 = 2 ∧ Nat.testBit 0x920000 23 = true ∧
    isPour { typ := tyWrite, cls := 2, routed := true, addr := 0x920000, last := true } = true ∧
    reached (eAt (addLocal (up {}) 0 3 1) 0 3) 1 = true ∧ reached (eAt (addLocal (up {}) 0 3 1) 0 3) 2 = false ∧
    localPacket (arrived { typ := tyIncr, cls := 0, routed := true, addr := 3, amount := 1 }) 0 0 ≠ none ∧
    localPacket (arrived { typ := tyReadReq, cls := 0, routed := true, units := 1 }) 0 0 ≠ none ∧
    isPour { typ := tyWrite, cls := 1, routed := true, payload := unit0 } = false ∧
    (tileOf (arrived { typ := tyReadResp, cls := 0, routed := true, tag := 5 } { reads := [{ tag := 5, page := 0, base := 0, units := 1 }] }) 0).reads.find?
      (fun r => r.tag == 5) = some { tag := 5, page := 0, base := 0, units := 1 } ∧
    takeAt ([64 * 7 + 1] : List Nat) 0 = some (64 * 7 + 1, []) ∧ (ptEntry State.reset 7).poison = false := by
  refine ⟨?_, ?_, ?_, ?_, ?_, ?_, ?_, ?_, ?_, ?_, ?_, ?_, ?_, ?_, ?_, ?_⟩ <;> decide +kernel

/-- A one-flit packet on its way. -/
def flit1 : Packet := { typ := tyIncr, cls := 0, routed := true, dx := 1, dy := 0 }
/-- Tiles (0, 0) and (1, 0) of field 0, in service. -/
def pair (T : Tile) : State :=
  setF (setF (setF (setF (up T) F.GLB_FLD_FULL_FIELDS 0 1) F.TIL_LOGXY_ASSIGNED 0 1) F.TIL_LOGXY_ASSIGNED 1 1) F.TIL_LOGXY_LX 1 1
/-- MeshRouterForwards: a flit on a link and on a crescent link, a first and a fourth failure; a header at an input, with a valid route
entry and without; outputs that take it. -/
theorem witness_mesh :
    getD (tileOf (up { wire := [(4, [{ pkt := flit1 }])] }) 0).wire (portKey .e 0) [] = [{ pkt := flit1 }] ∧ hasRoom (up {}) 0 .e 0 = true ∧
    flitThere (up {}) none 3 0 0 = true ∧
    flitThere (up { input := [(portKey .w 0, [⟨flit1, 1, [(0, 0)]⟩])] }) (some 0) 0 0 0 = true ∧
    headPacket (up { input := [(portKey .w 0, [⟨flit1, 1, []⟩])] }) 0 .w 0 = some flit1 ∧
    routes (setF (up {}) F.GLB_FLD_FULL_FIELDS 0 1) 0 = true ∧
    headPacket (up { input := [(portKey .w 0, [⟨{ flit1 with routed := false, typ := tyStream }, 1, []⟩])] }) 0 .w 0 = some { flit1 with routed := false, typ := tyStream } ∧
    maskPorts 16 = [.local] ∧ maskPorts 0 = [] ∧ neighbour (pair {}) 0 .e = some 1 ∧
    inService (setF State.reset F.GLB_FLD_FULL_FIELDS 0 1) 0 = true ∧ hasRoom State.reset 1 .w 0 = true ∧
    (match sendOut (pair {}) 0 .e flit1 with | .sent _ => true | _ => false) = true ∧
    (match sendOut (pair { down := 2 }) 0 .e flit1 with | .down => true | _ => false) = true ∧
    getF (setF (up {}) F.TIL_STATUS_BYPASS 0 1) F.TIL_STATUS_BYPASS 0 = 1 ∧
    (match takeOut (setF (up {}) F.GLB_FLD_FULL_FIELDS 0 1) 0 .e (stepPhys State.reset 3 0 .e) flit1 with | .sent _ => true | _ => false) = true := by
  refine ⟨?_, ?_, ?_, ?_, ?_, ?_, ?_, ?_, ?_, ?_, ?_, ?_, ?_, ?_, ?_, ?_⟩ <;> decide +kernel

/-- A sampler header of two contributors, three kept, TOPP 1, one unit of candidates, and one of a lone contributor. -/
def head2 (c k : Nat) : List Byte :=
  (List.range 128).map (fun i => if i = 5 then BitVec.ofNat 8 c else if i = 6 then BitVec.ofNat 8 (4 * k) else if i = 14 then 0x80 else if i = 15 then 0x3F else
    if i = 11 then 0x3F else if i = 10 then 0x80 else 0)
/-- SamplerSessionsAndResults. -/
theorem witness_sampler : headBreaks ⟨0, head2 2 3⟩ = false ∧ headSession ⟨0, head2 2 3⟩ = 0 ∧ headSeq ⟨0, head2 2 3⟩ = 0 ∧ (headOf' ⟨0, head2 2 3⟩).contrib = 2 ∧
    (headOf' ⟨0, head2 2 3⟩).topk = 3 ∧ (headOf' ⟨0, head2 0 3⟩).contrib = 0 ∧ headBreaks ⟨0, head2 0 3⟩ = false ∧ headBreaks ⟨0, head2 2 300⟩ = false ∧
    headBreaks ⟨0, List.replicate 64 0xFF⟩ = true ∧ ({ bus := [⟨0, head2 2 3⟩] } : Sampler).bus[0]? = some ⟨0, head2 2 3⟩ ∧
    getF (setF State.reset F.SMP_CFG_TMO 0 5) F.SMP_CFG_TMO 0 = 5 ∧
    find ({ sessions := [(0, ⟨0, 0, []⟩)] } : Sampler).sessions 0 = some ⟨0, 0, []⟩ ∧
    find ({ finished := [(0, ⟨0, [1], 3⟩)] } : Sampler).finished 0 = some ⟨0, [1], 3⟩ ∧
    leNat (((plainResult 0 0 0 0).drop 8).take 8) % 2 ^ 32 = 0 := by
  refine ⟨?_, ?_, ?_, ?_, ?_, ?_, ?_, ?_, ?_, ?_, ?_, ?_, ?_, ?_⟩ <;> decide +kernel

/-- ConfigurationWindow: a plain register, its shadow half, an address of none; a domain up, owned, at generation 0; a link in STATE 4. -/
theorem witness_window : (decodeReg (regAddr .TIL_HANG 0 0)).map (fun x => (x.shadow, plainReg x.reg)) = some (false, true) ∧
    (decodeReg (regAddr .TIL_ROUTE 0 0 + 0x8000)).map (fun x => x.shadow) = some true ∧
    (decodeReg (regAddr .GLB_ELOG_UNDEC 0 0)).map (offline State.reset) = some false ∧
    owned State.reset 50 = false ∧ owned (setI State.reset F.CFG_GEN_OWNED 0 50 1) 50 = true ∧ domainUp State.reset 50 = true ∧ domainUp State.reset 0 = false ∧
    (getI State.reset F.CFG_GEN_GEN 0 50 + 1) % 65536 = 1 ∧ windowBusy (setF State.reset F.GLB_START_STAT_PHASE 0 5) 0 = true := by
  refine ⟨?_, ?_, ?_, ?_, ?_, ?_, ?_, ?_, ?_⟩ <;> decide +kernel

/-- A command of opcode `c` with body words `w`, and the module with it in flight in queue 0. -/
def cmdOf (c : Nat) (w : List Nat) : Cmd := { idx := 0, bytes := bytesOf c 16 ++ (List.range 6).flatMap (fun i => bytesOf (w.getD i 0) 8) }
def flying (c : Nat) (w : List Nat) : State := modCq State.reset 0 (fun q => { q with inflight := [cmdOf c w] })
/-- The command is in flight, and is what the lists say: wellformed, empty. -/
def flies (c : Nat) (w : List Nat) (bad empty : Bool) : Bool :=
  match inflightCmd (flying c w) 0 0 with
  | some x => x.opcode == c && !x.run && cmdBad (flying c w) 0 x == bad && cmdEmpty x == empty
  | none => false

/-- CommandQueuesStartInOrder: an index in order and one that is not, a slot to read, a command that starts, none, one that has waited
too long. -/
theorem witness_queues : (negative (5 - headOf State.reset 0) = false ∧ cqSize (setI State.reset F.GLB_CQ_CFG_SIZE 0 0 64) 0 = 64) ∧
    (cqSize State.reset 0 < (5 - headOf State.reset 0).toNat ∧ negative (0 - 1 : W32) = true ∧ validSize 64 = true) ∧
    readLink { setI State.reset F.BRL_STAT_STATE 0 1 4 with brois := [(1, { c3 := 1 })] } = some 1 ∧
    nextCmd (modCq State.reset 0 (fun q => { q with fetched := [cmdOf 0 []] })) 0 = some (cmdOf 0 []) ∧
    (startable (modCq State.reset 0 (fun q => { q with fetched := [cmdOf 0 []] })) 0).isSome = true ∧ nextCmd State.reset 0 = none ∧
    levelOf State.reset = 0 ∧ levelOf (setF (setF State.reset F.GLB_START_STAT_FRAME 0 1) F.GLB_FLD_FULL_FIELDS 0 (2 ^ 48 - 1)) = 2 ∧
    waitHolds State.reset { cmdOf 0x100 [] with bytes := bytesOf 0x100 8 ++ bytesOf (2 ^ 32) 56 } = false ∧ waitHolds State.reset (cmdOf 0 []) = true ∧
    negative (tailOf State.reset 0 - headOf State.reset 0) = false ∧ headerBad (cmdOf 0 []) = false := by decide +kernel

/-- CommandsCountersAndRecords: NOP, EVADD and a RUN of one tile, an EVADD of 0, a NOP with a body; a tile that a launch starts; a request that is
admitted at its pace; an increment; records with and without room and during an incident. -/
theorem witness_commands : (flies 0 [] false false ∧ flies 1 [2 ^ 32] false false ∧ flies 1 [0] false true ∧ flies 0 [1] true false ∧
      flies 8 [2 ^ 16 + 2 ^ 24] false false) ∧
    (getF State.reset F.TIL_STATUS_FENCED 0 = 0 ∧ inService (pair {}) 0 = true ∧ getF State.reset F.TIL_CTRL_QUIESCE 0 = 0 ∧ getF State.reset F.TIL_STATUS_BYPASS 0 = 0) ∧
    waitingRequests (modCq State.reset 0 (fun q => { q with inflight := [{ cmdOf 9 [] with run := true }] })) 0 = [{ cmdOf 9 [] with run := true }] ∧
    canAdmit State.reset 0 = true ∧ tileAt (pair {}) 0 0 = some 0 ∧ ({ incs := [⟨7, 1⟩] } : CmdUnit).incs[0]? = some ⟨7, 1⟩ ∧
    ringRoom State.reset = false ∧ ringRoom (setF State.reset F.GLB_EVR_CFG_SIZE 0 64) = true ∧
    absorbs State.reset ⟨1, 0, 0, 0, 0x101, 0, 0, 0, 0⟩ = false ∧ waitsBehind State.reset ⟨1, 0, 0, 0, 0x101, 0, 0, 0, 0⟩ = false ∧
    absorbs { State.reset with recov := { incident := some ⟨.tile 0 1, 0, [0], .opened, [], 0, 0, false, false, false, false, false, none, 64⟩ } }
      ⟨1, 0, 0, 0, 0x101, 0, 0, 0, 0⟩ = true ∧
    waitsBehind { State.reset with recov := { incident := some ⟨.tile 0 1, 0, [0], .opened, [], 0, 0, false, false, false, false, false, none, 64⟩ } }
      ⟨1, 0, 0, 0, 0x1003, 0, 0, 0, 0⟩ = true := by
  refine ⟨?_, ?_, ?_, ?_, ?_, ?_, ?_, ?_, ?_, ?_, ?_, ?_⟩ <;> decide +kernel

/-- A well-formed RUN of one tile, where its module is up. -/
theorem witness_run : cmdEmpty (cmdOf 8 [2 ^ 16 + 2 ^ 24]) = false ∧ headerBad (cmdOf 8 [2 ^ 16 + 2 ^ 24]) = false ∧
    rectTiles (pair {}) (bodyRect (cmdOf 8 [2 ^ 16 + 2 ^ 24]) 0) = [0] := by decide +kernel

/-- A unicast pour of one 64-byte chunk from page 0 to tile (0, 0), of crescent `c`, deadline `d`, and page 0 in T1 of crescent 0. -/
def pourOf (c d : Nat) : Pour := { addr := 0x10000, words := [0, 0, 2 ^ 48, 64 + 2 ^ 48 + 2 ^ 56, 2 ^ 52 * c, d, 0, 0] }
def paged (s : State) : State := { s with tiers := { s.tiers with pt := [(0, { present := true, writable := true, cur := 2048 * 4 + 1, home := 2048 * 4 + 1 })] } }
def pouring (p : Pour) : State := paged { pair {} with pours := [(0, { pours := [p] })] }

/-- PoursIssueInSlackOrder: a POUR; a descriptor read at its crescent and at another; a start, a chunk, a completion, a miss, a stop. -/
theorem witness_pours : flies 0x10 [0x10000] false false ∧ flies 0x10 [] false true ∧
    (readLogical (paged State.reset) 0 64).1 = 0 ∧ (⟨0, wordsOf (readLogical (paged State.reset) 0 64).2.1, 1, none, 0, 0, false, 0, 0, false, false, none, 0, 0, false, [], [], [], false⟩ : Pour).cres = 0 ∧
    (unitOf (pouring (pourOf 0 0)) 0).pours[0]? = some (pourOf 0 0) ∧ (pourOf 0 0).fallback ≠ 1 ∧ evcReached State.reset 0 0 = true ∧
    pourBad (pourOf 0 0) = false ∧ (pourOf 1 0).cres = 1 ∧
    chunkReady (pouring { pourOf 0 0 with state := 2, start := some 0 }) 0 { pourOf 0 0 with state := 2, start := some 0 } = true ∧
    chunkMissing (pouring { pourOf 0 0 with state := 2, start := some 0 }) 0 { pourOf 0 0 with state := 2, start := some 0 } = [] ∧
    (readChunk (pouring { pourOf 0 0 with state := 2, start := some 0 }) 0 { pourOf 0 0 with state := 2, start := some 0 }).1 = 0 ∧
    (chunkBytes (pourOf 0 0) (readChunk (pouring { pourOf 0 0 with state := 2, start := some 0 }) 0 { pourOf 0 0 with state := 2, start := some 0 }).2.2.1).isSome = true ∧
    (pourOf 0 0).total = 1 ∧ pourInMesh (pouring (pourOf 0 0)) 1 = false ∧ (pourOf 0 5).deadline = 5 := by
  refine ⟨?_, ?_, ?_, ?_, ?_, ?_, ?_, ?_, ?_, ?_, ?_, ?_, ?_, ?_, ?_, ?_⟩ <;> decide +kernel

/-- MigrationMovesPages: a FETCH to T0 that the quota of context 0 has room for, one without a quota entry, a WRITEBACK; a job whose page
can be taken; a copy whose last unit has landed. -/
theorem witness_migration : flies 0x28 [0, 1, 0] false false ∧ flies 0x29 [0, 1] false false ∧
    quotasOf State.reset [1] = none ∧ quotasOf (setI State.reset F.GLB_QUOTA_CTX_VALID 0 0 1) [0] = some [0] ∧
    reserveCharges (setI State.reset F.GLB_QUOTA_CTX_VALID 0 0 1) [(0, 0)] = some [(0, 0)] ∧
    jobOf { State.reset with tiers := { jobs := [⟨0, 0, 0, 0, 1, 0, false, false, 0, 0, 0, 0, [], [], false, [], []⟩] } } 0 0 =
      some ⟨0, 0, 0, 0, 1, 0, false, false, 0, 0, 0, 0, [], [], false, [], []⟩ ∧
    pageFails (paged (setF (pair {}) F.GLB_FLD_FULL_FIELDS 0 1)) ⟨0, 0, 0, 0, 1, 0, false, false, 0, 0, 0, 0, [], [], false, [], []⟩ 0 = [] ∧
    pageFails State.reset ⟨0, 0, 0, 0, 1, 0, false, false, 0, 0, 0, 0, [], [], false, [], []⟩ 0 ≠ [] ∧
    pageFails (paged State.reset) ⟨0, 0, 8, 0, 1, 3, false, false, 0, 0, 0, 0, [], [], false, [], []⟩ 0 = [] := by
  refine ⟨?_, ?_, ?_, ?_, ?_, ?_, ?_, ?_, ?_⟩ <;> decide +kernel

/-- EntriesChangeAfterAcknowledgement: a change with its four acknowledgements, one that lacks one, an index to show, a full window. -/
def changing (acks : List Nat) : State := { State.reset with tiers := { changes := [⟨0, .poison 3 1, acks⟩], snapshot := some 5, pt := [(0, { present := true })] } }
theorem witness_entries : (changing [1, 2, 3, 4]).tiers.changes[0]? = some ⟨0, .poison 3 1, [1, 2, 3, 4]⟩ ∧ boundDone (changing []) 1 0 = true ∧
    jobOf { State.reset with tiers := { jobs := [⟨0, 0, 4, 0, 1, 3, false, false, 0, 1, 0, 0, [0], [], false, [], []⟩] } } 0 0 ≠ none ∧
    (changing []).tiers.snapshot = some 5 ∧ (∀ y ∈ (changing []).tiers.changes, y.page ≠ 5) ∧ granuleErrs (changing []) (ptPlace (changing []) 5).1 (ptPlace (changing []) 5).2 = [] ∧
    getF (setF State.reset F.STK_SAT_CFG_WINDOW 0 100) F.STK_SAT_CFG_WINDOW 0 = 100 := by
  refine ⟨?_, ?_, ?_, ?_, ?_, ?_, ?_⟩ <;> decide +kernel

/-- FettlersCorrectAndRetire: a fettler at work and at rest; a clean line, one with a corrected, a lost and a marked byte; copies of a valid
bit that disagree; spares free and used; a clean, a corrected and a lost word of a granule, in a channel out of service too. -/
theorem witness_fettlers : fettles (setF (pair {}) F.FLD_FETTLE_SWEEP 0 1) 0 = true ∧ fettles State.reset 0 = false ∧
    memErrs { valid := [(0, 7)] } 0 64 = [] ∧ memErrs { valid := [(0, 7)], memFlip := [(5, 1)] } 0 64 = [(5, 1)] ∧
    (eccResult 8 1 = .corrected ∧ eccIsPoison 8 1 = false) ∧ (eccResult 8 3 = .uncorrectable ∧ eccIsPoison 8 3 = false) ∧ eccIsPoison 8 (eccPoison 8) = true ∧
    lineValid { valid := [(0, 3)] } 0 = true ∧ getF State.reset F.TIL_MEM_ERR_SPARES_USED 0 = 0 ∧ (∀ k, k < 8 → rdReg State.reset .TIL_REMAP 0 k ≠ remapWord 9) ∧
    getF (setF State.reset F.TIL_MEM_ERR_SPARES_USED 0 8) F.TIL_MEM_ERR_SPARES_USED 0 = 8 ∧ getF (setF State.reset F.STK_FETTLE_SWEEP 0 4) F.STK_FETTLE_SWEEP 0 = 4 ∧
    ptPage State.reset (unitKey 0 0 0) 0 ≠ none ∧ ptPage State.reset (unitKey 3 191 0xFFFFF) 0 = none ∧
    unitValid { State.reset with tiers := { valid := [(unitKey 3 191 0xFFFFF, true)] } } (unitKey 3 191 0xFFFFF) = true ∧
    deadUnit { State.reset with tiers := { dead := [3 * 192 + 191] } } (unitKey 3 191 0xFFFFF) = true ∧
    granuleErrs { State.reset with tiers := { flip := [(unitKey 3 191 0xFFFFF * 512, 1)] } } (unitKey 3 191 0xFFFFF) 0 = [(unitKey 3 191 0xFFFFF * 512, 1)] ∧
    (eccResult 64 1 = .corrected ∧ eccIsPoison 64 1 = false) ∧ eccResult 64 3 = .uncorrectable ∧ eccIsPoison 64 3 = false := by
  refine ⟨?_, ?_, ?_, ?_, ?_, ?_, ?_, ?_, ?_, ?_, ?_, ?_, ?_, ?_, ?_, ?_, ?_, ?_, ?_, ?_⟩ <;> decide +kernel

/-- An incident of tile (0, 0), in phase `p`, its tile fenced and at rest; saves go to page 0. -/
def incident (code : Nat) (p : IncPhase) : Incident := { what := .tile 0 code, since := 0, fenced := [0], phase := p }
def during (code : Nat) (p : IncPhase) : State :=
  let s := setF (setF (pair {}) F.TIL_STATUS_FENCED 0 1) F.TIL_STATUS_QUIESCED 0 1
  let s := setF (setF (setF s F.GLB_REC_SAVE_PAGES 0 8) F.GLB_REC_CFG_AUTO 0 1) F.GLB_REC_CFG_RETEST 0 1
  paged { s with recov := { s.recov with incident := some (incident code p) } }
/-- IncidentsRunTheirCourse: a fence packet under way; an incident for the runtime and one that is not; its save; a column to retire; a
field on its last and on its first clock source. -/
theorem witness_incidents : (during 3 .opened).recov.incident = some (incident 3 .opened) ∧ allFenced (during 3 .opened) (incident 3 .opened) = true ∧
    forRuntime (during 3 .opened) (incident 3 .opened) = false ∧ forRuntime (during 1 .opened) (incident 1 .opened) = true ∧ inService (during 3 .opened) 0 = true ∧
    (saveTiles (during 3 .retiring) { incident 3 .retiring with column := some 0, saved := [0] } []).isSome = true ∧ getF (pair {}) F.GLB_REC_SAVE_PAGES 0 = 0 ∧
    getF (during 3 .retiring) F.FLD_STATE_BYPASS_COL 0 = 24 ∧ getF (setF (during 3 .retiring) F.FLD_STATE_BYPASS_COL 0 3) F.FLD_STATE_BYPASS_COL 0 = 3 ∧
    (allShiftRecs (during 3 .retiring) 0 0).1 = 0 ∧ slotsIn { during 3 .retiring with slots := [(0, { fields := [0] })] } 0 ≠ [] ∧
    (readSaved (during 3 .restoring) (incident 3 .restoring)).1 = 0 ∧ getF State.reset F.FLD_CLK_SOURCE 0 ≠ 3 ∧ getF State.reset F.FLD_CLK_HOLDOVER 0 = 0 ∧
    getF (setF State.reset F.FLD_CLK_HOLDOVER 0 1) F.FLD_CLK_HOLDOVER 0 = 1 ∧
    getF (setF State.reset F.FLD_CLK_SOURCE 0 3) F.FLD_CLK_SOURCE 0 = 3 := by
  refine ⟨?_, ?_, ?_, ?_, ?_, ?_, ?_, ?_, ?_, ?_, ?_, ?_, ?_, ?_, ?_, ?_⟩ <;> decide +kernel

/-- ContextsAndLosses: a save and a restore, well formed, empty and not; tiles at rest; a context that fits and one that does not; links lost. -/
theorem witness_contexts : flies 0x20 [0, 2 ^ 16 + 2 ^ 24, 2 ^ 20] false false ∧ flies 0x20 [0, 0, 0] false true ∧ flies 0x20 [0, 250 + 2 ^ 20, 0] true true ∧
    flies 0x21 [0, 2 ^ 16 + 2 ^ 24] false false ∧ fenceDone (during 3 .opened) 0 = true ∧ fenceDone (pair {}) 0 = false ∧
    (contextBytes (during 3 .opened) (cmdOf 0x20 [0, 2 ^ 16 + 2 ^ 24, 2 ^ 20]) []).2.1 = false ∧
    (contextBytes (during 3 .opened) (cmdOf 0x20 [0, 2 ^ 16 + 2 ^ 24, 2 ^ 20]) []).1.length ≤ bodyF (cmdOf 0x20 [0, 2 ^ 16 + 2 ^ 24, 2 ^ 20]) 2 0 32 ∧
    bodyF (cmdOf 0x20 [0, 2 ^ 16 + 2 ^ 24, 0]) 2 0 32 < (contextBytes (during 3 .opened) (cmdOf 0x20 [0, 2 ^ 16 + 2 ^ 24, 0]) []).1.length ∧
    saveConds true false true ≠ [] ∧ (readLogical (during 3 .opened) 0 64).1 = 0 ∧ (headOfBytes (readLogical (during 3 .opened) 0 64).2.1).magic ≠ 0x31585443 ∧
    restoreFits State.reset (cmdOf 0x21 [0, 2 ^ 16 + 2 ^ 24]) ⟨0x31585443, 1, 0, 0, 0, 0, 0, 0, 0, 0, 64⟩ [] = true ∧
    restoreFits State.reset (cmdOf 0x21 [0, 2 ^ 16 + 2 ^ 24]) ⟨0, 1, 0, 0, 0, 0, 0, 0, 0, 0, 64⟩ [] = false ∧
    getI State.reset F.BRL_STAT_STATE 0 0 < 4 ∧ (linkOf { State.reset with brois := [(0, { wasLost := true })] } 0).wasLost = true := by
  refine ⟨?_, ?_, ?_, ?_, ?_, ?_, ?_, ?_, ?_, ?_, ?_, ?_, ?_, ?_, ?_, ?_⟩ <;> decide +kernel

/-- StartsAndRestarts: an input that has held for 20 ms, each phase of a cold start, a field on its turn and one whose stage B may come, an ARM
within the last 1 ms. (That an image passes R422 rests on the root of trust, of which no value is known.) -/
def starting (ph : Nat) : State :=
  { setF State.reset F.GLB_START_STAT_PHASE 0 ph with power := { on := true, start := true, ready := [(0, true)], since := [(cStart, 0)] }, now := 2000000 }
theorem witness_starts : heldFor (starting 0) cStart 2000000 = true ∧ heldFor State.reset cStart 2000000 = false ∧
    getF (starting 2) F.GLB_START_STAT_PHASE 0 = 2 ∧ allDecided (starting 2) = false ∧
    allDecided (setF (starting 2) F.GLB_FLD_FULL_FIELDS 0 (2 ^ 48 - 1)) = true ∧ (chooseFrame { starting 3 with power := { on := true, start := true } }).1 = none ∧
    coldTurn (starting 2) 0 = true ∧ coldTurn State.reset 0 = false ∧ resetTurn (setF State.reset F.FLD_RESET_BUSY 0 1) 0 = true ∧
    atStageA (setF State.reset F.GLB_FLD_SLOW_FIELDS 0 1) 0 = true ∧ fieldRuns State.reset 0 = false ∧ othersFull State.reset 0 = true ∧
    getF (setF State.reset F.GLB_START_STAT_FRAME 0 1) F.GLB_START_STAT_FRAME 0 = 1 ∧ getD (starting 3).power.ready 0 false = true := by
  refine ⟨?_, ?_, ?_, ?_, ?_, ?_, ?_, ?_, ?_, ?_, ?_, ?_, ?_, ?_⟩ <;> decide +kernel

/-- NarrowResets: a tile that can be reset, a fenced one, one that the sequencer holds; a rectangle with and without tiles in service; a field
in use, lost for good and neither; an edge port and a surface port, and an index out of range. -/
theorem witness_resets : sequencerHas (during 3 .opened) [0] = false ∧ getF (during 3 .opened) F.TIL_STATUS_FENCED 0 = 1 ∧
    sequencerHas { during 3 .retiring with recov := { incident := some { incident 3 .retiring with saved := [0] } } } [0] = true ∧
    (getF (pair {}) F.TIL_STATUS_FENCED 0 = 0 ∧ sequencerHas (pair {}) [0] = false ∧ inService (pair {}) 0 = true) ∧
    resettable (pair {}) (rectTiles (pair {}) ⟨0, 0, 1, 1⟩) = [0] ∧ resettable State.reset (rectTiles State.reset ⟨0, 0, 1, 1⟩) = [] ∧
    getBits (0x1FFFF0000 : Word) 32 1 = 1 ∧ 
    activeSlots { setI (pair {}) F.CFG_MI_STAT_STATE 0 0 2 with slots := [(0, { fields := [0] })] } = [(0, { fields := [0] })] ∧ activeSlots (pair {}) = [] ∧
    (inFieldReset (setF (pair {}) F.FLD_RESET_BUSY 0 1) 0 = true ∧ inFieldReset (pair {}) 0 = false) ∧
    (getF (setF (setF State.reset F.FLD_STATE_LOST 0 1) F.FLD_STATE_CAUSE 0 4) F.FLD_STATE_LOST 0 = 1 ∧
      getF (setF (setF State.reset F.FLD_STATE_LOST 0 1) F.FLD_STATE_CAUSE 0 4) F.FLD_STATE_CAUSE 0 = 4) ∧
    (getBits (0x80 : Word) 7 1 = 1 ∧ getBits (0x80 : Word) 6 1 = 0 ∧ getBits (0x80 : Word) 0 6 = 0) ∧ getBits (0xEF : Word) 0 6 = 47 ∧ getBits (0xA0 : Word) 0 6 = 32 := by
  refine ⟨?_, ?_, ?_, ?_, ?_, ?_, ?_, ?_, ?_, ?_, ?_, ?_, ?_, ?_⟩ <;> decide +kernel

/-- StagingAndAdoption: GO with no staging under way and while one runs; a source that cannot be read; a domain that cannot change and one that can. -/
theorem witness_staging : getBits (1 : Word) 0 1 = 1 ∧ getBits (1 : Word) 1 1 = 0 ∧ (∀ d, d < 54 → getI State.reset F.CFG_EPOCH_FROM_STAGING 0 d = 0) ∧
    getI (setI State.reset F.CFG_EPOCH_FROM_STAGING 0 53 1) F.CFG_EPOCH_FROM_STAGING 0 53 = 1 ∧ (stageCheck State.reset).1 ≠ 0 ∧ (stageCheck State.reset).1 ≠ 4 ∧
    (stageCheck State.reset).2.1 = none ∧ (stageCheck (paged State.reset)).1 = ST_IMAGE_INVALID ∧ adoptBusy State.reset 60 = true ∧ adoptBusy (pair {}) 0 = false ∧
    (match frameCheck {} with | .error st => st == ST_IMAGE_INVALID | .ok _ => false) = true ∧ consistent (fun _ => { epoch := 0, wins := [(0, 0), (0, 0), (0, 0), (0, 0)] }) [0, 48] = true := by
  refine ⟨?_, ?_, ?_, ?_, ?_, ?_, ?_, ?_, ?_, ?_, ?_, ?_⟩ <;> decide +kernel

/-- A LOAD into slot 0 in work, and the manifest of a mould image that is read. -/
def loading (action : Nat) : State := { pair {} with loader := { job := some ⟨0, 0, action, 0, 0, 0, 0, [53]⟩ } }
def mould0 : Manifest := ⟨2, 0, 0, 0xA1, 0, 0, 0, 0, [], 2 ^ 53, 0, 0, 0, 0, 0, 0, [(0, 0), (0, 0), (0, 0), (0, 0)], [], [], [], true, true, 0, [], []⟩
/-- MouldImageSlots: a PATCH of each kind; a slot that allows LOAD and none that allows APPLY; each operation in work; a payload that passes and
one that does not; a slot in conflict; tiles that run. -/
theorem witness_images : flies 0x30 [0, 0] false false ∧ flies 0x30 [3 * 2 ^ 46, 0] true false ∧ slotRefusal State.reset 0 0 = none ∧ slotRefusal State.reset 0 1 = some ST_PATCH_BASE ∧
    slotState (setSlotState State.reset 0 2) 0 = 2 ∧ slotRefusal (setSlotState State.reset 0 2) 0 1 = none ∧ (readManifest State.reset 0 (2 ^ 42)).2.1 = none ∧
    manifestRefusal State.reset 0 0 mould0 = none ∧ manifestRefusal State.reset 0 1 mould0 = some ST_IMAGE_INVALID ∧
    jobFor (loading 0) 0 0 0 ≠ none ∧ jobFor (loading 0) 0 0 1 = none ∧ jobFor (loading 1) 0 0 1 ≠ none ∧ jobFor (loading 2) 0 0 2 ≠ none ∧
    (readPayload State.reset 0 mould0).1 = some ⟨0, 0, []⟩ ∧ conflicts State.reset mould0 (slotFrom mould0 [] []) = false ∧
    conflicts { setSlotState State.reset 1 2 with slots := [(1, { moulds := [⟨0, 0, 2, 2⟩] })] } mould0 { moulds := [⟨1, 1, 1, 1⟩] } = true ∧
    getF (pair {}) F.TIL_STATUS_RUNNING 0 = 1 ∧ getF (pair {}) F.TIL_STATUS_FENCED 0 = 0 := by
  refine ⟨?_, ?_, ?_, ?_, ?_, ?_, ?_, ?_, ?_, ?_, ?_, ?_, ?_, ?_, ?_, ?_, ?_, ?_⟩ <;> decide +kernel

/-- Page 0 of T1 with the descriptor of group 7 of two live members, ranks 0 and 1, member 1 under member 0. -/
def groupBytes : List Byte :=
  bytesOf (2 + 7 * 2 ^ 32 + 3 * 2 ^ 48) 8 ++ bytesOf 0x80 8 ++ bytesOf 0x100 8 ++ bytesOf 0x140 8 ++ List.replicate 0x60 0 ++ [0, 0, 1, 0] ++
    List.replicate 0x7C 0 ++ bytesOf 3 8 ++ List.replicate 0x38 0 ++ List.replicate 8 0
def grouped : State := (writeLogical (paged (pair {})) 0 groupBytes).2
/-- CollectivesStart: a command of each kind, well formed, empty and not; a group that is read and one that is not; its tree; its ranks. -/
theorem witness_collectives : flies 0x18 [0, 0, 0, 0, 0, 1 + 2 ^ 32] false false ∧ flies 0x19 [0, 0, 0, 0, 0, 1 + 2 ^ 32] false false ∧ flies 0x1A [0, 0, 0, 64] false false ∧
    flies 0x18 [0, 0, 0, 0, 0, 65537 * 2 ^ 32] true false ∧ flies 0x1A [0, 0, 0, 1] true false ∧ (readGroup State.reset 0).2.1 = none ∧
    (readGroup grouped 0).2.1.map (fun g => (g.members, g.id, g.gen, g.ranks, g.live, g.treeAddr)) = some (2, 7, 3, [0, 1], [0, 1], 0x140) ∧
    (readTree grouped 0x140 2).1 = 0 ∧ treeOk 2 (readTree grouped 0x140 2).2.1 = true ∧ (readTree grouped 0x1000000 2).1 ≠ 0 ∧
    treeOk 2 [(0, 0), (1, 1)] = false ∧ (loadRanks grouped [0, 1]).1 ≠ 4 := by
  refine ⟨?_, ?_, ?_, ?_, ?_, ?_, ?_, ?_, ?_, ?_, ?_, ?_⟩ <;> decide +kernel

/-- A REDUCE_SCATTER of group 7 bound to channel 0: this module is member 0, one segment of one block. -/
def chan0 : Chan := {
  q := 0, idx := 0, bytes := bytesOf 0x18 16 ++ bytesOf 0 40 ++ bytesOf (1 + 2 ^ 32) 8, op := 0, gaddr := 0, group := 7, gen := 3, cseq := 0, hash := 5,
  ranks := [0, 1], me := 0, root := 0, tree := [(0, 0), (0, 0)], live := [0, 1], live0 := [0, 1], segments := 1, blocks := 1, length := 0 }
/-- The last and only block, of member 1, and the owner stage that holds it. -/
def block0 (n : Nat) : Block := { scale := 0, residue := 0, last := true, seq := n, elems := List.replicate 64 (some 0) }
def penn0 (kind : Nat) : Penn := { kind, chan := 0, coll := 0, group := 7, cseq := 0, hash := 5, gen := 3, sender := 1, count := 1 }
def bound (x : Chan) (l : List Penn) (d : Adder) : State :=
  { grouped with coll := { chans := [(0, some x)], adders := [(ownerStage, d)], arrived := l.map (fun p => (p, .surface 0 0)), groups := [(7, ⟨0, 0⟩)] } }
/-- AddersAndData: a block in turn and one that is not; every input of a block held; DATA in turn of a bound collective, of none, and of another. -/
theorem witness_adders :
    (adderOf (bound chan0 [] { incoming := [⟨0, 0, 1, 1, 1, block0 0, none⟩] }) ownerStage).incoming[0]? = some ⟨0, 0, 1, 1, 1, block0 0, none⟩ ∧
    (readyAt (bound chan0 [] { ins := [⟨0, 0, 1, 1, 1, 1, [(block0 0, none)]⟩] }) ownerStage).isSome = true ∧
    readyAt (bound chan0 [] {}) ownerStage = none ∧
    arrivedOf (bound chan0 [penn0 1] {}) 0 1 = some (penn0 1, .surface 0 0) ∧ arrivedOf (bound chan0 [] {}) 0 1 = none ∧
    dataInTurn (bound chan0 [penn0 1] {}) 0 (penn0 1) (.surface 0 0) = true ∧ dataInTurn (bound chan0 [penn0 1, penn0 1] {}) 1 (penn0 1) (.surface 0 0) = false ∧
    chanOf (bound chan0 [] {}) 0 = some chan0 ∧ chanOf (bound chan0 [] {}) 1 = none ∧ chan0.names (penn0 1) = true ∧
    chan0.names { penn0 1 with hash := 6 } = false ∧ (chan0.group = 7 ∧ chan0.cseq = 0) ∧ (knownGroup (bound chan0 [] {}) 7).1 = 0 ∧
    (ownBlock (bound chan0 [] {}) chan0 0 0).1 = 0 ∧ (readyAt (bound chan0 [] { ins := [⟨0, 0, 1, 1, 1, 1, [(block0 0, none)]⟩] }) ownerStage).map (fun r => (r.1, r.2.1)) = some (chan0, 0) := by
  refine ⟨?_, ?_, ?_, ?_, ?_, ?_, ?_, ?_, ?_, ?_, ?_, ?_, ?_, ?_, ?_⟩ <;> decide +kernel

/-- ControlPennants: each kind at the input, of a bound collective and of none; a held one; a group that is known and one that is not; a REFORM
whose indices are all here; an abort table with and without room. -/
theorem witness_pennants : ([2, 3, 4, 5, 6, 7, 8, 9, 10].all (fun k => arrivedOf (bound chan0 [penn0 k] {}) 0 k == some (penn0 k, .surface 0 0) && arrivedOf (bound chan0 [] {}) 0 k == none)) = true ∧
    chanOf (takePenn (bound chan0 [penn0 2] {}) 0) 0 = some chan0 ∧ chan0.held = false ∧ ({ chan0 with held := true } : Chan).held = true ∧
    (knownGroup (bound chan0 [] {}) 7).2.1.isSome = true ∧ (knownGroup (bound chan0 [] {}) 8).2.1 = none ∧ (knownGroup (bound chan0 [] {}) 8).1 ≠ 4 ∧
    (noteRequest State.reset 7 3 [1]).2 = none ∧
    (noteRequest { State.reset with coll := { forming := [⟨7, 3, [1], 0, true⟩] } } 7 3 [1]).2 = some ⟨7, 3, [1], 0, true⟩ ∧
    (indicesOf 1 (bytesOf 1 2)).length = 1 ∧ (penn0 7).contrib = 0 ∧ State.reset.coll.aborts.length < 16 ∧
    ({ aborts := List.replicate 16 ⟨7, 0, 0, 5, 0, 0⟩ } : CollState).aborts.length = 16 ∧ negative (BitVec.ofNat 32 5 - BitVec.ofNat 32 6) = true := by
  refine ⟨?_, ?_, ?_, ?_, ?_, ?_, ?_, ?_, ?_, ?_, ?_, ?_, ?_, ?_⟩ <;> decide +kernel

/-- CollectiveTimers: a wait of member 1 (operand 16 names it), queried and not, idle and not; a held member; a block unacknowledged; a forming, a
request and an abort entry. -/
theorem witness_timers_coll : waitAt (bound { chan0 with waits := [⟨1, 0, none, none⟩] } [] {}) 16 = some ({ chan0 with waits := [⟨1, 0, none, none⟩] }, ⟨1, 0, none, none⟩) ∧
    waitAt (bound chan0 [] {}) 16 = none ∧ ({ chan0 with heldBy := [(1, 0)] } : Chan).heldSince 1 = some 0 ∧ chan0.heldSince 1 = none ∧
    collTmo (setF State.reset F.COL_TMO_COLL_TMO 0 8) = 8 ∧ hopTmo (setF State.reset F.COL_TMO_HOP_TMO 0 2) = 2 ∧ groupTmo (setF State.reset F.COL_GROUP_TMO_GROUP_TMO 0 9) = 9 ∧
    (sendRank (bound chan0 [] {}) 1 (chan0.penn 3)).1 = false ∧ pendingExcl (bound chan0 [] {}) chan0 = [] ∧
    ({ chan0 with childs := [{ member := 1, segment := 0, next := 1, unacked := [(0, 0)] }] } : Chan).childs.any (fun t => t.member == 1 && t.unacked.any (fun u =>
      hopTmo State.reset ≤ { bound chan0 [] {} with now := 2 ^ 40 }.now - u.2)) = true := by
  refine ⟨?_, ?_, ?_, ?_, ?_, ?_, ?_, ?_, ?_, ?_⟩ <;> decide +kernel

/-- BroisLinks: a flit in order and an idle one, a flit to replay, widths left and none, links lost for 1 s. -/
theorem witness_brois : getI (setI State.reset F.BRL_STAT_STATE 0 1 4) F.BRL_STAT_STATE 0 1 = 4 ∧ (0 : W32).toNat % 1024 = ({} : BLink).rxNext ∧ (2 ^ 21 : W32).toNat / 2 ^ 21 % 2 = 1 ∧
    (linkOf { State.reset with brois := [(0, { unacked := [⟨0, .winAck 0 0, 0, 4⟩] })] } 0).unacked = [⟨0, .winAck 0 0, 0, 4⟩] ∧
    widthFor State.reset 0 0 = some (0, 0) ∧ widthFor State.reset 0 0x101 = none ∧ widthFor (setI State.reset F.BRL_CTRL_ALLOW_X8 0 0 1) 0 0x100 = some (1, 0) ∧
    getI (setI State.reset F.BRL_CTRL_ENABLE 0 0 1) F.BRL_CTRL_ENABLE 0 0 = 1 ∧ getI (setI State.reset F.BRL_CTRL_ENABLE 0 0 0) F.BRL_CTRL_ENABLE 0 0 = 0 ∧
    (let s : State := { State.reset with now := 100000000, brois := [(0, { wasLost := true }), (1, { wasLost := true })] }
     (decide (getI s F.BRL_STAT_STATE 0 0 < 4 ∧ 100000000 ≤ s.now - (linkOf s 0).since) && (linkOf s 1).wasLost && s.recov.owed.isNone && !s.recov.holding)) = true := by
  refine ⟨?_, ?_, ?_, ?_, ?_, ?_, ?_, ?_, ?_, ?_⟩ <;> decide +kernel

/-- CompanionMemoryAnswers: a read and a write of each kind, on a link. -/
theorem witness_companion :
    ({ reads := [⟨0, 1, 0, 64, .command 3 7⟩, ⟨1, 1, 0, 64, .readmit 3 7⟩] } : CmdUnit).reads[1]? = some ⟨1, 1, 0, 64, .readmit 3 7⟩ ∧
    ({ writes := [⟨0, 0, 0, [], .completion 3 (some 9) true⟩, ⟨1, 0, 0, [], .record 5 true⟩, ⟨2, 0, 0, [], .interrupt⟩] } : CmdUnit).writes[0]? =
      some ⟨0, 0, 0, [], .completion 3 (some 9) true⟩ := by decide +kernel

/-- EdgePortsAndConnections: a port up and one down; packets unanswered for the timeouts, with retries left and none; an ACK owed; a limited rate. -/
theorem witness_edge : portUp (setI State.reset F.PRT_EPORT_STAT_STATE 0 0 3) 0 = true ∧ portUp State.reset 0 = false ∧ getI State.reset F.PRT_EPORT_CFG_MODE 0 0 = 3 ∧
    getI (setI State.reset F.PRT_EPORT_CFG_MODE 0 0 0) F.PRT_EPORT_CFG_MODE 0 0 ≠ 3 ∧ (connOf State.reset 0).kind ≠ 1 ∧
    getF State.reset F.PRT_CST_CFG_RTO 0 ≤ 2 ^ 40 ∧ 4096 * 2 ^ getF State.reset F.PRT_CST_CFG_ROCE_TMO 0 ≤ 2 ^ 60 ∧
    pairOuts { State.reset with net := { outst := [{ conn := 0, cres := 0, port := 0, kind := .read }] } } 0 0 = [{ conn := 0, cres := 0, port := 0, kind := .read }] ∧
    (connOf { State.reset with net := { conns := [(0, { kind := 1, ackAt := some 0 })] } } 0).ackAt = some 0 ∧
    (rateOf { State.reset with net := { rates := [(0, { limit := some 1 })] } } 0).limit = some 1 ∧ getBits (2 ^ 14 : Word) 14 1 = 1 ∧ getBits (2 ^ 15 : Word) 15 1 = 1 := by
  refine ⟨?_, ?_, ?_, ?_, ?_, ?_, ?_, ?_, ?_, ?_, ?_, ?_⟩ <;> decide +kernel

/-- PacketsArrive: a connection that is open, an outstanding read that a packet answers and none; a hop; a queue pair. -/
def linked : State := { setI State.reset F.PRT_EPORT_STAT_STATE 0 0 3 with
  net := { conns := [(5, { state := 1, kind := 1 }), (6, { state := 1 })], outst := [{ conn := 6, cres := 0, port := 0, psn := 9, kind := .read, tag := 4 }, { conn := 5, cres := 2, port := 0, psn := 9, kind := .read }] } }
theorem witness_packets : portUp linked 0 = true ∧ rxKey { src := 1, conn := 6, psn := 9, ack := 8, tag := 4 } = 6 ∧ isHop 6 = false ∧ (connOf linked 6).state = 1 ∧
    (readFor linked { src := 1, conn := 6, psn := 9, ack := 8, tag := 4 }).isSome = true ∧ readFor linked { src := 1, conn := 6, psn := 9, ack := 8 } = none ∧
    isHop (rxKey { src := 1, conn := 0xFFF0, psn := 0, ack := 0 }) = true ∧ (connOf linked (hopKey 1 0)).state = 0 ∧
    (recvSeq linked (hopKey 1 0) 0 false).1 = true ∧ (recvSeq linked (hopKey 1 0) 2000 false).1 = false ∧ pairOf 0x116 = (5, 2) ∧ (connOf linked 5).kind = 1 ∧
    (pairOuts linked 5 2).any (fun o => o.psn.toNat == 9) = true := by
  refine ⟨?_, ?_, ?_, ?_, ?_, ?_, ?_, ?_, ?_, ?_, ?_, ?_, ?_⟩ <;> decide +kernel

/-- SurfacePorts: a sublink up and one down, a binding that receives on it, a whole transfer with room at its gateway, a measurement due. -/
theorem witness_surface : subActive (setI State.reset F.OPT_SUB_STATE 0 3 4) 0 3 = true ∧ subActive State.reset 0 3 = false ∧
    getI (setI State.reset F.OPT_BIND_VALID_RX 0 7 1) F.OPT_BIND_VALID_RX 0 7 = 1 ∧ (⟨0, [(0, true, unit0)], false⟩ : Slot).whole = true ∧
    gateway (setF (setF (setF (pair {}) F.TIL_LOGXY_LY 1 14) F.TIL_LOGXY_LX 1 1) F.TIL_LOGXY_ASSIGNED 1 1) 0 0 = some 1 ∧
    ((1 : W32) - (0 + 1)).toNat < 2 ^ 31 ∧ getI (setI State.reset F.OPT_SUB_STATE 0 3 2) F.OPT_SUB_STATE 0 3 ≠ 0 ∧
    getD ({ measureDue := [(0, true)] } : NetState).measureDue 0 false = true := by
  refine ⟨?_, ?_, ?_, ?_, ?_, ?_, ?_, ?_⟩ <;> decide +kernel

/-- PowerController: a stage to change to, a field that has cooled, a coolant limit that has held, a stop that is due. -/
theorem witness_power : nextStage State.reset = getF State.reset F.PWR_IN_STAGE 0 ∧ nextStage { State.reset with now := 2000, power := { since := [(2, 0)] } } = 3 ∧
    heldFor { State.reset with now := 10 * second, power := { since := [(cCool 0, 0), (cOut, 0), (cIn, 0)] } } (cCool 0) 10000000 = true ∧
    heldFor { State.reset with now := 10 * second, power := { since := [(cCool 0, 0), (cOut, 0), (cIn, 0)] } } cOut second = true ∧
    heldFor { State.reset with now := 10 * second, power := { since := [(cCool 0, 0), (cOut, 0), (cIn, 0)] } } cIn (10 * second) = true ∧
    heldFor State.reset cOut second = false ∧ ({ stop := some 3 } : PowerState).stop = some 3 ∧ (1050 ≤ (1050 : BitVec 16).toInt ∧ (0 : BitVec 16).toInt < 1050) := by
  refine ⟨?_, ?_, ?_, ?_, ?_, ?_, ?_, ?_⟩ <;> decide +kernel

/-- WearAndLedger: a field in service and none, a plan in time, the first plan's turn, a temperature, a snapshot asked for. -/
theorem witness_ledger : inService (pair {}) 0 = true ∧ inService State.reset 0 = false ∧ (tjOf (pair {}) 0).isSome = true ∧
    tjOf { State.reset with power := { badSens := [(0, 15)] } } 0 = none ∧ getD ({ ready := [(0, true)] } : PowerState).ready 0 false = true ∧
    getF (setF State.reset F.GLB_START_STAT_FRAME 0 1) F.GLB_START_STAT_FRAME 0 ≠ 0 ∧ (askSnap State.reset 1).power.snapDue ≠ none := by
  refine ⟨?_, ?_, ?_, ?_, ?_, ?_, ?_⟩ <;> decide +kernel

/-- TileEventsComplete, beside `witness_timers` and `witness_local`: a record that expects unit 0, a half to fill, a notice of a page at rest, a stream to resend. -/
theorem witness_events : getD ({ rx := [(0, {})] } : Tile).rx 0 {} = {} ∧ halfState State.reset 0 1 ≠ 2 ∧ halfState State.reset 0 1 ≠ 3 ∧
    1 - getF State.reset F.TIL_TUNDISH_DRAW 0 = 1 ∧ (∀ c ∈ State.reset.tiers.changes, c.page ≠ 7) ∧ getF (setF State.reset F.TIL_CTRL_QUIESCE 0 1) F.TIL_CTRL_QUIESCE 0 = 1 ∧
    getF State.reset F.TIL_STATUS_QUIESCED 0 = 0 ∧ (getD ({ tx := [(0, { count := 64 })] } : Tile).tx 0 {}).count = 64 := by decide +kernel

/-- PoursComplete, beside `witness_pours`: a descriptor of one chunk, valid and not empty, alone at its crescent, and one to stop. -/
theorem witness_pours_complete : pourBad (pourOf 0 5) = false ∧ pourEmpty (pourOf 0 5) = false ∧ (unitOf State.reset 0).pours.length < 256 ∧ (pourOf 0 5).fallback = 0 ∧
    (unitOf (pouring (pourOf 0 5)) 0).pours.find? (fun p => p.addr == (0x10000 : LAddr).toNat / 64 * 64) = some (pourOf 0 5) ∧
    (∀ c < 4, ∀ p ∈ (unitOf (pouring (pourOf 0 5)) c).pours, p.hold = 0) := by decide +kernel

/-- A REDUCE_SCATTER at member 1 of 4, under member 0: its children are member 2 by surface and member 3 by an edge port. -/
def chan1 : Chan := { chan0 with ranks := [0, 1, 2, 3], me := 1, tree := [(0, 0), (0, 0), (1, 1), (1, 1)], live := [0, 1, 2, 3], live0 := [0, 1, 2, 3] }
def joined : State :=
  { setI (setI (pair {}) F.PRT_EPORT_STAT_STATE 0 0 3) F.OPT_SUB_STATE 0 0 4 with
    coll := { chans := [(0, some chan1)], adders := [(0, { ins := [⟨0, 0, 3, 3, 1, 1, [({ block0 0 with last := true }, none)]⟩] })] }
    net := { ret := [(2, List.replicate 16 0 ++ [3, 0, 0]), (3, List.replicate 16 0 ++ [1])] } }
/-- AddersComplete, beside `witness_adders`: DATA of a segment that this member owns, and an adder that the member's own block does not join. -/
theorem witness_adders_complete : chan0.owner 0 = chan0.me ∧ readBlocks 1 (List.replicate 72 0) ≠ [] ∧ (readyAt joined 0).map (fun r => (r.1, r.2.1)) = some (chan1, 0) ∧
    chanOf joined chan1.num = some chan1 ∧ adderShare joined chan1 0 0 = some ([3], false) := by
  refine ⟨?_, ?_, ?_, ?_, ?_⟩ <;> decide +kernel

/-- ControlPennantsComplete, beside `witness_pennants`: a block that has been sent, a REFORM of a later generation with no collective of its group bound. -/
theorem witness_pennants_complete : chan0.num = 0 ∧ (0 : Nat) < (({ chan0 with childs := [{ member := 1, segment := 0, next := 1 }] } : Chan).childTx 1 0).next ∧
    (indicesOf 1 (bytesOf 1 2)).length = ({ penn0 7 with contrib := 1, payload := bytesOf 1 2 } : Penn).contrib ∧
    (knownGroup { grouped with coll := { groups := [(7, ⟨0, 0⟩)], formIn := [⟨7, 4, 1, [(0, [1])]⟩] } } 7).2.1.map (fun e => decide (e.2.gen < 4)) = some true ∧
    (knownGroup { grouped with coll := { groups := [(7, ⟨0, 0⟩)], formIn := [⟨7, 4, 1, [(0, [1])]⟩] } } 7).1 ≠ 4 ∧ (∀ c, c < 16 → chanOf grouped c = none) := by
  refine ⟨?_, ?_, ?_, ?_, ?_, ?_⟩ <;> decide +kernel

/-- CollectiveTimersComplete, beside `witness_timers_coll`: a member that a path reaches, a block that has left, another live member to ask. -/
theorem witness_timers_complete : (sendRank joined 2 (chan1.penn 3)).1 = true ∧ unsentTo joined chan1 2 0 0 = false ∧ (∀ f ∈ joined.coll.forming, f.group ≠ chan1.group) ∧
    (∃ l ∈ chan1.live, l ≠ 2 ∧ l ∉ ([] : List Nat)) ∧ (knownGroup { grouped with coll := { groups := [(7, ⟨0, 0⟩)] } } 7).2.1.map
      (fun e => (e.2.live.filter (fun m => !([] : List Nat).contains m && decide (0 < m)), e.1.me, decide (e.2.gen ≤ 3))) = some ([1], 0, true) := by
  refine ⟨?_, ?_, ?_, ?_, ?_⟩ <;> decide +kernel

/-! ### One step of small states -/

/-- The field of the state that a step leaves, or none. -/
def after (c : Instr) (s : State) : Option State := match step { s with pending := [c] } with | .next u => some u | _ => none

/-- R177: an increment adds to the module counter that it names, and to no other. -/
theorem test_step_evc : (after (.glbEvcAdd 5 7) State.reset).map (fun u => (evcOf u 5, evcOf u 6, u.pending)) = some (7, 0, []) := by decide +kernel

/-- R75: LDI of the scalar 1 with 7 in tile (0, 0), which goes on at the next op. -/
theorem test_step_ldi : (after (.ldi t0 (op 1 0 0 1 4 0 0 0 7)) (up {})).map (fun u => (getD (tileOf u 0).s 1 0, getF u F.TIL_STATUS_PC 0)) = some (7, 8) := by
  decide +kernel

/-- R63: the same op with bit 56 set stops the tile with fault 1, at its own PC. -/
theorem test_step_fault : (after (.ldi t0 (op 1 16 0 1 4 0 0 0 7)) (up {})).map
    (fun u => (getF u F.TIL_STATUS_FAULT 0, getF u F.TIL_STATUS_RUNNING 0, getF u F.TIL_STATUS_PC 0)) = some (1, 0, 0) := by decide +kernel

/-- R42: with nothing waiting, a tick passes. -/
theorem test_step_idle : (match step State.reset with | .next u => u.now | _ => 0) = 1 := by decide +kernel

/-- R400: at the end of a holdover the field takes its next clock source and counts the switch. -/
theorem test_step_switch : (match step { setF (pair {}) F.FLD_CLK_HOLDOVER 0 1 with recov := { holdover := [(0, 1)] } } with
    | .next u => (getF u F.FLD_CLK_SOURCE 0, getF u F.FLD_CLK_HOLDOVER 0, getF u F.FLD_CLK_SWITCHES 0, find u.recov.relock 0)
    | _ => (0, 0, 0, none)) = (1, 0, 1, some 20001) := by decide +kernel

/-- EmptyQueueTicks, StepKeepsSound, EveryCommandAnswersNext, OnlyColdStartChangesActiveFrame: the reset state waits for nothing and is sound. -/
theorem witness_reset : State.reset.pending = [] ∧ State.reset.Sound ∧ (∀ b, Instr.repairListAppend ≠ .coldStart b) := by
  refine ⟨rfl, ⟨⟨rfl, rfl, fun e h => by cases h⟩, Nat.le_refl 0⟩, fun b h => by cases h⟩

end Sys2Proof.Machine
end

section
/-! PROOFS. Accesses that no block decodes (R18). -/
namespace Sys2Proof.Machine

/-! ### States that differ in register words alone -/

/-- Beside the register words at the addresses `as`, nothing has changed. -/
def OnlyRegs (as : List Nat) (s t : State) : Prop := RegsKept as s t ∧ { t with regs := s.regs } = s

theorem OnlyRegs.refl (as : List Nat) (s : State) : OnlyRegs as s s := ⟨fun _ _ => rfl, rfl⟩

theorem OnlyRegs.trans {as bs cs : List Nat} {s t u : State} (h : OnlyRegs as s t) (k : OnlyRegs bs t u)
    (ha : as ⊆ cs) (hb : bs ⊆ cs) : OnlyRegs cs s u := by
  obtain ⟨hregs, hrest⟩ := h
  obtain ⟨kregs, krest⟩ := k
  refine ⟨fun a hn => (kregs a (fun c => hn (hb c))).trans (hregs a (fun c => hn (ha c))), ?_⟩
  rw [← hrest, ← krest]

/-- Writes of fields at the same addresses follow one another. -/
theorem OnlyRegs.then_setF {as : List Nat} {s t : State} (h : OnlyRegs as s t) (f : Fld) (u v : Nat)
    (hf : regAddr f.reg u 0 ∈ as) : OnlyRegs as s (setF t f u v) :=
  h.trans ⟨fun a hn => find_setF t f u v a (fun e => hn (e ▸ hf)), rfl⟩ (List.Subset.refl _) (List.Subset.refl _)

/-- A field at an address whose word is kept reads as before. -/
theorem RegsKept.getF_eq {as : List Nat} {s t : State} (h : RegsKept as s t) (f : Fld) (u : Nat)
    (hf : regAddr f.reg u 0 ∉ as) : getF t f u = getF s f u := by
  simp only [getF, getI, rdReg, getD, h _ hf]

/-- R546: a count grows by what is added to it, up to the largest value of its field. -/
theorem getF_countF_same (s : State) (f : Fld) (u n : Nat) (h : f.fits) :
    getF (countF s f u n) f u = min (getF s f u + n) (2 ^ f.w - 1) := by
  have hlt : min (getF s f u + n) (2 ^ f.w - 1) < 2 ^ f.w :=
    Nat.lt_of_le_of_lt (Nat.min_le_right _ _) (Nat.sub_one_lt (Nat.two_pow_pos f.w).ne')
  exact (getF_setF_same s f u _ h).trans (Nat.mod_eq_of_lt hlt)

/-! ### The global error log -/

/-- An access that no block decodes is counted in UNDECODED, and after that GLB_ELOG_ADDR alone can change. -/
theorem noteAccess_counts_then_keeps_addr (s : State) (a : Nat) (wr : Bool) (l : Nat) :
    OnlyRegs [regAddr .GLB_ELOG_ADDR 0 0] (countF s F.GLB_ELOG_UNDEC_UNDECODED 0 1) (noteAccess s a wr false l) := by
  have hm := List.mem_singleton_self (regAddr .GLB_ELOG_ADDR 0 0)
  unfold noteAccess
  dsimp only
  rw [if_neg Bool.false_ne_true]
  split
  · exact (((((OnlyRegs.refl _ _).then_setF _ 0 _ hm).then_setF _ 0 _ hm).then_setF _ 0 _ hm).then_setF _ 0 _ hm).then_setF _ 0 _ hm
  · exact OnlyRegs.refl _ _

theorem getF_undecoded_noteAccess (s : State) (a : Nat) (wr : Bool) (l : Nat) :
    getF (noteAccess s a wr false l) F.GLB_ELOG_UNDEC_UNDECODED 0 =
      min (getF s F.GLB_ELOG_UNDEC_UNDECODED 0 + 1) (2 ^ 32 - 1) := by
  obtain ⟨hregs, -⟩ := noteAccess_counts_then_keeps_addr s a wr l
  rw [hregs.getF_eq F.GLB_ELOG_UNDEC_UNDECODED 0 (by decide)]
  exact getF_countF_same s F.GLB_ELOG_UNDEC_UNDECODED 0 1 (by decide)

theorem noteAccess_onlyRegs (s : State) (a : Nat) (wr : Bool) (l : Nat) :
    OnlyRegs [regAddr .GLB_ELOG_UNDEC 0 0, regAddr .GLB_ELOG_ADDR 0 0] s (noteAccess s a wr false l) := by
  have hcount : OnlyRegs [regAddr .GLB_ELOG_UNDEC 0 0] s (countF s F.GLB_ELOG_UNDEC_UNDECODED 0 1) :=
    (OnlyRegs.refl _ s).then_setF F.GLB_ELOG_UNDEC_UNDECODED 0 _ (List.mem_singleton_self _)
  exact hcount.trans (noteAccess_counts_then_keeps_addr s a wr l) (by simp) (by simp)

/-! ### The window -/

theorem windowRead_undecoded {a : Nat} (s : State) (l : Nat) (h : decodeReg a = none) :
    windowRead s l a = (0, noteAccess s a false false l) := by
  simp only [windowRead, h]

theorem windowWrite_undecoded {a : Nat} (s : State) (l : Nat) (v : Word) (h : decodeReg a = none) :
    windowWrite s l a v = noteAccess s a true false l := by
  simp only [windowWrite, writeAt, h, Option.getD_some]

/-- R474, R475: a well-formed read on a carrying link, with the window free, is carried out and answered with RSTAT 0. -/
theorem opWinRd_accepted {s : State} {l a : Nat} (tag : Nat) (hl : linkActive s l = true) (ha : badAddr a = false)
    (hb : windowBusy s a = false) :
    opWinRd l a tag true s = sendPkt (windowRead s l a).2 l (.winRdata tag 0 (windowRead s l a).1) := by
  simp [opWinRd, hl, ha, hb]

/-- R474, R475: a well-formed first write on a carrying link, with the window free, is carried out and answered with RSTAT 0. -/
theorem opWinWr_accepted {s : State} {l a : Nat} (v : Word) (tag : Nat) (hl : linkActive s l = true)
    (ha : badAddr a = false) (hb : windowBusy s a = false) :
    opWinWr l a v tag true false s = sendPkt (windowWrite (noteTag s l tag) l a v) l (.winAck tag 0) := by
  simp [opWinWr, hl, ha, hb]

theorem exec_winRd (s : State) (l : Fin 2) (a : BitVec 52) (tag : Fin 4096) (form : Bool) :
    exec (.winRd l a tag form) s = .next (opWinRd l a.toNat tag form s) := rfl

theorem exec_winWr (s : State) (l : Fin 2) (a : BitVec 52) (v : Word) (tag : Fin 4096) (form resend : Bool) :
    exec (.winWr l a v tag form resend) s = .next (opWinWr l a.toNat v tag form resend s) := rfl

/-- Settles O8: an accepted access is carried out by `windowRead` or `windowWrite`, which for an address that decodes to no register
only note it, and the note changes GLB_ELOG_UNDEC and GLB_ELOG_ADDR alone. -/
theorem undecodedAccesses : Obligations.UndecodedAccesses := by
  unfold Obligations.UndecodedAccesses
  refine ⟨fun s l a v tag hl ha hb hd => ⟨?_, ?_⟩, fun s a wr l => ?_⟩
  · rw [exec_winRd, opWinRd_accepted tag hl ha hb, windowRead_undecoded s l hd]
  · rw [exec_winWr, opWinWr_accepted v tag hl ha hb, windowWrite_undecoded _ l v hd]
  · obtain ⟨hregs, hrest⟩ := noteAccess_onlyRegs s a wr l
    exact ⟨getF_undecoded_noteAccess s a wr l, hregs, hrest⟩

end Sys2Proof.Machine
end

section
/-! PROOFS. The conversion of a NaN (R105). -/
namespace Sys2Proof.Machine

theorem convert_nan_of_fmtNan_eq_some {f b : Nat} (m : RMode) (sat : Bool) (h : fmtNan f = some b) :
    convert f m sat .nan = (b, flNone) := by
  simp only [convert, h]

theorem convert_nan_of_fmtNan_eq_none {f : Nat} (m : RMode) (sat : Bool) (h : fmtNan f = none) :
    convert f m sat .nan = (0, flNanLost) := by
  simp only [convert, h]

/-- The formats without a NaN: E3M2, E2M3, E2M1, INT8 and INT32 (R72, R88). -/
theorem fmtNan_eq_none : ∀ f ∈ [5, 6, 7, 8, 9], fmtNan f = none := by decide

/-- NAN_LOST is bit 2 of TIL_FLAGS and stands alone (R113). -/
theorem getLsbD_flNanLost (b : Nat) : flNanLost.getLsbD b = decide (b = 2) := by
  have hbit : flNanLost = BitVec.twoPow 4 2 := rfl
  rw [hbit, BitVec.getLsbD_twoPow]
  simp [eq_comm]

/-- Settles O7: the conversion of a NaN looks at the format alone, at whether `fmtNan` gives it a canonical NaN. -/
theorem nanConversion : Obligations.NanConversion := by
  unfold Obligations.NanConversion
  intro m sat
  constructor
  · have hcanon {f b : Nat} (h : fmtNan f = some b) : convert f m sat .nan = (b, 0) :=
      convert_nan_of_fmtNan_eq_some m sat h
    exact ⟨hcanon rfl, hcanon rfl, hcanon rfl, hcanon rfl, hcanon rfl⟩
  · intro f hf
    rw [convert_nan_of_fmtNan_eq_none m sat (fmtNan_eq_none f hf)]
    exact ⟨rfl, (getLsbD_flNanLost 2).trans (decide_eq_true rfl),
      fun b hb => (getLsbD_flNanLost b).trans (decide_eq_false hb)⟩

end Sys2Proof.Machine
end

section
/-! PROOFS. The step of the module: what every command and every tick keeps. -/
namespace Sys2Proof.Machine

/-! ### Commands -/

/-- The outcome of a command in state `s` is a next state that the command's step keeps (Laws/Kept.lean). -/
def NextKept (s : State) (o : Host.Outcome State Fault Refusal) : Prop := ∃ t, o = .next t ∧ Kept s t

theorem next_keeps {s t : State} (h : Kept s t) : NextKept s (.next t) := ⟨t, rfl, h⟩

/-- An op of a tile keeps what its body keeps wherever the body ends. -/
theorem op_keeps {s : State} {t : TileId} {w : Word} {op : Nat} {body : TileM OpEnd} (hb : KeepsM body) :
    NextKept s (.next (runOp t w op body s)) := next_keeps (runOp_kept (Kept.refl s) hb)

/-- Every command but COLD_START, by its own law. -/
theorem exec_keeps {c : Instr} (s : State) (hc : ∀ b, c ≠ .coldStart b) : NextKept s (exec c s) := by
  cases c with
  | nop _ _ => exact op_keeps opNop_kept
  | ldi _ _ => exact op_keeps opLdi_kept
  | addi _ _ => exact op_keeps opAddi_kept
  | mov _ _ => exact op_keeps opMov_kept
  | fill _ _ => exact op_keeps opFill_kept
  | cvt _ _ => exact op_keeps opCvt_kept
  | mm _ _ _ => exact op_keeps opMm_kept
  | drain _ _ => exact op_keeps opDrain_kept
  | drainr _ _ => exact op_keeps opDrainr_kept
  | draint _ _ => exact op_keeps opDraint_kept
  | accld _ _ => exact op_keeps opAccld_kept
  | accst _ _ => exact op_keeps opAccst_kept
  | vbin _ _ => exact op_keeps opVbin_kept
  | vfma _ _ => exact op_keeps opVfma_kept
  | vfn _ _ => exact op_keeps opVfn_kept
  | vred _ _ => exact op_keeps opVred_kept
  | vscan _ _ => exact op_keeps opVscan_kept
  | vquant _ _ => exact op_keeps opVquant_kept
  | spmm _ _ _ => exact op_keeps opSpmm_kept
  | bmap _ _ => exact op_keeps opBmap_kept
  | bpred _ _ => exact op_keeps opBpred_kept
  | compact _ _ => exact op_keeps opCompact_kept
  | expand _ _ => exact op_keeps opExpand_kept
  | feed _ _ => exact next_keeps (runFeed_kept (Kept.refl s))
  | send _ _ => exact op_keeps opSend_kept
  | recv _ _ => exact op_keeps opRecv_kept
  | tswap _ _ => exact op_keeps opTswap_kept
  | trel _ _ => exact op_keeps opTrel_kept
  | rget _ _ => exact op_keeps opRget_kept
  | rput _ _ => exact op_keeps opRput_kept
  | fence _ _ => exact op_keeps opFence_kept
  | evsig _ _ => exact op_keeps opEvsig_kept
  | evwait _ _ => exact op_keeps opEvwait_kept
  | loop _ _ => exact op_keeps opLoop_kept
  | hoist _ _ => exact op_keeps opHoist_kept
  | halt _ _ => exact op_keeps opHalt_kept
  | rinit _ _ => exact op_keeps opRinit_kept
  | rbits _ _ => exact op_keeps opRbits_kept
  | runif _ _ => exact op_keeps opRunif_kept
  | rsr _ _ => exact op_keeps opRsr_kept
  | stopk _ _ => exact op_keeps opStopk_kept
  | sput _ _ => exact op_keeps opSput_kept
  | sget _ _ => exact op_keeps opSget_kept
  | hangTimerExpiry _ => exact next_keeps (opHang_kept (Kept.refl s))
  | flitReceive _ _ _ _ => exact next_keeps (opFlit_kept (Kept.refl s))
  | staticRouteForward _ _ _ => exact next_keeps (opStatic_kept (Kept.refl s))
  | coordinateRouteForward _ _ _ => exact next_keeps (opCoord_kept (Kept.refl s))
  | streamPacketAccept _ _ => exact next_keeps (opStreamAccept_kept (Kept.refl s))
  | recvTimeout _ => exact next_keeps (opRecvTimeout_kept (Kept.refl s))
  | tswapTimeout _ => exact next_keeps (opTswapTimeout_kept (Kept.refl s))
  | hoistTimeout _ => exact next_keeps (opHoistTimeout_kept (Kept.refl s))
  | pourPacketLand _ _ => exact next_keeps (opPourLand_kept (Kept.refl s))
  | eventIncrementTile _ _ => exact next_keeps (opEventTile_kept (Kept.refl s))
  | remoteReadRequest _ _ => exact next_keeps (opRemoteRead_kept (Kept.refl s))
  | remoteWriteRequest _ _ => exact next_keeps (opRemoteWrite_kept (Kept.refl s))
  | readResponseReceive _ _ => exact next_keeps (opReadResponse_kept (Kept.refl s))
  | poisonNotice _ => exact next_keeps (opPoisonNotice_kept (Kept.refl s))
  | fencePacket _ => exact next_keeps (opFencePacket_kept (Kept.refl s))
  | tilCtrlRun _ _ => exact next_keeps (opTilRun_kept (Kept.refl s))
  | tilCtrlQuiesce _ _ => exact next_keeps (opTilQuiesce_kept (Kept.refl s))
  | quiesceComplete _ => exact next_keeps (opQuiesceComplete_kept (Kept.refl s))
  | tilCtrlReset _ => exact next_keeps (opTilReset_kept (Kept.refl s))
  | tilResend _ _ => exact next_keeps (opResend_kept (Kept.refl s))
  | registerWrite _ _ => exact next_keeps (opRegWrite_kept (Kept.refl s))
  | undecodedAccess _ _ _ => exact next_keeps (opUndecoded_kept (Kept.refl s))
  | glbCqTailWrite _ _ => exact next_keeps (opTail_kept (Kept.refl s))
  | glbCqCheadWrite _ _ => exact next_keeps (opChead_kept (Kept.refl s))
  | cqRestart _ => exact next_keeps (opRestart_kept (Kept.refl s))
  | glbEvcAdd _ _ => exact next_keeps (addEvc_kept (Kept.refl s))
  | glbEvrHeadWrite _ => exact next_keeps (opEvrHead_kept (Kept.refl s))
  | commandFetch _ => exact next_keeps (opFetch_kept (Kept.refl s))
  | commandStart _ => exact next_keeps (opStart_kept (Kept.refl s))
  | waitTimeout _ => exact next_keeps (opWaitTimeout_kept (Kept.refl s))
  | nopCommand _ _ => exact next_keeps (opNopCommand_kept (Kept.refl s))
  | evadd _ _ => exact next_keeps (opEvadd_kept (Kept.refl s))
  | cmdRun _ _ => exact next_keeps (opRun_kept (Kept.refl s))
  | cmdRequest _ _ => exact next_keeps (opRequest_kept (Kept.refl s))
  | requestAdmission _ => exact next_keeps (opAdmit_kept (Kept.refl s))
  | cmdPour _ _ => exact next_keeps (opPour_kept (Kept.refl s))
  | descriptorRead _ _ => exact next_keeps (opDescRead_kept (Kept.refl s))
  | pourStart _ _ => exact next_keeps (opPourStart_kept (Kept.refl s))
  | chunkIssue _ _ => exact next_keeps (opChunkIssue_kept (Kept.refl s))
  | pourComplete _ _ => exact next_keeps (opPourComplete_kept (Kept.refl s))
  | deadlineMiss _ _ => exact next_keeps (opDeadlineMiss_kept (Kept.refl s))
  | stkPourStopGo _ _ => exact next_keeps (opPourStop_kept (Kept.refl s))
  | glbMarkClear _ => exact next_keeps (opMarkClear_kept (Kept.refl s))
  | eventIncrementReceive _ => exact next_keeps (opIncReceive_kept (Kept.refl s))
  | eventRecordReceive _ => exact next_keeps (opRecReceive_kept (Kept.refl s))
  | migrate _ _ => exact next_keeps (opMigrate_kept (Kept.refl s))
  | migFetch _ _ => exact next_keeps (opAction_kept (Kept.refl s))
  | migEvict _ _ => exact next_keeps (opAction_kept (Kept.refl s))
  | moveHome _ _ => exact next_keeps (opAction_kept (Kept.refl s))
  | replicate _ _ => exact next_keeps (opAction_kept (Kept.refl s))
  | dropRepl _ _ => exact next_keeps (opAction_kept (Kept.refl s))
  | migAssign _ _ => exact next_keeps (opAction_kept (Kept.refl s))
  | unmap _ _ => exact next_keeps (opAction_kept (Kept.refl s))
  | writeback _ _ => exact next_keeps (opWriteback_kept (Kept.refl s))
  | pageCopySwitch _ _ => exact next_keeps (opCopySwitch_kept (Kept.refl s))
  | entryChange _ => exact next_keeps (opEntryChange_kept (Kept.refl s))
  | entryInvalidation _ _ => exact next_keeps (opInvalidation_kept (Kept.refl s))
  | glbPtIndexWrite _ => exact next_keeps (opPtIndex_kept (Kept.refl s))
  | ptSnapshot => exact next_keeps (opSnapshot_kept (Kept.refl s))
  | saturationWindowEnd _ _ => exact next_keeps (opWindowEnd_kept (Kept.refl s))
  | adderCombine _ => exact next_keeps (opAdderCombine_kept (Kept.refl s))
  | adderBlockReceive _ _ => exact next_keeps (opAdderReceive_kept (Kept.refl s))
  | reduceScatter _ _ => exact next_keeps (opColl_kept (Kept.refl s))
  | allGather _ _ => exact next_keeps (opColl_kept (Kept.refl s))
  | broadcast _ _ => exact next_keeps (opColl_kept (Kept.refl s))
  | pennantData _ => exact next_keeps (opData_kept (Kept.refl s))
  | pennantAck _ => exact next_keeps (opAck_kept (Kept.refl s))
  | pennantQuery _ => exact next_keeps (opQuery_kept (Kept.refl s))
  | pennantState _ => exact next_keeps (opState_kept (Kept.refl s))
  | pennantJoin _ => exact next_keeps (opJoin_kept (Kept.refl s))
  | reformReq _ => exact next_keeps (opReformReq_kept (Kept.refl s))
  | reform _ => exact next_keeps (opReform_kept (Kept.refl s))
  | pennantAbort _ => exact next_keeps (opAbort_kept (Kept.refl s))
  | pennantDone _ => exact next_keeps (opDone_kept (Kept.refl s))
  | pennantFinish _ => exact next_keeps (opFinish_kept (Kept.refl s))
  | queryTimerExpiry _ => exact next_keeps (opQueryTimer_kept (Kept.refl s))
  | collectiveTimeout _ => exact next_keeps (opCollTimeout_kept (Kept.refl s))
  | hopTimeout _ => exact next_keeps (opHopTimeout_kept (Kept.refl s))
  | groupTimeout _ => exact next_keeps (opGroupTimeout_kept (Kept.refl s))
  | settleTimeExpiry _ => exact next_keeps (opSettle_kept (Kept.refl s))
  | reformReqTimeout _ => exact next_keeps (opReqTimeout_kept (Kept.refl s))
  | abortEntryExpiry _ => exact next_keeps (opAbortExpiry_kept (Kept.refl s))
  | sampleHeaderReceive _ _ => exact next_keeps (opSampleHeader_kept (Kept.refl s))
  | sampleResultReceive _ _ => exact next_keeps (opSampleResult_kept (Kept.refl s))
  | sessionTimeout _ _ => exact next_keeps (opSessionTimeout_kept (Kept.refl s))
  | sgetTimeout _ => exact next_keeps (opSgetTimeout_kept (Kept.refl s))
  | tileFettlerLine _ _ _ => exact next_keeps (opTileFettler_kept (Kept.refl s))
  | stackFettlerGranule _ _ _ _ _ => exact next_keeps (opStackFettler_kept (Kept.refl s))
  | stackRead _ _ _ _ _ => exact next_keeps (opStackRead_kept (Kept.refl s))
  | repairListAppend => exact next_keeps (opRepairAppend_kept (Kept.refl s))
  | incidentHandoff => exact next_keeps (opHandoff_kept (Kept.refl s))
  | automaticRecovery _ => exact next_keeps (opAuto_kept (Kept.refl s))
  | retestComplete _ => exact next_keeps (opRetest_kept (Kept.refl s))
  | columnRetire _ => exact next_keeps (opRetire_kept (Kept.refl s))
  | incidentClose => exact next_keeps (opIncClose_kept (Kept.refl s))
  | recClose => exact next_keeps (opClose_kept (Kept.refl s))
  | ctxSave _ _ _ => exact next_keeps (opCtxSave_kept (Kept.refl s))
  | ctxRestore _ _ => exact next_keeps (opCtxRestore_kept (Kept.refl s))
  | fieldLoss _ _ => exact next_keeps (opFieldLoss_kept (Kept.refl s))
  | clockSourceLost _ => exact next_keeps (opClock_kept (Kept.refl s))
  | broisBothLost => exact next_keeps (opBothLost_kept (Kept.refl s))
  | cfgStageGo _ => exact next_keeps (opStageCtrl_kept (Kept.refl s))
  | cfgStageAbort => exact next_keeps (opStageAbort_kept (Kept.refl s))
  | stagingComplete => exact next_keeps (opStaged_kept (Kept.refl s))
  | cfgAdopt _ => exact next_keeps (opAdopt_kept (Kept.refl s))
  | cfgCommit _ _ => exact next_keeps (opCommit_kept (Kept.refl s))
  | patch _ _ => exact next_keeps (opPatch_kept (Kept.refl s))
  | imgLoad _ _ => exact next_keeps (opLoad_kept (Kept.refl s))
  | imgApply _ _ => exact next_keeps (opApply_kept (Kept.refl s))
  | imgUnload _ _ => exact next_keeps (opUnload_kept (Kept.refl s))
  | inputQualified => exact next_keeps (opQualified_kept (Kept.refl s))
  | coldStart b => exact absurd rfl (hc b)
  | stageA _ _ => exact next_keeps (opStageA_kept (Kept.refl s))
  | stageB _ _ => exact next_keeps (opStageB_kept (Kept.refl s))
  | resetArm => exact next_keeps (opArm_kept (Kept.refl s))
  | resetWarm => exact next_keeps (opWarm_kept (Kept.refl s))
  | resetCold => exact next_keeps (opCold_kept (Kept.refl s))
  | fldResetGo _ => exact next_keeps (opFieldReset_kept (Kept.refl s))
  | glbTresetGo _ => exact next_keeps (opTreset_kept (Kept.refl s))
  | prtPortResetGo _ => exact next_keeps (opPortReset_kept (Kept.refl s))
  | winRd _ _ _ _ => exact next_keeps (opWinRd_kept (Kept.refl s))
  | winWr _ _ _ _ _ _ => exact next_keeps (opWinWr_kept (Kept.refl s))
  | memRdata _ _ _ => exact next_keeps (opMemRdata_kept (Kept.refl s))
  | memAck _ _ => exact next_keeps (opMemAck_kept (Kept.refl s))
  | broisFlitReceive _ _ _ _ => exact next_keeps (opBroisFlit_kept (Kept.refl s))
  | broisReplayTimeout _ => exact next_keeps (opReplayTimeout_kept (Kept.refl s))
  | broisRetrain _ => exact next_keeps (opRetrain_kept (Kept.refl s))
  | broisRecover _ _ => exact next_keeps (opRecover_kept (Kept.refl s))
  | broisLinkLoss _ => exact next_keeps (opLinkLoss_kept (Kept.refl s))
  | broisTraining _ _ _ => exact next_keeps (opBroisTraining_kept (Kept.refl s))
  | edgePortTraining _ _ => exact next_keeps (opPortTraining_kept (Kept.refl s))
  | edgePortDown _ _ _ => exact next_keeps (opPortDown_kept (Kept.refl s))
  | cstWrite _ _ => exact next_keeps (opPeerRequest_kept (Kept.refl s))
  | readReq _ _ => exact next_keeps (opPeerRequest_kept (Kept.refl s))
  | readResp _ _ => exact next_keeps (opReadResp_kept (Kept.refl s))
  | cstAck _ _ => exact next_keeps (opCstAck_kept (Kept.refl s))
  | nak _ _ => exact next_keeps (opNak_kept (Kept.refl s))
  | cnp _ _ => exact next_keeps (opCnp_kept (Kept.refl s))
  | coll _ _ => exact next_keeps (opCollPkt_kept (Kept.refl s))
  | rtoExpiry _ => exact next_keeps (opRto_kept (Kept.refl s))
  | ackTimerExpiry _ => exact next_keeps (opAckTimer_kept (Kept.refl s))
  | rateRaise _ => exact next_keeps (opRateRaise_kept (Kept.refl s))
  | connOpen _ => exact next_keeps (opOpen_kept (Kept.refl s))
  | connClose _ => exact next_keeps (opCloseConn_kept (Kept.refl s))
  | inval => exact next_keeps (opInval_kept (Kept.refl s))
  | roceResponse _ _ => exact next_keeps (opRoceResponse_kept (Kept.refl s))
  | roceInboundRequest _ _ => exact next_keeps (opRoceInbound_kept (Kept.refl s))
  | surfacePacketReceive _ _ _ => exact next_keeps (opSurfaceReceive_kept (Kept.refl s))
  | rxInject _ _ => exact next_keeps (opRxInject_kept (Kept.refl s))
  | sublinkTraining _ _ _ _ => exact next_keeps (opSubTraining_kept (Kept.refl s))
  | sublinkLoss _ _ => exact next_keeps (opSubLoss_kept (Kept.refl s))
  | returnLossMeasure _ _ => exact next_keeps (opReturnLoss_kept (Kept.refl s))
  | optNow _ _ => exact next_keeps (opNow_kept (Kept.refl s))
  | telemetrySample _ => exact next_keeps (opTelemetry_kept (Kept.refl s))
  | supplyStageChange => exact next_keeps (opStage_kept (Kept.refl s))
  | heatRestore _ => exact next_keeps (opHeatRestore_kept (Kept.refl s))
  | coolantLimit => exact next_keeps (opCoolant_kept (Kept.refl s))
  | lastBreath _ => exact next_keeps (opLastBreath_kept (Kept.refl s))
  | gaugeSweep _ _ => exact next_keeps (opGauge_kept (Kept.refl s))
  | fieldPlan _ => exact next_keeps (opPlan_kept (Kept.refl s))
  | firstPlan _ => exact next_keeps (opFirstPlan_kept (Kept.refl s))
  | ledgerSnapshot _ => exact next_keeps (opSnap_kept (Kept.refl s))
  | lifSnapNow => exact next_keeps (opSnapNow_kept (Kept.refl s))
  | lifCalendarWrite _ => exact next_keeps (opCalendar_kept (Kept.refl s))
  | thermalBandCount _ => exact next_keeps (opBand_kept (Kept.refl s))
  | refAFailure => exact next_keeps (opRefA_kept (Kept.refl s))
  | crescentOrPortComplexFailure _ => exact next_keeps (opUnitFailure_kept (Kept.refl s))
  | pfcFrameReceive _ _ _ => exact next_keeps (opPfc_kept (Kept.refl s))
  | arpRequest _ _ _ => exact next_keeps (opArp_kept (Kept.refl s))
  | roceAckTimeout _ => exact next_keeps (opRoceTimeout_kept (Kept.refl s))

/-! ### COLD_START -/

/-- A step from `s` to `t` leaves the queue and the clock alone and keeps a state sound. -/
def SoundKept (s t : State) : Prop := t.pending = s.pending ∧ t.now = s.now ∧ (s.Sound → t.Sound)

theorem Kept.soundKept {s t : State} (h : Kept s t) : SoundKept s t := by
  obtain ⟨hp, hn, -, hs⟩ := h
  exact ⟨hp, hn, hs⟩

theorem SoundKept.then {s t u : State} (h : SoundKept s t) (k : Kept t u) : SoundKept s u := by
  obtain ⟨hp, hn, hs⟩ := h
  obtain ⟨kp, kn, -, ks⟩ := k
  exact ⟨kp.trans hp, kn.trans hn, fun c => ks (hs c)⟩

/-- The flash changes alone. -/
theorem soundKept_flash (s : State) (x : Flash) : SoundKept s { s with power := { s.power with flash := x } } := ⟨rfl, rfl, id⟩

/-- The counters start at the present moment (R42). -/
theorem soundKept_upSince (s : State) : SoundKept s { s with upSince := s.now } :=
  ⟨rfl, rfl, fun ⟨hc, _⟩ => ⟨hc, Nat.le_refl s.now⟩⟩

theorem startHousekeeping_soundKept (s : State) : SoundKept s (startHousekeeping s) := by
  have hclear : SoundKept s (coldClear s) := (coldClear_kept (Kept.refl s)).soundKept
  obtain ⟨hp, hn, hs⟩ := hclear
  obtain ⟨kp, kn, ks⟩ := soundKept_upSince (coldClear s)
  have hup : SoundKept s { coldClear s with upSince := (coldClear s).now } := ⟨kp.trans hp, kn.trans hn, fun c => ks (hs c)⟩
  exact hup.then (setF_kept (setI_kept (setI_kept (startLedger_kept (Kept.refl _)))))

theorem chooseFrame_soundKept (s : State) : SoundKept s (chooseFrame s).2 := by
  unfold chooseFrame
  dsimp only
  split
  · split
    · exact (setF_kept (Kept.refl s)).soundKept
    · exact (soundKept_flash s _).then (setF_kept (Kept.refl _))
  · split
    · dsimp only
      split
      · exact (soundKept_flash s _).then (setF_kept (Kept.refl _))
      · exact (soundKept_flash s _).then (sendRec_kept (setF_kept (Kept.refl _)))
    · exact (Kept.refl s).soundKept
  · exact (soundKept_flash s _).then (setF_kept (Kept.refl _))
  · exact (sendRec_kept (Kept.refl s)).soundKept

/-- The end of a cold start's work. -/
theorem powerStart_kept {s₀ s : State} (b : Bool) (h : Kept s₀ s) : Kept s₀ { s with power := { s.power with start := b } } :=
  kept_power h rfl

theorem startFrame_soundKept (s : State) : SoundKept s (startFrame s) := by
  have hchoose := chooseFrame_soundKept s
  unfold startFrame
  dsimp only
  split
  · exact hchoose.then (powerStart_kept false (Kept.refl _))
  · refine hchoose.then (updateService_kept (powerStart_kept false (nameGauges_kept (setF_kept (setF_kept (setSplit_kept
      (kept_foldl (setF_kept (Kept.refl _)) fun t d h => ?_)))))))
    exact kept_ite (takeSection_kept h) (shadowSection_kept h)

theorem opColdStart_soundKept (bad : List CheckFail) (s : State) : SoundKept s (opColdStart bad s) := by
  have hsame : SoundKept s s := (Kept.refl s).soundKept
  unfold opColdStart
  split
  · exact hsame
  · split
    · exact startHousekeeping_soundKept s
    · exact (startCrescents_kept (Kept.refl s)).soundKept
    · split
      · obtain ⟨hp, hn, hs⟩ := startFrame_soundKept (setF s F.GLB_START_STAT_PHASE 0 3)
        obtain ⟨kp, kn, ks⟩ := (setF_kept (f := F.GLB_START_STAT_PHASE) (u := 0) (v := 3) (Kept.refl s)).soundKept
        exact ⟨hp.trans kp, hn.trans kn, fun c => hs (ks c)⟩
      · exact hsame
    · exact hsame

theorem exec_soundKept (c : Instr) (s : State) : ∃ t, exec c s = .next t ∧ SoundKept s t := by
  by_cases hc : ∃ b, c = .coldStart b
  · obtain ⟨b, rfl⟩ := hc
    exact ⟨_, rfl, opColdStart_soundKept b s⟩
  · obtain ⟨t, ht, hk⟩ := exec_keeps s (fun b hb => hc ⟨b, hb⟩)
    exact ⟨t, ht, hk.soundKept⟩

/-! ### Ticks -/

/-- All of a tick but the passing of time is of the kind that commands are. -/
theorem tick_kept (s : State) : Kept { s with now := s.now + 1 } (tick s) := by
  unfold tick
  exact showSeconds_kept (kept_foldl (applyStretch_kept (stampBlocks_kept (countStalls_kept (drainPorts_kept
    (clocks_kept (Kept.refl _)))))) fun _ _ h => pfcCheck_kept h)

theorem tick_sound {s : State} (h : s.Sound) : (tick s).Sound := by
  obtain ⟨-, -, -, hs⟩ := tick_kept s
  obtain ⟨hc, hu⟩ := h
  exact hs ⟨hc, Nat.le_succ_of_le hu⟩

theorem step_tick {s : State} (h : s.pending = []) : step s = .next (tick s) := by
  unfold step
  rw [h]

theorem step_exec {s : State} {c : Instr} {cs : List Instr} (h : s.pending = c :: cs) :
    step s = exec c { s with pending := cs } := by
  unfold step
  rw [h]

/-- Settles O4: a tick keeps a sound state (`tick_sound`), and so does every command (`exec_soundKept`). -/
theorem stepKeepsSound : Obligations.StepKeepsSound := by
  unfold Obligations.StepKeepsSound
  intro s t hs ht
  cases hp : s.pending with
  | nil =>
    rw [step_tick hp] at ht
    cases ht
    exact tick_sound hs
  | cons c cs =>
    rw [step_exec hp] at ht
    obtain ⟨u, hu, -, -, hk⟩ := exec_soundKept c { s with pending := cs }
    rw [hu] at ht
    cases ht
    exact hk hs

/-- Settles O6: the laws of the commands but COLD_START, and that of the tick, keep the active frame slot. -/
theorem onlyColdStartChangesActiveFrame : Obligations.OnlyColdStartChangesActiveFrame := by
  unfold Obligations.OnlyColdStartChangesActiveFrame
  constructor
  · intro c s t hc ht
    obtain ⟨u, hu, -, -, hactive, -⟩ := exec_keeps s hc
    rw [hu] at ht
    cases ht
    exact hactive
  · intro s t hp ht
    rw [step_tick hp] at ht
    cases ht
    obtain ⟨-, -, hactive, -⟩ := tick_kept s
    exact hactive

/-- Settles O5: `exec_soundKept` gives the next state, whose queue and clock are as before. -/
theorem everyCommandAnswersNext : Obligations.EveryCommandAnswersNext := by
  unfold Obligations.EveryCommandAnswersNext
  intro c s
  obtain ⟨t, ht, hp, hn, -⟩ := exec_soundKept c s
  exact ⟨t, ht, hp, hn⟩

/-- Settles O1: the queue's front is matched away. -/
theorem stepRunsFrontCommand : Obligations.StepRunsFrontCommand := by
  unfold Obligations.StepRunsFrontCommand
  intro c s
  exact step_exec rfl

end Sys2Proof.Machine
end

section
/-! PROOFS. What one tick of the time base leaves alone, and the state before power-on. -/
namespace Sys2Proof.Machine

/-! ### Ticks -/

/-- From `s` to `t` the tiles, the crescents' memory and the command queues have not changed. -/
def StoresKept (s t : State) : Prop := t.tiles = s.tiles ∧ t.tiers.mem = s.tiers.mem ∧ t.cmd.queues = s.cmd.queues

theorem StoresKept.refl (s : State) : StoresKept s s := ⟨rfl, rfl, rfl⟩

theorem StoresKept.trans {s t u : State} (h : StoresKept s t) (k : StoresKept t u) : StoresKept s u := by
  obtain ⟨ht, hm, hq⟩ := h
  obtain ⟨kt, km, kq⟩ := k
  exact ⟨kt.trans ht, km.trans hm, kq.trans hq⟩

theorem storesKept_foldl {α : Type} {f : State → α → State} (hf : ∀ s x, StoresKept s (f s x)) (l : List α) (s : State) :
    StoresKept s (l.foldl f s) :=
  foldl_keeps (P := StoresKept s) l (StoresKept.refl s) fun _ x h => h.trans (hf _ x)

theorem storesKept_setF (s : State) (f : Fld) (u v : Nat) : StoresKept s (setF s f u v) := ⟨rfl, rfl, rfl⟩

theorem storesKept_drainPorts (s : State) : StoresKept s (drainPorts s) := ⟨rfl, rfl, rfl⟩

theorem storesKept_countStalls (s : State) : StoresKept s (countStalls s) := by
  refine storesKept_foldl (fun s c => ?_) _ s
  split
  · exact StoresKept.refl s
  · refine storesKept_foldl (fun s t => ?_) _ s
    split
    · exact ⟨rfl, rfl, rfl⟩
    · exact StoresKept.refl s

theorem storesKept_stampBlocks (s : State) : StoresKept s (stampBlocks s) := by
  refine storesKept_foldl (fun s c => ?_) _ s
  split
  · exact ⟨rfl, rfl, rfl⟩
  · exact StoresKept.refl s

theorem storesKept_applyStretch (s : State) : StoresKept s (applyStretch s) :=
  StoresKept.trans (t := { s with power := { s.power with stretch := s.power.stretch.filter (fun x => s.now < x.1) } })
    ⟨rfl, rfl, rfl⟩ (storesKept_foldl (fun s _ => storesKept_foldl (fun s _ => storesKept_setF s _ _ _) _ s) _ _)

theorem storesKept_pfcCheck (s : State) (p : Nat) : StoresKept s (pfcCheck s p) := by
  unfold pfcCheck
  dsimp only
  split
  · exact StoresKept.refl s
  · split
    · exact ⟨rfl, rfl, rfl⟩
    · split
      · exact ⟨rfl, rfl, rfl⟩
      · exact StoresKept.refl s

theorem storesKept_showSeconds (s : State) : StoresKept s (showSeconds s) := by
  unfold showSeconds
  split
  · exact storesKept_setF s _ _ _
  · exact StoresKept.refl s

/-- In a tick the clocks of the fields alone reach the tiles. -/
theorem storesKept_tick (s : State) : StoresKept (clocks { s with now := s.now + 1 }) (tick s) :=
  (((((storesKept_drainPorts _).trans (storesKept_countStalls _)).trans (storesKept_stampBlocks _)).trans
    (storesKept_applyStretch _)).trans (storesKept_foldl storesKept_pfcCheck _ _)).trans (storesKept_showSeconds _)

/-! ### Clocks (R400) -/

theorem shiftTimers_zero (t : Tile) : shiftTimers (· + 0) t = t := by
  cases t with
  | mk => simp [shiftTimers]

theorem shiftTimers_add (t : Tile) (c d : Nat) : shiftTimers (· + d) (shiftTimers (· + c) t) = shiftTimers (· + (c + d)) t := by
  simp [shiftTimers, Function.comp_def, Nat.add_assoc]

/-- Every tile but for a shift of its timers, the crescents' memory and the command queues are as before. -/
def TimersShifted (s t : State) : Prop :=
  (∀ g, ∃ d, tileOf t g = shiftTimers (· + d) (tileOf s g)) ∧ t.tiers.mem = s.tiers.mem ∧ t.cmd.queues = s.cmd.queues

theorem StoresKept.timersShifted {s t : State} (h : StoresKept s t) : TimersShifted s t := by
  obtain ⟨ht, hm, hq⟩ := h
  refine ⟨fun g => ⟨0, ?_⟩, hm, hq⟩
  rw [shiftTimers_zero]
  simp [tileOf, ht]

theorem TimersShifted.trans {s t u : State} (h : TimersShifted s t) (k : TimersShifted t u) : TimersShifted s u := by
  obtain ⟨ht, hm, hq⟩ := h
  obtain ⟨kt, km, kq⟩ := k
  refine ⟨fun g => ?_, km.trans hm, kq.trans hq⟩
  obtain ⟨c, hc⟩ := ht g
  obtain ⟨d, hd⟩ := kt g
  exact ⟨c + d, by rw [hd, hc, shiftTimers_add]⟩

theorem find_map_val {α : Type} (f : Nat → α → α) (m : Assoc α) (k : Nat) :
    find (m.map fun e => (e.1, f e.1 e.2)) k = (find m k).map (f k) := by
  induction m with
  | nil => rfl
  | cons e m ih =>
    obtain ⟨j, v⟩ := e
    simp only [List.map_cons, find]
    split
    · next hk => rw [hk]; rfl
    · exact ih

/-- The tile of address `g` after a switch of the clock of the fields `near` (R400). -/
def relocked (near : List Nat) (g : Nat) (t : Tile) : Tile := if near.contains (g / 700) then shiftTimers (· + 20000) t else t

theorem relocked_shifts (near : List Nat) (g : Nat) (t : Tile) : ∃ d, relocked near g t = shiftTimers (· + d) t := by
  unfold relocked
  split
  · exact ⟨20000, rfl⟩
  · exact ⟨0, (shiftTimers_zero t).symm⟩

theorem find_relocked (near : List Nat) (m : Assoc Tile) (g : Nat) :
    find (m.map fun e => if near.contains (e.1 / 700) then (e.1, shiftTimers (· + 20000) e.2) else e) g =
      (find m g).map (relocked near g) := by
  rw [← find_map_val]
  congr 1
  refine List.map_congr_left fun e _ => ?_
  unfold relocked
  split <;> rfl

theorem timersShifted_switchClock (s : State) (f : Nat) : TimersShifted s (switchClock s f) := by
  unfold switchClock
  split
  · exact (StoresKept.refl s).timersShifted
  · refine ⟨fun g => ?_, rfl, rfl⟩
    dsimp only
    rw [tileOf_sendRec, tileOf_countF, tileOf_setF, tileOf_setF, tileOf_setF]
    unfold tileOf getD
    dsimp only
    rw [find_relocked]
    cases find s.tiles g with
    | none => exact ⟨0, (shiftTimers_zero _).symm⟩
    | some t => exact relocked_shifts _ g t

/-- The locks that a tick shows. -/
theorem storesKept_locks (l : Assoc Nat) (s : State) :
    StoresKept s (l.foldl (fun s e => setF s F.FLD_CLK_LOCKED e.1 1) s) :=
  storesKept_foldl (fun s _ => storesKept_setF s _ _ _) l s

theorem timersShifted_clocks (s : State) : TimersShifted s (clocks s) := by
  unfold clocks
  refine foldl_keeps (P := TimersShifted s) _ ?_ fun t e h => h.trans (timersShifted_switchClock t e.1)
  exact (StoresKept.trans ⟨rfl, rfl, rfl⟩ (storesKept_locks _ _)).timersShifted

theorem storesKept_clocks {s : State} (h : ∀ e ∈ s.recov.holdover, s.now < e.2) : StoresKept s (clocks s) := by
  have hdue : s.recov.holdover.filter (fun e => e.2 ≤ s.now) = [] :=
    List.filter_eq_nil_iff.2 fun e he => by simpa using h e he
  unfold clocks
  dsimp only
  rw [hdue]
  exact StoresKept.trans ⟨rfl, rfl, rfl⟩ (storesKept_locks _ _)

/-- Settles O2: beside the clocks a tick keeps tiles, memory and queues (`storesKept_tick`), and the clocks but shift timers. -/
theorem emptyQueueTicks : Obligations.EmptyQueueTicks := by
  unfold Obligations.EmptyQueueTicks
  intro s hp
  obtain ⟨kp, kn, ka, -⟩ := tick_kept s
  have hnow : TimersShifted s { s with now := s.now + 1 } := StoresKept.timersShifted ⟨rfl, rfl, rfl⟩
  obtain ⟨ht, hm, hq⟩ := (hnow.trans (timersShifted_clocks _)).trans (storesKept_tick s).timersShifted
  refine ⟨tick s, step_tick hp, kn, kp.trans hp, ht, fun hold => ?_, hm, ka, hq⟩
  obtain ⟨hc, -, -⟩ := storesKept_clocks (s := { s with now := s.now + 1 }) hold
  obtain ⟨hk, -, -⟩ := storesKept_tick s
  exact hk.trans hc

/-! ### Before power-on -/

theorem rdReg_reset (r : RegName) (u i : Nat) : rdReg State.reset r u i = resetWord r i := rfl

theorem getI_reset (f : Fld) (u i : Nat) : getI State.reset f u i = getBits (resetWord f.reg i) f.lo f.w := rfl

theorem getF_reset (f : Fld) (u : Nat) : getF State.reset f u = getBits (resetWord f.reg 0) f.lo f.w := rfl

/-- The queues' registers are alike: their reset words do not depend on the index. -/
theorem getI_reset_eq {f : Fld} (u i : Nat) (h : resetWord f.reg i = resetWord f.reg 0) :
    getI State.reset f u i = getBits (resetWord f.reg 0) f.lo f.w := by rw [getI_reset, h]

/-- Settles O3: nothing is listed before power-on, so every register reads as its table gives it. -/
theorem resetState : Obligations.ResetState := by
  unfold Obligations.ResetState
  refine ⟨⟨⟨rfl, rfl, fun _ h => by cases h⟩, Nat.le_refl 0⟩, rfl, rfl, rdReg_reset, fun _ _ => rfl, fun g => ⟨?_, ?_⟩,
    fun n => ⟨?_, ?_, ?_⟩, ?_, ?_, rfl, rfl⟩
  · rw [getF_reset]; decide
  · rw [getF_reset]; decide
  · rw [getI_reset_eq 0 n rfl]; decide
  · rw [getI_reset_eq 0 n rfl]; decide
  · rw [getI_reset_eq 0 n rfl]; decide
  · rw [getF_reset]; decide
  · rw [getF_reset]; decide

end Sys2Proof.Machine
end

section
/-! PROOFS. The ops of the MOVE class and the drains of the array. -/
namespace Sys2Proof.Machine

/-! ### How an op of a quiet tile retires -/

/-- A quiet tile in the state in which an op is carried out. -/
theorem at_issued {s : State} {g : Nat} (w : Word) (q : Quiet s g) : At g (issued s g w) (tileOf (issued s g w) g) :=
  ⟨quiet_issued q, rfl⟩

/-- An op whose body runs on a quiet tile answers the state in which it has retired. -/
theorem Runs.ends {s : State} {t : TileId} {w : Word} {op : Nat} {body : TileM OpEnd} {tl : Tile} {fl : Flags} (hi : Issues s t w op)
    (h : Runs t.gid body (issued s t.gid w) .next tl fl) :
    ∃ u, (Host.Outcome.next (runOp t w op body s) : Host.Outcome State Fault Refusal) = .next u ∧
      Did (issued s t.gid w) u t.gid tl fl := ⟨_, rfl, h.did hi⟩

/-- A check `m` under a condition, after which the body goes on with `k` either way. -/
theorem Runs.guard {α : Type} {g : Nat} {m k : TileM α} {s : State} {a : α} {t t' : Tile} {fl : Flags} {c : Prop} [Decidable c]
    (q : At g s t) (hk : ∀ u, At g u t → Runs g k u a t' fl)
    (hm : c → (∀ u, At g u t → Runs g k u a t' fl) → Runs g m s a t' fl) : Runs g (if c then m else k) s a t' fl := by
  split
  · next hc => exact hm hc hk
  · exact hk s q

/-! ### The MOVE class -/

theorem opNop_runs {g : Nat} {w : Word} {s : State} {t : Tile} (q : At g s t) (hb : badS w = false) :
    Runs g (opNop w) s .next t 0 := by
  unfold opNop
  exact (faultIf_runs q hb).step fun u _ qu => Runs.pure qu _

theorem badReg_false {w : Word} (hb : badS w = false) (hk : wKind w = 2 → wD w ≤ 3) :
    (badS w || (wKind w == 2 && decide (3 < wD w))) = false := by
  simpa [hb] using hk

theorem opLdi_runs {g : Nat} {w : Word} {s : State} {t : Tile} (q : At g s t) (hb : badS w = false) (hk : wKind w = 2 → wD w ≤ 3) :
    Runs g (opLdi g w) s .next (withReg t (wKind w) (wD w) (wImm w)) 0 := by
  unfold opLdi
  exact (faultIf_runs q (badReg_false hb hk)).step fun u _ qu => (putReg_runs qu).step fun u _ qu => Runs.pure qu _

/-- A register reads alike in two states with the same tile. -/
theorem getReg_congr {s u : State} {g : Nat} (h : tileOf u g = tileOf s g) (kind reg : Nat) : getReg u g kind reg = getReg s g kind reg := by
  unfold getReg pAt sAt lAt eAt
  rw [h]

theorem opAddi_runs {g : Nat} {w : Word} {s : State} {t : Tile} (q : At g s t) (hb : badS w = false) (hk : wKind w = 2 → wD w ≤ 3) :
    Runs g (opAddi g w) s .next (withReg t (wKind w) (wD w) (addImm (wKind w) (getReg s g (wKind w) (wD w)) (wImm w))) 0 := by
  unfold opAddi
  refine (faultIf_runs q (badReg_false hb hk)).step fun u _ qu => (get_runs qu).step fun v _ qv => ?_
  rw [getReg_congr (qu.2.trans q.2.symm)]
  exact (putReg_runs qv).step fun u _ qu => Runs.pure qu _

theorem not_or_eq_false {a b : Bool} (h : a = true ∨ b = true) : (!(a || b)) = false := by
  rw [(Bool.or_eq_true a b).mpr h]
  rfl

theorem opMov_runs {g : Nat} {w : Word} {s : State} {t : Tile} (q : At g s t) (hb : badM w = false)
    (h : wCount w = 0 ∨ (inMem (ptr t (wA w)) (wCount w) ∨ inRiser (ptr t (wA w)) (wCount w)) ∧
      (inMem (ptr t (wD w)) (wCount w) ∨ inRiser (ptr t (wD w)) (wCount w))) :
    Runs g (opMov g w) s .next (if wCount w = 0 then t else
      let bs := if inMem (ptr t (wA w)) (wCount w) then tileBytes t (ptr t (wA w)) (wCount w) else riserRange t (ptr t (wA w)) (wCount w)
      if inMem (ptr t (wD w)) (wCount w) then stored t (ptr t (wD w)) bs else riserStored t (ptr t (wD w)) bs) 0 := by
  unfold opMov
  refine (faultIf_runs q hb).step fun u _ qu => ?_
  by_cases hn : wCount w = 0
  · simp only [hn, if_true]
    exact Runs.pure qu _
  · obtain ⟨ha, hd⟩ := h.resolve_left hn
    simp only [hn, if_false]
    have hwrite : ∀ bs u, At g u t → Runs g (if inMem (ptr t (wD w)) (wCount w) then do
          writeMem g (ptr t (wD w)) bs
          pure OpEnd.next
        else do
          writeRiserBytes g (ptr t (wD w)) bs
          pure OpEnd.next) u .next
        (if inMem (ptr t (wD w)) (wCount w) then stored t (ptr t (wD w)) bs else riserStored t (ptr t (wD w)) bs) 0 := by
      intro bs u qu
      split
      · exact (writeMem_runs qu).step fun u _ qu => Runs.pure qu _
      · exact (writeRiserBytes_runs qu).step fun u _ qu => Runs.pure qu _
    refine (pReg_runs qu).step fun u _ qu => (pReg_runs qu).step fun u _ qu =>
      (faultIf_runs qu (by rw [not_or_eq_false ha, not_or_eq_false hd]; rfl)).step fun u _ qu => ?_
    split
    · next hm => exact (readMem_runs qu hm).step fun u _ qu => hwrite _ u qu
    · exact (readRiserBytes_runs qu).step fun u _ qu => hwrite _ u qu

theorem opFill_runs {g : Nat} {w : Word} {s : State} {t : Tile} (q : At g s t) (hb : badM w = false)
    (h : wCount w = 0 ∨ inMem (ptr t (wD w)) (wCount w)) :
    Runs g (opFill g w) s .next (if wCount w = 0 then t else stored t (ptr t (wD w))
      ((List.range (wCount w)).map (fun i => BitVec.ofNat 8 (num t (wSel w) / 2 ^ (8 * ((ptr t (wD w) + i) % 4)))))) 0 := by
  unfold opFill
  refine (faultIf_runs q hb).step fun u _ qu => ?_
  by_cases hn : wCount w = 0
  · simp only [hn, if_true]
    exact Runs.pure qu _
  · simp only [hn, if_false]
    exact (pReg_runs qu).step fun u _ qu => (sReg_runs qu).step fun u _ qu =>
      (faultIf_runs qu (by simp [h.resolve_left hn])).step fun u _ qu => (writeMem_runs qu).step fun u _ qu => Runs.pure qu _

theorem opCvt_runs {g : Nat} {w : Word} {s : State} {t : Tile} (q : At g s t) (hb : badM w = false) (h : Convertible t w (wMode w)) :
    Runs g (opCvt g w) s .next (converted t w (wMode w)).1 (converted t w (wMode w)).2 := by
  unfold opCvt
  exact (faultIf_runs q hb).step fun u _ qu => convertOp_runs qu h

/-- Settles O9: each body runs on the quiet tile as its lemma says, and the op retires. -/
theorem moveClassOpsRetire : Obligations.MoveClassOpsRetire := by
  unfold Obligations.MoveClassOpsRetire
  intro s₀ t w hq
  have q := at_issued w hq
  exact ⟨fun hi hb => (opNop_runs q hb).ends hi, fun hi hb hk => (opLdi_runs q hb hk).ends hi,
    fun hi hb hk => (opAddi_runs q hb hk).ends hi, fun hi hb h => (opMov_runs q hb h).ends hi,
    fun hi hb h => (opFill_runs q hb h).ends hi, fun hi hb h => (opCvt_runs q hb h).ends hi⟩

/-! ### The drains, loads and stores of an accumulator set -/

/-- With rows to move, the lanes of a stochastic drain are usable. -/
theorem DrainRound.lanes {t : Tile} {field n : Nat} (h : DrainRound t field n) (hs : roundStoch field = true) (hn : n ≠ 0) :
    inMem (drainBase t) (384 * 2) = true ∧ ∀ k < 2, (laneOf t (drainBase t) k).ptr ≤ 88 := by
  obtain ⟨-, h2⟩ := h
  obtain ⟨-, h3⟩ := h2 hs
  obtain ⟨-, hm, hp⟩ := h3 hn
  exact ⟨hm, hp⟩

/-- An op of COUNT 0 takes no row. -/
theorem stepsOf_range_zero {F : Tile → Nat → Tile × Flags} {n : Nat} (h : n = 0) (t : Tile) : stepsOf F (List.range n) t = (t, 0) := by
  rw [h]
  rfl

/-- The row of set `i` of a tile. -/
def rowOf (t : Tile) (w : Word) (r : Nat) : List W32 := setRow (readSet t (getBits w 43 1)) r

/-- The address of row `r` of an op. -/
def rowAt (t : Tile) (w : Word) (r : Nat) : Nat := ptr t (wD w) + r * num t (wB w)

theorem opDrain_runs {g : Nat} {w : Word} {s : State} {t : Tile} (q : At g s t) (hb : badD w = false) (hf : wFmt2 w ≤ 9)
    (hr : DrainRound t (wMode w) (wCount w)) (hi : RowsIn (ptr t (wD w)) (num t (wB w)) (wCount w) (4 * fmtWidth (wFmt2 w))) :
    let r := stepsOf (fun t' r => rowDrained (wFmt2 w) (wMode w) (rowAt t w r) (rowOf t w r) t') (List.range (wCount w)) t
    Runs g (opDrain g w) s .next r.1 r.2 := by
  intro r
  unfold opDrain
  refine (faultIf_runs q (by simp [hb, hf])).step fun u _ qu => (drainChecks_runs qu hr).step fun u _ qu => ?_
  by_cases hn : wCount w = 0
  · simp only [r, stepsOf_range_zero hn, hn, if_true]
    exact Runs.pure qu _
  · simp only [hn, if_false]
    refine (pReg_runs qu).step fun u _ qu => (sReg_runs qu).step fun u _ qu => (faultIf_runs qu (rowRanges_any _ _ _ _ hi)).step fun u _ qu =>
      Runs.guard qu (fun u qu => (get_runs qu).step fun v _ qv => ?_) fun hs k => (sReg_runs qu).step fun u _ qu =>
        (checkLanes_runs qu (hr.lanes hs hn).1 (hr.lanes hs hn).2).step fun u _ qu => k u qu
    rw [qu.2]
    exact (drainRows_runs qv hr).last fun u _ qu => Runs.pure qu _

theorem opDraint_runs {g : Nat} {w : Word} {s : State} {t : Tile} (q : At g s t) (hb : draintBad w (num t (wB w)) = false)
    (hr : DrainRound t (wMode w) (wCount w)) (hi : RowsIn (ptr t (wD w)) (num t (wB w)) (wCount w) (4 * fmtWidth (wFmt2 w)))
    (hs : getBits w 15 1 = 1 → wFunc w % 128 ≠ 0 → RowsIn (ptr t (wD w)) (num t (wB w)) (wCount w) (4 * fmtWidth (wFmt w))) :
    let r := stepsOf (fun t' r => rowFn w (rowAt t w r) (rowOf t w r) t') (List.range (wCount w)) t
    Runs g (opDraint g w) s .next r.1 r.2 := by
  intro r
  have hsaved : (getBits w 15 1 == 1 && wFunc w % 128 != 0 &&
      (rowRanges (ptr t (wD w)) (num t (wB w)) (wCount w) (4 * fmtWidth (wFmt w))).any (fun r => !inMem r.1 r.2)) = false := by
    by_cases hd : getBits w 15 1 = 1 ∧ wFunc w % 128 ≠ 0
    · rw [rowRanges_any _ _ _ _ (hs hd.1 hd.2), Bool.and_false]
    · have hc : (getBits w 15 1 == 1 && wFunc w % 128 != 0) = false := by simpa using hd
      rw [hc, Bool.false_and]
  unfold opDraint
  refine (sReg_runs q).step fun u _ qu => (faultIf_runs qu hb).step fun u _ qu => (drainChecks_runs qu hr).step fun u _ qu => ?_
  by_cases hn : wCount w = 0
  · simp only [r, stepsOf_range_zero hn, hn, if_true]
    exact Runs.pure qu _
  · simp only [hn, if_false]
    refine (pReg_runs qu).step fun u _ qu => (faultIf_runs qu (rowRanges_any _ _ _ _ hi)).step fun u _ qu =>
      (faultIf_runs qu hsaved).step fun u _ qu => Runs.guard qu (fun u qu => (get_runs qu).step fun v _ qv => ?_) fun hs k =>
        (sReg_runs qu).step fun u _ qu => (checkLanes_runs qu (hr.lanes hs hn).1 (hr.lanes hs hn).2).step fun u _ qu => k u qu
    rw [qu.2]
    exact (fnRows_runs qv hr hs).last fun u _ qu => Runs.pure qu _

/-- Rows that all lie in the riser. -/
theorem riserRows_any {d st n : Nat} (h : ∀ r < n, inRiser (d + r * st) 128 = true) :
    (rowRanges d st n 128).any (fun r => !inRiser r.1 r.2) = false := by
  rw [List.any_eq_false]
  intro r hr
  obtain ⟨k, hk, rfl⟩ := List.mem_map.1 hr
  simp [h k (List.mem_range.1 hk)]

theorem opDrainr_runs {g : Nat} {w : Word} {s : State} {t : Tile} (q : At g s t) (hb : badD w = false) (hf : wFmt2 w = 0)
    (hm : wMode w = 0) (hfn : wFunc w = 0) (ha : wCount w ≠ 0 → ptr t (wD w) % 4 = 0 ∧ num t (wB w) % 4 = 0)
    (hi : ∀ r < wCount w, inRiser (rowAt t w r) 128 = true) :
    let r := stepsOf (fun t' r => rowAdded (rowAt t w r) (rowOf t w r) t') (List.range (wCount w)) t
    Runs g (opDrainr g w) s .next r.1 r.2 := by
  intro r
  unfold opDrainr
  refine (faultIf_runs q (by simp [hb, hf, hm, hfn])).step fun u _ qu => ?_
  by_cases hn : wCount w = 0
  · simp only [r, stepsOf_range_zero hn, hn, if_true]
    exact Runs.pure qu _
  · obtain ⟨h1, h2⟩ := ha hn
    simp only [hn, if_false]
    refine (pReg_runs qu).step fun u _ qu => (sReg_runs qu).step fun u _ qu =>
      (faultIf_runs qu (by rw [riserRows_any hi]; simp [h1, h2])).step fun u _ qu => (get_runs qu).step fun v _ qv => ?_
    rw [qu.2]
    exact (checkRisers_runs qv).step fun u _ qu => (addRows_runs qu).last fun u _ qu => Runs.pure qu _

theorem opAccld_runs {g : Nat} {w : Word} {s : State} {t : Tile} (q : At g s t) (hb : badD w = false) (hf : wFmt2 w = 0)
    (hi : RowsIn (ptr t (wD w)) (num t (wB w)) (wCount w) 128) :
    Runs g (opAccld g w) s .next (if wCount w = 0 then t else writeSet t (getBits w 43 1)
      (rowVals t (ptr t (wD w)) (num t (wB w)) (wCount w) ++ (readSet t (getBits w 43 1)).drop (32 * wCount w))) 0 := by
  unfold opAccld
  refine (faultIf_runs q (by simp [hb, hf])).step fun u _ qu => ?_
  by_cases hn : wCount w = 0
  · simp only [hn, if_true]
    exact Runs.pure qu _
  · simp only [hn, if_false]
    refine (pReg_runs qu).step fun u _ qu => (sReg_runs qu).step fun u _ qu => (faultIf_runs qu (rowRanges_any _ _ _ _ hi)).step fun u _ qu =>
      (mapM_runs (v := fun r => tileBytes t (rowAt t w r) 128) _
        (fun r hr s q => readMem_runs q (hi r (List.mem_range.1 hr))) qu).step fun u _ qu => ?_
    have hvals : ((List.range (wCount w)).map (fun r => tileBytes t (rowAt t w r) 128)).flatMap
        (fun b => (words32 32 b).map (BitVec.ofNat 32)) = rowVals t (ptr t (wD w)) (num t (wB w)) (wCount w) := List.flatMap_map ..
    rw [hvals]
    exact (modify_runs (f := fun t' => writeSet t' (getBits w 43 1)
      (rowVals t (ptr t (wD w)) (num t (wB w)) (wCount w) ++ (readSet t' (getBits w 43 1)).drop (32 * wCount w))) qu
      (.inl rfl) rfl rfl (.inl rfl) rfl).step fun u _ qu => Runs.pure qu _

theorem opAccst_runs {g : Nat} {w : Word} {s : State} {t : Tile} (q : At g s t) (hb : badD w = false) (hf : wFmt2 w = 0)
    (hi : RowsIn (ptr t (wD w)) (num t (wB w)) (wCount w) 128) :
    Runs g (opAccst g w) s .next
      (stepsOf (fun t' r => (stored t' (rowAt t w r) (packElems 32 ((rowOf t w r).map BitVec.toNat)), 0)) (List.range (wCount w)) t).1 0 := by
  unfold opAccst
  refine (faultIf_runs q (by simp [hb, hf])).step fun u _ qu => ?_
  by_cases hn : wCount w = 0
  · simp only [hn, if_true]
    exact Runs.pure qu _
  · simp only [hn, if_false]
    refine (pReg_runs qu).step fun u _ qu => (sReg_runs qu).step fun u _ qu => (faultIf_runs qu (rowRanges_any _ _ _ _ hi)).step fun u _ qu =>
      (get_runs qu).step fun v _ qv => ?_
    rw [qu.2]
    exact (storeRows_runs qv).step fun u _ qu => Runs.pure qu _

/-- Settles O10: each body goes through its rows on the quiet tile as its lemma says, and the op retires. -/
theorem accumulatorDrainsAndMoves : Obligations.AccumulatorDrainsAndMoves := by
  unfold Obligations.AccumulatorDrainsAndMoves
  intro s₀ t w hq hb
  have q := at_issued w hq
  exact ⟨fun hi hf hr hrow => (opDrain_runs q hb hf hr hrow).ends hi,
    fun hi hf hm hfn ha hrow => (opDrainr_runs q hb hf hm hfn ha hrow).ends hi,
    fun hi hd hr hrow hsaved => (opDraint_runs q hd hr hrow hsaved).ends hi,
    fun hi hf hrow => (opAccld_runs q hb hf hrow).ends hi, fun hi hf hrow => (opAccst_runs q hb hf hrow).ends hi⟩

end Sys2Proof.Machine
end

section
/-! PROOFS. The ops of the VECTOR class. -/
namespace Sys2Proof.Machine

/-- An op that stores FP32 results in a format, or nothing where COUNT is 0: `m` is what it does of a count other than 0 after its checks. -/
theorem resulted_runs {g n f d : Nat} {xs : List (W32 × Flags)} {m : TileM OpEnd} {s : State} {t : Tile} (q : At g s t)
    (h : n ≠ 0 → Runs g m s .next (stored t d (f32Bytes f xs)) (f32Flags f xs)) :
    Runs g (if n = 0 then pure .next else m) s .next (resulted t n f d xs).1 (resulted t n f d xs).2 := by
  unfold resulted
  split
  · exact Runs.pure q _
  · next hn => exact h hn

/-- The results stored and their flags raised, the op goes on to the next one. -/
theorem writeResults_next {g f d : Nat} {xs : List (W32 × Flags)} {s : State} {t : Tile} (q : At g s t) :
    Runs g (writeResults g f d xs >>= fun _ => pure OpEnd.next) s .next (stored t d (f32Bytes f xs)) (f32Flags f xs) :=
  (writeResults_runs q).last fun _ _ qu => Runs.pure qu _

theorem VecIn.one {n f f2 d a : Nat} (h : VecIn n f f2 d [a]) (hn : n ≠ 0) :
    inMem a (elemBytes f n) = true ∧ inMem d (elemBytes f2 n) = true := by
  obtain ⟨hs, hd⟩ := h hn
  exact ⟨hs a (by simp), hd⟩

theorem VecIn.two {n f f2 d a b : Nat} (h : VecIn n f f2 d [a, b]) (hn : n ≠ 0) :
    inMem a (elemBytes f n) = true ∧ inMem b (elemBytes f n) = true ∧ inMem d (elemBytes f2 n) = true := by
  obtain ⟨hs, hd⟩ := h hn
  exact ⟨hs a (by simp), hs b (by simp), hd⟩

section
variable {g : Nat} {w : Word} {s : State} {t : Tile}

theorem opVbin_runs (q : At g s t) (hb : badM w = false) (hf : wFmt w ≤ 8) (hf2 : wFmt2 w ≤ 8) (hfn : wFunc w ≤ 4)
    (hv : VecIn (wCount w) (wFmt w) (wFmt2 w) (ptr t (wD w)) [ptr t (wA w), ptr t (wB w)]) :
    let r := resulted t (wCount w) (wFmt2 w) (ptr t (wD w))
      (List.zipWith (binFn (wFunc w)) (tileF32 t (wFmt w) (ptr t (wA w)) (wCount w)) (tileF32 t (wFmt w) (ptr t (wB w)) (wCount w)))
    Runs g (opVbin g w) s .next r.1 r.2 := by
  intro r
  unfold opVbin
  refine (faultIf_runs q (by simp [hb, hf, hf2, hfn])).step fun u _ qu => resulted_runs qu fun hn => ?_
  obtain ⟨ha, hb, hd⟩ := hv.two hn
  exact (pReg_runs qu).step fun u _ qu => (pReg_runs qu).step fun u _ qu => (pReg_runs qu).step fun u _ qu =>
    (faultIf_runs qu (by simp [ha, hb, hd])).step fun u _ qu => (readF32_runs qu ha).step fun u _ qu =>
    (readF32_runs qu hb).step fun u _ qu => writeResults_next qu

theorem opVfma_runs (q : At g s t) (hb : badM w = false) (hf : wFmt w ≤ 8) (hf2 : wFmt2 w ≤ 8)
    (hv : VecIn (wCount w) (wFmt w) (wFmt2 w) (ptr t (wD w)) [ptr t (wA w), ptr t (wB w)]) :
    let r := resulted t (wCount w) (wFmt2 w) (ptr t (wD w)) (List.zipWith (fun p z => fmaF32 p.1 p.2 z)
      (List.zip (tileF32 t (wFmt w) (ptr t (wA w)) (wCount w)) (tileF32 t (wFmt w) (ptr t (wB w)) (wCount w)))
      (tileF32 t (wFmt2 w) (ptr t (wD w)) (wCount w)))
    Runs g (opVfma g w) s .next r.1 r.2 := by
  intro r
  unfold opVfma
  refine (faultIf_runs q (by simp [hb, hf, hf2])).step fun u _ qu => resulted_runs qu fun hn => ?_
  obtain ⟨ha, hb, hd⟩ := hv.two hn
  exact (pReg_runs qu).step fun u _ qu => (pReg_runs qu).step fun u _ qu => (pReg_runs qu).step fun u _ qu =>
    (faultIf_runs qu (by simp [ha, hb, hd])).step fun u _ qu => (readF32_runs qu ha).step fun u _ qu =>
    (readF32_runs qu hb).step fun u _ qu => (readF32_runs qu hd).step fun u _ qu => writeResults_next qu

theorem opVfn_runs (q : At g s t) (hb : badM w = false) (hf : wFmt w ≤ 8) (hf2 : wFmt2 w ≤ 8) (hfn : wFunc w ≤ 12)
    (hv : VecIn (wCount w) (wFmt w) (wFmt2 w) (ptr t (wD w)) [ptr t (wA w)]) :
    let r := resulted t (wCount w) (wFmt2 w) (ptr t (wD w)) ((tileF32 t (wFmt w) (ptr t (wA w)) (wCount w)).map (trimFn (wFunc w)))
    Runs g (opVfn g w) s .next r.1 r.2 := by
  intro r
  unfold opVfn
  refine (faultIf_runs q (by simp [hb, hf, hf2, hfn])).step fun u _ qu => resulted_runs qu fun hn => ?_
  obtain ⟨ha, hd⟩ := hv.one hn
  exact (pReg_runs qu).step fun u _ qu => (pReg_runs qu).step fun u _ qu => (faultIf_runs qu (by simp [ha, hd])).step fun u _ qu =>
    (readF32_runs qu ha).step fun u _ qu => writeResults_next qu

theorem opVred_runs (q : At g s t) (hb : badM w = false) (hf : wFmt w ≤ 8) (hf2 : wFmt2 w = 0) (hfn : wFunc w ≤ 5)
    (hv : wCount w ≠ 0 → inMem (ptr t (wA w)) (elemBytes (wFmt w) (wCount w)) = true ∧ inMem (ptr t (wD w)) 4 = true) :
    let r := resulted t (wCount w) 0 (ptr t (wD w)) [redFn (wFunc w) (tileF32 t (wFmt w) (ptr t (wA w)) (wCount w))]
    Runs g (opVred g w) s .next r.1 r.2 := by
  intro r
  unfold opVred
  refine (faultIf_runs q (by simp [hb, hf, hf2, hfn])).step fun u _ qu => resulted_runs qu fun hn => ?_
  obtain ⟨ha, hd⟩ := hv hn
  exact (pReg_runs qu).step fun u _ qu => (pReg_runs qu).step fun u _ qu => (faultIf_runs qu (by simp [ha, hd])).step fun u _ qu =>
    (readF32_runs qu ha).step fun u _ qu => writeResults_next qu

theorem tileF32_length (t : Tile) (f a n : Nat) : (tileF32 t f a n).length = n := by
  simp [tileF32, tileElems, unpackElems]

theorem opVscan_runs (q : At g s t) (hb : badM w = false) (hf : wFmt w ≤ 8) (hf2 : wFmt2 w ≤ 8) (hfn : wFunc w ≤ 1)
    (hv : VecIn (wCount w) (wFmt w) (wFmt2 w) (ptr t (wD w)) [ptr t (wA w)]) :
    let r := resulted t (wCount w) (wFmt2 w) (ptr t (wD w)) (scanned (if wFunc w = 0 then addF32 else fun a b => (maxF32 a b, 0))
      (tileF32 t (wFmt w) (ptr t (wA w)) (wCount w)))
    Runs g (opVscan g w) s .next r.1 r.2 := by
  intro r
  unfold opVscan
  refine (faultIf_runs q (by simp [hb, hf, hf2, hfn])).step fun u _ qu => resulted_runs qu fun hn => ?_
  obtain ⟨ha, hd⟩ := hv.one hn
  refine (pReg_runs qu).step fun u _ qu => (pReg_runs qu).step fun u _ qu => (faultIf_runs qu (by simp [ha, hd])).step fun u _ qu =>
    (readF32_runs qu ha).step fun u _ qu => ?_
  cases hx : tileF32 t (wFmt w) (ptr t (wA w)) (wCount w) with
  | nil =>
    have hlen := tileF32_length t (wFmt w) (ptr t (wA w)) (wCount w)
    rw [hx] at hlen
    exact absurd hlen.symm hn
  | cons x xs => exact writeResults_next qu

/-! ### VQUANT -/

theorem quantScale_runs {sc : Nat} (q : At g s t) (h : sc / 2 ^ 31 % 2 = 1 → inMem (sc % 2 ^ 24) 8 = true) :
    Runs g (quantScale g sc) s (quantOf t sc) t 0 := by
  unfold quantScale quantOf
  split
  · exact Runs.pure q _
  · next hm => exact (readMem_runs q (h (by omega))).step fun u _ qu => Runs.pure qu _

theorem quantSource_runs {a n : Nat} (q : At g s t) (h : inMem a (4 * n) = true ∨ inRiser a (4 * n) = true) :
    Runs g (quantSource g a n) s (quantRead t a n).1 (quantRead t a n).2 0 := by
  unfold quantSource quantRead
  by_cases hr : inRiser a (4 * n) = true
  · simp only [hr, if_true]
    exact (readRiser_runs q).step fun u _ qu => (writeRiser_runs qu).step fun u _ qu => Runs.pure qu _
  · simp only [hr, if_false, Bool.false_eq_true]
    exact (readMem_runs q (h.resolve_right hr)).step fun u _ qu => Runs.pure qu _

theorem quantBlock_runs {idx d j : Nat} {vs : List W32} {rs : List Nat} (q : At g s t) :
    let part := ((vs.drop (64 * j)).take 64).map f32
    let modes := (List.range 64).map (fun i => roundMode (wMode w) (rs.getD (64 * j + i) 0))
    Runs g (if wFmt2 w = 0xA then do
        writeMem g (d + 72 * j) (billetBytes idx modes part)
        pure (ForInStep.yield PUnit.unit)
      else do
        writeMem g (d + quantSize (wFmt2 w) * j) (ingotBytes (wFmt2 w) modes part).1
        raiseFlags g (ingotBytes (wFmt2 w) modes part).2
        pure (ForInStep.yield PUnit.unit)) s (ForInStep.yield PUnit.unit)
      (quantBlock w idx d vs rs t j).1 (quantBlock w idx d vs rs t j).2 := by
  intro part modes
  unfold quantBlock
  dsimp only
  by_cases hf : wFmt2 w = 0xA
  · simp only [hf, if_true]
    exact (writeMem_runs q).step fun u _ qu => Runs.pure qu _
  · simp only [hf, if_false]
    exact (writeMem_runs q).step fun u _ qu => (raiseFlags_runs qu).last fun u _ qu => Runs.pure qu _

theorem quantBlocks_runs {idx d n : Nat} {vs : List W32} {rs : List Nat} (q : At g s t) :
    Runs g (forIn (List.range n) PUnit.unit (fun j _ =>
      if wFmt2 w = 0xA then do
        writeMem g (d + 72 * j) (billetBytes idx ((List.range 64).map (fun i => roundMode (wMode w) (rs.getD (64 * j + i) 0)))
          (((vs.drop (64 * j)).take 64).map f32))
        pure (ForInStep.yield PUnit.unit)
      else do
        let r := ingotBytes (wFmt2 w) ((List.range 64).map (fun i => roundMode (wMode w) (rs.getD (64 * j + i) 0)))
          (((vs.drop (64 * j)).take 64).map f32)
        writeMem g (d + quantSize (wFmt2 w) * j) r.1
        raiseFlags g r.2
        pure (ForInStep.yield PUnit.unit))) s PUnit.unit
      (stepsOf (quantBlock w idx d vs rs) (List.range n) t).1 (stepsOf (quantBlock w idx d vs rs) (List.range n) t).2 :=
  forM_runs (ok := fun _ => True) (fun _ _ _ q' _ => quantBlock_runs q') _ (fun _ _ => trivial) q

theorem laneAlign_runs {a : Nat} (q : At g s t) (h : a % 64 = 0) : Runs g (checkLaneAlign a) s () t 0 := by
  unfold checkLaneAlign
  exact faultIf_runs q (by simp [h])

/-- A word that passes VQUANT's checks gives a multiple of 64 values. -/
theorem quantBad_count {sc : Nat} (h : quantBad w sc = false) : wCount w % 64 = 0 := by
  simp only [quantBad, Bool.or_eq_false_iff, bne_eq_false_iff_eq] at h
  exact h.1.1.1.1.2

/-- The lanes that its values draw from are those of its checks: a value takes a quarter of a draw group. -/
theorem quantBad_lanes {sc : Nat} (h : quantBad w sc = false) : (wCount w + 15) / 16 ≤ wCount w / 16 := by
  have h64 := quantBad_count h
  omega

theorem opVquant_runs (q : At g s t) (hb : quantBad w (num t (wSel w % 16)) = false) (hv : Quantizable t w) :
    Runs g (opVquant g w) s .next (quantized t w).1 (quantized t w).2 := by
  unfold opVquant quantized
  refine (sReg_runs q).step fun u _ qu => (faultIf_runs qu hb).step fun u _ qu => ?_
  by_cases hn : wCount w = 0
  · simp only [hn, if_true]
    exact Runs.pure qu _
  · obtain ⟨hsrc, hdst, hscale, hidx, hlanes⟩ := hv hn
    simp only [hn, if_false]
    refine (pReg_runs qu).step fun u _ qu => (pReg_runs qu).step fun u _ qu => (faultIf_runs qu ?_).step fun u _ qu =>
      (faultIf_runs qu ?_).step fun u _ qu => (quantScale_runs qu hscale).step fun u _ qu => (faultIf_runs qu ?_).step fun u _ qu => ?_
    · simp only [quantSize] at hdst
      rw [hdst]
      rcases hsrc with h | ⟨h, ha⟩
      · simp [h]
      · simp [h, ha]
    · by_cases hs : num t (wSel w % 16) / 2 ^ 31 % 2 = 1
      · rw [hscale hs, Bool.not_true, Bool.and_false]
      · have hb' : (num t (wSel w % 16) / 2 ^ 31 % 2 == 1) = false := by simpa using hs
        rw [hb', Bool.false_and]
    · by_cases hf : wFmt2 w = 0xA
      · obtain ⟨h0, h255⟩ := hidx hf
        simp [h0, h255]
      · simp [hf]
    have hsrc' : inMem (ptr t (wA w)) (4 * wCount w) = true ∨ inRiser (ptr t (wA w)) (4 * wCount w) = true := hsrc.imp_right And.left
    by_cases hs : roundStoch (wMode w) = true
    · obtain ⟨hal, hin, hp⟩ := hlanes hs
      simp only [hs, if_true]
      exact (laneAlign_runs qu hal).step fun u _ qu => (checkLanes_runs qu hin hp).step fun u _ qu =>
        (quantSource_runs qu hsrc').step fun u _ qu => (stochBits_runs qu (quantBad_lanes hb) hin).step fun u _ qu =>
        (quantBlocks_runs qu).last fun u _ qu => Runs.pure qu _
    · simp only [hs, if_false, Bool.false_eq_true]
      exact (quantSource_runs qu hsrc').step fun u _ qu => (Runs.pure qu _).step fun u _ qu =>
        (quantBlocks_runs qu).last fun u _ qu => Runs.pure qu _

end

/-- Settles O12: each body runs on the quiet tile as its lemma says, and the op retires. -/
theorem vectorOpsStoreTheirResults : Obligations.VectorOpsStoreTheirResults := by
  unfold Obligations.VectorOpsStoreTheirResults
  intro s₀ t w hq
  have q := at_issued w hq
  exact ⟨fun hb hf hf2 => ⟨fun hi hfn hv => (opVbin_runs q hb hf hf2 hfn hv).ends hi, fun hi hv => (opVfma_runs q hb hf hf2 hv).ends hi,
      fun hi hfn hv => (opVfn_runs q hb hf hf2 hfn hv).ends hi, fun hi h0 hfn hv => (opVred_runs q hb hf h0 hfn hv).ends hi,
      fun hi hfn hv => (opVscan_runs q hb hf hf2 hfn hv).ends hi⟩,
    fun hi hb hv => (opVquant_runs q hb hv).ends hi⟩

end Sys2Proof.Machine
end

section
/-! PROOFS. The random ops, STOPK, maps and compressed blocks. -/
namespace Sys2Proof.Machine

section
variable {g : Nat} {w : Word} {s : State} {t : Tile}

/-- An op that leaves the tile as `v`, or does nothing where COUNT is 0. -/
theorem runs_unlessZero {n : Nat} {m : TileM OpEnd} {v : Tile} (q : At g s t) (h : n ≠ 0 → Runs g m s OpEnd.next v 0) :
    Runs g (if n = 0 then pure OpEnd.next else m) s OpEnd.next (if n = 0 then t else v) 0 := by
  split
  · exact Runs.pure q _
  · next hn => exact h hn

/-! ### Random ops -/

theorem drawRaw_runs {base n : Nat} (q : At g s t) (h : inMem base (384 * ((n + 15) / 16)) = true) :
    Runs g (drawRaw g base n) s (rawOf t base n).1 (rawOf t base n).2 0 := by
  unfold drawRaw
  refine Runs.step (forIn_runs (ok := fun k => k < (n + 15) / 16) (step := fun a k =>
    (a.1 ++ (drawOf a.2 base k 16).1.take (min 16 (n - 16 * k)), (drawOf a.2 base k 16).2)) ?_ _ (fun k hk => List.mem_range.1 hk) _ q)
    fun u _ qu => Runs.pure qu _
  intro k out s t q hk
  exact (drawLane_runs q (lane_inMem h hk)).step fun u _ qu => Runs.pure qu _

theorem seedLanes_runs {d seed n0 n : Nat} (q : At g s t) :
    Runs g (forIn (List.range n) PUnit.unit (fun j _ => do
        writeMem g (d + 384 * j) (laneBytes seed (n0 + j))
        pure (ForInStep.yield PUnit.unit))) s PUnit.unit
      ((List.range n).foldl (fun t j => stored t (d + 384 * j) (laneBytes seed (n0 + j))) t) 0 := by
  generalize List.range n = l
  induction l generalizing s t with
  | nil => exact Runs.pure q _
  | cons j l ih =>
    rw [List.forIn_cons]
    exact Runs.step (a := ForInStep.yield PUnit.unit) ((writeMem_runs q).step fun u _ qu => Runs.pure qu _) fun u _ qu => ih qu

theorem opRinit_runs (q : At g s t) (hb : badM w = false) (hf : wFmt w = 0) (hf2 : wFmt2 w = 0) (hfn : wFunc w = 0) (hm : wMode w = 0)
    (ha : ptr t (wA w) % 8 = 0) (hd : ptr t (wD w) % 64 = 0) (hn0 : num t (wSel w % 16) + wCount w ≤ 2 ^ 32)
    (hi : wCount w ≠ 0 → inMem (ptr t (wA w)) 8 = true ∧ inMem (ptr t (wD w)) (384 * wCount w) = true) :
    Runs g (opRinit g w) s .next (if wCount w = 0 then t else (List.range (wCount w)).foldl (fun t' j => stored t' (ptr t (wD w) + 384 * j)
      (laneBytes (leNat (tileBytes t (ptr t (wA w)) 8)) (num t (wSel w % 16) + j))) (dropLanes t (ptr t (wD w)) (384 * wCount w))) 0 := by
  have hover : decide (2 ^ 32 < num t (wSel w % 16) + wCount w) = false := decide_eq_false (Nat.not_lt.2 hn0)
  unfold opRinit
  refine (pReg_runs q).step fun u _ qu => (pReg_runs qu).step fun u _ qu => (sReg_runs qu).step fun u _ qu =>
    (faultIf_runs qu (by rw [hover]; simp [hb, hf, hf2, hfn, hm, ha, hd])).step fun u _ qu => runs_unlessZero qu fun hn => ?_
  obtain ⟨h1, h2⟩ := hi hn
  refine (faultIf_runs qu (by simp [h1, h2])).step fun u _ qu => (readMem_runs qu h1).step fun u _ qu => ?_
  exact (modify_runs (f := fun t' => dropLanes t' (ptr t (wD w)) (384 * wCount w)) qu (.inl rfl) rfl rfl (.inl rfl) rfl).step
    fun u _ qu => (seedLanes_runs qu).step fun u _ qu => Runs.pure qu _

theorem aligned_bne (h : convBase t w % 64 = 0) : (num t (wSel w % 16) % 2 ^ 24 % 64 != 0) = false := bne_eq_false_iff_eq.2 h

theorem opRbits_runs (q : At g s t) (hb : badM w = false) (hal : convBase t w % 64 = 0)
    (hi : wCount w ≠ 0 → inMem (ptr t (wD w)) (4 * wCount w) = true ∧ LanesOk t (convBase t w) ((wCount w + 15) / 16)) :
    Runs g (opRbits g w) s .next (if wCount w = 0 then t else
      stored (rawOf t (convBase t w) (wCount w)).2 (ptr t (wD w)) (packElems 32 (rawOf t (convBase t w) (wCount w)).1)) 0 := by
  unfold opRbits
  refine (sReg_runs q).step fun u _ qu => (faultIf_runs qu (by rw [hb, aligned_bne hal]; rfl)).step fun u _ qu =>
    runs_unlessZero qu fun hn => ?_
  obtain ⟨hd, -, hin, hp⟩ := hi hn
  exact (pReg_runs qu).step fun u _ qu => (faultIf_runs qu (by simp [hd])).step fun u _ qu => (checkLanes_runs qu hin hp).step fun u _ qu =>
    (drawRaw_runs qu hin).step fun u _ qu => (writeMem_runs qu).step fun u _ qu => Runs.pure qu _

theorem opRunif_runs (q : At g s t) (hb : badM w = false) (hal : convBase t w % 64 = 0) (hf : wFmt2 w ≤ 2)
    (hi : wCount w ≠ 0 → inMem (ptr t (wD w)) (elemBytes (wFmt2 w) (wCount w)) = true ∧
      LanesOk t (convBase t w) ((wCount w + 15) / 16)) :
    Runs g (opRunif g w) s .next (if wCount w = 0 then t else stored (rawOf t (convBase t w) (wCount w)).2 (ptr t (wD w))
      (packElems (fmtWidth (wFmt2 w)) ((rawOf t (convBase t w) (wCount w)).1.map (unifBits (wFmt2 w))))) 0 := by
  unfold opRunif
  refine (sReg_runs q).step fun u _ qu => (faultIf_runs qu (by rw [aligned_bne hal]; simp [hb, hf])).step fun u _ qu =>
    runs_unlessZero qu fun hn => ?_
  obtain ⟨hd, -, hin, hp⟩ := hi hn
  exact (pReg_runs qu).step fun u _ qu => (faultIf_runs qu (by simp [hd])).step fun u _ qu => (checkLanes_runs qu hin hp).step fun u _ qu =>
    (drawRaw_runs qu hin).step fun u _ qu => (writeElems_runs qu).step fun u _ qu => Runs.pure qu _

theorem opRsr_runs (q : At g s t) (hb : badM w = false) (hm : wMode w % 8 = 4) (h : Convertible t w (wMode w)) :
    Runs g (opRsr g w) s .next (converted t w (wMode w)).1 (converted t w (wMode w)).2 := by
  unfold opRsr
  exact (faultIf_runs q (by simp [hb, hm])).step fun u _ qu => convertOp_runs qu h

/-! ### STOPK -/

/-- The state in which STOPK writes: an index beyond 20 bits has taken free values (log entry 6). -/
def stopFrom (s : State) (t : Tile) (w : Word) : State := if stopOver t w then { s with free := s.free + stopK t w } else s

theorem at_stopFrom (q : At g s t) : At g (stopFrom s t w) t := by
  unfold stopFrom
  split
  · exact q
  · exact q

theorem opStopk_nothing (q : At g s t) (hb : badM w = false) (hf : wFmt w ≤ 2) (hk : stopK t w ≤ 256) (h : wCount w = 0 ∨ stopK t w = 0) :
    Runs g (opStopk g w) s .next t 0 := by
  unfold opStopk
  refine (sReg_runs q).step fun u _ qu => (faultIf_runs qu ?_).step fun u _ qu => ?_
  · have hk' : num t (wSel w % 16) % 512 ≤ 256 := hk
    simp [hb, hf, hk']
  · have hz : (decide (wCount w = 0) || decide (num t (wSel w % 16) % 512 = 0)) = true := by
      simpa [stopK] using h
    rw [if_pos hz]
    exact Runs.pure qu _

/-- FP32 values are read from a quiet tile without a change of the state. -/
theorem readF32_ok {f a n : Nat} (q : At g s t) (h : inMem a (elemBytes f n) = true) : readF32 g f a n s = .ok (tileF32 t f a n) s := by
  have hmem : readMem g a (elemBytes f n) s = .ok (tileBytes t a (elemBytes f n)) s := by rw [readMem_run q.1.1 h, q.2]
  have helems : readElems g f a n s = .ok (tileElems t f a n) s := by
    unfold readElems
    rw [tileM_bind_ok hmem]
    rfl
  unfold readF32
  rw [tileM_bind_ok helems]
  rfl

theorem sReg_ok (n : Nat) (q : At g s t) : sReg g n s = .ok (num t n) s := by rw [← q.2]; rfl
theorem pReg_ok (n : Nat) (q : At g s t) : pReg g n s = .ok (ptr t n) s := by rw [← q.2]; rfl

/-- A modification under a condition. -/
theorem modifyIf_ok (c : Prop) [Decidable c] (f : State → State) (k : TileM OpEnd) (s : State) :
    (if c then (modify f >>= fun _ => k) else k) s = k (if c then f s else s) := by
  split <;> rfl

theorem opStopk_from (q : At g s t) (hb : badM w = false) (hf : wFmt w ≤ 2) (hk : stopK t w ≤ 256) (hn : wCount w ≠ 0)
    (hk0 : stopK t w ≠ 0) (ha : inMem (ptr t (wA w)) (elemBytes (wFmt w) (wCount w)) = true) (hd : inMem (ptr t (wD w)) (8 * stopK t w) = true) :
    opStopk g w s = (writeMem g (ptr t (wD w)) (stopBytes s t w) >>= fun _ => pure OpEnd.next) (stopFrom s t w) := by
  have hbad : (badM w || decide (2 < wFmt w) || decide (256 < stopK t w)) = false := by simp [hb, hf, hk]
  have hsome : (decide (wCount w = 0) || decide (stopK t w = 0)) = false := by simp [hn, hk0]
  have hrange : (!inMem (ptr t (wA w)) (elemBytes (wFmt w) (wCount w)) || !inMem (ptr t (wD w)) (8 * stopK t w)) = false := by simp [ha, hd]
  unfold opStopk
  rw [tileM_bind_ok (sReg_ok _ q)]
  dsimp only
  rw [← stopK, ← stopFirst, tileM_bind_ok (faultIf_false _ _ hbad), if_neg (by rw [hsome]; decide), tileM_bind_ok (pReg_ok _ q),
    tileM_bind_ok (pReg_ok _ q), tileM_bind_ok (faultIf_false _ _ hrange), tileM_bind_ok (readF32_ok q ha), tileM_bind_ok (tileM_get s)]
  exact modifyIf_ok _ _ _ s

theorem opStopk_runs (q : At g s t) (hb : badM w = false) (hf : wFmt w ≤ 2) (hk : stopK t w ≤ 256) (hn : wCount w ≠ 0)
    (hk0 : stopK t w ≠ 0) (ha : inMem (ptr t (wA w)) (elemBytes (wFmt w) (wCount w)) = true) (hd : inMem (ptr t (wD w)) (8 * stopK t w) = true) :
    ∃ u, opStopk g w s = .ok OpEnd.next u ∧ Becomes g (stopFrom s t w) u (stored t (ptr t (wD w)) (stopBytes s t w)) 0 ∧
      (stored t (ptr t (wD w)) (stopBytes s t w)).issue = (tileOf (stopFrom s t w) g).issue := by
  have hwrite : Runs g (writeMem g (ptr t (wD w)) (stopBytes s t w) >>= fun _ => pure OpEnd.next) (stopFrom s t w) OpEnd.next
      (stored t (ptr t (wD w)) (stopBytes s t w)) 0 :=
    (writeMem_runs (at_stopFrom q)).step fun u _ qu => Runs.pure qu _
  obtain ⟨u, hu, hbec, -, hissue⟩ := hwrite
  exact ⟨u, (opStopk_from q hb hf hk hn hk0 ha hd).trans hu, hbec, hissue⟩

end

/-- An op whose body leaves the tile as `tl` from a state `x` with the same tile retires from there. -/
theorem ends_from {s x u : State} {t : TileId} {w : Word} {op : Nat} {body : TileM OpEnd} {tl : Tile} {fl : Flags} (hi : Issues s t w op)
    (hb : body (issued s t.gid w) = .ok .next u) (h : Becomes t.gid x u tl fl) (hk : tl.issue = (tileOf x t.gid).issue) :
    ∃ u, (Host.Outcome.next (runOp t w op body s) : Host.Outcome State Fault Refusal) = .next u ∧ Did x u t.gid tl fl := by
  refine ⟨_, rfl, ?_⟩
  rw [runOp_next hi hb, h.issueAt hk]
  exact retire_did h

/-- Settles O15: each body runs on the quiet tile as its lemma says, and the op retires; STOPK from the state with its free values taken. -/
theorem randomAndTopKOps : Obligations.RandomAndTopKOps := by
  unfold Obligations.RandomAndTopKOps
  intro s₀ t w hq hb
  have q := at_issued w hq
  refine ⟨fun hi hf hf2 hfn hm ha hd hn0 hin => (opRinit_runs q hb hf hf2 hfn hm ha hd hn0 hin).ends hi,
    fun hi hal hin => (opRbits_runs q hb hal hin).ends hi, fun hi hal hf hin => (opRunif_runs q hb hal hf hin).ends hi,
    fun hi hm h => (opRsr_runs q hb hm h).ends hi, fun hi hf hk h => (opStopk_nothing q hb hf hk h).ends hi,
    fun hi hf hk hn hk0 ha hd => ?_⟩
  obtain ⟨u, hu, hbec, hissue⟩ := opStopk_runs q hb hf hk hn hk0 ha hd
  exact ends_from hi hu hbec hissue

end Sys2Proof.Machine
end

section
/-! PROOFS. Maps and compressed blocks. -/
namespace Sys2Proof.Machine

section
variable {g : Nat} {w : Word} {s : State} {t : Tile}

/-- Bytes stored and the next op. -/
theorem writeMem_next {a : Nat} {bs : List Byte} (q : At g s t) :
    Runs g (writeMem g a bs >>= fun _ => pure OpEnd.next) s OpEnd.next (stored t a bs) 0 :=
  (writeMem_runs q).step fun _ _ qu => Runs.pure qu _

/-- The rows of a slice map, looked at element by element. -/
theorem any_map_rows {α β : Type} (l : List α) (f : α → β) (p : β → Bool) : (l.map f).any p = l.any (fun x => p (f x)) := by
  rw [List.any_map]
  rfl

/-! ### BMAP, by the MODE of its map -/

section
variable {w : Word}

theorem mapBits_element (t : Tile) (h : wMode w = 0) :
    mapBits t w = (tileElems t (wFmt w) (ptr t (wA w)) (wCount w)).map (· != 0) := by
  unfold mapBits
  split
  · rfl
  · next h1 => exact absurd (h.symm.trans h1) (by decide)
  · next h0 _ => exact absurd h h0

theorem mapBits_rows (t : Tile) (h : wMode w = 1) : mapBits t w = (List.range (wCount w)).map (fun i => (List.range 32).any (fun r =>
    nonZero (wFmt w) ((tileElems t (wFmt w) (ptr t (wA w) + r * num t (wSel w)) (wCount w)).getD i 0))) := by
  unfold mapBits
  split
  · next h0 => exact absurd (h0.symm.trans h) (by decide)
  · rfl
  · next _ h1 => exact absurd h h1

theorem mapBits_slices (t : Tile) (h0 : wMode w ≠ 0) (h1 : wMode w ≠ 1) : mapBits t w = (List.range (wCount w)).map (fun i =>
    (((tileElems t (wFmt w) (ptr t (wA w)) (32 * wCount w)).drop (32 * i)).take 32).any (nonZero (wFmt w))) := by
  unfold mapBits
  split
  · next h => exact absurd h h0
  · next h => exact absurd h h1
  · rfl
end

theorem opBmap_runs (q : At g s t) (hb : badM w = false) (hf : wFmt w ≤ 8) (hm : wMode w ≤ 2)
    (hi : wCount w ≠ 0 → inMem (ptr t (wD w)) (mapSize (wCount w)) = true ∧ MapIn t w) :
    Runs g (opBmap g w) s OpEnd.next (if wCount w = 0 then t else stored t (ptr t (wD w)) (mapBytes (mapBits t w))) 0 := by
  unfold opBmap
  refine (faultIf_runs q (by simp [hb, hf, hm])).step fun u _ qu => runs_unlessZero qu fun hn => ?_
  obtain ⟨hd, hin⟩ := hi hn
  unfold mapSize at hd
  refine (pReg_runs qu).step fun u _ qu => (pReg_runs qu).step fun u _ qu => (sReg_runs qu).step fun u _ qu =>
    (faultIf_runs qu (by rw [hd]; rfl)).step fun u _ qu => ?_
  unfold MapIn at hin
  dsimp only
  split
  · next h0 =>
    rw [h0] at hin
    rw [mapBits_element t h0]
    exact (faultIf_runs qu (by rw [hin]; rfl)).step fun u _ qu => (readElems_runs qu hin).step fun u _ qu => writeMem_next qu
  · next h1 =>
    rw [h1] at hin
    rw [mapBits_rows t h1]
    refine (faultIf_runs qu (rowRanges_any _ _ _ _ hin)).step fun u _ qu =>
      (mapM_runs (v := fun r => tileElems t (wFmt w) (ptr t (wA w) + r * num t (wSel w)) (wCount w)) _
        (fun r hr s q => readElems_runs q (hin r (List.mem_range.1 hr))) qu).step fun u _ qu => ?_
    simp only [any_map_rows]
    exact writeMem_next qu
  · next h0 h1 =>
    have hin : inMem (ptr t (wA w)) (elemBytes (wFmt w) (32 * wCount w)) = true := by
      split at hin
      · next h => exact absurd h h0
      · next h => exact absurd h h1
      · exact hin
    rw [mapBits_slices t h0 h1]
    exact (faultIf_runs qu (by rw [hin]; rfl)).step fun u _ qu => (readElems_runs qu hin).step fun u _ qu => writeMem_next qu

theorem opBpred_runs (q : At g s t) (hb : badM w = false) (hm : wMode w = 0) (hfn : wFunc w = 0) (hs : wSel w = 0)
    (hi : wCount w ≠ 0 → inMem (ptr t (wA w)) ((wCount w + 7) / 8) = true ∧ inMem (ptr t (wB w)) ((wCount w + 7) / 8) = true ∧
      inMem (ptr t (wD w)) (mapSize (wCount w)) = true) :
    Runs g (opBpred g w) s OpEnd.next (if wCount w = 0 then t else
      let x := leNat (tileBytes t (ptr t (wA w)) ((wCount w + 7) / 8))
      let y := leNat (tileBytes t (ptr t (wB w)) ((wCount w + 7) / 8))
      stored t (ptr t (wD w)) (mapBytes ((List.range (wCount w)).map (fun i => Nat.testBit x i || Nat.testBit y i)))) 0 := by
  unfold opBpred
  refine (faultIf_runs q (by simp [hb, hm, hfn, hs])).step fun u _ qu => runs_unlessZero qu fun hn => ?_
  obtain ⟨ha, hb, hd⟩ := hi hn
  unfold mapSize at hd
  exact (pReg_runs qu).step fun u _ qu => (pReg_runs qu).step fun u _ qu => (pReg_runs qu).step fun u _ qu =>
    (faultIf_runs qu (by rw [ha, hb, hd]; rfl)).step fun u _ qu => (readMem_runs qu ha).step fun u _ qu =>
    (readMem_runs qu hb).step fun u _ qu => writeMem_next qu

/-! ### COMPACT -/

theorem storeBlocks_runs (l : List (Nat × List Byte)) (q : At g s t) :
    Runs g (forIn l PUnit.unit (fun p _ => do
        writeMem g p.1 p.2
        pure (ForInStep.yield PUnit.unit))) s PUnit.unit (l.foldl (fun t p => stored t p.1 p.2) t) 0 := by
  induction l generalizing s t with
  | nil => exact Runs.pure q _
  | cons p l ih =>
    rw [List.forIn_cons]
    exact Runs.step (a := ForInStep.yield PUnit.unit) ((writeMem_runs q).step fun u _ qu => Runs.pure qu _) fun u _ qu => ih qu

/-- The blocks of `compactBlocks` from the element map `em` (R221). -/
def blocksOf (t : Tile) (w : Word) (em : Nat) : List (Nat × List Byte) :=
  let e := blockElems (wFmt w)
  let xs := tileElems t (wFmt w) (ptr t (wA w)) (wCount w)
  let present := (List.zip (List.range (wCount w)) xs).map (fun p => p.2 != 0 || Nat.testBit em p.1)
  (List.range ((wCount w + e - 1) / e)).map (fun j =>
    (ptr t (wD w) + j * slotBytes (wFmt w), compressBlock (wFmt w) ((xs.drop (j * e)).take e) ((present.drop (j * e)).take e)))

theorem compactBlocks_eq (t : Tile) (w : Word) :
    compactBlocks t w = blocksOf t w (if wMode w % 2 = 1 then leNat (tileBytes t (ptr t (wB w)) (wCount w / 8)) else 0) := rfl

theorem storeBlocks_next {l : List (Nat × List Byte)} (q : At g s t) (hl : ∀ p ∈ l, inMem p.1 p.2.length = true) :
    Runs g (faultIf (l.any (fun p => !inMem p.1 p.2.length)) 2 >>= fun _ => (forIn l PUnit.unit (fun p _ => do
        writeMem g p.1 p.2
        pure (ForInStep.yield PUnit.unit)) >>= fun _ => pure OpEnd.next)) s OpEnd.next (l.foldl (fun t p => stored t p.1 p.2) t) 0 := by
  have hany : l.any (fun p => !inMem p.1 p.2.length) = false := by
    rw [List.any_eq_false]
    intro p hp
    rw [hl p hp]
    decide
  exact (faultIf_runs q hany).step fun u _ qu => (storeBlocks_runs l qu).step fun u _ qu => Runs.pure qu _

theorem foldl_unlessZero {α : Type} {n : Nat} {F : Tile → α → Tile} {l : List α} {t : Tile} :
    (if n = 0 then [] else l).foldl F t = if n = 0 then t else l.foldl F t := by split <;> rfl

theorem opCompact_runs (q : At g s t) (hb : badM w = false) (hf : wFmt w ≤ 8) (h64 : wCount w % 64 = 0)
    (hi : wCount w ≠ 0 → inMem (ptr t (wA w)) (elemBytes (wFmt w) (wCount w)) = true ∧
      (wMode w % 2 = 1 → inMem (ptr t (wB w)) (wCount w / 8) = true) ∧ ∀ p ∈ compactBlocks t w, inMem p.1 p.2.length = true) :
    Runs g (opCompact g w) s OpEnd.next ((if wCount w = 0 then [] else compactBlocks t w).foldl (fun t p => stored t p.1 p.2) t) 0 := by
  unfold opCompact
  rw [foldl_unlessZero]
  refine (faultIf_runs q (by simp [hb, hf, h64])).step fun u _ qu => runs_unlessZero qu fun hn => ?_
  obtain ⟨ha, hmap, hblocks⟩ := hi hn
  rw [compactBlocks_eq] at hblocks ⊢
  refine (pReg_runs qu).step fun u _ qu => (pReg_runs qu).step fun u _ qu => (pReg_runs qu).step fun u _ qu =>
    (faultIf_runs qu ?_).step fun u _ qu => (readElems_runs qu ha).step fun u _ qu => ?_
  · rw [ha]
    by_cases hm : wMode w % 2 = 1
    · rw [hmap hm, Bool.not_true, Bool.and_false, Bool.or_false]
    · rw [beq_false_of_ne hm, Bool.false_and, Bool.not_true, Bool.or_false]
  · by_cases hm : wMode w % 2 = 1
    · rw [if_pos hm] at hblocks ⊢
      simp only [hm, if_true]
      exact (readMem_runs qu (hmap hm)).step fun u _ qu => storeBlocks_next qu hblocks
    · rw [if_neg hm] at hblocks ⊢
      simp only [hm, if_false]
      exact (Runs.pure qu _).step fun u _ qu => storeBlocks_next qu hblocks

/-! ### EXPAND -/

theorem opExpand_nothing (q : At g s t) (hb : badM w = false) (hf : wFmt w ≤ 8) (hn : wCount w = 0) :
    Runs g (opExpand g w) s OpEnd.next t 0 := by
  unfold opExpand
  refine (faultIf_runs q (by simp [hb, hf])).step fun u _ qu => ?_
  simp only [hn, if_true]
  exact Runs.pure qu _

/-- What one turn of EXPAND's loop does. -/
def expandTurn (g : Nat) (w : Word) (d a j : Nat) : TileM (ForInStep PUnit) := do
  let h ← readMem g (a + j * slotBytes (wFmt w)) 16
  faultIf (slotBytes (wFmt w) < leNat h / 2 ^ 48 % 2 ^ 16 + 16) 1
  let bs ← readMem g (a + j * slotBytes (wFmt w)) (16 + leNat h / 2 ^ 48 % 2 ^ 16)
  match expandBlock bs with
  | none =>
    throw 1
    pure (.yield PUnit.unit)
  | some (bf, xs) =>
    faultIf (bf != wFmt w || xs.length != slotCount (wFmt w) (wCount w) j) 1
    writeElems g (wFmt w) (d + j * (blockElems (wFmt w) * fmtWidth (wFmt w) / 8)) xs
    pure (.yield PUnit.unit)

theorem inMem_prefix {a m n : Nat} (h : inMem a n = true) (hm : m ≤ n) : inMem a m = true := by
  simp only [inMem, decide_eq_true_eq] at h ⊢
  omega

theorem expandTurn_runs {d a j : Nat} {v : Tile} (q : At g s t) (h : expandSlot w d a t j = some v) :
    Runs g (expandTurn g w d a j) s (.yield PUnit.unit) v 0 := by
  unfold expandSlot at h
  dsimp only at h
  split at h
  · cases h
  · next hc =>
    obtain ⟨hlen, hin⟩ := not_or.1 hc
    have hin : inMem (a + j * slotBytes (wFmt w))
        (16 + leNat (tileBytes t (a + j * slotBytes (wFmt w)) 16) / 2 ^ 48 % 2 ^ 16) = true := by simpa using hin
    split at h
    · cases h
    · next b hb =>
      split at h
      · next hok =>
        obtain ⟨hfmt, hcount⟩ := hok
        cases h
        unfold expandTurn
        refine (readMem_runs q (inMem_prefix hin (Nat.le_add_right _ _))).step fun u _ qu =>
          (faultIf_runs qu (decide_eq_false hlen)).step fun u _ qu => (readMem_runs qu hin).step fun u _ qu => ?_
        rw [hb]
        exact (faultIf_runs qu (by simp [hfmt, hcount])).step fun u _ qu => (writeElems_runs qu).step fun u _ qu => Runs.pure qu _
      · cases h

theorem expandTurns_runs {d a : Nat} {v : Tile} (l : List Nat) (q : At g s t) (h : expandSlots w d a l t = some v) :
    Runs g (forIn l PUnit.unit (fun j _ => expandTurn g w d a j)) s PUnit.unit v 0 := by
  induction l generalizing s t with
  | nil =>
    cases h
    exact Runs.pure q _
  | cons j l ih =>
    obtain ⟨x, hx, hrest⟩ := Option.bind_eq_some_iff.1 h
    rw [List.forIn_cons]
    exact (expandTurn_runs q hx).step fun u _ qu => ih qu hrest

theorem opExpand_runs {v : Tile} (q : At g s t) (hb : badM w = false) (hf : wFmt w ≤ 8) (hn : wCount w ≠ 0)
    (hd : inMem (ptr t (wD w)) (elemBytes (wFmt w) (wCount w)) = true)
    (ha : inMem (ptr t (wA w) + ((wCount w + blockElems (wFmt w) - 1) / blockElems (wFmt w) - 1) * slotBytes (wFmt w)) 16 = true)
    (hs : ∀ j < (wCount w + blockElems (wFmt w) - 1) / blockElems (wFmt w), inMem (ptr t (wA w) + j * slotBytes (wFmt w))
      (slotUse t (wFmt w) (ptr t (wA w) + j * slotBytes (wFmt w))) = true)
    (hv : expandSlots w (ptr t (wD w)) (ptr t (wA w)) (List.range ((wCount w + blockElems (wFmt w) - 1) / blockElems (wFmt w))) t = some v) :
    Runs g (opExpand g w) s OpEnd.next v 0 := by
  have hany : (List.range ((wCount w + blockElems (wFmt w) - 1) / blockElems (wFmt w))).any (fun j =>
      !inMem (ptr t (wA w) + j * slotBytes (wFmt w)) (slotUse t (wFmt w) (ptr t (wA w) + j * slotBytes (wFmt w)))) = false := by
    rw [List.any_eq_false]
    intro j hj
    rw [hs j (List.mem_range.1 hj)]
    decide
  unfold opExpand
  refine (faultIf_runs q (by simp [hb, hf])).step fun u _ qu => ?_
  simp only [hn, if_false]
  refine (pReg_runs qu).step fun u _ qu => (pReg_runs qu).step fun u _ qu => (faultIf_runs qu (by rw [hd, ha]; rfl)).step fun u _ qu =>
    (get_runs qu).step fun v _ qv => ?_
  rw [qu.2]
  exact (faultIf_runs qv hany).step fun u _ qu => (expandTurns_runs _ qu hv).step fun u _ qu => Runs.pure qu _

end

/-- Settles O13: each body runs on the quiet tile as its lemma says, and the op retires. -/
theorem mapsAndCompressedBlocks : Obligations.MapsAndCompressedBlocks := by
  unfold Obligations.MapsAndCompressedBlocks
  intro s₀ t w hq hb
  have q := at_issued w hq
  exact ⟨fun hi hf hm hin => (opBmap_runs q hb hf hm hin).ends hi,
    fun hi hm hfn hs hin => (opBpred_runs q hb hm hfn hs hin).ends hi,
    fun hi hf h64 hin => (opCompact_runs q hb hf h64 hin).ends hi,
    fun hi hf hn => (opExpand_nothing q hb hf hn).ends hi,
    fun hi hf hn hd ha hs v hv => (opExpand_runs q hb hf hn hd ha hs hv).ends hi⟩

end Sys2Proof.Machine
end

section
/-! PROOFS. The ops of the SYNC class, and the ops of the NET pipe. -/
namespace Sys2Proof.Machine

/-! ### How an op ends whose body is known -/

section
variable {s₀ s x : State} {t : TileId} {w : Word} {op : Nat} {body : TileM OpEnd}

/-- An op that stays answers the state that its body leaves. -/
theorem runOp_stay (hi : Issues s t w op) (hb : body (issued s t.gid w) = .ok .stay x) : runOp t w op body s = x := by
  rw [runOp_body hi, hb]
  rfl

theorem runOp_goto {a : Nat} (hi : Issues s t w op) (hb : body (issued s t.gid w) = .ok (.goto a) x) :
    runOp t w op body s = retire x t.gid a := by
  rw [runOp_body hi, hb]
  rfl

/-- An op that cannot begin yet leaves the state as it was. -/
theorem runOp_notYet (hi : Issues s t w op) (hb : body (issued s t.gid w) = .error notYet x) : runOp t w op body s = s := by
  rw [runOp_body hi, hb]
  rfl

/-- The retirement of an op whose body answers `.next`, as the statements say it. -/
theorem next_retires (hi : Issues s t w op) (hb : body (issued s t.gid w) = .ok .next x) :
    ∃ u, (Host.Outcome.next (runOp t w op body s) : Host.Outcome State Fault Refusal) = .next u ∧ Retires x u t.gid :=
  ⟨_, rfl, retires_of_run hi hb⟩

theorem next_stay (hi : Issues s t w op) (hb : body (issued s t.gid w) = .ok .stay x) :
    (Host.Outcome.next (runOp t w op body s) : Host.Outcome State Fault Refusal) = .next x :=
  congrArg _ (runOp_stay hi hb)
end

/-! ### The SYNC class -/

section
variable {g : Nat} {w : Word} {s : State}

theorem opFence_free (hb : badS w = false) (hp : pipesBusy (tileOf s g) = false) : opFence g w s = .ok .next (flushGen s g) :=
  (tileM_bind_ok (faultIf_false 1 s hb)).trans ((tileM_bind_ok (tileM_get s)).trans (congrFun (if_neg (by simp [hp])) s))

theorem opFence_busy (hb : badS w = false) (hp : pipesBusy (tileOf s g) = true) : opFence g w s = .ok .stay (holdFence s g w) :=
  (tileM_bind_ok (faultIf_false 1 s hb)).trans ((tileM_bind_ok (tileM_get s)).trans (congrFun (if_pos hp) s))

theorem opEvwait_reached (hb : badS w = false) (hr : reached (getD (tileOf s g).e (wD w) 0) (BitVec.ofNat 32 (wImm w)) = true) :
    opEvwait g w s = .ok .next s :=
  (tileM_bind_ok (faultIf_false 1 s hb)).trans ((tileM_bind_ok (tileM_get s)).trans (congrFun (if_pos hr) s))

theorem opEvwait_waits (hb : badS w = false) (hr : reached (getD (tileOf s g).e (wD w) 0) (BitVec.ofNat 32 (wImm w)) = false) :
    opEvwait g w s = .ok .stay (waiting s g (.evwait (wD w) (BitVec.ofNat 32 (wImm w)))) :=
  (tileM_bind_ok (faultIf_false 1 s hb)).trans ((tileM_bind_ok (tileM_get s)).trans
    (congrFun (if_neg (fun h => Bool.false_ne_true (hr.symm.trans h))) s))

theorem badLoop_false (hb : badS w = false) (hd : wD w ≤ 3) : (badS w || decide (3 < wD w)) = false := by
  simp [hb]; omega

/-- A loop op takes its counter `l` and goes on with `k`. -/
theorem opLoop_body {r : EStateM.Result Nat State OpEnd} (hb : badS w = false) (hd : wD w ≤ 3) {l : W32} (hl : getD (tileOf s g).l (wD w) 0 = l)
    (h : (if l = 0 then pure .next else do
      opLoop.putLoop g (wD w) (l - 1)
      if l - 1 = 0 then return .next
      let pc := issueAt (← get) g
      pure (.goto ((pc + 8 * wImm w) % 2 ^ 20)) : TileM OpEnd) s = r) : opLoop g w s = r := by
  subst hl
  exact (tileM_bind_ok (faultIf_false 1 s (badLoop_false hb hd))).trans ((tileM_bind_ok (tileM_get s)).trans h)

theorem opLoop_again (hb : badS w = false) (hd : wD w ≤ 3) (h0 : getD (tileOf s g).l (wD w) 0 ≠ 0) (h1 : getD (tileOf s g).l (wD w) 0 ≠ 1) :
    opLoop g w s = .ok (.goto ((issueAt s g + 8 * wImm w) % 2 ^ 20)) (withLoop s g (wD w) (getD (tileOf s g).l (wD w) 0 - 1)) := by
  have hn : getD (tileOf s g).l (wD w) 0 - 1 ≠ 0 := fun h => h1 (by rw [BitVec.sub_eq_iff_eq_add] at h; simpa using h)
  have hi : issueAt (withLoop s g (wD w) (getD (tileOf s g).l (wD w) 0 - 1)) g = issueAt s g := by
    unfold issueAt withLoop
    rw [getF_modTile, tileOf_modTile_same]
  refine opLoop_body hb hd rfl ?_
  rw [if_neg h0, if_neg hn, ← hi]
  rfl

theorem opHalt_ok (hb : badS w = false) : opHalt g w s = .ok .next (halted s g) :=
  tileM_bind_ok (faultIf_false 1 s hb)

/-- What HOIST does once its operands are read: the generation lies `d` ahead. -/
def hoistBody (g gen d : Nat) : TileM OpEnd := do
  if d = 0 then return .next
  faultIf (2 ^ 14 ≤ d) 1
  modify (fun s => releaseDraw s g)
  if canSwap (← get) g then
    modify (fun s => setF (swapHalves s g) F.TIL_HOIST_GEN g gen)
    pure .next
  else beginWait g (.hoist gen)

theorem opHoist_body (hb : badS w = false) (hk : wKind w = 0) (hm : wMode w = 0) (hi : wImm w = 0) (hf : (tileOf s g).memFlip = [])
    (hr : inMem (ptr (tileOf s g) (wD w)) 2 = true) :
    opHoist g w s = hoistBody g (hoistGen (tileOf s g) w) (hoistAhead s g w) s :=
  (tileM_bind_ok (faultIf_false 1 s (by simp [hb, hk, hm, hi]))).trans ((tileM_bind_ok (pReg_run g (wD w) s)).trans
    ((tileM_bind_ok (faultIf_false 2 s (congrArg not hr))).trans ((tileM_bind_ok (readMem_run hf hr)).trans (tileM_bind_ok (tileM_get s)))))

theorem hoistBody_ahead {gen d : Nat} {r : EStateM.Result Nat State OpEnd} (h0 : d ≠ 0) (h14 : d < 2 ^ 14)
    (h : (if canSwap (releaseDraw s g) g then (do
        modify (fun s => setF (swapHalves s g) F.TIL_HOIST_GEN g gen)
        pure .next : TileM OpEnd)
      else beginWait g (.hoist gen)) (releaseDraw s g) = r) : hoistBody g gen d s = r := by
  unfold hoistBody
  rw [if_neg h0]
  exact (tileM_bind_ok (faultIf_false 1 s (decide_eq_false (by omega)))).trans
    ((tileM_bind_ok (tileM_modify _ s)).trans ((tileM_bind_ok (tileM_get _)).trans h))

/-! An EVSIG to its own tile, to another, and to the module. -/

theorem opEvsig_own (hb : badSig w = false) (hm : wMode w = 0) :
    opEvsig g w s = .ok .next (addLocal s g (wD w) (BitVec.ofNat 32 (wImm w))) := by
  refine (tileM_bind_ok (faultIf_false 1 s (by simp [hb, hm]))).trans ?_
  simp only [hm]
  rfl

theorem opEvsig_tile (hb : badSig w = false) (hm : wMode w = 1) (hx : num (tileOf s g) (wB w) % 256 ≤ 191)
    (hy : num (tileOf s g) (wB w) / 256 % 256 ≤ 167) :
    opEvsig g w s = .ok .next (inject s g { typ := tyIncr, cls := 0, routed := true, dx := num (tileOf s g) (wB w) % 256,
                                            dy := num (tileOf s g) (wB w) / 256 % 256, addr := wD w,
                                            amount := BitVec.ofNat 32 (wImm w) }) := by
  refine (tileM_bind_ok (faultIf_false 1 s (by simp [hb, hm]))).trans ?_
  simp only [hm]
  refine (tileM_bind_ok (sReg_run g (wB w) s)).trans (tileM_bind_ok (faultIf_false 1 s ?_))
  exact Bool.or_eq_false_iff.mpr ⟨decide_eq_false (Nat.not_lt.mpr hx), decide_eq_false (Nat.not_lt.mpr hy)⟩

theorem opEvsig_module (hb : badSig w = false) (hm : wMode w = 2) :
    opEvsig g w s = .ok .next (toCommand s g (num (tileOf s g) (wB w) % 65536) (BitVec.ofNat 32 (wImm w))) := by
  refine (tileM_bind_ok (faultIf_false 1 s (by simp [hb, hm]))).trans ?_
  simp only [hm]
  exact tileM_bind_ok (sReg_run g (wB w) s)
end

/-- Settles O16: each body's outcome is stated by its lemma; `.next` retires the op, and a wait stays. -/
theorem syncOpsRetireOrWait : Obligations.SyncOpsRetireOrWait := by
  unfold Obligations.SyncOpsRetireOrWait
  intro s₀ t w
  refine ⟨fun hb => ⟨fun hi hp => next_retires hi (opFence_free hb hp), fun hi hp => next_stay hi (opFence_busy hb hp),
    fun hi hr => next_retires hi (opEvwait_reached hb hr), fun hi hr => next_stay hi (opEvwait_waits hb hr),
    fun hi hd hl => next_retires hi (opLoop_body hb hd hl rfl), fun hi hd hl => next_retires hi (opLoop_body hb hd hl rfl),
    fun hi hd h0 h1 => ⟨_, rfl, ?_⟩, fun hi => next_retires hi (opHalt_ok hb), fun hi hk hm hz hf hr => ⟨?_, ?_, ?_⟩⟩,
    fun hb hi => ⟨fun hm => next_retires hi (opEvsig_own hb hm), fun hm hx hy => next_retires hi (opEvsig_tile hb hm hx hy),
      fun hm => next_retires hi (opEvsig_module hb hm)⟩⟩
  · rw [runOp_goto hi (opLoop_again hb hd h0 h1)]
    exact retire_done (rs := []) (OnlyTile.refl _ _ _) rfl
  all_goals have body := opHoist_body hb hk hm hz hf hr
  · intro h
    exact next_retires hi (body.trans (by rw [h]; rfl))
  · intro h0 h14 hc
    exact next_retires hi (body.trans (hoistBody_ahead h0 h14 (by rw [if_pos hc]; rfl)))
  · intro h0 h14 hc
    exact next_stay hi (body.trans (hoistBody_ahead h0 h14 (by rw [if_neg (by simp [hc])]; rfl)))

/-! ### The ops of the NET pipe -/

/-- The first step of a body goes through, and the rest answers `r`. -/
theorem tileM_step {α β : Type} {m : TileM α} {f : α → TileM β} {s u : State} {a : α} {r : EStateM.Result Nat State β}
    (h : m s = .ok a u) (k : f a u = r) : (m >>= f) s = r := (tileM_bind_ok h).trans k

section
variable {g : Nat} {w : Word} {s : State}

theorem opSend_none (hb : badN w = false) (hn : wCount w = 0) : opSend g w s = .ok .next s :=
  tileM_step (faultIf_false 1 s hb) (congrFun (if_pos hn) s)

theorem opRecv_none (hb : badN w = false) (hn : wCount w = 0) : opRecv g w s = .ok .next s :=
  tileM_step (faultIf_false 1 s hb) (congrFun (if_pos hn) s)

theorem opSput_none (hb : badN w = false) (hs : wSel w = 0) (hn : wCount w = 0) : opSput g w s = .ok .next s :=
  tileM_step (faultIf_false 1 s (by simp [hb, hs])) (congrFun (if_pos (by simp [unitBytes, hn])) s)

theorem opSget_none (hb : badN w = false) (hn : wCount w = 0) : opSget g w s = .ok .next s :=
  tileM_step (faultIf_false 1 s (by simp [hb, hn])) (congrFun (if_pos hn) s)

theorem opSend_busy (hb : badN w = false) (hn : wCount w ≠ 0) (hp : netBusy (tileOf s g) = true) : opSend g w s = .error notYet s :=
  tileM_step (faultIf_false 1 s hb) ((congrFun (if_neg hn) s).trans (tileM_bind_error (netFree_busy hp)))

theorem opRecv_busy (hb : badN w = false) (hn : wCount w ≠ 0) (hp : netBusy (tileOf s g) = true) : opRecv g w s = .error notYet s :=
  tileM_step (faultIf_false 1 s hb) ((congrFun (if_neg hn) s).trans (tileM_bind_error (netFree_busy hp)))

/-- With the pipe free and a count, an op of layout N goes on. -/
theorem netOp_begins {b : Bool} {c : Nat} {k : TileM OpEnd} {r : EStateM.Result Nat State OpEnd} (hb : b = false) (hc : c ≠ 0)
    (hp : netBusy (tileOf s g) = false) (h : k s = r) :
    (faultIf b 1 >>= fun _ => if c = 0 then pure OpEnd.next else netFree g >>= fun _ => k) s = r :=
  tileM_step (faultIf_false 1 s hb) ((congrFun (if_neg hc) s).trans (tileM_step (netFree_ok hp) h))

theorem opSend_sends (hb : badN w = false) (hn : wCount w ≠ 0) (hp : netBusy (tileOf s g) = false)
    (hm : inMem (ptr (tileOf s g) (wD w)) (64 * wCount w) = true) (hf : (tileOf s g).memFlip = []) :
    opSend g w s = .ok .next (sentRec (sendTransfer s g (wSel w) (getD (tileOf s g).tx (wSel w) {}).next true
      (tileBytes (tileOf s g) (ptr (tileOf s g) (wD w)) (64 * wCount w))) g (wSel w) (ptr (tileOf s g) (wD w)) (wCount w)
      (getD (tileOf s g).tx (wSel w) {}).next) :=
  netOp_begins hb hn hp (tileM_step (pReg_run g (wD w) s) (tileM_step (faultIf_false 2 s (congrArg not hm))
    (tileM_step (readMem_run hf hm) rfl)))

theorem opRecv_waits (hb : badN w = false) (hn : wCount w ≠ 0) (hp : netBusy (tileOf s g) = false)
    (hm : inMem (ptr (tileOf s g) (wD w)) (64 * wCount w) = true) :
    opRecv g w s = .ok .stay (waiting s g (.recv (wSel w) (ptr (tileOf s g) (wD w)) (wCount w))) :=
  netOp_begins hb hn hp (tileM_step (pReg_run g (wD w) s) (tileM_step (faultIf_false 2 s (congrArg not hm)) rfl))

theorem opSput_puts (hb : badN w = false) (hs : wSel w = 0) (hn : wCount w ≠ 0) (hp : netBusy (tileOf s g) = false)
    (hm : inMem (ptr (tileOf s g) (wD w)) (64 * wCount w) = true) (hf : (tileOf s g).memFlip = []) :
    opSput g w s = .ok .next (putSample s g (tileBytes (tileOf s g) (ptr (tileOf s g) (wD w)) (64 * wCount w))) :=
  netOp_begins (by simp [hb, hs]) (by unfold unitBytes; omega) hp (tileM_step (pReg_run g (wD w) s)
    (tileM_step (faultIf_false 2 s (congrArg not hm)) (tileM_step (readMem_run hf hm) rfl)))

/-- An SGET with the pipe free looks whether its result is ready. -/
theorem opSget_begins {r : EStateM.Result Nat State OpEnd} (hb : badN w = false) (hn : wCount w = 1) (hp : netBusy (tileOf s g) = false)
    (hm : inMem (ptr (tileOf s g) (wD w)) 64 = true)
    (h : (if getF s F.TIL_SAMPLE_READY g = 1 then do
        writeMem g (ptr (tileOf s g) (wD w)) (bytesOf (tileOf (← get) g).result.toNat 64)
        pure .next
      else beginWait g (.sget (ptr (tileOf s g) (wD w))) : TileM OpEnd) s = r) : opSget g w s = r :=
  netOp_begins (by simp [hb, hn]) (by omega) hp (tileM_step (pReg_run g (wD w) s) (tileM_step (faultIf_false 2 s (congrArg not hm))
    (tileM_step (tileM_get s) h)))

theorem opTswap_swaps (hb : badS w = false) (hp : netBusy (tileOf s g) = false) (hc : canSwap s g = true) :
    opTswap g w s = .ok .next (swapHalves s g) :=
  tileM_step (faultIf_false 1 s hb) (tileM_step (netFree_ok hp) (tileM_step (tileM_get s) (congrFun (if_pos hc) s)))

theorem opTswap_waits (hb : badS w = false) (hp : netBusy (tileOf s g) = false) (hc : canSwap s g = false) :
    opTswap g w s = .ok .stay (waiting s g .tswap) :=
  tileM_step (faultIf_false 1 s hb) (tileM_step (netFree_ok hp) (tileM_step (tileM_get s) (congrFun (if_neg (by simp [hc])) s)))

theorem opTrel_releases (hb : badS w = false) (hp : netBusy (tileOf s g) = false) : opTrel g w s = .ok .next (releaseDraw s g) :=
  tileM_step (faultIf_false 1 s hb) (tileM_step (netFree_ok hp) rfl)
end

/-- Storing into the tile's own memory, as a change of the tile. -/
theorem setTile_stored (s : State) (g a : Nat) (bs : List Byte) :
    setTile s g (stored (tileOf s g) a bs) = modTile s g (fun t => stored t a bs) := rfl

/-- Settles O17: the outcome of each body, with the pipe free and with it in use. -/
theorem streamOpsRetireOrWait : Obligations.StreamOpsRetireOrWait := by
  unfold Obligations.StreamOpsRetireOrWait
  intro s₀ t w
  refine ⟨fun hb => ⟨fun hn => ⟨fun hi => next_retires hi (opSend_none hb hn), fun hi => next_retires hi (opRecv_none hb hn),
      fun hi hs => next_retires hi (opSput_none hb hs hn), fun hi => next_retires hi (opSget_none hb hn)⟩,
    fun hn hp => ⟨fun hi => congrArg _ (runOp_notYet hi (opSend_busy hb hn hp)), fun hi => congrArg _ (runOp_notYet hi (opRecv_busy hb hn hp))⟩,
    fun hn hp hm => ⟨fun hi hf => next_retires hi (opSend_sends hb hn hp hm hf), fun hi => next_stay hi (opRecv_waits hb hn hp hm),
      fun hi hs hf => next_retires hi (opSput_puts hb hs hn hp hm hf)⟩,
    fun hi hn hp hm => ⟨fun hr ha => next_retires hi (opSget_begins hb hn hp hm ?_),
      fun hr => next_stay hi (opSget_begins hb hn hp hm ?_)⟩⟩,
    fun hb hp => ⟨fun hi hc => next_retires hi (opTswap_swaps hb hp hc), fun hi hc => next_stay hi (opTswap_waits hb hp hc),
      fun hi => next_retires hi (opTrel_releases hb hp)⟩⟩
  · rw [if_pos hr, ← setTile_stored]
    exact tileM_step (tileM_get _) (tileM_step (writeMem_run ha) rfl)
  · rw [if_neg (by simp [hr])]
    rfl

/-! ### Remote reads and writes -/

/-- The loop of an RGET reads piece after piece. -/
theorem gotPieces_next {g c : Nat} {f : Nat × Nat × Nat × Nat → Nat → TileM (ForInStep Nat)}
    (hf : ∀ p d s, f p d s = .ok (.yield (d + p.2.2.2)) (getPiece (modTile s g (fun t =>
      { t with reads := t.reads ++ [ReadSlot.mk (tileOf s g).nextTag p.1 d p.2.2.2], nextTag := ((tileOf s g).nextTag + 1) % 65536 }))
      g c (tileOf s g).nextTag p)) (ps : List (Nat × Nat × Nat × Nat)) (d : Nat) (s : State) :
    (forIn ps d f >>= fun _ => pure OpEnd.next) s = .ok .next (gotPieces g c ps d s) := by
  induction ps generalizing d s with
  | nil => rfl
  | cons p ps ih =>
    rw [List.forIn_cons, bind_assoc]
    exact tileM_step (hf p d s) (ih (d + p.2.2.2) _)

/-- The loop of an RPUT writes piece after piece. -/
theorem putPieces_next {g c : Nat} {f : Nat × Nat × Nat × Nat → List Byte → TileM (ForInStep (List Byte))}
    (hf : ∀ p bs s, f p bs s = .ok (.yield (bs.drop p.2.2.2)) (putPiece s g c p (bs.take p.2.2.2)))
    (ps : List (Nat × Nat × Nat × Nat)) (bs : List Byte) (s : State) :
    (forIn ps bs f >>= fun _ => pure OpEnd.next) s = .ok .next (putPieces g c ps bs s) := by
  induction ps generalizing bs s with
  | nil => rfl
  | cons p ps ih =>
    rw [List.forIn_cons, bind_assoc]
    exact tileM_step (hf p bs s) (ih (bs.drop p.2.2.2) _)

section
variable {g c a n : Nat} {write : Bool} {s : State}

theorem bindPages_ok (h : firstBad (lookedUp s c a n) ((pagesOf a n).map (· % 2 ^ 24)) write = none) :
    bindPages g c a n write s = .ok () (lookedUp s c a n) := by
  refine tileM_step (tileM_modify _ s) (tileM_step (tileM_get _) ?_)
  simp only [show firstBad (((pagesOf a n).map (· % 2 ^ 24)).foldl (fun s q => cacheLookup s c q) s) _ write = none from h]
  rfl

/-- What a failed lookup leaves: its count and the record of R266. -/
def lookupFailed (x : State) (g c q f : Nat) : State :=
  sendRec (countFail x c f) (.tile g) 0 (if f = 3 then 0x2003 else 0x2000) q (logX x g + 256 * logY x g)

theorem bindPages_fails {q f : Nat} (h : firstBad (lookedUp s c a n) ((pagesOf a n).map (· % 2 ^ 24)) write = some (q, f)) :
    bindPages g c a n write s = .error (if f = 2 then 6 else 2) (lookupFailed (lookedUp s c a n) g c q f) := by
  refine tileM_step (tileM_modify _ s) (tileM_step (tileM_get _) ?_)
  simp only [show firstBad (((pagesOf a n).map (· % 2 ^ 24)).foldl (fun s q => cacheLookup s c q) s) _ write = some (q, f) from h]
  rfl
end

section
variable {g : Nat} {w : Word} {s : State}

theorem farRange_ok (hm : inMem (ptr (tileOf s g) (wD w)) (unitBytes w) = true) (ha : farAddr (tileOf s g) w + unitBytes w ≤ 2 ^ 42) :
    (!inMem (pAt s g (wD w) % 2 ^ 24) (unitBytes w) || decide (2 ^ 42 < pAt s g (wA w) % 2 ^ 42 + unitBytes w)) = false :=
  Bool.or_eq_false_iff.mpr ⟨congrArg not hm, decide_eq_false (Nat.not_lt.mpr ha)⟩

theorem opRget_gets (hb : badN w = false) (hn : unitBytes w ≠ 0) (hp : netBusy (tileOf s g) = false)
    (hm : inMem (ptr (tileOf s g) (wD w)) (unitBytes w) = true) (ha : farAddr (tileOf s g) w + unitBytes w ≤ 2 ^ 42)
    (hl : firstBad (lookedUp s (nearCres s g) (farAddr (tileOf s g) w) (unitBytes w))
      ((pagesOf (farAddr (tileOf s g) w) (unitBytes w)).map (· % 2 ^ 24)) false = none) :
    opRget g w s = .ok .next (gotPieces g (nearCres s g) (piecesOf (farAddr (tileOf s g) w) (unitBytes w / 4096 + 2) (unitBytes w))
      (ptr (tileOf s g) (wD w)) (lookedUp s (nearCres s g) (farAddr (tileOf s g) w) (unitBytes w))) :=
  netOp_begins hb hn hp (tileM_step (pReg_run g (wD w) s) (tileM_step (tileM_get s) (tileM_step (faultIf_false 2 s (farRange_ok hm ha))
    (tileM_step (tileM_get s) (tileM_step (bindPages_ok hl) (gotPieces_next (fun _ _ _ => rfl) _ _ _))))))

theorem opRget_fails {q f : Nat} (hb : badN w = false) (hn : unitBytes w ≠ 0) (hp : netBusy (tileOf s g) = false)
    (hm : inMem (ptr (tileOf s g) (wD w)) (unitBytes w) = true) (ha : farAddr (tileOf s g) w + unitBytes w ≤ 2 ^ 42)
    (hl : firstBad (lookedUp s (nearCres s g) (farAddr (tileOf s g) w) (unitBytes w))
      ((pagesOf (farAddr (tileOf s g) w) (unitBytes w)).map (· % 2 ^ 24)) false = some (q, f)) :
    opRget g w s = .error (if f = 2 then 6 else 2)
      (lookupFailed (lookedUp s (nearCres s g) (farAddr (tileOf s g) w) (unitBytes w)) g (nearCres s g) q f) :=
  netOp_begins hb hn hp (tileM_step (pReg_run g (wD w) s) (tileM_step (tileM_get s) (tileM_step (faultIf_false 2 s (farRange_ok hm ha))
    (tileM_step (tileM_get s) (tileM_bind_error (bindPages_fails hl))))))

theorem opRput_puts (hb : badN w = false) (hn : unitBytes w ≠ 0) (hp : netBusy (tileOf s g) = false)
    (hm : inMem (ptr (tileOf s g) (wD w)) (unitBytes w) = true) (ha : farAddr (tileOf s g) w + unitBytes w ≤ 2 ^ 42)
    (hf : (tileOf s g).memFlip = [])
    (hl : firstBad (lookedUp s (nearCres s g) (farAddr (tileOf s g) w) (unitBytes w))
      ((pagesOf (farAddr (tileOf s g) w) (unitBytes w)).map (· % 2 ^ 24)) true = none) :
    opRput g w s = .ok .next (putPieces g (nearCres s g) (piecesOf (farAddr (tileOf s g) w) (unitBytes w / 4096 + 2) (unitBytes w))
      (tileBytes (tileOf s g) (ptr (tileOf s g) (wD w)) (unitBytes w))
      (lookedUp s (nearCres s g) (farAddr (tileOf s g) w) (unitBytes w))) :=
  netOp_begins hb hn hp (tileM_step (pReg_run g (wD w) s) (tileM_step (tileM_get s) (tileM_step (faultIf_false 2 s (farRange_ok hm ha))
    (tileM_step (readMem_run hf hm) (tileM_step (tileM_get s) (tileM_step (bindPages_ok hl) (putPieces_next (fun _ _ _ => rfl) _ _ _)))))))

theorem opRput_fails {q f : Nat} (hb : badN w = false) (hn : unitBytes w ≠ 0) (hp : netBusy (tileOf s g) = false)
    (hm : inMem (ptr (tileOf s g) (wD w)) (unitBytes w) = true) (ha : farAddr (tileOf s g) w + unitBytes w ≤ 2 ^ 42)
    (hf : (tileOf s g).memFlip = [])
    (hl : firstBad (lookedUp s (nearCres s g) (farAddr (tileOf s g) w) (unitBytes w))
      ((pagesOf (farAddr (tileOf s g) w) (unitBytes w)).map (· % 2 ^ 24)) true = some (q, f)) :
    opRput g w s = .error (if f = 2 then 6 else 2)
      (lookupFailed (lookedUp s (nearCres s g) (farAddr (tileOf s g) w) (unitBytes w)) g (nearCres s g) q f) :=
  netOp_begins hb hn hp (tileM_step (pReg_run g (wD w) s) (tileM_step (tileM_get s) (tileM_step (faultIf_false 2 s (farRange_ok hm ha))
    (tileM_step (readMem_run hf hm) (tileM_step (tileM_get s) (tileM_bind_error (bindPages_fails hl)))))))
end

/-- The fault codes of a failed lookup are faults of the tile. -/
theorem lookupCode_faults (f : Nat) : (if f = 2 then 6 else 2) ≠ notYet ∧ (if f = 2 then 6 else 2) ≠ starve := by
  split <;> decide

theorem next_faults {s x : State} {t : TileId} {w : Word} {op f : Nat} {body : TileM OpEnd} (hi : Issues s t w op)
    (hb : body (issued s t.gid w) = .error (if f = 2 then 6 else 2) x) :
    (Host.Outcome.next (runOp t w op body s) : Host.Outcome State Fault Refusal) = .next (tileFault x t.gid (if f = 2 then 6 else 2)) :=
  congrArg _ (faults_of_run hi (lookupCode_faults f).1 (lookupCode_faults f).2 hb)

/-- Settles O18: every page looked up, the pieces one after another, or the fault of the first page that fails. -/
theorem remoteReadsAndWrites : Obligations.RemoteReadsAndWrites := by
  unfold Obligations.RemoteReadsAndWrites
  intro s₀ t w hb
  refine ⟨fun hn => ⟨fun hi => next_retires hi ?_, fun hi => next_retires hi ?_⟩,
    fun hn hp hm ha => ⟨fun hi hl => next_retires hi (opRget_gets hb hn hp hm ha hl),
      fun hi hf hl => next_retires hi (opRput_puts hb hn hp hm ha hf hl),
      fun hi q f hl => next_faults hi (opRget_fails hb hn hp hm ha hl),
      fun hi hf q f hl => next_faults hi (opRput_fails hb hn hp hm ha hf hl)⟩⟩
  all_goals exact tileM_step (faultIf_false 1 _ hb) (congrFun (if_pos hn) _)

end Sys2Proof.Machine
end

section
/-! PROOFS. Tile faults, tile timers and TIL_CTRL. -/
namespace Sys2Proof.Machine

/-! ### Fields of a tile's registers -/

/-- Two fields of a tile's registers that a write cannot confuse: of different registers, or of different bits of one. -/
def Fld.apart (e f : Fld) : Bool :=
  (regRow e.reg).region == .til && (regRow f.reg).region == .til &&
    ((regRow e.reg).base != (regRow f.reg).base || e.reg == f.reg && decide f.fits && decide (e.lo + e.w ≤ f.lo ∨ f.lo + f.w ≤ e.lo))

theorem getF_setF_apart (s : State) (f e : Fld) (g v : Nat) (h : e.apart f = true) : getF (setF s f g v) e g = getF s e g := by
  unfold Fld.apart at h
  simp only [Bool.and_eq_true, beq_iff_eq, Bool.or_eq_true, bne_iff_ne, decide_eq_true_eq] at h
  obtain ⟨⟨he, hf⟩, hb | ⟨⟨hr, hfit⟩, hd⟩⟩ := h
  · exact getF_setF_ne s f e g g v (tilAddr_ne g he hf hb)
  · exact getF_setF_other s f e g v hr hfit hd

theorem getF_wrReg_ne (s : State) (r : RegName) (e : Fld) (u x : Nat) (v : Word) (h : regAddr e.reg x 0 ≠ regAddr r u 0) :
    getF (wrReg s r u 0 v) e x = getF s e x := by
  unfold getF getI
  rw [rdReg_wrReg_ne _ _ _ _ _ _ _ _ h]

/-! ### What a fault leaves -/

section
variable (s : State) (g code : Nat)

/-- The fields of TIL_STATUS that a fault writes, and the one that it leaves. -/
theorem tileFault_status (hc : code ≤ 8) : getF (tileFault s g code) F.TIL_STATUS_FAULT g = code ∧
    getF (tileFault s g code) F.TIL_STATUS_RUNNING g = 0 ∧ getF (tileFault s g code) F.TIL_STATUS_FENCED g = 1 ∧
    getF (tileFault s g code) F.TIL_STATUS_WAITKIND g = 0 ∧
    getF (tileFault s g code) F.TIL_STATUS_PC g = getF s F.TIL_STATUS_PC g ∧
    getF (tileFault s g code) F.TIL_REC_LAST_FAULT g = code := by
  have hm : code % 2 ^ 8 = code := Nat.mod_eq_of_lt (by omega)
  have same : ∀ (s : State) (f : Fld) (v : Nat), f.fits → getF (setF s f g v) f g = v % 2 ^ f.w := fun s f v h => getF_setF_same s f g v h
  refine ⟨?_, ?_, ?_, ?_, ?_, ?_⟩
  · rw [tileFault_fld rfl]
    simp (disch := decide) only [getF_setF_apart]
    exact (same _ _ _ (by decide)).trans hm
  · rw [tileFault_fld rfl]
    simp (disch := decide) only [getF_setF_apart]
    exact same _ _ _ (by decide)
  · rw [tileFault_fld rfl]
    simp (disch := decide) only [getF_setF_apart]
    exact same _ _ _ (by decide)
  · rw [tileFault_fld rfl]
    exact same _ _ _ (by decide)
  · rw [tileFault_fld rfl]
    simp (disch := decide) only [getF_setF_apart]
    exact getF_wrReg_ne _ _ _ _ _ _ (tilAddr_ne g rfl rfl (by decide))
  · rw [tileFault_fld rfl]
    simp (disch := decide) only [getF_setF_apart]
    exact (same _ _ _ (by decide)).trans hm

theorem tileFault_err :
    rdReg (tileFault s g code) .TIL_ERR g 0 = rdReg s .TIL_ERR g 0 ||| BitVec.ofNat 64 (2 ^ (code - 1)) := by
  have k : ∀ (s : State) (f : Fld) (v : Nat), (regRow f.reg).region = .til → (regRow .TIL_ERR).base ≠ (regRow f.reg).base →
      rdReg (setF s f g v) .TIL_ERR g 0 = rdReg s .TIL_ERR g 0 := fun s f v hf hb => rdReg_setF_ne s f _ g g 0 v (tilAddr_ne g rfl hf hb)
  rw [tileFault_reg rfl, k _ _ _ rfl (by decide), k _ _ _ rfl (by decide), k _ _ _ rfl (by decide), k _ _ _ rfl (by decide),
    k _ _ _ rfl (by decide), rdReg_wrReg_same]

theorem logSupp_tile (cnt first last : Fld) (u c h : Nat) :
    tileOf (logSupp s cnt first last u c) h = tileOf s h ∧ (logSupp s cnt first last u c).tiers = s.tiers := by
  unfold logSupp
  dsimp only
  split <;> simp only [tileOf_countF, tileOf_setF, countF_tiers, setF_tiers, and_self]

theorem logAbsorbed_tile (u c h : Nat) : tileOf (logAbsorbed s 0 u c) h = tileOf s h ∧ (logAbsorbed s 0 u c).tiers = s.tiers := by
  rw [logAbsorbed_zero]
  exact logSupp_tile s _ _ _ u c h

/-- The tile registers that a fault writes, one after another. -/
def faultRegs : State :=
  setF (setF (setF (setF (setF (wrReg s .TIL_ERR g 0 (rdReg s .TIL_ERR g 0 ||| BitVec.ofNat 64 (2 ^ (code - 1))))
    F.TIL_STATUS_FAULT g code) F.TIL_STATUS_RUNNING g 0) F.TIL_STATUS_FENCED g 1) F.TIL_REC_LAST_FAULT g code) F.TIL_STATUS_WAITKIND g 0

theorem tileFault_eq : tileFault s g code = tileIncident (logAbsorbed (modTile (faultRegs s g code) g (fun t =>
    { t with wait := none, held := none, arr := none, issue := none, fencing := none })) 0 (g / 700) (0x0100 + code)) g code := rfl

theorem faultRegs_tile (h : Nat) : tileOf (faultRegs s g code) h = tileOf s h := by
  unfold faultRegs
  simp only [tileOf_setF, tileOf_wrReg]

theorem faultRegs_tiers : (faultRegs s g code).tiers = s.tiers := by
  unfold faultRegs
  simp only [setF_tiers, wrReg_tiers]

/-- A fault ends what its tile is doing. -/
theorem tileFault_tile :
    tileOf (tileFault s g code) g = { tileOf s g with wait := none, held := none, arr := none, issue := none, fencing := none } := by
  rw [tileFault_eq, tileIncident_tile.1, (logAbsorbed_tile _ _ _ _).1, tileOf_modTile_same, faultRegs_tile]

theorem tileFault_others : OtherTiles g s (tileFault s g code) := fun h hn => by
  rw [tileFault_eq, tileIncident_tile.1, (logAbsorbed_tile _ _ _ _).1, tileOf_modTile_ne _ _ _ _ hn, faultRegs_tile]

theorem tileFault_tiers : (tileFault s g code).tiers = s.tiers := by
  rw [tileFault_eq, (tileIncident_tile (g := g)).2, (logAbsorbed_tile _ _ _ g).2, modTile_tiers, faultRegs_tiers]
end

/-- A body that first refuses its word faults with code 1. -/
theorem refused_faults {s : State} {t : TileId} {w : Word} {op : Nat} {b : Bool} {k : Unit → TileM OpEnd} (hi : Issues s t w op)
    (hb : b = true) : (Host.Outcome.next (runOp t w op (faultIf b 1 >>= k) s) : Host.Outcome State Fault Refusal) =
      .next (tileFault (issued s t.gid w) t.gid 1) :=
  congrArg _ (faults_of_run hi (by decide) (by decide) (tileM_bind_error (faultIf_true 1 _ hb)))

theorem opHang_expires {s : State} {g t0 : Nat} (ht : (tileOf s g).held = some t0 ∨ ∃ a, (tileOf s g).arr = some a ∧ a.since = t0)
    (hl : getF s F.TIL_HANG_LIMIT g ≠ 0) (hle : getF s F.TIL_HANG_LIMIT g ≤ s.now - t0) (hh : timersHeld s g = false) :
    opHang g s = tileFault s g 4 := by
  have hx : hung s g (some t0) = true := by simp [hung, hl, hle]
  unfold opHang
  dsimp only
  rw [if_pos]
  rw [hh]
  rcases ht with ht | ⟨a, ha, hs⟩
  · simp [ht, hx]
  · simp [ha, hs, hx]

/-- Settles O19: what a fault writes, which words are refused, and when the hang timer expires. -/
theorem tileFaultStopsAndFences : Obligations.TileFaultStopsAndFences := by
  unfold Obligations.TileFaultStopsAndFences
  refine ⟨fun s t code _ hc => ?_, fun s t w => ⟨fun hb => ?_, fun hb => ?_, fun hb => ?_, fun hb hi => ?_, fun t0 ht hl hle hh => ?_⟩⟩
  · obtain ⟨h1, h2, h3, h4, h5, h6⟩ := tileFault_status s t.gid code hc
    exact ⟨h1, h2, h3, h4, h5, h6, tileFault_err s t.gid code, tileFault_tile s t.gid code, tileFault_others s t.gid code,
      tileFault_tiers s t.gid code⟩
  · have b1 : (badS w || (wKind w == 2 && decide (3 < wD w))) = true := by simp [hb]
    exact ⟨(refused_faults · hb), (refused_faults · b1), (refused_faults · b1), (refused_faults · hb), (refused_faults · hb),
      (refused_faults · hb), (refused_faults · hb), fun hi => refused_faults hi (by simp [hb]), fun hi => refused_faults hi (by simp [hb]),
      (refused_faults · hb)⟩
  · refine ⟨(refused_faults · hb), (refused_faults · hb), (refused_faults · hb), ?_⟩
    repeat' constructor
    all_goals exact fun hi => refused_faults hi (by simp [hb])
  · exact ⟨(refused_faults · hb), (refused_faults · hb), (refused_faults · hb), (refused_faults · hb),
      fun hi => refused_faults hi (by simp [hb]), fun hi => refused_faults hi (by simp [hb])⟩
  · exact refused_faults hi (by simp [hb])
  · exact congrArg _ (opHang_expires ht hl hle hh)

/-! ### Timeouts of declared waits -/

theorem endWait_retires (x : State) (g : Nat) : Retires x (endWait x g) g := retire_done (rs := []) (OnlyTile.refl _ _ _) rfl

section
variable {s : State} {g since : Nat} {rep : Bool}

theorem opRecvTimeout_due {stream base count : Nat} (hw : (tileOf s g).wait = some ⟨.recv stream base count, since, rep⟩)
    (ho : overdue s (getF s F.FLD_STREAM_TMO_RECV_TMO (g / 700)) since = true) (hh : timersHeld s g = false) :
    opRecvTimeout g s = sendRec (startQuiesce (setF s F.TIL_CTRL_QUIESCE g 1) g) (.tile g) ST_TIMEOUT 0x0300 stream
      (getD (tileOf s g).rx stream {}).seq := by
  unfold opRecvTimeout
  rw [hw]
  dsimp only
  rw [if_pos (by simp [ho, hh])]

theorem swapTimeout_due (ho : overdue s (getF s F.FLD_STREAM_TMO_TSWAP_TMO (g / 700)) since = true) (hh : timersHeld s g = false) :
    swapTimeout g since false s = modTile (sendRec s (.tile g) ST_TIMEOUT 0x0301 (getF s F.TIL_TUNDISH_FILL_POUR g) 0) g
      (fun t => { t with wait := t.wait.map (fun w => { w with reported := true }) }) := by
  unfold swapTimeout
  rw [if_pos (by simp [ho, hh])]

theorem swapTimeout_not (h : rep = true ∨ overdue s (getF s F.FLD_STREAM_TMO_TSWAP_TMO (g / 700)) since = false) :
    swapTimeout g since rep s = s := by
  unfold swapTimeout
  rw [if_neg]
  rcases h with h | h <;> simp [h]

theorem opTswapTimeout_wait (hw : (tileOf s g).wait = some ⟨.tswap, since, rep⟩) : opTswapTimeout g s = swapTimeout g since rep s := by
  unfold opTswapTimeout
  rw [hw]

theorem opHoistTimeout_wait {gen : Nat} (hw : (tileOf s g).wait = some ⟨.hoist gen, since, rep⟩) :
    opHoistTimeout g s = swapTimeout g since rep s := by
  unfold opHoistTimeout
  rw [hw]

theorem opSgetTimeout_due {a : Nat} (hw : (tileOf s g).wait = some ⟨.sget a, since, rep⟩)
    (ho : overdue s (getF s F.SMP_CFG_SGET_TMO (g / 700)) since = true) :
    opSgetTimeout g s = endWait (memWrite s g a (plainResult ST_TIMEOUT (getF s F.TIL_SAMPLE_SESSION g) (getF s F.TIL_SAMPLE_SEQ g) 0)) g := by
  unfold opSgetTimeout
  rw [hw]
  exact if_pos ho
end

/-! ### TIL_CTRL -/

/-- A tile that starts has FAULT 0, keeps its PC, and runs unless it rests or is in bypass. -/
theorem startTile_fields (s : State) (g : Nat) :
    getF (startTile s g) F.TIL_STATUS_FAULT g = 0 ∧
      (getF s F.TIL_CTRL_QUIESCE g = 0 → getF s F.TIL_STATUS_BYPASS g = 0 → getF (startTile s g) F.TIL_STATUS_RUNNING g = 1) ∧
      getF (startTile s g) F.TIL_STATUS_PC g = getF s F.TIL_STATUS_PC g := by
  have hq : getF (setF (setF s F.TIL_CTRL_RUN g 1) F.TIL_STATUS_FAULT g 0) F.TIL_CTRL_QUIESCE g = getF s F.TIL_CTRL_QUIESCE g := by
    simp (disch := decide) only [getF_setF_apart]
  have hb : getF (setF (setF s F.TIL_CTRL_RUN g 1) F.TIL_STATUS_FAULT g 0) F.TIL_STATUS_BYPASS g = getF s F.TIL_STATUS_BYPASS g := by
    simp (disch := decide) only [getF_setF_apart]
  unfold startTile
  dsimp only
  rw [hq, hb]
  refine ⟨?_, fun h1 h2 => ?_, ?_⟩
  · split
    · simp (disch := decide) only [getF_setF_apart]
      exact getF_setF_same _ F.TIL_STATUS_FAULT g 0 (by decide)
    · exact getF_setF_same _ F.TIL_STATUS_FAULT g 0 (by decide)
  · rw [if_pos (by simp [h1, h2])]
    simp (disch := decide) only [getF_setF_apart]
    exact getF_setF_same _ F.TIL_STATUS_RUNNING g 1 (by decide)
  · split <;> simp (disch := decide) only [getF_setF_apart]

/-- A tile at rest: its registers, its engines, and nothing else. -/
theorem opQuiesceComplete_rests {s : State} {g : Nat} (hq : getF s F.TIL_STATUS_QUIESCED g = 0)
    (hc : getF s F.TIL_CTRL_QUIESCE g = 1 ∨ getF s F.TIL_STATUS_FENCED g = 1)
    (hr : getF s F.TIL_STATUS_FAULT g ≠ 0 ∨ (tileOf s g).wait = none ∧ pipesBusy (tileOf s g) = false) :
    opQuiesceComplete g s = modTile (setF (setF (setF (flushGen s g) F.TIL_STATUS_QUIESCED g 1) F.TIL_STATUS_RUNNING g 0) F.TIL_STATUS_PC g
      (firstOpen (tileOf s g) (getF (flushGen s g) F.TIL_STATUS_PC g))) g
      (fun t => { t with queues := [], feeds := [], fed := [], held := none }) := by
  have hpc : getF (setF (setF (flushGen s g) F.TIL_STATUS_QUIESCED g 1) F.TIL_STATUS_RUNNING g 0) F.TIL_STATUS_PC g =
      getF (flushGen s g) F.TIL_STATUS_PC g := by
    simp (disch := decide) only [getF_setF_apart]
  unfold opQuiesceComplete
  dsimp only
  rw [if_pos, hpc]
  have h1 : (decide (getF s F.TIL_CTRL_QUIESCE g = 1) || decide (getF s F.TIL_STATUS_FENCED g = 1)) = true := by simpa using hc
  have h2 : (getF s F.TIL_STATUS_FAULT g != 0 || (tileOf s g).wait.isNone && !pipesBusy (tileOf s g)) = true := by
    rcases hr with h | ⟨h, k⟩
    · simp [h]
    · simp [h, k]
  rw [h1, h2, hq]
  rfl

theorem opResend_again {s : State} {g : Nat} {v : Word} (hc : (getD (tileOf s g).tx (getBits v 0 8) {}).count ≠ 0)
    (hs : (getD (tileOf s g).tx (getBits v 0 8) {}).seq = getBits v 16 16) (hf : (tileOf s g).memFlip = []) :
    opResend g v s = sendTransfer s g (getBits v 0 8) (getD (tileOf s g).tx (getBits v 0 8) {}).seq false
      (tileBytes (tileOf s g) (getD (tileOf s g).tx (getBits v 0 8) {}).addr (64 * (getD (tileOf s g).tx (getBits v 0 8) {}).count)) := by
  unfold opResend
  dsimp only
  rw [if_pos (by simp [hc, hs]), memReadRemote_clean hf]
  rfl

/-- Settles O20: each timer and each write of TIL_CTRL by the lemma about its op. -/
theorem tileTimersAndControl : Obligations.TileTimersAndControl := by
  unfold Obligations.TileTimersAndControl
  intro s t
  refine ⟨fun hh => ⟨fun stream base count since rep hw ho => congrArg _ (opRecvTimeout_due hw ho hh),
      fun since ho => ⟨fun hw => congrArg _ ((opTswapTimeout_wait hw).trans (swapTimeout_due ho hh)),
        fun gen hw => congrArg _ ((opHoistTimeout_wait hw).trans (swapTimeout_due ho hh))⟩⟩,
    fun a since rep hw ho => ⟨_, rfl, ?_⟩,
    fun since rep hw h => congrArg _ ((opTswapTimeout_wait hw).trans (swapTimeout_not h)),
    fun hq => ⟨congrArg _ (if_neg (by simp [hq])), startTile_fields s t.gid, congrArg _ (if_neg (by simp [hq])),
      congrArg _ (if_neg (by simp [hq])), congrArg _ (if_neg (by simp [hq]))⟩,
    fun hf v => ⟨congrArg _ (if_pos hf), congrArg _ (if_pos hf)⟩,
    fun hq hc hr => ⟨_, rfl, ?_⟩,
    fun v hc hs hf => congrArg _ (opResend_again hc hs hf)⟩
  · rw [opSgetTimeout_due hw ho]
    exact endWait_retires _ _
  · rw [opQuiesceComplete_rests hq hc hr]
    refine ⟨?_, ?_, ?_, ?_, ?_⟩
    · rw [getF_modTile]
      simp (disch := decide) only [getF_setF_apart]
      exact getF_setF_same _ F.TIL_STATUS_QUIESCED t.gid 1 (by decide)
    · rw [getF_modTile]
      simp (disch := decide) only [getF_setF_apart]
      exact getF_setF_same _ F.TIL_STATUS_RUNNING t.gid 0 (by decide)
    · rw [getF_modTile]
      exact getF_setF_same _ F.TIL_STATUS_PC t.gid _ (by decide)
    · simp only [tileOf_modTile_same, tileOf_setF]
    · have step := fun (x : State) (f : Fld) (v : Nat) => onlyTile_setF t.gid x f v
      exact (((step _ F.TIL_STATUS_QUIESCED _).trans (step _ F.TIL_STATUS_RUNNING _) (List.Subset.refl _) (List.Subset.refl _)).trans
        (step _ F.TIL_STATUS_PC _) (List.Subset.refl _) (List.Subset.refl _)).trans (onlyTile_modTile t.gid _ _) (List.Subset.refl _)
        (List.nil_subset _)
end Sys2Proof.Machine
end

section
/-! PROOFS. Packets at a tile's local port, and the mesh router. -/
namespace Sys2Proof.Machine

/-! ### Stream packets -/

section
variable {s : State} {g stream base count : Nat} {p : Packet}

theorem opStreamAccept_recv {k since : Nat} {rep : Bool} (hp : localPacket s g k = some p)
    (hw : (tileOf s g).wait = some ⟨.recv stream base count, since, rep⟩) (ht : p.typ = tyStream) (hs : p.stream = stream) :
    opStreamAccept g k s = acceptStream (takeLocal s g k) g stream base count p := by
  unfold opStreamAccept
  rw [hp, hw]
  exact if_pos (by simp [ht, hs])

/-- A packet that shows another length than COUNT. -/
theorem acceptStream_long (h : count < p.addr + p.payload.length / 64 ∨ p.last ≠ decide (p.addr + p.payload.length / 64 = count)) :
    acceptStream s g stream base count p = tileFault s g 1 :=
  if_pos (by simpa using h)

/-- A packet within the transfer whose units have come before. -/
theorem acceptStream_again (hle : p.addr + p.payload.length / 64 ≤ count) (hl : p.last = decide (p.addr + p.payload.length / 64 = count))
    (hu : p.addr < (getD (tileOf s g).rx stream {}).units) : acceptStream s g stream base count p = s := by
  unfold acceptStream
  dsimp only
  rw [if_neg (by simp [hl, hle]), if_pos hu]

/-- What a packet that is in order stores: its units, and the time of the wait. -/
def streamStored (s : State) (g base : Nat) (p : Packet) : State :=
  memWrite (modTile s g (fun t => { t with wait := t.wait.map (fun w => { w with since := s.now }) })) g (base + 64 * p.addr) p.payload

theorem acceptStream_next (hle : p.addr + p.payload.length / 64 ≤ count) (hl : p.last = decide (p.addr + p.payload.length / 64 = count))
    (hu : p.addr = (getD (tileOf s g).rx stream {}).units) :
    acceptStream s g stream base count p =
      (let r : RxRec := { seq := p.tag, units := p.addr + p.payload.length / 64, last := (getD (tileOf s g).rx stream {}).last || p.last }
       if r.last && r.units = count then recvDone (setRx (streamStored s g base p) g stream r) g stream p.tag
       else setRx (streamStored s g base p) g stream r) := by
  unfold acceptStream streamStored
  dsimp only
  rw [if_neg (by simp [hl, hle]), if_neg (by omega), if_pos hu]
end

/-! ### Pour data -/

section
variable {s : State} {g : Nat} {p : Packet}

theorem opPourLand_open {k : Nat} (hp : localPacket s g k = some p) (hy : isPour p = true) (hf : getF s F.TIL_STATUS_FENCED g = 0) :
    opPourLand g k s = landPour (takeLocal s g k) g p := by
  unfold opPourLand
  rw [hp]
  dsimp only
  rw [if_neg (by simp [hy]), if_neg (by simp [hf])]

theorem opPourLand_fenced {k : Nat} (hp : localPacket s g k = some p) (hy : isPour p = true) (hf : getF s F.TIL_STATUS_FENCED g = 1) :
    opPourLand g k s = countF (takeLocal s g k) F.FLD_ELOG_DISC_FENCED_POUR (g / 700) 1 := by
  unfold opPourLand
  rw [hp]
  dsimp only
  rw [if_neg (by simp [hy]), if_pos hf]

/-- A pour packet at a half that can take it. -/
theorem landPour_fills (h2 : halfState s g (1 - getF s F.TIL_TUNDISH_DRAW g) ≠ 2) (h3 : halfState s g (1 - getF s F.TIL_TUNDISH_DRAW g) ≠ 3)
    {skip : Bool} (hs : (p.payload.isEmpty && p.last && Nat.testBit p.addr 23) = skip) :
    landPour s g p = wakeSwap (setHalf (setF (if skip then s else fillHalf s g (p.addr - 0x120000) p.payload) F.TIL_TUNDISH_FILL_POUR g p.tag)
      g (1 - getF s F.TIL_TUNDISH_DRAW g) (if skip then 3 else if p.last then 2 else 1)) g := by
  subst hs
  unfold landPour
  dsimp only
  rw [if_neg (by simp [h2, h3])]

theorem landPour_full (h : halfState s g (1 - getF s F.TIL_TUNDISH_DRAW g) = 2 ∨ halfState s g (1 - getF s F.TIL_TUNDISH_DRAW g) = 3) :
    landPour s g p = countF (setF s F.TIL_TUNDISH_DROPPED g 1) F.FLD_ELOG_DISC_DROPPED_HALF (g / 700) 1 :=
  if_pos (by simpa using h)
end

/-! ### Increments, requests and answers -/

section
variable {s : State} {g k : Nat} {p : Packet} (hp : localPacket s g k = some p)
include hp

/-- An increment adds to its counter, and ends an EVWAIT that now holds. -/
theorem opEventTile_incr (ht : p.typ = tyIncr) :
    opEventTile g k s = (match (tileOf s g).wait with
      | some ⟨.evwait e v, _, _⟩ => if reached (eAt (addLocal (takeLocal s g k) g (p.addr % 16) p.amount) g e) v then
          endWait (addLocal (takeLocal s g k) g (p.addr % 16) p.amount) g else addLocal (takeLocal s g k) g (p.addr % 16) p.amount
      | _ => addLocal (takeLocal s g k) g (p.addr % 16) p.amount) := by
  have hw : (tileOf (addLocal (takeLocal s g k) g (p.addr % 16) p.amount) g).wait = (tileOf s g).wait := by
    unfold addLocal takeLocal
    rw [tileOf_modTile_same, tileOf_modTile_same]
  unfold opEventTile
  rw [hp]
  dsimp only
  rw [if_neg (not_not.mpr ht), hw] <;> rfl

theorem opRemoteRead_clean (ht : p.typ = tyReadReq) (hf : (tileOf s g).memFlip = []) :
    opRemoteRead g k s = inject (takeLocal s g k) g { typ := tyReadResp, cls := 0, routed := true, dx := p.sx, dy := p.sy, tag := p.tag,
                                                      payload := tileBytes (tileOf s g) p.addr p.units, units := p.units } := by
  have hf' : (tileOf (takeLocal s g k) g).memFlip = [] := by unfold takeLocal; rw [tileOf_modTile_same]; exact hf
  have hb : tileBytes (tileOf (takeLocal s g k) g) p.addr p.units = tileBytes (tileOf s g) p.addr p.units := by
    unfold takeLocal
    rw [tileOf_modTile_same]
    rfl
  unfold opRemoteRead
  rw [hp]
  dsimp only
  rw [if_neg (not_not.mpr ht), memReadRemote_clean hf', hb]
  rfl

theorem opRemoteWrite_stores (ht : p.typ = tyWrite) (hn : isPour p = false) :
    opRemoteWrite g k s = modPt (memWrite (takeLocal s g k) g p.addr p.payload) p.page (fun e =>
      if e.cur = e.home then e else { e with dirty := e.dirty ||| BitVec.ofNat 64 (2 ^ (p.addr / 4096 % 64)) }) := by
  unfold opRemoteWrite
  rw [hp]
  dsimp only
  rw [if_neg (by simp [ht, hn])]
  unfold setDirty
  congr 1
  funext e
  by_cases h : e.cur = e.home
  · simp [h]
  · simp [h]

theorem opReadResponse_answers (ht : p.typ = tyReadResp) {r : ReadSlot}
    (hr : (tileOf s g).reads.find? (fun r => r.tag == p.tag) = some r) :
    opReadResponse g k s = (let y := modTile (takeLocal s g k) g (fun t => { t with reads := t.reads.filter (fun q => q.tag != p.tag) })
      if p.poison then tileFault (sendRec y (.tile g) 0 0x2000 r.page (logX y g + 256 * logY y g)) g 6
      else progress (memWrite y g r.base p.payload) g) := by
  have hr' : (tileOf (takeLocal s g k) g).reads.find? (fun r => r.tag == p.tag) = some r := by
    unfold takeLocal
    rw [tileOf_modTile_same]
    exact hr
  unfold opReadResponse
  rw [hp]
  dsimp only
  rw [if_neg (not_not.mpr ht)]
  unfold takeResponse
  rw [hr']
end

/-! ### Poison notices -/

/-- The page is poisoned, or is being poisoned. -/
def poisonComing (s : State) (page : Nat) : Bool :=
  (ptEntry s page).poison || s.tiers.changes.any (fun c => c.page == page && (match c.what with | .poison .. => true | _ => false))

theorem poisonComing_iff (s : State) (page : Nat) : poisonComing s page = true ↔
    (ptEntry s page).poison = true ∨ ∃ c ∈ s.tiers.changes, c.page = page ∧ ∃ u v, c.what = .poison u v := by
  have hm : ∀ w : PtWhat, (match w with | .poison .. => true | _ => false) = true ↔ ∃ u v, w = .poison u v := by
    intro w
    cases w <;> simp
  simp only [poisonComing, Bool.or_eq_true, List.any_eq_true, Bool.and_eq_true, beq_iff_eq, hm]

theorem poisonPage_eq (s : State) (page unit tier : Nat) : poisonPage s page unit tier =
    if poisonComing s page then s
    else { s with tiers := { s.tiers with changes := s.tiers.changes ++ [{ page, what := .poison unit tier }] } } := rfl

theorem opPoisonNotice_takes {s : State} {k n : Nat} {rest : List Nat} (h : takeAt s.notices k = some (n, rest)) :
    opPoisonNotice k s = poisonPage { s with notices := rest } (n / 64) (n % 64) 0 := by
  unfold opPoisonNotice
  rw [h]

/-- Settles O21: each packet by the lemma about its op. -/
theorem localPortPackets : Obligations.LocalPortPackets := by
  unfold Obligations.LocalPortPackets
  refine ⟨fun s t k p hp => ⟨fun stream base count since rep hw ht hs => ?_, fun hy hf => ⟨fun h2 h3 => ⟨fun hk hl => ?_, fun hk hl => ?_,
      fun hk => ?_⟩, fun h => congrArg _ ((opPourLand_open hp hy hf).trans (landPour_full h))⟩,
    fun hy hf => congrArg _ (opPourLand_fenced hp hy hf), fun ht => ⟨fun e v since rep hw hr => ⟨_, rfl, ?_⟩, fun hn => ?_⟩,
    fun ht hf => congrArg _ (opRemoteRead_clean hp ht hf), fun ht hn => congrArg _ (opRemoteWrite_stores hp ht hn),
    fun ht r hr => ⟨fun hb => congrArg _ ((opReadResponse_answers hp ht hr).trans (if_neg (by simp [hb]))),
      fun hb => congrArg _ ((opReadResponse_answers hp ht hr).trans (if_pos hb))⟩⟩, fun s k n rest h => ⟨fun hc => ?_, fun hn hc => ?_⟩⟩
  · have body := opStreamAccept_recv hp hw ht hs
    refine ⟨fun hu hlt hl hr => congrArg _ (body.trans ((acceptStream_next hlt.le ?_ hu).trans ?_)),
      fun hu he hl => congrArg _ (body.trans ((acceptStream_next he.le ?_ hu).trans ?_)),
      fun hu hle hl => congrArg _ (body.trans (acceptStream_again hle hl hu)),
      fun h => congrArg _ (body.trans (acceptStream_long h))⟩
    · rw [hl, decide_eq_false hlt.ne]
    · simp only [hr, hl, Bool.or_false, Bool.false_and, Bool.false_eq_true, if_false]
      rfl
    · rw [hl, decide_eq_true he]
    · simp only [hl, Bool.or_true, he, decide_true, Bool.and_self, if_true]
      rfl
  · exact congrArg _ ((opPourLand_open hp hy hf).trans ((landPour_fills h2 h3 hk).trans (by simp only [hl]; rfl)))
  · exact congrArg _ ((opPourLand_open hp hy hf).trans ((landPour_fills h2 h3 hk).trans (by simp only [hl]; rfl)))
  · exact congrArg _ ((opPourLand_open hp hy hf).trans (landPour_fills h2 h3 hk))
  · rw [opEventTile_incr hp ht, hw]
    dsimp only
    rw [if_pos hr]
    exact endWait_retires _ _
  · refine congrArg _ ((opEventTile_incr hp ht).trans ?_)
    split
    · next e v since rep hw => exact if_neg (by simp [hn e v since rep hw])
    · rfl
  · exact congrArg _ ((opPoisonNotice_takes h).trans (if_pos ((poisonComing_iff _ _).mpr hc)))
  · refine congrArg _ ((opPoisonNotice_takes h).trans (if_neg fun hp => ?_))
    rcases (poisonComing_iff _ _).mp hp with hp | ⟨c, hm, he, u, v, hw⟩
    · exact Bool.false_ne_true (hn.symm.trans hp)
    · exact hc c hm he u v hw

/-! ### Flits -/

section
variable {s : State} {g vc : Nat} {p : Port} {w : Wired} {rest : List Wired}

theorem opFlit_port (hp : p ≠ .local) (ok : Bool) : opFlit g p vc ok s = flitIn g p vc ok s := if_neg hp

theorem flitIn_good (hw : getD (tileOf s g).wire (portKey p vc) [] = w :: rest) (hr : hasRoom s g p vc = true)
    (ht : flitThere s w.src p.opposite.num vc w.got = true) :
    flitIn g p vc true s = flitGone (modTile (takeFlit s g (portKey p vc) w.pkt w.got) g (fun t =>
      { t with wire := put t.wire (portKey p vc) (wireOn w rest) [] })) w.src p.opposite.num vc (w.got + 1) := by
  unfold flitIn
  simp only [hw, hr, ht]
  rfl

theorem flitIn_bad (hw : getD (tileOf s g).wire (portKey p vc) [] = w :: rest) (hr : hasRoom s g p vc = true)
    (ht : flitThere s w.src p.opposite.num vc w.got = true) :
    flitIn g p vc false s = (if w.tries + 1 < 4 then modTile (setF s F.TIL_ERR_REPLAYED g 1) g (fun t =>
        { t with wire := put t.wire (portKey p vc) ({ w with tries := w.tries + 1 } :: rest) [] })
      else wireDown (setF s F.TIL_ERR_REPLAYED g 1) g p) := by
  unfold flitIn
  simp only [hw, hr, ht]
  rfl

theorem opFlit_crescent {o : Port} (ho : cresLink s g vc = some o) (ok : Bool) : opFlit g .local vc ok s = flitOut g o vc ok s := by
  unfold opFlit
  rw [if_pos rfl, ho]

theorem opFlit_noCrescent (ho : cresLink s g vc = none) (ok : Bool) : opFlit g .local vc ok s = s := by
  unfold opFlit
  rw [if_pos rfl, ho]

/-- The link that brings a flit to a crescent has one whose next flit is there. -/
theorem cresLink_there {o : Port} (ho : cresLink s g vc = some o) (hw : getD (tileOf s g).cresWire (portKey o vc) [] = w :: rest) :
    flitThere s (some g) o.num vc w.got = true := by
  have h := List.find?_some ho
  rw [hw] at h
  simpa using h

theorem flitOut_good (hw : getD (tileOf s g).cresWire (portKey p vc) [] = w :: rest) (ht : flitThere s (some g) p.num vc w.got = true) :
    flitOut g p vc true s = (let y := flitGone (modTile s g (fun t =>
        { t with cresWire := put t.cresWire (portKey p vc) (wireOn w rest) [] })) (some g) p.num vc (w.got + 1)
      if w.got + 1 < w.pkt.size then y else cresTake y w.pkt.dc w.pkt) := by
  unfold flitOut
  simp only [hw, ht]
  rfl

theorem flitOut_bad (hw : getD (tileOf s g).cresWire (portKey p vc) [] = w :: rest) (ht : flitThere s (some g) p.num vc w.got = true) :
    flitOut g p vc false s = (if w.tries + 1 < 4 then modTile s g (fun t =>
        { t with cresWire := put t.cresWire (portKey p vc) ({ w with tries := w.tries + 1 } :: rest) [] }) else cresDown s g p) := by
  unfold flitOut
  simp only [hw, ht]
  rfl

theorem wireOn_more (h : w.got + 1 < w.pkt.size) : wireOn w rest = { w with got := w.got + 1, tries := 0 } :: rest := if_pos h
theorem wireOn_last (h : w.pkt.size ≤ w.got + 1) : wireOn w rest = rest := if_neg (Nat.not_lt.mpr h)
end

/-! ### Forwarding -/

section
variable {s : State} {g vc : Nat} {p : Port} {q : Packet} (hq : headPacket s g p vc = some q)

theorem routes_iff : routes s g = true ↔ inService s (g / 700) = true ∧ getF s F.TIL_STATUS_BYPASS g = 0 := by
  simp [routes]

include hq in
theorem opStatic_routes (hr : routes s g = true) (hn : q.routed = false) :
    opStatic g p vc s =
      (if getBits (rdReg s .TIL_ROUTE g (q.stream % 256)) 0 1 = 0 ||
          (maskPorts (getBits (rdReg s .TIL_ROUTE g (q.stream % 256)) 1 5)).isEmpty ||
          (maskPorts (getBits (rdReg s .TIL_ROUTE g (q.stream % 256)) 1 5)).any
            (fun x => x != .local && (stepPos x (logX s g) (logY s g)).isNone) then noRoute s g p vc q
      else match sendAll s g p q (maskPorts (getBits (rdReg s .TIL_ROUTE g (q.stream % 256)) 1 5)) with
        | .sent t => routeHead t g p vc ((maskPorts (getBits (rdReg s .TIL_ROUTE g (q.stream % 256)) 1 5)).map (·.num))
        | .wait => s
        | .down => noRoute s g p vc q) := by
  unfold opStatic
  rw [hq]
  dsimp only
  rw [if_neg (by simp [hn]), if_neg (by simp [(routes_iff.mp hr).2]), if_neg (by simp [hr])] <;> rfl

/-- The route entry of a packet names no way on. -/
theorem noWay_iff (b : Nat) (ports : List Port) (x y : Nat) :
    (b = 0 || ports.isEmpty || ports.any (fun o => o != .local && (stepPos o x y).isNone)) = true ↔
      b = 0 ∨ ports = [] ∨ ∃ o ∈ ports, ¬ (o = .local ∨ (stepPos o x y).isSome = true) := by
  simp [or_assoc]

include hq in
theorem opCoord_routes (hr : routes s g = true) (hy : q.routed = true) :
    opCoord g p vc s =
      (if 191 < q.dx || 167 < q.dy || (q.dcres && !borders q.dc q.dx q.dy) then noRoute s g p vc q
      else match (match nextPort s g q with
          | some o => sendOut s g o q
          | none => if q.dcres then toCrescent s g q else sendLocal s g p q) with
        | .sent t => routeHead t g p vc [match nextPort s g q with | some o => o.num | none => if q.dcres then (cresPort q.dc).num else 4]
        | .wait => s
        | .down => discard s g p vc q) := by
  unfold opCoord
  rw [hq]
  dsimp only
  rw [if_neg (by simp [hy]), if_neg (by simp [(routes_iff.mp hr).2]), if_neg (by simp [hr])] <;> rfl

theorem nextPort_here (hx : logX s g = q.dx) (hy : logY s g = q.dy) : nextPort s g q = none := by
  simp [nextPort, hx, hy]

theorem nextPort_on (h : ¬ (logX s g = q.dx ∧ logY s g = q.dy)) :
    nextPort s g q = some (if logX s g < q.dx then .e else if q.dx < logX s g then .w else if logY s g < q.dy then .s else .n) := by
  unfold nextPort
  dsimp only
  split
  · rfl
  · split
    · rfl
    · split
      · rfl
      · rw [if_pos (by omega)]

include hq in
/-- A router in bypass passes a packet through. -/
theorem bypass_passes (hb : getF s F.TIL_STATUS_BYPASS g = 1) :
    (q.routed = false → opStatic g p vc s = passThrough s g p vc q) ∧ (q.routed = true → opCoord g p vc s = passThrough s g p vc q) := by
  refine ⟨fun h => ?_, fun h => ?_⟩
  · unfold opStatic
    rw [hq]
    dsimp only
    rw [if_neg (by simp [h]), if_pos hb]
  · unfold opCoord
    rw [hq]
    dsimp only
    rw [if_neg (by simp [h]), if_pos hb]

theorem passThrough_sent (hs : inService s (g / 700) = true) (hp : p = .e ∨ p = .w) {u : State}
    (h : takeOut s g p.opposite (stepPhys s 3 g p.opposite) q = .sent u) : passThrough s g p vc q = routeHead u g p vc [p.opposite.num] := by
  have hp' : (p == .e || p == .w) = true := by simpa using hp
  unfold passThrough
  rw [if_neg (by simp [hs, hp']), h]

theorem sendOut_sent {h : Nat} (hd : (tileOf s g).down.getLsbD p.num = false) (hn : neighbour s g p = some h)
    (hs : inService s (h / 700) = true) (hw : getD (tileOf s h).wire (portKey p.opposite q.cls) [] = [])
    (hr : hasRoom s h p.opposite q.cls = true) : sendOut s g p q = .sent (putWire s h p.opposite q (some g)) := by
  unfold sendOut takeOut
  rw [hd, hn]
  simp [hs, hw, hr]
end

/-- Settles O22: flits by the link that brings them, headers by the route that they take. -/
theorem meshRouterForwards : Obligations.MeshRouterForwards := by
  unfold Obligations.MeshRouterForwards
  intro s t p vc
  refine ⟨fun w rest hw hr ht hp => ⟨congrArg _ ((opFlit_port hp _).trans (flitIn_good hw hr ht)),
      fun h => congrArg _ ((opFlit_port hp _).trans ((flitIn_bad hw hr ht).trans (if_pos h))),
      fun h => congrArg _ ((opFlit_port hp _).trans ((flitIn_bad hw hr ht).trans (if_neg (Nat.not_lt.mpr h))))⟩,
    fun o w rest ho hw => ?_, fun ho ok => congrArg _ (opFlit_noCrescent ho ok), fun q hq hr => ⟨fun hn => ⟨fun h => ?_, fun h1 h2 h3 => ?_⟩,
      fun hy => ⟨fun h => ?_, fun h => ?_⟩⟩, fun q hq hb hs hp u hu => ?_, fun o q h hd hn hs hw hr => sendOut_sent hd hn hs hw hr,
    fun o q hd => if_pos hd⟩
  · have ht := cresLink_there ho hw
    refine ⟨fun h => congrArg _ ((opFlit_crescent ho _).trans ((flitOut_good hw ht).trans ?_)),
      fun h => congrArg _ ((opFlit_crescent ho _).trans ((flitOut_good hw ht).trans ?_)),
      fun h => congrArg _ ((opFlit_crescent ho _).trans ((flitOut_bad hw ht).trans (if_pos h))),
      fun h => congrArg _ ((opFlit_crescent ho _).trans ((flitOut_bad hw ht).trans (if_neg (Nat.not_lt.mpr h))))⟩
    · rw [wireOn_more h]
      exact if_pos h
    · rw [wireOn_last h]
      exact if_neg (Nat.not_lt.mpr h)
  · exact congrArg _ ((opStatic_routes hq hr hn).trans (if_pos ((noWay_iff _ _ _ _).mpr h)))
  · have hway : ¬ (getBits (rdReg s .TIL_ROUTE t.gid (q.stream % 256)) 0 1 = 0 ∨
        maskPorts (getBits (rdReg s .TIL_ROUTE t.gid (q.stream % 256)) 1 5) = [] ∨
        ∃ o ∈ maskPorts (getBits (rdReg s .TIL_ROUTE t.gid (q.stream % 256)) 1 5),
          ¬ (o = .local ∨ (stepPos o (logX s t.gid) (logY s t.gid)).isSome = true)) := by
      rintro (h | h | ⟨o, ho, h⟩)
      · omega
      · exact h2 h
      · exact h (h3 o ho)
    have body := (opStatic_routes hq hr hn).trans (if_neg (mt (noWay_iff _ _ _ _).mp hway))
    exact ⟨fun u hu => congrArg _ (body.trans (by rw [hu])), fun hu => congrArg _ (body.trans (by rw [hu])),
      fun hu => congrArg _ (body.trans (by rw [hu]))⟩
  · exact congrArg _ ((opCoord_routes hq hr hy).trans (if_pos (by simpa [or_assoc] using h)))
  · have body := (opCoord_routes hq hr hy).trans (if_neg (by simpa [or_assoc] using h))
    by_cases hh : logX s t.gid = q.dx ∧ logY s t.gid = q.dy
    · simp only [hh, and_self, if_true]
      rw [nextPort_here hh.1 hh.2] at body
      exact ⟨fun u hu => congrArg _ (body.trans (by rw [hu])), fun hu => congrArg _ (body.trans (by rw [hu])),
        fun hu => congrArg _ (body.trans (by rw [hu]))⟩
    · simp only [hh, if_false]
      rw [nextPort_on hh] at body
      dsimp only at body
      exact ⟨fun u hu => congrArg _ (body.trans (by rw [hu])), fun hu => congrArg _ (body.trans (by rw [hu])),
        fun hu => congrArg _ (body.trans (by rw [hu]))⟩
  · obtain ⟨h1, h2⟩ := bypass_passes hq hb
    have h3 := passThrough_sent (vc := vc) hs hp hu
    exact ⟨fun h => congrArg _ ((h1 h).trans h3), fun h => congrArg _ ((h2 h).trans h3)⟩
end Sys2Proof.Machine
end

section
/-! PROOFS. The token sampler of a field. -/
namespace Sys2Proof.Machine

/-! ### The sampler of a field -/

theorem samplerOf_modSampler (s : State) (f : Nat) (h : Sampler → Sampler) : samplerOf (modSampler s f h) f = h (samplerOf s f) := by
  unfold samplerOf modSampler setSampler
  exact getD_put_same _ _ _ _

theorem getF_modSampler (s : State) (f : Nat) (h : Sampler → Sampler) (q : Fld) (u : Nat) : getF (modSampler s f h) q u = getF s q u := rfl

/-! ### Headers -/

section
variable {s : State} {f k : Nat} {b : BusMsg}

/-- The state in which message `k` has left the bus. -/
def offBus (s : State) (f k : Nat) : State := modSampler s f (fun m => { m with bus := m.bus.eraseIdx k })

/-- A header of a session that is neither finished nor timed out: kept, waiting, or the one that opens the session. -/
def joinSession (s : State) (f k : Nat) (b : BusMsg) : State :=
  match find (samplerOf s f).sessions (headSession b) with
  | some x =>
    if x.seq ≠ headSeq b then s
    else opSampleHeader.collect f (offBus s f k) (headSession b) { x with heads := x.heads ++ [headOf' b] }
  | none => opSampleHeader.collect f (offBus (setF s F.SMP_STAT_BUSY f (getF s F.SMP_STAT_BUSY f + 2 ^ headSession b)) f k)
      (headSession b) { seq := headSeq b, since := s.now, heads := [headOf' b] }

/-- What becomes of the first header of its tile for its session. -/
theorem opSampleHeader_first (hb : (samplerOf s f).bus[k]? = some b)
    (hk : ((samplerOf s f).bus.take k).any (fun x => x.gid == b.gid && headSession x == headSession b) = false) :
    opSampleHeader f k s =
      (if headBreaks b then sendResult (countF (offBus s f k) F.SMP_ERR_INVALID f 1) f b.gid
          (plainResult ST_SAMPLE_INVALID (headSession b) (headSeq b) 0)
      else if (headOf' b).contrib = 0 || (headOf' b).topk = 0 then
        sendResult (offBus s f k) f b.gid (plainResult ST_OK_EMPTY (headSession b) (headSeq b) 0)
      else if (getD (samplerOf s f).timedOut (headSession b) []).contains (headSeq b) then
        sendResult (offBus s f k) f b.gid (plainResult ST_TIMEOUT (headSession b) (headSeq b) 0)
      else if (find (samplerOf s f).finished (headSession b)).any (fun x => x.seq == headSeq b) then
        (find (samplerOf s f).finished (headSession b)).elim s (excessHeader (offBus s f k) f (headSession b) b.gid)
      else joinSession s f k b) := by
  unfold opSampleHeader
  dsimp only
  rw [hb]
  dsimp only
  rw [if_neg (by simp [hk])]
  rfl

/-- The header of a session that goes on. -/
theorem opSampleHeader_joins (hb : (samplerOf s f).bus[k]? = some b)
    (hk : ((samplerOf s f).bus.take k).any (fun x => x.gid == b.gid && headSession x == headSession b) = false)
    (h1 : headBreaks b = false) (h2 : (headOf' b).contrib ≠ 0) (h3 : (headOf' b).topk ≠ 0)
    (h4 : headSeq b ∉ getD (samplerOf s f).timedOut (headSession b) [])
    (h5 : ∀ d, find (samplerOf s f).finished (headSession b) = some d → d.seq ≠ headSeq b) :
    opSampleHeader f k s = joinSession s f k b := by
  have hfin : ¬ (find (samplerOf s f).finished (headSession b)).any (fun x => x.seq == headSeq b) = true := by
    cases hd : find (samplerOf s f).finished (headSession b) with
    | none => simp
    | some d => simpa using h5 d hd
  rw [opSampleHeader_first hb hk, if_neg (by simp [h1]), if_neg (by simp [h2, h3]), if_neg (by simpa using h4), if_neg hfin]

theorem joinSession_kept {y : Session} (hy : find (samplerOf s f).sessions (headSession b) = some y) (hs : y.seq = headSeq b) :
    joinSession s f k b = opSampleHeader.collect f (offBus s f k) (headSession b) { y with heads := y.heads ++ [headOf' b] } := by
  unfold joinSession
  rw [hy]
  exact if_neg (not_not.mpr hs)

theorem joinSession_waits {y : Session} (hy : find (samplerOf s f).sessions (headSession b) = some y) (hs : y.seq ≠ headSeq b) :
    joinSession s f k b = s := by
  unfold joinSession
  rw [hy]
  exact if_pos hs

theorem joinSession_opens (hy : find (samplerOf s f).sessions (headSession b) = none) :
    joinSession s f k b = opSampleHeader.collect f (offBus (setF s F.SMP_STAT_BUSY f (getF s F.SMP_STAT_BUSY f + 2 ^ headSession b)) f k)
      (headSession b) { seq := headSeq b, since := s.now, heads := [headOf' b] } := by
  unfold joinSession
  rw [hy]
end

theorem collect_more {s : State} {f ses : Nat} {x : Session} (h : ∀ e ∈ x.heads, x.heads.length < e.contrib) :
    opSampleHeader.collect f s ses x = modSampler s f (fun m => { m with sessions := insert m.sessions ses x }) := by
  unfold opSampleHeader.collect
  exact if_neg (by simpa using h)

theorem collect_last {s : State} {f ses : Nat} {x : Session} (h : ∃ e ∈ x.heads, e.contrib ≤ x.heads.length) :
    opSampleHeader.collect f s ses x = (let r := sessionResult ses x
      let c := countF s F.SMP_STAT_SAMPLES f 1
      let c := if r.1 = ST_SAMPLE_MISMATCH then countF c F.SMP_ERR_MISMATCH f 1 else c
      let d := Finished.mk x.seq (x.heads.map (·.gid)) (x.heads.flatMap candsOf).length
      endSession (modSampler c f (fun m => { m with finished := insert m.finished ses d })) f ses x r.2) := by
  unfold opSampleHeader.collect
  exact if_pos (by simpa using h)

/-! ### Timeouts and results -/

theorem opSessionTimeout_waits {s : State} {f ses : Nat} {x : Session} (hx : find (samplerOf s f).sessions ses = some x)
    (h : getF s F.SMP_CFG_TMO f = 0 ∨ s.now - x.since < getF s F.SMP_CFG_TMO f) : opSessionTimeout f ses s = s := by
  unfold opSessionTimeout
  rw [hx]
  exact if_pos (by simpa using h)

theorem opSessionTimeout_ends {s : State} {f ses : Nat} {x : Session} (hx : find (samplerOf s f).sessions ses = some x)
    (h0 : getF s F.SMP_CFG_TMO f ≠ 0) (h : getF s F.SMP_CFG_TMO f ≤ s.now - x.since) :
    opSessionTimeout f ses s = modSampler
      (endSession (countF s F.SMP_ERR_TIMEOUTS f 1) f ses x (plainResult ST_TIMEOUT ses x.seq (x.heads.flatMap candsOf).length)) f
      (fun m => { m with timedOut := put m.timedOut ses (getD m.timedOut ses [] ++ [x.seq]) [] }) := by
  unfold opSessionTimeout
  rw [hx]
  exact if_neg (by simp [h0, h])

section
variable {s : State} {g k : Nat} {r : BusMsg}

/-- The state in which result `k` has left the sampler. -/
def offResults (s : State) (f k : Nat) : State := modSampler s f (fun m => { m with results := m.results.eraseIdx k })

/-- A result is the one that tile `g` waits for. -/
def resultMine (s : State) (g : Nat) (r : BusMsg) : Prop :=
  leNat ((r.data.drop 8).take 8) % 2 ^ 32 = getF s F.TIL_SAMPLE_SEQ g ∧
    leNat ((r.data.drop 8).take 8) / 2 ^ 32 % 8 = getF s F.TIL_SAMPLE_SESSION g

/-- The tile's buffer filled. -/
def resultTaken (s : State) (g k : Nat) (r : BusMsg) : State :=
  modTile (setF (setF (offResults s (g / 700) k) F.TIL_SAMPLE_READY g 1) F.TIL_SAMPLE_PENDING g 0) g
    (fun t => { t with result := BitVec.ofNat 512 (leNat r.data) })

theorem opSampleResult_mine (hr : (samplerOf s (g / 700)).results[k]? = some r) (hg : r.gid = g) (hm : resultMine s g r) :
    opSampleResult g k s = (match (tileOf s g).wait with
      | some ⟨.sget a, _, _⟩ => endWait (memWrite (resultTaken s g k r) g a r.data) g
      | _ => resultTaken s g k r) := by
  have hw : (tileOf (resultTaken s g k r) g).wait = (tileOf s g).wait := by
    unfold resultTaken
    rw [tileOf_modTile_same, tileOf_setF, tileOf_setF]
    rfl
  unfold opSampleResult
  dsimp only
  rw [hr]
  dsimp only
  rw [if_neg (not_not.mpr hg)]
  refine (if_pos ?_).trans ?_
  · exact Bool.and_eq_true_iff.mpr ⟨decide_eq_true hm.1, decide_eq_true hm.2⟩
  · rw [← hw]
    rfl

theorem opSampleResult_stale (hr : (samplerOf s (g / 700)).results[k]? = some r) (hg : r.gid = g) (hm : ¬ resultMine s g r) :
    opSampleResult g k s = countF (offResults s (g / 700) k) F.SMP_ERR_STALE (g / 700) 1 := by
  unfold opSampleResult
  dsimp only
  rw [hr]
  dsimp only
  rw [if_neg (not_not.mpr hg)]
  exact if_neg fun h => hm ⟨of_decide_eq_true (Bool.and_eq_true_iff.mp h).1, of_decide_eq_true (Bool.and_eq_true_iff.mp h).2⟩
end

/-- Settles O23: a header by its checks and its session, a timeout by its bound, a result by its numbers. -/
theorem samplerSessionsAndResults : Obligations.SamplerSessionsAndResults := by
  unfold Obligations.SamplerSessionsAndResults
  refine ⟨fun s f k b hb hk => ?_, fun s f ses x hx => ⟨fun h => congrArg _ (opSessionTimeout_waits hx h),
      fun h0 h => congrArg _ (opSessionTimeout_ends hx h0 h)⟩,
    fun s t k r hr hg => ⟨fun hm hw => ?_, fun hm a since rep hw => ⟨_, rfl, ?_⟩, fun hm => congrArg _ (opSampleResult_stale hr hg hm)⟩⟩
  · have body := opSampleHeader_first hb hk
    refine ⟨fun h => congrArg _ (body.trans (if_pos h)), fun h1 h => congrArg _ (body.trans ?_),
      fun h1 h2 h3 => ⟨fun h => congrArg _ (body.trans ?_), fun h4 => ⟨fun d hd hs => congrArg _ (body.trans ?_), fun h5 => ?_⟩⟩⟩
    · rw [if_neg (by simp [h1])]
      exact if_pos (by simpa using h)
    · rw [if_neg (by simp [h1]), if_neg (by simp [h2, h3])]
      exact if_pos (by simpa using h)
    · rw [if_neg (by simp [h1]), if_neg (by simp [h2, h3]), if_neg (by simpa using h4), hd]
      exact if_pos (by simpa using hs)
    · have join := opSampleHeader_joins hb hk h1 h2 h3 h4 h5
      refine ⟨fun y hy hs => congrArg _ (join.trans (joinSession_waits hy hs)),
        fun y hy hs hc => congrArg _ (join.trans ((joinSession_kept hy hs).trans (collect_more (by simpa using hc)))),
        fun y hy hs hc => congrArg _ (join.trans ((joinSession_kept hy hs).trans ((collect_last (x := { y with heads := y.heads ++ [headOf' b] })
          (by simpa using hc)).trans ?_))),
        fun hn hc => ⟨_, congrArg Host.Outcome.next (join.trans ((joinSession_opens hn).trans (collect_more (by simpa using hc)))), ?_, ?_⟩⟩
      · rw [hs]
        rfl
      · rw [getF_modSampler]
        exact getF_setF_same s F.SMP_STAT_BUSY f _ (by decide)
      · rw [samplerOf_modSampler]
        unfold offBus
        rw [samplerOf_modSampler]
        rfl
  · refine congrArg _ ((opSampleResult_mine hr hg hm).trans ?_)
    rw [hw]
    rfl
  · rw [opSampleResult_mine hr hg hm, hw]
    exact endWait_retires _ _
end Sys2Proof.Machine
end

section
/-! PROOFS. The configuration window, and the command queues. -/
namespace Sys2Proof.Machine

/-! ### Writes of the window -/

/-- The word after a write, bit by bit. -/
theorem getLsbD_writtenWord (r : RegName) (old v : Word) {b : Nat} (hb : b < 64) : (writtenWord r old v).getLsbD b =
    if (accMask r (fun a => a == .RW || a == .RWS)).getLsbD b then v.getLsbD b
    else old.getLsbD b && !((accMask r (· == .W1C)).getLsbD b && v.getLsbD b) := by
  unfold writtenWord
  dsimp only
  generalize accMask r (fun a => a == .RW || a == .RWS) = set
  generalize accMask r (· == .W1C) = clr
  simp only [BitVec.getLsbD_or, BitVec.getLsbD_and, BitVec.getLsbD_not, hb, decide_true, Bool.true_and]
  cases set.getLsbD b <;> simp

/-- A register of `plainReg` is written by its fields alone. -/
theorem fullWrite_plain {x : RegAt} (h : plainReg x.reg = true) (s : State) (v : Word) : fullWrite s x v = plainWrite s x v := by
  obtain ⟨r, u, i, sh⟩ := x
  replace h : plainReg r = true := h
  cases r with
  | GLB_CQ_TAIL | GLB_CQ_CHEAD | GLB_CQ_CTRL | GLB_EVR_HEAD | GLB_EVC | GLB_MARK | GLB_PT_INDEX | LIF_CALENDAR | LIF_SNAP | TIL_CTRL
  | TIL_RESEND | OPT_RL_CFG | STK_POUR_STOP | PRT_CONN_CTRL | PRT_RET_CTRL | BRL_CTRL | CFG_COMMIT | GLB_TRESET | FLD_RESET
  | PRT_PORT_RESET | GLB_RESET | CFG_STAGE_CTRL | CFG_ADOPT | GLB_REC_CTRL => exact absurd h (by decide)
  | _ => rfl

section
variable {s : State} {a : Nat} {v : Word} {x : RegAt} (hx : decodeReg a = some x)
include hx

theorem opRegWrite_plain (h1 : x.shadow = false) (h2 : plainReg x.reg = true) (h3 : offline s x = false) :
    opRegWrite a v s = plainWrite s x v := by
  unfold opRegWrite windowWrite writeAt
  rw [hx]
  dsimp only
  rw [if_neg (by simp [h1]), if_neg (by simp [h3]), fullWrite_plain h2]

theorem opRegWrite_shadow (h1 : x.shadow = true) (h2 : owned s (domainOf x) = false) :
    opRegWrite a v s = wrShadow s x.reg x.unit x.inst v := by
  unfold opRegWrite windowWrite writeAt
  rw [hx]
  dsimp only
  rw [if_pos h1, if_neg (by simp [h2])]

theorem opRegWrite_owned (h1 : x.shadow = true) (h2 : owned s (domainOf x) = true) :
    opRegWrite a v s = countI s F.CFG_GEN_DISCARDS 0 (domainOf x) 1 := by
  unfold opRegWrite windowWrite writeAt
  rw [hx]
  dsimp only
  rw [if_pos h1, if_pos (by simp [h2])]

theorem windowRead_decoded (l : Nat) : windowRead s l a = (readValue s x, s) := by
  unfold windowRead
  rw [hx]
end

theorem wrReg_onlyRegs (s : State) (r : RegName) (u i : Nat) (v : Word) : OnlyRegs [regAddr r u i] s (wrReg s r u i v) :=
  ⟨fun a ha => find_wrReg s r u i a v (by simpa using ha), rfl⟩

theorem rdShadow_wrShadow (s : State) (r : RegName) (u i : Nat) (v : Word) : rdShadow (wrShadow s r u i v) r u i = v &&& rwcMask r :=
  getD_put_same _ _ _ _

theorem wrShadow_onlyRegs (s : State) (r : RegName) (u i : Nat) (v : Word) : OnlyRegs [regAddr r u i + 0x8000] s (wrShadow s r u i v) :=
  ⟨fun _ ha => find_put_ne s.regs _ _ (by simpa using ha), rfl⟩

/-- The first access since both counts were 0 leaves its link. -/
theorem noteAccess_link {s : State} (a : Nat) (wr : Bool) {l : Nat} (hl : l < 2) (h1 : getF s F.GLB_ELOG_UNDEC_UNDECODED 0 = 0)
    (h2 : getF s F.GLB_ELOG_UNDEC_OFFLINE 0 = 0) : getF (noteAccess s a wr false l) F.GLB_ELOG_ADDR_LINK 0 = l := by
  unfold noteAccess
  dsimp only
  rw [h1, h2, if_pos (by rfl)]
  exact (getF_setF_same _ F.GLB_ELOG_ADDR_LINK 0 l (by decide)).trans (Nat.mod_eq_of_lt hl)

/-! ### COMMIT -/

section
variable {s : State} {d v : Nat}

theorem opCommit_down (h : domainUp s d = false) :
    opCommit d v s = sendRec (setI s F.CFG_GEN_REFUSED 0 d 1) .loader 0 0x3203 (d + 1 * 256) (v % 65536) := by
  unfold opCommit
  rw [h]
  rfl

theorem opCommit_owned (h1 : domainUp s d = true) (h2 : owned s d = true) :
    opCommit d v s = sendRec (setI s F.CFG_GEN_REFUSED 0 d 1) .loader 0 0x3203 (d + 2 * 256) (v % 65536) := by
  unfold opCommit
  rw [h1, h2]
  rfl

theorem opCommit_other (h1 : domainUp s d = true) (h2 : owned s d = false) (h3 : v % 65536 ≠ (getI s F.CFG_GEN_GEN 0 d + 1) % 65536) :
    opCommit d v s = sendRec (setI s F.CFG_GEN_REFUSED 0 d 1) .loader 0 0x3203 (d + 0 * 256) (v % 65536) := by
  unfold opCommit
  rw [h1, h2, if_pos h3]
  rfl

theorem opCommit_next (h1 : domainUp s d = true) (h2 : owned s d = false) (h3 : v % 65536 = (getI s F.CFG_GEN_GEN 0 d + 1) % 65536) :
    opCommit d v s = setI (switchDomain s d) F.CFG_GEN_GEN 0 d (v % 65536) := by
  unfold opCommit
  rw [h1, h2, if_neg (not_not.mpr h3)]
  rfl
end

/-! ### Requests that are refused -/

section
variable {s : State} {l a : Nat} (v : Word) (tag : Nat) {form : Bool} (hl : linkActive s l = true)
include hl

theorem opWinRd_refused (h : form = false ∨ badAddr a = true) :
    opWinRd l a tag form s = sendPkt (countRefused s l form) l (.winRdata tag 1 0) := by
  unfold opWinRd
  rw [if_neg (by simp [hl]), if_pos (by simpa using h)]

theorem opWinWr_refused (h : form = false ∨ badAddr a = true) :
    opWinWr l a v tag form false s = sendPkt (countRefused s l form) l (.winAck tag 1) := by
  unfold opWinWr
  rw [if_neg (by simp [hl]), if_pos (by simpa using h)]

theorem opWinRd_busy (ha : badAddr a = false) (hb : windowBusy s a = true) :
    opWinRd l a tag true s = sendPkt s l (.winRdata tag 2 0) := by
  unfold opWinRd
  rw [if_neg (by simp [hl]), if_neg (by simp [ha]), if_pos hb]

theorem opWinWr_busy (ha : badAddr a = false) (hb : windowBusy s a = true) :
    opWinWr l a v tag true false s = sendPkt s l (.winAck tag 2) := by
  unfold opWinWr
  rw [if_neg (by simp [hl]), if_neg (by simp [ha]), if_neg (by simp), if_pos hb]
end

/-- Settles O24: writes by what they reach, COMMIT by its checks, requests by their form. -/
theorem configurationWindow : Obligations.ConfigurationWindow := by
  unfold Obligations.ConfigurationWindow
  refine ⟨fun r old v b hb => getLsbD_writtenWord r old v hb, fun s a v x hx => ⟨fun h1 h2 h3 => ?_, fun h1 h2 => ?_,
      fun h1 h2 => congrArg _ (opRegWrite_owned hx h1 h2)⟩, fun s a wr l hd => ?_, fun s d v => ⟨fun h => congrArg _ (opCommit_down h),
      fun h1 h2 => congrArg _ (opCommit_owned h1 h2), fun h1 h2 h3 => congrArg _ (opCommit_other h1 h2 h3),
      fun h1 h2 h3 => ⟨_, congrArg Host.Outcome.next (opCommit_next h1 h2 h3), ?_, rfl⟩⟩, fun s x => rdReg_wrReg_same _ _ _ _ _,
    fun s l a v tag form hl => ⟨fun h => ⟨?_, ?_⟩, fun hf ha hb => ⟨?_, ?_⟩, fun hf ha hb => ⟨fun x hx => ?_, ?_⟩⟩⟩
  · have hk := wrReg_onlyRegs s x.reg x.unit x.inst (writtenWord x.reg (rdReg s x.reg x.unit x.inst) v)
    exact ⟨_, congrArg Host.Outcome.next (opRegWrite_plain hx h1 h2 h3), rdReg_wrReg_same _ _ _ _ _, hk.1, hk.2⟩
  · have hk := wrShadow_onlyRegs s x.reg x.unit x.inst v
    exact ⟨_, congrArg Host.Outcome.next (opRegWrite_shadow hx h1 h2), rdShadow_wrShadow _ _ _ _ _, hk.1, hk.2⟩
  · obtain ⟨hregs, hrest⟩ := noteAccess_onlyRegs s a.toNat wr l
    exact ⟨_, congrArg Host.Outcome.next (if_pos hd), getF_undecoded_noteAccess s a.toNat wr l,
      noteAccess_link a.toNat wr l.isLt, hregs, hrest⟩
  · rw [getI_setI_same _ F.CFG_GEN_GEN _ _ _ (by decide)]
    exact Nat.mod_mod _ _
  · rw [exec_winRd, opWinRd_refused tag hl h]
  · rw [exec_winWr, opWinWr_refused v tag hl h]
  · rw [hf, exec_winRd, opWinRd_busy tag hl ha hb]
  · rw [hf, exec_winWr, opWinWr_busy v tag hl ha hb]
  · rw [hf, exec_winRd, opWinRd_accepted tag hl ha hb, windowRead_decoded hx]
  · rw [hf, exec_winWr, opWinWr_accepted v tag hl ha hb]

/-! ### The indices of a command queue -/

theorem setI_onlyRegs (s : State) (f : Fld) (u i v : Nat) : OnlyRegs [regAddr f.reg u i] s (setI s f u i v) :=
  wrReg_onlyRegs s f.reg u i _

/-- An index register of 32 bits reads as it was written. -/
theorem index_setI (s : State) (f : Fld) (n : Nat) (v : W32) (h : f.fits) (hw : f.w = 32) :
    BitVec.ofNat 32 (getI (setI s f 0 n v.toNat) f 0 n) = v := by
  rw [getI_setI_same _ _ _ _ _ h, hw, Nat.mod_eq_of_lt v.isLt, BitVec.ofNat_toNat, BitVec.setWidth_eq]

theorem opTail_bad {s : State} {n : Nat} {v : W32} (h : (negative (v - headOf s n) || decide (cqSize s n < (v - headOf s n).toNat)) = true) :
    opTail n v s = setI s F.GLB_CQ_STAT_TAIL_ERR 0 n 1 := if_pos h

theorem opTail_good {s : State} {n : Nat} {v : W32} (h : ¬ (negative (v - headOf s n) || decide (cqSize s n < (v - headOf s n).toNat)) = true) :
    opTail n v s = setI s F.GLB_CQ_TAIL_TAIL 0 n v.toNat := if_neg h

theorem headOf_opRestart (n : Nat) (s : State) : headOf (opRestart n s) n = headOf s n :=
  congrArg _ (getI_setI_other s F.GLB_CQ_STAT_STOPPED F.GLB_CQ_STAT_HEAD 0 n 0 rfl (by decide) (by decide))

/-! ### Fetching -/

theorem cqSize_valid {s : State} {n : Nat} (h : validSize (getI s F.GLB_CQ_CFG_SIZE 0 n) = true) :
    cqSize s n = getI s F.GLB_CQ_CFG_SIZE 0 n ∧ cqSize s n ≠ 0 := by
  have h0 : cqSize s n = getI s F.GLB_CQ_CFG_SIZE 0 n := if_pos h
  refine ⟨h0, ?_⟩
  rw [h0]
  simp only [validSize, Bool.and_eq_true, decide_eq_true_eq] at h
  omega

section
variable {s : State} {n : Nat} {i : W32} (hi : i = headOf s n + BitVec.ofNat 32 ((cqOf s n).fetched.length + fetchesOut s n))
include hi

theorem opFetch_reads {l : Nat} (hz : validSize (getI s F.GLB_CQ_CFG_SIZE 0 n) = true) (h0 : tailOf s n - i ≠ 0)
    (hn : negative (tailOf s n - i) = false) (h8 : (cqOf s n).fetched.length + fetchesOut s n < 8)
    (hc : (i - cheadOf s n).toNat < getI s F.GLB_CQ_CFG_SIZE 0 n) (hl : readLink s = some l) :
    opFetch n s = sendRead s l (getI s F.GLB_CQ_BASE_BASE 0 n / 4096 * 4096 + 64 * (i.toNat % getI s F.GLB_CQ_CFG_SIZE 0 n))
      (.command n i) := by
  obtain ⟨hs, hs0⟩ := cqSize_valid hz
  unfold opFetch
  dsimp only
  have hok : (decide (cqSize s n ≠ 0) && decide (tailOf s n - i ≠ 0) && !negative (tailOf s n - i) &&
      decide ((cqOf s n).fetched.length + fetchesOut s n < 8) && decide ((i - cheadOf s n).toNat < cqSize s n)) = true := by
    rw [hn, decide_eq_true hs0, decide_eq_true h0, decide_eq_true h8, decide_eq_true (hs ▸ hc)]
    rfl
  rw [← hi, if_pos hok, hl]
  dsimp only
  unfold slotAddr
  rw [if_neg hs0, hs]

theorem opFetch_not (h : tailOf s n - i = 0 ∨ negative (tailOf s n - i) = true ∨ 8 ≤ (cqOf s n).fetched.length + fetchesOut s n ∨
    cqSize s n ≤ (i - cheadOf s n).toNat) : opFetch n s = s := by
  unfold opFetch
  dsimp only
  rw [← hi, if_neg]
  simp only [Bool.and_eq_true, Bool.not_eq_true', decide_eq_true_eq, not_and]
  rintro ⟨⟨⟨-, h0⟩, hn⟩, h8⟩ hc
  rcases h with h | h | h | h
  · exact h0 h
  · exact Bool.false_ne_true (hn.symm.trans h)
  · omega
  · omega
end

/-! ### Starting -/

section
variable {s : State} {n : Nat} {c : Cmd}

theorem startable_some (h : nextCmd s n = some c) (h1 : getI s F.GLB_CQ_STAT_STOPPED 0 n = 0) (h2 : s.recov.holding = false)
    (h3 : getI s F.GLB_CQ_STAT_INFLIGHT 0 n < 256) (h4 : totalInflight s < 4096)
    (h5 : levelOf s = 0 ∨ ((c.flag 11 = true → getI s F.GLB_CQ_STAT_INFLIGHT 0 n = 0) ∧ waitHolds s c = true ∧ resourceFree s n c = true)) :
    startable s n = some c := by
  have h5' : (levelOf s == 0 || ((!c.flag 11 || getI s F.GLB_CQ_STAT_INFLIGHT 0 n == 0) && waitHolds s c && resourceFree s n c)) = true := by
    rcases h5 with h5 | ⟨h6, h7, h8⟩
    · simp [h5]
    · cases hf : c.flag 11
      · simp [h7, h8]
      · simp [h6 hf, h7, h8]
  unfold startable
  rw [h]
  exact if_pos (by simp only [h1, h2, h3, h4, h5']; rfl)

theorem startable_none (h : nextCmd s n = none ∨ getI s F.GLB_CQ_STAT_STOPPED 0 n ≠ 0 ∨ s.recov.holding = true) : startable s n = none := by
  unfold startable
  split
  · rfl
  · next d hd =>
    refine if_neg ?_
    rcases h with h | h | h
    · exact absurd (hd.symm.trans h) (by simp)
    · simp [h]
    · simp [h]

theorem askDesc_not (h : ∀ c, nextCmd s n = some c → c.opcode ≠ 0x10) : askDesc s n = s := by
  unfold askDesc
  split
  · next d hd => exact if_neg (by simp [h d hd])
  · rfl

/-- The queue of its turn starts its command. -/
theorem opStart_starts (h : startable s n = some c)
    (ht : ∀ m : Nat, m < 64 → m ≠ n → (startable s m).isSome = true → serveKey s n ≤ serveKey s m) :
    opStart n s = (let x := takeCmd { s with cmd := { s.cmd with served := n } } n c
      if c.bad ≠ 0 then completeCmd x n c c.bad 0
      else if levelOf x = 0 then completeCmd x n c (if cmdBad x n c then ST_CMD_INVALID else 0x180) 0
      else if headerBad c then completeCmd x n c ST_CMD_INVALID 0 else x) := by
  unfold opStart
  rw [h]
  refine if_neg ?_
  simp only [List.any_eq_true, List.mem_range, Bool.and_eq_true, bne_iff_ne, decide_eq_true_eq, not_exists, not_and, Nat.not_lt]
  exact fun m hm hk => ht m hm hk.1 hk.2

/-! ### Wait timeouts -/

theorem opWaitTimeout_ends {t : Nat} (hc : nextCmd s n = some c) (ht : (cqOf s n).since = some t)
    (h0 : getI s F.GLB_CQ_CTRL_WAIT_TMO 0 n ≠ 0) (hw : waitHolds s c = false) (hp : getI s F.GLB_CQ_CTRL_WAIT_TMO 0 n < portTicks s - t)
    (hs : getI s F.GLB_CQ_STAT_STOPPED 0 n = 0) :
    opWaitTimeout n s = completeAmong (takeCmd s n c) n c.idx (if cmdBad s n c then [ST_TIMEOUT, ST_CMD_INVALID] else [ST_TIMEOUT]) 0 := by
  unfold opWaitTimeout
  rw [hc, ht]
  dsimp only
  rw [if_pos (by simp [h0, hw, hp, hs])]
  split <;> rfl

theorem opWaitTimeout_waits {t : Nat} (hc : nextCmd s n = some c) (ht : (cqOf s n).since = some t)
    (h : getI s F.GLB_CQ_CTRL_WAIT_TMO 0 n = 0 ∨ waitHolds s c = true ∨ portTicks s - t ≤ getI s F.GLB_CQ_CTRL_WAIT_TMO 0 n) :
    opWaitTimeout n s = s := by
  unfold opWaitTimeout
  rw [hc, ht]
  dsimp only
  rw [if_neg]
  simp only [Bool.and_eq_true, Bool.not_eq_true', decide_eq_true_eq, not_and]
  intro h1 _
  rcases h with h | h | h
  · exact absurd h h1.1.1
  · exact Bool.false_ne_true (h1.1.2.symm.trans h)
  · exact Nat.not_lt.mpr h h1.2
end

/-- Settles O25: indices, fetches, starts and timeouts, each by its own condition. -/
theorem commandQueuesStartInOrder : Obligations.CommandQueuesStartInOrder := by
  unfold Obligations.CommandQueuesStartInOrder
  refine ⟨fun n v s => ⟨?_, ?_, ?_⟩, fun n s => ⟨fun l hz h0 hn h8 hc hl => congrArg _ (opFetch_reads rfl hz h0 hn h8 hc hl),
      fun h => congrArg _ (opFetch_not rfl h)⟩, fun n s c h h1 h2 h3 h4 h5 ht => congrArg _ (opStart_starts (startable_some h h1 h2 h3 h4 h5) ht),
    fun n s h => ?_, fun n s c t hc ht => ⟨fun h0 hw hp hs => congrArg _ (opWaitTimeout_ends hc ht h0 hw hp hs),
      fun h => congrArg _ (opWaitTimeout_waits hc ht h)⟩⟩
  · split
    · next h => exact congrArg _ (opTail_bad h)
    · next h =>
      have hk := setI_onlyRegs s F.GLB_CQ_TAIL_TAIL 0 n v.toNat
      exact ⟨_, congrArg Host.Outcome.next (opTail_good h), index_setI s F.GLB_CQ_TAIL_TAIL n v (by decide) rfl, hk.1, hk.2⟩
  · split
    · next h => exact congrArg Host.Outcome.next (if_pos h)
    · next h =>
      have hk := setI_onlyRegs s F.GLB_CQ_CHEAD_CHEAD 0 n v.toNat
      exact ⟨_, congrArg Host.Outcome.next (if_neg h), index_setI s F.GLB_CQ_CHEAD_CHEAD n v (by decide) rfl, hk.1, hk.2⟩
  · have hk := setI_onlyRegs s F.GLB_CQ_STAT_STOPPED 0 n 0
    exact ⟨_, rfl, getI_setI_same s F.GLB_CQ_STAT_STOPPED 0 n 0 (by decide), headOf_opRestart n s, hk.1, hk.2⟩
  · refine congrArg Host.Outcome.next ?_
    unfold opStart
    rw [startable_none (h.imp id And.left)]
    refine askDesc_not fun c hc => ?_
    rcases h with h | ⟨-, h⟩
    · exact absurd (hc.symm.trans h) (by simp)
    · exact h c hc
end Sys2Proof.Machine
end

section
/-! PROOFS. Pours. -/
namespace Sys2Proof.Machine

/-! ### Commands in flight (R156) -/

section
variable {s : State} {n : Nat} {i : W32} {op : Nat} {f : Cmd → State → Bool × State} {c : Cmd} (hc : inflightCmd s n i = some c)
  (hr : c.run = false) (ho : c.opcode = op)
include hc hr ho

theorem onValid_bad (hb : cmdBad s n c = true) : onValid s n i op f = completeCmd s n c ST_CMD_INVALID 0 := by
  unfold onValid
  rw [hc]
  dsimp only
  rw [if_neg (by simp [hr, ho]), if_pos hb]

theorem onValid_empty (hb : cmdBad s n c = false) (he : cmdEmpty c = true) : onValid s n i op f = completeCmd s n c ST_OK_EMPTY 0 := by
  unfold onValid
  rw [hc]
  dsimp only
  rw [if_neg (by simp [hr, ho]), if_neg (by simp [hb]), if_pos he]

/-- A valid command that is not empty takes effect. -/
theorem onValid_runs (hb : cmdBad s n c = false) (he : cmdEmpty c = false) :
    onValid s n i op f = if (f c s).1 then markRun (f c s).2 n i else (f c s).2 := by
  unfold onValid
  rw [hc]
  dsimp only
  rw [if_neg (by simp [hr, ho]), if_neg (by simp [hb]), if_neg (by simp [he])]
end

theorem onValid_opens {s : State} {n : Nat} {i : W32} {c : Cmd} (hc : inflightCmd s n i = some c) (hr : c.run = false)
    (ho : c.opcode = 0x10) (hb : cmdBad s n c = false) (he : cmdEmpty c = false) :
    opPour n i s = markRun { s with chains := s.chains ++ [{ q := n, idx := i, next := bodyF c 0 0 42 }] } n i :=
  (onValid_runs hc hr ho hb he).trans (if_pos rfl)

/-! ### The descriptors that a crescent holds -/

theorem unitOf_congr {s t : State} (h : t.pours = s.pours) (c : Nat) : unitOf t c = unitOf s c := by
  unfold unitOf
  rw [h]

@[simp] theorem unitOf_setUnit (s : State) (c : Nat) (u : PourUnit) : unitOf (setUnit s c u) c = u := by
  unfold unitOf setUnit
  rw [setF_pours]
  exact getD_put_same _ _ _ _

theorem Side.unitOf {s t : State} (h : Side s t) (c : Nat) : Machine.unitOf t c = Machine.unitOf s c := by
  obtain ⟨hp, -⟩ := h
  exact unitOf_congr hp c

theorem Side.chains {s t : State} (h : Side s t) : t.chains = s.chains := by
  obtain ⟨-, hc, -⟩ := h
  exact hc

/-- The list of descriptors with the one at `p`'s address replaced by `p`. -/
def withPour (l : List Pour) (p : Pour) : List Pour := l.map (fun x => if x.addr = p.addr then p else x)

theorem withPour_withPour (l : List Pour) (p : Pour) : withPour (withPour l p) p = withPour l p := by
  unfold withPour
  rw [List.map_map]
  refine List.map_congr_left fun x _ => ?_
  by_cases h : x.addr = p.addr
  · simp [h]
  · simp [h]

/-- The newest descriptor stands at the end, and no other has its address. -/
theorem withPour_append {l : List Pour} {p : Pour} (h : ∀ y ∈ l, y.addr ≠ p.addr) : withPour (l ++ [p]) p = l ++ [p] := by
  have hl : l.map (fun x => if x.addr = p.addr then p else x) = l :=
    (List.map_congr_left fun x hx => if_neg (h x hx)).trans (List.map_id' l)
  unfold withPour
  rw [List.map_append, List.map_singleton, if_pos rfl, hl]

theorem putPour_holds (s : State) (c : Nat) (p : Pour) :
    (unitOf (putPour s c p) c).pours = withPour (unitOf s c).pours p ∧ (putPour s c p).chains = s.chains := by
  unfold putPour
  exact ⟨by rw [unitOf_setUnit]; rfl, rfl⟩

theorem setUnit_chains (s : State) (c : Nat) (u : PourUnit) : (setUnit s c u).chains = s.chains := rfl

/-- Writing a descriptor's fields leaves the crescent's list and the chains. -/
theorem putDesc_holds (s : State) (c : Nat) (d : DescWrite) :
    (unitOf (putDesc s c d) c).pours = (unitOf s c).pours ∧ (putDesc s c d).chains = s.chains := by
  have hr : Side s (readLogical s d.addr 64).2.2 := readLogical_side (Side.refl s)
  have hw : ∀ t a bs, Side t (writeLogical t a bs).2 := fun t a bs => writeLogical_side (Side.refl t)
  unfold putDesc
  dsimp only
  generalize readLogical s d.addr 64 = r at hr ⊢
  have hu := congrArg PourUnit.pours (hr.unitOf c)
  split
  · rw [(hw _ _ _).unitOf c, (hw _ _ _).chains, unitOf_setUnit, setUnit_chains]
    exact ⟨hu, hr.chains⟩
  · rw [unitOf_setUnit, setUnit_chains]
    exact ⟨hu, hr.chains⟩
  · rw [unitOf_setUnit, setUnit_chains]
    exact ⟨hu, hr.chains⟩

theorem savePour_holds (s : State) (c : Nat) (p : Pour) (st : Nat) :
    (unitOf (savePour s c p st) c).pours = withPour (unitOf s c).pours p ∧ (savePour s c p st).chains = s.chains := by
  obtain ⟨h1, h2⟩ := putPour_holds s c p
  obtain ⟨h3, h4⟩ := putDesc_holds (putPour s c p) c (p.desc (putPour s c p) p.state st)
  exact ⟨h3.trans h1, h4.trans h2⟩

/-! ### Descriptors of a chain -/

section
variable {s : State} {c k : Nat} {x : PourChain} (hx : s.chains[k]? = some x) (he : x.ended = false) (hn : x.next ≠ 0)
  (h0 : (readLogical s x.next 64).1 = 0)
include hx he hn h0

/-- The next descriptor of a chain, new to the crescent that it names. -/
theorem opDescRead_takes {p : Pour} (hp : p = { addr := x.next, words := wordsOf (readLogical s x.next 64).2.1 }) (hc : p.cres = c)
    (hnew : ∀ y ∈ (unitOf s c).pours, y.addr ≠ x.next) (hl : (unitOf s c).pours.length < 256) :
    opDescRead c k s = takeDesc (modChain (readLogical s x.next 64).2.2 k (fun x' =>
      { x' with seen := x'.seen ++ [x.next], next := p.w 2 0 42, ended := p.w 2 0 42 == 0 })) c k p := by
  have hf : (unitOf s c).pours.find? (fun y => y.addr == x.next) = none := List.find?_eq_none.mpr (by simpa using hnew)
  subst hp
  unfold opDescRead
  rw [hx]
  dsimp only
  rw [if_neg (by simp [he, hn]), h0]
  rw [if_neg (not_not.mpr hc), hf]
  exact if_neg (Nat.not_le.mpr hl)

theorem opDescRead_other (hc : ({ addr := x.next, words := wordsOf (readLogical s x.next 64).2.1 } : Pour).cres ≠ c) : opDescRead c k s = s := by
  unfold opDescRead
  rw [hx]
  dsimp only
  rw [if_neg (by simp [he, hn]), h0]
  exact if_pos hc
end

/-- The state in which descriptor `p` of chain `k` has pourJoined the pours of crescent `c`. -/
def pourJoined (s : State) (c k : Nat) (p : Pour) : State :=
  setUnit (modChain s k (fun x => { x with held := x.held ++ [p.addr] })) c
    { unitOf s c with pours := (unitOf s c).pours ++ [{ p with order := (unitOf s c).nextOrder }], nextOrder := (unitOf s c).nextOrder + 1 }

theorem takeDesc_eq (s : State) (c k : Nat) (p : Pour) : takeDesc s c k p =
    (let q := { p with order := (unitOf s c).nextOrder }
     if pourBad q then closePour (pourJoined s c k p) c q [ST_POUR_INVALID]
     else if pourEmpty q then closePour (pourJoined s c k p) c q [ST_OK_EMPTY] else savePour (pourJoined s c k p) c q 0) := rfl

theorem pourJoined_pours (s : State) (c k : Nat) (p : Pour) :
    (unitOf (pourJoined s c k p) c).pours = (unitOf s c).pours ++ [{ p with order := (unitOf s c).nextOrder }] := by
  unfold pourJoined
  rw [unitOf_setUnit]

/-! ### Events of a descriptor -/

section
variable {s : State} {c k : Nat} {p : Pour} (hp : (unitOf s c).pours[k]? = some p)

theorem beginPour_checked (h : p.fallback ≠ 1) : beginPour s c p = savePour s c { p with state := 2 } 0 := by
  have hl : lowerCheck s c p = (0, p, s) := if_pos (by simp [h])
  unfold beginPour
  rw [hl]
  exact if_neg (by simp [h])

include hp

theorem opPourStart_starts (h1 : p.state = 1) (hf : p.fallback ≠ 1)
    (he : evcReached s (p.w 5 32 16) (BitVec.ofNat 32 (p.w 6 0 32)) = true) :
    opPourStart c k s = savePour s c { p with start := some (p.start.getD s.now), state := 2 } 0 := by
  unfold opPourStart
  rw [hp]
  dsimp only
  rw [if_pos (by simp [h1, he])]
  exact beginPour_checked hf

theorem opPourStart_not (h : p.state ≠ 1 ∨ (p.start = none ∧ evcReached s (p.w 5 32 16) (BitVec.ofNat 32 (p.w 6 0 32)) = false)) :
    opPourStart c k s = s := by
  unfold opPourStart
  rw [hp]
  dsimp only
  rw [if_neg]
  rcases h with h | ⟨h1, h2⟩
  · simp [h]
  · simp [h1, h2]

/-- The chunk of a descriptor that wins its resources, with its bytes at hand. -/
theorem opChunkIssue_reads (h1 : chunkReady s c p = true) (h2 : winsSlack s c p = true) (hm : chunkMissing s c p = []) :
    opChunkIssue c k s = (match (readChunk s c p).1 with
      | 0 =>
        match chunkBytes p (readChunk s c p).2.2.1 with
        | none => closePour (readChunk s c p).2.2.2 c p (p.statuses ++ [ST_POUR_INVALID])
        | some bs => savePour (sendChunk (readChunk s c p).2.2.2 c p bs) c { p with progress := p.progress + 1, noRepl := [] } 0
      | 5 => putPour (readChunk s c p).2.2.2 c { p with noRepl := (readChunk s c p).2.1 :: p.noRepl }
      | f => faultPour (readChunk s c p).2.2.2 c p f (readChunk s c p).2.1) := by
  unfold opChunkIssue
  rw [hp]
  dsimp only
  rw [if_neg (by simp [h1, h2]), hm] <;> rfl

theorem opChunkIssue_not (h : chunkReady s c p = false ∨ winsSlack s c p = false) : opChunkIssue c k s = s := by
  unfold opChunkIssue
  rw [hp]
  exact if_pos (by simpa using h)

theorem opPourComplete_closes (h1 : p.state = 2) (h2 : p.hold = 0) (h3 : p.progress = p.total) (h4 : pourInMesh s p.id = false) :
    opPourComplete c k s = closePour s c p (ST_OK :: p.statuses) := by
  unfold opPourComplete
  rw [hp]
  exact if_pos (by simp [h1, h2, h3, h4])

/-- What a miss notes in the descriptor. -/
def missNoted (p : Pour) : Pour :=
  { p with missed := true, statuses := p.statuses ++
      (if p.state = 3 ∧ p.cause ≤ 2 ∧ p.fallback ≠ 0 then [haltStatus p.cause] else []) ++ [ST_DEADLINE_MISS] }

theorem opDeadlineMiss_due (h : p.missDue s = true) :
    opDeadlineMiss c k s = (let x := putPour (countF s F.STK_POUR_STAT_MISSES c 1) c (missNoted p)
      if p.state = 3 ∧ 3 ≤ p.cause then x else fallBack x c (missNoted p)) := by
  have hw : (if p.state = 3 && p.cause ≤ 2 && p.fallback ≠ 0 then [haltStatus p.cause] else []) =
      (if p.state = 3 ∧ p.cause ≤ 2 ∧ p.fallback ≠ 0 then [haltStatus p.cause] else []) :=
    if_congr (by simp [and_assoc]) rfl rfl
  unfold opDeadlineMiss
  rw [hp]
  dsimp only
  rw [if_pos h, hw]
  exact if_congr (by simp) rfl rfl

theorem opDeadlineMiss_not (h : p.missDue s = false) : opDeadlineMiss c k s = s := by
  unfold opDeadlineMiss
  rw [hp]
  exact if_neg (by simp [h])
end

theorem missDue_true {p : Pour} {s : State} (h1 : p.deadline ≠ 0) (h2 : ∃ t, p.start = some t ∧ p.deadline < s.now - t)
    (h3 : p.progress < p.total) (h4 : p.missed = false) (h5 : p.hold = 0) : p.missDue s = true := by
  obtain ⟨t, ht, hd⟩ := h2
  simp [Pour.missDue, h1, ht, hd, h3, h4, h5]

theorem missDue_false {p : Pour} {s : State}
    (h : p.deadline = 0 ∨ (∀ t, p.start = some t → s.now - t ≤ p.deadline) ∨ p.total ≤ p.progress ∨ p.missed = true) : p.missDue s = false := by
  unfold Pour.missDue
  rcases h with h | h | h | h
  · simp [h]
  · have hs : p.start.elim false (fun t => decide (p.deadline < s.now - t)) = false := by
      cases ht : p.start with
      | none => rfl
      | some t => exact decide_eq_false (Nat.not_lt.mpr (h t ht))
    simp [hs]
  · simp [Nat.not_lt.mpr h]
  · simp [h]

/-- No descriptor before it at a resource that its chunk needs. -/
theorem winsSlack_of {s : State} {c : Nat} {p : Pour}
    (h : ∀ x ∈ (unitOf s c).pours, x.addr ≠ p.addr → chunkReady s c x = true →
      p.slack s < x.slack s ∨ (p.slack s = x.slack s ∧ (p.start.getD 0 < x.start.getD 0 ∨ (p.start.getD 0 = x.start.getD 0 ∧ p.order ≤ x.order))) ∨
        ∀ r ∈ chunkNeeds s c p, r ∉ chunkNeeds s c x) : winsSlack s c p = true := by
  unfold winsSlack
  refine List.all_eq_true.mpr fun x hx => ?_
  by_cases ha : x.addr = p.addr
  · simp [ha]
  · cases hr : chunkReady s c x
    · simp
    · rcases h x hx ha hr with h | ⟨h1, h2⟩ | h
      · simp [goesFirst, h]
      · simp [goesFirst, h1, h2]
      · have hn : ((chunkNeeds s c p).all fun r => !(chunkNeeds s c x).contains r) = true := by simpa using h
        simp only [hn, Bool.or_true]

/-! ### Stops -/

section
variable {s : State} {c a : Nat}

theorem opPourStop_halts {p : Pour} (h : (unitOf s c).pours.find? (fun p => p.addr == a / 64 * 64) = some p) (hs : p.state ≤ 2) :
    opPourStop c a s = haltPour (setF s F.STK_POUR_STOP_DESC c (a / 64 * 64)) c p 4 0 0 := by
  unfold opPourStop
  dsimp only
  rw [unitOf_congr (setF_pours _ _ _ _), h]
  exact if_pos hs

theorem opPourStop_missed (h : (unitOf s c).pours.find? (fun p => p.addr == a / 64 * 64) = none ∨
      ∃ p, (unitOf s c).pours.find? (fun p => p.addr == a / 64 * 64) = some p ∧ 2 < p.state) :
    opPourStop c a s = setF (setF s F.STK_POUR_STOP_DESC c (a / 64 * 64)) F.STK_POUR_STOP_MISSED c 1 := by
  unfold opPourStop
  dsimp only
  rw [unitOf_congr (setF_pours _ _ _ _)]
  rcases h with h | ⟨p, h, hs⟩
  · rw [h]
  · rw [h]
    exact if_neg (Nat.not_le.mpr hs)
end

/-- Settles O27: each event of a pour by the lemma about its op. -/
theorem poursIssueInSlackOrder : Obligations.PoursIssueInSlackOrder := by
  unfold Obligations.PoursIssueInSlackOrder
  refine ⟨fun n i s c hc hr ho hb => ⟨fun he => congrArg _ (onValid_empty hc hr ho hb he), fun he => congrArg _ (onValid_opens hc hr ho hb he)⟩,
    fun c k s x hx he hn => ⟨fun h0 hc hnew hl => congrArg _ (opDescRead_takes hx he hn h0 rfl hc hnew hl),
      fun h0 hc => congrArg _ (opDescRead_other hx he hn h0 hc)⟩,
    fun s c k p => ⟨pourJoined s c k p, rfl, pourJoined_pours s c k p, takeDesc_eq s c k p⟩,
    fun c k s p hp => ⟨fun h1 hf he => congrArg _ (opPourStart_starts hp h1 hf he), fun h => congrArg _ (opPourStart_not hp h),
      fun h1 h2 hm => ⟨fun h0 h5 => ?_, fun bs h0 hb => ?_⟩, fun h => congrArg _ (opChunkIssue_not hp h),
      fun h1 h2 h3 h4 => congrArg _ (opPourComplete_closes hp h1 h2 h3 h4),
      fun h1 h2 h3 h4 h5 => congrArg _ (opDeadlineMiss_due hp (missDue_true h1 h2 h3 h4 h5)),
      fun h => congrArg _ (opDeadlineMiss_not hp (missDue_false h))⟩,
    fun c d s => ⟨fun p hp hs => congrArg _ (opPourStop_halts hp hs), fun h => congrArg _ (opPourStop_missed h)⟩,
    fun k s => rfl, fun s c p => rfl⟩
  · refine congrArg _ ((opChunkIssue_reads hp h1 (winsSlack_of h2) hm).trans ?_)
    split
    · next h => exact absurd h h0
    · next h => exact absurd h h5
    · rfl
  · refine congrArg _ ((opChunkIssue_reads hp h1 (winsSlack_of h2) hm).trans ?_)
    simp only [h0, hb]

/-- A descriptor as a halt leaves it. -/
def haltedPour (p : Pour) (cause page : Nat) : Pour :=
  { p with state := 3, cause, page, reset := [], noRepl := [], due := false
           hold := if p.hold = 1 then 1 else 0, fell := p.fell && p.hold != 2 }

theorem haltPour_eq (s : State) (c : Nat) (p : Pour) (cause page status : Nat) : haltPour s c p cause page status =
    sendRec (savePour s c (haltedPour p cause page) status) (.cres c) status 0x0302 cause p.addr := rfl

/-! ### What a completion leaves of the pours -/

theorem setLink_pours (s : State) (l : Nat) (b : BLink) : (setLink s l b).pours = s.pours := rfl

theorem sendPkt_cases (s : State) (l : Nat) (p : BPkt) : ∃ b, sendPkt s l p = setLink s l b := by
  unfold sendPkt
  dsimp only
  split
  · exact ⟨_, rfl⟩
  · exact ⟨_, rfl⟩

theorem sendPkt_pours (s : State) (l : Nat) (p : BPkt) : (sendPkt s l p).pours = s.pours := by
  obtain ⟨b, h⟩ := sendPkt_cases s l p
  rw [h, setLink_pours]

theorem startWrite_pours (s : State) (l : Nat) (w : CompWrite) : (startWrite s l w).pours = s.pours := by
  unfold startWrite
  dsimp only
  rw [sendPkt_pours]
  dsimp only
  rw [setI_pours]

theorem sendWrite_pours (s : State) (a : Nat) (bs : List Byte) (x : WriteFor) : (sendWrite s a bs x).pours = s.pours := by
  unfold sendWrite
  dsimp only
  split
  · exact startWrite_pours _ _ _
  · rfl

theorem modCq_pours (s : State) (n : Nat) (f : CmdQueue → CmdQueue) : (modCq s n f).pours = s.pours := rfl

theorem completeCmd_pours (s : State) (n : Nat) (c : Cmd) (status detail : Nat) : (completeCmd s n c status detail).pours = s.pours := by
  unfold completeCmd
  dsimp only
  generalize hx : sendWrite _ _ _ _ = x
  have h : x.pours = s.pours := by rw [← hx, sendWrite_pours, modCq_pours]
  split
  · rw [setI_pours, h]
  · exact h

theorem completeAmong_pours (s : State) (n : Nat) (i : W32) (cs : List Nat) (detail : Nat) :
    (completeAmong s n i cs detail).pours = s.pours := by
  obtain ⟨h, -⟩ := logOthers_side (cs := cs) (best := bestStatus cs) (Side.refl s)
  unfold completeAmong completeIdx
  split
  · exact (completeCmd_pours _ _ _ _ _).trans h
  · exact h

theorem tellChains_pours (s : State) (a status : Nat) : (tellChains s a status).pours = s.pours := by
  unfold tellChains finishChains
  exact foldl_keeps (P := fun t : State => t.pours = s.pours) _ rfl fun t x h => (completeAmong_pours _ _ _ _ _).trans h

theorem fixMark_pours (s : State) (p : Pour) (status : Nat) : (fixMark s p status).pours = s.pours := by
  unfold fixMark
  split
  · split <;> rfl
  · rfl

/-- A descriptor that completes leaves its crescent. -/
theorem endPour_drops (s : State) (c : Nat) (p : Pour) (cs : List Nat) :
    (unitOf (endPour s c p cs) c).pours = (unitOf s c).pours.filter (fun x => x.addr != p.addr) := by
  have hl : (unitOf (fixMark (logStack s c cs (bestStatus cs)) p (bestStatus cs)) c).pours = (unitOf s c).pours := by
    rw [unitOf_congr (fixMark_pours _ _ _), (logStack_side (Side.refl s)).unitOf c]
  have hd : ∀ t, (unitOf (dropPour t c p) c).pours = (unitOf t c).pours.filter (fun x => x.addr != p.addr) := fun t => by
    unfold dropPour
    rw [unitOf_setUnit]
  unfold endPour writeDesc
  dsimp only
  rw [unitOf_congr (tellChains_pours _ _ _), hd]
  split
  · rw [unitOf_congr (sendInc_pours _ _ _), (putDesc_holds _ _ _).1, hl]
  · rw [(putDesc_holds _ _ _).1, hl]

/-! ### What reading a chunk leaves -/

theorem readAt_side {s : State} {c : Nat} {p : Pour} {x : Nat × Nat × Nat × Nat} : Side s (readAt s c p x).2.2.2 := by
  have hc : Side s (cacheLookup s c x.1) := cacheLookup_side (Side.refl s)
  have hp : ∀ t q, Side s t → Side s (readPiece t q x).2.2 := fun t q h => readPiece_side h
  have hb : ∀ t q u o n, Side s t → Side s (placeBytes t q u o n).2.2 := fun t q u o n h => placeBytes_side h
  unfold readAt
  dsimp only
  generalize cacheLookup s c x.1 = t at hc ⊢
  split
  · exact countFail_side hc
  · split
    · have hr : Side s (if placeTier (piecePlace t c p x.1).1 = 2 then readPiece t (piecePlace t c p x.1).1 x else
          (if (placeBytes t (piecePlace t c p x.1).1 x.2.1 x.2.2.1 x.2.2.2).2.1 then 2 else 0,
            (placeBytes t (piecePlace t c p x.1).1 x.2.1 x.2.2.1 x.2.2.2).1,
            (placeBytes t (piecePlace t c p x.1).1 x.2.1 x.2.2.1 x.2.2.2).2.2)).2.2 := side_ite_thd (hp _ _ hc) (hb _ _ _ _ _ hc)
      revert hr
      generalize (if placeTier (piecePlace t c p x.1).1 = 2 then readPiece t (piecePlace t c p x.1).1 x else _) = r
      intro hr
      split
      · exact hr
      · exact hp _ _ hr
    · exact hp _ _ hc

theorem readChunk_side (s : State) (c : Nat) (p : Pour) : Side s (readChunk s c p).2.2.2 := by
  have h : Side s ((chunkPieces s c p).foldl (fun (a : Nat × Nat × List Byte × Bool × State) x =>
    if a.1 ≠ 0 then a
    else
      let q := readAt a.2.2.2.2 c p x
      (q.1, x.1, a.2.2.1 ++ q.2.1, a.2.2.2.1 || q.2.2.1, q.2.2.2)) (0, 0, [], false, s)).2.2.2.2 :=
    side_foldl_last (Side.refl s) fun t x ht => by
      dsimp only
      split
      · exact ht
      · exact ht.trans readAt_side
  unfold readChunk
  dsimp only
  split
  · exact countF_side h
  · exact h

theorem sendChunk_side (s : State) (c : Nat) (p : Pour) (bs : List Byte) : Side s (sendChunk s c p bs) := by
  unfold sendChunk
  dsimp only
  split
  · exact cresSend_side (Side.refl s)
  · exact cresSend_side (Side.refl s)

/-! ### Marks -/

/-- With no descriptor held for a mark, a free entry lets nothing go. -/
theorem releaseHeld_none {s : State} (h : ∀ c < 4, ∀ p ∈ (unitOf s c).pours, p.hold = 0) : releaseHeld s = s := by
  have inner : ∀ (l : List Pour) (f : State → Pour → State), (∀ p ∈ l, f s p = s) → l.foldl f s = s := by
    intro l f hl
    induction l with
    | nil => rfl
    | cons p l ih =>
      rw [List.foldl_cons, hl p (by simp)]
      exact ih fun q hq => hl q (by simp [hq])
  have outer : ∀ (l : List Nat) (f : State → Nat → State), (∀ c ∈ l, f s c = s) → l.foldl f s = s := by
    intro l f hl
    induction l with
    | nil => rfl
    | cons c l ih =>
      rw [List.foldl_cons, hl c (by simp)]
      exact ih fun q hq => hl q (by simp [hq])
  unfold releaseHeld
  exact outer _ _ fun c hc => inner _ _ fun p hp => if_pos (h c (List.mem_range.mp hc) p hp)

/-! ### The effect of each event on the crescent's descriptors -/

section
variable {s : State} {c k : Nat} {p : Pour} (hp : (unitOf s c).pours[k]? = some p)
include hp

theorem opPourStart_holds (h1 : p.state = 1) (hf : p.fallback ≠ 1) (hs : p.start = none)
    (he : evcReached s (p.w 5 32 16) (BitVec.ofNat 32 (p.w 6 0 32)) = true) :
    (unitOf (opPourStart c k s) c).pours = withPour (unitOf s c).pours { p with start := some s.now, state := 2 } ∧
      (opPourStart c k s).chains = s.chains := by
  rw [opPourStart_starts hp h1 hf he, hs]
  exact savePour_holds s c _ 0

theorem opChunkIssue_holds (h1 : chunkReady s c p = true) (h2 : winsSlack s c p = true) (hm : chunkMissing s c p = [])
    (h0 : (readChunk s c p).1 = 0) (ha : p.onAlt = false) :
    (unitOf (opChunkIssue c k s) c).pours = withPour (unitOf s c).pours { p with progress := p.progress + 1, noRepl := [] } ∧
      (opChunkIssue c k s).chains = s.chains := by
  have hb : chunkBytes p (readChunk s c p).2.2.1 = some (readChunk s c p).2.2.1 := by
    unfold chunkBytes
    exact if_neg (by simp [ha])
  have hs := (readChunk_side s c p).trans (sendChunk_side _ c p (readChunk s c p).2.2.1)
  obtain ⟨k1, k2⟩ := savePour_holds (sendChunk (readChunk s c p).2.2.2 c p (readChunk s c p).2.2.1) c
    { p with progress := p.progress + 1, noRepl := [] } 0
  have body := opChunkIssue_reads hp h1 h2 hm
  simp only [h0, hb] at body
  rw [body, k1, k2, hs.unitOf c, hs.chains]
  exact ⟨rfl, rfl⟩

theorem opPourComplete_drops (h1 : p.state = 2) (h2 : p.hold = 0) (h3 : p.progress = p.total) (h4 : pourInMesh s p.id = false)
    (hf : p.fell = false) (hs : p.statuses = []) :
    (unitOf (opPourComplete c k s) c).pours = (unitOf s c).pours.filter (fun x => x.addr != p.addr) := by
  have hst : (bestStatus [ST_OK] == ST_DATA_POISON) = false := by decide
  have hc : closePour s c p [ST_OK] = endPour s c p [ST_OK] := if_neg (by simp [hf, hst])
  rw [opPourComplete_closes hp h1 h2 h3 h4, hs, hc, endPour_drops]

theorem opDeadlineMiss_holds (h : p.missDue s = true) (h2 : p.state = 2) (hf : p.fallback = 0) :
    (unitOf (opDeadlineMiss c k s) c).pours =
        withPour (unitOf s c).pours { p with missed := true, statuses := p.statuses ++ [ST_DEADLINE_MISS] } ∧
      (opDeadlineMiss c k s).chains = s.chains := by
  have hm : missNoted p = { p with missed := true, statuses := p.statuses ++ [ST_DEADLINE_MISS] } := by
    simp [missNoted, h2]
  have hb : ∀ x q, q.fallback = 0 → fallBack x c q = savePour x c q (haltStatus q.cause) := fun x q hq => by
    unfold fallBack
    simp only [hq]
  have body := opDeadlineMiss_due hp h
  dsimp only at body
  rw [if_neg (by omega), hb _ (missNoted p) hf] at body
  obtain ⟨j1, j2⟩ := putPour_holds (countF s F.STK_POUR_STAT_MISSES c 1) c (missNoted p)
  obtain ⟨k1, k2⟩ := savePour_holds (putPour (countF s F.STK_POUR_STAT_MISSES c 1) c (missNoted p)) c (missNoted p)
    (haltStatus (missNoted p).cause)
  rw [body, k1, k2, j1, j2, withPour_withPour, unitOf_congr (countF_pours _ _ _ _), countF_chains, hm]
  exact ⟨rfl, rfl⟩
end

/-- A new descriptor that is valid and not empty joins its crescent's pours, and its chain goes on. -/
theorem opDescRead_holds {s : State} {c k : Nat} {x : PourChain} (hx : s.chains[k]? = some x) (he : x.ended = false) (hn : x.next ≠ 0)
    (h0 : (readLogical s x.next 64).1 = 0) {p : Pour}
    (hp : p = { addr := x.next, words := wordsOf (readLogical s x.next 64).2.1, order := (unitOf s c).nextOrder }) (hc : p.cres = c)
    (hnew : ∀ y ∈ (unitOf s c).pours, y.addr ≠ x.next) (hl : (unitOf s c).pours.length < 256) (hb : pourBad p = false)
    (hem : pourEmpty p = false) :
    (unitOf (opDescRead c k s) c).pours = (unitOf s c).pours ++ [p] ∧
      (opDescRead c k s).chains[k]? = some { x with seen := x.seen ++ [x.next], next := p.w 2 0 42, ended := p.w 2 0 42 == 0,
                                                    held := x.held ++ [x.next] } := by
  have hr : Side s (readLogical s x.next 64).2.2 := readLogical_side (Side.refl s)
  have body := opDescRead_takes hx he hn h0 (p := { p with order := 0 }) (by rw [hp]) hc hnew hl
  have hm : ∀ t f, (modChain t k f).pours = t.pours := fun _ _ => rfl
  have hch : ∀ t f, (modChain t k f).chains = t.chains.modify k f := fun _ _ => rfl
  have hj : ∀ t q, (pourJoined t c k q).chains = t.chains.modify k (fun y => { y with held := y.held ++ [q.addr] }) := fun _ _ => rfl
  have ha : p.addr = x.next := by rw [hp]
  have ho : (unitOf s c).nextOrder = p.order := by rw [hp]
  rw [takeDesc_eq] at body
  dsimp only at body
  rw [unitOf_congr (hm _ _), hr.unitOf c, ho, if_neg (by rw [hb]; decide), if_neg (by rw [hem]; decide)] at body
  obtain ⟨k1, k2⟩ := savePour_holds (pourJoined (modChain (readLogical s x.next 64).2.2 k (fun x' =>
    { x' with seen := x'.seen ++ [x.next], next := p.w 2 0 42, ended := p.w 2 0 42 == 0 })) c k { p with order := 0 }) c p 0
  refine ⟨(congrArg (fun t => (unitOf t c).pours) body).trans (k1.trans ?_), ?_⟩
  · rw [pourJoined_pours, unitOf_congr (hm _ _), hr.unitOf c, ho]
    exact withPour_append fun y hy => ha ▸ hnew y hy
  · rw [body]
    refine (congrArg (·[k]?) k2).trans ?_
    rw [hj, hch, hr.chains, List.getElem?_modify_eq, List.getElem?_modify_eq, hx, ← ha]
    rfl

/-- Settles O49: each event's own effect, read off the lemma about its op. -/
theorem poursComplete : Obligations.PoursComplete := by
  unfold Obligations.PoursComplete
  refine ⟨fun n i s c hc hr ho hb he => ⟨_, _, congrArg Host.Outcome.next (onValid_opens hc hr ho hb he), rfl, rfl, rfl, rfl, rfl, rfl, rfl, rfl⟩,
    fun c k s x hx he hn h0 hc hnew hl hb hem => ?_, fun c k s p hp => ⟨fun h1 hf hs he => ⟨_, rfl, opPourStart_holds hp h1 hf hs he⟩,
      fun h1 h2 hm h0 ha => ⟨_, rfl, opChunkIssue_holds hp h1 (winsSlack_of fun x hx ha hr => .inl (h2 x hx ha hr)) hm h0 ha⟩,
      fun h1 h2 h3 h4 hf hs => ⟨_, rfl, opPourComplete_drops hp h1 h2 h3 h4 hf hs⟩,
      fun h1 h2 h3 h4 h5 h6 hf => ⟨_, rfl, opDeadlineMiss_holds hp (missDue_true h1 h2 h3 h4 h5) h6 hf⟩⟩,
    fun c d s p hp hs => ?_, fun k s h => ?_⟩
  · obtain ⟨k1, k2⟩ := opDescRead_holds hx he hn h0 rfl hc hnew hl hb hem
    exact ⟨_, _, rfl, k1, k2, rfl, rfl, rfl, rfl⟩
  · obtain ⟨k1, -⟩ := savePour_holds (setF s F.STK_POUR_STOP_DESC c (d.toNat / 64 * 64)) c (haltedPour p 4 0) 0
    refine ⟨_, haltedPour p 4 0, _, _, congrArg Host.Outcome.next ((opPourStop_halts hp hs).trans (haltPour_eq _ _ _ _ _ _)),
      rfl, rfl, rfl, rfl, ?_, rfl, rfl, rfl, rfl⟩
    rw [unitOf_congr (sendRec_pours _ _ _ _ _ _), k1, unitOf_congr (setF_pours _ _ _ _)]
    rfl
  · have hk := setI_onlyRegs s F.GLB_MARK_VALID 0 k 0
    have hs : opMarkClear k s = setI s F.GLB_MARK_VALID 0 k 0 := by
      refine releaseHeld_none fun c hc p hp => h c hc p ?_
      rwa [unitOf_congr (setI_pours _ _ _ _ _)] at hp
    exact ⟨_, congrArg Host.Outcome.next hs, getI_setI_same s F.GLB_MARK_VALID 0 k 0 (by decide), hk.1, hk.2⟩
end Sys2Proof.Machine
end

section
/-! PROOFS. Migration, and the changes of Placement Table entries. -/
namespace Sys2Proof.Machine

/-! ### MIGRATE and WRITEBACK -/

/-- The limits of every tier of the quota entries `ks`, as R278 says them. -/
theorem withinLimits_iff {s : State} {ks : List Nat} {l : List (Nat × Nat)} : withinLimits s ks l = true ↔
    ∀ k ∈ ks, ∀ t < 3, getI s F.GLB_QUOTA_USED 0 (quotaIx k t) + reservedIn s k t + l.count (k, t) ≤
      getI s F.GLB_QUOTA_LIMIT 0 (quotaIx k t) := by
  simp only [withinLimits, List.all_eq_true, List.mem_flatMap, List.mem_cons, List.not_mem_nil, or_false, decide_eq_true_eq]
  constructor
  · intro h k hk t ht
    have hx : (k, t) = (k, 0) ∨ (k, t) = (k, 1) ∨ (k, t) = (k, 2) := by
      simp only [Prod.mk.injEq, true_and]
      omega
    exact h (k, t) ⟨k, hk, hx⟩
  · rintro h x ⟨k, hk, rfl | rfl | rfl⟩
    · exact h k hk 0 (by decide)
    · exact h k hk 1 (by decide)
    · exact h k hk 2 (by decide)

section
variable {s : State} {n : Nat} {i : W32} {c : Cmd} (hc : inflightCmd s n i = some c) (hr : c.run = false) (ho : c.opcode = 0x28)
  (hb : cmdBad s n c = false) (he : cmdEmpty c = false) {j : MigJob}
  (hj : j = { q := n, idx := i, action := bodyF c 0 44 3, page := bodyF c 0 18 24, pages := bodyF c 1 0 32,
              target := bodyF c 2 0 42, discard := bodyF c 0 47 1 == 1, writable := bodyF c 0 48 1 == 1, ctx := bodyF c 1 32 16 })
include hc hr ho hb he hj

theorem opMigrate_waits {ks : List Nat} {l : List (Nat × Nat)} (hk : quotasOf s (jobContexts s j) = some ks)
    (hl : reserveCharges s (jobCharges s j) = some l) (hw : withinLimits s ks l = true) :
    opMigrate n i s = markRun { s with tiers := { s.tiers with jobs := s.tiers.jobs ++ [{ j with reserved := l }] } } n i := by
  subst hj
  refine (onValid_runs hc hr ho hb he).trans ?_
  simp only [hk, hl, hw]
  rfl

theorem opMigrate_quota (h : quotasOf s (jobContexts s j) = none ∨ ∃ ks l, quotasOf s (jobContexts s j) = some ks ∧
      reserveCharges s (jobCharges s j) = some l ∧ withinLimits s ks l = false) :
    opMigrate n i s = markRun (completeCmd s n c ST_QUOTA 0) n i := by
  subst hj
  refine (onValid_runs hc hr ho hb he).trans ?_
  rcases h with h | ⟨ks, l, hk, hl, hw⟩
  · simp only [h]
    rfl
  · simp only [hk, hl, hw]
    rfl
end

/-! ### The next page of a job -/

section
variable {s : State} {n : Nat} {i : W32} {j : MigJob} (hj : jobOf s n i = some j)
include hj

theorem nextPage_waits (h : j.stopped = true ∨ j.next = j.pages ∨ 16 ≤ j.busy.length ∨ (ptEntry s (j.pageAt j.next)).migrating = true ∨
    ∃ y ∈ s.tiers.changes, y.page = j.pageAt j.next) : nextPage s n i = s := by
  unfold nextPage
  rw [hj]
  dsimp only
  by_cases h1 : (j.stopped || decide (j.next = j.pages) || decide (16 ≤ j.busy.length)) = true
  · rw [if_pos h1]
  · rw [if_neg h1, if_pos]
    simp only [Bool.or_eq_true, decide_eq_true_eq, not_or] at h1
    obtain ⟨⟨h2, h3⟩, h4⟩ := h1
    rcases h with h | h | h | h | ⟨y, hy, hp⟩
    · exact absurd h h2
    · exact absurd h h3
    · exact absurd h h4
    · simp [h]
    · exact Bool.or_eq_true_iff.mpr (.inr (List.any_eq_true.mpr ⟨y, hy, by simp [hp]⟩))

/-- A job that may go on takes up its next page. -/
theorem nextPage_takes (h1 : j.stopped = false) (h2 : j.next ≠ j.pages) (h3 : j.busy.length < 16)
    (h4 : (ptEntry s (j.pageAt j.next)).migrating = false) (h5 : ∀ y ∈ s.tiers.changes, y.page ≠ j.pageAt j.next) :
    nextPage s n i = (match pageFails s j (j.pageAt j.next) with
      | [] =>
        let s' := modJob s n i (fun j => { j with next := j.next + 1 })
        if j.action = 8 && ((ptEntry s (j.pageAt j.next)).cur == (ptEntry s (j.pageAt j.next)).home ||
            (ptEntry s (j.pageAt j.next)).dirty == 0) then
          finishJob (modJob s' n i (fun j => { j with done := j.done + 1 })) n i
        else
          queueChange (modJob s' n i (fun k => { k with busy := k.busy ++ [j.pageAt j.next] })) (j.pageAt j.next)
            (if 4 ≤ j.action && j.action ≤ 6 then .noCopy n i else .start n i)
      | cs => failJob s n i cs) := by
  have ha : (s.tiers.changes.any (fun c => c.page == j.pageAt j.next)) = false :=
    List.any_eq_false.mpr fun y hy => by simpa using h5 y hy
  unfold nextPage
  rw [hj]
  dsimp only
  rw [if_neg (by simp [h1, h2, h3]), if_neg (by simp [h4, ha])] <;> rfl

theorem opAction_same : opAction j.action n i s = nextPage s n i := by
  unfold opAction
  rw [hj]
  exact if_pos rfl

theorem opWriteback_next (ha : j.action = 8) : opWriteback n i s = nextPage s n i := by
  unfold opWriteback
  rw [hj]
  exact if_pos ha
end

theorem opAction_other {s : State} {a n : Nat} {i : W32} (h : ∀ j, jobOf s n i = some j → j.action ≠ a) : opAction a n i s = s := by
  unfold opAction
  split
  · next j hj => exact if_neg (h j hj)
  · rfl

/-- The row of each action of a job. -/
theorem action_row (n : Fin 64) (i : W32) {s : State} {j : MigJob} (hj : jobOf s n i = some j) (h8 : j.action ≤ 8) (h7 : j.action ≠ 7) :
    ∃ c : Instr, [(0, Instr.migFetch n i), (1, .migEvict n i), (2, .moveHome n i), (3, .replicate n i), (4, .dropRepl n i),
        (5, .migAssign n i), (6, .unmap n i), (8, .writeback n i)].lookup j.action = some c ∧ exec c s = .next (nextPage s n i) := by
  have hs := opAction_same hj
  have hw := opWriteback_next hj
  generalize j.action = a at h8 h7 hs hw ⊢
  rcases (by omega : a = 0 ∨ a = 1 ∨ a = 2 ∨ a = 3 ∨ a = 4 ∨ a = 5 ∨ a = 6 ∨ a = 8) with rfl | rfl | rfl | rfl | rfl | rfl | rfl | rfl
  · exact ⟨_, rfl, congrArg _ hs⟩
  · exact ⟨_, rfl, congrArg _ hs⟩
  · exact ⟨_, rfl, congrArg _ hs⟩
  · exact ⟨_, rfl, congrArg _ hs⟩
  · exact ⟨_, rfl, congrArg _ hs⟩
  · exact ⟨_, rfl, congrArg _ hs⟩
  · exact ⟨_, rfl, congrArg _ hs⟩
  · exact ⟨_, rfl, congrArg _ (hw rfl)⟩

theorem opCopySwitch_queues {s : State} {n : Nat} {i : W32} {c : PageCopy}
    (h : s.tiers.copies.find? (fun c => c.q == n && c.idx == i && c.waiting.isEmpty && !c.ended) = some c) :
    opCopySwitch n i s = queueChange { s with tiers := { s.tiers with copies := s.tiers.copies.map (fun x =>
      if x.page = c.page then { x with ended := true } else x) } } c.page (.switch n i) := by
  unfold opCopySwitch
  rw [h]

/-! ### R271's table -/

section
variable {j : MigJob} (e : PtEntry) (k : Nat)

theorem entryAfter_fetch (h : j.action = 0) : entryAfter j e k = { e with cur := BitVec.ofNat 42 (j.placeAt k) } := by simp only [entryAfter, h]
theorem entryAfter_evict (h : j.action = 1) : entryAfter j e k = { e with cur := e.home, dirty := 0 } := by simp only [entryAfter, h]
theorem entryAfter_move (h : j.action = 2) :
    entryAfter j e k = { e with cur := BitVec.ofNat 42 (j.placeAt k), home := BitVec.ofNat 42 (j.placeAt k) } := by simp only [entryAfter, h]
theorem entryAfter_replicate (h : j.action = 3) : entryAfter j e k = { e with repl := BitVec.ofNat 42 (j.placeAt k) } := by
  simp only [entryAfter, h]
theorem entryAfter_drop (h : j.action = 4) : entryAfter j e k = { e with repl := noPlace } := by simp only [entryAfter, h]
theorem entryAfter_assign (h : j.action = 5) : entryAfter j e k =
    { e with cur := BitVec.ofNat 42 (j.placeAt k), home := BitVec.ofNat 42 (j.placeAt k), present := true, poison := false,
             writable := j.writable, ctx := BitVec.ofNat 16 j.ctx, repl := noPlace, dirty := 0 } := by simp only [entryAfter, h]
theorem entryAfter_unmap (h : j.action = 6) : (entryAfter j e k).present = false ∧ placesOf (entryAfter j e k) = [] := by
  simp [entryAfter, h, placesOf]
end

/-- Settles O28: the charges of a MIGRATE, the next page of a job, the switch, and R271's table. -/
theorem migrationMovesPages : Obligations.MigrationMovesPages := by
  unfold Obligations.MigrationMovesPages
  refine ⟨fun n i s c hc hr hb he => ⟨fun ho => ⟨fun ks l hk hl hw => ?_, fun h => ?_⟩, fun ho hj => ?_⟩, fun n i s j hj h8 h7 => ?_,
    fun n i s a c hm h => ?_, fun n i s c h => congrArg _ (opCopySwitch_queues h),
    fun j e k => ⟨entryAfter_fetch e k, entryAfter_evict e k, entryAfter_move e k, entryAfter_replicate e k, entryAfter_drop e k,
      entryAfter_assign e k, entryAfter_unmap e k⟩⟩
  · exact congrArg _ (opMigrate_waits hc hr ho hb he rfl hk hl (withinLimits_iff.mpr hw))
  · refine congrArg _ (opMigrate_quota hc hr ho hb he rfl (h.imp id ?_))
    rintro ⟨ks, l, k, t, hk, hl, hks, ht, hlt⟩
    refine ⟨ks, l, hk, hl, Bool.eq_false_iff.mpr fun hw => ?_⟩
    exact absurd (withinLimits_iff.mp hw k hks t ht) (Nat.not_le.mpr hlt)
  · refine congrArg Host.Outcome.next ?_
    unfold opWriteback
    rw [hj]
    exact (onValid_runs hc hr ho hb he).trans (if_pos rfl)
  · obtain ⟨c, hl, hx⟩ := action_row n i hj h8 h7
    refine ⟨c, hl, fun h => hx.trans (congrArg _ (nextPage_waits hj h)), fun h1 h2 h3 h4 h5 => ?_⟩
    have body := hx.trans (congrArg Host.Outcome.next (nextPage_takes hj h1 h2 h3 h4 h5))
    refine ⟨fun hf => body.trans ?_, fun hf ha => body.trans ?_, fun hf ha hd => body.trans ?_⟩
    · split
      · next h => exact absurd h hf
      · rfl
    · rw [hf]
      dsimp only
      rw [if_neg]
      · congr 2
        exact if_congr (by simp) rfl rfl
      · intro h
        simp only [Bool.and_eq_true, decide_eq_true_eq, Bool.or_eq_true, beq_iff_eq] at h
        exact h.2.elim (ha h.1).1 (ha h.1).2
    · rw [hf]
      dsimp only
      rw [if_pos (by simpa [ha] using hd)]
  · have hx : opAction a n i s = s := opAction_other h
    simp only [List.mem_cons, Prod.mk.injEq, List.not_mem_nil, or_false] at hm
    rcases hm with ⟨rfl, rfl⟩ | ⟨rfl, rfl⟩ | ⟨rfl, rfl⟩ | ⟨rfl, rfl⟩ | ⟨rfl, rfl⟩ | ⟨rfl, rfl⟩ | ⟨rfl, rfl⟩ <;> exact congrArg _ hx

/-! ### Entry changes -/

section
variable {s : State} {k : Nat} {c : PtChange} (hk : s.tiers.changes[k]? = some c)
include hk

theorem takeAt_changes : takeAt s.tiers.changes k = some (c, s.tiers.changes.eraseIdx k) := by
  unfold takeAt
  rw [hk]

theorem opEntryChange_waits (h : c.acks.length < 4 ∨ ∃ y ∈ s.tiers.changes.take k, y.page = c.page) : opEntryChange k s = s := by
  unfold opEntryChange
  rw [takeAt_changes hk]
  exact if_pos (by simpa using h)

/-- The state in which the owner has taken a change and read the entry. -/
def changeTaken (s : State) (k : Nat) (c : PtChange) : State :=
  ptRead { s with tiers := { s.tiers with
    changes := s.tiers.changes.eraseIdx k
    cache := put s.tiers.cache (c.page % 4 * 4096 + c.page % 4096)
      ((getD s.tiers.cache (c.page % 4 * 4096 + c.page % 4096) []).filter (· != c.page)) [] } } c.page

/-- An acknowledged change, with none of its entry before it. -/
theorem opEntryChange_writes (h1 : 4 ≤ c.acks.length) (h2 : ∀ y ∈ s.tiers.changes.take k, y.page ≠ c.page) :
    opEntryChange k s = (match c.what with
      | .fieldLost f => resolveEntry (placeInField f) (changeTaken s k c) c.page
      | .poison unit tier =>
        if (ptEntry (changeTaken s k c) c.page).poison then changeTaken s k c
        else sendRec (setPt (changeTaken s k c) c.page { ptEntry (changeTaken s k c) c.page with poison := true }) (.cres (c.page % 4))
          ST_DATA_POISON 0x2001 c.page (unit + tier * 256)
      | .start n i => startCopy (changeTaken s k c) n i c.page
      | .switch n i => switchPage (changeTaken s k c) n i c.page
      | .giveUp n i => endGiveUp (changeTaken s k c) n i c.page
      | .noCopy n i =>
        match jobOf (changeTaken s k c) n i with
        | none => changeTaken s k c
        | some j =>
          finishJob (settlePage (setPt (changeTaken s k c) c.page
            (entryAfter j (ptEntry (changeTaken s k c) c.page) (j.offset c.page))) n i c.page (ptEntry (changeTaken s k c) c.page)
            (entryAfter j (ptEntry (changeTaken s k c) c.page) (j.offset c.page)) false) n i) := by
  have ha : ((s.tiers.changes.take k).any (fun x => x.page == c.page)) = false :=
    List.any_eq_false.mpr fun y hy => by simpa using h2 y hy
  unfold opEntryChange
  rw [takeAt_changes hk]
  dsimp only
  rw [if_neg (by simp [ha, h1])] <;> rfl

/-! ### Acknowledgements -/

theorem opInvalidation_not {u : Nat} (h : u = c.page % 4 ∨ u ∈ c.acks ∨ boundDone s u c.page = false) : opInvalidation k u s = s := by
  unfold opInvalidation
  rw [hk]
  exact if_pos (by simpa [or_assoc] using h)

/-- The cache of unit `u` without the entry of a page; the port complex keeps none. -/
def cacheWithout (s : State) (u page : Nat) : Assoc (List Nat) :=
  if u < 4 then put s.tiers.cache (u * 4096 + page % 4096) ((getD s.tiers.cache (u * 4096 + page % 4096) []).filter (· != page)) []
  else s.tiers.cache

theorem opInvalidation_acks {u : Nat} (h1 : u ≠ c.page % 4) (h2 : u ∉ c.acks) (h3 : boundDone s u c.page = true) :
    opInvalidation k u s = { s with tiers := { s.tiers with
      cache := cacheWithout s u c.page
      changes := s.tiers.changes.modify k (fun c => { c with acks := c.acks ++ [u] }) } } := by
  unfold opInvalidation
  rw [hk]
  dsimp only
  rw [if_neg (by simp [h1, h2, h3])]
  unfold cacheWithout
  by_cases hu : u < 4
  · simp only [hu, if_true]
  · simp only [hu, if_false]
end

theorem cacheWithout_drops {s : State} {u : Nat} (page : Nat) (h : u < 4) :
    page ∉ getD (cacheWithout s u page) (u * 4096 + page % 4096) [] := by
  unfold cacheWithout
  rw [if_pos h, getD_put_same]
  simp

/-! ### Snapshots -/

/-- A page is asked for: no more than GLB_PT_INDEX and the snapshot changes. -/
theorem snapshot_asked {s y : State} {n : Nat} (hk : OnlyRegs [regAddr .GLB_PT_INDEX 0 0] s y)
    (hp : getF y F.GLB_PT_INDEX_PAGE 0 = n) (hr : getF y F.GLB_PT_INDEX_READY 0 = 0) :
    let x := { y with tiers := { y.tiers with snapshot := some n } }
    x.tiers = { s.tiers with snapshot := some n } ∧ getF x F.GLB_PT_INDEX_PAGE 0 = n ∧ getF x F.GLB_PT_INDEX_READY 0 = 0 ∧
      RegsKept [regAddr .GLB_PT_INDEX 0 0] s x ∧ { x with regs := s.regs, tiers := s.tiers } = s := by
  have ht := congrArg State.tiers hk.2
  refine ⟨?_, hp, hr, hk.1, congrArg (fun y : State => { y with tiers := s.tiers }) hk.2⟩
  exact congrArg (fun t : Tiers => { t with snapshot := some n }) ht

theorem opPtIndex_asks (v : BitVec 24) (s : State) : let x := opPtIndex v.toNat s
    x.tiers = { s.tiers with snapshot := some v.toNat } ∧ getF x F.GLB_PT_INDEX_PAGE 0 = v.toNat ∧
      getF x F.GLB_PT_INDEX_READY 0 = 0 ∧ RegsKept [regAddr .GLB_PT_INDEX 0 0] s x ∧
      { x with regs := s.regs, tiers := s.tiers } = s := by
  have hm := List.mem_singleton_self (regAddr .GLB_PT_INDEX 0 0)
  refine snapshot_asked (((OnlyRegs.refl _ s).then_setF F.GLB_PT_INDEX_PAGE 0 v.toNat hm).then_setF F.GLB_PT_INDEX_READY 0 0 hm) ?_
    (getF_setF_same _ F.GLB_PT_INDEX_READY 0 0 (by decide))
  exact (getF_setF_other _ F.GLB_PT_INDEX_READY F.GLB_PT_INDEX_PAGE 0 0 rfl (by decide) (by decide)).trans
    ((getF_setF_same s F.GLB_PT_INDEX_PAGE 0 v.toNat (by decide)).trans (Nat.mod_eq_of_lt v.isLt))

theorem ptRead_clean {s : State} {p : Nat} (h : granuleErrs s (ptPlace s p).1 (ptPlace s p).2 = []) : ptRead s p = s := by
  unfold ptRead
  dsimp only
  rw [h]
  rfl

/-- The words of an entry shown in GLB_PT_ENTRY. -/
def entryShown (s : State) (e : PtEntry) : State := (entryWords e).zipIdx.foldl (fun s x => setI s F.GLB_PT_ENTRY_WORD 0 x.2 x.1) s

theorem opSnapshot_waits {s : State} {p : Nat} (hp : s.tiers.snapshot = some p) (h : ∃ y ∈ s.tiers.changes, y.page = p) :
    opSnapshot s = s := by
  unfold opSnapshot
  rw [hp]
  exact if_pos (by simpa using h)

theorem opSnapshot_shows {s : State} {p : Nat} (hp : s.tiers.snapshot = some p) (h : ∀ y ∈ s.tiers.changes, y.page ≠ p) :
    opSnapshot s = setF { entryShown (ptRead s p) (ptEntry (ptRead s p) p) with
      tiers := { (entryShown (ptRead s p) (ptEntry (ptRead s p) p)).tiers with snapshot := none } } F.GLB_PT_INDEX_READY 0 1 := by
  unfold opSnapshot
  rw [hp]
  exact if_neg (by simpa using h)

/-- The words of GLB_PT_ENTRY lie at different addresses. -/
theorem ptEntry_addr (i : Nat) (h : i < 4) : regAddr .GLB_PT_ENTRY 0 i = 0x60008 + i * 8 := by
  unfold regAddr regRow regionBase
  dsimp only
  omega

theorem entryWords_length (e : PtEntry) : (entryWords e).length = 4 := rfl

/-- Words shown from place `n` on: the words below stay, word `i` of the list stands at `n + i`, and no other register changes. -/
theorem wordsShown (ws : List Nat) (n : Nat) (s : State) (hn : n + ws.length ≤ 4) :
    (∀ i v, ws[i]? = some v → getI ((ws.zipIdx n).foldl (fun s x => setI s F.GLB_PT_ENTRY_WORD 0 x.2 x.1) s) F.GLB_PT_ENTRY_WORD 0 (n + i)
      = v % 2 ^ 64) ∧
    (∀ i, i < n → getI ((ws.zipIdx n).foldl (fun s x => setI s F.GLB_PT_ENTRY_WORD 0 x.2 x.1) s) F.GLB_PT_ENTRY_WORD 0 i
      = getI s F.GLB_PT_ENTRY_WORD 0 i) ∧
    OnlyRegs ((List.range 4).map (regAddr .GLB_PT_ENTRY 0)) s
      ((ws.zipIdx n).foldl (fun s x => setI s F.GLB_PT_ENTRY_WORD 0 x.2 x.1) s) := by
  induction ws generalizing n s with
  | nil => exact ⟨fun i v h => by simp at h, fun _ _ => rfl, OnlyRegs.refl _ _⟩
  | cons w ws ih =>
    simp only [List.length_cons] at hn
    obtain ⟨hnew, hold, honly⟩ := ih (n + 1) (setI s F.GLB_PT_ENTRY_WORD 0 n w) (by omega)
    simp only [List.zipIdx_cons, List.foldl_cons]
    refine ⟨fun i v h => ?_, fun i hi => ?_, (setI_onlyRegs s F.GLB_PT_ENTRY_WORD 0 n w).trans honly ?_ (List.Subset.refl _)⟩
    · cases i with
      | zero =>
        obtain rfl : w = v := by simpa using h
        exact (hold n (Nat.lt_succ_self n)).trans (getI_setI_same s F.GLB_PT_ENTRY_WORD 0 n w (by decide))
      | succ i =>
        have := hnew i v (by simpa using h)
        rwa [Nat.add_assoc, Nat.add_comm 1 i] at this
    · refine (hold i (by omega)).trans (getI_setI_ne _ _ _ _ _ _ _ _ ?_)
      show regAddr .GLB_PT_ENTRY 0 i ≠ regAddr .GLB_PT_ENTRY 0 n
      rw [ptEntry_addr i (by omega), ptEntry_addr n (by omega)]
      omega
    · intro a ha
      rw [List.mem_singleton.mp ha]
      exact List.mem_map_of_mem (List.mem_range.mpr (by omega))

theorem entryShown_word (s : State) (e : PtEntry) {i v : Nat} (h : (entryWords e)[i]? = some v) :
    getI (entryShown s e) F.GLB_PT_ENTRY_WORD 0 i = v % 2 ^ 64 := by
  have := (wordsShown (entryWords e) 0 s (Nat.le_of_eq (entryWords_length e))).1 i v h
  rwa [Nat.zero_add] at this

theorem entryShown_onlyRegs (s : State) (e : PtEntry) :
    OnlyRegs ((List.range 4).map (regAddr .GLB_PT_ENTRY 0)) s (entryShown s e) :=
  (wordsShown (entryWords e) 0 s (Nat.le_of_eq (entryWords_length e))).2.2

theorem ptEntry_ne_index {i : Nat} (h : i < 4) : regAddr .GLB_PT_INDEX 0 0 ≠ regAddr .GLB_PT_ENTRY 0 i := by
  rw [ptEntry_addr i h]
  show 0x60000 ≠ _
  omega

theorem regAddr_ne_ptEntry {a : Nat} (h : a = 0x60000) : a ∉ (List.range 4).map (regAddr .GLB_PT_ENTRY 0) := by
  intro hm
  obtain ⟨i, hi, ha⟩ := List.mem_map.mp hm
  rw [ptEntry_addr i (List.mem_range.mp hi)] at ha
  omega

/-- READY is set after the words of an entry, PAGE stays, and no more is asked for. -/
theorem snapshot_told {y z : State} {as : List Nat} (hk : OnlyRegs as y z) (hp : regAddr .GLB_PT_INDEX 0 0 ∉ as) :
    let x := setF { z with tiers := { z.tiers with snapshot := none } } F.GLB_PT_INDEX_READY 0 1
    getF x F.GLB_PT_INDEX_READY 0 = 1 ∧ getF x F.GLB_PT_INDEX_PAGE 0 = getF y F.GLB_PT_INDEX_PAGE 0 ∧
      (∀ i, i < 4 → getI x F.GLB_PT_ENTRY_WORD 0 i = getI z F.GLB_PT_ENTRY_WORD 0 i) ∧
      x.tiers = { y.tiers with snapshot := none } ∧ { x with regs := y.regs, tiers := y.tiers } = y := by
  have hpage : getF { z with tiers := { z.tiers with snapshot := none } } F.GLB_PT_INDEX_PAGE 0 = getF y F.GLB_PT_INDEX_PAGE 0 :=
    hk.1.getF_eq F.GLB_PT_INDEX_PAGE 0 hp
  have hz : { ({ z with tiers := { z.tiers with snapshot := none } } : State) with regs := y.regs, tiers := y.tiers } = y :=
    congrArg (fun q : State => { q with tiers := y.tiers }) hk.2
  have ht := congrArg State.tiers hk.2
  have htiers : ({ z with tiers := { z.tiers with snapshot := none } } : State).tiers = { y.tiers with snapshot := none } :=
    congrArg (fun q : Tiers => { q with snapshot := none }) ht
  have hwords : ∀ i, getI { z with tiers := { z.tiers with snapshot := none } } F.GLB_PT_ENTRY_WORD 0 i = getI z F.GLB_PT_ENTRY_WORD 0 i :=
    fun i => rfl
  generalize ({ z with tiers := { z.tiers with snapshot := none } } : State) = q at *
  refine ⟨getF_setF_same q F.GLB_PT_INDEX_READY 0 1 (by decide), ?_, fun i h => ?_, ?_, ?_⟩
  · exact (getF_setF_other q F.GLB_PT_INDEX_READY F.GLB_PT_INDEX_PAGE 0 1 rfl (by decide) (by decide)).trans hpage
  · have hne : regAddr F.GLB_PT_ENTRY_WORD.reg 0 i ≠ regAddr F.GLB_PT_INDEX_READY.reg 0 0 := Ne.symm (ptEntry_ne_index h)
    rw [setF, getI_setI_ne _ _ _ _ _ _ _ _ hne]
    exact hwords i
  · exact (setF_tiers q F.GLB_PT_INDEX_READY 0 1).trans htiers
  · obtain ⟨-, hrest⟩ := (OnlyRegs.refl [regAddr .GLB_PT_INDEX 0 0] q).then_setF F.GLB_PT_INDEX_READY 0 1 (List.mem_singleton_self _)
    generalize setF q F.GLB_PT_INDEX_READY 0 1 = x at hrest ⊢
    exact (congrArg (fun q : State => { q with regs := y.regs, tiers := y.tiers }) hrest).trans hz

/-! ### Saturation windows -/

section
variable {s : State} {c t : Nat}

theorem opWindowEnd_open (h : getF s F.STK_SAT_CFG_WINDOW c = 0 ∨ s.now - getD s.tiers.winStart (c * 4 + t) 0 < getF s F.STK_SAT_CFG_WINDOW c) :
    opWindowEnd c t s = s := by
  unfold opWindowEnd
  exact if_pos (by simpa using h)

/-- Whether the stalls of the window make its tier saturated. -/
def windowSat (s : State) (c t : Nat) : Bool :=
  decide (getF s F.STK_SAT_CFG_THRESH c * getF s F.STK_SAT_CFG_WINDOW c ≤ getD s.tiers.stall (c * 4 + t) 0 * 256)

/-- The run of saturated windows with this one. -/
def windowRun (s : State) (c t : Nat) : Nat := if windowSat s c t then getD s.tiers.satRun (c * 4 + t) 0 + 1 else 0

/-- The window's values taken, and the next window begun. -/
def windowTaken (s : State) (c t : Nat) : State :=
  let x := setI (setI s F.STK_TIER_STALL c t (getD s.tiers.stall (c * 4 + t) 0)) F.STK_TIER_RUN c t (min (windowRun s c t) 255)
  { x with tiers := { x.tiers with stall := put x.tiers.stall (c * 4 + t) 0 0, winStart := put x.tiers.winStart (c * 4 + t) x.now 0,
                                   satRun := put x.tiers.satRun (c * 4 + t) (windowRun s c t) 0,
                                   lastSat := put x.tiers.lastSat (c * 4 + t) (windowSat s c t) false } }

theorem opWindowEnd_ends (h1 : getF s F.STK_SAT_CFG_WINDOW c ≠ 0)
    (h2 : getF s F.STK_SAT_CFG_WINDOW c ≤ s.now - getD s.tiers.winStart (c * 4 + t) 0) : opWindowEnd c t s =
      if getF s F.STK_SAT_CFG_COUNT c = 0 then windowTaken s c t
      else if windowSat s c t && windowRun s c t % getF s F.STK_SAT_CFG_COUNT c = 0 then
        sendRec (windowTaken s c t) (.cres c) 0 0x2002 t (getD s.tiers.stall (c * 4 + t) 0)
      else if !windowSat s c t && decide (getF s F.STK_SAT_CFG_COUNT c ≤ getD s.tiers.satRun (c * 4 + t) 0) then
        sendRec (windowTaken s c t) (.cres c) 0 0x2002 (t + 2 ^ 31) (getD s.tiers.stall (c * 4 + t) 0)
      else windowTaken s c t := by
  unfold opWindowEnd windowTaken windowRun windowSat
  rw [if_neg (by simp [h1]; omega)]
  dsimp only
  by_cases hs : getF s F.STK_SAT_CFG_THRESH c * getF s F.STK_SAT_CFG_WINDOW c ≤ getD s.tiers.stall (c * 4 + t) 0 * 256
  · simp only [hs, decide_true, if_true]
  · simp only [hs, decide_false, if_false, Bool.false_eq_true]
end

/-- Settles O29, clause by clause: changes, acknowledgements, the index, the snapshot and the end of a window. -/
theorem entriesChangeAfterAcknowledgement : Obligations.EntriesChangeAfterAcknowledgement := by
  unfold Obligations.EntriesChangeAfterAcknowledgement
  refine ⟨fun k s c hk => ⟨fun h => congrArg Host.Outcome.next (opEntryChange_waits hk h), fun h1 h2 => ?_⟩, fun k u s c hk => ⟨fun h =>
    congrArg Host.Outcome.next (opInvalidation_not hk h), fun h1 h2 h3 => ?_⟩, fun v s => ?_, fun s p hp => ⟨fun h =>
    congrArg Host.Outcome.next (opSnapshot_waits hp h), fun h => ?_⟩, fun c t s => ⟨fun h => congrArg Host.Outcome.next (opWindowEnd_open h), fun h1 h2 =>
    congrArg Host.Outcome.next (opWindowEnd_ends h1 h2)⟩⟩
  · have hx := opEntryChange_writes hk h1 h2
    refine ⟨fun unit tier hw => congrArg Host.Outcome.next ?_, fun f hw => congrArg Host.Outcome.next ?_, fun n i hw => congrArg Host.Outcome.next ?_,
      fun n i hw => congrArg Host.Outcome.next ?_,
      fun n i hw => congrArg Host.Outcome.next ?_, fun n i j hw hj => congrArg Host.Outcome.next ?_⟩
    · rw [hw] at hx; exact hx
    · rw [hw] at hx; exact hx
    · rw [hw] at hx; exact hx
    · rw [hw] at hx; exact hx
    · rw [hw] at hx; exact hx
    · change jobOf (changeTaken s k c) n i = some j at hj
      rw [hw] at hx
      dsimp only at hx
      rw [hj] at hx
      exact hx
  · refine ⟨_, congrArg Host.Outcome.next (opInvalidation_acks hk h1 h2 h3), rfl, fun hu => cacheWithout_drops c.page hu, fun hu => ?_, rfl⟩
    exact if_neg (by omega)
  · obtain ⟨ht, hp, hr, hk, hrest⟩ := opPtIndex_asks v s
    exact ⟨_, rfl, ht, hp, hr, hk, hrest⟩
  · have hclean := ptRead_clean (s := s) (p := p)
    have hx := opSnapshot_shows hp h
    generalize ptRead s p = y at hclean hx ⊢
    have hk := entryShown_onlyRegs y (ptEntry y p)
    have hw := fun i v => entryShown_word y (ptEntry y p) (i := i) (v := v)
    have hl := entryWords_length (ptEntry y p)
    generalize entryShown y (ptEntry y p) = z at hk hw hx
    obtain ⟨hready, hpage, hkept, htiers, hrest⟩ := snapshot_told hk (regAddr_ne_ptEntry (by decide))
    refine ⟨_, congrArg Host.Outcome.next hx, hclean, hready, hpage, fun i v hv => ?_, htiers, hrest⟩
    have hi := (List.getElem?_eq_some_iff.mp hv).1
    rw [hl] at hi
    exact (hkept i hi).trans (hw i v hv)

end Sys2Proof.Machine
end

section
/-! PROOFS. The fettlers of the tiles and of the stacks. -/
namespace Sys2Proof.Machine

theorem OnlyRegs.tiers {as : List Nat} {s t : State} (h : OnlyRegs as s t) : t.tiers = s.tiers := by
  have := congrArg State.tiers h.2
  exact this

theorem OnlyRegs.tiles {as : List Nat} {s t : State} (h : OnlyRegs as s t) : t.tiles = s.tiles := by
  have := congrArg State.tiles h.2
  exact this

/-! ### A line of a tile -/

theorem fettleValid_agrees {s : State} {g line : Nat} (h : getD (tileOf s g).valid line 0 = 7) : fettleValid s g line = s := by
  unfold fettleValid
  exact if_pos (by simp [h])

section
variable {s : State} {g line : Nat} (hv : getD (tileOf s g).valid line 0 = 7)
include hv

theorem fettleLine_clean (h : memErrs (tileOf s g) (64 * line) 64 = []) (hard : Bool) : fettleLine s g line hard = s := by
  unfold fettleLine
  dsimp only
  rw [fettleValid_agrees hv, h]
  exact if_neg (by simp)

section
variable {a m : Nat} (he : memErrs (tileOf s g) (64 * line) 64 = [(a, m)])
include he

/-- A line with one byte in error. -/
theorem fettleLine_one (hard : Bool) : fettleLine s g line hard =
    if hard && eccResult 8 m == .corrected then
      retireLine (fettleByte g (hard && 8 ≤ getF s F.TIL_MEM_ERR_SPARES_USED g) s (a, m)) g line
    else fettleByte g (hard && 8 ≤ getF s F.TIL_MEM_ERR_SPARES_USED g) s (a, m) := by
  unfold fettleLine
  dsimp only
  rw [fettleValid_agrees hv, he]
  simp only [List.foldl_cons, List.foldl_nil, List.any_cons, List.any_nil, Bool.or_false]

theorem fettleLine_mark (h : eccIsPoison 8 m = true) (hard : Bool) : fettleLine s g line hard = s := by
  have hr : eccResult 8 m ≠ .corrected := by
    unfold eccIsPoison at h
    unfold eccResult
    have hp : eccParity 8 m = false := by simpa using (Bool.and_eq_true_iff.mp h).1
    rw [if_neg (by simp [hp])]
    split <;> simp
  have hb : ∀ stuck, fettleByte g stuck s (a, m) = s := fun stuck => if_pos h
  rw [fettleLine_one hv he, if_neg (by simp [hr]), hb]

theorem fettleLine_soft (h1 : eccResult 8 m = .corrected) (h2 : eccIsPoison 8 m = false) : fettleLine s g line false =
    modTile (logMemErr s g 8 0 a m) g (fun t =>
      { t with mem := wrByte t.mem a (BitVec.ofNat 8 (eccDeliver 8 (rdByte t.mem a).toNat m)), memFlip := erase t.memFlip a }) := by
  rw [fettleLine_one hv he, if_neg (by simp)]
  unfold fettleByte
  dsimp only
  rw [if_neg (by simp [h2]), if_neg (by simp [h1]), if_neg (by simp)]

theorem fettleLine_hard (h1 : eccResult 8 m = .corrected) (h2 : eccIsPoison 8 m = false) : fettleLine s g line true =
    retireLine (if 8 ≤ getF s F.TIL_MEM_ERR_SPARES_USED g then logMemErr s g 8 0 a m else
      modTile (logMemErr s g 8 0 a m) g (fun t =>
        { t with mem := wrByte t.mem a (BitVec.ofNat 8 (eccDeliver 8 (rdByte t.mem a).toNat m)), memFlip := erase t.memFlip a })) g line := by
  rw [fettleLine_one hv he, if_pos (by simp [h1])]
  unfold fettleByte
  dsimp only
  rw [if_neg (by simp [h2]), if_neg (by simp [h1])]
  simp only [Bool.true_and, decide_eq_true_eq]

theorem fettleLine_lost (h1 : eccResult 8 m = .uncorrectable) (h2 : eccIsPoison 8 m = false) (hard : Bool) : fettleLine s g line hard =
    sendRec (modTile (logMemErr s g 8 0 a m) g (fun t =>
      { t with mem := wrByte t.mem a (BitVec.ofNat 8 ((rdByte t.mem a).toNat ^^^ (m % 256))), memFlip := put t.memFlip a (eccPoison 8) 0 }))
      (.tile g) 0 0x1800 a 0 := by
  rw [fettleLine_one hv he, if_neg (by simp [h1])]
  unfold fettleByte
  dsimp only
  rw [if_neg (by simp [h2]), if_pos (by simp [h1])]
end
end

/-- Valid-bit copies that disagree are repaired; no byte of the line is in error. -/
theorem fettleLine_repairs {s : State} {g line : Nat} (h0 : getD (tileOf s g).valid line 0 ≠ 0)
    (h7 : getD (tileOf s g).valid line 0 ≠ 7) (hf : (tileOf s g).memFlip = []) (hard : Bool) : fettleLine s g line hard =
    modTile (wrReg (countF s F.TIL_MEM_ERR_CORRECTED g 1) .TIL_MEM_LAST g 0 (BitVec.ofNat 64 (64 * line + 3 * 2 ^ 33))) g
      (fun t => { t with valid := put t.valid line (if lineValid (tileOf s g) line then 7 else 0) 0 }) := by
  have hv : fettleValid s g line =
    modTile (wrReg (countF s F.TIL_MEM_ERR_CORRECTED g 1) .TIL_MEM_LAST g 0 (BitVec.ofNat 64 (64 * line + 3 * 2 ^ 33))) g
      (fun t => { t with valid := put t.valid line (if lineValid (tileOf s g) line then 7 else 0) 0 }) := by
    unfold fettleValid
    exact if_neg (by simp [h0, h7])
  have he : memErrs (tileOf (fettleValid s g line) g) (64 * line) 64 = [] := by
    rw [hv]
    simp [memErrs, hf]
  unfold fettleLine
  dsimp only
  rw [he, hv]
  exact if_neg (by simp)

theorem fettleLine_repaired {s : State} {g line : Nat} (h0 : getD (tileOf s g).valid line 0 ≠ 0)
    (h7 : getD (tileOf s g).valid line 0 ≠ 7) (hf : (tileOf s g).memFlip = []) (hard : Bool) :
    tileOf (fettleLine s g line hard) g = { tileOf s g with valid := put (tileOf s g).valid line (if lineValid (tileOf s g) line then 7 else 0) 0 } ∧
      rdReg (fettleLine s g line hard) .TIL_MEM_LAST g 0 = BitVec.ofNat 64 (64 * line + 3 * 2 ^ 33) ∧
      RegsKept [regAddr .TIL_MEM_ERR g 0, regAddr .TIL_MEM_LAST g 0] s (fettleLine s g line hard) := by
  rw [fettleLine_repairs h0 h7 hf hard]
  generalize BitVec.ofNat 64 (64 * line + 3 * 2 ^ 33) = v
  have hc : OnlyRegs [regAddr .TIL_MEM_ERR g 0] s (countF s F.TIL_MEM_ERR_CORRECTED g 1) :=
    (OnlyRegs.refl _ s).then_setF F.TIL_MEM_ERR_CORRECTED g _ (List.mem_singleton_self _)
  have hw := hc.trans (wrReg_onlyRegs _ .TIL_MEM_LAST g 0 v)
    (cs := [regAddr .TIL_MEM_ERR g 0, regAddr .TIL_MEM_LAST g 0]) (by simp) (by simp)
  have hr := rdReg_wrReg_same (countF s F.TIL_MEM_ERR_CORRECTED g 1) .TIL_MEM_LAST g 0 v
  generalize wrReg (countF s F.TIL_MEM_ERR_CORRECTED g 1) .TIL_MEM_LAST g 0 v = y at hw hr ⊢
  have ht : tileOf y g = tileOf s g := by rw [tileOf, tileOf, hw.tiles]
  refine ⟨by rw [tileOf_modTile_same, ht], by rw [rdReg_modTile, hr], fun a ha => ?_⟩
  rw [modTile_regs]
  exact hw.1 a ha

/-! ### Retirement of a line -/

theorem retireLine_full {s : State} {g line : Nat} (h : 8 ≤ getF s F.TIL_MEM_ERR_SPARES_USED g) :
    retireLine s g line = sendRec s (.tile g) 0 0x1802 (64 * line) 0 := by
  unfold retireLine
  exact if_pos h

theorem foldl_unchanged {α β : Type} (f : β → α → β) (b : β) (xs : List α) (h : ∀ x ∈ xs, f b x = b) : xs.foldl f b = b := by
  induction xs with
  | nil => rfl
  | cons x xs ih => rw [List.foldl_cons, h x List.mem_cons_self, ih fun y hy => h y (List.mem_cons_of_mem _ hy)]

theorem retireLine_takes {s : State} {g line : Nat} (h : getF s F.TIL_MEM_ERR_SPARES_USED g < 8)
    (hn : ∀ k, k < 8 → rdReg s .TIL_REMAP g k ≠ remapWord line) : retireLine s g line =
    let y := wrReg (setF s F.TIL_MEM_ERR_SPARES_USED g (getF s F.TIL_MEM_ERR_SPARES_USED g + 1)) .TIL_REMAP g
      (getF s F.TIL_MEM_ERR_SPARES_USED g) (remapWord line)
    { y with tiers := { y.tiers with repairs := y.tiers.repairs ++ [(g, getF s F.TIL_MEM_ERR_SPARES_USED g, line)] } } := by
  unfold retireLine
  dsimp only
  rw [if_neg (by omega), foldl_unchanged _ s (List.range 8) fun k hk => if_neg (hn k (List.mem_range.mp hk))]

theorem retireLine_taken {s : State} {g line : Nat} (h : getF s F.TIL_MEM_ERR_SPARES_USED g < 8)
    (hn : ∀ k, k < 8 → rdReg s .TIL_REMAP g k ≠ remapWord line) :
    let used := getF s F.TIL_MEM_ERR_SPARES_USED g
    let x := retireLine s g line
    rdReg x .TIL_REMAP g used = remapWord line ∧ x.tiers = { s.tiers with repairs := s.tiers.repairs ++ [(g, used, line)] } ∧
      x.tiles = s.tiles ∧ RegsKept [regAddr .TIL_MEM_ERR g 0, regAddr .TIL_REMAP g used] s x := by
  dsimp only
  rw [retireLine_takes h hn]
  dsimp only
  generalize getF s F.TIL_MEM_ERR_SPARES_USED g = used
  have hc : OnlyRegs [regAddr .TIL_MEM_ERR g 0] s (setF s F.TIL_MEM_ERR_SPARES_USED g (used + 1)) :=
    (OnlyRegs.refl _ s).then_setF F.TIL_MEM_ERR_SPARES_USED g _ (List.mem_singleton_self _)
  have hw := hc.trans (wrReg_onlyRegs _ .TIL_REMAP g used (remapWord line)) (cs := [regAddr .TIL_MEM_ERR g 0, regAddr .TIL_REMAP g used])
    (by simp) (by simp)
  have hr := rdReg_wrReg_same (setF s F.TIL_MEM_ERR_SPARES_USED g (used + 1)) .TIL_REMAP g used (remapWord line)
  generalize wrReg (setF s F.TIL_MEM_ERR_SPARES_USED g (used + 1)) .TIL_REMAP g used (remapWord line) = y at hw hr ⊢
  have hregs : ∀ ts : Tiers, ({ y with tiers := ts } : State).regs = y.regs := fun _ => rfl
  refine ⟨?_, by rw [hw.tiers], hw.tiles, fun a ha => ?_⟩
  · rw [rdReg, hregs]
    exact hr
  · rw [hregs]
    exact hw.1 a ha

/-! ### A tile's fettler -/

theorem opTileFettler_passes {s : State} {g line : Nat} {hard : Bool} (h : fettles s g = false ∨ line ≠ (tileOf s g).sweep) :
    opTileFettler g line hard s = s := by
  unfold opTileFettler
  exact if_pos (by simpa using h)

theorem opTileFettler_reads {s : State} {g line : Nat} {hard : Bool} (h1 : fettles s g = true) (h2 : line = (tileOf s g).sweep) :
    opTileFettler g line hard s = fettleLine (modTile s g (fun t => { t with sweep := (line + 1) % 16384 })) g line hard := by
  unfold opTileFettler
  exact if_neg (by simp [h1, h2])

/-! ### A stack's fettler -/

theorem opStackFettler_passes {s : State} {c ch slot g : Nat} {hard : Bool}
    (h : getF s F.STK_FETTLE_SWEEP c = 0 ∨ getD s.tiers.sweep (c * 192 + ch) 0 ≠ slot * 64 + g) :
    opStackFettler c ch slot g hard s = s := by
  unfold opStackFettler
  exact if_pos (by simpa using h)

theorem opStackFettler_reads {s : State} {c ch slot g : Nat} {hard : Bool} (h1 : getF s F.STK_FETTLE_SWEEP c ≠ 0)
    (h2 : getD s.tiers.sweep (c * 192 + ch) 0 = slot * 64 + g) : opStackFettler c ch slot g hard s =
    let x := { s with tiers := { s.tiers with
      sweep := put s.tiers.sweep (c * 192 + ch) ((getD s.tiers.sweep (c * 192 + ch) 0 + 1) % 67108864) 0 } }
    sweepAt x (ptPage x (unitKey c ch slot) g) c ch slot g (unitKey c ch slot) hard := by
  unfold opStackFettler
  exact if_neg (by simp [h1, h2])

/-! ### A granule of a data frame, its valid bits in order -/

section
variable {s : State} {k : Nat} (h0 : getD s.tiers.vflip (k / 64) 0 = 0)
include h0

theorem scrubValid_clean : scrubValid s k = s := by
  unfold scrubValid
  rw [h0] <;> rfl

variable {c ch slot g : Nat}

theorem sweepGranule_skips (hv : unitValid s k = false) (hard : Bool) : sweepGranule s c ch slot g k hard = s := by
  unfold sweepGranule
  dsimp only
  rw [scrubValid_clean h0]
  exact if_pos (by simp [hv])

theorem readData_skips (hv : unitValid s k = false) (hard : Bool) : readData s g k hard = s := by
  unfold readData
  dsimp only
  rw [scrubValid_clean h0]
  exact if_pos (by simp [hv])

section
variable (hv : unitValid s k = true)
include hv

theorem sweepGranule_valid (hard : Bool) : sweepGranule s c ch slot g k hard =
    let errs := (granuleErrs s k g).filter (fun e => !eccIsPoison 64 e.2)
    let y := errs.foldl (fun s e => writeBackWord (countChannel s k e) e) s
    if errs.any newlyLost then reportLost y c ch slot g k else hardRow y k g hard (!errs.isEmpty) := by
  unfold sweepGranule
  dsimp only
  rw [scrubValid_clean h0, if_neg (by simp [hv])]

theorem readData_valid (hard : Bool) : readData s g k hard = hardRow
    (if (readGranule s k g).2.1 then poisonAt (readGranule s k g).2.2 k else (readGranule s k g).2.2) k g hard
    ((granuleErrs s k g).any (fun e => eccResult 64 e.2 == .corrected) && !(granuleErrs s k g).any newlyLost) := by
  unfold readData
  dsimp only
  rw [scrubValid_clean h0, if_neg (by simp [hv])]

theorem readData_dead (hd : deadUnit s k = true) : readData s g k false = poisonAt s k := by
  have hr : readGranule s k g = (List.replicate 64 0, true, s) := by
    unfold readGranule
    exact if_pos hd
  rw [readData_valid h0 hv, hr]
  rfl

section
variable (hd : deadUnit s k = false)
include hd

theorem readGranule_live : readGranule s k g =
    let errs := granuleErrs s k g
    let bad := errs.any (fun e => eccResult 64 e.2 == .uncorrectable)
    let y := errs.foldl (fun s e => writeBackWord (countChannel s k e) e) s
    let z := if errs.any newlyLost then retireRow y k g else y
    (granuleBytes s k g, bad, if bad then countF z F.STK_ELOG_DISC_POISONED (k / 2 ^ 20 / 192) 1 else z) := by
  unfold readGranule
  dsimp only
  rw [if_neg (by simp [hd]), scrubValid_clean h0, if_neg (by simp [hv])]

theorem readData_clean (he : granuleErrs s k g = []) (hard : Bool) : readData s g k hard = s := by
  rw [readData_valid h0 hv, readGranule_live h0 hv hd, he]
  simp [hardRow]

theorem readData_corrects {e : Nat × Nat} (he : granuleErrs s k g = [e]) (h1 : eccResult 64 e.2 = .corrected) (hard : Bool) :
    readData s g k hard =
      if hard then retireRow (writeBackWord (countChannel s k e) e) k g else writeBackWord (countChannel s k e) e := by
  rw [readData_valid h0 hv, readGranule_live h0 hv hd, he]
  simp [hardRow, newlyLost, h1]

theorem readData_loses {e : Nat × Nat} (he : granuleErrs s k g = [e]) (h1 : eccResult 64 e.2 = .uncorrectable)
    (h2 : eccIsPoison 64 e.2 = false) (hard : Bool) : readData s g k hard = poisonAt
      (countF (retireRow (writeBackWord (countChannel s k e) e) k g) F.STK_ELOG_DISC_POISONED (k / 2 ^ 20 / 192) 1) k := by
  rw [readData_valid h0 hv, readGranule_live h0 hv hd, he]
  simp [hardRow, newlyLost, h1, h2]
end

theorem sweepGranule_clean (he : granuleErrs s k g = []) (hard : Bool) : sweepGranule s c ch slot g k hard = s := by
  rw [sweepGranule_valid h0 hv, he]
  simp [hardRow]

theorem sweepGranule_corrects {e : Nat × Nat} (he : granuleErrs s k g = [e]) (h1 : eccResult 64 e.2 = .corrected)
    (h2 : eccIsPoison 64 e.2 = false) (hard : Bool) : sweepGranule s c ch slot g k hard =
      if hard then retireRow (writeBackWord (countChannel s k e) e) k g else writeBackWord (countChannel s k e) e := by
  rw [sweepGranule_valid h0 hv, he]
  simp [hardRow, newlyLost, h1, h2]

theorem sweepGranule_loses {e : Nat × Nat} (he : granuleErrs s k g = [e]) (h1 : eccResult 64 e.2 = .uncorrectable)
    (h2 : eccIsPoison 64 e.2 = false) (hard : Bool) :
    sweepGranule s c ch slot g k hard = reportLost (writeBackWord (countChannel s k e) e) c ch slot g k := by
  rw [sweepGranule_valid h0 hv, he]
  simp [newlyLost, h1, h2]
end
end

theorem opStackRead_table {s : State} {c ch slot g p : Nat} (h : ptPage s (unitKey c ch slot) g = some p) (hard : Bool) :
    opStackRead c ch slot g hard s = readTable s (unitKey c ch slot) g p hard := by
  unfold opStackRead
  rw [h]
  rfl

theorem opStackRead_data {s : State} {c ch slot g : Nat} (h : ptPage s (unitKey c ch slot) g = none) (hard : Bool) :
    opStackRead c ch slot g hard s = readData s g (unitKey c ch slot) hard := by
  unfold opStackRead
  rw [h]
  rfl

/-- Settles O30, clause by clause: lines of tiles, their retirement, granules of stacks, and the repair list. -/
theorem fettlersCorrectAndRetire : Obligations.FettlersCorrectAndRetire := by
  unfold Obligations.FettlersCorrectAndRetire
  refine ⟨fun t line hard s => ⟨fun h => congrArg _ (opTileFettler_passes h), fun h1 h2 => congrArg _ (opTileFettler_reads h1 h2)⟩,
    fun g line s => ⟨fun hv => ⟨fun he hard => fettleLine_clean hv he hard, fun a m he => ⟨fun h hard => fettleLine_mark hv he h hard,
      fun h1 h2 => ⟨fettleLine_soft hv he h1 h2, fettleLine_hard hv he h1 h2⟩, fun h1 h2 hard => fettleLine_lost hv he h1 h2 hard⟩⟩,
      fun v hard hv h0 h7 hf => ?_⟩,
    fun s g line => ⟨fun h => retireLine_full h, fun h hn => ⟨_, rfl, retireLine_taken h hn⟩⟩,
    fun c ch slot g hard s => ⟨fun h => congrArg _ (opStackFettler_passes h), fun h1 h2 => congrArg _ (opStackFettler_reads h1 h2)⟩,
    fun c ch slot g hard s => ⟨fun p hp => congrArg _ (opStackRead_table hp hard), fun hp h0 => ⟨fun hv => ?_, fun hv hd => ?_,
      fun hv hd => ⟨fun he => ?_, fun e he => ⟨fun h1 h2 => ?_, fun h1 h2 => ?_⟩⟩⟩⟩, fun s => rfl⟩
  · subst hv
    exact fettleLine_repaired h0 h7 hf hard
  · exact ⟨sweepGranule_skips h0 hv hard, congrArg _ ((opStackRead_data hp hard).trans (readData_skips h0 hv hard))⟩
  · exact congrArg _ ((opStackRead_data hp false).trans (readData_dead h0 hv hd))
  · exact ⟨sweepGranule_clean h0 hv he hard, congrArg _ ((opStackRead_data hp hard).trans (readData_clean h0 hv hd he hard))⟩
  · exact ⟨sweepGranule_corrects h0 hv he h1 h2 hard,
      congrArg _ ((opStackRead_data hp hard).trans (readData_corrects h0 hv hd he h1 hard))⟩
  · exact ⟨⟨_, sweepGranule_loses h0 hv he h1 h2 hard, rfl⟩,
      congrArg _ ((opStackRead_data hp hard).trans (readData_loses h0 hv hd he h1 h2 hard))⟩

end Sys2Proof.Machine
end

section
/-! PROOFS. Incidents: fences, hand-off, recovery, column retirement and close; clock sources. -/
namespace Sys2Proof.Machine

/-! ### Fence packets -/

section
variable {s : State} {g : Nat}

theorem opFencePacket_none (h : g ∉ s.recov.fencePkts) : opFencePacket g s = s := by
  unfold opFencePacket
  exact if_pos (by simpa using h)

/-- The state that a fence packet has left. -/
def fenceTaken (s : State) (g : Nat) : State := { s with recov := { s.recov with fencePkts := s.recov.fencePkts.erase g } }

variable (hp : g ∈ s.recov.fencePkts)
include hp

theorem opFencePacket_out (h : inService (fenceTaken s g) (g / 700) = false) : opFencePacket g s = fenceTaken s g := by
  unfold opFencePacket
  rw [if_neg (by simpa using hp)]
  exact if_pos (by rw [fenceTaken] at h; simpa using h)

section
variable (h : inService (fenceTaken s g) (g / 700) = true) {y : State}
  (hy : haltFor (startQuiesce (setF (fenceTaken s g) F.TIL_STATUS_FENCED g 1) g) g = y)
include h hy

theorem opFencePacket_incident {inc : Incident} (hi : y.recov.incident = some inc) (hg : g ∈ inc.fenced) :
    opFencePacket g s = holdFor y (holdKey inc.what) (· == g) := by
  unfold opFencePacket
  dsimp only
  rw [if_neg (by simpa using hp), ← fenceTaken, if_neg (by simp [h]), hy, hi]
  exact if_pos (by simpa using hg)

theorem opFencePacket_apart (hn : ∀ inc, y.recov.incident = some inc → g ∉ inc.fenced) :
    opFencePacket g s = (contextsOf y (· == g)).foldl holdContext y := by
  unfold opFencePacket
  dsimp only
  rw [if_neg (by simpa using hp), ← fenceTaken, if_neg (by simp [h]), hy]
  cases hi : y.recov.incident with
  | none => rfl
  | some inc => exact if_neg (by simpa using hn inc hi)
end
end

/-! ### With no incident -/

theorem noIncident_kept {s : State} (h : s.recov.incident = none) : opHandoff s = s ∧ (∀ b, opAuto b s = s) ∧ (∀ b, opRetest b s = s) ∧
    (∀ b, opRetire b s = s) ∧ opIncClose s = s ∧ opClose s = s := by
  unfold opHandoff opAuto opRetest opRetire opIncClose opClose
  rw [h]
  exact ⟨rfl, fun _ => rfl, fun _ => rfl, fun _ => rfl, rfl, rfl⟩

/-! ### With an incident -/

section
variable {s : State} {inc : Incident} (hi : s.recov.incident = some inc)
include hi

theorem opHandoff_waits (h : inc.phase ≠ .opened ∨ allFenced s inc = false ∨ forRuntime s inc = false) : opHandoff s = s := by
  unfold opHandoff
  rw [hi]
  refine if_neg ?_
  rcases h with h | h | h
  · simp [h]
  · simp [h]
  · simp [h]

theorem opHandoff_hands (h1 : inc.phase = .opened) (h2 : allFenced s inc = true) (h3 : forRuntime s inc = true) :
    opHandoff s = handOff s inc := by
  unfold opHandoff
  rw [hi]
  exact if_pos (by simp [h1, h2, h3])

theorem opClose_not (h : inc.phase ≠ .handed) : opClose s = s := by
  unfold opClose
  rw [hi]
  exact if_neg h

theorem opClose_ends (h : inc.phase = .handed) :
    opClose s = endIncident { s with recov := { s.recov with readmit := true } } inc := by
  unfold opClose
  rw [hi]
  exact if_pos h

/-! ### The incident of a tile -/

section
variable {g code : Nat} (hw : inc.what = .tile g code)
include hw

theorem opAuto_waits (h : inc.phase ≠ .opened ∨ allFenced s inc = false ∨ forRuntime s inc = true) (ok : Bool) : opAuto ok s = s := by
  unfold opAuto
  rw [hi]
  dsimp only
  rw [hw]
  exact if_pos (by simpa [or_assoc] using h)

section
variable (h1 : inc.phase = .opened) (h2 : allFenced s inc = true) (h3 : forRuntime s inc = false)
include h1 h2 h3

theorem opAuto_lost : opAuto false s = handOff s { inc with lost := true } := by
  unfold opAuto
  rw [hi]
  dsimp only
  rw [hw]
  dsimp only
  rw [if_neg (by simp [h1, h2, h3]), if_pos (by simp)]

theorem opAuto_full (hs : saveTiles s inc [g] = none) : opAuto true s = handOff s inc := by
  unfold opAuto
  rw [hi]
  dsimp only
  rw [hw]
  dsimp only
  rw [if_neg (by simp [h1, h2, h3]), if_neg (by simp), hs]

variable {j : Incident} {x : State} (hs : saveTiles s inc [g] = some (j, x))
include hs

theorem opAuto_saved : opAuto true s =
    if code ≠ 0 && getF x F.GLB_REC_CFG_RETEST 0 = 1 && getF x F.TIL_REC_PRIOR_FAULT g = 0 then setInc x (some { j with phase := .retesting })
    else setInc (setF x F.TIL_REC_PRIOR_FAULT g 1) (some { j with phase := .retiring }) := by
  unfold opAuto
  rw [hi]
  dsimp only
  rw [hw]
  dsimp only
  rw [if_neg (by simp [h1, h2, h3]), if_neg (by simp), hs]

theorem opAuto_retests (k1 : code ≠ 0) (k2 : getF x F.GLB_REC_CFG_RETEST 0 = 1) (k3 : getF x F.TIL_REC_PRIOR_FAULT g = 0) :
    opAuto true s = setInc x (some { j with phase := .retesting }) := by
  rw [opAuto_saved hi hw h1 h2 h3 hs]
  exact if_pos (by simp [k1, k2, k3])

theorem opAuto_retires (k : code = 0 ∨ getF x F.GLB_REC_CFG_RETEST 0 ≠ 1 ∨ getF x F.TIL_REC_PRIOR_FAULT g ≠ 0) :
    opAuto true s = setInc (setF x F.TIL_REC_PRIOR_FAULT g 1) (some { j with phase := .retiring }) := by
  rw [opAuto_saved hi hw h1 h2 h3 hs]
  refine if_neg ?_
  rcases k with k | k | k
  · simp [k]
  · simp [k]
  · simp [k]
end

theorem opRetest_not (h : inc.phase ≠ .retesting) (pass : Bool) : opRetest pass s = s := by
  unfold opRetest
  rw [hi]
  dsimp only
  rw [hw]
  exact if_pos h

theorem opRetest_ends (h : inc.phase = .retesting) (pass : Bool) : opRetest pass s =
    setInc (setF s F.TIL_REC_PRIOR_FAULT g 1) (some { inc with phase := if pass then .restoring else .retiring }) := by
  unfold opRetest
  rw [hi]
  dsimp only
  rw [hw]
  exact if_neg (not_not_intro h)

theorem opRetire_not (h : inc.phase ≠ .retiring) (ok : Bool) : opRetire ok s = s := by
  unfold opRetire
  rw [hi]
  dsimp only
  rw [hw]
  exact if_pos h

section
variable (h : inc.phase = .retiring)
include h

theorem opRetire_loses (hb : getF s F.FLD_STATE_BYPASS_COL (g / 700) ≠ 24) (ok : Bool) : opRetire ok s = loseField s (g / 700) 4 := by
  unfold opRetire
  rw [hi]
  dsimp only
  rw [hw]
  dsimp only
  rw [if_neg (not_not_intro h), if_pos hb]

variable (hb : getF s F.FLD_STATE_BYPASS_COL (g / 700) = 24)
include hb

theorem opRetire_widens (hc : inc.column = none) (ok : Bool) : opRetire ok s = widenFence s inc (g / 700) (g % 700 % 25) := by
  unfold opRetire
  rw [hi]
  dsimp only
  rw [hw]
  dsimp only
  rw [if_neg (not_not_intro h), if_neg (not_not_intro hb), if_pos (by simp [hc])]

variable (hc : inc.column ≠ none)
include hc

theorem opRetire_waits (hf : allFenced s inc = false) (ok : Bool) : opRetire ok s = s := by
  unfold opRetire
  rw [hi]
  dsimp only
  rw [hw]
  dsimp only
  rw [if_neg (not_not_intro h), if_neg (not_not_intro hb), if_neg (by simpa using hc), if_pos (by simp [hf])]

variable (hf : allFenced s inc = true)
include hf

theorem opRetire_lost : opRetire false s = handOff s { inc with lost := true } := by
  unfold opRetire
  rw [hi]
  dsimp only
  rw [hw]
  dsimp only
  rw [if_neg (not_not_intro h), if_neg (not_not_intro hb), if_neg (by simpa using hc), if_neg (by simp [hf]), if_pos (by simp)]

theorem opRetire_again (hr : (allShiftRecs s (g / 700) (g % 700 % 25)).1 = 4) :
    opRetire true s = again s (allShiftRecs s (g / 700) (g % 700 % 25)).2.2 := by
  unfold opRetire
  rw [hi]
  dsimp only
  rw [hw]
  dsimp only
  rw [if_neg (not_not_intro h), if_neg (not_not_intro hb), if_neg (by simpa using hc), if_neg (by simp [hf]), if_neg (by simp),
    if_pos hr]

theorem opRetire_shifts (hr : (allShiftRecs s (g / 700) (g % 700 % 25)).1 = 0) (hn : slotsIn s (g / 700) ≠ []) {j : Incident} {x : State}
    (hs : saveTiles (allShiftRecs s (g / 700) (g % 700 % 25)).2.2 inc
      ((shifting s (g / 700) (g % 700 % 25)).filter (fun h => !inc.saved.contains h)) = some (j, x)) :
    opRetire true s = shiftColumn x j (g / 700) (g % 700 % 25) (allShiftRecs s (g / 700) (g % 700 % 25)).2.1 := by
  have hk : ¬((allShiftRecs s (g / 700) (g % 700 % 25)).1 ≠ 0 ∨ slotsIn s (g / 700) = []) := fun k => k.elim (· hr) hn
  unfold opRetire
  rw [hi]
  dsimp only
  rw [hw]
  dsimp only
  rw [if_neg (not_not_intro h), if_neg (not_not_intro hb), if_neg (by simpa using hc), if_neg (by simp [hf]), if_neg (by simp),
    if_neg (by omega), if_neg (by simpa using hk), hs]

theorem opRetire_hands (h4 : (allShiftRecs s (g / 700) (g % 700 % 25)).1 ≠ 4)
    (hr : (allShiftRecs s (g / 700) (g % 700 % 25)).1 ≠ 0 ∨ slotsIn s (g / 700) = [] ∨
      saveTiles (allShiftRecs s (g / 700) (g % 700 % 25)).2.2 inc
        ((shifting s (g / 700) (g % 700 % 25)).filter (fun h => !inc.saved.contains h)) = none) :
    opRetire true s = handOff (allShiftRecs s (g / 700) (g % 700 % 25)).2.2 inc := by
  unfold opRetire
  rw [hi]
  dsimp only
  rw [hw]
  dsimp only
  rw [if_neg (not_not_intro h), if_neg (not_not_intro hb), if_neg (by simpa using hc), if_neg (by simp [hf]), if_neg (by simp),
    if_neg h4]
  by_cases hk : (allShiftRecs s (g / 700) (g % 700 % 25)).1 ≠ 0 ∨ slotsIn s (g / 700) = []
  · exact if_pos (by simpa using hk)
  · rw [if_neg (by simpa using hk), (or_assoc.mpr hr).resolve_left hk]
end

theorem opIncClose_not (h : inc.phase ≠ .restoring) : opIncClose s = s := by
  unfold opIncClose
  rw [hi]
  dsimp only
  rw [hw]
  exact if_pos h

section
variable (h : inc.phase = .restoring)
include h

theorem opIncClose_again (hr : (readSaved s inc).1 = 4) : opIncClose s = again s (readSaved s inc).2.2.2 := by
  unfold opIncClose
  rw [hi]
  dsimp only
  rw [hw]
  dsimp only
  rw [if_neg (not_not_intro h), if_pos hr]

theorem opIncClose_lost (h4 : (readSaved s inc).1 ≠ 4) (h0 : (readSaved s inc).1 ≠ 0) :
    opIncClose s = handOff (readSaved s inc).2.2.2 { inc with lost := true } := by
  unfold opIncClose
  rw [hi]
  dsimp only
  rw [hw]
  dsimp only
  rw [if_neg (not_not_intro h), if_neg h4, if_pos h0]

theorem opIncClose_ends (h0 : (readSaved s inc).1 = 0) : opIncClose s =
    let x := restoreSaved (readSaved s inc).2.2.2 (readSaved s inc).2.1 (readSaved s inc).2.2.1
    let y := (inc.fenced.filter (fun h => inService x (h / 700))).foldl (fun s h => startTile (setF s F.TIL_STATUS_FENCED h 0) h) x
    endIncident (sendRec (resumeFenced y) .port 0 0x1000 (incidentCode g code + (if inc.retired then 2 ^ 31 else 0)) (y.now - inc.since)) inc := by
  unfold opIncClose
  rw [hi]
  dsimp only
  rw [hw]
  dsimp only
  rw [if_neg (not_not_intro h), if_neg (by omega), if_neg (not_not_intro h0)]
end
end
end

/-! ### Clock sources -/

section
variable {s : State} {f : Nat}

theorem opClock_not (h : inService s f = false ∨ getF s F.FLD_CLK_HOLDOVER f = 1) : opClock f s = s := by
  unfold opClock
  exact if_pos (by simpa using h)

section
variable (h1 : inService s f = true) (h2 : getF s F.FLD_CLK_HOLDOVER f ≠ 1)
include h1 h2

theorem opClock_loses (h : getF s F.FLD_CLK_SOURCE f = 3) : opClock f s = loseField s f 3 := by
  unfold opClock
  rw [if_neg (by simp [h1, h2]), if_pos h]

theorem opClock_holds (h : getF s F.FLD_CLK_SOURCE f ≠ 3) : opClock f s =
    setF { s with recov := { s.recov with holdover := insert s.recov.holdover f (s.now + 5000) } } F.FLD_CLK_HOLDOVER f 1 := by
  unfold opClock
  rw [if_neg (by simp [h1, h2]), if_neg h]
end

theorem switchClock_not (h : inService s f = false ∨ getF s F.FLD_CLK_HOLDOVER f = 0) : switchClock s f = s := by
  unfold switchClock
  exact if_pos (by simpa using h)

/-- The field and its neighbours wait for the new clock. -/
def clockWaits (s : State) (f : Nat) : State :=
  { s with
    tiles := s.tiles.map (fun (e : Nat × Tile) =>
      if (f :: neighbours f).contains (e.1 / 700) then (e.1, shiftTimers (· + 20000) e.2) else e)
    recov := { s.recov with relock := insert s.recov.relock f (s.now + 20000) } }

/-- FLD_CLK shows the next source. -/
def clockShown (s : State) (f n : Nat) : State :=
  countF (setF (setF (setF s F.FLD_CLK_HOLDOVER f 0) F.FLD_CLK_LOCKED f 0) F.FLD_CLK_SOURCE f (n + 1)) F.FLD_CLK_SWITCHES f 1

theorem clockShown_onlyRegs (s : State) (f n : Nat) : OnlyRegs [regAddr .FLD_CLK f 0] s (clockShown s f n) := by
  have hm := List.mem_singleton_self (regAddr .FLD_CLK f 0)
  exact ((((OnlyRegs.refl _ s).then_setF F.FLD_CLK_HOLDOVER f 0 hm).then_setF F.FLD_CLK_LOCKED f 0 hm).then_setF
    F.FLD_CLK_SOURCE f (n + 1) hm).then_setF F.FLD_CLK_SWITCHES f _ hm

theorem clockShown_source (s : State) (f n : Nat) : getF (clockShown s f n) F.FLD_CLK_SOURCE f = (n + 1) % 4 :=
  (getF_setF_other _ F.FLD_CLK_SWITCHES F.FLD_CLK_SOURCE f _ rfl (by decide) (by decide)).trans
    (getF_setF_same _ F.FLD_CLK_SOURCE f (n + 1) (by decide))

theorem switchClock_switches (h1 : inService s f = true) (h2 : getF s F.FLD_CLK_HOLDOVER f ≠ 0) : switchClock s f =
    sendRec (clockShown (clockWaits s f) f (getF s F.FLD_CLK_SOURCE f)) (.field f) 0 0x1003 (f + (getF s F.FLD_CLK_SOURCE f + 1) * 2 ^ 8) 0 := by
  unfold switchClock
  rw [if_neg (by simp [h1, h2])]
  rfl

theorem tileOf_clockWaits {h : Nat} (h1 : f ≠ h / 700) (h2 : h / 700 ∉ neighbours f) : tileOf (clockWaits s f) h = tileOf s h := by
  have hn : (f :: neighbours f).contains (h / 700) = false := by simpa using ⟨Ne.symm h1, h2⟩
  unfold tileOf getD clockWaits
  dsimp only
  rw [find_relocked]
  cases find s.tiles h with
  | none => rfl
  | some t =>
    rw [Option.map_some, relocked, hn]
    rfl

theorem clockShown_fields (s : State) (f n : Nat) : let x := clockShown (clockWaits s f) f n
    RegsKept [regAddr .FLD_CLK f 0] s x ∧ { x with regs := s.regs, tiles := s.tiles, recov := s.recov } = s ∧
      x.recov = { s.recov with relock := insert s.recov.relock f (s.now + 20000) } ∧
      ∀ h, f ≠ h / 700 → h / 700 ∉ neighbours f → tileOf x h = tileOf s h := by
  obtain ⟨hregs, hrest⟩ := clockShown_onlyRegs (clockWaits s f) f n
  generalize clockShown (clockWaits s f) f n = x at hregs hrest ⊢
  have hrecov := congrArg State.recov hrest
  have htiles := congrArg State.tiles hrest
  refine ⟨hregs, ?_, hrecov, fun h h1 h2 => ?_⟩
  · exact congrArg (fun y : State => { y with regs := s.regs, tiles := s.tiles, recov := s.recov }) hrest
  · refine Eq.trans ?_ (tileOf_clockWaits h1 h2)
    exact congrArg (getD · h {}) htiles
end

/-- Settles O31, clause by clause: fence packets, the commands of the sequencer, clock sources, and lost units. -/
theorem incidentsRunTheirCourse : Obligations.IncidentsRunTheirCourse := by
  unfold Obligations.IncidentsRunTheirCourse
  refine ⟨fun t s => ⟨fun h => congrArg _ (opFencePacket_none h), fun hp => ?_⟩,
    fun s h => ?_, fun s inc hi => ⟨fun h => congrArg _ (opHandoff_waits hi h), fun h1 h2 h3 => congrArg _ (opHandoff_hands hi h1 h2 h3),
      fun h => congrArg _ (opClose_not hi h), fun h => congrArg _ (opClose_ends hi h), fun g code hw => ⟨fun ok h =>
      congrArg _ (opAuto_waits hi hw h ok), fun h1 h2 h3 => ⟨congrArg _ (opAuto_lost hi hw h1 h2 h3), fun hs =>
      congrArg _ (opAuto_full hi hw h1 h2 h3 hs), fun j x hs => ⟨fun k1 k2 k3 => congrArg _ (opAuto_retests hi hw h1 h2 h3 hs k1 k2 k3),
      fun k => congrArg _ (opAuto_retires hi hw h1 h2 h3 hs k)⟩⟩, fun pass h => congrArg _ (opRetest_not hi hw h pass), fun pass h =>
      congrArg _ (opRetest_ends hi hw h pass), fun ok h => congrArg _ (opRetire_not hi hw h ok), fun ok h hb =>
      congrArg _ (opRetire_loses hi hw h hb ok), fun h hb => ⟨fun ok hc => congrArg _ (opRetire_widens hi hw h hb hc ok), fun ok hc hf =>
      congrArg _ (opRetire_waits hi hw h hb hc hf ok), fun hc hf => ⟨congrArg _ (opRetire_lost hi hw h hb hc hf), fun hr =>
      congrArg _ (opRetire_again hi hw h hb hc hf hr), fun hr hn j x hs => congrArg _ (opRetire_shifts hi hw h hb hc hf hr hn hs),
      fun h4 hr => congrArg _ (opRetire_hands hi hw h hb hc hf h4 hr)⟩⟩, fun h => congrArg _ (opIncClose_not hi hw h), fun h => ⟨fun hr =>
      congrArg _ (opIncClose_again hi hw h hr), fun h4 h0 => congrArg _ (opIncClose_lost hi hw h h4 h0), fun h0 =>
      congrArg Host.Outcome.next (opIncClose_ends hi hw h h0)⟩⟩⟩,
    fun f s => ⟨fun h => congrArg _ (opClock_not h), fun h1 h2 => ⟨fun h => congrArg _ (opClock_loses h1 h2 h), fun h =>
      congrArg _ (opClock_holds h1 h2 h)⟩⟩,
    fun f s => ⟨switchClock_not, fun h1 h2 => ⟨_, switchClock_switches h1 h2, clockShown_source _ f _, clockShown_fields s f _⟩⟩,
    fun u s => rfl⟩
  · rw [← fenceTaken]
    intro x y
    generalize hy : y = z
    exact ⟨fun h => congrArg _ (opFencePacket_out hp h), fun h => ⟨fun inc hi hg =>
      congrArg _ (opFencePacket_incident hp h hy hi hg), fun hn => congrArg _ (opFencePacket_apart hp h hy hn)⟩⟩
  · obtain ⟨k1, k2, k3, k4, k5, k6⟩ := noIncident_kept h
    exact ⟨congrArg _ k1, fun b => congrArg _ (k2 b), fun b => congrArg _ (k3 b), fun b => congrArg _ (k4 b), congrArg _ k5, congrArg _ k6⟩

end Sys2Proof.Machine
end

section
/-! PROOFS. Contexts, the loss of a field, of both Brois links and of a reference. -/
namespace Sys2Proof.Machine

/-! ### CTX_SAVE -/

section
variable {s : State} {n : Nat} {i : W32} {ok : Bool} {c : Cmd} (hc : inflightCmd s n i = some c)

/-- The save has sent its fence packets. -/
theorem opCtxSave_fences (hc : inflightCmd s n i = some c) (hj : s.recov.ctxJobs.find? (fun j => j.q == n && j.idx == i) = none)
    (hr : c.run = false) (ho : c.opcode = 0x20)
    (hb : cmdBad s n c = false) (he : cmdEmpty c = false) : let gs := (rectTiles s (bodyRect c 1)).filter (fun g => inService s (g / 700))
    opCtxSave n i ok s = markRun { s with recov := { s.recov with
      ctxJobs := s.recov.ctxJobs ++ [{ q := n, idx := i, tiles := gs }], fencePkts := s.recov.fencePkts ++ gs } } n i := by
  unfold opCtxSave
  rw [hj]
  exact (onValid_runs hc hr ho hb he).trans (if_pos rfl)

section
variable {j : CtxJob} (hj : s.recov.ctxJobs.find? (fun j => j.q == n && j.idx == i) = some j)
include hj

theorem opCtxSave_waits (h : j.tiles.all (fenceDone s) = false) : opCtxSave n i ok s = s := by
  unfold opCtxSave
  rw [hj]
  exact if_neg (by simp [h])

include hc

/-- The mould is fenced: the save itself. -/
theorem opCtxSave_finishes (h : j.tiles.all (fenceDone s) = true) :
    opCtxSave n i ok s = finishSave { s with recov := { s.recov with ctxJobs := s.recov.ctxJobs.erase j } } n i c j.tiles ok := by
  unfold opCtxSave
  rw [hj]
  dsimp only
  rw [if_pos h, show inflightCmd { s with recov := { s.recov with ctxJobs := s.recov.ctxJobs.erase j } } n i = some c from hc]
end
end

section
variable {x : State} {n : Nat} {i : W32} {c : Cmd} {gs : List Nat} {ok : Bool} {b : List Byte × Bool × State} (hb : contextBytes x c gs = b)
include hb

theorem finishSave_fails (h : saveConds (!ok) (bodyF c 2 0 32 < b.1.length) b.2.1 ≠ []) : finishSave x n i c gs ok =
    let cs := saveConds (!ok) (bodyF c 2 0 32 < b.1.length) b.2.1
    completeIdx (logOthers b.2.2 cs (bestStatus cs)) n i (bestStatus cs) (if bestStatus cs = ST_CTX_SPACE then b.1.length else 0) := by
  unfold finishSave
  rw [hb]
  exact if_neg (by simpa using h)

/-- Nothing keeps the save from writing its context. -/
theorem finishSave_good {w : Nat × State} (hw : writeLogical b.2.2 (bodyF c 0 0 42) b.1 = w) (hl : b.1.length ≤ bodyF c 2 0 32)
    (hp : b.2.1 = false) : finishSave x n i c gs true =
      if w.1 ≠ 0 then completeIdx w.2 n i (readStatus w.1) 0 else completeIdx w.2 n i ST_OK b.1.length := by
  unfold finishSave
  dsimp only
  rw [hb, hp, decide_eq_false (by omega), hw]
  exact if_pos (by rfl)
end

/-- R22's order among the conditions of a save. -/
theorem bestStatus_saveConds : ∀ lost short poisoned : Bool, bestStatus (saveConds lost short poisoned) =
    if poisoned then ST_DATA_POISON else if lost then ST_CTX_LOST else if short then ST_CTX_SPACE else ST_OK := by decide

/-! ### CTX_RESTORE -/

/-- The sections behind a header, when it is one. -/
def readSections (s : State) (a : Nat) (h : CtxHead) : Nat × List Byte × State :=
  if h.magic = 0x31585443 && h.length ≤ 2 ^ 42 then readLogical s (a + 64) (h.length - 64) else (0, [], s)

theorem onValid_gives {s x : State} {n : Nat} {i : W32} {op : Nat} {f : Cmd → State → Bool × State} {c : Cmd} {b : Bool}
    (hc : inflightCmd s n i = some c) (hr : c.run = false) (ho : c.opcode = op) (hb : cmdBad s n c = false) (he : cmdEmpty c = false)
    (hf : f c s = (b, x)) : onValid s n i op f = if b then markRun x n i else x := by
  rw [onValid_runs hc hr ho hb he, hf]

section
variable {s : State} {n : Nat} {i : W32} {c : Cmd} (hc : inflightCmd s n i = some c) (hr : c.run = false) (ho : c.opcode = 0x21)
  (hb : cmdBad s n c = false) (he : cmdEmpty c = false) {r q : Nat × List Byte × State} (hread : readLogical s (bodyF c 0 0 42) 64 = r)
include hc hr ho hb he hread

theorem opCtxRestore_reads (h : r.1 = 4) : opCtxRestore n i s = r.2.2 := by
  refine (onValid_gives (b := false) hc hr ho hb he ?_).trans (if_neg (by simp))
  dsimp only
  rw [hread, if_pos h]

theorem opCtxRestore_fails (h4 : r.1 ≠ 4) (h0 : r.1 ≠ 0) :
    opCtxRestore n i s = markRun (completeCmd r.2.2 n c (readStatus r.1) 0) n i := by
  refine (onValid_gives (b := true) hc hr ho hb he ?_).trans (if_pos rfl)
  dsimp only
  rw [hread, if_neg h4, if_pos h0]

section
variable (h0 : r.1 = 0) (hq : readSections r.2.2 (bodyF c 0 0 42) (headOfBytes r.2.1) = q)
include h0 hq

theorem opCtxRestore_waits (h : q.1 = 4) : opCtxRestore n i s = q.2.2 := by
  unfold readSections at hq
  refine (onValid_gives (b := false) hc hr ho hb he ?_).trans (if_neg (by simp))
  dsimp only
  rw [hread, if_neg (by omega), if_neg (not_not_intro h0), hq, if_pos h]

theorem opCtxRestore_unread (h4 : q.1 ≠ 4) (hn : q.1 ≠ 0) :
    opCtxRestore n i s = markRun (completeCmd q.2.2 n c (readStatus q.1) 0) n i := by
  unfold readSections at hq
  refine (onValid_gives (b := true) hc hr ho hb he ?_).trans (if_pos rfl)
  dsimp only
  rw [hread, if_neg (by omega), if_neg (not_not_intro h0), hq, if_neg h4, if_pos hn]

theorem opCtxRestore_read (hz : q.1 = 0) : opCtxRestore n i s =
    markRun (completeCmd (if restoreFits q.2.2 c (headOfBytes r.2.1) (parseSections (headOfBytes r.2.1).sections q.2.1) then
        applyContext q.2.2 c (headOfBytes r.2.1) (parseSections (headOfBytes r.2.1).sections q.2.1) else q.2.2) n c
      (if restoreFits q.2.2 c (headOfBytes r.2.1) (parseSections (headOfBytes r.2.1).sections q.2.1) then ST_OK else ST_CTX_MISMATCH) 0) n i := by
  unfold readSections at hq
  refine (onValid_gives (b := true) hc hr ho hb he ?_).trans (if_pos rfl)
  dsimp only
  rw [hread, if_neg (by omega), if_neg (not_not_intro h0), hq, if_neg (by omega), if_neg (not_not_intro hz)]
  by_cases hf : restoreFits q.2.2 c (headOfBytes r.2.1) (parseSections (headOfBytes r.2.1).sections q.2.1) = true
  · rw [if_pos hf, if_pos hf, if_pos hf]
  · rw [if_neg hf, if_neg hf, if_neg hf]
    rfl
end
end

/-! ### Losses -/

section
variable {s : State} {f cause : Nat}

theorem loseField_inService (h : inService s f = true) : loseField s f cause =
    let x := dropField (faceDown (setFull (setSlow (haltRect (holdFor s (f + 1) (fun g => g / 700 == f)) (fieldRect f)) f false) f false) f) f
    let y := queueLost (leaveRuns (setF (setF x F.FLD_STATE_LOST f 1) F.FLD_STATE_CAUSE f cause) (fun g => g / 700 == f)) f
    askSnap (lossIncident (updateService y) f cause) 1 := by
  unfold loseField
  rw [if_neg (by simp [h])]

theorem opFieldLoss_not (h : cause = 0 ∨ inService s f = false) : opFieldLoss f cause s = s := by
  unfold opFieldLoss
  exact if_pos (by simpa using h)

theorem opFieldLoss_loses (h0 : cause ≠ 0) (h : inService s f = true) (h2 : cause ≠ 2) : opFieldLoss f cause s = loseField s f cause := by
  unfold opFieldLoss
  rw [if_neg (by simp [h0, h])]
  exact if_neg h2

theorem opFieldLoss_off {z : State} (h : inService s f = true) (hz : loseField s f 2 = z) : opFieldLoss f 2 s =
    setF { z with power := { z.power with offAt := insert z.power.offAt f z.now } } F.PWR_FLD_RAIL_HELD_OFF f 1 := by
  unfold opFieldLoss
  rw [if_neg (by simp [h]), hz]
  exact if_pos rfl
end

/-- A link that has been lost for 1 s. -/
def bothLostOf (s : State) (l : Nat) : Bool :=
  getI s F.BRL_STAT_STATE 0 l < 4 && (linkOf s l).wasLost && 100000000 ≤ s.now - (linkOf s l).since

theorem bothLostOf_iff (s : State) (l : Nat) : bothLostOf s l = true ↔
    getI s F.BRL_STAT_STATE 0 l < 4 ∧ (linkOf s l).wasLost = true ∧ 100000000 ≤ s.now - (linkOf s l).since := by
  simp [bothLostOf, and_assoc]

theorem opBothLost_not {s : State} (h : (bothLostOf s 0 && bothLostOf s 1 && s.recov.owed.isNone && !s.recov.holding) = false) :
    opBothLost s = s := by
  unfold opBothLost
  exact if_neg (by simpa only [bothLostOf, Bool.not_eq_true] using h)

theorem opBothLost_holds {s : State} (h : (bothLostOf s 0 && bothLostOf s 1 && s.recov.owed.isNone && !s.recov.holding) = true) :
    opBothLost s = { holdAll s 2 0 with recov := { (holdAll s 2 0).recov with owed := some 2 } } := by
  unfold opBothLost
  exact if_pos h

/-- Settles O32, clause by clause: saves, restores, and losses. -/
theorem contextsAndLosses : Obligations.ContextsAndLosses := by
  unfold Obligations.ContextsAndLosses
  refine ⟨fun n i ok s c hc => ⟨fun hj hr ho => ⟨fun hb => congrArg Host.Outcome.next ?_, fun hb he => congrArg Host.Outcome.next ?_, fun hb he =>
      congrArg Host.Outcome.next (opCtxSave_fences hc hj hr ho hb he)⟩, fun j hj => ⟨fun h => congrArg _ (opCtxSave_waits hj h), fun h => ?_⟩⟩,
    bestStatus_saveConds, fun n i s c hc hr ho => ⟨fun hb => congrArg _ (onValid_bad hc hr ho hb), fun hb he =>
      congrArg _ (onValid_empty hc hr ho hb he), fun hb he => ?_⟩,
    fun f cause s => ⟨fun h => congrArg _ (opFieldLoss_not (h.imp_left fun e => by rw [e]; rfl)), fun h0 h => ?_⟩,
    fun s => ⟨fun h => congrArg Host.Outcome.next ?_, fun h ho hh => congrArg _ (opBothLost_holds ?_)⟩, fun s => rfl⟩
  · unfold opCtxSave
    rw [hj]
    exact onValid_bad hc hr ho hb
  · unfold opCtxSave
    rw [hj]
    exact onValid_empty hc hr ho hb he
  · intro x b w cs
    have hx : opCtxSave n i ok s = finishSave x n i c j.tiles ok := opCtxSave_finishes hc hj h
    have hb : contextBytes x c j.tiles = b := rfl
    have hw : writeLogical b.2.2 (bodyF c 0 0 42) b.1 = w := rfl
    clear_value b w
    refine ⟨fun hn => congrArg Host.Outcome.next (hx.trans (finishSave_fails hb hn)), fun hok hl hp => ?_⟩
    subst hok
    have hy := hx.trans (finishSave_good hb hw hl hp)
    exact ⟨fun h => congrArg Host.Outcome.next (hy.trans (if_neg (not_not_intro h))), fun h =>
      congrArg Host.Outcome.next (hy.trans (if_pos h))⟩
  · intro a r h q secs
    have hread : readLogical s (bodyF c 0 0 42) 64 = r := rfl
    have hq : readSections r.2.2 (bodyF c 0 0 42) (headOfBytes r.2.1) = q := rfl
    clear_value r q
    refine ⟨fun h => congrArg Host.Outcome.next (opCtxRestore_reads hc hr ho hb he hread h), fun h4 h0 =>
      congrArg Host.Outcome.next (opCtxRestore_fails hc hr ho hb he hread h4 h0), fun h0 => ⟨fun h =>
      congrArg Host.Outcome.next (opCtxRestore_waits hc hr ho hb he hread h0 hq h), fun h4 hn =>
      congrArg Host.Outcome.next (opCtxRestore_unread hc hr ho hb he hread h0 hq h4 hn), fun hz hf => ?_, fun hz hf => ?_⟩⟩
    · refine congrArg Host.Outcome.next ((opCtxRestore_read hc hr ho hb he hread h0 hq hz).trans ?_)
      rw [if_pos hf, if_pos hf]
    · refine congrArg Host.Outcome.next ((opCtxRestore_read hc hr ho hb he hread h0 hq hz).trans ?_)
      have hn : ¬ (restoreFits q.2.2 c (headOfBytes r.2.1) (parseSections (headOfBytes r.2.1).sections q.2.1) = true) := by
        rw [show restoreFits q.2.2 c (headOfBytes r.2.1) (parseSections (headOfBytes r.2.1).sections q.2.1) = false from hf]
        simp
      rw [if_neg hn, if_neg hn]
  · have h0' : (cause : Nat) ≠ 0 := fun e => h0 (Fin.ext e)
    have hx := loseField_inService (cause := cause.val) h
    intro x y z
    change loseField s f cause = z at hx
    clear_value z
    refine ⟨fun h2 => ?_, fun h2 => ?_⟩
    · have h2' : (cause : Nat) ≠ 2 := fun e => h2 (Fin.ext e)
      exact congrArg Host.Outcome.next ((opFieldLoss_loses h0' h h2').trans hx)
    · subst h2
      exact congrArg Host.Outcome.next (opFieldLoss_off h hx)
  · refine opBothLost_not ?_
    obtain ⟨l, hl, hn⟩ := h
    have hk : bothLostOf s l = false := by
      refine Bool.eq_false_iff.mpr fun e => ?_
      obtain ⟨e1, e2, e3⟩ := (bothLostOf_iff s l).mp e
      rcases hn with hn | hn | hn
      · omega
      · rw [hn] at e2
        cases e2
      · omega
    obtain rfl | rfl : l = 0 ∨ l = 1 := by omega
    · simp [hk]
    · simp [hk]
  · simp [(bothLostOf_iff s _).mpr (h 0 (by omega)), (bothLostOf_iff s _).mpr (h 1 (by omega)), ho, hh]

end Sys2Proof.Machine
end

section
/-! PROOFS. Cold start, admission of fields, and restarts. -/
namespace Sys2Proof.Machine

/-! ### Qualification of the input -/

/-- The phase and the kind of a start, as GLB_START_STAT shows them. -/
def startShown (s : State) (kind : Nat) : State := setF (setF s F.GLB_START_STAT_PHASE 0 0) F.GLB_START_STAT_LAST_START 0 kind

theorem startShown_phase (s : State) (kind : Nat) : getF (startShown s kind) F.GLB_START_STAT_PHASE 0 = 0 :=
  (getF_setF_other _ F.GLB_START_STAT_LAST_START F.GLB_START_STAT_PHASE 0 kind rfl (by decide) (by decide)).trans
    (getF_setF_same s F.GLB_START_STAT_PHASE 0 0 (by decide))

theorem startShown_kind (s : State) (kind : Nat) : getF (startShown s kind) F.GLB_START_STAT_LAST_START 0 = kind % 4 :=
  getF_setF_same _ F.GLB_START_STAT_LAST_START 0 kind (by decide)

theorem startShown_onlyRegs (s : State) (kind : Nat) : OnlyRegs [regAddr .GLB_START_STAT 0 0] s (startShown s kind) := by
  have hm := List.mem_singleton_self (regAddr .GLB_START_STAT 0 0)
  exact ((OnlyRegs.refl _ s).then_setF F.GLB_START_STAT_PHASE 0 0 hm).then_setF F.GLB_START_STAT_LAST_START 0 kind hm

theorem opQualified_not {s : State} (h : s.power.on = true ∨ heldFor s cStart 2000000 = false) : opQualified s = s := by
  unfold opQualified
  refine if_neg ?_
  rcases h with h | h
  · simp [h]
  · simp [h]

theorem opQualified_starts {s : State} (h1 : s.power.on = false) (h2 : heldFor s cStart 2000000 = true) :
    opQualified s = startShown { s with power := { s.power with on := true, start := true } } 0 := by
  unfold opQualified
  exact if_pos (by simp [h1, h2])

theorem startShown_on {s b : State} (kind : Nat) (hp : { b with power := s.power } = s) (hr : b.regs = s.regs) :
    let x := startShown b kind
    x.power = b.power ∧ RegsKept [regAddr .GLB_START_STAT 0 0] s x ∧ { x with regs := s.regs, power := s.power } = s := by
  obtain ⟨hregs, hrest⟩ := startShown_onlyRegs b kind
  generalize startShown b kind = x at hregs hrest ⊢
  have hpow := congrArg State.power hrest
  refine ⟨hpow, fun a ha => ?_, ?_⟩
  · rw [hregs a ha, hr]
  · rw [← hr]
    exact (congrArg (fun y : State => { y with power := s.power }) hrest).trans hp

/-! ### The steps of a cold start -/

section
variable {bad : List CheckFail} {s : State}

theorem opColdStart_not (h : s.power.on = false ∨ s.power.start = false ∨ 3 ≤ getF s F.GLB_START_STAT_PHASE 0) : opColdStart bad s = s := by
  unfold opColdStart
  by_cases hk : s.power.on = false ∨ s.power.start = false
  · exact if_pos (by simpa using hk)
  · rw [if_neg (by simpa using hk)]
    obtain ⟨n, hn⟩ := Nat.exists_eq_add_of_le' ((or_assoc.mpr h).resolve_left hk)
    rw [hn] <;> rfl

section
variable (h1 : s.power.on = true) (h2 : s.power.start = true)
include h1 h2

theorem opColdStart_housekeeping (hp : getF s F.GLB_START_STAT_PHASE 0 = 0) : opColdStart bad s = startHousekeeping s := by
  unfold opColdStart
  rw [if_neg (by simp [h1, h2]), hp] <;> rfl

theorem opColdStart_crescents (hp : getF s F.GLB_START_STAT_PHASE 0 = 1) : opColdStart bad s = startCrescents bad s := by
  unfold opColdStart
  rw [if_neg (by simp [h1, h2]), hp] <;> rfl

theorem opColdStart_fields (hp : getF s F.GLB_START_STAT_PHASE 0 = 2) :
    opColdStart bad s = if allDecided s then startFrame (setF s F.GLB_START_STAT_PHASE 0 3) else s := by
  unfold opColdStart
  rw [if_neg (by simp [h1, h2]), hp] <;> rfl
end

theorem startFrame_none {x : State} {r : Option (Manifest × List ImgRec) × State} (hr : chooseFrame x = r) (h : r.1 = none) :
    startFrame x = { r.2 with power := { r.2.power with start := false } } := by
  unfold startFrame
  rw [hr]
  dsimp only
  rw [h]

theorem startFrame_takes {x : State} {r : Option (Manifest × List ImgRec) × State} (hr : chooseFrame x = r) {m : Manifest}
    {rs : List ImgRec} (h : r.1 = some (m, rs)) : startFrame x =
      let y := (List.range 54).foldl (fun s d => if domainUp s d then takeSection s m rs d false else shadowSection s m rs d)
        (setF r.2 F.CFG_STAGE_STAT_ACTIVE_VALID 0 1)
      let z := nameGauges (setF (setF (setSplit y rs) F.GLB_START_STAT_FRAME 0 1) F.GLB_START_STAT_PHASE 0 4)
      updateService { z with power := { z.power with start := false } } := by
  unfold startFrame
  rw [hr]
  dsimp only
  rw [h]
end

/-! ### Stages A and B -/

section
variable {s : State} {f : Nat}

theorem opStageA_not (h1 : coldTurn s f = false) (h2 : resetTurn s f = false) (e : StageEnd) : opStageA f e s = s := by
  unfold opStageA
  exact if_pos (by simp [h1, h2])

section
variable (h : coldTurn s f = true ∨ resetTurn s f = true)
include h

theorem stageA_turn : ¬((!coldTurn s f && !resetTurn s f) = true) := by
  rcases h with h | h
  · simp [h]
  · simp [h]

theorem opStageA_fails : opStageA f .trip s = failA s f 1 1 ∧ opStageA f .noClock s = failA s f 3 3 ∧
    opStageA f .pattern s = failA (applyRetained s f) f 7 7 ∧
    ∀ row n, opStageA f (.checker row n) s = failA (sendRec (applyRetained s f) (.field f) 0 0x1806 row n) f 7 row :=
  ⟨if_neg (stageA_turn h), if_neg (stageA_turn h), if_neg (stageA_turn h), fun _ _ => if_neg (stageA_turn h)⟩

theorem opStageA_admits (hr : resetTurn s f = false) : opStageA f .pass s = admitField (applyRetained s f) f := by
  unfold opStageA
  rw [if_neg (stageA_turn h)]
  exact if_pos (by simp [hr])

theorem opStageA_readmits {x : State} (hx : commitHeld (admitField (applyRetained s f) f) f = x) (hr : resetTurn s f = true) :
    opStageA f .pass s = if othersFull x f then x else endFieldReset x f 1 := by
  unfold opStageA
  rw [if_neg (stageA_turn h), ← hx]
  exact if_neg (by simp [hr])
end

/-- Stage B has to wait. -/
def stageBWaits (s : State) (f : Nat) : Bool :=
  !atStageA s f || getF s F.GLB_START_STAT_FRAME 0 = 0 || !getD s.power.ready f false || fieldRuns s f ||
    (getF s F.FLD_RESET_BUSY f = 1 && !othersFull s f)

theorem stageBWaits_iff : stageBWaits s f = true ↔ atStageA s f = false ∨ getF s F.GLB_START_STAT_FRAME 0 = 0 ∨
    getD s.power.ready f false = false ∨ fieldRuns s f = true ∨ (getF s F.FLD_RESET_BUSY f = 1 ∧ othersFull s f = false) := by
  simp [stageBWaits, or_assoc]

theorem opStageB_waits {pass : Bool} (h : stageBWaits s f = true) : opStageB f pass s = s := by
  unfold opStageB
  exact if_pos h

theorem opStageB_ends {pass : Bool} (h : ¬ stageBWaits s f = true) : opStageB f pass s =
    let x := { s with tiles := (s.tiles.map (fun e => if e.1 / 700 = f then (e.1, { e.2 with acc := [] }) else e)).filter (fun e => e.2 ≠ {}) }
    let y := if pass && !getD x.power.failed f false then
        updateService (sendRec (setFull (setSlow x f false) f true) .power 0 0x3101 (f + 2 * 2 ^ 8) 0)
      else sendRec x .power 0 0x3101 (f + 3 * 2 ^ 8) (getF x F.FLD_STATE_CAUSE f)
    if getF y F.FLD_RESET_BUSY f = 1 then endFieldReset y f 1 else y := by
  unfold opStageB
  exact if_neg h
end

/-! ### Restarts -/

section
variable {s : State}

theorem isArmed_iff : isArmed s = true ↔ ∃ t, s.loader.armed = some t ∧ s.now - t ≤ 100000 := by
  unfold isArmed
  cases s.loader.armed with
  | none => simp
  | some t => simp

/-- ARM is spent. -/
def disarmed (s : State) : State := { s with loader := { s.loader with armed := none } }

theorem opWarm_restarts (h1 : isArmed s = true) (h2 : s.power.start = false) (h3 : s.loader.reached = true) :
    opWarm s = warmRestart (disarmed s) := by
  unfold opWarm
  exact if_pos (by simp [h1, h2, h3])

theorem opWarm_discards (h : ¬ isArmed s = true ∨ s.power.start = true ∨ s.loader.reached = false) : opWarm s = discardReset (disarmed s) := by
  unfold opWarm
  refine if_neg ?_
  rcases h with h | h | h
  · simp [h]
  · simp [h]
  · simp [h]

theorem opCold_discards (h : ¬ isArmed s = true) : opCold s = discardReset (disarmed s) := by
  unfold opCold
  exact if_pos (by simpa using h)

theorem opCold_starts {x : State} (hx : abandonAll (disarmed s) = x) (h : isArmed s = true) :
    opCold s = startShown { x with power := { x.power with start := true }, recov := { x.recov with holding := true } } 1 := by
  unfold opCold
  rw [← hx]
  exact if_neg (by simp [h])

theorem startShown_kept (b : State) (kind : Nat) : (startShown b kind).power = b.power ∧ (startShown b kind).recov = b.recov ∧
    (startShown b kind).tiles = b.tiles := by
  obtain ⟨-, hrest⟩ := startShown_onlyRegs b kind
  generalize startShown b kind = x at hrest ⊢
  have h1 := congrArg State.power hrest
  have h2 := congrArg State.recov hrest
  have h3 := congrArg State.tiles hrest
  exact ⟨h1, h2, h3⟩

theorem opCold_started {x : State} (hx : abandonAll (disarmed s) = x) (h : isArmed s = true) :
    getF (opCold s) F.GLB_START_STAT_PHASE 0 = 0 ∧ getF (opCold s) F.GLB_START_STAT_LAST_START 0 = 1 ∧
      (opCold s).power = { x.power with start := true } ∧ (opCold s).recov.holding = true ∧ (opCold s).tiles = x.tiles := by
  rw [opCold_starts hx h]
  obtain ⟨hp, hr, ht⟩ := startShown_kept { x with power := { x.power with start := true }, recov := { x.recov with holding := true } } 1
  exact ⟨startShown_phase _ 1, startShown_kind _ 1, hp, by rw [hr], ht⟩

theorem discardReset_counts : getF (discardReset s) F.GLB_START_STAT_DISCARDED 0 =
      min (getF s F.GLB_START_STAT_DISCARDED 0 + 1) (2 ^ F.GLB_START_STAT_DISCARDED.w - 1) ∧
    RegsKept [regAddr .GLB_START_STAT 0 0] s (discardReset s) ∧ { discardReset s with regs := s.regs } = s := by
  have hk : OnlyRegs [regAddr .GLB_START_STAT 0 0] s (discardReset s) :=
    (OnlyRegs.refl _ s).then_setF F.GLB_START_STAT_DISCARDED 0 _ (List.mem_singleton_self _)
  exact ⟨getF_countF_same s F.GLB_START_STAT_DISCARDED 0 1 (by decide), hk.1, hk.2⟩
end

/-- Settles O33, clause by clause: the input, the steps of a cold start, stages A and B, and restarts. -/
theorem startsAndRestarts : Obligations.StartsAndRestarts := by
  unfold Obligations.StartsAndRestarts
  refine ⟨fun s => ⟨fun h => congrArg Host.Outcome.next (opQualified_not h), fun h1 h2 => ⟨_, congrArg Host.Outcome.next (opQualified_starts h1 h2), ?_⟩⟩,
    fun bad s => ⟨fun h => congrArg Host.Outcome.next (opColdStart_not h), fun h1 h2 => ⟨fun hp =>
      congrArg Host.Outcome.next (opColdStart_housekeeping h1 h2 hp), fun hp => congrArg Host.Outcome.next (opColdStart_crescents h1 h2 hp),
      fun hp ha => congrArg Host.Outcome.next ((opColdStart_fields h1 h2 hp).trans (if_neg (by simp [ha]))), fun hp ha => ?_⟩⟩,
    fun f s => ⟨fun h1 h2 e => congrArg Host.Outcome.next (opStageA_not h1 h2 e), fun h => ?_⟩,
    fun f pass s => ⟨fun h => congrArg Host.Outcome.next (opStageB_waits (stageBWaits_iff.mpr h)), fun h =>
      congrArg Host.Outcome.next (opStageB_ends fun e => h (stageBWaits_iff.mp e))⟩,
    fun s => ⟨rfl, ?_⟩, fun s => discardReset_counts⟩
  · obtain ⟨hpow, hkept, hrest⟩ := startShown_on (s := s) (b := { s with power := { s.power with on := true, start := true } }) 0 rfl rfl
    exact ⟨hpow, startShown_phase _ 0, startShown_kind _ 0, hkept, hrest⟩
  · have hx := (opColdStart_fields (bad := bad) h1 h2 hp).trans (if_pos ha)
    intro x
    generalize hr : chooseFrame x = r
    exact ⟨fun m rs h => congrArg Host.Outcome.next (hx.trans (startFrame_takes hr h)), fun h =>
      congrArg Host.Outcome.next (hx.trans (startFrame_none hr h))⟩
  · obtain ⟨k1, k2, k3, k4⟩ := opStageA_fails h
    refine ⟨congrArg Host.Outcome.next k1, congrArg Host.Outcome.next k2, congrArg Host.Outcome.next k3, fun row n =>
      congrArg Host.Outcome.next (k4 row n), fun hr => congrArg Host.Outcome.next (opStageA_admits h hr), fun hr => ?_⟩
    exact congrArg Host.Outcome.next (opStageA_readmits h rfl hr)
  · intro x armed
    have ha : armed ↔ isArmed s = true := isArmed_iff.symm
    clear_value armed
    refine ⟨fun h h1 h2 => congrArg Host.Outcome.next (opWarm_restarts (ha.mp h) h1 h2), fun h =>
      congrArg Host.Outcome.next (opWarm_discards (h.imp_left fun k e => k (ha.mpr e))), fun h => ?_, fun h =>
      congrArg Host.Outcome.next (opCold_discards fun e => h (ha.mpr e))⟩
    exact ⟨_, rfl, opCold_started rfl (ha.mp h)⟩

end Sys2Proof.Machine
end

section
/-! PROOFS. Resets of tiles, fields and ports. -/
namespace Sys2Proof.Machine

/-! ### One tile -/

theorem gatewayReset_tiles (s : State) (g : Nat) : (gatewayReset s g).tiles = s.tiles := by
  unfold gatewayReset
  refine foldl_keeps (P := fun x : State => x.tiles = s.tiles) _ rfl fun x k h => ?_
  split
  · exact h
  · exact h

theorem clearTile_tile (s : State) (g : Nat) : tileOf (clearTile s g) g = resetTile (tileOf s g) := by
  unfold clearTile tileOf
  rw [gatewayReset_tiles, setF_tiles]
  exact getD_put_same _ _ _ _

theorem clearTile_others (s : State) (g : Nat) : OtherTiles g s (clearTile s g) := by
  intro h hn
  unfold clearTile
  rw [tileOf, gatewayReset_tiles, setF_tiles, ← tileOf, tileOf_setTile_ne _ _ _ _ hn]
  simp [tileOf]

/-! ### Tiles -/

theorem resetTiles_resets (s : State) {gs : List Nat} (h : gs ≠ []) :
    let lost := fun (p : Nat) => (gs.map (fun g => (logX s g, logY s g))).any (fun q => placeInTile q.1 q.2 p)
    let x := abandonPours (abandonRuns (gs.foldl clearTile (resolvePlaces s lost)) gs) gs
    resetTiles s gs = sendRec (writeKept x gs) .port 0 0x3102 2
      (if s.tiers.pt.any (fun e => e.2.present && lost e.2.cur.toNat) then 100000 else 500) := by
  unfold resetTiles
  rw [if_neg (by simpa using h)]

theorem resetTiles_none (s : State) : resetTiles s [] = s := rfl

section
variable {s : State} {g : Nat}

theorem opTilReset_coldStart (h : s.power.start = true) : opTilReset g s = discardReset s := by
  unfold opTilReset
  exact if_pos h

variable (hs : s.power.start = false)
include hs

theorem opTilReset_held (h : getF s F.TIL_STATUS_FENCED g = 1 ∨ sequencerHas s [g] = true) : opTilReset g s = s := by
  unfold opTilReset
  rw [if_neg (by simp [hs])]
  exact if_pos (by simpa using h)

section
variable (h1 : getF s F.TIL_STATUS_FENCED g ≠ 1) (h2 : sequencerHas s [g] = false)
include h1 h2

theorem opTilReset_eq : opTilReset g s = resetTiles (discardHeld s [g]) (resettable s [g]) := by
  unfold opTilReset
  rw [if_neg (by simp [hs]), if_neg (by simp [h1, h2])]

theorem opTilReset_fieldReset (h : getF s F.FLD_RESET_BUSY (g / 700) = 1) : opTilReset g s = discardReset s := by
  rw [opTilReset_eq hs h1 h2]
  simp [discardHeld, resettable, inFieldReset, h, resetTiles_none]

variable (h : getF s F.FLD_RESET_BUSY (g / 700) ≠ 1)
include h

theorem opTilReset_out (hi : inService s (g / 700) = false) : opTilReset g s = s := by
  rw [opTilReset_eq hs h1 h2]
  simp [discardHeld, resettable, inFieldReset, h, hi, resetTiles_none]

theorem opTilReset_resets (hi : inService s (g / 700) = true) : opTilReset g s = resetTiles s [g] := by
  rw [opTilReset_eq hs h1 h2]
  simp [discardHeld, resettable, inFieldReset, h, hi]
end
end

/-! ### A rectangle of tiles -/

section
variable {s x : State} {v : Word} (hx : plainWrite s { reg := .GLB_TRESET, unit := 0, inst := 0, shadow := false } v = x)
include hx

theorem opTreset_write (h : getBits v 32 1 = 0) : opTreset v s = x := by
  unfold opTreset
  rw [hx]
  exact if_pos h

variable (h : getBits v 32 1 = 1)
include h

theorem opTreset_coldStart (hs : x.power.start = true) : opTreset v s = discardReset x := by
  unfold opTreset
  dsimp only
  rw [hx, if_neg (by omega), if_pos hs]

/-- The tiles of the rectangle that a write of GLB_TRESET names. -/
def tresetTiles (x : State) (v : Word) : List Nat :=
  rectTiles x { x := getBits v 0 8, y := getBits v 8 8, w := getBits v 16 8, h := getBits v 24 8 }

theorem opTreset_goes (hs : x.power.start = false) : opTreset v s =
    if (resettable x (tresetTiles x v)).isEmpty then discardHeld x (tresetTiles x v)
    else if sequencerHas (discardHeld x (tresetTiles x v)) (resettable x (tresetTiles x v)) then
      setF (discardHeld x (tresetTiles x v)) F.GLB_TRESET_REFUSED 0 1
    else resetTiles (setF (discardHeld x (tresetTiles x v)) F.GLB_TRESET_REFUSED 0 0) (resettable x (tresetTiles x v)) := by
  unfold opTreset
  dsimp only
  rw [hx, if_neg (by omega), if_neg (by simp [hs])]
  rfl
end

/-! ### A field -/

section
variable {s : State} {f : Nat}

theorem opFieldReset_coldStart (h : s.power.start = true) : opFieldReset f s = discardReset s := by
  unfold opFieldReset
  exact if_pos h

section
variable (hs : s.power.start = false)
include hs

theorem opFieldReset_busy (h : getF s F.FLD_RESET_BUSY f = 1) : opFieldReset f s = s := by
  unfold opFieldReset
  rw [if_neg (by simp [hs])]
  exact if_pos h

variable (hb : getF s F.FLD_RESET_BUSY f ≠ 1)
include hb

theorem opFieldReset_refused {r : Nat} (hr : resetRefusal s f = some r) : opFieldReset f s = setF s F.FLD_RESET_RESULT f r := by
  unfold opFieldReset
  rw [if_neg (by simp [hs]), if_neg hb, hr]

/-- BUSY is shown, with no result. -/
def resetShown (s : State) (f : Nat) : State := setF (setF s F.FLD_RESET_BUSY f 1) F.FLD_RESET_RESULT f 0

theorem opFieldReset_goes (hr : resetRefusal s f = none) {y : State} (hy : (if inService s f then switchOff s f else s) = y) :
    opFieldReset f s = { resetShown y f with
      power := { (resetShown y f).power with resetAt := insert (resetShown y f).power.resetAt f (resetShown y f).now } } := by
  unfold opFieldReset
  rw [if_neg (by simp [hs]), if_neg hb, hr, ← hy]
  rfl
end

theorem resetRefusal_used (h1 : inService s f = true) (h2 : ∃ e ∈ activeSlots s, f ∈ e.2.fields) : resetRefusal s f = some 2 := by
  unfold resetRefusal
  exact if_pos (by simpa [h1] using h2)

section
variable (hu : ¬(inService s f = true ∧ ∃ e ∈ activeSlots s, f ∈ e.2.fields))
include hu

theorem resetRefusal_dead (hd : (getF s F.FLD_STATE_LOST f = 1 ∧ (getF s F.FLD_STATE_CAUSE f = 1 ∨ getF s F.FLD_STATE_CAUSE f = 4 ∨
    getF s F.FLD_STATE_CAUSE f = 7)) ∨ getF (showHeld s) F.PWR_FLD_RAIL_HELD_OFF f = 1) : resetRefusal s f = some 3 := by
  unfold resetRefusal
  rw [if_neg (by simpa using hu)]
  by_cases hl : getF s F.FLD_STATE_LOST f = 1 ∧ (getF s F.FLD_STATE_CAUSE f = 1 ∨ getF s F.FLD_STATE_CAUSE f = 4 ∨
      getF s F.FLD_STATE_CAUSE f = 7)
  · exact if_pos (by simpa [or_assoc] using hl)
  · rw [if_neg (by simpa [or_assoc] using hl), if_pos (hd.resolve_left hl)]

theorem resetRefusal_none (hd : ¬((getF s F.FLD_STATE_LOST f = 1 ∧ (getF s F.FLD_STATE_CAUSE f = 1 ∨ getF s F.FLD_STATE_CAUSE f = 4 ∨
    getF s F.FLD_STATE_CAUSE f = 7)) ∨ getF (showHeld s) F.PWR_FLD_RAIL_HELD_OFF f = 1)) : resetRefusal s f = none := by
  obtain ⟨hl, hh⟩ := not_or.mp hd
  unfold resetRefusal
  rw [if_neg (by simpa using hu), if_neg (by simpa [or_assoc] using hl), if_neg hh]
end
end

/-- BUSY and RESULT stand in FLD_RESET; the moment of the reset is noted. -/
theorem resetShown_fields (y : State) (f : Nat) {z : State} (hz : resetShown y f = z) :
    let x := { z with power := { z.power with resetAt := insert z.power.resetAt f z.now } }
    x.power = { y.power with resetAt := insert y.power.resetAt f y.now } ∧ getF x F.FLD_RESET_BUSY f = 1 ∧ getF x F.FLD_RESET_RESULT f = 0 ∧
      RegsKept [regAddr .FLD_RESET f 0] y x ∧ { x with regs := y.regs, power := y.power } = y := by
  have hm := List.mem_singleton_self (regAddr .FLD_RESET f 0)
  have hk : OnlyRegs [regAddr .FLD_RESET f 0] y z := by
    rw [← hz]
    exact ((OnlyRegs.refl _ y).then_setF F.FLD_RESET_BUSY f 1 hm).then_setF F.FLD_RESET_RESULT f 0 hm
  have hb : getF z F.FLD_RESET_BUSY f = 1 := by
    rw [← hz]
    exact (getF_setF_other _ F.FLD_RESET_RESULT F.FLD_RESET_BUSY f 0 rfl (by decide) (by decide)).trans
      (getF_setF_same y F.FLD_RESET_BUSY f 1 (by decide))
  have hr : getF z F.FLD_RESET_RESULT f = 0 := by
    rw [← hz]
    exact getF_setF_same _ F.FLD_RESET_RESULT f 0 (by decide)
  clear hz
  have hp := congrArg State.power hk.2
  have hn := congrArg State.now hk.2
  refine ⟨?_, hb, hr, hk.1, congrArg (fun q : State => { q with power := y.power }) hk.2⟩
  exact congr (congrArg (fun (p : PowerState) n => { p with resetAt := insert p.resetAt f n }) hp) hn

/-! ### A port -/

/-- A write that asks for no reset, or names no port. -/
def portResetIdle (v : Word) : Bool :=
  getBits v 7 1 = 0 || (getBits v 6 1 = 0 && 31 < getBits v 0 6) || (getBits v 6 1 = 1 && 47 < getBits v 0 6)

theorem getBits_bit (v : Word) (lo : Nat) : getBits v lo 1 = 0 ∨ getBits v lo 1 = 1 := by
  unfold getBits
  omega

theorem portResetIdle_iff (v : Word) : portResetIdle v = true ↔
    ¬(getBits v 7 1 = 1 ∧ (getBits v 6 1 = 0 → getBits v 0 6 ≤ 31) ∧ (getBits v 6 1 = 1 → getBits v 0 6 ≤ 47)) := by
  have h7 := getBits_bit v 7
  simp only [portResetIdle, Bool.or_eq_true, Bool.and_eq_true, decide_eq_true_eq]
  omega

section
variable {s x : State} {v : Word} (hx : plainWrite s { reg := .PRT_PORT_RESET, unit := 0, inst := 0, shadow := false } v = x)
include hx

theorem opPortReset_idle (h : portResetIdle v = true) : opPortReset v s = x := by
  unfold opPortReset
  rw [hx]
  exact if_pos h

variable (h : ¬ portResetIdle v = true)
include h

theorem opPortReset_coldStart (hs : x.power.start = true) : opPortReset v s = discardReset x := by
  unfold opPortReset
  dsimp only
  rw [hx]
  exact (if_neg h).trans (if_pos hs)

theorem opPortReset_goes (hs : x.power.start = false) : opPortReset v s =
    let y := if getBits v 6 1 = 0 then (if portUp x (getBits v 0 6) then portDown x (getBits v 0 6) else x)
      else (List.range 8).foldl (fun s k => if getI s F.OPT_SUB_STATE (getBits v 0 6) k = 0 then s else loseSub s (getBits v 0 6) k) x
    let z := setF y F.PRT_PORT_RESET_BUSY 0 1
    { z with power := { z.power with resetAt := insert z.power.resetAt 48 z.now } } := by
  unfold opPortReset
  dsimp only
  rw [hx]
  exact (if_neg h).trans (if_neg (by simp [hs]))
end

/-- Settles O34, clause by clause: tiles, rectangles of tiles, fields and ports. -/
theorem narrowResets : Obligations.NarrowResets := by
  unfold Obligations.NarrowResets
  refine ⟨fun s g => ?_, fun s gs h => resetTiles_resets s h, fun t s => ⟨fun h => congrArg Host.Outcome.next (opTilReset_coldStart h),
      fun hs h => congrArg Host.Outcome.next (opTilReset_held hs h), fun hs h1 h2 => ⟨fun h =>
      congrArg Host.Outcome.next (opTilReset_fieldReset hs h1 h2 h), fun h hi => congrArg Host.Outcome.next (opTilReset_out hs h1 h2 h hi),
      fun h hi => congrArg Host.Outcome.next (opTilReset_resets hs h1 h2 h hi)⟩⟩,
    fun v s => ?_, fun f s => ?_, fun v s => ?_⟩
  · rw [clearTile_tile]
    exact ⟨rfl, rfl, rfl, rfl, rfl, rfl, rfl, rfl, rfl, rfl, rfl, rfl, rfl, rfl, rfl, rfl, rfl, rfl, rfl, rfl, rfl, clearTile_others s g⟩
  · intro x all gs y
    have hx : plainWrite s { reg := .GLB_TRESET, unit := 0, inst := 0, shadow := false } v = x := rfl
    refine ⟨fun h => congrArg Host.Outcome.next (opTreset_write hx h), fun h hs => congrArg Host.Outcome.next (opTreset_coldStart hx h hs),
      fun h hs => ?_⟩
    have hgs : resettable x (tresetTiles x v) = gs := rfl
    have hy : discardHeld x (tresetTiles x v) = y := rfl
    have hgo := opTreset_goes hx h hs
    rw [hgs, hy] at hgo
    exact ⟨fun hg => congrArg Host.Outcome.next (hgo.trans (if_pos (by simpa using hg))), fun hg hq =>
      congrArg Host.Outcome.next (hgo.trans ((if_neg (by simpa using hg)).trans (if_pos hq))), fun hg hq =>
      congrArg Host.Outcome.next (hgo.trans ((if_neg (by simpa using hg)).trans (if_neg (by simp [hq]))))⟩
  · intro c used dead
    refine ⟨fun h => congrArg Host.Outcome.next (opFieldReset_coldStart h), fun hs h => congrArg Host.Outcome.next (opFieldReset_busy hs h),
      fun hs hb => ⟨fun hu => congrArg Host.Outcome.next (opFieldReset_refused hs hb (resetRefusal_used hu.1 hu.2)), fun hu hd =>
      congrArg Host.Outcome.next (opFieldReset_refused hs hb (resetRefusal_dead hu hd)), fun hu hd => ?_⟩⟩
    exact ⟨_, congrArg Host.Outcome.next (opFieldReset_goes hs hb (resetRefusal_none hu hd) rfl), resetShown_fields _ f.val rfl⟩
  · intro p x go
    have hx : plainWrite s { reg := .PRT_PORT_RESET, unit := 0, inst := 0, shadow := false } v = x := rfl
    have hi := portResetIdle_iff v
    exact ⟨fun h => congrArg Host.Outcome.next (opPortReset_idle hx (hi.mpr h)), fun h hs =>
      congrArg Host.Outcome.next (opPortReset_coldStart hx (fun e => hi.mp e h) hs), fun h hs =>
      congrArg Host.Outcome.next (opPortReset_goes hx (fun e => hi.mp e h) hs)⟩

end Sys2Proof.Machine
end

section
/-! PROOFS. Staging of a frame image, and its adoption. -/
namespace Sys2Proof.Machine

/-! ### GO -/

theorem opStageCtrl_idle {v : Word} (h0 : getBits v 0 1 = 0) (h1 : getBits v 1 1 = 0) (s : State) : opStageCtrl v s = s := by
  unfold opStageCtrl
  dsimp only
  rw [if_neg (by omega), if_neg (by omega)]

theorem opStageCtrl_go {v : Word} (h0 : getBits v 0 1 = 1) (h1 : getBits v 1 1 = 0) (s : State) : opStageCtrl v s = opStageGo s := by
  unfold opStageCtrl
  dsimp only
  rw [if_pos h0, if_neg (by omega)]

/-- A GO is turned away. -/
def goAway (s : State) : Bool := s.loader.staging || (List.range 54).any (fun d => getI s F.CFG_EPOCH_FROM_STAGING 0 d == 1)

theorem goAway_iff (s : State) : goAway s = true ↔ s.loader.staging = true ∨ ∃ d, d < 54 ∧ getI s F.CFG_EPOCH_FROM_STAGING 0 d = 1 := by
  simp [goAway]

theorem opStageGo_away {s : State} (h : goAway s = true) :
    opStageGo s = sendRec (setF s F.CFG_STAGE_STAT_STATUS 0 ST_CFG_BUSY) .loader 0 0x3200 ST_CFG_BUSY 0 := by
  unfold opStageGo
  exact if_pos h

/-- The registers at a GO. -/
def goShown (s : State) : State := setF (setF s F.CFG_STAGE_STAT_STATE 0 1) F.CFG_STAGE_STAT_BLOCKS 0 0

/-- The state in which a staging has begun. -/
def stagingBegun (s : State) : State :=
  let y := goShown (setStaging s { s.power.flash.staging with mark := false, rejected := false })
  { y with loader := { y.loader with staging := true, stageAt := getF s F.CFG_STAGE_SRC_ADDR 0 / 64 * 64 } }

theorem opStageGo_begins {s : State} (h : ¬ goAway s = true) : opStageGo s =
    if (stageCheck (stagingBegun s)).1 = 0 || (stageCheck (stagingBegun s)).1 = 4 then
      again (stagingBegun s) (stageCheck (stagingBegun s)).2.2
    else endStaging (stageCheck (stagingBegun s)).2.2 4 (stageCheck (stagingBegun s)).1 0 := by
  unfold opStageGo
  exact if_neg h

/-- GO touches CFG_STAGE_STAT alone, beside the flash mark and the loader. -/
theorem goShown_fields {s b y : State} {x : FrameSlot} {n : Nat} (hb : setStaging s x = b) (hy : goShown b = y) :
    let z := { y with loader := { y.loader with staging := true, stageAt := n } }
    z.power.flash.staging = x ∧ z.power.flash.active = s.power.flash.active ∧
      z.loader = { s.loader with staging := true, stageAt := n } ∧ getF z F.CFG_STAGE_STAT_STATE 0 = 1 ∧
      getF z F.CFG_STAGE_STAT_BLOCKS 0 = 0 ∧ RegsKept [regAddr .CFG_STAGE_STAT 0 0] s z ∧
      { z with regs := s.regs, loader := s.loader, power := s.power } = s := by
  have hm := List.mem_singleton_self (regAddr .CFG_STAGE_STAT 0 0)
  have hk : OnlyRegs [regAddr .CFG_STAGE_STAT 0 0] b y := by
    rw [← hy]
    exact ((OnlyRegs.refl _ b).then_setF F.CFG_STAGE_STAT_STATE 0 1 hm).then_setF F.CFG_STAGE_STAT_BLOCKS 0 0 hm
  have hs : getF y F.CFG_STAGE_STAT_STATE 0 = 1 := by
    rw [← hy]
    exact (getF_setF_other _ F.CFG_STAGE_STAT_BLOCKS F.CFG_STAGE_STAT_STATE 0 0 rfl (by decide) (by decide)).trans
      (getF_setF_same b F.CFG_STAGE_STAT_STATE 0 1 (by decide))
  have hblocks : getF y F.CFG_STAGE_STAT_BLOCKS 0 = 0 := by
    rw [← hy]
    exact getF_setF_same _ F.CFG_STAGE_STAT_BLOCKS 0 0 (by decide)
  clear hy
  have hp := congrArg State.power hk.2
  have hpow : b.power.flash.staging = x ∧ b.power.flash.active = s.power.flash.active := by
    rw [← hb]
    exact ⟨rfl, rfl⟩
  have hl := congrArg State.loader hk.2
  have hly : y.loader = s.loader := by
    refine Eq.trans hl ?_
    rw [← hb]
    rfl
  have hbs : b.regs = s.regs ∧ { b with loader := s.loader, power := s.power } = s := by
    rw [← hb]
    exact ⟨rfl, rfl⟩
  have hpy : y.power = b.power := hp
  refine ⟨by rw [hpy]; exact hpow.1, by rw [hpy]; exact hpow.2, by rw [hly], hs, hblocks, fun a ha => ?_, ?_⟩
  · rw [← hbs.1]
    exact hk.1 a ha
  · rw [← hbs.1]
    exact (congrArg (fun q : State => { q with loader := s.loader, power := s.power }) hk.2).trans hbs.2

theorem stagingBegun_fields (s : State) : let x := stagingBegun s
    x.power.flash.staging = { s.power.flash.staging with mark := false, rejected := false } ∧
      x.power.flash.active = s.power.flash.active ∧
      x.loader = { s.loader with staging := true, stageAt := getF s F.CFG_STAGE_SRC_ADDR 0 / 64 * 64 } ∧
      getF x F.CFG_STAGE_STAT_STATE 0 = 1 ∧ getF x F.CFG_STAGE_STAT_BLOCKS 0 = 0 ∧ RegsKept [regAddr .CFG_STAGE_STAT 0 0] s x ∧
      { x with regs := s.regs, loader := s.loader, power := s.power } = s :=
  goShown_fields rfl rfl

/-! ### The end of a staging -/

/-- CFG_STAGE_STAT at the end of a staging. -/
def endShown (s : State) (state status blocks : Nat) : State :=
  setF (setF (setF s F.CFG_STAGE_STAT_STATE 0 state) F.CFG_STAGE_STAT_STATUS 0 status) F.CFG_STAGE_STAT_BLOCKS 0 blocks

theorem endShown_fields (s : State) {state : Nat} (status blocks : Nat) (h : state < 8) :
    getF (endShown s state status blocks) F.CFG_STAGE_STAT_STATE 0 = state ∧
      getF (endShown s state status blocks) F.CFG_STAGE_STAT_STATUS 0 = status % 65536 ∧
      OnlyRegs [regAddr .CFG_STAGE_STAT 0 0] s (endShown s state status blocks) := by
  have hm := List.mem_singleton_self (regAddr .CFG_STAGE_STAT 0 0)
  refine ⟨?_, ?_, (((OnlyRegs.refl _ s).then_setF F.CFG_STAGE_STAT_STATE 0 state hm).then_setF F.CFG_STAGE_STAT_STATUS 0 status hm).then_setF
    F.CFG_STAGE_STAT_BLOCKS 0 blocks hm⟩
  · refine (getF_setF_other _ F.CFG_STAGE_STAT_BLOCKS F.CFG_STAGE_STAT_STATE 0 blocks rfl (by decide) (by decide)).trans ?_
    refine (getF_setF_other _ F.CFG_STAGE_STAT_STATUS F.CFG_STAGE_STAT_STATE 0 status rfl (by decide) (by decide)).trans ?_
    exact (getF_setF_same s F.CFG_STAGE_STAT_STATE 0 state (by decide)).trans (Nat.mod_eq_of_lt h)
  · refine (getF_setF_other _ F.CFG_STAGE_STAT_BLOCKS F.CFG_STAGE_STAT_STATUS 0 blocks rfl (by decide) (by decide)).trans ?_
    exact getF_setF_same _ F.CFG_STAGE_STAT_STATUS 0 status (by decide)

theorem stagingOver {s y : State} {state status : Nat} (hs : getF y F.CFG_STAGE_STAT_STATE 0 = state)
    (hst : getF y F.CFG_STAGE_STAT_STATUS 0 = status) (hk : OnlyRegs [regAddr .CFG_STAGE_STAT 0 0] s y) :
    let x := { y with loader := { y.loader with staging := false } }
    getF x F.CFG_STAGE_STAT_STATE 0 = state ∧ getF x F.CFG_STAGE_STAT_STATUS 0 = status ∧
      x.loader = { s.loader with staging := false } ∧ RegsKept [regAddr .CFG_STAGE_STAT 0 0] s x ∧
      { x with regs := s.regs, loader := s.loader } = s := by
  have hl := congrArg State.loader hk.2
  exact ⟨hs, hst, congrArg (fun l : Loader => { l with staging := false }) hl, hk.1,
    congrArg (fun q : State => { q with loader := s.loader }) hk.2⟩

theorem endStaging_eq (s : State) (state status blocks : Nat) : endStaging s state status blocks =
    sendRec { endShown s state status blocks with loader := { (endShown s state status blocks).loader with staging := false } }
      .loader 0 0x3200 (status % 65536) blocks := rfl

theorem endStaging_told (s : State) (state status blocks : Nat) (h : state < 8) : ∃ x, endStaging s state status blocks =
      sendRec x .loader 0 0x3200 (status % 65536) blocks ∧ getF x F.CFG_STAGE_STAT_STATE 0 = state ∧
    getF x F.CFG_STAGE_STAT_STATUS 0 = status % 65536 ∧ x.loader = { s.loader with staging := false } ∧
    RegsKept [regAddr .CFG_STAGE_STAT 0 0] s x ∧ { x with regs := s.regs, loader := s.loader } = s := by
  obtain ⟨hs, hst, hk⟩ := endShown_fields s status blocks h
  exact ⟨_, endStaging_eq s state status blocks, stagingOver hs hst hk⟩

/-! ### ABORT and completion -/

theorem freeStatus_defined (n : Nat) : freeStatus n ∈ statusOrder := by
  unfold freeStatus
  rw [List.getD_eq_getElem _ _ (Nat.mod_lt _ (by decide))]
  exact List.getElem_mem _

section
variable {s : State}

theorem opStageAbort_not (h : s.loader.staging = false) : opStageAbort s = s := by
  unfold opStageAbort
  exact if_neg (by simp [h])

theorem opStaged_not (h : s.loader.staging = false) : opStaged s = s := by
  unfold opStaged
  exact if_pos (by simp [h])

section
variable (h : s.loader.staging = true)
include h

theorem opStageAbort_ends : opStageAbort s =
    endStaging { s with free := s.free + 1 } 4 (freeStatus s.free) (getF s F.CFG_STAGE_STAT_BLOCKS 0) := by
  unfold opStageAbort
  exact if_pos h

section
variable {r : Nat × Option Manifest × State} (hr : stageCheck s = r)
include hr

theorem opStaged_again (hn : r.2.1 = none) (h4 : r.1 = 4) : opStaged s = again s r.2.2 := by
  unfold opStaged
  dsimp only
  rw [if_neg (by simp [h]), hr, hn]
  exact if_pos h4

theorem opStaged_fails (hn : r.2.1 = none) (h4 : r.1 ≠ 4) : opStaged s = endStaging r.2.2 4 r.1 0 := by
  unfold opStaged
  dsimp only
  rw [if_neg (by simp [h]), hr, hn]
  exact if_neg h4

theorem opStaged_reads {m : Manifest} (hn : r.2.1 = some m) {q : Nat × List Byte × State}
    (hq : readBlocks' r.2.2 (payloadAt (stageSrc s) m.size) m = q) : opStaged s =
      if q.1 = 4 then again s q.2.2
      else if q.1 ≠ 0 then endStaging (setStaging q.2.2 { bytes := [] }) 4 q.1 (q.2.1.length / 65536)
      else endStaging (setStaging q.2.2
        { bytes := m.raw ++ List.replicate (payloadAt 0 m.size - m.size) 0 ++ q.2.1, mark := true }) 2 ST_OK m.blocks := by
  unfold opStaged
  dsimp only
  rw [if_neg (by simp [h]), hr, hn]
  dsimp only
  rw [hq]
end
end
end

/-! ### Adoption -/

section
variable {s : State} {d : Nat}

theorem opAdopt_busy (h : adoptBusy s d = true) : opAdopt d s = setF s F.CFG_STAGE_STAT_STATUS 0 ST_CFG_BUSY := by
  unfold opAdopt
  exact if_pos h

variable (h : adoptBusy s d = false)
include h

theorem opAdopt_bad {st : Nat} (hf : frameCheck s.power.flash.staging = .error st) :
    opAdopt d s = setF s F.CFG_STAGE_STAT_STATUS 0 st := by
  unfold opAdopt
  rw [if_neg (by simp [h]), hf] <;> rfl

theorem opAdopt_checked {m : Manifest} {rs : List ImgRec} (hf : frameCheck s.power.flash.staging = .ok (m, rs)) : opAdopt d s =
    if !consistent (fun e => if e = d then m.epochs.getD d {} else epochRow s e) (domainsUp s) then
      setF s F.CFG_STAGE_STAT_STATUS 0 ST_EPOCH
    else sendRec (setF (takeSection s m rs d true) F.CFG_STAGE_STAT_STATUS 0 ST_OK) .loader 0 0x3202
      (d + (m.epochs.getD d {}).epoch * 65536) 0 := by
  unfold opAdopt
  rw [if_neg (by simp [h]), hf] <;> rfl
end

/-- Settles O35, clause by clause: GO, ABORT, completion, the end of a staging, and ADOPT. -/
theorem stagingAndAdoption : Obligations.StagingAndAdoption := by
  unfold Obligations.StagingAndAdoption
  refine ⟨fun v s h0 h1 => congrArg Host.Outcome.next (opStageCtrl_idle h0 h1 s), fun v s h0 h1 => ⟨fun h => congrArg Host.Outcome.next
      ((opStageCtrl_go h0 h1 s).trans (opStageGo_away ((goAway_iff s).mpr h))), fun h => ⟨stagingBegun s, ?_⟩⟩,
    fun s => ⟨fun h => ⟨congrArg Host.Outcome.next (opStageAbort_not h), congrArg Host.Outcome.next (opStaged_not h)⟩, fun h =>
      ⟨⟨_, freeStatus_defined _, congrArg Host.Outcome.next (opStageAbort_ends h)⟩, ?_⟩⟩,
    endStaging_told, fun d s => ⟨fun h => congrArg Host.Outcome.next (opAdopt_busy h), fun h => ⟨fun st hf =>
      congrArg Host.Outcome.next (opAdopt_bad h hf), fun m rs hf => ?_⟩⟩⟩
  · obtain ⟨k1, k2, k3, k4, k5, k6, k7⟩ := stagingBegun_fields s
    have hgo := (opStageCtrl_go h0 h1 s).trans (opStageGo_begins fun e => h ((goAway_iff s).mp e))
    refine ⟨k1, k2, k3, k4, k5, k6, k7, fun hc => ?_, fun hn h4 => ?_⟩
    · exact congrArg Host.Outcome.next (hgo.trans (if_pos (by simpa using hc)))
    · exact congrArg Host.Outcome.next (hgo.trans (if_neg (by simp [hn, h4])))
  · intro r
    have hr : stageCheck s = r := rfl
    clear_value r
    refine ⟨fun hn h4 => congrArg Host.Outcome.next (opStaged_again h hr hn h4), fun hn h4 =>
      congrArg Host.Outcome.next (opStaged_fails h hr hn h4), fun m hn => ?_⟩
    intro q
    have hq := opStaged_reads h hr hn (q := q) rfl
    clear_value q
    exact ⟨fun h4 => congrArg Host.Outcome.next (hq.trans (if_pos h4)), fun h4 h0 =>
      congrArg Host.Outcome.next (hq.trans ((if_neg h4).trans (if_pos h0))), fun h0 =>
      congrArg Host.Outcome.next (hq.trans ((if_neg (by omega)).trans (if_neg (not_not_intro h0))))⟩
  · intro fits
    have hx := opAdopt_checked h hf
    exact ⟨fun hc => congrArg Host.Outcome.next (hx.trans (if_pos (by rw [show consistent _ _ = false from hc]; rfl))), fun hc =>
      congrArg Host.Outcome.next (hx.trans (if_neg (by rw [show consistent _ _ = true from hc]; simp)))⟩

end Sys2Proof.Machine
end

section
/-! PROOFS. PATCH, and the loading, applying and unloading of mould images. -/
namespace Sys2Proof.Machine

/-! ### PATCH -/

section
variable {s : State} {n : Nat} {i : W32} {c : Cmd} (hc : inflightCmd s n i = some c) (hr : c.run = false) (ho : c.opcode = 0x30)
  (hb : cmdBad s n c = false) (he : cmdEmpty c = false)
include hc hr ho hb he

theorem opPatch_waits (h : s.loader.job ≠ none) : opPatch n i s = s := by
  refine (onValid_gives (b := false) (x := s) hc hr ho hb he ?_).trans (if_neg (by simp))
  exact if_pos (Option.isSome_iff_ne_none.mpr h)

section
variable (hj : s.loader.job = none)
include hj

theorem opPatch_refused {st : Nat} (h : slotRefusal s (bodyF c 0 42 4) (bodyF c 0 46 2) = some st) :
    opPatch n i s = markRun (completeCmd s n c st 0) n i := by
  refine (onValid_gives (b := true) hc hr ho hb he ?_).trans (if_pos rfl)
  dsimp only
  rw [if_neg (by simp [hj]), h]

variable (hs : slotRefusal s (bodyF c 0 42 4) (bodyF c 0 46 2) = none)
include hs

/-- The loader's job that a PATCH describes. -/
def patchJob (s : State) (n : Nat) (i : W32) (c : Cmd) (owned : List Nat) : LoadJob :=
  { q := n, idx := i, action := bodyF c 0 46 2, slot := bodyF c 0 42 4, addr := bodyF c 0 0 42, annex := bodyF c 1 0 42,
    was := slotState s (bodyF c 0 42 4), owned }

theorem opPatch_unloadFree (ha : bodyF c 0 46 2 = 2) (h0 : slotState s (bodyF c 0 42 4) = 0) :
    opPatch n i s = markRun (completeCmd s n c ST_OK 0) n i := by
  refine (onValid_gives (b := true) hc hr ho hb he ?_).trans (if_pos rfl)
  dsimp only
  rw [if_neg (by simp [hj]), hs]
  dsimp only
  rw [if_pos ha, if_pos h0]

theorem opPatch_unload (ha : bodyF c 0 46 2 = 2) (h0 : slotState s (bodyF c 0 42 4) ≠ 0) :
    opPatch n i s = markRun (startJob s (patchJob s n i c ((slotOf s (bodyF c 0 42 4)).fields ++ [53]))) n i := by
  refine (onValid_gives (b := true) hc hr ho hb he ?_).trans (if_pos rfl)
  dsimp only
  rw [if_neg (by simp [hj]), hs]
  dsimp only
  rw [if_pos ha, if_neg h0]
  rfl

section
variable (ha : bodyF c 0 46 2 ≠ 2) {r : Nat × Option Manifest × State} (hread : readManifest s (bodyF c 0 0 42) (2 ^ 42) = r)
include ha hread

theorem opPatch_again (hn : r.2.1 = none) (h4 : r.1 = 4) : opPatch n i s = again s r.2.2 := by
  refine (onValid_gives (b := false) hc hr ho hb he ?_).trans (if_neg (by simp))
  dsimp only
  rw [if_neg (by simp [hj]), hs]
  dsimp only
  rw [if_neg ha, hread, hn]
  exact if_pos h4

theorem opPatch_unread (hn : r.2.1 = none) (h4 : r.1 ≠ 4) : opPatch n i s = markRun (completeCmd r.2.2 n c r.1 0) n i := by
  refine (onValid_gives (b := true) hc hr ho hb he ?_).trans (if_pos rfl)
  dsimp only
  rw [if_neg (by simp [hj]), hs]
  dsimp only
  rw [if_neg ha, hread, hn]
  exact if_neg h4

section
variable {m : Manifest} (hm : r.2.1 = some m)
include hm

theorem opPatch_manifest {st : Nat} (hst : manifestRefusal r.2.2 (bodyF c 0 42 4) (bodyF c 0 46 2) m = some st) :
    opPatch n i s = markRun (completeCmd r.2.2 n c st 0) n i := by
  refine (onValid_gives (b := true) hc hr ho hb he ?_).trans (if_pos rfl)
  dsimp only
  rw [if_neg (by simp [hj]), hs]
  dsimp only
  rw [if_neg ha, hread, hm]
  dsimp only
  rw [hst]

variable (hst : manifestRefusal r.2.2 (bodyF c 0 42 4) (bodyF c 0 46 2) m = none)
include hst

theorem opPatch_empty (h1 : bodyF c 0 46 2 = 1) (h0 : m.blocks = 0) :
    opPatch n i s = markRun (completeCmd r.2.2 n c ST_OK_EMPTY 0) n i := by
  refine (onValid_gives (b := true) hc hr ho hb he ?_).trans (if_pos rfl)
  dsimp only
  rw [if_neg (by simp [hj]), hs]
  dsimp only
  rw [if_neg ha, hread, hm]
  dsimp only
  rw [hst]
  exact if_pos (by simp [h1, h0])

theorem opPatch_starts (h : bodyF c 0 46 2 ≠ 1 ∨ m.blocks ≠ 0) :
    opPatch n i s = markRun (startJob r.2.2 (patchJob s n i c ((List.range 54).filter (Nat.testBit m.domains)))) n i := by
  refine (onValid_gives (b := true) hc hr ho hb he ?_).trans (if_pos rfl)
  dsimp only
  rw [if_neg (by simp [hj]), hs]
  dsimp only
  rw [if_neg ha, hread, hm]
  dsimp only
  rw [hst]
  exact if_neg (by simpa [imp_iff_not_or] using h)
end
end
end
end

/-! ### Jobs of the loader -/

theorem setI_changed {s y : State} {l : Loader} (hl : y.loader = l) (hr : { y with regs := s.regs, loader := s.loader } = s) (f : Fld)
    (u i v : Nat) : (setI y f u i v).loader = l ∧ { setI y f u i v with regs := s.regs, loader := s.loader } = s := by
  obtain ⟨-, hrest⟩ := setI_onlyRegs y f u i v
  generalize setI y f u i v = z at hrest ⊢
  have hz := congrArg State.loader hrest
  exact ⟨hz.trans hl, (congrArg (fun q : State => { q with regs := s.regs, loader := s.loader }) hrest).trans hr⟩

theorem owns_changed {s : State} {l : Loader} (ds : List Nat) {y : State} (hl : y.loader = l)
    (hr : { y with regs := s.regs, loader := s.loader } = s) :
    (ds.foldl (fun s d => setI s F.CFG_GEN_OWNED 0 d 1) y).loader = l ∧
      { ds.foldl (fun s d => setI s F.CFG_GEN_OWNED 0 d 1) y with regs := s.regs, loader := s.loader } = s :=
  foldl_keeps (P := fun y : State => y.loader = l ∧ { y with regs := s.regs, loader := s.loader } = s) ds ⟨hl, hr⟩
    fun _ d h => setI_changed h.1 h.2 F.CFG_GEN_OWNED 0 d 1

theorem startJob_owns (s : State) (j : LoadJob) : ∃ x, startJob s j = setI x F.CFG_MI_STAT_STATE 0 j.slot 1 ∧
    x.loader = { s.loader with job := some j } ∧ { x with regs := s.regs, loader := s.loader } = s :=
  ⟨_, rfl, owns_changed j.owned rfl rfl⟩

/-! ### LOAD -/

section
variable {s : State} {n : Nat} {i : W32}

theorem opLoad_none (h : jobFor s n i 0 = none) : opLoad n i s = s := by
  unfold opLoad
  rw [h]

section
variable {j : LoadJob} (hj : jobFor s n i 0 = some j) {r : Nat × Option Manifest × State} (hr : readManifest s j.addr (2 ^ 42) = r)
include hj hr

theorem opLoad_again (hn : r.2.1 = none) (h4 : r.1 = 4) : opLoad n i s = again s r.2.2 := by
  unfold opLoad
  rw [hj]
  dsimp only
  rw [hr, hn]
  exact if_pos h4

theorem opLoad_unread (hn : r.2.1 = none) (h4 : r.1 ≠ 4) : opLoad n i s = endJob r.2.2 j 0 r.1 := by
  unfold opLoad
  rw [hj]
  dsimp only
  rw [hr, hn]
  exact if_neg h4

section
variable {m : Manifest} (hm : r.2.1 = some m) {a : Nat × List (Nat × Manifest) × State} (ha : readAnnex r.2.2 m j.annex = a)
include hm ha

theorem opLoad_annexAgain (h4 : a.1 = 4) : opLoad n i s = again s a.2.2 := by
  unfold opLoad
  rw [hj]
  dsimp only
  rw [hr, hm]
  dsimp only
  rw [ha]
  exact if_pos h4

theorem opLoad_annexFails (h4 : a.1 ≠ 4) (h0 : a.1 ≠ 0) : opLoad n i s = endJob a.2.2 j 0 a.1 := by
  unfold opLoad
  rw [hj]
  dsimp only
  rw [hr, hm]
  dsimp only
  rw [ha]
  exact (if_neg h4).trans (if_pos h0)

variable (h0 : a.1 = 0) {q : Option Payload × State} (hq : readPayload a.2.2 j.addr m = q)
include h0 hq

theorem opLoad_payloadAgain (hn : q.1 = none) : opLoad n i s = again s q.2 := by
  unfold opLoad
  rw [hj]
  dsimp only
  rw [hr, hm]
  dsimp only
  rw [ha, if_neg (by omega), if_neg (not_not_intro h0), hq, hn]

theorem opLoad_finishes {p : Payload} (hp : q.1 = some p) : opLoad n i s =
    if (digestAnnex q.2 a.2.1).1 = 4 then again s (digestAnnex q.2 a.2.1).2.2
    else finishLoad (digestAnnex q.2 a.2.1).2.2 j m a.2.1
      (if p.status = 0 then { p with status := (digestAnnex q.2 a.2.1).1, offset := (digestAnnex q.2 a.2.1).2.1 } else p) := by
  unfold opLoad
  rw [hj]
  dsimp only
  rw [hr, hm]
  dsimp only
  rw [ha, if_neg (by omega), if_neg (not_not_intro h0), hq, hp]
end
end

section
variable {j : LoadJob} {m : Manifest} {ps : List (Nat × Manifest)} {p : Payload}

theorem finishLoad_breaks (h : p.status ≠ 0) : finishLoad s j m ps p =
    breakSlot (showSlot s j.slot (slotFrom m p.recs ps) m.lo m.hi 0x3F) j [] p := by
  unfold finishLoad
  exact if_pos h

section
variable (h : p.status = 0)
include h

theorem finishLoad_conflicts (hc : conflicts s m (slotFrom m p.recs ps) = true) :
    finishLoad s j m ps p = endJob s j 0 ST_IMAGE_CONFLICT := by
  unfold finishLoad
  exact (if_neg (not_not_intro h)).trans (if_pos hc)

variable (hc : conflicts s m (slotFrom m p.recs ps) = false)
include hc

theorem finishLoad_runs (hr : ∃ g ∈ tilesOf s p.recs, getF s F.TIL_STATUS_RUNNING g = 1) :
    finishLoad s j m ps p = endJob s j 0 ST_CFG_BUSY := by
  unfold finishLoad
  exact (if_neg (not_not_intro h)).trans ((if_neg (by simp [hc])).trans (if_pos (by simpa using hr)))

theorem finishLoad_loads (hr : ¬∃ g ∈ tilesOf s p.recs, getF s F.TIL_STATUS_RUNNING g = 1) : finishLoad s j m ps p =
    endJob (showSlot (commitAll (writeRecs s false p.recs).2 (writeRecs s false p.recs).1) j.slot (slotFrom m p.recs ps) m.lo m.hi 0x3F) j 2
      ST_OK := by
  unfold finishLoad
  exact (if_neg (not_not_intro h)).trans ((if_neg (by simp [hc])).trans (if_neg (by simpa using hr)))
end
end

/-! ### APPLY -/

theorem opApply_none (h : jobFor s n i 1 = none) : opApply n i s = s := by
  unfold opApply
  rw [h]

section
variable {j : LoadJob} (hj : jobFor s n i 1 = some j) {r : Nat × Option Manifest × State} (hr : readManifest s j.addr (2 ^ 42) = r)
include hj hr

theorem opApply_again (hn : r.2.1 = none) (h4 : r.1 = 4) : opApply n i s = again s r.2.2 := by
  unfold opApply
  rw [hj]
  dsimp only
  rw [hr, hn]
  exact if_pos h4

theorem opApply_unread (hn : r.2.1 = none) (h4 : r.1 ≠ 4) : opApply n i s = endJob r.2.2 j 2 r.1 := by
  unfold opApply
  rw [hj]
  dsimp only
  rw [hr, hn]
  exact if_neg h4

section
variable {m : Manifest} (hm : r.2.1 = some m) {q : Option Payload × State} (hq : readPayload r.2.2 j.addr m = q)
include hm hq

theorem opApply_payloadAgain (hn : q.1 = none) : opApply n i s = again s q.2 := by
  unfold opApply
  rw [hj]
  dsimp only
  rw [hr, hm]
  dsimp only
  rw [hq, hn]

theorem opApply_finishes {p : Payload} (hp : q.1 = some p) : opApply n i s = finishApply q.2 j m p := by
  unfold opApply
  rw [hj]
  dsimp only
  rw [hr, hm]
  dsimp only
  rw [hq, hp]
end
end

/-! ### UNLOAD -/

theorem opUnload_none (h : jobFor s n i 2 = none) : opUnload n i s = s := by
  unfold opUnload
  rw [h]

section
variable {j : LoadJob} (hj : jobFor s n i 2 = some j)
include hj

theorem opUnload_runs (h : ∃ g ∈ (slotOf s j.slot).moulds.flatMap (rectTiles s), getF s F.TIL_STATUS_RUNNING g = 1 ∧
    getF s F.TIL_STATUS_FENCED g = 0) : opUnload n i s = endJob s j j.was ST_CFG_BUSY := by
  unfold opUnload
  rw [hj]
  exact if_pos (List.any_eq_true.mpr (by simpa only [Bool.and_eq_true, beq_iff_eq] using h))

theorem opUnload_frees (h : ¬∃ g ∈ (slotOf s j.slot).moulds.flatMap (rectTiles s), getF s F.TIL_STATUS_RUNNING g = 1 ∧
    getF s F.TIL_STATUS_FENCED g = 0) : opUnload n i s = endJob (showSlot (commitAll ((slotOf s j.slot).fields.foldl (fun y f =>
      clearRoutes y f (getI s F.CFG_MI_STAT_STREAM_LO 0 j.slot) (getI s F.CFG_MI_STAT_STREAM_HI 0 j.slot)) s) (slotOf s j.slot).fields)
      j.slot {} 0 0 0x3F) j 0 ST_OK := by
  unfold opUnload
  rw [hj]
  refine if_neg fun e => h ?_
  simpa only [Bool.and_eq_true, beq_iff_eq] using List.any_eq_true.mp e
end
end

/-- Settles O36, clause by clause: PATCH, the loader's jobs, LOAD, APPLY and UNLOAD. -/
theorem mouldImageSlots : Obligations.MouldImageSlots := by
  unfold Obligations.MouldImageSlots
  refine ⟨fun n i s c hc hr ho => ⟨fun hb => congrArg Host.Outcome.next (onValid_bad hc hr ho hb), fun hb he =>
      congrArg Host.Outcome.next (onValid_empty hc hr ho hb he), fun hb he => ?_⟩, startJob_owns,
    fun n i s => ⟨fun h => congrArg Host.Outcome.next (opLoad_none h), fun h => congrArg Host.Outcome.next (opApply_none h), fun h =>
      congrArg Host.Outcome.next (opUnload_none h), fun j hj => ?_, fun j hj => ?_, fun j hj => ⟨fun h =>
      congrArg Host.Outcome.next (opUnload_runs hj h), fun h => congrArg Host.Outcome.next (opUnload_frees hj h)⟩⟩,
    fun s j m ps p => ⟨finishLoad_breaks, finishLoad_conflicts, finishLoad_runs, finishLoad_loads⟩⟩
  · intro slot action addr job r
    have hread : readManifest s (bodyF c 0 0 42) (2 ^ 42) = r := rfl
    clear_value r
    refine ⟨fun h => congrArg Host.Outcome.next (opPatch_waits hc hr ho hb he h), fun hj => ⟨fun st hs =>
      congrArg Host.Outcome.next (opPatch_refused hc hr ho hb he hj hs), fun hs => ⟨fun ha h0 =>
      congrArg Host.Outcome.next (opPatch_unloadFree hc hr ho hb he hj hs ha h0), fun ha h0 =>
      congrArg Host.Outcome.next (opPatch_unload hc hr ho hb he hj hs ha h0), fun ha => ?_⟩⟩⟩
    exact ⟨fun hn h4 => congrArg Host.Outcome.next (opPatch_again hc hr ho hb he hj hs ha hread hn h4), fun hn h4 =>
      congrArg Host.Outcome.next (opPatch_unread hc hr ho hb he hj hs ha hread hn h4), fun m hm => ⟨fun st hst =>
      congrArg Host.Outcome.next (opPatch_manifest hc hr ho hb he hj hs ha hread hm hst), fun hst => ⟨fun h1 h0 =>
      congrArg Host.Outcome.next (opPatch_empty hc hr ho hb he hj hs ha hread hm hst h1 h0), fun h =>
      congrArg Host.Outcome.next (opPatch_starts hc hr ho hb he hj hs ha hread hm hst h)⟩⟩⟩
  · intro r
    have hr : readManifest s j.addr (2 ^ 42) = r := rfl
    clear_value r
    refine ⟨fun hn h4 => congrArg Host.Outcome.next (opLoad_again hj hr hn h4), fun hn h4 =>
      congrArg Host.Outcome.next (opLoad_unread hj hr hn h4), fun m hm => ?_⟩
    intro a q
    have ha : readAnnex r.2.2 m j.annex = a := rfl
    have hq : readPayload a.2.2 j.addr m = q := rfl
    clear_value q a
    refine ⟨fun h4 => congrArg Host.Outcome.next (opLoad_annexAgain hj hr hm ha h4), fun h4 h0 =>
      congrArg Host.Outcome.next (opLoad_annexFails hj hr hm ha h4 h0), fun h0 hn =>
      congrArg Host.Outcome.next (opLoad_payloadAgain hj hr hm ha h0 hq hn), fun p h0 hp => ?_⟩
    have hf := opLoad_finishes hj hr hm ha h0 hq hp
    exact ⟨fun h4 => congrArg Host.Outcome.next (hf.trans (if_pos h4)), fun h4 => congrArg Host.Outcome.next (hf.trans (if_neg h4))⟩
  · intro r
    have hr : readManifest s j.addr (2 ^ 42) = r := rfl
    clear_value r
    refine ⟨fun hn h4 => congrArg Host.Outcome.next (opApply_again hj hr hn h4), fun hn h4 =>
      congrArg Host.Outcome.next (opApply_unread hj hr hn h4), fun m hm => ?_⟩
    intro q
    have hq : readPayload r.2.2 j.addr m = q := rfl
    clear_value q
    exact ⟨fun hn => congrArg Host.Outcome.next (opApply_payloadAgain hj hr hm hq hn), fun p hp =>
      congrArg Host.Outcome.next (opApply_finishes hj hr hm hq hp)⟩

end Sys2Proof.Machine
end

section
/-! PROOFS. The start of a collective. -/
namespace Sys2Proof.Machine

/-- What becomes of a collective once its group and its tree have been read. -/
def collAfter (op n : Nat) (i : W32) (c : Cmd) (g : Group) (t : Nat × List (Nat × Nat) × State) : Bool × State :=
  let x := collOf op n i c g t.2.1
  if t.1 = 4 then (false, t.2.2)
  else if g.members = 0 then (true, completeCmd t.2.2 n c ST_OK_EMPTY (g.gen * 2 ^ 48))
  else if g.members ≤ x.me || g.members ≤ x.root || 65536 < g.members then (true, completeCmd t.2.2 n c ST_CMD_INVALID (g.gen * 2 ^ 48))
  else if t.1 = 0 && !treeOk g.members t.2.1 then (true, completeCmd t.2.2 n c ST_CMD_INVALID (g.gen * 2 ^ 48))
  else if !g.live.contains x.me then (true, completeCmd t.2.2 n c 0x140 (g.gen * 2 ^ 48))
  else if collEmpty op c then (true, completeCmd t.2.2 n c ST_OK_EMPTY (g.gen * 2 ^ 48))
  else if (loadRanks t.2.2 g.ranks).1 = 4 then (false, (loadRanks t.2.2 g.ranks).2)
  else (true, startColl (loadRanks t.2.2 g.ranks).2 x c t.1)

section
variable {op n : Nat} {i : W32} {s : State} {c : Cmd} (hc : inflightCmd s n i = some c) (hr : c.run = false) (ho : c.opcode = op)
  (hb : cmdBad s n c = false) (he : cmdEmpty c = false) {r : Nat × Option Group × State} (hread : readGroup s (bodyF c 0 0 42) = r)
include hc hr ho hb he hread

theorem opColl_waits (hn : r.2.1 = none) (h4 : r.1 = 4) : opColl op n i s = r.2.2 := by
  refine (onValid_gives (b := false) hc hr ho hb he ?_).trans (if_neg (by simp))
  dsimp only
  rw [hread, hn]
  exact if_pos h4

theorem opColl_unread (hn : r.2.1 = none) (h4 : r.1 ≠ 4) :
    opColl op n i s = markRun (completeCmd r.2.2 n c (if collEmpty op c then ST_OK_EMPTY else pageStatus r.1) 0) n i := by
  refine (onValid_gives (b := true) hc hr ho hb he ?_).trans (if_pos rfl)
  dsimp only
  rw [hread, hn]
  exact if_neg h4

theorem opColl_gives {g : Group} (hg : r.2.1 = some g) {t : Nat × List (Nat × Nat) × State}
    (ht : readTree r.2.2 (if (if op = 0x1A then bodyF c 4 0 42 else 0) = 0 then g.treeAddr else if op = 0x1A then bodyF c 4 0 42 else 0)
      g.members = t) {b : Bool} {x : State} (ha : collAfter op n i c g t = (b, x)) :
    opColl op n i s = if b then markRun x n i else x := by
  refine onValid_gives hc hr ho hb he ?_
  dsimp only
  rw [hread, hg]
  dsimp only
  rw [ht]
  exact ha
end

section
variable {op n : Nat} {i : W32} {c : Cmd} {g : Group} {t : Nat × List (Nat × Nat) × State}

theorem collAfter_waits (h : t.1 = 4) : collAfter op n i c g t = (false, t.2.2) := if_pos h

section
variable (h4 : t.1 ≠ 4)
include h4

theorem collAfter_noMembers (h : g.members = 0) : collAfter op n i c g t = (true, completeCmd t.2.2 n c ST_OK_EMPTY (g.gen * 2 ^ 48)) :=
  (if_neg h4).trans (if_pos h)

/-- The member or the root is outside the group, or the group is too large. -/
def collOutside (op : Nat) (c : Cmd) (g : Group) : Prop :=
  g.members ≤ bodyF c 1 0 16 ∨ g.members ≤ (if op = 0x1A then bodyF c 1 16 16 else 0) ∨ 65536 < g.members

variable (hm : g.members ≠ 0)
include hm

theorem collAfter_invalid (h : collOutside op c g ∨ (t.1 = 0 ∧ treeOk g.members t.2.1 = false)) :
    collAfter op n i c g t = (true, completeCmd t.2.2 n c ST_CMD_INVALID (g.gen * 2 ^ 48)) := by
  unfold collAfter
  dsimp only
  rw [if_neg h4, if_neg hm]
  by_cases hk : collOutside op c g
  · exact if_pos (by simpa [collOutside, collOf, or_assoc] using hk)
  · rw [if_neg (by simpa [collOutside, collOf, or_assoc] using hk)]
    exact if_pos (by simpa using h.resolve_left hk)

variable (hv : ¬(collOutside op c g ∨ (t.1 = 0 ∧ treeOk g.members t.2.1 = false)))
include hv

theorem collAfter_valid : collAfter op n i c g t =
    if !g.live.contains (bodyF c 1 0 16) then (true, completeCmd t.2.2 n c 0x140 (g.gen * 2 ^ 48))
    else if collEmpty op c then (true, completeCmd t.2.2 n c ST_OK_EMPTY (g.gen * 2 ^ 48))
    else if (loadRanks t.2.2 g.ranks).1 = 4 then (false, (loadRanks t.2.2 g.ranks).2)
    else (true, startColl (loadRanks t.2.2 g.ranks).2 (collOf op n i c g t.2.1) c t.1) := by
  obtain ⟨ho, ht⟩ := not_or.mp hv
  unfold collAfter
  dsimp only
  rw [if_neg h4, if_neg hm, if_neg (by simpa [collOutside, collOf, or_assoc] using ho), if_neg (by simpa using ht)]
  rfl
end
end

section
variable {s : State} {x : Chan} {c : Cmd} {fail : Nat} {y : State} (hy : takeCseq s x = y)
include hy

theorem startColl_aborted {a : AbortEntry} (h : y.coll.aborts.find? x.abortedBy = some a) : startColl s x c fail =
    completeCmd { y with coll := { y.coll with aborts := y.coll.aborts.erase a } } x.q c a.status (x.gen * 2 ^ 48) := by
  unfold startColl
  dsimp only
  rw [hy, h]

theorem startColl_binds (h : y.coll.aborts.find? x.abortedBy = none) (hf : fail = 0) :
    startColl s x c fail = bindColl (markRun y x.q x.idx) x := by
  unfold startColl
  dsimp only
  rw [hy, h]
  exact if_neg (not_not_intro hf)

theorem startColl_fails (h : y.coll.aborts.find? x.abortedBy = none) (hf : fail ≠ 0) :
    startColl s x c fail = failColl (setChan y x.num (some x)) x.num (pageStatus fail) := by
  unfold startColl
  dsimp only
  rw [hy, h]
  exact if_pos hf
end

theorem exec_collective {op : Nat} {k : Fin 64 → W32 → Instr}
    (h : (op, k) ∈ [(0x18, Instr.reduceScatter), (0x19, .allGather), (0x1A, .broadcast)]) (n : Fin 64) (i : W32) (s : State) :
    exec (k n i) s = .next (opColl op n i s) := by
  simp only [List.mem_cons, Prod.mk.injEq, List.not_mem_nil, or_false] at h
  obtain ⟨rfl, rfl⟩ | ⟨rfl, rfl⟩ | ⟨rfl, rfl⟩ := h
  · rfl
  · rfl
  · rfl

/-- Settles O37: the command, its group, its tree, and the conditions of R311 to R317 in their order. -/
theorem collectivesStart : Obligations.CollectivesStart := by
  unfold Obligations.CollectivesStart
  intro op k hk n i s c hc hr ho
  have hex {y : State} (h : opColl op n i s = y) : exec (k n i) s = .next y := (exec_collective hk n i s).trans (congrArg _ h)
  refine ⟨fun hb => hex (onValid_bad hc hr ho hb), fun hb he =>
    hex (onValid_empty hc hr ho hb he), fun hb he => ?_⟩
  intro r me root own
  have hread : readGroup s (bodyF c 0 0 42) = r := rfl
  clear_value r
  refine ⟨fun hn h4 => hex (opColl_waits hc hr ho hb he hread hn h4), fun hn h4 =>
    hex (opColl_unread hc hr ho hb he hread hn h4), fun g hg => ?_⟩
  intro t ends outside badTree
  have hx {b x} := opColl_gives (b := b) (x := x) hc hr ho hb he hread hg (t := t) rfl
  have hends {st : Nat} (h : collAfter op n i c g t = (true, completeCmd t.2.2 n c st (g.gen * 2 ^ 48))) : ends st :=
    hex ((hx h).trans (if_pos rfl))
  have hout : outside = collOutside op c g := rfl
  have hbad : badTree = (t.1 = 0 ∧ treeOk g.members t.2.1 = false) := rfl
  clear_value outside badTree ends t
  subst hout hbad
  refine ⟨fun h => hex ((hx (collAfter_waits h)).trans (if_neg (by simp))), fun h4 h => hends (collAfter_noMembers h4 h),
    fun h4 hm h => hends (collAfter_invalid h4 hm h), fun h4 hm hv => ?_⟩
  have hav := collAfter_valid (op := op) (n := n) (i := i) (c := c) h4 hm hv
  refine ⟨fun hl => hends (hav.trans (if_pos (by rw [show g.live.contains (bodyF c 1 0 16) = false from hl]; rfl))),
    fun hl hem => hends (hav.trans ((if_neg (by rw [show g.live.contains (bodyF c 1 0 16) = true from hl]; simp)).trans
      (if_pos hem))), fun hl hem => ?_⟩
  replace hav := hav.trans ((if_neg (by rw [show g.live.contains (bodyF c 1 0 16) = true from hl]; simp)).trans (if_neg (by simp [hem])))
  intro l ch cseq hash y x
  have hl : loadRanks t.2.2 g.ranks = l := rfl
  rw [hl] at hav
  have hxe : collOf op n i c g t.2.1 = x := rfl
  rw [hxe] at hav
  have hy : takeCseq l.2 x = y := rfl
  have hq : x.q = n ∧ x.idx = i ∧ x.gen = g.gen ∧ x.num = ch := ⟨rfl, rfl, rfl, rfl⟩
  clear_value l y x ch
  obtain ⟨hq, hi, hg, hn⟩ := hq
  refine ⟨fun h => hex ((hx (hav.trans (if_pos h))).trans (if_neg (by simp))), fun h a ha => hex ?_, fun h ha hf =>
    hex ?_, fun h ha hf => hex ?_⟩
  · refine ((hx (hav.trans (if_neg h))).trans (if_pos rfl)).trans ?_
    rw [startColl_aborted hy ha, hq, hg]
  · refine ((hx (hav.trans (if_neg h))).trans (if_pos rfl)).trans ?_
    rw [startColl_binds hy ha hf, hq, hi]
  · refine ((hx (hav.trans (if_neg h))).trans (if_pos rfl)).trans ?_
    rw [startColl_fails hy ha hf, hn]

end Sys2Proof.Machine
end

section
/-! PROOFS. Adders, and the DATA of collectives. -/
namespace Sys2Proof.Machine

/-! ### A block enters its stream's buffer -/

/-- A stream of an adder brings block `b`. -/
def ofStream (b : InBlock) (i : RedIn) : Bool := i.chan == b.chan && i.segment == b.segment && i.sender == b.sender && i.low == b.low

/-- The stream that brings a block, a new one when none does. -/
def streamOf (d : Adder) (b : InBlock) : RedIn :=
  (d.ins.find? (ofStream b)).getD { chan := b.chan, segment := b.segment, sender := b.sender, low := b.low, contrib := b.contrib }

/-- An earlier block of its stream waits before block `b`. -/
def blockBefore (d : Adder) (k : Nat) (b : InBlock) : Bool :=
  (d.incoming.take k).any (fun z => z.chan == b.chan && z.segment == b.segment && z.sender == b.sender && z.low == b.low)

/-- A block of the segment that is held disagrees about LAST. -/
def blockClash (d : Adder) (b : InBlock) : Bool :=
  d.ins.any (fun j => j.chan == b.chan && j.segment == b.segment &&
    j.held.any (fun h => h.1.seq == b.block.seq && h.1.last != b.block.last))

/-- The stream after the block. -/
def streamWith (d : Adder) (b : InBlock) : RedIn :=
  { streamOf d b with next := (streamOf d b).next + 1, held := (streamOf d b).held ++ [(b.block, b.credit)], contrib := b.contrib }

section
variable {a k : Nat} {s : State}

theorem opAdderReceive_none (h : (adderOf s a).incoming[k]? = none) : opAdderReceive a k s = s := by
  unfold opAdderReceive takeAt
  dsimp only
  rw [h]

section
variable {b : InBlock} (h : (adderOf s a).incoming[k]? = some b)
include h

theorem opAdderReceive_waits (hw : blockBefore (adderOf s a) k b = true ∨ 64 ≤ (streamOf (adderOf s a) b).held.length) :
    opAdderReceive a k s = s := by
  unfold opAdderReceive takeAt
  dsimp only
  rw [h]
  by_cases hb : blockBefore (adderOf s a) k b = true
  · exact if_pos hb
  · exact (if_neg hb).trans (if_pos (hw.resolve_left hb))

variable (hb : blockBefore (adderOf s a) k b = false) (hl : (streamOf (adderOf s a) b).held.length < 64)
include hb hl

theorem opAdderReceive_mismatch (hm : b.block.seq ≠ (streamOf (adderOf s a) b).next ∨ blockClash (adderOf s a) b = true) :
    opAdderReceive a k s = failColl (giveCredit (setAdder s a { adderOf s a with incoming := (adderOf s a).incoming.eraseIdx k }) b.credit)
      b.chan ST_ORDER_MISMATCH := by
  unfold opAdderReceive takeAt
  dsimp only
  rw [h]
  exact (if_neg (Bool.eq_false_iff.mp hb)).trans ((if_neg (Nat.not_le.mpr hl)).trans (if_pos (Bool.or_eq_true_iff.mpr (hm.imp decide_eq_true id))))

theorem opAdderReceive_takes (hn : b.block.seq = (streamOf (adderOf s a) b).next) (hc : blockClash (adderOf s a) b = false) :
    opAdderReceive a k s = updateWaits (setAdder (setAdder s a { adderOf s a with incoming := (adderOf s a).incoming.eraseIdx k }) a
      { incoming := (adderOf s a).incoming.eraseIdx k,
        ins := (adderOf s a).ins.filter (fun j => !ofStream b j) ++ [streamWith (adderOf s a) b] }) b.chan := by
  have hm : ¬(b.block.seq ≠ (streamOf (adderOf s a) b).next ∨ blockClash (adderOf s a) b = true) := by simp [hn, hc]
  unfold opAdderReceive takeAt
  dsimp only
  rw [h]
  exact (if_neg (Bool.eq_false_iff.mp hb)).trans ((if_neg (Nat.not_le.mpr hl)).trans (if_neg fun e => hm ((Bool.or_eq_true_iff.mp e).imp of_decide_eq_true id)))
end

/-! ### A combination -/

theorem opAdderCombine_none (h : readyAt s a = none) : opAdderCombine a s = s := by
  unfold opAdderCombine
  rw [h]

section
variable {x : Chan} {seg : Nat} {ins : List RedIn} (hr : readyAt s a = some (x, seg, ins)) {joins : Bool}
  (hj : ((adderShare s x seg a).getD ([], false)).2 = joins) {own : Nat × Block × State}
  (ho : (if joins then ownBlock s x seg (nextAt x a seg) else (0, { scale := 0, residue := 0, elems := [] }, s)) = own)
include hr hj ho

theorem opAdderCombine_waits (h : own.1 = 4) : opAdderCombine a s = own.2.2 := by
  unfold opAdderCombine
  rw [hr]
  dsimp only
  rw [hj, ho]
  exact if_pos h

theorem opAdderCombine_unread (h4 : own.1 ≠ 4) (h0 : own.1 ≠ 0) :
    opAdderCombine a s = failColl own.2.2 x.num (pageStatus own.1) := by
  unfold opAdderCombine
  rw [hr]
  dsimp only
  rw [hj, ho]
  exact (if_neg h4).trans (if_pos h0)

variable {all : List (Nat × Block)} (hall : inRankOrder (ins.filterMap (fun i => i.held.head?.map (fun h => (i.low, h.1))) ++
  (if joins then [(x.ranks.getD x.me 0, own.2.1)] else [])) = all) (h0 : own.1 = 0)
include hall h0

theorem opAdderCombine_mismatch (h : ¬∀ e ∈ all, e.2.last = (all.map (·.2.last)).headD false) :
    opAdderCombine a s = failColl own.2.2 x.num ST_ORDER_MISMATCH := by
  unfold opAdderCombine
  rw [hr]
  dsimp only
  rw [hj, ho, hall]
  exact (if_neg (by omega)).trans ((if_neg (not_not_intro h0)).trans (if_pos (by simpa using h)))

theorem opAdderCombine_emits (h : ∀ e ∈ all, e.2.last = (all.map (·.2.last)).headD false) : opAdderCombine a s =
    let d := adderOf own.2.2 a
    let taken := { d with ins := d.ins.map (fun i => if ins.contains i then { i with held := i.held.drop 1 } else i) }
    let y := ins.foldl (fun s i => giveCredit s ((i.held.head?.map (·.2)).getD none)) (setAdder own.2.2 a taken)
    let l := cascade y a x.num seg all.length 0 all
    let low := (l.1.map (·.1)).headD 0
    let r := combine low (l.1.map (·.2))
    emitBlock (reportCombine l.2 a x.num seg l.1 r) a x seg (nextAt x a seg) low ((ins.map (·.contrib)).sum + (if joins then 1 else 0)) r.out := by
  unfold opAdderCombine
  rw [hr]
  dsimp only
  rw [hj, ho, hall]
  exact (if_neg (by omega)).trans ((if_neg (not_not_intro h0)).trans (if_neg (by simpa using h)))
end

theorem emitBlock_sends {x : Chan} {seg b low contrib : Nat} {out : Block} (h : a ≠ ownerStage) :
    emitBlock s a x seg b low contrib out = pump (markEmitted (sendUp s x seg low contrib [out]) x a seg b) x.num := by
  unfold emitBlock
  exact if_neg h

theorem emitBlock_writes {x : Chan} {seg b low contrib : Nat} {out : Block} (h : a = ownerStage) {w : Nat × State}
    (hw : ownerWrite s x seg out = w) : emitBlock s a x seg b low contrib out =
      if w.1 ≠ 0 then failColl w.2 x.num (pageStatus (if w.1 = 2 then 2 else 1)) else pump (markEmitted w.2 x a seg b) x.num := by
  unfold emitBlock
  rw [hw]
  exact if_pos h

theorem cascade_none (s : State) (a c seg n : Nat) (l : List (Nat × Block)) (h : a = ownerStage ∨ l.length ≤ 8) (m : Nat) :
    cascade s a c seg m n l = (l, s) := by
  cases m with
  | zero => rfl
  | succ m =>
    unfold cascade
    exact if_pos (by simpa using h)

/-! ### DATA -/

theorem opData_none (h : arrivedOf s k 1 = none) : opData k s = s := by
  unfold opData
  rw [h]

section
variable {p : Penn} {v : Via} (ha : arrivedOf s k 1 = some (p, v))
include ha

theorem opData_early (h : dataInTurn s k p v = false) : opData k s = s := by
  unfold opData
  rw [ha]
  exact if_pos (by simp [h])

section
variable (ht : dataInTurn s k p v = true)
include ht

theorem opData_unbound (h : chanOf s p.chan = none) : opData k s = keepEarly s k (p, v) := by
  unfold opData
  rw [ha]
  dsimp only
  rw [if_neg (by simp [ht]), h]

section
variable {x : Chan} (hx : chanOf s p.chan = some x)
include hx

section
variable (hn : x.names p = true)
include hn

theorem opData_stale (h : p.gen < x.gen) : opData k s = countF (takePenn s k) F.PRT_ELOG_DISC_STALE_GEN 0 1 := by
  unfold opData
  rw [ha]
  dsimp only
  rw [if_neg (by simp [ht]), hx]
  exact (if_pos hn).trans (if_pos h)

theorem opData_toPool (h : x.gen < p.gen ∨ p.gen = x.gen ∧ x.held = true) : opData k s = keepEarly s k (p, v) := by
  unfold opData
  rw [ha]
  dsimp only
  rw [if_neg (by simp [ht]), hx]
  refine (if_pos hn).trans ((if_neg (by omega)).trans (if_pos ?_))
  rcases h with h | ⟨-, h⟩
  · simp [h]
  · simp [h]

section
variable (hg : p.gen = x.gen) (hh : x.held = false)
include hg hh

theorem opData_reduces (h : x.op = 0) :
    opData k s = updateWaits (reduceData (heard (removePenn s k) p.chan p.sender) x p v) p.chan := by
  unfold opData
  rw [ha]
  dsimp only
  rw [if_neg (by simp [ht]), hx]
  exact (if_pos hn).trans ((if_neg (by omega)).trans ((if_neg (by simp [hg, hh])).trans (if_pos h)))

theorem opData_lands (h : x.op ≠ 0) {r : Nat × State}
    (hr : landBlocks (heard (takePenn s k) p.chan p.sender) p.chan p p.count p.block p.payload = r) :
    opData k s = if r.1 ≠ 0 then failColl r.2 p.chan (pageStatus (if r.1 = 2 then 2 else 1)) else pump r.2 p.chan := by
  unfold opData
  rw [ha]
  dsimp only
  rw [if_neg (by simp [ht]), hx, hr]
  exact (if_pos hn).trans ((if_neg (by omega)).trans ((if_neg (by simp [hg, hh])).trans (if_neg h)))
end
end

section
variable (hn : x.names p = false)
include hn

theorem opData_other : opData k s =
    if x.group = p.group && x.cseq = p.cseq then foundMismatch s k p.chan p v
    else if (sendersIn s x p v).any (expectsData s x) then foundMismatch s k p.chan p v else keepEarly s k (p, v) := by
  unfold opData
  rw [ha]
  dsimp only
  rw [if_neg (by simp [ht]), hx]
  exact if_neg (by simp [hn])

theorem opData_mismatch (h : (x.group = p.group ∧ x.cseq = p.cseq) ∨ ∃ m ∈ sendersIn s x p v, expectsData s x m = true) :
    opData k s = foundMismatch s k p.chan p v := by
  rw [opData_other ha ht hx hn]
  by_cases hs : x.group = p.group ∧ x.cseq = p.cseq
  · exact if_pos (by simpa using hs)
  · rw [if_neg (by simpa using hs), if_pos (by simpa using h.resolve_left hs)]

theorem opData_keeps (h : ¬((x.group = p.group ∧ x.cseq = p.cseq) ∨ ∃ m ∈ sendersIn s x p v, expectsData s x m = true)) :
    opData k s = keepEarly s k (p, v) := by
  obtain ⟨h1, h2⟩ := not_or.mp h
  rw [opData_other ha ht hx hn, if_neg (by simpa using h1), if_neg (by simpa using h2)]
end
end
end

end

section
variable {c : Nat} {p : Penn} {v : Via} {g : Nat × Option (GroupRef × Group) × State} (hg : knownGroup s p.group = g)
include hg

theorem foundMismatch_waits (h : g.1 = 4) : foundMismatch s k c p v = g.2.2 := by
  unfold foundMismatch
  rw [hg]
  exact if_pos h

theorem foundMismatch_ends (h : g.1 ≠ 4) : foundMismatch s k c p v = mismatch (takePenn g.2.2 k) c p v g.2.1 := by
  unfold foundMismatch
  rw [hg]
  exact if_neg h
end
end

/-- Settles O38, clause by clause: blocks that arrive, combinations, cascades, and DATA. -/
theorem addersAndData : Obligations.AddersAndData := by
  unfold Obligations.AddersAndData
  refine ⟨fun a k s => ⟨fun h => congrArg Host.Outcome.next (opAdderReceive_none h), fun b h => ⟨fun hw =>
      congrArg Host.Outcome.next (opAdderReceive_waits h hw), fun hb hl hm => congrArg Host.Outcome.next (opAdderReceive_mismatch h hb hl hm),
      fun hb hl hn hc => congrArg Host.Outcome.next (opAdderReceive_takes h hb hl hn hc)⟩⟩,
    fun a s => ⟨fun h => congrArg Host.Outcome.next (opAdderCombine_none h), fun x seg ins hr => ?_⟩,
    fun s a c seg n l h => cascade_none s a c seg 0 l h n, fun k s h => congrArg Host.Outcome.next (opData_none h),
    fun k s p v ha => ⟨fun h => congrArg Host.Outcome.next (opData_early ha h), fun ht h =>
      congrArg Host.Outcome.next (opData_unbound ha ht h), fun x ht hx => ?_⟩⟩
  · intro b joins own heads all d taken y l low r z contrib w agree
    have hj : ((adderShare s x seg a).getD ([], false)).2 = joins := rfl
    have ho : (if joins then ownBlock s x seg (nextAt x a seg) else (0, { scale := 0, residue := 0, elems := [] }, s)) = own := rfl
    have hall : inRankOrder (ins.filterMap (fun i => i.held.head?.map (fun h => (i.low, h.1))) ++
      (if joins then [(x.ranks.getD x.me 0, own.2.1)] else [])) = all := rfl
    have hw : ownerWrite z x seg r.out = w := rfl
    have emits := fun h0 hagree => opAdderCombine_emits hr hj ho hall h0 hagree
    exact ⟨fun h => congrArg Host.Outcome.next (opAdderCombine_waits hr hj ho h),
      fun h4 h0 => congrArg Host.Outcome.next (opAdderCombine_unread hr hj ho h4 h0),
      fun h0 hne => congrArg Host.Outcome.next (opAdderCombine_mismatch hr hj ho hall h0 hne),
      fun h0 hag hs => congrArg Host.Outcome.next ((emits h0 hag).trans (emitBlock_sends hs)),
      fun h0 hag hs hw0 => congrArg Host.Outcome.next ((emits h0 hag).trans ((emitBlock_writes hs hw).trans (if_neg (not_not_intro hw0)))),
      fun h0 hag hs hw0 => congrArg Host.Outcome.next ((emits h0 hag).trans ((emitBlock_writes hs hw).trans (if_pos hw0)))⟩
  · intro r
    have hr : landBlocks (heard (takePenn s k) p.chan p.sender) p.chan p p.count p.block p.payload = r := rfl
    clear_value r
    refine ⟨fun hn => ⟨fun h => congrArg Host.Outcome.next (opData_stale ha ht hx hn h),
        fun h => congrArg Host.Outcome.next (opData_toPool ha ht hx hn h), fun hg hh =>
        ⟨fun h => congrArg Host.Outcome.next (opData_reduces ha ht hx hn hg hh h),
          fun h h0 => congrArg Host.Outcome.next ((opData_lands ha ht hx hn hg hh h hr).trans (if_neg (not_not_intro h0))),
          fun h h0 => congrArg Host.Outcome.next ((opData_lands ha ht hx hn hg hh h hr).trans (if_pos h0))⟩⟩, fun hn => ?_⟩
    intro wrong g
    exact ⟨fun hw h4 => congrArg Host.Outcome.next ((opData_mismatch ha ht hx hn hw).trans (foundMismatch_waits rfl h4)),
      fun hw h4 => congrArg Host.Outcome.next ((opData_mismatch ha ht hx hn hw).trans (foundMismatch_ends rfl h4)),
      fun hw => congrArg Host.Outcome.next (opData_keeps ha ht hx hn hw)⟩

end Sys2Proof.Machine
end

section
/-! PROOFS. Control pennants. -/
namespace Sys2Proof.Machine

section
variable {k : Nat} {s : State} {p : Penn} {v : Via}

/-! ### Pennants that speak to a bound collective -/

section
variable (hx : chanOf (takePenn s k) p.chan = none ∨ ∃ x, chanOf (takePenn s k) p.chan = some x ∧ x.names p = false)
include hx

theorem opAck_unbound (h : arrivedOf s k 2 = some (p, v)) : opAck k s = takePenn s k := by
  unfold opAck
  rw [h]
  dsimp only
  rcases hx with hx | ⟨x, hx, hn⟩ <;> rw [hx]
  exact if_neg (by simp [hn])

theorem opJoin_unbound (h : arrivedOf s k 5 = some (p, v)) : opJoin k s = takePenn s k := by
  unfold opJoin
  rw [h]
  dsimp only
  rcases hx with hx | ⟨x, hx, hn⟩ <;> rw [hx]
  exact if_neg (by simp [hn])

theorem opDone_unbound (h : arrivedOf s k 9 = some (p, v)) : opDone k s = takePenn s k := by
  unfold opDone
  rw [h]
  dsimp only
  rcases hx with hx | ⟨x, hx, hn⟩ <;> rw [hx]
  exact if_neg (by simp [hn])

theorem opFinish_unbound (h : arrivedOf s k 10 = some (p, v)) : opFinish k s = takePenn s k := by
  unfold opFinish
  rw [h]
  dsimp only
  rcases hx with hx | ⟨x, hx, hn⟩ <;> rw [hx]
  exact if_neg (by simp [hn])
end

section
variable {x : Chan} (hx : chanOf (takePenn s k) p.chan = some x) (hn : x.names p = true)
include hx hn

theorem opAck_bound (h : arrivedOf s k 2 = some (p, v)) : opAck k s = pump (modChan (heard (takePenn s k) p.chan p.sender) p.chan
    (fun y => y.setChild { x.childTx p.sender p.segment with
      unacked := (x.childTx p.sender p.segment).unacked.filter (fun u => u.1 != p.block) })) p.chan := by
  unfold opAck
  rw [h]
  dsimp only
  rw [hx]
  exact if_pos hn

theorem opJoin_bound (h : arrivedOf s k 5 = some (p, v)) : opJoin k s = pump (modChan (heard (takePenn s k) p.chan p.sender) p.chan
    (fun x => x.setChild { member := p.sender, segment := p.segment, next := p.block })) p.chan := by
  unfold opJoin
  rw [h]
  dsimp only
  rw [hx]
  exact if_pos hn

theorem opDone_bound (h : arrivedOf s k 9 = some (p, v)) : opDone k s = pump (modChan (heard (takePenn s k) p.chan p.sender) p.chan
    (fun x => { x with doneFrom := ((p.sender, p.gen) :: x.doneFrom).eraseDups })) p.chan := by
  unfold opDone
  rw [h]
  dsimp only
  rw [hx]
  exact if_pos hn

theorem opFinish_bound (h : arrivedOf s k 10 = some (p, v)) : opFinish k s =
    endColl ((x.children x.barrier x.me).foldl (fun s m => sendMember s x m (x.penn 10)) (takePenn s k)) p.chan x.statuses := by
  unfold opFinish
  rw [h]
  dsimp only
  rw [hx]
  exact if_pos hn
end

/-! ### QUERY -/

section
variable (h : arrivedOf s k 3 = some (p, v))
include h

theorem opQuery_answers {x : Chan} (hx : chanOf s p.chan = some x) (hh : x.held = false) :
    opQuery k s = sendBack (takePenn s k) v { x.penn 4 with block := if x.names p then 1 else 2 } := by
  have hc : (if x.held = true then 3 else if x.names p = true then 1 else 2) = (if x.names p = true then 1 else 2) := if_neg (by simp [hh])
  have h3 : ¬(if x.names p = true then 1 else 2) = 3 := by split <;> decide
  unfold opQuery
  rw [h]
  dsimp only
  rw [hx]
  dsimp only
  rw [hc, if_neg h3]

theorem opQuery_held {x : Chan} (hx : chanOf s p.chan = some x) (hh : x.held = true) :
    opQuery k s = sendBack (takePenn s k) v
      (let me := if x.group = p.group then x.me else ((find s.coll.groups p.group).map (·.me)).getD x.me
      { p with kind := 4, sender := me, payload := [], count := 0, block := 3 }) := by
  unfold opQuery
  rw [h]
  dsimp only
  rw [hx]
  dsimp only
  rw [if_pos hh]
  rfl

section
variable (hx : chanOf s p.chan = none) {g : Nat × Option (GroupRef × Group) × State} (hg : knownGroup s p.group = g)
include hx hg

theorem opQuery_waits (h4 : g.1 = 4) : opQuery k s = g.2.2 := by
  unfold opQuery
  rw [h]
  dsimp only
  rw [hx]
  dsimp only
  rw [hg]
  exact if_pos h4

theorem opQuery_idle (h4 : g.1 ≠ 4) :
    opQuery k s = sendBack (takePenn (idleState g.2.2 p g.2.1).2 k) v (idleState g.2.2 p g.2.1).1 := by
  unfold opQuery
  rw [h]
  dsimp only
  rw [hx]
  dsimp only
  rw [hg]
  exact if_neg h4

theorem opQuery_known (h4 : g.1 ≠ 4) {r : GroupRef} {d : Group} (hs : g.2.1 = some (r, d)) :
    opQuery k s = sendBack (takePenn g.2.2 k) v
      { kind := 4, chan := p.chan, coll := p.coll, group := p.group, cseq := d.cseqs.getD p.chan 0, hash := 0, gen := d.gen, sender := r.me } := by
  rw [opQuery_idle h hx hg h4, hs]
  rfl

theorem opQuery_unknown (h4 : g.1 ≠ 4) (hs : g.2.1 = none) : ∃ a b, a < 2 ^ 32 ∧ b < 65536 ∧
    opQuery k s = sendBack (takePenn { g.2.2 with free := g.2.2.free + 1 } k) v
      { kind := 4, chan := p.chan, coll := p.coll, group := p.group, cseq := a, hash := 0, gen := p.gen, sender := b } := by
  refine ⟨(Config.freeValue g.2.2.free).toNat % 2 ^ 32, (Config.freeValue g.2.2.free).toNat / 2 ^ 32 % 65536,
    Nat.mod_lt _ (by decide), Nat.mod_lt _ (by decide), ?_⟩
  rw [opQuery_idle h hx hg h4, hs]
  rfl
end
end

/-! ### STATE -/

section
variable (h : arrivedOf s k 4 = some (p, v))
include h

theorem opState_unbound (hx : chanOf s p.chan = none) : opState k s = takePenn s k := by
  unfold opState
  rw [h]
  dsimp only
  rw [hx]

section
variable {x : Chan} (hx : chanOf s p.chan = some x)
include hx

theorem opState_idle (h0 : p.block = 0) : opState k s = if p.group = x.group then stateIdle s k x p v else takePenn s k := by
  unfold opState
  rw [h]
  dsimp only
  rw [hx]
  dsimp only
  rw [h0] <;> rfl

theorem opState_same (h1 : p.block = 1) : opState k s = if x.names p then heard (takePenn s k) p.chan p.sender else takePenn s k := by
  unfold opState
  rw [h]
  dsimp only
  rw [hx]
  dsimp only
  rw [h1] <;> rfl

theorem opState_another (h2 : p.block = 2) : opState k s = if x.names p then takePenn s k else foundMismatch s k p.chan p v := by
  unfold opState
  rw [h]
  dsimp only
  rw [hx]
  dsimp only
  rw [h2] <;> rfl

theorem opState_held (h3 : 3 ≤ p.block) : opState k s = if p.group = x.group then stateHeld (takePenn s k) x p else takePenn s k := by
  obtain ⟨n, hn⟩ : ∃ n, p.block = n + 3 := ⟨p.block - 3, by omega⟩
  unfold opState
  rw [h]
  dsimp only
  rw [hx]
  dsimp only
  rw [hn] <;> rfl

/-- How far the sequence number of the pennant lies behind the collective's. -/
def aheadOf (p : Penn) (x : Chan) : W32 := BitVec.ofNat 32 p.cseq - BitVec.ofNat 32 x.cseq

theorem opState_clash (hc : (p.block = 2 ∧ x.names p = false) ∨ (p.block = 0 ∧ p.group = x.group ∧ aheadOf p x ≠ 0 ∧ negative (aheadOf p x) = false)) :
    opState k s = foundMismatch s k p.chan p v := by
  rcases hc with ⟨h2, hn⟩ | ⟨h0, hg, hd, hneg⟩
  · exact (opState_another h hx h2).trans (if_neg (by simp [hn]))
  · exact ((opState_idle h hx h0).trans (if_pos hg)).trans (if_neg (by simpa [aheadOf] using And.intro hd hneg))

theorem opState_waits (h0 : p.block = 0) (hg : p.group = x.group) (hd : aheadOf p x = 0 ∨ negative (aheadOf p x) = true) :
    opState k s = modWait (takePenn s k) p.chan p.sender (fun w =>
      { w with since := s.now, queried := none, idle := some (w.idle.getD s.now) }) :=
  ((opState_idle h hx h0).trans (if_pos hg)).trans (if_pos (by simpa [aheadOf] using hd))

theorem opState_ignored (hi : (p.block = 0 ∨ 3 ≤ p.block) ∧ p.group ≠ x.group ∨ p.block = 1 ∧ x.names p = false ∨
    p.block = 2 ∧ x.names p = true) : opState k s = takePenn s k := by
  rcases hi with ⟨h0 | h3, hg⟩ | ⟨h1, hn⟩ | ⟨h2, hn⟩
  · exact (opState_idle h hx h0).trans (if_neg hg)
  · exact (opState_held h hx h3).trans (if_neg hg)
  · exact (opState_same h hx h1).trans (if_neg (by simp [hn]))
  · exact (opState_another h hx h2).trans (if_pos hn)
end
end

/-! ### REFORM_REQ and REFORM -/

theorem opReformReq_notes (h : arrivedOf s k 6 = some (p, v))
    {r : State × Option Forming} (hr : noteRequest (takePenn s k) p.group p.gen (indicesOf p.count p.payload) = r) (hf : r.2 = none) :
    opReformReq k s = r.1 := by
  unfold opReformReq
  rw [h]
  dsimp only
  rw [hr, hf]

theorem opReformReq_answers (h : arrivedOf s k 6 = some (p, v))
    {r : State × Option Forming} (hr : noteRequest (takePenn s k) p.group p.gen (indicesOf p.count p.payload) = r) {f : Forming} (hf : r.2 = some f) :
    opReformReq k s = (reformPackets { p with sender := ((find s.coll.groups p.group).map (·.me)).getD 0 }
      (f.base + 1) f.excl).foldl (fun s q => sendBack s v q) r.1 := by
  unfold opReformReq
  rw [h]
  dsimp only
  rw [hr, hf]

/-- A REFORM with the packets of it that are here already. -/
def formWith (s : State) (p : Penn) : FormIn :=
  let f := (s.coll.formIn.find? (fun f => f.group == p.group && f.gen == p.gen)).getD
    { group := p.group, gen := p.gen, total := p.contrib, packets := [] }
  { f with packets := f.packets.filter (fun e => e.1 != p.block) ++ [(p.block, indicesOf p.count p.payload)] }

/-- The state that holds them. -/
def formKept (s : State) (p : Penn) : State :=
  { s with coll := { s.coll with formIn := s.coll.formIn.filter (fun z => !(z.group == p.group && z.gen == p.gen)) ++ [formWith s p] } }

section
variable (h : arrivedOf s k 7 = some (p, v))
include h

theorem opReform_partial (hl : ((formWith s p).packets.flatMap (fun e => e.2)).length ≠ (formWith s p).total) :
    opReform k s = takePenn (formKept s p) k := by
  unfold opReform
  rw [h]
  exact if_neg hl

section
variable (hl : ((formWith s p).packets.flatMap (fun e => e.2)).length = (formWith s p).total)
  {q : Nat × Option (GroupRef × Group) × State} (hq : knownGroup (formKept s p) p.group = q)
include hl hq

theorem opReform_whole : opReform k s =
    if q.1 = 4 then q.2.2
    else match q.2.1 with
      | some (r, d) => applyReform (takePenn q.2.2 k) r d p.gen ((formWith s p).packets.flatMap (fun e => e.2))
      | none => takePenn q.2.2 k := by
  subst hq
  unfold opReform
  rw [h]
  exact if_pos hl

theorem opReform_waits (h4 : q.1 = 4) : opReform k s = q.2.2 := (opReform_whole h hl hq).trans (if_pos h4)

theorem opReform_unknown (h4 : q.1 ≠ 4) (hn : q.2.1 = none) : opReform k s = takePenn q.2.2 k := by
  rw [opReform_whole h hl hq, if_neg h4, hn]

theorem opReform_applies (h4 : q.1 ≠ 4) {r : GroupRef} {d : Group} (hn : q.2.1 = some (r, d)) :
    opReform k s = applyReform (takePenn q.2.2 k) r d p.gen ((formWith s p).packets.flatMap (fun e => e.2)) := by
  rw [opReform_whole h hl hq, if_neg h4, hn]
end
end

/-! ### ABORT and the abort table -/

section
variable (h : arrivedOf s k 8 = some (p, v))
include h

theorem opAbort_ends {x : Chan} (hx : chanOf s p.chan = some x) (hn : x.names p = true) : opAbort k s =
    endCollAs (sendRec (takePenn s k) .port p.block 0x2803 p.block p.sender) p.chan p.block x.notices := by
  unfold opAbort
  rw [h]
  dsimp only
  rw [hx]
  exact if_pos hn

theorem opAbort_unbound (hx : chanOf s p.chan = none ∨ ∃ x, chanOf s p.chan = some x ∧ x.names p = false) :
    opAbort k s = opAbort.other k s p := by
  unfold opAbort
  rw [h]
  dsimp only
  rcases hx with hx | ⟨x, hx, hn⟩ <;> rw [hx]
  exact if_neg (by simp [hn])
end

/-- The group of an ABORT has passed its sequence number. -/
def cseqPassed (p : Penn) (g : Option (GroupRef × Group)) : Prop :=
  ∃ r d, g = some (r, d) ∧ negative (BitVec.ofNat 32 p.cseq - BitVec.ofNat 32 (d.cseqs.getD p.chan 0)) = true

theorem cseqPassed_iff (p : Penn) (g : Option (GroupRef × Group)) : cseqPassed p g ↔
    g.elim false (fun e => negative (BitVec.ofNat 32 p.cseq - BitVec.ofNat 32 (e.2.cseqs.getD p.chan 0))) = true := by
  unfold cseqPassed
  cases g with
  | none => simp
  | some e => exact ⟨fun ⟨r, d, he, hn⟩ => by cases he; exact hn, fun hn => ⟨e.1, e.2, rfl, hn⟩⟩

section
variable {g : Nat × Option (GroupRef × Group) × State} (hg : knownGroup s p.group = g)
include hg

theorem otherAbort_waits (h4 : g.1 = 4) : opAbort.other k s p = g.2.2 := by
  unfold opAbort.other
  rw [hg]
  exact if_pos h4

theorem otherAbort_passed (h4 : g.1 ≠ 4) (hp : cseqPassed p g.2.1) : opAbort.other k s p = takePenn g.2.2 k := by
  unfold opAbort.other
  rw [hg]
  exact (if_neg h4).trans (if_pos ((cseqPassed_iff p g.2.1).mp hp))

theorem otherAbort_enters (h4 : g.1 ≠ 4) (hp : ¬cseqPassed p g.2.1) : opAbort.other k s p = enterAbort (takePenn g.2.2 k) p := by
  unfold opAbort.other
  rw [hg]
  exact (if_neg h4).trans (if_neg fun e => hp ((cseqPassed_iff p g.2.1).mpr e))
end

/-- The entry that an ABORT makes in the abort table. -/
def abortEntry (p : Penn) (now : Nat) : AbortEntry :=
  { group := p.group, chan := p.chan, cseq := p.cseq, hash := p.hash, status := p.block, since := now }

theorem enterAbort_appends (s : State) (p : Penn) (h : s.coll.aborts.length < 16) :
    enterAbort s p = { s with coll := { s.coll with aborts := s.coll.aborts ++ [abortEntry p s.now] } } := by
  have hn : ¬16 ≤ s.coll.aborts.length := Nat.not_le.mpr h
  unfold enterAbort
  dsimp only
  rw [if_neg hn, if_neg hn]
  rfl

theorem enterAbort_replaces (s : State) (p : Penn) (h : 16 ≤ s.coll.aborts.length) :
    enterAbort s p = { countF s F.COL_ERR_ABORT_DROPS 0 1 with coll := { (countF s F.COL_ERR_ABORT_DROPS 0 1).coll with
      aborts := s.coll.aborts.drop 1 ++ [abortEntry p (countF s F.COL_ERR_ABORT_DROPS 0 1).now] } } := by
  unfold enterAbort
  dsimp only
  rw [if_pos h, if_pos h]
  rfl
end

/-- Settles O39, pennant by pennant. -/
theorem controlPennants : Obligations.ControlPennants := by
  unfold Obligations.ControlPennants
  intro k s
  refine ⟨?_, fun p v => ?_, fun p => ⟨enterAbort_appends s p, fun h =>
    ⟨countF s F.COL_ERR_ABORT_DROPS 0 1, rfl, congrArg CollState.aborts (countF_coll ..), countF_now .., enterAbort_replaces s p h⟩⟩⟩
  · intro kind i hm h
    simp only [List.mem_cons, Prod.mk.injEq, List.not_mem_nil, or_false] at hm
    rcases hm with ⟨rfl, rfl⟩ | ⟨rfl, rfl⟩ | ⟨rfl, rfl⟩ | ⟨rfl, rfl⟩ | ⟨rfl, rfl⟩ | ⟨rfl, rfl⟩ | ⟨rfl, rfl⟩ | ⟨rfl, rfl⟩ | ⟨rfl, rfl⟩
    · exact congrArg Host.Outcome.next (by unfold opAck; rw [h])
    · exact congrArg Host.Outcome.next (by unfold opQuery; rw [h])
    · exact congrArg Host.Outcome.next (by unfold opState; rw [h])
    · exact congrArg Host.Outcome.next (by unfold opJoin; rw [h])
    · exact congrArg Host.Outcome.next (by unfold opReformReq; rw [h])
    · exact congrArg Host.Outcome.next (by unfold opReform; rw [h])
    · exact congrArg Host.Outcome.next (by unfold opAbort; rw [h])
    · exact congrArg Host.Outcome.next (by unfold opDone; rw [h])
    · exact congrArg Host.Outcome.next (by unfold opFinish; rw [h])
  · intro y
    refine ⟨?_, ?_, ?_, ?_, ?_, ?_, ?_⟩
    · intro kind i hm h hx
      simp only [List.mem_cons, Prod.mk.injEq, List.not_mem_nil, or_false] at hm
      rcases hm with ⟨rfl, rfl⟩ | ⟨rfl, rfl⟩ | ⟨rfl, rfl⟩ | ⟨rfl, rfl⟩
      · exact congrArg Host.Outcome.next (opAck_unbound hx h)
      · exact congrArg Host.Outcome.next (opJoin_unbound hx h)
      · exact congrArg Host.Outcome.next (opDone_unbound hx h)
      · exact congrArg Host.Outcome.next (opFinish_unbound hx h)
    · intro x hx hn
      exact ⟨fun h => congrArg Host.Outcome.next (opAck_bound hx hn h), fun h => congrArg Host.Outcome.next (opJoin_bound hx hn h),
        fun h => congrArg Host.Outcome.next (opDone_bound hx hn h), fun h => congrArg Host.Outcome.next (opFinish_bound hx hn h)⟩
    · intro h g
      refine ⟨fun x hx hh => congrArg Host.Outcome.next (opQuery_answers h hx hh), fun x hx hh => congrArg Host.Outcome.next (opQuery_held h hx hh),
        fun hx h4 => congrArg Host.Outcome.next (opQuery_waits h hx rfl h4),
        fun r d hx h4 hs => congrArg Host.Outcome.next (opQuery_known h hx rfl h4 hs), fun hx h4 hs => ?_⟩
      obtain ⟨a, b, ha, hb, he⟩ := opQuery_unknown h hx rfl h4 hs
      exact ⟨a, b, ha, hb, congrArg Host.Outcome.next he⟩
    · intro h g
      refine ⟨fun hx => congrArg Host.Outcome.next (opState_unbound h hx), fun x hx => ?_⟩
      intro d clash
      refine ⟨fun hc h4 => congrArg Host.Outcome.next ((opState_clash h hx hc).trans (foundMismatch_waits rfl h4)),
        fun hc h4 => congrArg Host.Outcome.next ((opState_clash h hx hc).trans (foundMismatch_ends rfl h4)),
        fun h0 hg hd => congrArg Host.Outcome.next (opState_waits h hx h0 hg hd),
        fun h1 hn => congrArg Host.Outcome.next ((opState_same h hx h1).trans (if_pos hn)),
        fun h3 hg => congrArg Host.Outcome.next ((opState_held h hx h3).trans (if_pos hg)),
        fun hi => congrArg Host.Outcome.next (opState_ignored h hx hi)⟩
    · intro h r
      exact ⟨fun hf => congrArg Host.Outcome.next (opReformReq_notes h rfl hf),
        fun f hf => congrArg Host.Outcome.next (opReformReq_answers h rfl hf)⟩
    · intro h same f g all x q
      exact ⟨fun hl => congrArg Host.Outcome.next (opReform_partial h hl), fun hl h4 => congrArg Host.Outcome.next (opReform_waits h hl rfl h4),
        fun hl h4 hn => congrArg Host.Outcome.next (opReform_unknown h hl rfl h4 hn),
        fun r d hl h4 hn => congrArg Host.Outcome.next (opReform_applies h hl rfl h4 hn)⟩
    · intro h
      refine ⟨fun x hx hn => congrArg Host.Outcome.next (opAbort_ends h hx hn), fun hx => ?_⟩
      intro g passed
      exact ⟨fun h4 => congrArg Host.Outcome.next ((opAbort_unbound h hx).trans (otherAbort_waits rfl h4)),
        fun h4 hp => congrArg Host.Outcome.next ((opAbort_unbound h hx).trans (otherAbort_passed rfl h4 hp)),
        fun h4 hp => congrArg Host.Outcome.next ((opAbort_unbound h hx).trans (otherAbort_enters rfl h4 hp))⟩

end Sys2Proof.Machine
end

section
/-! PROOFS. The timers of collectives. -/
namespace Sys2Proof.Machine

section
variable {k : Nat} {s : State}

/-! ### The waits of a bound collective -/

section
variable (h : waitAt s k = none)
include h

theorem opQueryTimer_none : opQueryTimer k s = s := by
  unfold opQueryTimer
  rw [h]

theorem opCollTimeout_none : opCollTimeout k s = s := by
  unfold opCollTimeout
  rw [h]

theorem opGroupTimeout_none : opGroupTimeout k s = s := by
  unfold opGroupTimeout
  rw [h]
end

/-- The member has not been heard from for half of COLL_TMO. -/
def queryDue (s : State) (x : Chan) (w : CWait) : Prop := w.queried = none ∧ collTmo s / 2 ≤ s.now - w.since ∧ x.held = false

/-- A member that was asked has not answered for COLL_TMO. -/
def answerDue (s : State) (x : Chan) (w : CWait) : Prop :=
  w.queried ≠ none ∧ w.idle = none ∧ x.heldSince w.member = none ∧ collTmo s ≤ s.now - w.since ∧ x.held = false

theorem answerDue_iff (s : State) (x : Chan) (w : CWait) : answerDue s x w ↔
    (w.queried.isSome && w.idle.isNone && (x.heldSince w.member).isNone && collTmo s ≤ s.now - w.since && !x.held) = true := by
  simp [answerDue, and_assoc, Option.isSome_iff_ne_none]

section
variable {x : Chan} {w : CWait} (h : waitAt s k = some (x, w))
include h

theorem opQueryTimer_early (hd : ¬queryDue s x w) : opQueryTimer k s = s := by
  unfold opQueryTimer
  rw [h]
  refine if_pos ?_
  by_contra hc
  exact hd (by simpa [queryDue, and_assoc] using hc)

theorem opQueryTimer_due (hd : queryDue s x w) : opQueryTimer k s =
    let r := sendRank s (x.ranks.getD w.member 0) (x.penn 3)
    if r.1 then modWait r.2 (k % 16) w.member (fun w => { w with queried := some s.now }) else declareFailed r.2 (k % 16) w.member 3 := by
  obtain ⟨hq, ht, hh⟩ := hd
  unfold opQueryTimer
  rw [h]
  exact if_neg (by simp [hq, hh]; omega)

theorem opCollTimeout_due (hd : answerDue s x w) : opCollTimeout k s = declareFailed s (k % 16) w.member 0 := by
  unfold opCollTimeout
  rw [h]
  exact if_pos ((answerDue_iff s x w).mp hd)

theorem opCollTimeout_early (hd : ¬answerDue s x w) : opCollTimeout k s = s := by
  unfold opCollTimeout
  rw [h]
  exact if_neg fun e => hd ((answerDue_iff s x w).mpr e)

theorem opGroupTimeout_held (hh : x.held = true) : opGroupTimeout k s = s := by
  unfold opGroupTimeout
  rw [h]
  exact if_pos hh

theorem opGroupTimeout_hears (hs : x.heldSince w.member = none) (hi : w.idle = none) : opGroupTimeout k s = s := by
  unfold opGroupTimeout
  rw [h]
  dsimp only
  rw [hs, hi]
  exact ite_self _

theorem opGroupTimeout_holds {t : Nat} (hh : x.held = false) (hs : x.heldSince w.member = some t) :
    opGroupTimeout k s = if groupTmo s ≤ s.now - t then declareFailed s (k % 16) w.member 2 else s := by
  unfold opGroupTimeout
  rw [h]
  dsimp only
  rw [if_neg (by simp [hh]), hs]

theorem opGroupTimeout_idles {t : Nat} (hh : x.held = false) (hs : x.heldSince w.member = none) (hi : w.idle = some t) :
    opGroupTimeout k s = if groupTmo s ≤ s.now - t then failColl s (k % 16) ST_TIMEOUT else s := by
  unfold opGroupTimeout
  rw [h]
  dsimp only
  rw [if_neg (by simp [hh]), hs, hi]
end

/-! ### The hop time -/

theorem opHopTimeout_none (h : chanOf s (k % 16) = none) : opHopTimeout k s = s := by
  unfold opHopTimeout
  rw [h]

/-- A block for the member has gone unacknowledged for the hop time. -/
def hopLate (s : State) (x : Chan) (m : Nat) : Bool :=
  x.childs.any (fun t => t.member == m && t.unacked.any (fun u => hopTmo s ≤ s.now - u.2 && !unsentTo s x m t.segment u.1))

section
variable {x : Chan} (h : chanOf s (k % 16) = some x)
include h

theorem opHopTimeout_due (hl : hopLate s x (k / 16) = true) (hs : x.heldSince (k / 16) = none) (hh : x.held = false)
    (hp : k / 16 ∉ pendingExcl s x) : opHopTimeout k s = declareFailed s (k % 16) (k / 16) 1 := by
  unfold opHopTimeout
  rw [h]
  dsimp only
  rw [show (x.childs.any _) = hopLate s x (k / 16) from rfl, if_pos (by simp [hl, hs, hh, hp])]

theorem opHopTimeout_early (hd : ¬(hopLate s x (k / 16) = true ∧ x.heldSince (k / 16) = none ∧ x.held = false ∧ k / 16 ∉ pendingExcl s x)) :
    opHopTimeout k s = s := by
  unfold opHopTimeout
  rw [h]
  dsimp only
  rw [show (x.childs.any _) = hopLate s x (k / 16) from rfl, if_neg (by simpa [and_assoc] using hd)]
end

/-! ### Re-forming -/

theorem opSettle_none (h : s.coll.forming[k]? = none) : opSettle k s = s := by
  unfold opSettle
  rw [h]

section
variable {f : Forming} (h : s.coll.forming[k]? = some f)
include h

theorem opSettle_early (hd : f.sent = true ∨ s.now - f.since < collTmo s / 4) : opSettle k s = s := by
  unfold opSettle
  rw [h]
  exact if_pos (by simpa using hd)

section
variable (hs : f.sent = false) (ht : collTmo s / 4 ≤ s.now - f.since) {g : Nat × Option (GroupRef × Group) × State} (hg : knownGroup s f.group = g)
include hs ht hg

theorem opSettle_unknown (hn : g.2.1 = none) : opSettle k s = g.2.2 := by
  unfold opSettle
  rw [h]
  dsimp only
  rw [if_neg (by simp [hs, ht]), hg, hn]

theorem opSettle_sends {r : GroupRef} {d : Group} (hn : g.2.1 = some (r, d)) : opSettle k s = sendReform
    { g.2.2 with coll := { g.2.2.coll with forming := g.2.2.coll.forming.map (fun z => if z = f then { f with sent := true } else z) } } f r d := by
  unfold opSettle
  rw [h]
  dsimp only
  rw [if_neg (by simp [hs, ht]), hg, hn]
end
end

theorem opReqTimeout_none (h : s.coll.requests[k]? = none) : opReqTimeout k s = s := by
  unfold opReqTimeout
  rw [h]

/-- The state without request `k`. -/
def requestDropped (s : State) (k : Nat) : State :=
  { s with coll := { s.coll with requests := s.coll.requests.eraseIdx k } }

section
variable {r : FormReq} (h : s.coll.requests[k]? = some r)
include h

theorem opReqTimeout_early (ht : s.now - r.since < collTmo s) : opReqTimeout k s = s := by
  unfold opReqTimeout
  rw [h]
  exact if_pos ht

section
variable (ht : collTmo s ≤ s.now - r.since) {g : Nat × Option (GroupRef × Group) × State} (hg : knownGroup s r.group = g)
include ht hg

theorem opReqTimeout_waits (h4 : g.1 = 4) : opReqTimeout k s = g.2.2 := by
  unfold opReqTimeout
  rw [h]
  dsimp only
  rw [if_neg (Nat.not_lt.mpr ht), hg, if_pos h4]

theorem opReqTimeout_drops (h4 : g.1 ≠ 4) (hn : g.2.1 = none ∨ ∃ e d, g.2.1 = some (e, d) ∧ r.base < d.gen) :
    opReqTimeout k s = requestDropped g.2.2 k := by
  unfold opReqTimeout
  rw [h]
  dsimp only
  rw [if_neg (Nat.not_lt.mpr ht), hg, if_neg h4]
  rcases hn with hn | ⟨e, d, hn, hd⟩ <;> rw [hn]
  · rfl
  · exact if_pos hd

theorem opReqTimeout_asks (h4 : g.1 ≠ 4) {e : GroupRef} {d : Group} (hn : g.2.1 = some (e, d)) (hd : d.gen ≤ r.base) :
    opReqTimeout k s = askReform (requestDropped g.2.2 k)
      { kind := 6, chan := 0, coll := 0, group := r.group, cseq := 0, hash := 0, gen := r.base, sender := e.me }
      d.live d.ranks r.excl (some r.leader) := by
  unfold opReqTimeout
  rw [h]
  dsimp only
  rw [if_neg (Nat.not_lt.mpr ht), hg, if_neg h4, hn]
  exact if_neg (Nat.not_lt.mpr hd)
end
end

theorem opAbortExpiry_none (h : s.coll.aborts[k]? = none) : opAbortExpiry k s = s := by
  unfold opAbortExpiry
  rw [h]

theorem opAbortExpiry_of {a : AbortEntry} (h : s.coll.aborts[k]? = some a) : opAbortExpiry k s =
    if groupTmo s ≤ s.now - a.since then { s with coll := { s.coll with aborts := s.coll.aborts.eraseIdx k } } else s := by
  unfold opAbortExpiry
  rw [h]
end

/-- Settles O40, timer by timer. -/
theorem collectiveTimers : Obligations.CollectiveTimers := by
  unfold Obligations.CollectiveTimers
  refine fun k s => ⟨fun h => ⟨congrArg Host.Outcome.next (opQueryTimer_none h), congrArg Host.Outcome.next (opCollTimeout_none h),
      congrArg Host.Outcome.next (opGroupTimeout_none h)⟩, fun x w h => ⟨?_, ?_, ?_, ?_, ?_, ?_⟩,
    fun h => congrArg Host.Outcome.next (opHopTimeout_none h), fun x h => ?_,
    fun h => congrArg Host.Outcome.next (opSettle_none h), fun f h => ⟨fun hd => congrArg Host.Outcome.next (opSettle_early h hd), fun hs ht => ?_⟩,
    fun h => congrArg Host.Outcome.next (opReqTimeout_none h), fun r h => ?_,
    fun h => congrArg Host.Outcome.next (opAbortExpiry_none h), fun a h => ⟨fun ht =>
      congrArg Host.Outcome.next ((opAbortExpiry_of h).trans (if_neg (Nat.not_le.mpr ht))),
      fun ht => congrArg Host.Outcome.next ((opAbortExpiry_of h).trans (if_pos ht))⟩⟩
  · intro r due
    exact ⟨fun hd => congrArg Host.Outcome.next (opQueryTimer_early h hd),
      fun hd hr => congrArg Host.Outcome.next ((opQueryTimer_due h hd).trans (if_pos hr)),
      fun hd hr => congrArg Host.Outcome.next ((opQueryTimer_due h hd).trans (if_neg (Bool.eq_false_iff.mp hr)))⟩
  · intro due
    exact ⟨fun hd => congrArg Host.Outcome.next (opCollTimeout_due h hd), fun hd => congrArg Host.Outcome.next (opCollTimeout_early h hd)⟩
  · exact fun hh => congrArg Host.Outcome.next (opGroupTimeout_held h hh)
  · exact fun hs hi => congrArg Host.Outcome.next (opGroupTimeout_hears h hs hi)
  · exact fun t hh hs => ⟨fun ht => congrArg Host.Outcome.next ((opGroupTimeout_holds h hh hs).trans (if_pos ht)),
      fun ht => congrArg Host.Outcome.next ((opGroupTimeout_holds h hh hs).trans (if_neg (Nat.not_le.mpr ht)))⟩
  · exact fun t hh hs hi => ⟨fun ht => congrArg Host.Outcome.next ((opGroupTimeout_idles h hh hs hi).trans (if_pos ht)),
      fun ht => congrArg Host.Outcome.next ((opGroupTimeout_idles h hh hs hi).trans (if_neg (Nat.not_le.mpr ht)))⟩
  · intro m late due
    exact ⟨fun ⟨hl, hs, hh, hp⟩ => congrArg Host.Outcome.next (opHopTimeout_due h hl hs hh hp),
      fun hd => congrArg Host.Outcome.next (opHopTimeout_early h hd)⟩
  · intro g
    exact ⟨fun hn => congrArg Host.Outcome.next (opSettle_unknown h hs ht rfl hn),
      fun r d hn => congrArg Host.Outcome.next (opSettle_sends h hs ht rfl hn)⟩
  · intro g y
    exact ⟨fun ht => congrArg Host.Outcome.next (opReqTimeout_early h ht),
      fun ht h4 => congrArg Host.Outcome.next (opReqTimeout_waits h ht rfl h4),
      fun ht h4 hn => congrArg Host.Outcome.next (opReqTimeout_drops h ht rfl h4 hn),
      fun e d ht h4 hn hd => congrArg Host.Outcome.next (opReqTimeout_asks h ht rfl h4 hn hd)⟩

end Sys2Proof.Machine
end

section
/-! PROOFS. The Brois links. -/
namespace Sys2Proof.Machine

section
variable {l : Nat} {s : State}

/-! ### Flits -/

theorem opBroisFlit_down {h : W32} {fixed ok : Bool} (hs : getI s F.BRL_STAT_STATE 0 l ≠ 4) : opBroisFlit l h fixed ok s = s := by
  unfold opBroisFlit
  exact if_pos (by simp [linkActive, hs])

/-- A flit that is idle. -/
def idleFlit (w : Nat) : Bool := w / 2 ^ 21 % 2 == 1

/-- The link after it has accepted a flit with header `w`. -/
def flitTaken (b : BLink) (w : Nat) : BLink :=
  { b with
    unacked := b.unacked.filter (fun f => 512 ≤ (w / 1024 % 1024 + 1024 - f.seq) % 1024)
    rxNext := if idleFlit w then b.rxNext else (b.rxNext + 1) % 1024
    nak := false
    c3 := min 64 (b.c3 + w / 2 ^ 26 % 16) }

section
variable {h : W32} {fixed ok : Bool} (hs : getI s F.BRL_STAT_STATE 0 l = 4) {y : State}
  (hy : (if fixed then countI s F.BRL_ERR_FEC_CORR 0 l 1 else s) = y)
include hs hy

theorem opBroisFlit_asks (hb : ok = false ∨ idleFlit h.toNat = false ∧ h.toNat % 1024 ≠ (linkOf y l).rxNext) :
    opBroisFlit l h fixed ok s = setLink y l { linkOf y l with nak := true } := by
  unfold opBroisFlit
  dsimp only
  rw [if_neg (by simp [linkActive, hs]), hy]
  exact if_pos (by simpa [idleFlit] using hb)

theorem opBroisFlit_takes (hok : ok = true) (hb : idleFlit h.toNat = true ∨ h.toNat % 1024 = (linkOf y l).rxNext) :
    opBroisFlit l h fixed ok s =
      let z := setLink y l (flitTaken (linkOf y l) h.toNat)
      let z := setI z F.BRL_STAT_C0_CREDITS 0 l (min 64 (getI z F.BRL_STAT_C0_CREDITS 0 l + h.toNat / 2 ^ 22 % 16))
      pumpBrois (fillReplay (if h.toNat / 2 ^ 20 % 2 = 1 then replay z l else z) l ((flitTaken (linkOf y l) h.toNat).out.length + 1)) := by
  have hn : ¬(!ok || (!idleFlit h.toNat && h.toNat % 1024 != (linkOf y l).rxNext)) = true := by
    rcases hb with hb | hb
    · simp [hok, hb]
    · simp [hok, hb]
  unfold opBroisFlit
  dsimp only
  rw [if_neg (by simp [linkActive, hs]), hy]
  exact if_neg hn
end

/-! ### Replay and recovery -/

theorem enterRecover_active (h : getI s F.BRL_STAT_STATE 0 l = 4) :
    enterRecover s l = countI (setI s F.BRL_STAT_STATE 0 l 5) F.BRL_ERR_RECOVERIES 0 l 1 := if_pos h

theorem enterRecover_other (h : getI s F.BRL_STAT_STATE 0 l ≠ 4) : enterRecover s l = s := if_neg h

theorem opReplayTimeout_none (h : (linkOf s l).unacked = []) : opReplayTimeout l s = s := by
  unfold opReplayTimeout
  rw [h]

section
variable {f : TxFlit} {fs : List TxFlit} (h : (linkOf s l).unacked = f :: fs)
include h

theorem opReplayTimeout_early (hd : getI s F.BRL_STAT_STATE 0 l ≠ 4 ∨ s.now - f.since < 200) : opReplayTimeout l s = s := by
  unfold opReplayTimeout
  rw [h]
  refine if_neg ?_
  rcases hd with hd | hd
  · simp [linkActive, hd]
  · simp [hd]

section
variable (hs : getI s F.BRL_STAT_STATE 0 l = 4) (ht : 200 ≤ s.now - f.since)
include hs ht

theorem opReplayTimeout_due : opReplayTimeout l s = replay s l := by
  unfold opReplayTimeout
  rw [h]
  exact if_pos (by simp [linkActive, hs, ht])

theorem opReplayTimeout_recovers (h4 : 4 ≤ f.tries) :
    opReplayTimeout l s = countI (setI s F.BRL_STAT_STATE 0 l 5) F.BRL_ERR_RECOVERIES 0 l 1 := by
  rw [opReplayTimeout_due h hs ht]
  unfold replay
  dsimp only
  rw [h]
  exact (if_pos h4).trans (enterRecover_active hs)

theorem opReplayTimeout_replays (h4 : f.tries < 4) : opReplayTimeout l s =
    setLink (countLink (countI s F.BRL_ERR_REPLAYS 0 l 1) (80 + l) 0 1) l
      { linkOf s l with unacked := (linkOf s l).unacked.map (fun x => { x with tries := x.tries + 1, since := s.now }) } := by
  rw [opReplayTimeout_due h hs ht]
  unfold replay
  dsimp only
  rw [h]
  exact if_neg (Nat.not_le.mpr h4)
end
end

theorem opRecover_failed (h : getI s F.BRL_STAT_STATE 0 l = 5) :
    opRecover l .fail s = setLink s l { linkOf s l with fails := (linkOf s l).fails + 1 } := if_pos h

theorem opRecover_idle (h : getI s F.BRL_STAT_STATE 0 l ≠ 5) : opRecover l .fail s = s := if_neg h

theorem opRecover_over {bad : BitVec 16} (h : getI s F.BRL_STAT_STATE 0 l ≠ 5) : opRecover l (.done bad) s = s := if_pos h

section
variable {bad : BitVec 16} (h : getI s F.BRL_STAT_STATE 0 l = 5)
include h

theorem opRecover_narrowless (hw : widthFor s l (getI s F.BRL_STAT_BAD_LANES 0 l ||| bad.toNat) = none) :
    opRecover l (.done bad) s = setLink s l { linkOf s l with fails := (linkOf s l).fails + 1 } := by
  unfold opRecover
  dsimp only
  rw [if_neg (not_not_intro h), hw]
  rfl

theorem opRecover_done {x : Nat × Nat} (hw : widthFor s l (getI s F.BRL_STAT_BAD_LANES 0 l ||| bad.toNat) = some x) :
    opRecover l (.done bad) s =
      let y := setI (setWidth s l (getI s F.BRL_STAT_BAD_LANES 0 l ||| bad.toNat) x) F.BRL_STAT_STATE 0 l 4
      let z := modLink y l (fun b => { b with fails := 0, unacked := b.unacked.map (fun f => { f with tries := 0, since := y.now }) })
      pumpBrois (if x.1 = 1 && getI s F.BRL_STAT_X8 0 l = 0 then
        sendRec z .port 0 0x3300 (l + 2 * x.2) (getI s F.BRL_STAT_BAD_LANES 0 l ||| bad.toNat) else z) := by
  unfold opRecover
  dsimp only
  rw [if_neg (not_not_intro h), hw]
end

/-! ### Loss and training -/

/-- The link is to be given up. -/
def linkGone (s : State) (l : Nat) : Prop :=
  (getI s F.BRL_STAT_STATE 0 l = 5 ∧ 2 ≤ (linkOf s l).fails) ∨
  ((getI s F.BRL_STAT_STATE 0 l = 4 ∨ getI s F.BRL_STAT_STATE 0 l = 5) ∧ getI s F.BRL_CTRL_ENABLE 0 l = 0)

theorem opLinkLoss_loses (h : linkGone s l) : opLinkLoss l s = loseLink s l := by
  unfold opLinkLoss
  exact if_pos (by simpa [linkGone] using h)

theorem opLinkLoss_keeps (h : ¬linkGone s l) : opLinkLoss l s = s := by
  unfold opLinkLoss
  exact if_neg fun e => h (by simpa [linkGone] using e)

/-- The link may be trained now. -/
def trainable (s : State) (l : Nat) : Prop :=
  s.power.on = true ∧ getI s F.BRL_STAT_STATE 0 l ≠ 4 ∧ getI s F.BRL_STAT_STATE 0 l ≠ 5 ∧ getI s F.BRL_CTRL_ENABLE 0 l ≠ 0 ∧
    ∀ t, (linkOf s l).tried = some t → 1000000 ≤ s.now - t

/-- The link after a training that found width `x`. -/
def trainedUp (s : State) (l bad : Nat) (x : Nat × Nat) : State :=
  let y := setI (setI (setWidth s l bad x) F.BRL_STAT_STATE 0 l 4) F.BRL_STAT_C0_CREDITS 0 l 64
  let z := setLink (setI y F.BRL_STAT_RD_OUT 0 l 0) l { c3 := 64 }
  if (linkOf s l).wasLost then sendRec z .port 0 0x1006 (l + 2 ^ 31) 0 else z

/-- The hold of the module's work ends with its record, when one is owed. -/
def owedPaid (s : State) : State :=
  match s.recov.owed with
  | some c => sendRec { s with recov := { s.recov with owed := none, holding := false } } .port 0 0x1007 c 0
  | none => s

theorem owedPaid_none (h : s.recov.owed = none) : owedPaid s = s := by
  unfold owedPaid
  rw [h]

theorem owedPaid_some {c : Nat} (h : s.recov.owed = some c) :
    owedPaid s = sendRec { s with recov := { s.recov with owed := none, holding := false } } .port 0 0x1007 c 0 := by
  unfold owedPaid
  rw [h]

section
variable {bad : Nat} {ok : Bool}

theorem opBroisTraining_not (h : ¬trainable s l) : opBroisTraining l bad ok s = s := by
  unfold opBroisTraining
  dsimp only
  refine if_pos ?_
  by_contra hc
  refine h ?_
  unfold trainable
  cases ht : (linkOf s l).tried with
  | none => simpa [ht, and_assoc] using hc
  | some t => simpa [ht, and_assoc] using hc

section
variable (h : trainable s l)
include h

theorem opBroisTraining_may : opBroisTraining l bad ok s = match if ok then widthFor s l bad else none with
    | none => setLink (setI s F.BRL_STAT_STATE 0 l 1) l { linkOf s l with tried := some s.now }
    | some x => pumpBrois (owedPaid (trainedUp s l bad x)) := by
  obtain ⟨hp, h4, h5, he, ht⟩ := h
  unfold opBroisTraining
  dsimp only
  refine if_neg ?_
  cases hb : (linkOf s l).tried with
  | none => simp [hp, h4, h5, he]
  | some t => simpa [hp, h4, h5, he] using ht t hb

theorem opBroisTraining_fails (hw : (if ok then widthFor s l bad else none) = none) :
    opBroisTraining l bad ok s = setLink (setI s F.BRL_STAT_STATE 0 l 1) l { linkOf s l with tried := some s.now } := by
  rw [opBroisTraining_may h, hw]

theorem opBroisTraining_up {x : Nat × Nat} (hw : (if ok then widthFor s l bad else none) = some x) :
    opBroisTraining l bad ok s = pumpBrois (owedPaid (trainedUp s l bad x)) := by
  rw [opBroisTraining_may h, hw]
end
end
end

/-- Settles O41, clause by clause. -/
theorem broisLinks : Obligations.BroisLinks := by
  unfold Obligations.BroisLinks
  refine ⟨fun l s => ?_, fun s => ?_⟩
  · intro st b
    refine ⟨?_, fun h => congrArg Host.Outcome.next (opReplayTimeout_none h), fun f fs h => ⟨fun hd => congrArg Host.Outcome.next (opReplayTimeout_early h hd),
        fun hs ht h4 => congrArg Host.Outcome.next (opReplayTimeout_recovers h hs ht h4),
        fun hs ht h4 => congrArg Host.Outcome.next (opReplayTimeout_replays h hs ht h4)⟩,
      fun h => ⟨congrArg Host.Outcome.next (enterRecover_other h), congrArg Host.Outcome.next (enterRecover_other h)⟩,
      fun h => ⟨congrArg Host.Outcome.next (enterRecover_active h), congrArg Host.Outcome.next (enterRecover_active h)⟩,
      fun h => ⟨congrArg Host.Outcome.next (opRecover_idle h), fun bad => congrArg Host.Outcome.next (opRecover_over h)⟩,
      fun h => congrArg Host.Outcome.next (opRecover_failed h), fun bad h => ⟨fun hw => congrArg Host.Outcome.next (opRecover_narrowless h hw),
        fun x hw => congrArg Host.Outcome.next (opRecover_done h hw)⟩,
      ⟨fun h => congrArg Host.Outcome.next (opLinkLoss_loses h), fun h => congrArg Host.Outcome.next (opLinkLoss_keeps h)⟩, fun bad ok => ?_⟩
    · intro h fixed ok w idle a y c d z
      exact ⟨fun hs => congrArg Host.Outcome.next (opBroisFlit_down hs), fun hs hb => congrArg Host.Outcome.next (opBroisFlit_asks hs rfl hb),
        fun hs hok hb => congrArg Host.Outcome.next (opBroisFlit_takes hs rfl hok hb)⟩
    · intro may width
      refine ⟨fun hm => congrArg Host.Outcome.next (opBroisTraining_not hm), fun hm hw => congrArg Host.Outcome.next (opBroisTraining_fails hm hw),
        fun x hm hw => ?_⟩
      intro y z r
      exact ⟨fun ho => congrArg Host.Outcome.next ((opBroisTraining_up hm hw).trans (congrArg pumpBrois (owedPaid_none ho))),
        fun c ho => congrArg Host.Outcome.next ((opBroisTraining_up hm hw).trans (congrArg pumpBrois (owedPaid_some ho)))⟩
  · intro lost
    exact ⟨fun h => congrArg Host.Outcome.next (opBothLost_not h), fun h => ⟨_, rfl, congrArg Host.Outcome.next (opBothLost_holds h)⟩⟩

end Sys2Proof.Machine
end

section
/-! PROOFS. Answers from companion memory. -/
namespace Sys2Proof.Machine

section
variable {k rstat : Nat} {data : List Byte} {s : State}

/-! ### MEM_RDATA -/

theorem opMemRdata_none (h : s.cmd.reads[k]? = none) : opMemRdata k rstat data s = s := by
  unfold opMemRdata
  rw [h]

/-- The state after read `k` over link `l` has ended. -/
def readEnded (s : State) (k l : Nat) : State :=
  let x := { s with cmd := { s.cmd with reads := s.cmd.reads.eraseIdx k } }
  setI x F.BRL_STAT_RD_OUT 0 l (getI x F.BRL_STAT_RD_OUT 0 l - 1)

/-- The status of a command whose read was refused. -/
def refusedAs (rstat : Nat) : Nat := if rstat = 3 then ST_DATA_POISON else ST_CMD_INVALID

section
variable {r : CompRead} (h : s.cmd.reads[k]? = some r)
include h

theorem opMemRdata_lost (hl : r.link = 2) : opMemRdata k rstat data s = s := by
  unfold opMemRdata
  rw [h]
  exact if_pos hl

section
variable (hl : r.link ≠ 2) {x : State} (hx : readEnded s k r.link = x)
include hl hx

section
variable {n : Nat} {i : W32} (hw : r.what = .command n i)
include hw

theorem opMemRdata_fetches (h0 : rstat = 0) : opMemRdata k rstat data s =
    pumpBrois (touchNext (modCq x n (fun q => { q with fetched := q.fetched ++ [{ idx := i, bytes := data }] })) n) := by
  subst h0
  subst hx
  unfold opMemRdata
  rw [h]
  dsimp only
  rw [if_neg hl, hw]
  rfl

theorem opMemRdata_loses (h0 : rstat ≠ 0) : opMemRdata k rstat data s =
    let c := lostCmd (countF x F.BRL_HOSTERR_RD_REFUSED 0 1) i (refusedAs rstat)
    pumpBrois (touchNext (modCq c.2 n (fun q => { q with fetched := q.fetched ++ [c.1] })) n) := by
  subst hx
  unfold opMemRdata
  rw [h]
  dsimp only
  rw [if_neg hl, hw]
  dsimp only
  rw [if_neg h0, if_neg h0]
  rfl
end

section
variable {n : Nat} {i : W32} (hw : r.what = .readmit n i)
include hw

theorem opMemRdata_readmits (h0 : rstat = 0) : opMemRdata k rstat data s =
    pumpBrois (flushReadmit (modCq x n (fun q => { q with requests := q.requests.map (fun x =>
      if x.idx = i then { x with bytes := data, kept := 4 } else x) })) n 16) := by
  subst h0
  subst hx
  unfold opMemRdata
  rw [h]
  dsimp only
  rw [if_neg hl, hw]
  rfl

theorem opMemRdata_refuses (h0 : rstat ≠ 0) : opMemRdata k rstat data s =
    pumpBrois (flushReadmit (completeIdx (modCq (countF x F.BRL_HOSTERR_RD_REFUSED 0 1) n
      (fun q => { q with requests := q.requests.filter (fun x => x.idx != i) })) n i (refusedAs rstat) 0) n 16) := by
  subst hx
  unfold opMemRdata
  rw [h]
  dsimp only
  rw [if_neg hl, hw]
  dsimp only
  rw [if_neg h0, if_neg h0]
  rfl
end
end
end

/-! ### MEM_ACK -/

theorem opMemAck_none (h : s.cmd.writes[k]? = none) : opMemAck k rstat s = s := by
  unfold opMemAck
  rw [h]

/-- The state after write `k` has ended, a refused one counted and recorded. -/
def writeEnded (s : State) (k rstat : Nat) (w : CompWrite) : State :=
  let x := { s with cmd := { s.cmd with writes := s.cmd.writes.eraseIdx k } }
  if rstat = 3 || rstat = 4 then sendRec (countF x F.BRL_HOSTERR_WR_REFUSED 0 1) .port 0 0x3301 (w.link + rstat * 16) w.addr else x

section
variable {w : CompWrite} (h : s.cmd.writes[k]? = some w)
include h

theorem opMemAck_lost (hl : w.link = 2) : opMemAck k rstat s = s := by
  unfold opMemAck
  rw [h]
  exact if_pos hl

theorem opMemAck_ends (hl : w.link ≠ 2) : opMemAck k rstat s = pumpBrois (released (writeEnded s k rstat w) w) := by
  unfold opMemAck
  rw [h]
  exact if_neg hl
end

variable {w : CompWrite}

theorem released_plain (h : w.what = .interrupt ∨ w.what = .data) : released s w = s := by
  unfold released
  rcases h with h | h <;> rw [h]

/-- The event counter that a completion names, counted up. -/
def signalled (s : State) : Option Nat → State
  | some e => addEvc s e 1
  | none => s

theorem released_completion {n : Nat} {signal : Option Nat} {irq : Bool} (h : w.what = .completion n signal irq) : released s w =
    let z := setI s F.GLB_CQ_STAT_INFLIGHT 0 n (getI s F.GLB_CQ_STAT_INFLIGHT 0 n - 1)
    let z := signalled z signal
    if irq then sendIrq z (getI z F.GLB_CQ_CFG_VECTOR 0 n) else z := by
  unfold released
  rw [h]
  rfl

theorem released_record {t : Nat} {irq : Bool} (h : w.what = .record t irq) : released s w =
    let z := setF s F.GLB_EVR_TAIL_TAIL 0 (ackedTail s)
    if irq then sendIrq z (getF z F.GLB_EVR_CFG_VECTOR 0) else z := by
  unfold released
  rw [h]
end

/-- Settles O42: reads and writes end one by one. -/
theorem companionMemoryAnswers : Obligations.CompanionMemoryAnswers := by
  unfold Obligations.CompanionMemoryAnswers
  refine fun k rstat s => ⟨fun data h => congrArg Host.Outcome.next (opMemRdata_none h), fun data r h => ?_,
    fun h => congrArg Host.Outcome.next (opMemAck_none h), fun w h => ?_⟩
  · intro x₀ x e status
    exact ⟨fun hl => congrArg Host.Outcome.next (opMemRdata_lost h hl),
      fun n i hl hw h0 => congrArg Host.Outcome.next (opMemRdata_fetches h hl rfl hw h0),
      fun n i hl hw h0 => ⟨congrArg Host.Outcome.next (opMemRdata_loses h hl rfl hw h0), rfl, rfl, rfl⟩,
      fun n i hl hw h0 => congrArg Host.Outcome.next (opMemRdata_readmits h hl rfl hw h0),
      fun n i hl hw h0 => congrArg Host.Outcome.next (opMemRdata_refuses h hl rfl hw h0)⟩
  · intro x y
    exact ⟨fun hl => congrArg Host.Outcome.next (opMemAck_lost h hl),
      fun hl hw => congrArg Host.Outcome.next ((opMemAck_ends h hl).trans (congrArg pumpBrois (released_plain hw))),
      fun n signal irq hl hw => congrArg Host.Outcome.next ((opMemAck_ends h hl).trans (congrArg pumpBrois (released_completion hw))),
      fun t irq hl hw => congrArg Host.Outcome.next ((opMemAck_ends h hl).trans (congrArg pumpBrois (released_record hw)))⟩

end Sys2Proof.Machine
end

section
/-! PROOFS. Edge ports, their timers, and connections. -/
namespace Sys2Proof.Machine

section
variable {p : Nat} {s : State}

/-! ### Training and loss -/

theorem opPortTraining_idle {e : TrainEnd} (h : getI s F.PRT_EPORT_CFG_MODE 0 p = 3 ∨ portUp s p = true) : opPortTraining p e s = s := by
  unfold opPortTraining
  exact if_pos (by simpa using h)

section
variable (hm : getI s F.PRT_EPORT_CFG_MODE 0 p ≠ 3) (hu : portUp s p = false)
include hm hu

theorem opPortTraining_noMode : opPortTraining p .noMode s = setI s F.PRT_EPORT_STAT_STATE 0 p 0 := by
  unfold opPortTraining
  exact if_neg (by simp [hm, hu])

theorem opPortTraining_testFail : opPortTraining p .testFail s =
    sendRec (setI (setI s F.PRT_EPORT_STAT_STATE 0 p 0) F.PRT_EPORT_STAT_TEST_FAIL 0 p 1) .port 0 0x1004 (p + 2 ^ 30) 0 := by
  unfold opPortTraining
  exact if_neg (by simp [hm, hu])

theorem opPortTraining_up : opPortTraining p .up s =
    let x := setI (setI s F.PRT_EPORT_STAT_STATE 0 p 3) F.PRT_EPORT_STAT_TEST_FAIL 0 p 0
    let y := if (getD x.net.ports p {}).seen then sendRec x .port 0 0x1004 (p + 2 ^ 31) 0 else x
    let z := rehome { y with net := { y.net with ports := erase y.net.ports p } }
    portResetDone (retryOuts z (z.net.outst.length + 1)) 0 p := by
  unfold opPortTraining
  exact if_neg (by simp [hm, hu])
end

theorem opPortDown_down {n : Nat} {lock : Bool} (h : portUp s p = false) : opPortDown p n lock s = s := by
  unfold opPortDown
  exact if_pos (by simp [h])

theorem opPfc_down {on off : BitVec 8} (h : portUp s p = false) : opPfc p on off s = s := by
  unfold opPfc
  exact if_pos (by simp [h])

/-- The address that an address request must ask for: the port's own. -/
def ownAddress (s : State) (v6 : Bool) : Nat :=
  if v6 then (rdReg s .PRT_ADDR6 0 0).toNat * 2 ^ 64 + (rdReg s .PRT_ADDR6 0 1).toNat else (rdReg s .PRT_ADDR4 0 0).toNat % 2 ^ 32

theorem opArp_eq (p : Nat) (v6 : Bool) (a : BitVec 128) (s : State) : opArp p v6 a s =
    if portUp s p && ownAddress s v6 ≠ 0 && a.toNat = ownAddress s v6 then
      sendFrame s p 0 (.arp v6 ((getF s F.PRT_MAC_BASE 0 + p) % 2 ^ 48)) else s := rfl

theorem opArp_down {v6 : Bool} {a : BitVec 128} (h : portUp s p = false) : opArp p v6 a s = s := by
  rw [opArp_eq, if_neg (by simp [h])]

section
variable (hu : portUp s p = true)
include hu

section
variable {n : Nat} {lock : Bool} {y : State} (hy : countLink (countI s F.PRT_EPORT_STAT_FEC_UNCORR 0 p n) p 0 n = y)
include hy

theorem opPortDown_up : opPortDown p n lock s =
    if !lock || getI y F.PRT_EPORT_CFG_UNCORR_MAX 0 p < n then portDown y p else y := by
  unfold opPortDown
  rw [if_neg (by simp [hu]), hy]

theorem opPortDown_loses (h : lock = false ∨ getI y F.PRT_EPORT_CFG_UNCORR_MAX 0 p < n) : opPortDown p n lock s = portDown y p :=
  (opPortDown_up hu hy).trans (if_pos (by simpa using h))

theorem opPortDown_counts (hl : lock = true) (hn : n ≤ getI y F.PRT_EPORT_CFG_UNCORR_MAX 0 p) : opPortDown p n lock s = y :=
  (opPortDown_up hu hy).trans (if_neg (by simp [hl, hn]))
end

theorem opPfc_up {on off : BitVec 8} : opPfc p on off s = { s with net := { s.net with
    ports := put s.net.ports p { getD s.net.ports p {} with paused := ((getD s.net.ports p {}).paused ||| on) &&& ~~~off } {} } } := by
  unfold opPfc
  exact if_neg (by simp [hu])

theorem opArp_answers {v6 : Bool} {a : BitVec 128} (h0 : ownAddress s v6 ≠ 0) (ha : a.toNat = ownAddress s v6) :
    opArp p v6 a s = sendFrame s p 0 (.arp v6 ((getF s F.PRT_MAC_BASE 0 + p) % 2 ^ 48)) := by
  rw [opArp_eq, if_pos (by simp [hu, h0, ha])]
end

theorem opArp_other {v6 : Bool} {a : BitVec 128} (h : ownAddress s v6 = 0 ∨ a.toNat ≠ ownAddress s v6) : opArp p v6 a s = s := by
  rw [opArp_eq]
  refine if_neg ?_
  rcases h with h | h <;> simp [h]
end

/-! ### Timers -/

section
variable {k : Nat} {s : State}

theorem opRto_none (h : s.net.outst[k]? = none) : opRto k s = s := by
  unfold opRto
  rw [h]

theorem opRoceTimeout_none (h : s.net.outst[k]? = none) : opRoceTimeout k s = s := by
  unfold opRoceTimeout
  rw [h]

section
variable {o : NetOut} (h : s.net.outst[k]? = some o)
include h

theorem opRto_early (hd : o.sent = false ∨ (connOf s o.conn).kind = 1 ∨ s.now - o.since < getF s F.PRT_CST_CFG_RTO 0) : opRto k s = s := by
  unfold opRto
  rw [h]
  exact if_pos (by simpa [or_assoc] using hd)

section
variable (hs : o.sent = true) (hk : (connOf s o.conn).kind ≠ 1) (ht : getF s F.PRT_CST_CFG_RTO 0 ≤ s.now - o.since)
include hs hk ht

theorem opRto_due : opRto k s =
    if getF s F.PRT_CST_CFG_RETRIES 0 + 1 ≤ o.tries then failConn s o.conn 0 0 else resendOut s o := by
  unfold opRto
  rw [h]
  exact if_neg (by simp [hs, hk, ht])
end

theorem opRoceTimeout_early (hd : o.sent = false ∨ (connOf s o.conn).kind ≠ 1 ∨
    (s.now - o.since) * 10 < 4096 * 2 ^ getF s F.PRT_CST_CFG_ROCE_TMO 0) : opRoceTimeout k s = s := by
  unfold opRoceTimeout
  rw [h]
  exact if_pos (by simpa [or_assoc] using hd)

section
variable (hs : o.sent = true) (hk : (connOf s o.conn).kind = 1) (ht : 4096 * 2 ^ getF s F.PRT_CST_CFG_ROCE_TMO 0 ≤ (s.now - o.since) * 10)
include hs hk ht

theorem opRoceTimeout_fails (h8 : 8 ≤ o.tries) : opRoceTimeout k s = failConn s o.conn 0 0 := by
  unfold opRoceTimeout
  rw [h]
  exact (if_neg (by simp [hs, hk, ht])).trans (if_pos h8)

theorem opRoceTimeout_resends (h8 : o.tries < 8) {x : NetOut} {xs : List NetOut} (hx : pairOuts s o.conn o.cres = x :: xs) :
    opRoceTimeout k s = goBack s o.conn o.cres x.psn.toNat := by
  unfold opRoceTimeout
  rw [h]
  dsimp only
  rw [if_neg (by simp [hs, hk, ht]), if_neg (Nat.not_le.mpr h8), hx]
end
end

theorem opAckTimer_none (h : (connOf s k).ackAt = none) : opAckTimer k s = s := by
  unfold opAckTimer
  rw [h]

theorem opAckTimer_of {t : Nat} (h : (connOf s k).ackAt = some t) : opAckTimer k s = if 200 ≤ s.now - t then sendAck s k else s := by
  unfold opAckTimer
  rw [h]

theorem opRateRaise_none (h : (rateOf s k).limit = none) : opRateRaise k s = s := by
  unfold opRateRaise
  dsimp only
  rw [h]

theorem opRateRaise_of {l : Nat} (h : (rateOf s k).limit = some l) : opRateRaise k s =
    if s.now - (rateOf s k).noted < 5000 then s
    else
      let m := l + getF s F.PRT_CST_CFG_RATE_STEP 0 * 1000000000
      setRate s k { rateOf s k with limit := if lineRate s ≤ m then none else some m, noted := s.now } := by
  unfold opRateRaise
  dsimp only
  rw [h]
end

/-- Settles O43, clause by clause. -/
theorem edgePortsAndConnections : Obligations.EdgePortsAndConnections := by
  unfold Obligations.EdgePortsAndConnections
  refine ⟨fun p s => ⟨fun h e => congrArg Host.Outcome.next (opPortTraining_idle h), fun hm hu => ⟨congrArg Host.Outcome.next (opPortTraining_noMode hm hu),
      congrArg Host.Outcome.next (opPortTraining_testFail hm hu), congrArg Host.Outcome.next (opPortTraining_up hm hu)⟩,
    fun h => ⟨fun n lock => congrArg Host.Outcome.next (opPortDown_down h), fun on off => congrArg Host.Outcome.next (opPfc_down h),
      fun v6 a => congrArg Host.Outcome.next (opArp_down h)⟩,
    fun hu => ⟨fun n lock => ?_, fun on off => congrArg Host.Outcome.next (opPfc_up hu), fun v6 a => ?_⟩⟩,
    fun k s => ⟨fun h => ⟨congrArg Host.Outcome.next (opRto_none h), congrArg Host.Outcome.next (opRoceTimeout_none h)⟩, fun o h => ?_,
      fun h => congrArg Host.Outcome.next (opAckTimer_none h), fun t h => ⟨fun ht =>
        congrArg Host.Outcome.next ((opAckTimer_of h).trans (if_neg (Nat.not_le.mpr ht))),
        fun ht => congrArg Host.Outcome.next ((opAckTimer_of h).trans (if_pos ht))⟩,
      fun h => congrArg Host.Outcome.next (opRateRaise_none h), fun l h => ⟨fun ht => congrArg Host.Outcome.next ((opRateRaise_of h).trans (if_pos ht)),
        fun ht => congrArg Host.Outcome.next ((opRateRaise_of h).trans (if_neg (Nat.not_lt.mpr ht)))⟩⟩,
    fun v s => ⟨fun h => congrArg Host.Outcome.next (if_pos h), fun h => congrArg Host.Outcome.next (if_pos h),
      fun h => congrArg Host.Outcome.next (if_neg h), fun h => congrArg Host.Outcome.next (if_neg h)⟩, fun s => rfl⟩
  · intro y
    exact ⟨fun h => congrArg Host.Outcome.next (opPortDown_loses hu rfl h), fun hl hn => congrArg Host.Outcome.next (opPortDown_counts hu rfl hl hn)⟩
  · intro own
    exact ⟨fun h0 ha => congrArg Host.Outcome.next (opArp_answers hu h0 ha), fun h => congrArg Host.Outcome.next (opArp_other h)⟩
  · intro kind
    refine ⟨fun hd => congrArg Host.Outcome.next (opRto_early h hd), fun hs hk ht =>
      ⟨fun hr => congrArg Host.Outcome.next ((opRto_due h hs hk ht).trans (if_pos hr)),
        fun hr => congrArg Host.Outcome.next ((opRto_due h hs hk ht).trans (if_neg (Nat.not_le.mpr hr)))⟩, ?_⟩
    intro due
    exact ⟨fun hd => congrArg Host.Outcome.next (opRoceTimeout_early h hd), fun hs hk ht =>
      ⟨fun h8 => congrArg Host.Outcome.next (opRoceTimeout_fails h hs hk ht h8),
        fun x xs h8 hx => congrArg Host.Outcome.next (opRoceTimeout_resends h hs hk ht h8 hx)⟩⟩

end Sys2Proof.Machine
end

section
/-! PROOFS. CST and RoCEv2 packets that arrive. -/
namespace Sys2Proof.Machine

/-! ### CST packets -/

section
variable {p : Nat} {k : CstPkt} {s : State} {f : State → State}

/-- The state after the port has told the peer of a packet marked for congestion. -/
def ceTold (s : State) (p : Nat) (k : CstPkt) : State :=
  if k.ce && (connOf s (rxKey k)).state == 1 then tellPeer s p (rateKey (rxKey k) 0) (.cst (cstTo s (rxKey k) 6)) else s

theorem cstIn_down (h : portUp s p = false) : cstIn s p k f = s := by
  unfold cstIn
  exact if_pos (by simp [h])

theorem cstIn_damaged (hu : portUp s p = true) (hg : k.good = false) : cstIn s p k f = countI s F.PRT_EPORT_STAT_BAD 0 p 1 := by
  unfold cstIn
  exact (if_neg (by simp [hu])).trans (if_pos (by simp [hg]))

section
variable (hu : portUp s p = true) (hg : k.good = true)
include hu hg

theorem cstIn_whole : cstIn s p k f = f (ceTold s p k) := by
  unfold cstIn
  exact (if_neg (by simp [hu])).trans (if_neg (by simp [hg]))

variable {x : State} (hx : ceTold s p k = x)
include hx

section
variable (hc : (connOf x (rxKey k)).state = 1)
include hc

theorem opCstAck_open : opCstAck p k s = resumeReads (acked x (rxKey k) (BitVec.ofNat 32 k.ack) k.bitmap) := by
  subst hx
  exact (cstIn_whole hu hg).trans (if_pos hc)

theorem opCnp_open : opCnp p k s = notify x (rateKey (rxKey k) 0) := by
  subst hx
  exact (cstIn_whole hu hg).trans (if_pos hc)
end

section
variable (hc : (connOf x (rxKey k)).state ≠ 1)
include hc

theorem opCstAck_closed : opCstAck p k s = x := by
  subst hx
  exact (cstIn_whole hu hg).trans (if_neg hc)

theorem opCnp_closed : opCnp p k s = x := by
  subst hx
  exact (cstIn_whole hu hg).trans (if_neg hc)
end

theorem opReadResp_closed (hl : ¬((connOf x k.conn).state = 1 ∧ isHop (rxKey k) = false)) : opReadResp p k s = x := by
  have hd : (connOf x k.conn).state ≠ 1 ∨ isHop (rxKey k) = true := by
    by_contra hn
    obtain ⟨h1, h2⟩ := not_or.mp hn
    exact hl ⟨not_not.mp h1, Bool.not_eq_true _ ▸ h2⟩
  subst hx
  exact (cstIn_whole hu hg).trans (if_pos (by simpa using hd))

section
variable (hl : (connOf x k.conn).state = 1 ∧ isHop (rxKey k) = false) {y : State} (hy : acked x k.conn (BitVec.ofNat 32 k.ack) [] = y)
include hl hy

theorem opReadResp_open : opReadResp p k s = match readFor y k with
    | none => countF y F.PRT_ELOG_DISC_LATE_RESP 0 1
    | some o => answerRead y o (expandPayload (connOf y k.conn).form o.len k) := by
  obtain ⟨hs, hh⟩ := hl
  subst hy
  subst hx
  exact (cstIn_whole hu hg).trans (if_neg (by simp [hs, hh]))

theorem opReadResp_late (hr : readFor y k = none) : opReadResp p k s = countF y F.PRT_ELOG_DISC_LATE_RESP 0 1 := by
  rw [opReadResp_open hu hg hx hl hy, hr]

theorem opReadResp_answers {o : NetOut} (hr : readFor y k = some o) :
    opReadResp p k s = answerRead y o (expandPayload (connOf y k.conn).form o.len k) := by
  rw [opReadResp_open hu hg hx hl hy, hr]
end

theorem opCollPkt_ignored (h : k.penn = none ∨ isHop (rxKey k) = false ∨ (connOf x (rxKey k)).state = 2) : opCollPkt p k s = x := by
  subst hx
  refine (cstIn_whole hu hg).trans ?_
  dsimp only
  cases hp : k.penn with
  | none => rfl
  | some b =>
    dsimp only
    rw [hp] at h
    exact if_pos (by simpa using h)

section
variable {b : Penn} (hp : k.penn = some b) (hh : isHop (rxKey k) = true) (hc : (connOf x (rxKey k)).state ≠ 2) {r : Bool × State}
  (hr : recvSeq (acked (modConn x (rxKey k) (fun c => { c with state := 1, peer := k.src })) (rxKey k) (BitVec.ofNat 32 k.ack) [])
    (rxKey k) (BitVec.ofNat 32 k.psn) k.ackreq = r)
include hp hh hc hr

theorem opCollPkt_hop : opCollPkt p k s =
    if r.1 then pfcCheck { r.2 with coll := { r.2.coll with arrived := r.2.coll.arrived ++
      [({ b with payload := k.payload }.onWire, .edge p k.src (BitVec.ofNat 32 k.psn))] } } p else r.2 := by
  subst hr
  subst hx
  refine (cstIn_whole hu hg).trans ?_
  dsimp only
  rw [hp]
  exact if_neg (by simp [hh, hc])
end
end
end

/-! ### RoCEv2 packets -/

section
variable {p : Nat} {k : RocePkt} {s : State} {f : Nat → Nat → State → State}

/-- The packet's queue pair is one of an open RoCEv2 group. -/
def pairLive (s : State) (k : RocePkt) : Prop :=
  0x100 ≤ k.qpn ∧ (pairOf k.qpn).1 < 16384 ∧ (connOf s (pairOf k.qpn).1).state = 1 ∧ (connOf s (pairOf k.qpn).1).kind = 1

/-- The state after the port has told the peer of a packet marked for congestion. -/
def pairTold (s : State) (p : Nat) (k : RocePkt) : State :=
  if k.ce then tellPeer s p (rateKey (pairOf k.qpn).1 (pairOf k.qpn).2)
    (.roce { op := .cnp, dst := (connOf s (pairOf k.qpn).1).peer, qpn := (connOf s (pairOf k.qpn).1).qpns.getD (pairOf k.qpn).2 0 })
  else s

theorem roceIn_down (h : portUp s p = false) : roceIn s p k f = s := by
  unfold roceIn
  exact if_pos (by simp [h])

theorem opRoceInbound_down (h : portUp s p = false) : opRoceInbound p k s = s := by
  unfold opRoceInbound
  exact if_pos (by simp [h])

section
variable (hu : portUp s p = true)
include hu

section
variable (hg : k.good = false)
include hg

theorem roceIn_damaged : roceIn s p k f = countI s F.PRT_EPORT_STAT_BAD 0 p 1 := by
  unfold roceIn
  exact (if_neg (by simp [hu])).trans (if_pos (by simp [hg]))

theorem opRoceInbound_damaged : opRoceInbound p k s = countI s F.PRT_EPORT_STAT_BAD 0 p 1 := by
  unfold opRoceInbound
  exact (if_neg (by simp [hu])).trans (if_pos (by simp [hg]))
end

variable (hg : k.good = true)
include hg

theorem opRoceInbound_whole : opRoceInbound p k s = sendFrame s p 0 (.roce
    { op := .nakAccess, dst := k.src, qpn := (connOf s (pairOf k.qpn).1).qpns.getD (pairOf k.qpn).2 0, psn := k.psn }) := by
  unfold opRoceInbound
  exact (if_neg (by simp [hu])).trans (if_neg (by simp [hg]))

theorem roceIn_other (hl : ¬pairLive s k) : roceIn s p k f = s := by
  unfold roceIn
  refine (if_neg (by simp [hu])).trans ((if_neg (by simp [hg])).trans (if_pos ?_))
  by_contra hc
  refine hl ?_
  unfold pairLive
  simpa [and_assoc] using hc

theorem roceIn_live (hl : pairLive s k) : roceIn s p k f = f (pairOf k.qpn).1 (pairOf k.qpn).2 (pairTold s p k) := by
  obtain ⟨hq, hn, hs, hk⟩ := hl
  unfold roceIn
  exact (if_neg (by simp [hu])).trans ((if_neg (by simp [hg])).trans (if_neg (by simp [hs, hk, hq, hn])))

section
variable (hl : pairLive s k) {x : State} (hx : pairTold s p k = x)
include hl hx

theorem opRoceResponse_cnp (hk : k.kind = .cnp) : opRoceResponse p k s = notify x (rateKey (pairOf k.qpn).1 (pairOf k.qpn).2) := by
  unfold opRoceResponse
  rw [roceIn_live hu hg hl, hx]
  dsimp only
  rw [hk]

theorem opRoceResponse_nak {code : Nat} (hk : k.kind = .nak code) : opRoceResponse p k s =
    if code = 0 then goBack x (pairOf k.qpn).1 (pairOf k.qpn).2 k.psn else failConn x (pairOf k.qpn).1 (if code = 2 then 2 else 1) code := by
  unfold opRoceResponse
  rw [roceIn_live hu hg hl, hx]
  dsimp only
  rw [hk]

section
variable {y : State} (hy : roceAcked x (pairOf k.qpn).1 (pairOf k.qpn).2 k.psn = y)
include hy

theorem opRoceResponse_ack (hk : k.kind = .ack) :
    opRoceResponse p k s = retryOuts (resumeReads y) ((resumeReads y).net.outst.length + 1) := by
  unfold opRoceResponse
  rw [roceIn_live hu hg hl, hx]
  dsimp only
  rw [hk]
  dsimp only
  rw [hy]

/-- The packet is a read. -/
def isRead (o : NetOut) : Bool := match o.kind with | .read => true | _ => false

/-- The outstanding read that read data answers. -/
def pairRead (y : State) (k : RocePkt) : Option NetOut :=
  (pairOuts y (pairOf k.qpn).1 (pairOf k.qpn).2).find? (fun o => o.psn.toNat == k.psn && isRead o)

theorem opRoceResponse_late (hk : k.kind = .readData) (hr : pairRead y k = none) :
    opRoceResponse p k s = countF y F.PRT_ELOG_DISC_LATE_RESP 0 1 := by
  unfold opRoceResponse
  rw [roceIn_live hu hg hl, hx]
  dsimp only
  rw [hk]
  dsimp only
  rw [hy]
  split
  · next o ho => cases ho.symm.trans hr
  · rfl

theorem opRoceResponse_answers (hk : k.kind = .readData) {o : NetOut} (hr : pairRead y k = some o) :
    opRoceResponse p k s = answerRead y o (if k.payload.length = o.len then some k.payload else none) := by
  unfold opRoceResponse
  rw [roceIn_live hu hg hl, hx]
  dsimp only
  rw [hk]
  dsimp only
  rw [hy]
  split
  · next o' ho =>
      cases ho.symm.trans hr
      rfl
  · next ho => cases ho.symm.trans hr
end
end
end
end

/-- Settles O44, packet by packet. -/
theorem packetsArrive : Obligations.PacketsArrive := by
  unfold Obligations.PacketsArrive
  refine ⟨fun p k s i hi => ?_, fun p k s hu hg => ?_, fun p k s => ⟨fun h => ⟨congrArg Host.Outcome.next (roceIn_down h),
    congrArg Host.Outcome.next (opRoceInbound_down h)⟩, fun hu hg => ⟨congrArg Host.Outcome.next (roceIn_damaged hu hg),
    congrArg Host.Outcome.next (opRoceInbound_damaged hu hg)⟩, fun hu hg => ?_⟩⟩
  · simp only [List.mem_cons, List.not_mem_nil, or_false] at hi
    rcases hi with rfl | rfl | rfl | rfl | rfl | rfl | rfl <;>
      exact ⟨fun h => congrArg Host.Outcome.next (cstIn_down h), fun hu hg => congrArg Host.Outcome.next (cstIn_damaged hu hg)⟩
  · intro n x nak2
    have hx : ceTold s p k = x := rfl
    refine ⟨congrArg Host.Outcome.next (cstIn_whole hu hg), congrArg Host.Outcome.next (cstIn_whole hu hg), congrArg Host.Outcome.next (cstIn_whole hu hg),
      fun hc => ⟨congrArg Host.Outcome.next (opCstAck_open hu hg hx hc), congrArg Host.Outcome.next (opCnp_open hu hg hx hc)⟩,
      fun hc => ⟨congrArg Host.Outcome.next (opCstAck_closed hu hg hx hc), congrArg Host.Outcome.next (opCnp_closed hu hg hx hc)⟩, ?_,
      fun h => congrArg Host.Outcome.next (opCollPkt_ignored hu hg hx h), fun b hp hh hc => ?_⟩
    · intro y live'
      exact ⟨fun hl => congrArg Host.Outcome.next (opReadResp_closed hu hg hx hl), fun hl hr => congrArg Host.Outcome.next (opReadResp_late hu hg hx hl rfl hr),
        fun o hl hr => congrArg Host.Outcome.next (opReadResp_answers hu hg hx hl rfl hr)⟩
    · intro y r
      exact ⟨fun hr => congrArg Host.Outcome.next ((opCollPkt_hop hu hg hx hp hh hc rfl).trans (if_pos hr)),
        fun hr => congrArg Host.Outcome.next ((opCollPkt_hop hu hg hx hp hh hc rfl).trans (if_neg (Bool.eq_false_iff.mp hr)))⟩
  · intro n c live' x y hit
    have hx : pairTold s p k = x := rfl
    refine ⟨congrArg Host.Outcome.next (opRoceInbound_whole hu hg), fun hl => congrArg Host.Outcome.next (roceIn_other hu hg hl), fun hl => ?_⟩
    exact ⟨fun hk => congrArg Host.Outcome.next (opRoceResponse_cnp hu hg hl hx hk),
      fun hk => congrArg Host.Outcome.next ((opRoceResponse_nak hu hg hl hx hk).trans (if_pos rfl)),
      fun code hk h0 => congrArg Host.Outcome.next ((opRoceResponse_nak hu hg hl hx hk).trans (if_neg h0)),
      fun hk => congrArg Host.Outcome.next (opRoceResponse_ack hu hg hl hx rfl hk),
      fun hk hr => congrArg Host.Outcome.next (opRoceResponse_late hu hg hl hx rfl hk hr),
      fun o hk hr => congrArg Host.Outcome.next (opRoceResponse_answers hu hg hl hx rfl hk hr)⟩

end Sys2Proof.Machine
end

section
/-! PROOFS. Surface ports. -/
namespace Sys2Proof.Machine

/-! ### Packets -/

section
variable {f k : Nat} {x : SurfPkt} {s : State}

theorem opSurfaceReceive_down (h : subActive s f k = false) : opSurfaceReceive f k x s = s := by
  unfold opSurfaceReceive
  exact if_pos (by simp [h])

section
variable (hu : subActive s f k = true)
include hu

theorem opSurfaceReceive_damaged (hg : x.good = false) :
    opSurfaceReceive f k x s = countLink (countF s F.OPT_ERR_REPLAYS f 1) (32 + f) 0 1 := by
  unfold opSurfaceReceive
  exact (if_neg (by simp [hu])).trans (if_pos (by simp [hg]))

variable (hg : x.good = true) {y : State} (hy : (if x.credits = 0 then s else returnCredits s f k (x.credClass % 3) x.credits) = y)
include hg hy

/-- The field that a packet is for: the partner's when it came over the detour. -/
def ownField (f : Nat) (x : SurfPkt) : Nat := if x.detour then f ^^^ 1 else f

theorem opSurfaceReceive_data (hk : x.kind = 1) : opSurfaceReceive f k x s =
    if getI (creditFlit y f k 2) F.OPT_BIND_VALID_RX (ownField f x) x.bind = 0 || x.bind / 2 ≠ k then countF (creditFlit y f k 2) F.OPT_ERR_BIND f 1
    else landStream (creditFlit y f k 2) (ownField f x) x.bind x := by
  unfold opSurfaceReceive
  rw [if_neg (by simp [hu]), if_neg (by simp [hg]), hy]
  dsimp only
  rw [hk] <;> rfl

theorem opSurfaceReceive_unbound (hk : x.kind = 1)
    (h : getI (creditFlit y f k 2) F.OPT_BIND_VALID_RX (ownField f x) x.bind = 0 ∨ x.bind / 2 ≠ k) :
    opSurfaceReceive f k x s = countF (creditFlit y f k 2) F.OPT_ERR_BIND f 1 :=
  (opSurfaceReceive_data hu hg hy hk).trans (if_pos (by simpa using h))

theorem opSurfaceReceive_lands (hk : x.kind = 1)
    (h0 : getI (creditFlit y f k 2) F.OPT_BIND_VALID_RX (ownField f x) x.bind ≠ 0) (hb : x.bind / 2 = k) :
    opSurfaceReceive f k x s = landStream (creditFlit y f k 2) (ownField f x) x.bind x :=
  (opSurfaceReceive_data hu hg hy hk).trans (if_neg (by simp [h0, hb]))

theorem opSurfaceReceive_credit (hk : x.kind = 4) :
    opSurfaceReceive f k x s = landingCredit (creditFlit y f k 0) (ownField f x) k x := by
  unfold opSurfaceReceive
  rw [if_neg (by simp [hu]), if_neg (by simp [hg]), hy]
  dsimp only
  rw [hk] <;> rfl

theorem opSurfaceReceive_pennant (hk : x.kind = 2 ∨ x.kind = 3) {p : Penn} (hp : x.penn = some p) : opSurfaceReceive f k x s =
    { y with coll := { y.coll with arrived := y.coll.arrived ++ [({ p with payload := x.payload }.onWire, .surface f k)] } } := by
  unfold opSurfaceReceive
  rw [if_neg (by simp [hu]), if_neg (by simp [hg]), hy]
  dsimp only
  rcases hk with hk | hk <;> rw [hk, hp] <;> rfl

theorem opSurfaceReceive_empty (hk : x.kind = 2 ∨ x.kind = 3) (hp : x.penn = none) : opSurfaceReceive f k x s = y := by
  unfold opSurfaceReceive
  rw [if_neg (by simp [hu]), if_neg (by simp [hg]), hy]
  dsimp only
  rcases hk with hk | hk <;> rw [hk, hp] <;> rfl
end
end

/-! ### Landed transfers -/

section
variable {f j : Nat} {s : State}

theorem opRxInject_empty (h : (bindOf s f j).rx = [] ∨ gateway s f (j / 2) = none) : opRxInject f j s = s := by
  unfold opRxInject
  dsimp only
  rcases h with h | h
  · rw [h]
  · rw [h]
    cases (bindOf s f j).rx <;> rfl

/-- The transfer is whole, the binding receives, and its tile has room. -/
def mayInject (s : State) (f j g : Nat) (x : Slot) : Prop :=
  getI s F.OPT_BIND_VALID_RX f j = 1 ∧ x.whole = true ∧ (getD (tileOf s g).e (14 + j % 2) 0 - ((bindOf s f j).landed + 1)).toNat < 2 ^ 31

section
variable {x : Slot} {rest : List Slot} {g : Nat} (hx : (bindOf s f j).rx = x :: rest) (hg : gateway s f (j / 2) = some g)
include hx hg

theorem opRxInject_waits (h : ¬mayInject s f j g x) : opRxInject f j s = s := by
  unfold opRxInject
  dsimp only
  rw [hx, hg]
  exact if_neg (by simpa [mayInject, and_assoc] using h)

theorem opRxInject_injects (h : mayInject s f j g x) : opRxInject f j s =
    let str := getI s F.OPT_BIND_RX_STREAM f j
    let y := x.inOrder.foldl (fun t z => inject t g
      { typ := tyStream, cls := getI s F.TIL_ROUTE_CLASS g str, routed := false, last := z.2.1, stream := str, addr := z.1, tag := x.tseq, payload := z.2.2 }) s
    sendSurf (setBind y f j { bindOf s f j with rx := rest, landed := (bindOf s f j).landed + 1 }) f (j / 2) { kind := 4, bind := j, tseq := x.tseq } := by
  unfold opRxInject
  dsimp only
  rw [hx, hg]
  exact if_pos (by simpa [mayInject, and_assoc] using h)
end
end

/-! ### Sublinks and return loss -/

section
variable {f k : Nat} {e : TrainEnd} {x : PeerId} {s : State}

theorem opSubTraining_idle (h : subActive s f k = true ∨ inService s f = false) : opSubTraining f k e x s = s := by
  unfold opSubTraining
  exact if_pos (by simpa using h)

theorem opSubTraining_noMode (ha : subActive s f k = false) (hs : inService s f = true) : opSubTraining f k .noMode x s = s :=
  if_neg (by simp [ha, hs])

theorem opSubTraining_testFail (ha : subActive s f k = false) (hs : inService s f = true) :
    opSubTraining f k .testFail x s = sendRec s (.field f) 0 0x3402 (f + k * 2 ^ 8 + 2 ^ 30) (rdReg s .OPT_PEER f k).toNat :=
  if_neg (by simp [ha, hs])

theorem opSubTraining_up (ha : subActive s f k = false) (hs : inService s f = true) : opSubTraining f k .up x s =
    let a := setI (setI s F.OPT_SUB_STATE f k 4) F.OPT_SUB_HALF f k (if x.half then 1 else 0)
    let b := cabling (wrReg (setI (setI a F.OPT_SUB_PEER_PORT f k x.port) F.OPT_SUB_PEER_SUB f k x.sub) .OPT_PEER f k x.unitId) f k
    let c := if (subOf s f k).wasLost then sendRec b (.field f) 0 0x3402 (f + k * 2 ^ 8 + 2 ^ 31) x.unitId.toNat else b
    let d := setSub c f k { subOf c f k with used := [0, 0, 0], out := [], wasLost := false }
    let d := { d with net := { d.net with measureDue := put d.net.measureDue f true false } }
    let g := flushSub (showDetour (showDetour d f k) (f ^^^ 1) k) f k
    let h := if getI g F.OPT_SUB_DETOUR (f ^^^ 1) k = 1 then flushSub g (f ^^^ 1) k else g
    portResetDone (portCheck h f) 1 f := by
  unfold opSubTraining
  exact if_neg (by simp [ha, hs])

/-- A measurement of the field's fibres is due. -/
def measureDueOf (s : State) (f : Nat) : Prop :=
  getD s.net.measureDue f false = true ∨
    (getF s F.OPT_RL_CFG_PERIOD f ≠ 0 ∧ getF s F.OPT_RL_CFG_PERIOD f * 100000000 ≤ s.now - getD s.net.measuredAt f 0)

theorem opReturnLoss_off {m : List FibreRead} (h : inService s f = false) : opReturnLoss f m s = s := by
  unfold opReturnLoss
  exact if_neg (by simp [h])

theorem opReturnLoss_due {m : List FibreRead} (h : inService s f = true) (hd : measureDueOf s f) : opReturnLoss f m s = measure f m s := by
  unfold opReturnLoss
  exact if_pos (by simpa [h, measureDueOf] using hd)

theorem opReturnLoss_early {m : List FibreRead} (h : inService s f = true) (hd : ¬measureDueOf s f) : opReturnLoss f m s = s := by
  unfold opReturnLoss
  exact if_neg (by simpa [h, measureDueOf] using hd)
end

/-- Settles O45, clause by clause. -/
theorem surfacePorts : Obligations.SurfacePorts := by
  unfold Obligations.SurfacePorts
  refine ⟨fun f k x s => ⟨fun h => congrArg Host.Outcome.next (opSurfaceReceive_down h), fun hu hg => congrArg Host.Outcome.next (opSurfaceReceive_damaged hu hg),
      fun hu hg => ?_⟩,
    fun f j s => ⟨fun h => congrArg Host.Outcome.next (opRxInject_empty h), fun x rest g hx hg =>
      ⟨fun h => congrArg Host.Outcome.next (opRxInject_injects hx hg h), fun h => congrArg Host.Outcome.next (opRxInject_waits hx hg h)⟩⟩,
    fun f k e x s => ⟨fun h => congrArg Host.Outcome.next (if_pos h), fun h => congrArg Host.Outcome.next (if_neg h),
      fun h => congrArg Host.Outcome.next (opSubTraining_idle h), fun ha hs => ⟨congrArg Host.Outcome.next (opSubTraining_noMode ha hs),
        congrArg Host.Outcome.next (opSubTraining_testFail ha hs), congrArg Host.Outcome.next (opSubTraining_up ha hs)⟩⟩,
    fun f m s => ⟨fun h => ⟨congrArg Host.Outcome.next (opReturnLoss_off h), congrArg Host.Outcome.next (if_neg (by simp [h]))⟩,
      fun h => ⟨congrArg Host.Outcome.next (if_pos h), fun hd => congrArg Host.Outcome.next (opReturnLoss_due h hd),
        fun hd => congrArg Host.Outcome.next (opReturnLoss_early h hd)⟩⟩⟩
  intro y own
  have hy : (if x.credits = 0 then s else returnCredits s f k (x.credClass % 3) x.credits) = y := rfl
  exact ⟨fun hk => ⟨fun h => congrArg Host.Outcome.next (opSurfaceReceive_unbound hu hg hy hk h),
      fun h0 hb => congrArg Host.Outcome.next (opSurfaceReceive_lands hu hg hy hk h0 hb)⟩,
    fun hk => congrArg Host.Outcome.next (opSurfaceReceive_credit hu hg hy hk),
    fun p hk hp => congrArg Host.Outcome.next (opSurfaceReceive_pennant hu hg hy hk hp),
    fun hk hp => congrArg Host.Outcome.next (opSurfaceReceive_empty hu hg hy hk hp)⟩

end Sys2Proof.Machine
end

section
/-! PROOFS. The power controller. -/
namespace Sys2Proof.Machine

section
variable {s : State}

/-! ### Samples -/

theorem takeStack_cools {n : Nat} {t : BitVec 16} (h : t.toInt < 1050) : takeStack n t s =
    let m := insert s.power.stackTj n t
    let top := (m.map (fun x => x.2.toInt)).foldl max t.toInt
    let x := hold (setF { s with power := { s.power with stackTj := m } } F.PWR_COOL_STACK_MAX 0 (BitVec.ofInt 16 top).toNat) (cStack n) (decide (t.toInt < 900))
    let slow := (getD x.power.stackSlow n false || decide (950 ≤ t.toInt)) && !heldFor x (cStack n) 10000000
    { x with power := { x.power with stackSlow := put x.power.stackSlow n slow false } } := by
  unfold takeStack
  exact if_neg (by simpa using h)

theorem takeStack_stops {n : Nat} {t : BitVec 16} (h : 1050 ≤ t.toInt) : takeStack n t s =
    let m := insert s.power.stackTj n t
    let top := (m.map (fun x => x.2.toInt)).foldl max t.toInt
    let x := hold (setF { s with power := { s.power with stackTj := m } } F.PWR_COOL_STACK_MAX 0 (BitVec.ofInt 16 top).toNat) (cStack n) (decide (t.toInt < 900))
    let slow := (getD x.power.stackSlow n false || decide (950 ≤ t.toInt)) && !heldFor x (cStack n) 10000000
    due { x with power := { x.power with stackSlow := put x.power.stackSlow n slow false } } 2 := by
  unfold takeStack
  exact if_pos (by simpa using h)

/-- The state after an input sample, before a stop for two low ones. -/
def inputShown (v : Nat) (s : State) : State :=
  let p := s.power
  let a := sample { s with power :=
    { p with vin := v, vins := ((v :: p.vins.reverse).take 64).reverse, low := if v < 52000 then p.low + 1 else 0, highTold := p.highTold && (70000 < v && v ≤ 72000) } } 0 v
  let b := sample (setF a.2 F.PWR_IN_VIN 0 a.1) 1 (bladeSum (setF a.2 F.PWR_IN_VIN 0 a.1))
  let c := sample (setF b.2 F.PWR_IN_IIN 0 b.1) 2 (inputPower (setF b.2 F.PWR_IN_IIN 0 b.1))
  let x := setF c.2 F.PWR_IN_PIN 0 c.1
  let y := watchSupply (hold (hold (hold x cHigh (70000 < v && v ≤ 72000)) cOver (72000 < v)) cStart (56000 ≤ v))
  let z := if heldFor y cHigh 100000 && !y.power.highTold then sendRec { y with power := { y.power with highTold := true } } .power 0 0x3002 0 v else y
  if heldFor z cOver 1000 then due z 3 else z

theorem takeInput_eq (v : Nat) (s : State) : takeInput v s = if 2 ≤ (inputShown v s).power.low then due (inputShown v s) 0 else inputShown v s := rfl

/-! ### Stages, heat and coolant -/

theorem opStage_stays (h : nextStage s = getF s F.PWR_IN_STAGE 0 ∨ s.power.on = false) : opStage s = s := by
  unfold opStage
  exact if_pos (by simpa using h)

theorem opStage_changes (hn : nextStage s ≠ getF s F.PWR_IN_STAGE 0) (ho : s.power.on = true) : opStage s =
    let c := getF s F.PWR_IN_STAGE 0
    let n := nextStage s
    let cause := if n < c then s.power.stageCause else (stageCauses s).idxOf true % 3
    let x := setF s F.PWR_IN_STAGE 0 n
    let y := { x with power := { x.power with stageAt := x.now, stageCause := cause,
                                              stretch := x.power.stretch ++ (List.range 6).map (fun g => (x.now + 200 * (g + 1), g, n)) } }
    sendRec y .power 0 0x3000 (n + c * 4 + cause * 16) (y.power.vin % 65536 + inputPower y * 65536) := by
  unfold opStage
  exact if_neg (by simp [hn, ho])

theorem opHeatRestore_restores {f : Nat} (h : getD s.power.heat f false = true ∧ heldFor s (cCool f) 10000000 = true) : opHeatRestore f s =
    sendRec (showHalved { s with power := { s.power with heat := erase s.power.heat f } } f) .power 0 0x3001 (f + 2 ^ 31)
      ((BitVec.ofInt 16 ((tjOf s f).getD 0)).toNat) := by
  unfold opHeatRestore
  exact if_pos (by simpa using h)

theorem opHeatRestore_waits {f : Nat} (h : ¬(getD s.power.heat f false = true ∧ heldFor s (cCool f) 10000000 = true)) : opHeatRestore f s = s := by
  unfold opHeatRestore
  exact if_neg (by simpa using h)

/-- The words of the coolant's record: which limits are passed, and its readings. -/
def coolantBits (s : State) : Nat := (if inletHigh s then 1 else 0) + (if flowLow s then 2 else 0)
def coolantRead (s : State) : Nat := getF s F.PWR_COOL_INLET 0 + getF s F.PWR_COOL_FLOW 0 * 65536

section
variable (ht : s.power.coolTold = false)
include ht

theorem opCoolant_leaves (hh : heldFor s cOut second = true) :
    opCoolant s = sendRec { s with power := { s.power with coolTold := true } } .power 0 0x3005 (coolantBits s) (coolantRead s) := by
  unfold opCoolant
  exact if_pos (by simp [ht, hh])

theorem opCoolant_within (hh : heldFor s cOut second = false) : opCoolant s = s := by
  unfold opCoolant
  exact (if_neg (by simp [hh])).trans (if_neg (by simp [ht]))
end

section
variable (ht : s.power.coolTold = true)
include ht

theorem opCoolant_returns (hh : heldFor s cIn (10 * second) = true) :
    opCoolant s = sendRec { s with power := { s.power with coolTold := false } } .power 0 0x3005 (2 ^ 31) (coolantRead s) := by
  unfold opCoolant
  exact (if_neg (by simp [ht])).trans (if_pos (by simp [ht, hh]))

theorem opCoolant_outside (hh : heldFor s cIn (10 * second) = false) : opCoolant s = s := by
  unfold opCoolant
  exact (if_neg (by simp [ht])).trans (if_neg (by simp [hh]))
end

/-! ### Last breath -/

theorem opLastBreath_none {ok : Bool} (h : s.power.stop = none) : opLastBreath ok s = s := by
  unfold opLastBreath
  rw [h]

theorem opLastBreath_stops {ok : Bool} {c : Nat} (h : s.power.stop = some c) :
    opLastBreath ok s = dark { s with power := { s.power with flash := flashAtStop s c ok } } := by
  unfold opLastBreath
  rw [h]
end

/-- Settles O46, clause by clause. -/
theorem powerController : Obligations.PowerController := by
  unfold Obligations.PowerController
  refine ⟨fun v s => ?_, fun b i s => rfl, fun f v i s => rfl, fun f q s => rfl, fun c k t s => ?_, fun a b q s => rfl, fun s => ?_,
    fun f s => ?_, fun s => ?_, fun ok s => ⟨fun h => congrArg Host.Outcome.next (opLastBreath_none h), fun c h => congrArg Host.Outcome.next (opLastBreath_stops h)⟩⟩
  · exact ⟨fun h => congrArg Host.Outcome.next ((takeInput_eq v s).trans (if_pos h)),
      fun h => congrArg Host.Outcome.next ((takeInput_eq v s).trans (if_neg (Nat.not_le.mpr h)))⟩
  · exact ⟨fun h => congrArg Host.Outcome.next (takeStack_stops h), fun h => congrArg Host.Outcome.next (takeStack_cools h)⟩
  · intro c n cause x y
    exact ⟨fun h => congrArg Host.Outcome.next (opStage_stays h), fun hn ho => congrArg Host.Outcome.next (opStage_changes hn ho)⟩
  · intro may
    exact ⟨fun h => congrArg Host.Outcome.next (opHeatRestore_restores h), fun h => congrArg Host.Outcome.next (opHeatRestore_waits h)⟩
  · intro d1 bits
    exact ⟨fun ht hh => congrArg Host.Outcome.next (opCoolant_leaves ht hh), fun ht hh => congrArg Host.Outcome.next (opCoolant_returns ht hh),
      fun ht hh => congrArg Host.Outcome.next (opCoolant_within ht hh), fun ht hh => congrArg Host.Outcome.next (opCoolant_outside ht hh)⟩

end Sys2Proof.Machine
end

section
/-! PROOFS. Wear gauges, plans and the ledger. -/
namespace Sys2Proof.Machine

section
variable {f : Nat} {s : State}

/-! ### A field that is not in service -/

section
variable (h : inService s f = false)
include h

theorem opGauge_off {m : List Nat} : opGauge f m s = s := by
  unfold opGauge
  exact if_pos (by simp [h])

theorem opPlan_off : opPlan f s = s := by
  unfold opPlan
  exact if_neg (by simp [h])

theorem opFirstPlan_off : opFirstPlan f s = s := by
  unfold opFirstPlan
  exact if_pos (by simp [h])

theorem opBand_off : opBand f s = s := by
  unfold opBand
  exact if_pos (by simp [h])
end

/-! ### Gauges, plans and the thermal count of a field in service -/

section
variable (h : inService s f = true)
include h

theorem opGauge_sweeps {m : List Nat} : opGauge f m s =
    let x := (List.range 16).foldl (sweepGauge f m) s
    setF x F.PWR_FLD_PLAN_GOOD_GAUGES f ((List.range 16).filter (fun g => getI x F.PWR_GAUGE_GOOD f g == 1)).length := by
  unfold opGauge
  exact if_neg (by simp [h])

/-- A plan is due. -/
def planDue (s : State) (f : Nat) : Prop := getD s.power.ready f false = true ∧ 600 * second ≤ s.now - getD s.power.plannedAt f 0

theorem opPlan_plans (hd : planDue s f) : opPlan f s = planStep s f (getF s F.PWR_FLD_PLAN_V_PLAN f) := by
  unfold opPlan
  exact if_pos (by simpa [h, planDue] using hd)

theorem opPlan_waits (hd : ¬planDue s f) : opPlan f s = s := by
  unfold opPlan
  exact if_neg (by simpa [h, planDue] using hd)

/-- A step of the first plan is due. -/
def firstPlanDue (s : State) (f : Nat) : Prop :=
  getF s F.GLB_START_STAT_FRAME 0 ≠ 0 ∧ getD s.power.ready f false = false ∧ 100000 ≤ s.now - getD s.power.plannedAt f 0

theorem opFirstPlan_waits (hd : ¬firstPlanDue s f) : opFirstPlan f s = s := by
  unfold opFirstPlan
  refine if_pos ?_
  by_contra hc
  exact hd (by simpa [h, firstPlanDue, and_assoc] using hc)

/-- The field after step `n` of the first plan, whose voltage and margin `x` shows. -/
def firstPlanned (x : State) (f n : Nat) : State :=
  let v := getF x F.PWR_FLD_PLAN_V_PLAN f
  let m := marginOf x f
  let inBand := decide ((getF x F.PWR_CFG_M_LO 0 : Int) ≤ m ∧ m ≤ getF x F.PWR_CFG_M_HI 0)
  let cool := match tjOf x f with | some t => decide (t < 900) | none => true
  let ready := (inBand || v = 660 || v = 850 || 40 ≤ n + 1) && cool
  let bad := ready && v = 850 && decide (m < (getF x F.PWR_CFG_M_CRIT 0 : Int))
  { x with power := { x.power with
    steps := put x.power.steps f (n + 1) 0, ready := put x.power.ready f ready false, failed := put x.power.failed f bad false } }

theorem opFirstPlan_steps (hd : firstPlanDue s f) : opFirstPlan f s =
    firstPlanned (planStep s f (if getD s.power.steps f 0 = 0 then firstVoltage s f else getF s F.PWR_FLD_PLAN_V_PLAN f)) f (getD s.power.steps f 0) := by
  obtain ⟨hf, hr, ht⟩ := hd
  unfold opFirstPlan
  exact if_neg (by simp [h, hf, hr, ht])

theorem opBand_early (ht : s.now - getD s.power.countedAt f (getD s.fieldStart f 0) < second) : opBand f s = s := by
  unfold opBand
  exact if_pos (by simp [ht])

theorem opBand_unread (hj : tjOf s f = none) : opBand f s = s := by
  unfold opBand
  dsimp only
  rw [hj]
  exact ite_self _

theorem opBand_counts {t : Int} (ht : second ≤ s.now - getD s.power.countedAt f (getD s.fieldStart f 0)) (hj : tjOf s f = some t) : opBand f s =
    let m := meanTj s (List.range 48)
    let cold := decide (m.1 < 400 * m.2)
    let hot := decide (700 * (m.2 : Int) < m.1)
    let k := 8 * f + bandOf t
    let p := s.power
    { s with power := { p with
      countedAt := insert p.countedAt f (getD s.power.countedAt f (getD s.fieldStart f 0) + second), wasCold := (p.wasCold || cold) && !hot,
      ledger := { p.ledger with bands := put p.ledger.bands k (getD p.ledger.bands k 0 + 1) 0,
                                cycles := p.ledger.cycles + (if p.wasCold && hot then 1 else 0) } } } := by
  unfold opBand
  dsimp only
  rw [hj]
  exact if_neg (by simp [h, ht])
end

/-! ### Snapshots -/

/-- A snapshot is to be written. -/
def snapAsked (s : State) : Prop := s.power.on = true ∧ (s.power.snapDue ≠ none ∨ 3600 * second ≤ s.now - s.power.snapAt)

theorem opSnap_not {ok : Bool} (h : ¬snapAsked s) : opSnap ok s = s := by
  have hd : s.power.on = false ∨ s.power.snapDue = none ∧ ¬3600 * second ≤ s.now - s.power.snapAt := by
    by_contra hc
    obtain ⟨h1, h2⟩ := not_or.mp hc
    exact h ⟨Bool.not_eq_false _ ▸ h1, by tauto⟩
  unfold opSnap
  exact if_pos (by simpa using hd)

theorem opSnap_asked {ok : Bool} (h : snapAsked s) : opSnap ok s =
    if ok then writeSnap s (s.power.snapDue.getD 0)
    else setF { s with power := { s.power with snapDue := none, snapAt := s.now } } F.LIF_SNAP_FAILED 0 1 := by
  obtain ⟨ho, hd⟩ := h
  unfold opSnap
  refine if_neg ?_
  rcases hd with hd | hd
  · simp [ho, hd]
  · simp [ho, hd]
end

/-- Settles O47, clause by clause. -/
theorem wearAndLedger : Obligations.WearAndLedger := by
  unfold Obligations.WearAndLedger
  refine ⟨fun f s => ⟨fun h => ⟨fun m => congrArg Host.Outcome.next (opGauge_off h), congrArg Host.Outcome.next (opPlan_off h),
      congrArg Host.Outcome.next (opFirstPlan_off h), congrArg Host.Outcome.next (opBand_off h)⟩, fun h => ⟨?_, ?_, ?_, ?_⟩⟩,
    fun ok s => ⟨fun h => congrArg Host.Outcome.next (opSnap_not h), fun h => congrArg Host.Outcome.next (opSnap_asked h),
      fun h => congrArg Host.Outcome.next (opSnap_asked h)⟩, fun s => rfl, fun v s => rfl⟩
  · exact fun m => congrArg Host.Outcome.next (opGauge_sweeps h)
  · exact ⟨fun hd => congrArg Host.Outcome.next (opPlan_plans h hd), fun hd => congrArg Host.Outcome.next (opPlan_waits h hd)⟩
  · exact ⟨fun hd => congrArg Host.Outcome.next (opFirstPlan_waits h hd), fun hd => congrArg Host.Outcome.next (opFirstPlan_steps h hd)⟩
  · exact ⟨fun ht => congrArg Host.Outcome.next (opBand_early h ht), fun hj => congrArg Host.Outcome.next (opBand_unread h hj),
      fun t ht hj => congrArg Host.Outcome.next (opBand_counts h ht hj)⟩

end Sys2Proof.Machine
end

section
/-! PROOFS. Every event of a tile completes: its effect on the tile and its registers. -/
namespace Sys2Proof.Machine

/-! ### What the shared operations leave of a tile -/

/-- A store changes memory, its flips and its valid bits alone. -/
theorem storeBytes_eq (bs : List Byte) (t : Tile) (a : Nat) :
    ∃ f, storeBytes t a bs = { t with mem := (storeBytes t a bs).mem, memFlip := f } := by
  induction bs generalizing t a with
  | nil => exact ⟨t.memFlip, rfl⟩
  | cons b bs ih =>
    obtain ⟨f, hf⟩ := ih (storeByte t a b 0) (a + 1)
    exact ⟨f, hf⟩

theorem openLines_eq (ls : List Nat) (t : Tile) :
    ∃ m f v, ls.foldl openLine t = { t with mem := m, memFlip := f, valid := v } := by
  induction ls generalizing t with
  | nil => exact ⟨t.mem, t.memFlip, t.valid, rfl⟩
  | cons l ls ih =>
    obtain ⟨m, f, v, h⟩ := ih (openLine t l)
    have hl : ∃ m f v, openLine t l = { t with mem := m, memFlip := f, valid := v } := by
      unfold openLine
      split
      · exact ⟨t.mem, t.memFlip, t.valid, rfl⟩
      · exact ⟨_, _, _, rfl⟩
    obtain ⟨m', f', v', hl⟩ := hl
    refine ⟨m, f, v, ?_⟩
    rw [List.foldl_cons, h, hl]

theorem stored_eq (t : Tile) (a : Nat) (bs : List Byte) :
    ∃ f v, stored t a bs = { t with mem := (stored t a bs).mem, memFlip := f, valid := v } := by
  obtain ⟨m, f, v, h⟩ := openLines_eq (linesOf a bs.length) t
  obtain ⟨f', h'⟩ := storeBytes_eq bs ((linesOf a bs.length).foldl openLine t) a
  have hs : stored t a bs = { (linesOf a bs.length).foldl openLine t with mem := (stored t a bs).mem, memFlip := f' } := h'
  refine ⟨f', v, ?_⟩
  rw [h] at hs
  exact hs

theorem stored_flipped {t u : Tile} {m : Memory} {f v : Assoc Nat} (h : t = { u with mem := m, memFlip := f, valid := v }) (x : Assoc Nat) :
    ∃ f v, { t with memFlip := x } = { u with mem := m, memFlip := f, valid := v } :=
  ⟨x, v, congrArg (fun t : Tile => { t with memFlip := x }) h⟩

theorem storeBytes_mem (bs : List Byte) {t u : Tile} (a : Nat) (hm : t.mem = u.mem) : (storeBytes t a bs).mem = (storeBytes u a bs).mem := by
  induction bs generalizing t u a with
  | nil => exact hm
  | cons b bs ih => exact ih (a + 1) (congrArg (wrByte · a b) hm)

theorem openLine_mem {t u : Tile} (l : Nat) (hm : t.mem = u.mem) (hv : t.valid = u.valid) :
    (openLine t l).mem = (openLine u l).mem ∧ (openLine t l).valid = (openLine u l).valid := by
  have hl : lineValid t l = lineValid u l := by
    unfold lineValid
    rw [hv]
  unfold openLine
  rw [hl]
  split
  · exact ⟨hm, hv⟩
  · exact ⟨congrArg (List.filter fun e => e.1 / 64 != l) hm, congrArg (put · l 7 0) hv⟩

/-- What a store leaves in memory depends on memory and its valid bits alone. -/
theorem stored_mem {t u : Tile} (a : Nat) (bs : List Byte) (hm : t.mem = u.mem) (hv : t.valid = u.valid) :
    (stored t a bs).mem = (stored u a bs).mem := by
  have h : ∀ (ls : List Nat) (t u : Tile), t.mem = u.mem → t.valid = u.valid →
      (ls.foldl openLine t).mem = (ls.foldl openLine u).mem := by
    intro ls
    induction ls with
    | nil => exact fun _ _ hm _ => hm
    | cons l ls ih => exact fun t u hm hv => ih _ _ (openLine_mem l hm hv).1 (openLine_mem l hm hv).2
  exact storeBytes_mem bs a (h _ _ _ hm hv)

section
variable (s : State) (g : Nat)

theorem memWrite_tile (a : Nat) (bs : List Byte) :
    ∃ f v, tileOf (memWrite s g a bs) g = { tileOf s g with mem := (stored (tileOf s g) a bs).mem, memFlip := f, valid := v } := by
  obtain ⟨f, v, h⟩ := stored_eq (tileOf s g) a bs
  unfold memWrite
  dsimp only
  split
  · rw [tileOf_setF, tileOf_setTile_same]
    exact stored_flipped h _
  · rw [tileOf_setTile_same]
    exact ⟨f, v, h⟩

theorem memWrite_others (a : Nat) (bs : List Byte) : OtherTiles g s (memWrite s g a bs) := by
  intro h hn
  unfold memWrite
  dsimp only
  split
  · rw [tileOf_setF, tileOf_setTile_ne _ _ _ _ hn]
  · rw [tileOf_setTile_ne _ _ _ _ hn]

theorem modTile_others (f : Tile → Tile) : OtherTiles g s (modTile s g f) := fun h hn => tileOf_modTile_ne s g h f hn

/-- The end of a wait moves the tile on and leaves the rest of it. -/
theorem endWait_tile : ∃ fed issue held, tileOf (endWait s g) g =
    { tileOf s g with fed := fed, issue := issue, wait := none, fencing := none, held := held } := by
  obtain ⟨u, hu, -, -, -, ht, -⟩ := moveIssue_run s g (issueAt s g + 8)
  unfold endWait retire progress
  dsimp only
  rw [tileOf_modTile_same, tileOf_modTile_same, tileOf_setF, hu, ht]
  exact ⟨_, _, _, rfl⟩

theorem endWait_others : OtherTiles g s (endWait s g) := by
  obtain ⟨-, -, -, -, -, -, -, -, -, h⟩ := endWait_retires s g
  exact h

theorem showRx_tile (h : Nat) : tileOf (showRx s g) h = tileOf s h := by
  unfold showRx
  dsimp only
  rw [tileOf_setF, tileOf_setF]

theorem setRx_tile (stream : Nat) (r : RxRec) : tileOf (setRx s g stream r) g = { tileOf s g with rx := put (tileOf s g).rx stream r {} } := by
  unfold setRx
  rw [showRx_tile, tileOf_modTile_same]

theorem setRx_others (stream : Nat) (r : RxRec) : OtherTiles g s (setRx s g stream r) := by
  intro h hn
  unfold setRx
  rw [showRx_tile, tileOf_modTile_ne _ _ _ _ hn]

theorem OtherTiles.trans {s t u : State} {g : Nat} (h : OtherTiles g s t) (k : OtherTiles g t u) : OtherTiles g s u :=
  fun x hx => (k x hx).trans (h x hx)

/-- The end of a receive. -/
theorem recvDone_tile (stream seq : Nat) : ∃ fed issue held, tileOf (recvDone s g stream seq) g = { tileOf s g with
    rx := put (tileOf s g).rx stream { seq := (seq + 1) % 65536 } {}, fed := fed, issue := issue, wait := none, fencing := none, held := held } := by
  unfold recvDone
  dsimp only
  split
  · obtain ⟨a, b, c, h⟩ := endWait_tile (setF (setRx s g stream { seq := (seq + 1) % 65536 }) F.TIL_RXWAIT_VALID g 0) g
    rw [tileOf_setF, setRx_tile] at h
    exact ⟨a, b, c, h⟩
  · obtain ⟨a, b, c, h⟩ := endWait_tile (setRx s g stream { seq := (seq + 1) % 65536 }) g
    rw [setRx_tile] at h
    exact ⟨a, b, c, h⟩

theorem recvDone_others (stream seq : Nat) : OtherTiles g s (recvDone s g stream seq) := by
  unfold recvDone
  dsimp only
  refine (setRx_others s g stream { seq := (seq + 1) % 65536 }).trans ?_
  split
  · exact OtherTiles.trans (fun h _ => tileOf_setF _ _ _ _ h) (endWait_others _ g)
  · exact endWait_others _ g
end

/-! ### Packets at the local port -/

theorem takeLocal_tile (s : State) (g k : Nat) :
    tileOf (takeLocal s g k) g = { tileOf s g with localIn := (tileOf s g).localIn.eraseIdx k } := tileOf_modTile_same ..

theorem takeLocal_others (s : State) (g k : Nat) : OtherTiles g s (takeLocal s g k) := modTile_others _ _ _

section
variable {s : State} {g : Nat}

theorem streamStored_tile (s : State) (g base : Nat) (p : Packet) : ∃ f v, tileOf (streamStored s g base p) g = { tileOf s g with
    wait := (tileOf s g).wait.map (fun w => { w with since := s.now })
    mem := (stored (tileOf s g) (base + 64 * p.addr) p.payload).mem, memFlip := f, valid := v } := by
  obtain ⟨f, v, h⟩ := memWrite_tile (modTile s g (fun t => { t with wait := t.wait.map (fun w => { w with since := s.now }) })) g
    (base + 64 * p.addr) p.payload
  rw [tileOf_modTile_same] at h
  refine ⟨f, v, h.trans ?_⟩
  rw [stored_mem (t := { tileOf s g with wait := (tileOf s g).wait.map (fun w => { w with since := s.now }) }) (u := tileOf s g)
    (base + 64 * p.addr) p.payload rfl rfl]

theorem streamStored_others (s : State) (g base : Nat) (p : Packet) : OtherTiles g s (streamStored s g base p) :=
  (modTile_others s g _).trans (memWrite_others _ g _ _)

section
variable {stream base count since : Nat} {rep : Bool} {p : Packet} (hw : (tileOf s g).wait = some ⟨.recv stream base count, since, rep⟩)
  (hu : p.addr = (getD (tileOf s g).rx stream {}).units) (hn : (getD (tileOf s g).rx stream {}).last = false)
  (hle : p.addr + p.payload.length / 64 ≤ count) (hl : p.last = decide (p.addr + p.payload.length / 64 = count))
include hw hu hn hle hl

/-- A stream packet in order lands and the wait goes on. -/
theorem acceptStream_lands (hp : p.last = false) : ∃ f v, tileOf (acceptStream s g stream base count p) g = { tileOf s g with
      wait := some ⟨.recv stream base count, s.now, rep⟩, rx := put (tileOf s g).rx stream ⟨p.tag, p.addr + p.payload.length / 64, false⟩ {}
      mem := (stored (tileOf s g) (base + 64 * p.addr) p.payload).mem, memFlip := f, valid := v } := by
  obtain ⟨f, v, h⟩ := streamStored_tile s g base p
  rw [hw] at h
  refine ⟨f, v, ?_⟩
  rw [acceptStream_next hle hl hu, hn, hp, Bool.or_false]
  dsimp only
  rw [if_neg (by simp), setRx_tile, h]
  rfl

/-- The last packet of a transfer lands and ends the wait. -/
theorem acceptStream_ends (hp : p.last = true) : ∃ f v a b c, tileOf (acceptStream s g stream base count p) g = { tileOf s g with
      wait := none, fencing := none, rx := put (put (tileOf s g).rx stream ⟨p.tag, p.addr + p.payload.length / 64, true⟩ {}) stream ⟨(p.tag + 1) % 65536, 0, false⟩ {}
      mem := (stored (tileOf s g) (base + 64 * p.addr) p.payload).mem, memFlip := f, valid := v, fed := a, issue := b, held := c } := by
  obtain ⟨f, v, h⟩ := streamStored_tile s g base p
  have he : p.addr + p.payload.length / 64 = count := of_decide_eq_true (hl.symm.trans hp)
  obtain ⟨a, b, c, hd⟩ := recvDone_tile (setRx (streamStored s g base p) g stream ⟨p.tag, p.addr + p.payload.length / 64, true⟩) g stream p.tag
  rw [setRx_tile, h] at hd
  refine ⟨f, v, a, b, c, ?_⟩
  rw [acceptStream_next hle hl hu, hn, hp, Bool.or_true]
  dsimp only
  rw [if_pos (by simp [he])]
  exact hd

theorem acceptStream_others : OtherTiles g s (acceptStream s g stream base count p) := by
  rw [acceptStream_next hle hl hu]
  dsimp only
  split
  · exact ((streamStored_others s g base p).trans (setRx_others _ g _ _)).trans (recvDone_others _ g _ _)
  · exact (streamStored_others s g base p).trans (setRx_others _ g _ _)
end

/-! ### Pour data -/

theorem halfState_setHalf (s : State) (g h v : Nat) (hv : v < 8) : halfState (setHalf s g h v) g h = v := by
  unfold halfState setHalf
  split
  · exact (getF_setF_same s F.TIL_TUNDISH_H0_STATE g v (by decide)).trans (Nat.mod_eq_of_lt hv)
  · exact (getF_setF_same s F.TIL_TUNDISH_H1_STATE g v (by decide)).trans (Nat.mod_eq_of_lt hv)

theorem setHalf_tile (s : State) (g h v x : Nat) : tileOf (setHalf s g h v) x = tileOf s x := by
  unfold setHalf
  split
  · exact tileOf_setF ..
  · exact tileOf_setF ..

theorem setHalf_pour (s : State) (g h v : Nat) : getF (setHalf s g h v) F.TIL_TUNDISH_FILL_POUR g = getF s F.TIL_TUNDISH_FILL_POUR g := by
  unfold setHalf
  split
  · exact getF_setF_apart _ _ _ _ _ (by decide)
  · exact getF_setF_apart _ _ _ _ _ (by decide)

theorem wakeSwap_idle (h : (tileOf s g).wait = none) : wakeSwap s g = s := by
  unfold wakeSwap
  rw [h]
  exact ite_self _

/-- Bytes that fill the fill half, by its number. -/
theorem fillHalf_tile (s : State) (g off : Nat) (bs : List Byte) : ∃ a b, tileOf (fillHalf s g off bs) g =
    if 1 - getF s F.TIL_TUNDISH_DRAW g = 0 then { tileOf s g with half0 := wrBytes (tileOf s g).half0 off bs, hflip0 := a }
    else { tileOf s g with half1 := wrBytes (tileOf s g).half1 off bs, hflip1 := b } := by
  unfold fillHalf
  dsimp only
  rw [tileOf_modTile_same]
  exact ⟨_, _, rfl⟩

/-! ### Requests to a tile -/

theorem inject_tile (s : State) (g : Nat) (p : Packet) : ∃ q, tileOf (inject s g p) g = { tileOf s g with
      input := put (tileOf s g).input (portKey .local p.cls) (getD (tileOf s g).input (portKey .local p.cls) [] ++ [q]) [] } ∧
    q.pkt = { p with sx := logX s g, sy := logY s g, flits := p.size - 1 } := by
  unfold inject
  rw [tileOf_modTile_same]
  exact ⟨_, rfl, rfl⟩

theorem inject_others (s : State) (g : Nat) (p : Packet) : OtherTiles g s (inject s g p) := modTile_others _ _ _

/-- Units that fit one packet make one. -/
theorem sendTransfer_one (s : State) (g stream seq : Nat) (own : Bool) {bs : List Byte} (h : bs.length ≤ 4096) :
    sendTransfer s g stream seq own bs = inject s g { typ := tyStream, cls := getI s F.TIL_ROUTE_CLASS g stream, routed := false, last := true,
                                                      stream, addr := 0, tag := seq, payload := bs, own } := by
  have hp : streamPackets stream (getI s F.TIL_ROUTE_CLASS g stream) seq own 0 (bs.length / 4096 + 1) bs =
      [{ typ := tyStream, cls := getI s F.TIL_ROUTE_CLASS g stream, routed := false, last := true,
         stream, addr := 0, tag := seq, payload := bs, own }] := by
    unfold streamPackets
    dsimp only
    rw [if_pos h, decide_eq_true h, List.take_of_length_le h]
  unfold sendTransfer
  dsimp only
  rw [hp]
  rfl

theorem tileBytes_length (t : Tile) (a n : Nat) : (tileBytes t a n).length = n := by
  unfold tileBytes
  rw [List.length_map, List.length_range]

/-! ### Entries of the Placement Table -/

/-- The tiles are as before. -/
def SameTiles (s t : State) : Prop := t.tiles = s.tiles

section
variable {x : State}

theorem SameTiles.sendRec (h : SameTiles s x) (q : Src) (a b c d : Nat) : SameTiles s (sendRec x q a b c d) := h
theorem SameTiles.setI (h : SameTiles s x) (f : Fld) (u i v : Nat) : SameTiles s (setI x f u i v) := h
theorem SameTiles.countI (h : SameTiles s x) (f : Fld) (u i n : Nat) : SameTiles s (countI x f u i n) := h
theorem SameTiles.tiers (h : SameTiles s x) (t : Tiers) : SameTiles s { x with tiers := t } := h

theorem SameTiles.putPt (h : SameTiles s x) (page : Nat) (e : PtEntry) : SameTiles s (putPt x page e) := by
  unfold Machine.putPt
  dsimp only
  split
  · exact (h.tiers _).setI _ _ _ _
  · exact h.tiers _

theorem SameTiles.countChannel (h : SameTiles s x) (k : Nat) (e : Nat × Nat) : SameTiles s (countChannel x k e) := by
  unfold Machine.countChannel
  dsimp only
  split
  · exact h.countI _ _ _ _
  · exact h.countI _ _ _ _

theorem SameTiles.writtenBack (h : SameTiles s x) (k : Nat) (errs : List (Nat × Nat)) :
    SameTiles s (errs.foldl (fun s e => writeBackWord (Machine.countChannel s k e) e) x) :=
  foldl_keeps errs h fun _ e hb => (hb.countChannel k e).tiers _

theorem SameTiles.copyRow (h : SameTiles s x) (k g : Nat) : SameTiles s (copyRow x k g) := by
  unfold Machine.copyRow
  exact h.writtenBack k _

theorem SameTiles.ite {c : Prop} [Decidable c] {y : State} (h : SameTiles s x) (k : SameTiles s y) : SameTiles s (if c then x else y) := by
  split
  · exact h
  · exact k

theorem SameTiles.retireRow (h : SameTiles s x) (k g : Nat) : SameTiles s (retireRow x k g) := by
  unfold Machine.retireRow
  dsimp only
  refine SameTiles.ite (h.sendRec _ _ _ _ _) (SameTiles.sendRec ?_ _ _ _ _ _)
  refine SameTiles.tiers (x := Machine.setI _ _ _ _ _) ?_ _
  exact (h.copyRow k g).setI _ _ _ _

theorem SameTiles.ptRead (h : SameTiles s x) (page : Nat) : SameTiles s (ptRead x page) := by
  unfold Machine.ptRead
  dsimp only
  split
  · exact h
  · refine foldl_keeps [0, 1] ?_ fun b i hb => ?_
    · split
      · exact (h.writtenBack _ _).retireRow _ _
      · exact h.writtenBack _ _
    · split
      · exact (hb.putPt _ _).sendRec _ _ _ _ _
      · exact hb

theorem SameTiles.modPt (h : SameTiles s x) (page : Nat) (f : PtEntry → PtEntry) : SameTiles s (modPt x page f) := by
  unfold Machine.modPt
  exact (h.ptRead page).putPt page _
end

theorem modPt_tile (s : State) (page : Nat) (f : PtEntry → PtEntry) (h : Nat) : tileOf (modPt s page f) h = tileOf s h := by
  have hs : (modPt s page f).tiles = s.tiles := SameTiles.modPt rfl page f
  unfold tileOf
  rw [hs]
end

end Sys2Proof.Machine
end

section
/-! PROOFS. Every event of a tile completes. -/
namespace Sys2Proof.Machine

/-! ### Timers -/

section
variable {s : State} {g since : Nat} {rep : Bool}

theorem sendRec_record (s : State) (q : Src) (a b c d : Nat) : ∃ r, (sendRec s q a b c d).cmd.records = s.cmd.records ++ [r] ∧
    r.status = a ∧ r.cause = b ∧ r.d0 = c % 2 ^ 32 ∧ r.d1 = d % 2 ^ 64 := ⟨_, rfl, rfl, rfl, rfl, rfl⟩

theorem showRx_cmd (s : State) (g : Nat) : (showRx s g).cmd = s.cmd := by
  unfold showRx
  dsimp only
  rw [setF_cmd, setF_cmd]

theorem startQuiesce_recv {stream base count : Nat} (hw : (tileOf s g).wait = some ⟨.recv stream base count, since, rep⟩) :
    startQuiesce s g = setF (modTile (showRx (setF (setF s F.TIL_RXWAIT_STREAM g stream) F.TIL_RXWAIT_VALID g 1) g) g
      (fun t => { t with wait := none, fencing := none })) F.TIL_STATUS_WAITKIND g 0 := by
  have hk : (tileOf (showRx (setF (setF s F.TIL_RXWAIT_STREAM g stream) F.TIL_RXWAIT_VALID g 1) g) g).wait.isSome = true := by
    rw [showRx_tile, tileOf_setF, tileOf_setF, hw]
    rfl
  unfold startQuiesce
  dsimp only
  rw [hw]
  exact if_pos (by simp [hk])

theorem startQuiesce_idle (hw : (tileOf s g).wait = none) (hf : (tileOf s g).fencing = none) : startQuiesce s g = s := by
  unfold startQuiesce
  dsimp only
  rw [hw]
  exact if_neg (by simp [hw, hf])

theorem overdue_of {tmo t : Nat} (h0 : tmo ≠ 0) (h : tmo < s.now - t) : overdue s tmo t = true := by
  simp [overdue, h0, h]

theorem showRx_quiesce (s : State) (g : Nat) : getF (showRx s g) F.TIL_CTRL_QUIESCE g = getF s F.TIL_CTRL_QUIESCE g := by
  unfold showRx
  dsimp only
  rw [getF_setF_apart _ _ _ _ _ (by decide), getF_setF_apart _ _ _ _ _ (by decide)]

/-- What the end of a RECV by a quiesce leaves. -/
theorem recvQuiesced_fields {stream base count : Nat} (hw : (tileOf s g).wait = some ⟨.recv stream base count, since, rep⟩) {u : State}
    (hu : startQuiesce s g = u) : u.cmd = s.cmd ∧ (tileOf u g).wait = none ∧ getF u F.TIL_STATUS_WAITKIND g = 0 ∧
      getF u F.TIL_CTRL_QUIESCE g = getF s F.TIL_CTRL_QUIESCE g ∧ OtherTiles g s u := by
  rw [startQuiesce_recv hw] at hu
  subst hu
  refine ⟨?_, ?_, getF_setF_same _ F.TIL_STATUS_WAITKIND g 0 (by decide), ?_, fun h hn => ?_⟩
  · rw [setF_cmd, modTile_cmd, showRx_cmd, setF_cmd, setF_cmd]
  · rw [tileOf_setF, tileOf_modTile_same]
  · rw [getF_setF_apart _ _ _ _ _ (by decide), getF_modTile, showRx_quiesce, getF_setF_apart _ _ _ _ _ (by decide),
      getF_setF_apart _ _ _ _ _ (by decide)]
  · rw [tileOf_setF, tileOf_modTile_ne _ _ _ _ hn, showRx_tile, tileOf_setF, tileOf_setF]

/-- What an overdue RECV leaves. -/
theorem recvOverdue_fields {stream base count : Nat} (hw : (tileOf s g).wait = some ⟨.recv stream base count, since, rep⟩) {u : State}
    (hu : startQuiesce (setF s F.TIL_CTRL_QUIESCE g 1) g = u) :
    u.cmd = s.cmd ∧ (tileOf u g).wait = none ∧ getF u F.TIL_STATUS_WAITKIND g = 0 ∧ getF u F.TIL_CTRL_QUIESCE g = 1 ∧ OtherTiles g s u := by
  have hw' : (tileOf (setF s F.TIL_CTRL_QUIESCE g 1) g).wait = some ⟨.recv stream base count, since, rep⟩ := by rw [tileOf_setF]; exact hw
  obtain ⟨h1, h2, h3, h4, h5⟩ := recvQuiesced_fields hw' hu
  have hq : getF (setF s F.TIL_CTRL_QUIESCE g 1) F.TIL_CTRL_QUIESCE g = 1 := getF_setF_same _ F.TIL_CTRL_QUIESCE g 1 (by decide)
  exact ⟨h1.trans (setF_cmd ..), h2, h3, h4.trans hq, fun h hn => (h5 h hn).trans (tileOf_setF ..)⟩

/-- What the report of an overdue TSWAP or HOIST leaves. -/
theorem swapReported_tile {x : WaitFor} (hw : (tileOf s g).wait = some ⟨x, since, false⟩) (q : Src) (a b c d : Nat) :
    tileOf (modTile (sendRec s q a b c d) g (fun t => { t with wait := t.wait.map (fun w => { w with reported := true }) })) g =
      { tileOf s g with wait := some ⟨x, since, true⟩ } := by
  rw [tileOf_modTile_same, tileOf_sendRec, hw]
  rfl

/-- What the end of an SGET by its timeout leaves. -/
theorem sgetEnded_tile (a : Nat) (bs : List Byte) : (tileOf (endWait (memWrite s g a bs) g) g).wait = none ∧
    (tileOf (endWait (memWrite s g a bs) g) g).mem = (stored (tileOf s g) a bs).mem ∧ OtherTiles g s (endWait (memWrite s g a bs) g) := by
  obtain ⟨f, v, h⟩ := memWrite_tile s g a bs
  obtain ⟨x, y, z, he⟩ := endWait_tile (memWrite s g a bs) g
  rw [he, h]
  exact ⟨rfl, rfl, (memWrite_others s g a bs).trans (endWait_others _ g)⟩
end

/-! ### Packets -/

section
variable {s : State} {g k : Nat} {p : Packet} (hp : localPacket s g k = some p)
include hp

theorem streamAccept_completes {stream base count since : Nat} {rep : Bool} (hw : (tileOf s g).wait = some ⟨.recv stream base count, since, rep⟩)
    (ht : p.typ = tyStream) (hs : p.stream = stream) (hu : p.addr = (getD (tileOf s g).rx stream {}).units)
    (hn : (getD (tileOf s g).rx stream {}).last = false) (hle : p.addr + p.payload.length / 64 ≤ count)
    (hl : p.last = decide (p.addr + p.payload.length / 64 = count)) {u : State} (hx : opStreamAccept g k s = u) :
    (tileOf u g).mem = (stored (tileOf s g) (base + 64 * p.addr) p.payload).mem ∧ (tileOf u g).localIn = (tileOf s g).localIn.eraseIdx k ∧
      OtherTiles g s u ∧
      (p.last = false → (tileOf u g).wait = some ⟨.recv stream base count, s.now, rep⟩ ∧
        getD (tileOf u g).rx stream {} = ⟨p.tag, p.addr + p.payload.length / 64, false⟩) ∧
      (p.last = true → (tileOf u g).wait = none ∧ getD (tileOf u g).rx stream {} = ⟨(p.tag + 1) % 65536, 0, false⟩) := by
  have ht' := takeLocal_tile s g k
  have hw' : (tileOf (takeLocal s g k) g).wait = some ⟨.recv stream base count, since, rep⟩ := by rw [ht']; exact hw
  have hu' : p.addr = (getD (tileOf (takeLocal s g k) g).rx stream {}).units := by rw [ht']; exact hu
  have hn' : (getD (tileOf (takeLocal s g k) g).rx stream {}).last = false := by rw [ht']; exact hn
  have hm : (stored (tileOf (takeLocal s g k) g) (base + 64 * p.addr) p.payload).mem = (stored (tileOf s g) (base + 64 * p.addr) p.payload).mem :=
    stored_mem _ _ (by rw [ht']) (by rw [ht'])
  rw [opStreamAccept_recv hp hw ht hs] at hx
  subst hx
  have ho := (takeLocal_others s g k).trans (acceptStream_others hw' hu' hn' hle hl)
  cases hb : p.last with
  | false =>
    obtain ⟨f, v, h⟩ := acceptStream_lands hw' hu' hn' hle hl hb
    rw [hm, ht'] at h
    rw [h]
    exact ⟨rfl, rfl, ho, fun _ => ⟨rfl, getD_put_same ..⟩, fun e => nomatch e⟩
  | true =>
    obtain ⟨f, v, a, b, c, h⟩ := acceptStream_ends hw' hu' hn' hle hl hb
    rw [hm, ht'] at h
    rw [h]
    exact ⟨rfl, rfl, ho, fun e => (nomatch e), fun _ => ⟨rfl, getD_put_same ..⟩⟩

theorem pourLand_completes (hy : isPour p = true) (hf : getF s F.TIL_STATUS_FENCED g = 0) (he : p.payload ≠ []) (hw : (tileOf s g).wait = none)
    {f : Nat} (hd : 1 - getF s F.TIL_TUNDISH_DRAW g = f) (h2 : halfState s g f ≠ 2) (h3 : halfState s g f ≠ 3) {u : State} (hx : opPourLand g k s = u) :
    halfState u g f = (if p.last then 2 else 1) ∧ (tileOf u g).localIn = (tileOf s g).localIn.eraseIdx k ∧
      getF u F.TIL_TUNDISH_FILL_POUR g = p.tag % 65536 ∧
      (if f = 0 then (tileOf u g).half0 else (tileOf u g).half1) =
        wrBytes (if f = 0 then (tileOf s g).half0 else (tileOf s g).half1) (p.addr - 0x120000) p.payload ∧
      (tileOf u g).mem = (tileOf s g).mem ∧ OtherTiles g s u := by
  have hskip : (p.payload.isEmpty && p.last && Nat.testBit p.addr 23) = false := by simp [he]
  have hd' : 1 - getF (takeLocal s g k) F.TIL_TUNDISH_DRAW g = f := hd
  obtain ⟨a, b, ht⟩ := fillHalf_tile (takeLocal s g k) g (p.addr - 0x120000) p.payload
  rw [hd', takeLocal_tile] at ht
  have hv : (if p.last = true then 2 else 1) < 8 := by split <;> decide
  have hland := landPour_fills (s := takeLocal s g k) (g := g) (p := p) (by rw [hd']; exact h2) (by rw [hd']; exact h3) hskip
  rw [opPourLand_open hp hy hf, hland] at hx
  generalize hz : setHalf (setF (if false = true then takeLocal s g k else fillHalf (takeLocal s g k) g (p.addr - 0x120000) p.payload)
    F.TIL_TUNDISH_FILL_POUR g p.tag) g (1 - getF (takeLocal s g k) F.TIL_TUNDISH_DRAW g)
    (if false = true then 3 else if p.last = true then 2 else 1) = z at hx
  rw [if_neg (by simp), if_neg (by simp), hd'] at hz
  have htz : tileOf z g = tileOf (fillHalf (takeLocal s g k) g (p.addr - 0x120000) p.payload) g := by
    rw [← hz, setHalf_tile, tileOf_setF]
  have hwz : (tileOf z g).wait = none := by
    rw [htz, ht]
    split
    · exact hw
    · exact hw
  rw [wakeSwap_idle hwz] at hx
  subst hx
  refine ⟨?_, ?_, ?_, ?_, ?_, fun h hn => ?_⟩
  · rw [← hz]
    exact halfState_setHalf _ _ _ _ hv
  · rw [htz, ht]
    split <;> rfl
  · rw [← hz, setHalf_pour]
    exact getF_setF_same _ F.TIL_TUNDISH_FILL_POUR g p.tag (by decide)
  · rw [htz, ht]
    by_cases h0 : f = 0
    · rw [if_pos h0, if_pos h0, if_pos h0]
    · rw [if_neg h0, if_neg h0, if_neg h0]
  · rw [htz, ht]
    split <;> rfl
  · rw [← hz, setHalf_tile, tileOf_setF]
    unfold fillHalf
    rw [tileOf_modTile_ne _ _ _ _ hn]
    exact takeLocal_others s g k h hn

theorem increment_completes (ht : p.typ = tyIncr) {u : State} (hx : opEventTile g k s = u) :
    getD (tileOf u g).e (p.addr % 16) 0 = getD (tileOf s g).e (p.addr % 16) 0 + p.amount ∧
      (tileOf u g).localIn = (tileOf s g).localIn.eraseIdx k ∧ OtherTiles g s u := by
  have hy : tileOf (addLocal (takeLocal s g k) g (p.addr % 16) p.amount) g = { tileOf s g with
      localIn := (tileOf s g).localIn.eraseIdx k, e := put (tileOf s g).e (p.addr % 16) (getD (tileOf s g).e (p.addr % 16) 0 + p.amount) 0 } := by
    unfold addLocal
    rw [tileOf_modTile_same, takeLocal_tile]
  have ho : OtherTiles g s (addLocal (takeLocal s g k) g (p.addr % 16) p.amount) := (takeLocal_others s g k).trans (modTile_others _ _ _)
  rw [opEventTile_incr hp ht] at hx
  generalize addLocal (takeLocal s g k) g (p.addr % 16) p.amount = y at hx hy ho
  have plain : getD (tileOf y g).e (p.addr % 16) 0 = getD (tileOf s g).e (p.addr % 16) 0 + p.amount ∧
      (tileOf y g).localIn = (tileOf s g).localIn.eraseIdx k ∧ OtherTiles g s y := by
    rw [hy]
    exact ⟨getD_put_same .., rfl, ho⟩
  have ended : getD (tileOf (endWait y g) g).e (p.addr % 16) 0 = getD (tileOf s g).e (p.addr % 16) 0 + p.amount ∧
      (tileOf (endWait y g) g).localIn = (tileOf s g).localIn.eraseIdx k ∧ OtherTiles g s (endWait y g) := by
    obtain ⟨a, b, c, he⟩ := endWait_tile y g
    obtain ⟨h1, h2, -⟩ := plain
    rw [he]
    exact ⟨h1, h2, ho.trans (endWait_others y g)⟩
  subst hx
  split
  · split
    · exact ended
    · exact plain
  · exact plain

theorem readRequest_completes (ht : p.typ = tyReadReq) (hf : (tileOf s g).memFlip = []) {u : State} (hx : opRemoteRead g k s = u) :
    ∃ q, (tileOf u g).localIn = (tileOf s g).localIn.eraseIdx k ∧
      getD (tileOf u g).input (portKey .local 0) [] = getD (tileOf s g).input (portKey .local 0) [] ++ [q] ∧ q.pkt.typ = tyReadResp ∧
      q.pkt.payload = tileBytes (tileOf s g) p.addr p.units ∧ q.pkt.tag = p.tag ∧ q.pkt.dx = p.sx ∧ q.pkt.dy = p.sy ∧ OtherTiles g s u := by
  rw [opRemoteRead_clean hp ht hf] at hx
  subst hx
  obtain ⟨q, hq, hk⟩ := inject_tile (takeLocal s g k) g { typ := tyReadResp, cls := 0, routed := true, dx := p.sx, dy := p.sy, tag := p.tag,
                                                          payload := tileBytes (tileOf s g) p.addr p.units, units := p.units }
  rw [takeLocal_tile] at hq
  refine ⟨q, ?_⟩
  rw [hq, hk]
  exact ⟨rfl, getD_put_same .., rfl, rfl, rfl, rfl, rfl, (takeLocal_others s g k).trans (inject_others _ _ _)⟩

theorem writeRequest_completes (ht : p.typ = tyWrite) (hn : isPour p = false) {u : State} (hx : opRemoteWrite g k s = u) :
    (tileOf u g).localIn = (tileOf s g).localIn.eraseIdx k ∧ (tileOf u g).mem = (stored (tileOf s g) p.addr p.payload).mem ∧ OtherTiles g s u := by
  rw [opRemoteWrite_stores hp ht hn] at hx
  subst hx
  obtain ⟨f, v, h⟩ := memWrite_tile (takeLocal s g k) g p.addr p.payload
  have hm : (stored (tileOf (takeLocal s g k) g) p.addr p.payload).mem = (stored (tileOf s g) p.addr p.payload).mem :=
    stored_mem _ _ (by rw [takeLocal_tile]) (by rw [takeLocal_tile])
  rw [hm, takeLocal_tile] at h
  rw [modPt_tile, h]
  exact ⟨rfl, rfl, fun x hx => (modPt_tile _ _ _ x).trans (((takeLocal_others s g k).trans (memWrite_others _ g _ _)) x hx)⟩

theorem readResponse_completes (ht : p.typ = tyReadResp) (hb : p.poison = false) {r : ReadSlot}
    (hr : (tileOf s g).reads.find? (fun r => r.tag == p.tag) = some r) {u : State} (hx : opReadResponse g k s = u) :
    (tileOf u g).localIn = (tileOf s g).localIn.eraseIdx k ∧ (tileOf u g).mem = (stored (tileOf s g) r.base p.payload).mem ∧
      (tileOf u g).reads = (tileOf s g).reads.filter (fun q => q.tag != p.tag) ∧ OtherTiles g s u := by
  have hx' := (opReadResponse_answers hp ht hr).symm.trans hx
  rw [if_neg (by simp [hb])] at hx'
  subst hx'
  have hy : tileOf (modTile (takeLocal s g k) g (fun t => { t with reads := t.reads.filter (fun q => q.tag != p.tag) })) g =
      { tileOf s g with localIn := (tileOf s g).localIn.eraseIdx k, reads := (tileOf s g).reads.filter (fun q => q.tag != p.tag) } := by
    rw [tileOf_modTile_same, takeLocal_tile]
  have ho : OtherTiles g s (modTile (takeLocal s g k) g (fun t => { t with reads := t.reads.filter (fun q => q.tag != p.tag) })) :=
    (takeLocal_others s g k).trans (modTile_others _ _ _)
  generalize modTile (takeLocal s g k) g (fun t => { t with reads := t.reads.filter (fun q => q.tag != p.tag) }) = y at hy ho
  obtain ⟨f, v, h⟩ := memWrite_tile y g r.base p.payload
  have hm : (stored (tileOf y g) r.base p.payload).mem = (stored (tileOf s g) r.base p.payload).mem :=
    stored_mem _ _ (by rw [hy]) (by rw [hy])
  rw [hm, hy] at h
  unfold progress
  rw [tileOf_modTile_same, h]
  exact ⟨rfl, rfl, rfl, (ho.trans (memWrite_others y g _ _)).trans (modTile_others _ _ _)⟩
end

/-! ### Notices, TIL_CTRL and TIL_RESEND -/

theorem takeAt_of {α : Type} {xs : List α} {k : Nat} {x : α} (h : xs[k]? = some x) : takeAt xs k = some (x, xs.eraseIdx k) := by
  unfold takeAt
  rw [h]

theorem poisonNotice_completes {s : State} {k n : Nat} (hk : s.notices[k]? = some n) (hp : (ptEntry s (n / 64)).poison = false)
    (hc : ∀ c ∈ s.tiers.changes, c.page ≠ n / 64) : opPoisonNotice k s = { s with
      notices := s.notices.eraseIdx k
      tiers := { s.tiers with changes := s.tiers.changes ++ [{ page := n / 64, what := .poison (n % 64) 0 }] } } := by
  rw [opPoisonNotice_takes (takeAt_of hk), poisonPage_eq, if_neg]
  rw [poisonComing_iff]
  rintro (h | ⟨c, hm, he, -⟩)
  · exact Bool.false_ne_true (hp.symm.trans h)
  · exact hc c hm he

section
variable {s : State} {g : Nat}

theorem startTile_runs (hq : getF s F.TIL_CTRL_QUIESCE g = 0) (hb : getF s F.TIL_STATUS_BYPASS g = 0) :
    startTile s g = setF (setF (setF (setF s F.TIL_CTRL_RUN g 1) F.TIL_STATUS_FAULT g 0) F.TIL_STATUS_RUNNING g 1) F.TIL_STATUS_QUIESCED g 0 := by
  unfold startTile
  dsimp only
  refine if_pos ?_
  simp (disch := decide) only [getF_setF_apart]
  rw [hq, hb]
  rfl

theorem run_completes (hq : getF s F.TIL_CTRL_QUIESCE g = 0) (hb : getF s F.TIL_STATUS_BYPASS g = 0) {u : State} (hu : startTile s g = u) :
    getF u F.TIL_CTRL_RUN g = 1 ∧ getF u F.TIL_STATUS_RUNNING g = 1 ∧ getF u F.TIL_STATUS_FAULT g = 0 ∧ getF u F.TIL_STATUS_QUIESCED g = 0 ∧
      getF u F.TIL_STATUS_PC g = getF s F.TIL_STATUS_PC g ∧ u.tiles = s.tiles := by
  rw [startTile_runs hq hb] at hu
  subst hu
  refine ⟨?_, ?_, ?_, getF_setF_same _ F.TIL_STATUS_QUIESCED g 0 (by decide), ?_, ?_⟩
  · simp (disch := decide) only [getF_setF_apart]
    exact getF_setF_same _ F.TIL_CTRL_RUN g 1 (by decide)
  · simp (disch := decide) only [getF_setF_apart]
    exact getF_setF_same _ F.TIL_STATUS_RUNNING g 1 (by decide)
  · simp (disch := decide) only [getF_setF_apart]
    exact getF_setF_same _ F.TIL_STATUS_FAULT g 0 (by decide)
  · simp (disch := decide) only [getF_setF_apart]
  · simp only [setF_tiles]

theorem stop_completes (s : State) (g : Nat) : let u := setF (setF s F.TIL_CTRL_RUN g 0) F.TIL_STATUS_RUNNING g 0
    getF u F.TIL_CTRL_RUN g = 0 ∧ getF u F.TIL_STATUS_RUNNING g = 0 ∧ u.tiles = s.tiles := by
  refine ⟨?_, getF_setF_same _ F.TIL_STATUS_RUNNING g 0 (by decide), ?_⟩
  · rw [getF_setF_apart _ _ _ _ _ (by decide)]
    exact getF_setF_same _ F.TIL_CTRL_RUN g 0 (by decide)
  · rw [setF_tiles, setF_tiles]

theorem quiesceEnded_fields (s : State) (g : Nat) : let u := setF (setF s F.TIL_CTRL_QUIESCE g 0) F.TIL_STATUS_QUIESCED g 0
    getF u F.TIL_CTRL_QUIESCE g = 0 ∧ getF u F.TIL_STATUS_QUIESCED g = 0 ∧ u.tiles = s.tiles := by
  refine ⟨?_, getF_setF_same _ F.TIL_STATUS_QUIESCED g 0 (by decide), ?_⟩
  · rw [getF_setF_apart _ _ _ _ _ (by decide)]
    exact getF_setF_same _ F.TIL_CTRL_QUIESCE g 0 (by decide)
  · rw [setF_tiles, setF_tiles]

section
variable (hf : getF s F.TIL_STATUS_FENCED g = 0)
include hf

theorem opTilRun_runs : opTilRun g true s = startTile s g :=
  (if_neg (by rw [hf]; decide)).trans (if_pos rfl)

theorem opTilRun_stops : opTilRun g false s = setF (setF s F.TIL_CTRL_RUN g 0) F.TIL_STATUS_RUNNING g 0 :=
  (if_neg (by rw [hf]; decide)).trans (if_neg (by decide))

theorem opTilQuiesce_ends : opTilQuiesce g false s = setF (setF s F.TIL_CTRL_QUIESCE g 0) F.TIL_STATUS_QUIESCED g 0 :=
  (if_neg (by rw [hf]; decide)).trans (if_neg (by decide))

theorem opTilQuiesce_asks (hw : (tileOf s g).wait = none) (he : (tileOf s g).fencing = none) :
    opTilQuiesce g true s = setF s F.TIL_CTRL_QUIESCE g 1 := by
  refine ((if_neg (by rw [hf]; decide)).trans (if_pos rfl)).trans (startQuiesce_idle ?_ ?_)
  · rw [tileOf_setF]
    exact hw
  · rw [tileOf_setF]
    exact he
end

theorem quiesce_completes (hq : getF s F.TIL_STATUS_QUIESCED g = 0) (hc : getF s F.TIL_CTRL_QUIESCE g = 1) (hw : (tileOf s g).wait = none)
    (hb : pipesBusy (tileOf s g) = false) {u : State} (hu : opQuiesceComplete g s = u) :
    getF u F.TIL_STATUS_QUIESCED g = 1 ∧ getF u F.TIL_STATUS_RUNNING g = 0 ∧ (tileOf u g).queues = [] := by
  rw [opQuiesceComplete_rests hq (.inl hc) (.inr ⟨hw, hb⟩)] at hu
  subst hu
  refine ⟨?_, ?_, ?_⟩
  · rw [getF_modTile]
    simp (disch := decide) only [getF_setF_apart]
    exact getF_setF_same _ F.TIL_STATUS_QUIESCED g 1 (by decide)
  · rw [getF_modTile]
    simp (disch := decide) only [getF_setF_apart]
    exact getF_setF_same _ F.TIL_STATUS_RUNNING g 0 (by decide)
  · rw [tileOf_modTile_same]

theorem resend_completes {v : Word} {r : TxRec} (hr : getD (tileOf s g).tx (getBits v 0 8) {} = r) (h0 : 0 < r.count) (h64 : r.count ≤ 64)
    (hs : r.seq = getBits v 16 16) (hf : (tileOf s g).memFlip = []) {u : State} (hu : opResend g v s = u) :
    ∃ q, getD (tileOf u g).input (portKey .local (getI s F.TIL_ROUTE_CLASS g (getBits v 0 8))) [] =
        getD (tileOf s g).input (portKey .local (getI s F.TIL_ROUTE_CLASS g (getBits v 0 8))) [] ++ [q] ∧
      q.pkt.stream = getBits v 0 8 ∧ q.pkt.tag = r.seq ∧ q.pkt.last = true ∧ q.pkt.payload = tileBytes (tileOf s g) r.addr (64 * r.count) ∧
      (tileOf u g).tx = (tileOf s g).tx ∧ OtherTiles g s u := by
  subst hr
  rw [opResend_again (Nat.pos_iff_ne_zero.mp h0) hs hf, sendTransfer_one _ _ _ _ _ (by rw [tileBytes_length]; omega)] at hu
  subst hu
  obtain ⟨q, hq, hk⟩ := inject_tile s g { typ := tyStream, cls := getI s F.TIL_ROUTE_CLASS g (getBits v 0 8), routed := false, last := true,
                                          stream := getBits v 0 8, addr := 0, tag := (getD (tileOf s g).tx (getBits v 0 8) {}).seq,
                                          payload := tileBytes (tileOf s g) (getD (tileOf s g).tx (getBits v 0 8) {}).addr
                                            (64 * (getD (tileOf s g).tx (getBits v 0 8) {}).count), own := false }
  refine ⟨q, ?_⟩
  rw [hq, hk]
  exact ⟨getD_put_same .., rfl, rfl, rfl, rfl, rfl, inject_others _ _ _⟩
end

/-- Settles O48, event by event. -/
theorem tileEventsComplete : Obligations.TileEventsComplete := by
  unfold Obligations.TileEventsComplete
  intro s t g T
  refine ⟨fun t0 ht hl hle hh => ?_, fun stream base count since rep hw hh h0 ho => ?_, fun since h0 ho hh i x hi hw => ?_, fun a since rep hw h0 ho => ?_,
    fun k p hp => ?_, fun k n hk hp hc => ?_, fun hf => ⟨fun hq hb => ?_, ?_, fun hw he => ?_, ?_⟩, fun hq hc hw hb => ?_, fun v => ?_⟩
  · obtain ⟨h1, h2, h3, -, -, -⟩ := tileFault_status s g 4 (by decide)
    refine ⟨tileFault s g 4, congrArg Host.Outcome.next (opHang_expires ht hl hle hh), h1, h2, h3, ?_, ?_, tileFault_others s g 4⟩
    · rw [tileFault_tile]
    · rw [tileFault_tile]
  · obtain ⟨h1, h2, h3, h4, h5⟩ := recvOverdue_fields hw rfl
    obtain ⟨r, hr, hs, hcs, -, -⟩ := sendRec_record (startQuiesce (setF s F.TIL_CTRL_QUIESCE g 1) g) (.tile g) ST_TIMEOUT 0x0300 stream
      (getD (tileOf s g).rx stream {}).seq
    exact ⟨_, r, congrArg Host.Outcome.next (opRecvTimeout_due hw (overdue_of h0 ho) hh), hr.trans (by rw [h1]), hcs, hs,
      (congrArg Tile.wait (tileOf_sendRec ..)).trans h2, h3, h4, fun h hn => (tileOf_sendRec ..).trans (h5 h hn)⟩
  · have hx : exec i s = .next (swapTimeout g since false s) := by
      rcases hi with ⟨rfl, rfl⟩ | ⟨rfl, gen, rfl⟩
      · exact congrArg Host.Outcome.next (opTswapTimeout_wait hw)
      · exact congrArg Host.Outcome.next (opHoistTimeout_wait hw)
    obtain ⟨r, hr, hs, hcs, -, -⟩ := sendRec_record s (.tile g) ST_TIMEOUT 0x0301 (getF s F.TIL_TUNDISH_FILL_POUR g) 0
    rw [swapTimeout_due (overdue_of h0 ho) hh] at hx
    exact ⟨_, r, hx, (congrArg CmdUnit.records (modTile_cmd ..)).trans hr, hcs, hs, swapReported_tile hw .., rfl,
      fun h hn => (tileOf_modTile_ne _ _ _ _ hn).trans (tileOf_sendRec ..)⟩
  · obtain ⟨h1, h2, h3⟩ := sgetEnded_tile (s := s) (g := g) a (plainResult ST_TIMEOUT (getF s F.TIL_SAMPLE_SESSION g) (getF s F.TIL_SAMPLE_SEQ g) 0)
    exact ⟨_, congrArg Host.Outcome.next (opSgetTimeout_due hw (overdue_of h0 ho)), h1, h2, h3⟩
  · intro rest
    refine ⟨fun stream base count since rep hw ht hs => ?_, fun hy hf he hw => ?_, fun ht => ⟨_, rfl, increment_completes hp ht rfl⟩,
      fun ht hf => ?_, fun ht hn => ⟨_, rfl, writeRequest_completes hp ht hn rfl⟩, fun ht hb r hr => ⟨_, rfl, readResponse_completes hp ht hb hr rfl⟩⟩
    · intro n hu hl hle hd
      exact ⟨_, rfl, streamAccept_completes hp hw ht hs hu hl hle hd rfl⟩
    · intro f h2 h3
      exact ⟨_, rfl, pourLand_completes hp hy hf he hw rfl h2 h3 rfl⟩
    · obtain ⟨q, h⟩ := readRequest_completes hp ht hf rfl
      exact ⟨_, q, rfl, h⟩
  · exact ⟨_, congrArg Host.Outcome.next (poisonNotice_completes hk hp hc), rfl, rfl, rfl, _, rfl, rfl, rfl⟩
  · exact ⟨_, congrArg Host.Outcome.next (opTilRun_runs hf), run_completes hq hb rfl⟩
  · exact ⟨_, congrArg Host.Outcome.next (opTilRun_stops hf), stop_completes s g⟩
  · refine ⟨_, congrArg Host.Outcome.next (opTilQuiesce_asks hf hw he), getF_setF_same _ F.TIL_CTRL_QUIESCE g 1 (by decide), setF_tiles ..⟩
  · exact ⟨_, congrArg Host.Outcome.next (opTilQuiesce_ends hf), quiesceEnded_fields s g⟩
  · exact ⟨_, rfl, quiesce_completes hq hc hw hb rfl⟩
  · intro r h0 h64 hs hf
    obtain ⟨q, h⟩ := resend_completes rfl h0 h64 hs hf rfl
    exact ⟨_, q, rfl, h⟩

end Sys2Proof.Machine
end

section
/-! PROOFS. What the operations of collectives keep: the other channels, the adders, the pennants that wait, and what holds of a bound collective. -/
namespace Sys2Proof.Machine

theorem Side.coll {s t : State} (h : Side s t) : t.coll = s.coll := by
  obtain ⟨-, -, hc, -⟩ := h
  exact hc

theorem chanOf_congr {s t : State} (h : t.coll = s.coll) (c : Nat) : chanOf t c = chanOf s c := by
  unfold chanOf
  rw [h]

/-! ### Channels -/

@[simp] theorem chanOf_setChan_same (s : State) (c : Nat) (x : Option Chan) : chanOf (setChan s c x) c = x := getD_put_same ..

theorem modChan_bound {s : State} {c : Nat} {x : Chan} (h : chanOf s c = some x) (f : Chan → Chan) : modChan s c f = setChan s c (some (f x)) := by
  unfold modChan
  rw [h]

theorem modChan_free {s : State} {c : Nat} (h : chanOf s c = none) (f : Chan → Chan) : modChan s c f = s := by
  unfold modChan
  rw [h]

/-! ### The completion of a command leaves collectives alone -/

theorem sendPkt_coll (s : State) (l : Nat) (p : BPkt) : (sendPkt s l p).coll = s.coll := by
  obtain ⟨b, h⟩ := sendPkt_cases s l p
  rw [h]
  rfl

theorem startWrite_coll (s : State) (l : Nat) (w : CompWrite) : (startWrite s l w).coll = s.coll := by
  unfold startWrite
  dsimp only
  rw [sendPkt_coll]
  dsimp only
  rw [setI_coll]

theorem sendWrite_coll (s : State) (a : Nat) (bs : List Byte) (w : WriteFor) : (sendWrite s a bs w).coll = s.coll := by
  unfold sendWrite
  dsimp only
  split
  · exact startWrite_coll ..
  · rfl

theorem completeCmd_coll (s : State) (n : Nat) (c : Cmd) (status detail : Nat) : (completeCmd s n c status detail).coll = s.coll := by
  unfold completeCmd
  dsimp only
  generalize hx : sendWrite _ _ _ _ = x
  have h : x.coll = s.coll := by
    rw [← hx, sendWrite_coll]
    rfl
  split
  · rw [setI_coll, h]
  · exact h

theorem completeIdx_coll (s : State) (n : Nat) (i : W32) (status detail : Nat) : (completeIdx s n i status detail).coll = s.coll := by
  unfold completeIdx
  split
  · exact completeCmd_coll ..
  · rfl

theorem logPort_coll (s : State) (cs : List Nat) (best : Nat) : (logPort s cs best).coll = s.coll :=
  (logPort_side (cs := cs) (best := best) (Side.refl s)).coll

theorem showChan_coll (s : State) (c : Nat) : (showChan s c).coll = s.coll := by
  unfold showChan
  split
  · exact wrReg_coll ..
  · exact wrReg_coll ..

/-! ### What a step of a collective keeps -/

/-- From `s` to `t` the collective of channel `c` moves on or ends: pennants, requests and tables stay, a channel that is free stays free, adders
stay as long as it is bound, and `I` goes on to hold of it. -/
structure Flows (I : Chan → Prop) (c : Nat) (s t : State) : Prop where
  arrived : t.coll.arrived = s.coll.arrived
  gone : chanOf s c = none → chanOf t c = none
  adders : chanOf t c ≠ none → t.coll.adders = s.coll.adders
  keeps : (∀ x, chanOf s c = some x → I x) → ∀ x, chanOf t c = some x → I x

section
variable {I : Chan → Prop} {c : Nat} {s t u : State}

theorem Flows.refl : Flows I c s s := ⟨rfl, id, fun _ => rfl, id⟩

theorem Flows.trans (h : Flows I c s t) (k : Flows I c t u) : Flows I c s u :=
  ⟨k.arrived.trans h.arrived, fun e => k.gone (h.gone e), fun e => (k.adders e).trans (h.adders fun n => e (k.gone n)), fun e => k.keeps (h.keeps e)⟩

theorem Flows.of_coll (h : t.coll = s.coll) : Flows I c s t :=
  ⟨congrArg CollState.arrived h, fun e => (chanOf_congr h c).trans e, fun _ => congrArg CollState.adders h,
    fun e x hx => e x ((chanOf_congr h c).symm.trans hx)⟩

theorem Flows.of_side (h : Side s t) : Flows I c s t := .of_coll h.coll

/-- The channel's collective is replaced by one of which `I` holds when it held before. -/
theorem Flows.set {x : Chan} (hx : chanOf s c = some x) {y : Chan} (hy : I x → I y) : Flows I c s (setChan s c (some y)) :=
  ⟨rfl, fun e => (nomatch hx.symm.trans e), fun _ => rfl, fun e z hz => by
    cases (chanOf_setChan_same ..).symm.trans hz
    exact hy (e x hx)⟩

theorem Flows.mod {f : Chan → Chan} (hf : ∀ x, chanOf s c = some x → I x → I (f x)) : Flows I c s (modChan s c f) := by
  cases hx : chanOf s c with
  | none =>
    rw [modChan_free hx]
    exact .refl
  | some x =>
    rw [modChan_bound hx]
    exact .set hx (hf x hx)

theorem Flows.ite {p : Prop} [Decidable p] (h : p → Flows I c s t) (k : ¬p → Flows I c s u) : Flows I c s (if p then t else u) := by
  split
  · next hp => exact h hp
  · next hp => exact k hp

/-! ### The end of a collective -/

theorem dropAdders_coll (s : State) (c : Nat) : (dropAdders s c).coll = { s.coll with adders := s.coll.adders.map (fun a =>
      (a.1, { incoming := a.2.incoming.filter (fun b => b.chan != c), ins := a.2.ins.filter (fun i => i.chan != c) })) } := by
  unfold dropAdders
  exact (side_foldl (Side.refl _) fun _ _ h => giveCredit_side h).coll

/-- What the end of a collective leaves of the collectives' state. -/
theorem endCollAs_coll {x : Chan} (hx : chanOf s c = some x) (best : Nat) (cs : List Nat) :
    (endCollAs s c best cs).coll = (dropAdders (setChan s c none) c).coll := by
  unfold endCollAs
  rw [hx]
  exact (completeIdx_coll ..).trans ((logPort_coll ..).trans (showChan_coll ..))

theorem endCollAs_free (s : State) (c best : Nat) (cs : List Nat) : chanOf (endCollAs s c best cs) c = none := by
  cases hx : chanOf s c with
  | none =>
    unfold endCollAs
    rw [hx]
    exact hx
  | some x =>
    have h := (endCollAs_coll hx best cs).trans (dropAdders_coll _ c)
    have hc : (endCollAs s c best cs).coll.chans = (setChan s c none).coll.chans := by rw [h]
    unfold chanOf
    rw [hc]
    exact chanOf_setChan_same s c none

theorem endCollAs_arrived (s : State) (c best : Nat) (cs : List Nat) : (endCollAs s c best cs).coll.arrived = s.coll.arrived := by
  cases hx : chanOf s c with
  | none =>
    unfold endCollAs
    rw [hx]
  | some x => rw [endCollAs_coll hx, dropAdders_coll]; rfl

theorem Flows.ended (best : Nat) (cs : List Nat) : Flows I c s (endCollAs s c best cs) :=
  ⟨endCollAs_arrived .., fun _ => endCollAs_free .., fun e => absurd (endCollAs_free ..) e, fun _ x hx => (nomatch (endCollAs_free ..).symm.trans hx)⟩

theorem Flows.failed (status : Nat) : Flows I c s (failColl s c status) := by
  unfold failColl
  split
  · exact .refl
  · exact (Flows.of_side (sendLive_side (Side.refl s))).trans (.ended ..)

theorem failColl_free (s : State) (c status : Nat) : chanOf (failColl s c status) c = none := by
  unfold failColl
  cases hx : chanOf s c with
  | none => exact hx
  | some x => exact endCollAs_free ..

/-! ### Moving a collective on -/

/-- The child's share after one more block has been sent to it. -/
def ChildTx.fed (t : ChildTx) (now : Nat) : ChildTx := { t with next := t.next + 1, unacked := t.unacked ++ [(t.next, now)] }

/-- What holds of the collective of channel `c` as it moves on by itself. -/
structure Moving (c : Nat) (I : Chan → Prop) : Prop where
  num : ∀ x, I x → x.num = c
  waits : ∀ x w, I x → I { x with waits := w }
  sent : ∀ x, I x → I { x with doneSent := true }
  emitted : ∀ x e, I x → I { x with emitted := e }
  shown : ∀ x m g, I x → I (x.setChild (x.childTx m g))
  fed : ∀ x m g now, I x → I (x.setChild ((x.childTx m g).fed now))

theorem Flows.waits (hI : Moving c I) : Flows I c s (updateWaits s c) := by
  unfold updateWaits
  split
  · exact .refl
  · next x hx => exact .set hx fun h => hI.waits x _ h

theorem Flows.sentUp (x : Chan) (g low n : Nat) (bs : List Block) : Flows I c s (sendUp s x g low n bs) := by
  unfold sendUp
  split
  · exact .refl
  · exact .of_side (sendMember_side (Side.refl s))

theorem Flows.leaf (hI : Moving c I) {x : Chan} (hx : x.num = c) (g k : Nat) (s : State) : Flows I c s (sendLeaf s x g k).2 := by
  induction k generalizing s with
  | zero => exact .refl
  | succ k ih =>
    unfold sendLeaf
    rw [hx]
    split
    · exact .refl
    · next y hy =>
      dsimp only
      generalize hr : portRead s _ _ _ = r
      have hs : Side s r.2.2 := hr ▸ portRead_side (Side.refl s)
      split
      · exact .refl
      · split
        · exact .of_side hs
        · refine ((Flows.of_side hs).trans (.sentUp ..)).trans (Flows.trans (.mod fun z _ hz => ?_) (ih _))
          exact hI.emitted z _ hz

theorem Flows.leaves (hI : Moving c I) {x : Chan} (hx : x.num = c) : Flows I c s (sendLeaves s x).2 := by
  unfold sendLeaves
  refine foldl_keeps (P := fun r : Nat × State => Flows I c s r.2) _ .refl fun r g h => ?_
  split
  · exact h
  · exact h.trans (.leaf hI hx ..)

theorem Flows.child (hI : Moving c I) (m g k : Nat) (s : State) : Flows I c s (feedChild s c m g k).2 := by
  induction k generalizing s with
  | zero => exact .refl
  | succ k ih =>
    unfold feedChild
    split
    · exact .refl
    · next x hx =>
      dsimp only
      split
      · exact .set hx fun h => hI.shown x m g h
      · generalize hr : portRead s _ _ _ = r
        have hs : Side s r.2.2 := hr ▸ portRead_side (Side.refl s)
        split
        · exact .of_side hs
        · generalize hq : (if (x.op == 1 && x.records && (x.childTx m g).next + 1 == x.blks) = true then
            portRead r.2.2 (x.recAddr + 16 * g) 16 (c % 4) else (0, [], r.2.2)) = q
          have hs' : Side s q.2.2 := by
            rw [← hq]
            split
            · exact portRead_side hs
            · exact hs
          split
          · exact .of_side hs'
          · have hm : Side s (sendMember q.2.2 x m { x.penn 1 with segment := g, block := (x.childTx m g).next, count := 1, payload := r.2.1 ++ q.2.1 }) :=
              sendMember_side hs'
            refine (Flows.of_side hm).trans (Flows.trans (.mod fun z hz h => ?_) (ih _))
            cases (chanOf_congr hm.coll c).symm.trans hz |>.symm.trans hx
            exact hI.fed x m g _ h

theorem Flows.fed (hI : Moving c I) {x : Chan} (hx : x.num = c) : Flows I c s (feedAll s x).2 := by
  unfold feedAll
  refine foldl_keeps (P := fun r : Nat × State => Flows I c s r.2) _ .refl fun r g h => ?_
  refine foldl_keeps (P := fun r : Nat × State => Flows I c s r.2) _ h fun r m h => ?_
  split
  · exact h
  · rw [hx]
    exact h.trans (.child hI ..)

theorem Flows.barrier (hI : Moving c I) : Flows I c s (barrierStep s c) := by
  unfold barrierStep
  split
  · exact .refl
  · next x hx =>
    refine .ite (fun _ => .refl) fun _ => .ite (fun _ => ?_) fun _ => ?_
    · exact (Flows.of_side (side_foldl (Side.refl s) fun _ _ h => sendMember_side h)).trans (.ended ..)
    · have hs : Flows I c s (match x.up x.barrier x.me with | some p => sendMember s x p (x.penn 9) | none => s) := by
        split
        · exact .of_side (sendMember_side (Side.refl s))
        · exact .refl
      exact hs.trans (.mod fun z _ h => hI.sent z h)

theorem Flows.pumped (hI : Moving c I) (h : ∀ x, chanOf s c = some x → x.num = c) : Flows I c s (pump s c) := by
  unfold pump
  split
  · exact .refl
  · next x hx =>
    have hr : Flows I c s (if x.op = 0 then sendLeaves s x else feedAll s x).2 := by
      split
      · exact .leaves hI (h x hx)
      · exact .fed hI (h x hx)
    refine .ite (fun _ => .waits hI) fun _ => .ite (fun _ => hr.trans (.failed ..)) fun _ => ?_
    refine Flows.trans ?_ (.waits hI)
    exact .ite (fun _ => hr.trans (.barrier hI)) fun _ => hr

/-! ### Counters, records and what a combination has sent -/

/-- The records of a combination change nothing but the mark that the segment's first failure has been told. -/
theorem Flows.reported (hf : ∀ x l, I x → I { x with flagged := l }) (a g : Nat) (ins : List (Nat × Block)) (r : Combined) :
    Flows I c s (reportCombine s a c g ins r) := by
  unfold reportCombine
  dsimp only
  generalize (decide (0x100 ≤ a) && decide (a < 0x200)) = optical
  have cnt : ∀ (t : State) (e o : Fld) (f n : Nat), Side s t → Side s (if optical = true then countF t o f n else countF t e 0 n) :=
    fun t e o f n h => side_ite (countF_side h) (countF_side h)
  generalize hu : (if optical = true then _ else countF (countF (countF _ _ _ _) _ _ _) _ _ _) = u
  have hs : Side s u := by
    rw [← hu]
    have h := cnt _ F.PRT_RED_ERR_SCALE_MISMATCH F.FLD_RED_ERR_SCALE_MISMATCH (a - 0x100)
      (if (r.mixed && ins.all fun e => !e.2.scalefail) = true then 1 else 0)
      (cnt _ F.PRT_RED_ERR_RES_OUT F.FLD_RED_ERR_RES_OUT (a - 0x100) (if r.outFail = true then 1 else 0)
        (cnt s F.PRT_RED_ERR_RES_IN F.FLD_RED_ERR_RES_IN (a - 0x100) r.inFails.length (Side.refl s)))
    exact side_ite h (countF_side (countF_side (countF_side h)))
  have hm : Flows I c s (modChan u c (fun x => { x with flagged := (a, g) :: x.flagged })) :=
    (Flows.of_side hs).trans (.mod fun x _ h => hf x _ h)
  have hr : ∀ q n e d, Flows I c s (sendRec (modChan u c (fun x => { x with flagged := (a, g) :: x.flagged })) q n e d a) :=
    fun q n e d => hm.trans (.of_side (sendRec_side (Side.refl _)))
  exact .ite (fun _ => .ite (fun _ => hr ..) fun _ => .ite (fun _ => hr ..) fun _ => hr ..) fun _ => .of_side hs

theorem Flows.cascaded (hf : ∀ x l, I x → I { x with flagged := l }) (a g k n : Nat) (l : List (Nat × Block)) (s : State) :
    Flows I c s (cascade s a c g k n l).2 := by
  induction k generalizing n l s with
  | zero => exact .refl
  | succ k ih =>
    unfold cascade
    split
    · exact .refl
    · exact (Flows.reported hf ..).trans (ih ..)

theorem Flows.marked (hI : Moving c I) {x : Chan} (hx : x.num = c) (a g b : Nat) : Flows I c s (markEmitted s x a g b) := by
  have hm : ∀ t k v, Flows I c t (modChan t c (fun x => { x with emitted := put x.emitted k v 0 })) :=
    fun t k v => .mod fun x _ h => hI.emitted x _ h
  unfold markEmitted
  rw [hx]
  dsimp only
  split
  · exact hm s ..
  · refine (hm s ..).trans (.mod fun z _ h => ?_)
    split
    · exact hI.emitted z _ h
    · exact h
end

end Sys2Proof.Machine
end

section
/-! PROOFS. Every event of an adder completes. -/
namespace Sys2Proof.Machine

/-! ### What only the channels differ in -/

/-- `t` is `s` but for the collectives' channels. -/
def OnlyChans (s t : State) : Prop := ∃ l, t = { s with coll := { s.coll with chans := l } }

theorem OnlyChans.refl (s : State) : OnlyChans s s := ⟨s.coll.chans, rfl⟩

theorem OnlyChans.set (s : State) (c : Nat) (x : Option Chan) : OnlyChans s (setChan s c x) := ⟨_, rfl⟩

theorem OnlyChans.mod (s : State) (c : Nat) (f : Chan → Chan) : OnlyChans s (modChan s c f) := by
  unfold modChan
  split
  · exact .set ..
  · exact .refl s

theorem OnlyChans.waits (s : State) (c : Nat) : OnlyChans s (updateWaits s c) := by
  unfold updateWaits
  split
  · exact .refl s
  · exact .set ..

theorem OnlyChans.heard (s : State) (c m : Nat) : OnlyChans s (heard s c m) := .mod ..

theorem OnlyChans.kept {s t : State} (h : OnlyChans s t) : t.coll.adders = s.coll.adders ∧ t.coll.arrived = s.coll.arrived ∧ t.regs = s.regs ∧
    t.tiles = s.tiles ∧ t.tiers = s.tiers := by
  obtain ⟨l, rfl⟩ := h
  exact ⟨rfl, rfl, rfl, rfl, rfl⟩

theorem adderOf_congr {s t : State} (h : t.coll.adders = s.coll.adders) (a : Nat) : adderOf t a = adderOf s a := by
  unfold adderOf
  rw [h]

@[simp] theorem adderOf_setAdder_same (s : State) (a : Nat) (d : Adder) : adderOf (setAdder s a d) a = d := getD_put_same ..

/-! ### A block enters the buffer -/

section
variable {s : State} {a k : Nat} {b : InBlock}

theorem blockBefore_none (h : ∀ z ∈ (adderOf s a).incoming.take k, z.chan = b.chan → z.segment = b.segment → z.sender = b.sender → z.low ≠ b.low) :
    blockBefore (adderOf s a) k b = false := by
  refine List.any_eq_false.mpr fun z hz e => ?_
  simp only [Bool.and_eq_true, beq_iff_eq] at e
  obtain ⟨⟨⟨hc, hg⟩, hm⟩, hl⟩ := e
  exact h z hz hc hg hm hl

theorem blockClash_none (h : ∀ j ∈ (adderOf s a).ins, j.chan = b.chan → j.segment = b.segment →
    ∀ h ∈ j.held, h.1.seq = b.block.seq → h.1.last = b.block.last) : blockClash (adderOf s a) b = false := by
  refine List.any_eq_false.mpr fun j hj e => ?_
  simp only [Bool.and_eq_true, beq_iff_eq, List.any_eq_true, bne_iff_ne] at e
  obtain ⟨⟨hc, hg⟩, i, hi, hs, hl⟩ := e
  exact hl (h j hj hc hg i hi hs)
end

/-! ### DATA goes to the owner stage -/

/-- The blocks of a DATA pennant, as they come to an adder. -/
def blocksIn (x : Chan) (p : Penn) (v : Via) : List InBlock :=
  (readBlocks p.count p.payload).zipIdx.map (fun b =>
    { chan := x.num, segment := p.segment, sender := p.sender, low := p.low, contrib := p.contrib, block := b.1
      credit := if b.2 + 1 = (readBlocks p.count p.payload).length then some (v, p.payload.length) else none })

theorem reduceData_owned {s : State} {x : Chan} {p : Penn} {v : Via} (ho : x.owner p.segment = x.me) (hb : readBlocks p.count p.payload ≠ []) :
    reduceData s x p v =
      setAdder s ownerStage { adderOf s ownerStage with incoming := (adderOf s ownerStage).incoming ++ blocksIn x p v } := by
  have he : (readBlocks p.count p.payload).isEmpty = false := by simpa using hb
  unfold reduceData
  dsimp only
  rw [if_pos ho, he]
  rfl

/-! ### A combination -/

theorem mem_inRankOrder {l : List (Nat × Block)} {z : Nat × Block} (h : z ∈ inRankOrder l) : z ∈ l := by
  have key : ∀ (l r : List (Nat × Block)), z ∈ l.foldl (fun r e => r.takeWhile (fun z => z.1 ≤ e.1) ++ e :: r.dropWhile (fun z => z.1 ≤ e.1)) r →
      z ∈ r ∨ z ∈ l := by
    intro l
    induction l with
    | nil => exact fun r h => .inl h
    | cons e l ih =>
      intro r h
      rcases ih _ h with h | h
      · rcases List.mem_append.mp h with h | h
        · exact .inl (List.takeWhile_subset _ h)
        · rcases List.mem_cons.mp h with h | h
          · exact .inr (h ▸ List.mem_cons_self)
          · exact .inl (List.dropWhile_subset _ h)
      · exact .inr (List.mem_cons_of_mem _ h)
  exact (key l [] h).resolve_left (List.not_mem_nil)

/-- Blocks that agree about LAST agree with the first of them. -/
theorem agree_headD {l : List (Nat × Block)} (h : ∀ e ∈ l, ∀ f ∈ l, e.2.last = f.2.last) : ∀ e ∈ l, e.2.last = (l.map (·.2.last)).headD false := by
  cases l with
  | nil => exact fun e he => (nomatch he)
  | cons f l => exact fun e he => h e he f List.mem_cons_self

/-- A collective that moves on stays on its channel. -/
theorem Moving.byNum (c : Nat) : Moving c (fun x => x.num = c) :=
  ⟨fun _ h => h, fun _ _ h => h, fun _ h => h, fun _ _ h => h, fun _ _ _ h => h, fun _ _ _ _ h => h⟩

/-- What a combination sends leaves the adders as they are while its collective is bound. -/
theorem emitted_keeps_adders {t : State} {x : Chan} (ht : chanOf t x.num = some x) {a : Nat} (ha : a ≠ ownerStage) {seg k b low n : Nat}
    {all : List (Nat × Block)} {l : List (Nat × Block) × State} (hl : cascade t a x.num seg k 0 all = l) {r : Combined} {out : Block}
    (hc : chanOf (emitBlock (reportCombine l.2 a x.num seg l.1 r) a x seg b low n out) x.num ≠ none) :
    (emitBlock (reportCombine l.2 a x.num seg l.1 r) a x seg b low n out).coll.adders = t.coll.adders := by
  have hI := Moving.byNum x.num
  have hf : ∀ (y : Chan) (l : List (Nat × Nat)), y.num = x.num → ({ y with flagged := l } : Chan).num = x.num := fun _ _ h => h
  rw [emitBlock_sends ha] at hc ⊢
  generalize hu : markEmitted _ _ _ _ _ = u at hc ⊢
  have h : Flows (fun y => y.num = x.num) x.num t u := by
    rw [← hu, ← hl]
    exact (((Flows.cascaded hf ..).trans (.reported hf ..)).trans (.sentUp ..)).trans (.marked hI rfl ..)
  have hn : ∀ y, chanOf u x.num = some y → y.num = x.num := h.keeps fun y hy => by
    cases ht.symm.trans hy
    rfl
  exact (h.trans (.pumped hI hn)).adders hc

/-- Settles O50, event by event. -/
theorem addersComplete : Obligations.AddersComplete := by
  unfold Obligations.AddersComplete
  refine ⟨?_, ?_, ?_⟩
  · intro a k s b h d same i hz hl hn hj
    refine ⟨_, congrArg Host.Outcome.next (opAdderReceive_takes h (blockBefore_none hz) hl hn (blockClash_none hj)), ?_⟩
    obtain ⟨hd, ha, hr, ht, hm⟩ := (OnlyChans.waits (setAdder (setAdder s a { adderOf s a with incoming := (adderOf s a).incoming.eraseIdx k }) a
      { incoming := (adderOf s a).incoming.eraseIdx k,
        ins := (adderOf s a).ins.filter (fun j => !ofStream b j) ++ [streamWith (adderOf s a) b] }) b.chan).kept
    have he := (adderOf_congr hd a).trans (adderOf_setAdder_same ..)
    exact ⟨congrArg Adder.incoming he, congrArg Adder.ins he, ha, hr, ht, hm⟩
  · intro k s p v x ha ht hx hn hg hh h0 ho hb
    have h := opData_reduces ha ht hx hn hg hh h0
    obtain ⟨hd, ha, hr, ht, hm⟩ := (OnlyChans.heard (removePenn s k) p.chan p.sender).kept
    have hd := adderOf_congr hd ownerStage
    rw [reduceData_owned ho hb, hd] at h
    obtain ⟨hd', ha', hr', ht', hm'⟩ := (OnlyChans.waits (setAdder (heard (removePenn s k) p.chan p.sender) ownerStage
      { adderOf (removePenn s k) ownerStage with incoming := (adderOf (removePenn s k) ownerStage).incoming ++ blocksIn x p v }) p.chan).kept
    have he := (adderOf_congr hd' ownerStage).trans (adderOf_setAdder_same ..)
    have hi := congrArg Adder.ins he
    refine ⟨_, blocksIn x p v, congrArg Host.Outcome.next h, ha'.trans ha, congrArg Adder.incoming he, hi, ?_, ?_,
      hr'.trans hr, ht'.trans ht, hm'.trans hm⟩
    · unfold blocksIn
      rw [List.map_map]
      exact List.zipIdx_map_fst ..
    · intro b hb
      obtain ⟨z, -, rfl⟩ := List.mem_map.mp hb
      exact ⟨rfl, rfl, rfl, rfl, rfl⟩
  · intro a s x seg ins cs hr hx ha hs hl
    have hj : ((adderShare s x seg a).getD ([], false)).2 = false := by rw [hs]; rfl
    have hag : ∀ e ∈ inRankOrder (ins.filterMap (fun i => i.held.head?.map (fun h => (i.low, h.1)))),
        e.2.last = ((inRankOrder (ins.filterMap (fun i => i.held.head?.map (fun h => (i.low, h.1))))).map (·.2.last)).headD false := by
      refine agree_headD fun e he f hf => ?_
      have hm : ∀ z ∈ inRankOrder (ins.filterMap (fun i => i.held.head?.map (fun h => (i.low, h.1)))),
          ∃ i ∈ ins, ∃ h, i.held.head? = some h ∧ z.2.last = h.1.last := by
        intro z hz
        have hz := mem_inRankOrder hz
        obtain ⟨i, hi, hz⟩ := List.mem_filterMap.mp hz
        obtain ⟨h, hh, rfl⟩ := Option.map_eq_some_iff.mp hz
        exact ⟨i, hi, h, hh, rfl⟩
      obtain ⟨i, hi, h, hh, he⟩ := hm e he
      obtain ⟨j, hj, g, hg, hf⟩ := hm f hf
      rw [he, hf]
      exact hl i hi j hj h g hh hg
    have h := opAdderCombine_emits hr hj (own := (0, { scale := 0, residue := 0, elems := [] }, s)) rfl
      (congrArg inRankOrder (List.append_nil _)) rfl hag
    refine ⟨_, congrArg Host.Outcome.next h, fun hc => ?_⟩
    dsimp only at hc ⊢
    generalize hd : ({ adderOf s a with ins := _ } : Adder) = d at hc ⊢
    generalize hy : ins.foldl _ (setAdder s a d) = y at hc ⊢
    have hy : y.coll = (setAdder s a d).coll := by
      rw [← hy]
      exact (side_foldl (Side.refl _) fun _ _ h => giveCredit_side h).coll
    generalize hl : cascade y a x.num seg _ 0 _ = l at hc ⊢
    have he := emitted_keeps_adders ((chanOf_congr hy x.num).trans hx) ha hl hc
    unfold adderOf
    rw [he, hy]
    exact (congrArg Adder.ins (adderOf_setAdder_same s a d)).trans (by rw [← hd]; rfl)

end Sys2Proof.Machine
end

section
/-! PROOFS. Every control pennant completes. -/
namespace Sys2Proof.Machine

/-! ### Taking a pennant from its input -/

theorem takePenn_side (s : State) (k : Nat) : Side (removePenn s k) (takePenn s k) := by
  unfold takePenn
  split
  · exact creditFlit_side (Side.refl _)
  · exact Side.refl _

theorem takePenn_coll (s : State) (k : Nat) : (takePenn s k).coll = { s.coll with arrived := s.coll.arrived.eraseIdx k } := (takePenn_side s k).coll

theorem takePenn_arrived (s : State) (k : Nat) : (takePenn s k).coll.arrived = s.coll.arrived.eraseIdx k :=
  congrArg CollState.arrived (takePenn_coll s k)

theorem takePenn_chanOf (s : State) (k c : Nat) : chanOf (takePenn s k) c = chanOf s c := by
  unfold chanOf
  rw [takePenn_coll]

theorem takePenn_now (s : State) (k : Nat) : (takePenn s k).now = s.now := by
  unfold takePenn
  split
  · rfl
  · rfl

theorem takePenn_regs (s : State) (k : Nat) : (takePenn s k).regs = s.regs := by
  unfold takePenn
  split
  · rfl
  · rfl

theorem takePenn_tiles (s : State) (k : Nat) : (takePenn s k).tiles = s.tiles := by
  unfold takePenn
  split
  · rfl
  · rfl

/-! ### What holds of the share of one child -/

/-- The collective of channel `c` feeds member `m` segment `g`, and `Q` holds of that share. -/
structure ChildHolds (c m g : Nat) (Q : ChildTx → Prop) (x : Chan) : Prop where
  num : x.num = c
  has : ∃ t ∈ x.childs, t.member = m ∧ t.segment = g
  holds : ∀ t ∈ x.childs, t.member = m → t.segment = g → Q t

section
variable {c m g : Nat} {Q : ChildTx → Prop} {x : Chan}

theorem childTx_key (x : Chan) (m g : Nat) : (x.childTx m g).member = m ∧ (x.childTx m g).segment = g := by
  unfold Chan.childTx
  cases h : x.childs.find? (fun c => c.member == m && c.segment == g) with
  | none => exact ⟨rfl, rfl⟩
  | some t => simpa using List.find?_some h

theorem ChildHolds.childTx (h : ChildHolds c m g Q x) : Q (x.childTx m g) := by
  obtain ⟨t, ht, hm, hg⟩ := h.has
  unfold Chan.childTx
  cases hf : x.childs.find? (fun c => c.member == m && c.segment == g) with
  | none => exact absurd (List.find?_eq_none.mp hf t ht) (by simp [hm, hg])
  | some u =>
    have hk : u.member = m ∧ u.segment = g := by simpa using List.find?_some hf
    obtain ⟨hm, hg⟩ := hk
    exact h.holds u (List.mem_of_find?_eq_some hf) hm hg

theorem mem_setChild {t u : ChildTx} : u ∈ (x.setChild t).childs ↔ (u ∈ x.childs ∧ ¬(u.member = t.member ∧ u.segment = t.segment)) ∨ u = t := by
  simp [Chan.setChild, List.mem_filter, ← imp_iff_not_or]

/-- The share is set anew. -/
theorem ChildHolds.put (hn : x.num = c) {t : ChildTx} (hm : t.member = m) (hg : t.segment = g) (hq : Q t) : ChildHolds c m g Q (x.setChild t) :=
  ⟨hn, ⟨t, mem_setChild.mpr (.inr rfl), hm, hg⟩, fun u hu hum hug => by
    rcases mem_setChild.mp hu with ⟨-, hne⟩ | rfl
    · exact absurd ⟨hum.trans hm.symm, hug.trans hg.symm⟩ hne
    · exact hq⟩

/-- Another share, or the same one in a form of which `Q` holds, is set. -/
theorem ChildHolds.set (h : ChildHolds c m g Q x) {t : ChildTx} (ht : t.member = m → t.segment = g → Q t) : ChildHolds c m g Q (x.setChild t) := by
  by_cases hk : t.member = m ∧ t.segment = g
  · exact .put h.num hk.1 hk.2 (ht hk.1 hk.2)
  · obtain ⟨u, hu, hm, hg⟩ := h.has
    refine ⟨h.num, ⟨u, mem_setChild.mpr (.inl ⟨hu, fun e => hk ⟨e.1.symm.trans hm, e.2.symm.trans hg⟩⟩), hm, hg⟩, fun v hv hvm hvg => ?_⟩
    rcases mem_setChild.mp hv with ⟨hv, -⟩ | rfl
    · exact h.holds v hv hvm hvg
    · exact ht hvm hvg

/-- A share of which `Q` holds keeps it as the collective feeds its children. -/
theorem ChildHolds.moving (hQ : ∀ t now, Q t → Q (t.fed now)) : Moving c (ChildHolds c m g Q) := by
  have hx : ∀ x, ChildHolds c m g Q x → ∀ m' g', (x.childTx m' g').member = m → (x.childTx m' g').segment = g → Q (x.childTx m' g') := by
    intro x h m' g' hm hg
    obtain ⟨hm', hg'⟩ := childTx_key x m' g'
    rw [← hm', hm, ← hg', hg]
    exact h.childTx
  exact ⟨fun x h => h.num, fun x w h => ⟨h.num, h.has, h.holds⟩, fun x h => ⟨h.num, h.has, h.holds⟩, fun x e h => ⟨h.num, h.has, h.holds⟩,
    fun x m' g' h => h.set (hx x h m' g'), fun x m' g' now h => h.set fun hm hg => hQ _ now (hx x h m' g' hm hg)⟩
end

/-- The block is no longer waited for. -/
def Acked (b : Nat) (t : ChildTx) : Prop := b < t.next ∧ ∀ e ∈ t.unacked, e.1 ≠ b

theorem Acked.fed {b : Nat} {t : ChildTx} (now : Nat) (h : Acked b t) : Acked b (t.fed now) := by
  obtain ⟨hb, hu⟩ := h
  refine ⟨Nat.lt_succ_of_lt hb, fun e he => ?_⟩
  rcases List.mem_append.mp he with he | he
  · exact hu e he
  · rw [List.mem_singleton.mp he]
    exact Nat.ne_of_gt hb

/-- The child takes its blocks from block `b` on. -/
def FedFrom (b : Nat) (t : ChildTx) : Prop := t.joined = true ∧ b ≤ t.next

theorem FedFrom.fed {b : Nat} {t : ChildTx} (now : Nat) (h : FedFrom b t) : FedFrom b (t.fed now) := ⟨h.1, Nat.le_succ_of_le h.2⟩

/-- The member has told of its end. -/
def DoneHeard (c : Nat) (e : Nat × Nat) (x : Chan) : Prop := x.num = c ∧ e ∈ x.doneFrom

theorem DoneHeard.moving (c : Nat) (e : Nat × Nat) : Moving c (DoneHeard c e) :=
  ⟨fun _ h => h.1, fun _ _ h => h, fun _ h => h, fun _ _ h => h, fun _ _ _ h => h, fun _ _ _ _ h => h⟩

/-! ### A pennant that moves its collective on -/

/-- The collective after it has heard of member `m`. -/
def Chan.heardOf (x : Chan) (m now : Nat) : Chan :=
  { x with waits := x.waits.map (fun w => if w.member = m then { member := m, since := now } else w), heldBy := x.heldBy.filter (fun e => e.1 != m) }

theorem heard_bound {s : State} {c : Nat} {x : Chan} (h : chanOf s c = some x) (m : Nat) : heard s c m = setChan s c (some (x.heardOf m s.now)) :=
  modChan_bound h _

/-- What a pennant makes of its collective holds on as the collective moves on. -/
theorem told_moves_on {s : State} {k m c : Nat} {x : Chan} (hx : chanOf s c = some x) {f : Chan → Chan} {I : Chan → Prop} (hI : Moving c I)
    (hf : I (f (x.heardOf m s.now))) {u : State} (hu : u = pump (modChan (heard (takePenn s k) c m) c f) c) :
    u.coll.arrived = s.coll.arrived.eraseIdx k ∧ ∀ y, chanOf u c = some y → I y := by
  have hx := (takePenn_chanOf s k c).trans hx
  rw [heard_bound hx, takePenn_now, modChan_bound (chanOf_setChan_same ..)] at hu
  have hy : ∀ y, chanOf (setChan (setChan (takePenn s k) c (some (x.heardOf m s.now))) c (some (f (x.heardOf m s.now)))) c = some y → I y := by
    intro y hy
    cases (chanOf_setChan_same ..).symm.trans hy
    exact hf
  have h := Flows.pumped (I := I) hI fun y e => hI.num y (hy y e)
  rw [hu]
  exact ⟨h.arrived.trans (takePenn_arrived s k), h.keeps hy⟩

section
variable {k : Nat} {s : State} {p : Penn} {v : Via} {x : Chan}

theorem endColl_taken {t : State} (ht : Side (takePenn s k) t) (c b : Nat) (cs : List Nat) :
    (endCollAs t c b cs).coll.arrived = s.coll.arrived.eraseIdx k ∧ chanOf (endCollAs t c b cs) c = none :=
  ⟨((endCollAs_arrived ..).trans (congrArg CollState.arrived ht.coll)).trans (takePenn_arrived s k), endCollAs_free ..⟩

theorem noteRequest_new {t : State} {group g : Nat} {excl : List Nat} (h : ∀ f ∈ t.coll.forming, f.group = group → f.base ≠ g) :
    noteRequest t group g excl = ({ t with coll := { t.coll with forming := t.coll.forming ++ [{ group, base := g, excl, since := t.now }] } }, none) := by
  have hf : t.coll.forming.find? (fun f => f.group == group && f.base == g) = none :=
    List.find?_eq_none.mpr fun f hf => by simpa using h f hf
  unfold noteRequest
  rw [hf]

theorem formWith_new (h : ∀ f ∈ s.coll.formIn, f.group = p.group → f.gen ≠ p.gen) :
    formWith s p = { group := p.group, gen := p.gen, total := p.contrib, packets := [(p.block, indicesOf p.count p.payload)] } := by
  have hf : s.coll.formIn.find? (fun f => f.group == p.group && f.gen == p.gen) = none :=
    List.find?_eq_none.mpr fun f hf => by simpa using h f hf
  unfold formWith
  rw [hf]
  rfl

theorem formKept_new (h : ∀ f ∈ s.coll.formIn, f.group = p.group → f.gen ≠ p.gen) :
    formKept s p = { s with coll := { s.coll with formIn := s.coll.formIn ++
      [{ group := p.group, gen := p.gen, total := p.contrib, packets := [(p.block, indicesOf p.count p.payload)] }] } } := by
  have hk : s.coll.formIn.filter (fun z => !(z.group == p.group && z.gen == p.gen)) = s.coll.formIn :=
    List.filter_eq_self.mpr fun f hf => by simpa [← imp_iff_not_or] using h f hf
  unfold formKept
  rw [formWith_new h, hk]

/-- A REFORM of a later generation, with no collective of its group bound, leaves the channels alone and is reported. -/
theorem applyReform_reports {s : State} {r : GroupRef} {d : Group} {gen : Nat} (hg : d.gen < gen)
    (hc : ∀ c y, c < 16 → chanOf s c = some y → y.group ≠ d.id) (excl : List Nat) :
    let u := applyReform s r d gen excl
    u.coll.arrived = s.coll.arrived ∧ u.coll.chans = s.coll.chans ∧ u.coll.forming = s.coll.forming ∧
      ∃ l e, u.cmd.records = l ++ [e] ∧ e.cause = 0x2801 ∧ e.d0 = (d.id + gen % 65536 * 65536) % 2 ^ 32 := by
  intro u
  have hu : applyReform s r d gen excl = u := rfl
  clear_value u
  unfold applyReform at hu
  rw [if_neg (Nat.not_le.mpr hg)] at hu
  dsimp only at hu
  generalize hw : (portWrite (portWrite s _ _).2 _ _).2 = w at hu
  have hw : Side s w := by
    rw [← hw]
    exact portWrite_side (portWrite_side (Side.refl s))
  generalize hz : sendRec (countF w F.COL_ERR_REFORMS 0 1) _ _ _ _ _ = z at hu
  have hs : z.coll = s.coll := by
    rw [← hz]
    exact (sendRec_side (countF_side hw)).coll
  have hch : z.coll.chans = s.coll.chans := congrArg CollState.chans hs
  have har : z.coll.arrived = s.coll.arrived := congrArg CollState.arrived hs
  have hfm : z.coll.forming = s.coll.forming := congrArg CollState.forming hs
  obtain ⟨e, he, -, hcause, hd, -⟩ := sendRec_record (countF w F.COL_ERR_REFORMS 0 1) .port 0 0x2801 (d.id + gen % 65536 * 65536)
    (excl.length + ((excl.head?.map (fun m => d.ranks.getD m 0)).getD 0) * 2 ^ 32)
  rw [hz] at he
  rw [foldl_unchanged _ _ _ fun c hm => ?_] at hu
  · rw [← hu]
    exact ⟨har, hch, hfm, _, e, he, hcause, hd⟩
  · have hk : ∀ t : State, t.coll.chans = s.coll.chans →
        (match chanOf t c with | some x => if x.group = d.id then reformChan t c gen excl else t | none => t) = t := by
      intro t ht
      have ht : chanOf t c = chanOf s c := by
        unfold chanOf
        rw [ht]
      split
      · next x hx => exact if_neg (hc c x (List.mem_range.mp hm) (ht.symm.trans hx))
      · rfl
    exact hk _ hch
end

/-- Settles O51, pennant by pennant. -/
theorem controlPennantsComplete : Obligations.ControlPennantsComplete := by
  unfold Obligations.ControlPennantsComplete
  intro k s p v taken
  refine ⟨fun x hx hn hc => ?_, fun h hf => ?_, fun h hf hl => ?_⟩
  · have hx' := (takePenn_chanOf s k p.chan).trans hx
    refine ⟨fun h hb => ?_, fun h => ?_, fun h => ?_, fun h => ?_, fun h => ?_, fun h h1 => ?_, fun h hh => ?_⟩
    · obtain ⟨hm, hg⟩ := childTx_key x p.sender p.segment
      have hi := ChildHolds.put (x := x.heardOf p.sender s.now) (Q := Acked p.block) hc (t := { x.childTx p.sender p.segment with
        unacked := (x.childTx p.sender p.segment).unacked.filter (fun u => u.1 != p.block) }) hm hg
        ⟨hb, fun e he => by simpa using List.of_mem_filter he⟩
      obtain ⟨ha, hy⟩ := told_moves_on (k := k) hx (ChildHolds.moving fun _ => Acked.fed) (f := fun y => y.setChild _) hi rfl
      exact ⟨_, congrArg Host.Outcome.next (opAck_bound hx' hn h), ha, fun y e t ht hm hg => ((hy y e).holds t ht hm hg).2⟩
    · have hi := ChildHolds.put (x := x.heardOf p.sender s.now) (Q := FedFrom p.block) hc
        (t := { member := p.sender, segment := p.segment, next := p.block }) rfl rfl ⟨rfl, Nat.le_refl _⟩
      obtain ⟨ha, hy⟩ := told_moves_on (k := k) hx (ChildHolds.moving fun _ => FedFrom.fed) (f := fun y => y.setChild _) hi rfl
      refine ⟨_, congrArg Host.Outcome.next (opJoin_bound hx' hn h), ha, fun y e => ?_⟩
      obtain ⟨t, ht, hm, hg⟩ := (hy y e).has
      exact ⟨t, ht, hm, hg, (hy y e).holds t ht hm hg⟩
    · obtain ⟨ha, hy⟩ := told_moves_on (k := k) (m := p.sender) hx (DoneHeard.moving p.chan (p.sender, p.gen)) (f := fun y =>
        { y with doneFrom := ((p.sender, p.gen) :: y.doneFrom).eraseDups }) ⟨hc, by simp⟩ rfl
      exact ⟨_, congrArg Host.Outcome.next (opDone_bound hx' hn h), ha, fun y e => (hy y e).2⟩
    · exact ⟨_, congrArg Host.Outcome.next (opFinish_bound hx' hn h), endColl_taken (side_foldl (Side.refl _) fun _ _ h => sendMember_side h) ..⟩
    · exact ⟨_, congrArg Host.Outcome.next (opAbort_ends h hx hn), endColl_taken (sendRec_side (Side.refl _)) ..⟩
    · have he := ((opState_same h hx h1).trans (if_pos hn)).trans (heard_bound hx' p.sender)
      rw [takePenn_now] at he
      exact ⟨_, congrArg Host.Outcome.next he, takePenn_arrived s k, chanOf_setChan_same ..⟩
    · have he := opQuery_answers h hx hh
      rw [if_pos hn] at he
      have hs := (sendBack_side (v := v) (p := { x.penn 4 with block := 1 }) (Side.refl (takePenn s k))).coll.trans (takePenn_coll s k)
      have hch := congrArg CollState.chans hs
      exact ⟨_, congrArg Host.Outcome.next he, congrArg CollState.arrived hs, rfl, hch⟩
  · have hf' : ∀ f ∈ (takePenn s k).coll.forming, f.group = p.group → f.base ≠ p.gen := by
      rw [takePenn_coll]
      exact hf
    have hr := noteRequest_new (excl := indicesOf p.count p.payload) hf'
    have he := opReformReq_notes h hr rfl
    have hch := congrArg CollState.chans (takePenn_coll s k)
    refine ⟨_, congrArg Host.Outcome.next he, takePenn_arrived s k, ?_, hch, takePenn_regs s k, takePenn_tiles s k⟩
    show (takePenn s k).coll.forming ++ _ = _
    rw [takePenn_coll, takePenn_now]
  · intro x q r d h4 hn hg hb
    have hw := formWith_new hf
    have hk : knownGroup (formKept s p) p.group = q := by rw [formKept_new hf]
    have hs : Side x q.2.2 := knownGroup_side (Side.refl x)
    have he := opReform_applies h (by rw [hw]; simpa using hl) hk h4 hn
    have hb : ∀ c y, c < 16 → chanOf (takePenn q.2.2 k) c = some y → y.group ≠ d.id := fun c y hc hy =>
      hb c y hc (((takePenn_chanOf q.2.2 k c).trans (chanOf_congr hs.coll c)).symm.trans hy)
    obtain ⟨ha, hc, -, hr⟩ := applyReform_reports (r := r) hg hb ((formWith s p).packets.flatMap (fun e => e.2))
    obtain ⟨l, e, hr⟩ := hr
    have ht : (takePenn q.2.2 k).coll.chans = q.2.2.coll.chans := by rw [takePenn_coll]
    have ht' := takePenn_arrived q.2.2 k
    rw [hs.coll] at ht ht'
    exact ⟨_, l, e, congrArg Host.Outcome.next he, ha.trans ht', hc.trans ht, hr⟩

end Sys2Proof.Machine
end

section
/-! PROOFS. Every timer of the collectives completes. -/
namespace Sys2Proof.Machine

theorem Side.now {s t : State} (h : Side s t) : t.now = s.now := by
  obtain ⟨-, -, -, -, -, -, -, -, -, hn⟩ := h
  exact hn

/-! ### A request for a re-form -/

/-- A request may go to member `m`. -/
def isAfter (after : Option Nat) (m : Nat) : Bool :=
  match after with
  | some l => l < m
  | none => true

/-- The members that a request may go to. -/
def asked (live excl : List Nat) (after : Option Nat) : List Nat := live.filter (fun m => !excl.contains m && isAfter after m)

section
variable {s : State} {base : Penn} {live ranks excl : List Nat} {after : Option Nat} {l : Nat} {ls : List Nat} (hl : asked live excl after = l :: ls)
include hl

theorem askReform_self (h : l = base.sender) : askReform s base live ranks excl after = (noteRequest s base.group base.gen excl).1 := by
  unfold askReform
  dsimp only
  generalize hc : live.filter _ = cs
  cases (show cs = l :: ls by rw [← hc, ← hl]; rfl)
  exact if_pos h

theorem askReform_sends (h : l ≠ base.sender) : ∃ t, Side s t ∧ askReform s base live ranks excl after =
    { t with coll := { t.coll with requests := t.coll.requests.filter (fun r => !(r.group == base.group && r.base == base.gen)) ++
      [{ group := base.group, base := base.gen, excl, leader := l, since := t.now }] } } := by
  unfold askReform
  dsimp only
  generalize hc : live.filter _ = cs
  cases (show cs = l :: ls by rw [← hc, ← hl]; rfl)
  exact ⟨_, sendRank_side (Side.refl s), if_neg h⟩
end

/-! ### A member that has failed -/

/-- Member `m` is no longer waited for, and is named for exclusion from the collective of channel `c`. -/
def Declared (c : Nat) (x : Chan) (m : Nat) (u : State) : Prop :=
  ∃ y, chanOf u c = some y ∧ y.waits = x.waits.filter (fun z => z.member != m) ∧ y.gen = x.gen ∧ y.group = x.group ∧ m ∈ pendingExcl u y

/-- The members that an earlier request of the collective's generation names. -/
def askedBefore (s : State) (x : Chan) : List Nat := (s.coll.requests.find? (fun r => r.group == x.group && r.base == x.gen)).elim [] (·.excl)

/-- A request that names member `m` is made or noted. -/
theorem requestReform_names {s : State} {x : Chan} {m : Nat} {excl : List Nat} (hm : m ∈ excl)
    (hf : ∀ f ∈ s.coll.forming, f.group = x.group → f.base ≠ x.gen) (hl : ∃ l ∈ x.live, l ∉ excl) :
    (requestReform s x excl).coll.chans = s.coll.chans ∧
      ∀ y : Chan, y.group = x.group → y.gen = x.gen → m ∈ pendingExcl (requestReform s x excl) y := by
  obtain ⟨l, ls, hc⟩ : ∃ l ls, asked x.live excl none = l :: ls := by
    obtain ⟨l, hl, he⟩ := hl
    refine List.exists_cons_of_ne_nil (List.ne_nil_of_mem (List.mem_filter.mpr ⟨hl, ?_⟩))
    simpa [isAfter] using he
  have hk : ∀ y : Chan, y.group = x.group → y.gen = x.gen → (x.group == y.group && x.gen == y.gen) = true := by
    intro y hg hb
    rw [hg, hb, beq_self_eq_true, beq_self_eq_true]
    rfl
  unfold requestReform
  by_cases h : l = (x.penn 6).sender
  · rw [askReform_self hc h, noteRequest_new (group := (x.penn 6).group) (g := (x.penn 6).gen) hf]
    refine ⟨rfl, fun y hg hb => List.mem_append_right _ (List.mem_flatMap.mpr ⟨_, List.mem_filter.mpr ⟨List.mem_append_right _
      (List.mem_singleton_self _), hk y hg hb⟩, hm⟩)⟩
  · obtain ⟨t, ht, he⟩ := askReform_sends (s := s) (ranks := x.ranks) hc h
    have hch : t.coll.chans = s.coll.chans := congrArg CollState.chans ht.coll
    rw [he]
    refine ⟨hch, fun y hg hb => List.mem_append_left _ (List.mem_flatMap.mpr ⟨_, List.mem_filter.mpr ⟨List.mem_append_right _
      (List.mem_singleton_self _), hk y hg hb⟩, hm⟩)⟩

theorem declareFailed_declares {s : State} {c m : Nat} (reason : Nat) {x : Chan} (hx : chanOf s c = some x)
    (hf : ∀ f ∈ s.coll.forming, f.group = x.group → f.base ≠ x.gen) (hl : ∃ l ∈ x.live, l ≠ m ∧ l ∉ askedBefore s x) :
    Declared c x m (declareFailed s c m reason) := by
  unfold declareFailed
  rw [hx]
  dsimp only
  generalize ht : sendRec (countF s F.COL_ERR_FAILED 0 1) _ _ _ _ _ = t
  have ht : Side s t := by
    rw [← ht]
    exact sendRec_side (countF_side (Side.refl s))
  rw [modChan_bound ((chanOf_congr ht.coll c).trans hx)]
  generalize hy : ({ x with waits := x.waits.filter (fun z => z.member != m) } : Chan) = y
  generalize hu : setChan t c (some y) = u
  have hr : u.coll.requests = s.coll.requests := by
    rw [← hu, ← ht.coll]
    rfl
  have hf' : ∀ f ∈ u.coll.forming, f.group = x.group → f.base ≠ x.gen := by
    have hg : u.coll.forming = s.coll.forming := by
      rw [← hu, ← ht.coll]
      rfl
    rw [hg]
    exact hf
  obtain ⟨l, hl, hm, ho⟩ := hl
  rw [hr, show ((s.coll.requests.find? _).elim _ _) = askedBefore s x from rfl]
  obtain ⟨hc, hp⟩ := requestReform_names (s := u) (m := m) (excl := (askedBefore s x ++ [m]).eraseDups) (by simp) hf'
    ⟨l, hl, by simpa using ⟨ho, hm⟩⟩
  refine ⟨y, ?_, ?_⟩
  · unfold chanOf
    rw [hc, ← hu]
    exact chanOf_setChan_same ..
  · have hg := hp y
    rw [← hy] at hg ⊢
    exact ⟨rfl, rfl, rfl, hg rfl rfl⟩

theorem waitAt_bound {s : State} {k : Nat} {x : Chan} {w : CWait} (h : waitAt s k = some (x, w)) :
    chanOf s (k % 16) = some x ∧ w.member = k / 16 := by
  unfold waitAt at h
  split at h
  · next y hy =>
    obtain ⟨z, hz, he⟩ := Option.map_eq_some_iff.mp h
    cases he
    exact ⟨hy, by simpa using List.find?_some hz⟩
  · exact nomatch h

/-- Settles O52, timer by timer. -/
theorem collectiveTimersComplete : Obligations.CollectiveTimersComplete := by
  unfold Obligations.CollectiveTimersComplete
  refine fun k s => ⟨fun x w h hh => ?_, fun f h hs ht => ?_, fun r h ht => ?_, fun a h ht => ?_⟩
  · intro others declared open_
    obtain ⟨hx, -⟩ := waitAt_bound h
    have fails : ∀ m reason, open_ m → Declared (k % 16) x m (declareFailed s (k % 16) m reason) :=
      fun m reason ho => declareFailed_declares reason hx ho.1 ho.2
    refine ⟨fun hq ht hr => ?_, fun hq hi hn ht ho => ?_, fun t hn ht ho => ?_, fun t hn hi ht => ?_, fun t e ht hm he hd hu hn hp ho => ?_⟩
    · have hs := (chanOf_congr (sendRank_side (rank := x.ranks.getD w.member 0) (p := x.penn 3) (Side.refl s)).coll (k % 16)).trans hx
      refine ⟨_, congrArg Host.Outcome.next ((opQueryTimer_due h ⟨hq, ht, hh⟩).trans (if_pos hr)), ?_⟩
      unfold modWait
      rw [modChan_bound hs]
      exact chanOf_setChan_same ..
    · exact ⟨_, congrArg Host.Outcome.next (opCollTimeout_due h ⟨hq, hi, hn, ht, hh⟩), fails _ _ ho⟩
    · exact ⟨_, congrArg Host.Outcome.next ((opGroupTimeout_holds h hh hn).trans (if_pos ht)), fails _ _ ho⟩
    · exact ⟨_, congrArg Host.Outcome.next ((opGroupTimeout_idles h hh hn hi).trans (if_pos ht)), failColl_free ..⟩
    · have hl : hopLate s x (k / 16) = true := by
        refine List.any_eq_true.mpr ⟨t, ht, ?_⟩
        rw [hm, beq_self_eq_true, Bool.true_and]
        exact List.any_eq_true.mpr ⟨e, he, by simp [hd, hu]⟩
      exact ⟨_, congrArg Host.Outcome.next (opHopTimeout_due hx hl hn hh hp), fails _ _ ho⟩
  · intro g r d hn hd hb
    have he := opSettle_sends h hs ht rfl hn
    have hk : Side s g.2.2 := knownGroup_side (Side.refl s)
    unfold sendReform at he
    dsimp only at he
    generalize hw : List.foldl _ _ _ = w at he
    have hw : w.coll = { s.coll with forming := s.coll.forming.map (fun z => if z = f then { f with sent := true } else z) } := by
      rw [← hw, (side_foldl (Side.refl _) fun _ _ h => side_foldl h fun _ _ h => sendRank_side h).coll, ← hk.coll]
    have hb : ∀ c y, c < 16 → chanOf w c = some y → y.group ≠ d.id := by
      unfold chanOf
      rw [hw]
      exact hb
    obtain ⟨-, hc, hf, l, e, hr⟩ := applyReform_reports (r := r) (Nat.lt_succ_of_le hd) hb f.excl
    rw [hw] at hc hf
    exact ⟨_, l, e, congrArg Host.Outcome.next he, hc, hf, hr⟩
  · intro g e d h4 hn hd l ls hl hm
    have hk : Side s g.2.2 := knownGroup_side (Side.refl s)
    obtain ⟨t, hs, he⟩ := askReform_sends (s := requestDropped g.2.2 k)
      (base := { kind := 6, chan := 0, coll := 0, group := r.group, cseq := 0, hash := 0, gen := r.base, sender := e.me })
      (ranks := d.ranks) (after := some r.leader) hl hm
    have hc : t.coll = { s.coll with requests := s.coll.requests.eraseIdx k } := by
      rw [hs.coll, ← hk.coll]
      rfl
    have hch : t.coll.chans = s.coll.chans := by rw [hc]
    refine ⟨_, congrArg Host.Outcome.next ((opReqTimeout_asks h ht rfl h4 hn hd).trans he), hch, ?_⟩
    show t.coll.requests.filter _ ++ _ = _
    rw [hc, hs.now, show (requestDropped g.2.2 k).now = s.now from hk.now]
  · exact ⟨_, congrArg Host.Outcome.next ((opAbortExpiry_of h).trans (if_pos ht)), rfl, rfl, rfl, rfl⟩

end Sys2Proof.Machine
end

section
/-! PROOFS. The matrix product and the fetch engine. -/
namespace Sys2Proof.Machine

/-! ### How an array op ends -/

/-- The tile after its array op has ended. -/
def Tile.arrEnded (t : Tile) : Tile := { t with arr := none, issue := none }

theorem issueAt_none {s : State} {g : Nat} (h : (tileOf s g).issue = none) : issueAt s g = getF s F.TIL_STATUS_PC g := by
  unfold issueAt
  rw [h]
  rfl

/-- TIL_STATUS as the body of an op leaves it. -/
theorem Becomes.status {g : Nat} {s u : State} {t : Tile} {fl : Flags} (h : Becomes g s u t fl) (f : Fld) (hf : f.reg = .TIL_STATUS) :
    getF u f g = getF s f g := by
  have hs : rdReg u .TIL_STATUS g 0 = rdReg s .TIL_STATUS g 0 := h.reg (tilAddr_ne g rfl rfl (by decide))
  unfold getF getI
  rw [hf, hs]

theorem endArr_ahead_none {s : State} {g : Nat} (h : (tileOf s g).issue = none) : endArr s g = modTile s g Tile.arrEnded := by
  unfold endArr
  dsimp only
  rw [h]
  rfl

/-- An array op that completes, with no op issued behind it, retires. -/
theorem Runs.array_retires {s : State} {t : TileId} {w : Word} {op : Nat} {body : TileM OpEnd} {tl : Tile} {fl : Flags} (hi : Issues s t w op)
    (hn : (tileOf (issued s t.gid w) t.gid).issue = none) (h : Runs t.gid body (issued s t.gid w) .array tl fl) :
    Did (issued s t.gid w) (runOp t w op body s) t.gid tl.arrEnded fl := by
  obtain ⟨v, hv, hb, hq, hk⟩ := h
  have hi' : (tileOf v t.gid).issue = none := by rw [hq.2, hk, hn]
  have hf : finishOp s t.gid (.ok .array v) = retire (endArr v t.gid) t.gid (getF v F.TIL_STATUS_PC t.gid + 8) :=
    if_neg (by rw [hi']; exact Bool.false_ne_true)
  have he : Becomes t.gid (issued s t.gid w) (endArr v t.gid) tl.arrEnded fl := by
    have k := hb.trans (becomes_modTile t.gid v Tile.arrEnded)
    rwa [flags_zero, hq.2, ← endArr_ahead_none hi'] at k
  rw [runOp_body hi, hv, hf, hb.status F.TIL_STATUS_PC rfl, ← issueAt_none hn]
  exact retire_did he

/-! ### Beginning -/

/-- A first step that leaves the state alone, before body `k`. -/
theorem Runs.checked {α β : Type} {g : Nat} {m : TileM β} {k : β → TileM α} {s : State} {b : β} {a : α} {t : Tile} {fl : Flags}
    (h : Runs g (k b) s a t fl) (hm : m s = .ok b s) : Runs g (m >>= k) s a t fl := by
  obtain ⟨u, hu, hr⟩ := h
  exact ⟨u, (tileM_bind_ok hm).trans hu, hr⟩

/-- From `s` a body gives `a`, raises the flags `fl` and leaves a tile of which `P` holds. -/
def Leaves {α : Type} (g : Nat) (m : TileM α) (s : State) (a : α) (fl : Flags) (P : Tile → Prop) : Prop := ∃ t, Runs g m s a t fl ∧ P t

theorem Leaves.checked {α β : Type} {g : Nat} {m : TileM β} {k : β → TileM α} {s : State} {b : β} {a : α} {fl : Flags} {P : Tile → Prop}
    (hm : m s = .ok b s) (h : Leaves g (k b) s a fl P) : Leaves g (m >>= k) s a fl P := by
  obtain ⟨t, ht, hp⟩ := h
  exact ⟨t, ht.checked hm, hp⟩

/-- The formats of a field at stage A. -/
theorem stageFormat {f : Nat} (h : f ∈ [1, 3, 4]) : (f == 1 || f == 3 || f == 4) = true := by
  simpa [or_assoc] using h

theorem checkStage_ok {g : Nat} {w : Word} {s : State} (h : StageTakes s g w) : checkStage g w s = .ok () s := by
  have hc : (atStageA s (g / 700) && !((wFmt w == 1 || wFmt w == 3 || wFmt w == 4) && (wFmt2 w == 1 || wFmt2 w == 3 || wFmt2 w == 4))) = false := by
    rcases h with h | ⟨ha, hb⟩
    · rw [h]
      rfl
    · rw [stageFormat ha, stageFormat hb, Bool.and_self, Bool.not_true, Bool.and_false]
  exact (tileM_bind_ok (tileM_get s)).trans (faultIf_false 1 s hc)

/-- A tile in which array op `w` has begun. -/
def Tile.arrBegun (t : Tile) (w : Word) (now : Nat) : Tile := { t with arr := some { word := w, since := now } }

theorem beginArr_runs {g : Nat} {w : Word} {s : State} {t : Tile} (q : At g s t) (h : t.arr = none) :
    Runs g (beginArr g w) s () (t.arrBegun w s.now) 0 := by
  have r := modify_runs (f := fun t => if t.arr.isSome then t else t.arrBegun w s.now) q (by rw [h]; exact .inl rfl) (by rw [h]; rfl) (by rw [h]; rfl)
    (by rw [h]; exact .inl rfl) (by rw [h]; rfl)
  exact r.cast rfl (by rw [h]; rfl) rfl

theorem NoFeeds.arrBegun {t : Tile} (h : NoFeeds t) (w : Word) (now : Nat) : NoFeeds (t.arrBegun w now) := h

/-- An array op begins and fills its queues, before body `k`. -/
theorem Leaves.begun {α : Type} {g : Nat} {w : Word} {k : Unit → TileM α} {s : State} {t : Tile} {a : α} {fl : Flags} {P : Tile → Prop} (q : At g s t)
    (ha : t.arr = none) (hf : NoFeeds t) (h : ∀ u, At g u (t.arrBegun w s.now) → Leaves g (k ()) u a fl P) :
    Leaves g (beginArr g w >>= fun _ => refillAll g >>= k) s a fl P := by
  obtain ⟨u, hu, bu, qu, iu⟩ := beginArr_runs q ha
  obtain ⟨v, hv, bv, qv, iv⟩ := refillAll_runs qu (hf.arrBegun w s.now)
  obtain ⟨tl, ⟨x, hx, bx, qx, ix⟩, hp⟩ := h v qv
  refine ⟨tl, ⟨x, ?_, ?_, qx, ?_⟩, hp⟩
  · rw [tileM_bind_ok hu, tileM_bind_ok hv, hx]
  · have k := (bu.trans bv).trans bx
    rwa [zero_flags, zero_flags] at k
  · rw [ix, bv.2.1, iu]

theorem entriesPer_pos (f : Nat) : 0 < entriesPer f := by
  unfold entriesPer lanesPerEntry
  split
  all_goals decide

theorem peekEntry_starves {g q : Nat} {s : State} (h : (queueOf (tileOf s g) q).entries = []) : peekEntry g q s = .error starve s := by
  unfold peekEntry
  rw [tileM_bind_ok (tileM_get s), h]
  rfl

/-- An op that starves, with no op issued behind it, stays in progress and the engine goes on behind it. -/
theorem runOp_starves {s u : State} {t : TileId} {w : Word} {op : Nat} {body : TileM OpEnd} {tl : Tile} {fl : Flags} (hi : Issues s t w op)
    (hb : body (issued s t.gid w) = .error starve u) (h : Becomes t.gid (issued s t.gid w) u tl fl) (hn : tl.issue = none) :
    runOp t w op body s = moveIssue u t.gid (getF (issued s t.gid w) F.TIL_STATUS_PC t.gid + 8) := by
  have hu : (tileOf u t.gid).issue = none := by rw [h.2.1, hn]
  have hf : finishOp s t.gid (.error starve u) = issueArr u t.gid := by
    unfold finishOp
    dsimp only
    rw [if_neg (by decide), if_pos rfl]
  have hm : issueArr u t.gid = moveIssue u t.gid (getF u F.TIL_STATUS_PC t.gid + 8) := if_neg (by rw [hu]; exact Bool.false_ne_true)
  rw [runOp_body hi, hb, hf, hm, h.status F.TIL_STATUS_PC rfl]

/-! ### The matrix product -/

section
variable {g : Nat} {w : Word} {s : State} {t : Tile} (q : At g s t) (hb : mmBad w = false) (hs : StageTakes s g w)
include q hb hs

theorem opMm_empty (hk : wCount w = 0) (x : Upset) : Runs g (opMm g w x) s .next t 0 := by
  unfold opMm
  refine Runs.checked (Runs.checked ?_ (checkStage_ok hs)) (faultIf_false 1 s hb)
  dsimp only
  rw [if_pos hk]
  exact Runs.pure q _

variable (hk : wCount w ≠ 0) (hf : NoFeeds t) (ha : t.arr = none)
include hk hf ha

/-- The queues hold the entries of all K-blocks: the product is folded into its set. -/
theorem opMm_folds {ea eb : List QEntry} (hea : (queueOf t (getBits w 46 2)).entries = ea) (heb : (queueOf t (getBits w 44 2)).entries = eb)
    (hla : entriesPer (wFmt w) * mmBlocks w ≤ ea.length) (hlb : entriesPer (wFmt2 w) * mmBlocks w ≤ eb.length)
    (hm : group32 (wFmt w) (wFmt2 w) = true → (∀ e ∈ ea.take (entriesPer (wFmt w) * mmBlocks w), e.mark = false) ∧
      ∀ e ∈ eb.take (entriesPer (wFmt2 w) * mmBlocks w), e.mark = false) :
    let r := mmFold w ea eb (List.range (mmBlocks w)) (if getBits w 40 1 = 1 then List.replicate 1024 0 else readSet t (getBits w 41 1))
    Leaves g (opMm g w .none) s .array r.2 fun u =>
      MmLeft (t.arrBegun w s.now) u (getBits w 46 2) (getBits w 44 2) (getBits w 41 1) (ea.drop (entriesPer (wFmt w) * mmBlocks w))
        (eb.drop (entriesPer (wFmt2 w) * mmBlocks w)) r.1 { word := w, since := s.now, block := mmBlocks w } := by
  intro r
  have hne : getBits w 46 2 ≠ getBits w 44 2 := by
    unfold mmBad at hb
    simp only [Bool.or_eq_false_iff, beq_eq_false_iff_ne] at hb
    exact hb.1.2
  obtain ⟨n, hn⟩ : ∃ n, mmBlocks w = n + 1 := ⟨mmBlocks w - 1, by unfold mmBlocks; omega⟩
  obtain ⟨j, l, hl⟩ := List.exists_cons_of_ne_nil (l := List.range (mmBlocks w)) (by rw [hn]; simp)
  have hlen : l.length = n := by
    have k := congrArg List.length hl
    rw [List.length_range, List.length_cons, hn] at k
    omega
  have hstart : mmStart (t.arrBegun w s.now) w 0 = if getBits w 40 1 = 1 then List.replicate 1024 0 else readSet t (getBits w 41 1) := by
    unfold mmStart
    simp only [true_and]
    rfl
  unfold opMm
  dsimp only
  have key := fun u qu => mmLoop_runs (g := g) (w := w) (ea := ea) (eb := eb) hne l j (s := u) (x := { word := w, since := s.now }) qu
    (hf.arrBegun w s.now) rfl rfl rfl hea heb (by simpa [hlen, ← hn] using hla) (by simpa [hlen, ← hn] using hlb)
    (by simpa [hlen, ← hn] using fun h => (hm h).1) (by simpa [hlen, ← hn] using fun h => (hm h).2)
  simp only [hlen, Nat.zero_add, ← hn, hstart, ← List.range_eq_range'] at key
  refine .checked (faultIf_false 1 s hb) (.checked (checkStage_ok hs) ?_)
  rw [if_neg hk]
  refine .begun q ha hf fun u qu => ?_
  obtain ⟨v, hv, hleft⟩ := key u qu
  refine ⟨v, Runs.get ?_, hleft⟩
  have h0 : (arrOf (tileOf u g)).block = 0 := by
    rw [qu.2]
    rfl
  rw [h0, show (wCount w + 31) / 32 - 0 = mmBlocks w from rfl, hl]
  exact hv.last fun _ _ qz => Runs.pure qz _

/-- Queue A is empty: the product waits for entries. -/
theorem opMm_starves (hea : (queueOf t (getBits w 46 2)).entries = []) (x : Upset) :
    ∃ u, opMm g w x s = .error starve u ∧ Becomes g s u (t.arrBegun w s.now) 0 := by
  obtain ⟨u, hu, bu, qu, iu⟩ := beginArr_runs (w := w) q ha
  obtain ⟨v, hv, bv, qv, iv⟩ := refillAll_runs qu (hf.arrBegun w s.now)
  obtain ⟨j, l, hl⟩ := List.exists_cons_of_ne_nil (l := List.range (mmBlocks w)) (by unfold mmBlocks; simp; omega)
  have harr : arrOf (tileOf v g) = { word := w, since := s.now } := by
    rw [qv.2]
    rfl
  have hpeek : peekEntry g (nextQueue { word := w, since := s.now } w) v = .error starve v := by
    rw [show nextQueue { word := w, since := s.now } w = getBits w 46 2 from if_pos (entriesPer_pos _)]
    exact peekEntry_starves (by rw [qv.2]; exact hea)
  refine ⟨v, ?_, ?_⟩
  · unfold opMm
    dsimp only
    rw [tileM_bind_ok (faultIf_false 1 s hb), tileM_bind_ok (checkStage_ok hs), if_neg hk, tileM_bind_ok hu, tileM_bind_ok hv,
      tileM_bind_ok (tileM_get v), harr]
    refine tileM_bind_error ?_
    rw [show (wCount w + 31) / 32 - 0 = mmBlocks w from rfl, hl, List.forIn_cons]
    refine tileM_bind_error ?_
    rw [tileM_bind_ok (tileM_get v), harr]
    exact tileM_bind_error hpeek
  · have k := bu.trans bv
    rwa [zero_flags] at k
end

/-! ### The fetch engine -/

section
variable {g pc : Nat} {w : Word} {s : State} (hb : feedBad w = false)
include hb

theorem opFeed_empty (q : Quiet s g) (h : wCount w = 0 ∨ getBits w 0 16 = 0) : Runs g (opFeed g pc w) s .next (tileOf s g) 0 := by
  unfold opFeed
  refine Runs.checked ?_ (faultIf_false 1 s hb)
  rw [if_pos (by simpa using h)]
  exact Runs.pure ⟨q, rfl⟩ _

omit hb in
/-- The entries that a FEED that has just started takes. -/
theorem taken_fresh (t : Tile) {fd : Feed} (h0 : fd.next = 0) : taken (queueOf t fd.q) fd = feedRoom t fd := by
  unfold taken feedRoom
  rw [h0, Nat.sub_zero]

omit hb in
/-- What a queue that starts its FEED takes is what the FEED leaves (R57). -/
theorem fed_of_filled {fd : Feed} {u : Tile} (h0 : fd.next = 0) (hf : (tileOf s g).feeds = [])
    (l : QueueSet { tileOf s g with feeds := [], feedNo := (tileOf s g).feedNo + 1 } u fd.q (filled s g (queueOf (tileOf s g) fd.q) fd)) :
    Fed s g fd u := by
  refine ⟨l.here.trans ?_, l.other, ?_, ?_⟩
  · unfold filled
    rw [taken_fresh _ h0, h0, Nat.zero_add, List.range_eq_range']
  · have k := congrArg Tile.feedNo l.rest
    exact k
  · have k := congrArg (fun t => ({ t with feeds := (tileOf s g).feeds, feedNo := (tileOf s g).feedNo } : Tile)) l.rest
    dsimp only at k
    have hu : u.feeds = (tileOf s g).feeds := l.feeds.trans hf.symm
    rw [← hu] at k
    exact k.trans (by rw [hu])

/-- A FEED that finds no other in progress fills its queue. -/
theorem opFeed_fills (q : Quiet s g) (hn : wCount w ≠ 0) (hr : getBits w 0 16 ≠ 0) (hf : NoFeeds (tileOf s g))
    (hm : ∀ r ∈ feedRanges (feedOf (tileOf s g) pc w), fetchable r.1 r.2 = true)
    (hi : ∀ j < feedRoom (tileOf s g) (feedOf (tileOf s g) pc w), IngotsOk s g (feedOf (tileOf s g) pc w) j) :
    Leaves g (opFeed g pc w) s .next 0 (Fed s g (feedOf (tileOf s g) pc w)) := by
  generalize hfd : feedOf (tileOf s g) pc w = fd at hm hi ⊢
  have hq4 : fd.q < 4 := by
    rw [← hfd]
    exact getBits_lt w 46 2
  have h0 : fd.next = 0 := by rw [← hfd]; rfl
  have hc : fd.next < fd.count := by
    rw [← hfd]
    exact Nat.pos_of_ne_zero hn
  obtain ⟨u, hu, bu, qu, iu⟩ := modify_runs (f := fun t => { t with feeds := t.feeds ++ [fd], feedNo := t.feedNo + 1 }) (t := tileOf s g) ⟨q, rfl⟩
    (.inl rfl) rfl rfl (.inl rfl) rfl
  obtain ⟨v, ⟨x, hx, bx, qx, ix⟩, hl⟩ := refillAll_takes (s0 := s) qu (fd := fd) (by rw [hf.1]; rfl) hq4 hf.2 hc (fun x v bx hv => by
    obtain ⟨y, hv⟩ := hv
    have k := bu.trans bx
    rw [zero_flags] at k
    have e : ∀ {α : Type} (f : Tile → α), f { v with queues := (tileOf s g).queues } = f { tileOf s g with feeds := [], feedNo := (tileOf s g).feedNo + 1 } :=
      fun f => congrArg f hv.rest
    exact .of_becomes k (e Tile.mem) (e Tile.memFlip) (e Tile.valid) (e Tile.half0) (e Tile.half1)) (fun j _ hj => hi j (by
      rw [h0, Nat.zero_add] at hj
      rw [← taken_fresh (tileOf s g) h0]
      exact hj))
  have hr : Runs g (opFeed g pc w) s .next v 0 := by
    have hp : pReg g (wA w) s = .ok (ptr (tileOf s g) (wA w)) s := rfl
    have hs : sReg g (wB w) s = .ok (num (tileOf s g) (wB w)) s := rfl
    have hbad : ((feedRanges fd).any fun r => !fetchable r.1 r.2) = false := by
      simpa using fun a b h => hm (a, b) h
    subst hfd
    unfold opFeed
    refine Runs.checked (b := ()) ?_ (faultIf_false 1 s hb)
    rw [if_neg (by simp [hn, hr])]
    refine Runs.checked (Runs.checked (Runs.checked (b := s) ?_ (tileM_get s)) hs) hp
    dsimp only
    refine Runs.checked (b := ()) ⟨x, ?_, ?_, qx, ?_⟩ (faultIf_false 2 s hbad)
    · exact (tileM_bind_ok hu).trans (tileM_bind_ok hx)
    · have k := bu.trans bx
      rwa [zero_flags] at k
    · rw [ix, bu.2.1]
  exact ⟨v, hr, fed_of_filled h0 hf.1 hl⟩
end

/-- A FEED that the execute engine reaches. -/
theorem runFeed_inOrder {s : State} {t : TileId} {w : Word} (hc : canFeed s t.gid w = true) (hw : (tileOf s t.gid).wait = none)
    (hr : ∀ x, reachFeed s t.gid w = .feed x → x.pc = issueAt s t.gid) :
    runFeed t w s = runOp t w 0x20 (opFeed t.gid (issueAt s t.gid) w) s := by
  unfold runFeed
  dsimp only
  rw [if_pos hc, hw]
  cases h : reachFeed s t.gid w with
  | feed x =>
    rw [← hr x h]
    exact if_pos ⟨rfl, rfl⟩
  | blocked => rfl
  | absent => rfl

/-- A FEED that the fetch engine reaches ahead of the execute engine. -/
theorem runFeed_ahead {s : State} {t : TileId} {w : Word} {x : Fetch} (hc : canFeed s t.gid w = true) (hr : reachFeed s t.gid w = .feed x)
    (ha : (tileOf s t.gid).wait.isSome ∨ x.pc ≠ issueAt s t.gid) : runFeed t w s = feedAhead s t.gid w x := by
  have hn : ¬((tileOf s t.gid).wait.isNone = true ∧ x.pc = issueAt s t.gid) := by
    rintro ⟨hw, hp⟩
    rcases ha with ha | ha
    · rw [Option.isNone_iff_eq_none.mp hw] at ha
      exact absurd ha (by decide)
    · exact ha hp
  unfold runFeed
  dsimp only
  rw [if_pos hc, hr]
  exact if_neg hn

/-- The registers of the fetch engine take the place of the tile's while it reads. -/
def withFetch (s : State) (g : Nat) (x : Fetch) : State := modTile s g (fun T => { T with p := x.p, s := x.s })

theorem quiet_withFetch {s : State} {g : Nat} (q : Quiet s g) (x : Fetch) : Quiet (withFetch s g x) g := by
  obtain ⟨hm, h0, h1, hr, hi⟩ := q
  have ht : tileOf (withFetch s g x) g = { tileOf s g with p := x.p, s := x.s } := tileOf_modTile_same ..
  unfold Quiet
  rw [ht]
  exact ⟨hm, h0, h1, hr, hi⟩

theorem feedAhead_ok {s y : State} {g : Nat} {w : Word} {x : Fetch} (h : opFeed g x.pc w (withFetch s g x) = .ok .next y) :
    feedAhead s g w x = modTile y g (fun u => { u with p := (tileOf s g).p, s := (tileOf s g).s, fed := (tileOf s g).fed ++ [x.pc] }) := by
  unfold withFetch at h
  unfold feedAhead
  dsimp only
  rw [h]

/-- Settles O11: the product's loop, its wait, and the FEEDs in turn and ahead. -/
theorem matrixProductAndFeed : Obligations.MatrixProductAndFeed := by
  unfold Obligations.MatrixProductAndFeed
  intro s₀ t w q s T qa qb set ea eb na nb pc fd
  have q' : At t.gid s T := at_issued w q
  refine ⟨fun hi hb hs hk => ?_, fun hi hb hs hk hf ha hn hla hlb hm => ?_, fun x hi hb hs hk hf ha hn he => ?_, fun hi hc hw hr hb => ⟨fun h => ?_,
    fun hk hr0 hf hm hg => ?_⟩, fun x hc hr ha hb hk hr0 => ?_⟩
  · exact (opMm_empty q' hb hs hk .none).ends hi
  · obtain ⟨tl, hr, hl⟩ := opMm_folds q' hb hs hk hf ha rfl rfl hla hlb hm
    refine ⟨_, tl.arrEnded, rfl, hr.array_retires hi hn, hl.written, hl.kept, hl.left, hl.right, hl.other, ?_⟩
    have k := congrArg Tile.arrEnded hl.rest
    have hT : (T.arrBegun w s.now).arrEnded = T := by
      unfold Tile.arrBegun Tile.arrEnded
      rw [← ha, ← hn]
    exact k.trans hT
  · obtain ⟨v, hv, bv⟩ := opMm_starves q' hb hs hk hf ha he x
    exact ⟨_, v, congrArg Host.Outcome.next (runOp_starves hi hv bv hn), bv, rfl⟩
  · have he : exec (.feed t w) s₀ = .next (runOp t w 0x20 (opFeed t.gid pc w) s₀) := congrArg Host.Outcome.next (runFeed_inOrder hc hw hr)
    rw [he]
    exact (opFeed_empty hb q'.1 h).ends hi
  · have he : exec (.feed t w) s₀ = .next (runOp t w 0x20 (opFeed t.gid pc w) s₀) := congrArg Host.Outcome.next (runFeed_inOrder hc hw hr)
    obtain ⟨v, hv, hl⟩ := opFeed_fills hb q'.1 hk hr0 hf hm hg
    obtain ⟨u, hu, hd⟩ := hv.ends hi
    exact ⟨u, v, he.trans hu, hd, hl⟩
  · intro c T₀ fd hf hm hg
    obtain ⟨v, ⟨y, hy, by', -, -⟩, hl⟩ := opFeed_fills (pc := x.pc) hb (quiet_withFetch q x) hk hr0 (by rw [withFetch, tileOf_modTile_same]; exact hf) hm hg
    refine ⟨_, v, congrArg Host.Outcome.next ((runFeed_ahead hc hr ha).trans (feedAhead_ok hy)), hl, ?_⟩
    have k := ((becomes_modTile t.gid s₀ _).trans by').trans (becomes_modTile t.gid y
      (fun u => { u with p := T₀.p, s := T₀.s, fed := T₀.fed ++ [x.pc] }))
    rw [by'.2.1, zero_flags, zero_flags] at k
    exact k

end Sys2Proof.Machine
end

section
/-! PROOFS. The sparse product. -/
namespace Sys2Proof.Machine

/-! ### What the body of a sparse product may change -/

/-- The tile becomes `t`, the flags `fl` are raised, and `m` misses and `i` idle pairs are counted; nothing else changes. -/
structure Riddled (g : Nat) (s u : State) (t : Tile) (fl : Flags) (m i : Nat) : Prop where
  only : OnlyTile g [regAddr .TIL_FLAGS g 0, regAddr .TIL_RIDDLE g 0] s u
  tile : tileOf u g = t
  flags : rdReg u .TIL_FLAGS g 0 = rdReg s .TIL_FLAGS g 0 ||| fl.setWidth 64
  misses : getF u F.TIL_RIDDLE_MISSES g = min (getF s F.TIL_RIDDLE_MISSES g + m) (2 ^ 32 - 1)
  idle : getF u F.TIL_RIDDLE_IDLE_PAIRS g = min (getF s F.TIL_RIDDLE_IDLE_PAIRS g + i) (2 ^ 32 - 1)

section
variable {g : Nat} {s u v : State} {t t' : Tile} {fl fl' : Flags} {m i m' i' : Nat}

theorem Riddled.trans (h : Riddled g s u t fl m i) (k : Riddled g u v t' fl' m' i') : Riddled g s v t' (fl ||| fl') (m + m') (i + i') := by
  refine ⟨h.only.trans k.only (List.Subset.refl _) (List.Subset.refl _), k.tile, ?_, ?_, ?_⟩
  · rw [k.flags, h.flags, BitVec.setWidth_or, BitVec.or_assoc]
  · rw [k.misses, h.misses]
    omega
  · rw [k.idle, h.idle]
    omega

theorem Riddled.reg (h : Riddled g s u t fl m i) {r : RegName} (hf : regAddr r g 0 ≠ regAddr .TIL_FLAGS g 0)
    (hr : regAddr r g 0 ≠ regAddr .TIL_RIDDLE g 0) : rdReg u r g 0 = rdReg s r g 0 := by
  obtain ⟨-, hk, -⟩ := h.only
  unfold rdReg getD
  rw [hk _ (by simp [hf, hr])]

theorem Riddled.field (h : Riddled g s u t fl m i) (f : Fld) (hf : regAddr f.reg g 0 ≠ regAddr .TIL_FLAGS g 0)
    (hr : regAddr f.reg g 0 ≠ regAddr .TIL_RIDDLE g 0) : getF u f g = getF s f g := by
  unfold getF getI
  rw [h.reg hf hr]

theorem getF_le (s : State) (f : Fld) (g : Nat) : getF s f g ≤ 2 ^ f.w - 1 := Nat.le_sub_one_of_lt (getBits_lt ..)

theorem Becomes.riddled (h : Becomes g s u t fl) : Riddled g s u t fl 0 0 := by
  have hr : rdReg u .TIL_RIDDLE g 0 = rdReg s .TIL_RIDDLE g 0 := h.reg (tilAddr_ne g rfl rfl (by decide))
  have hk : ∀ f : Fld, f.reg = .TIL_RIDDLE → f.w = 32 → getF u f g = min (getF s f g + 0) (2 ^ 32 - 1) := by
    intro f hf hw
    have hl := getF_le s f g
    rw [hw] at hl
    rw [Nat.add_zero, Nat.min_eq_left hl]
    unfold getF getI
    rw [hf, hr]
  exact ⟨h.1.trans (OnlyTile.refl g [] u) (by simp) (by simp), h.2.1, h.2.2, hk _ rfl rfl, hk _ rfl rfl⟩

/-- What counting leaves of the registers and tiles, for any counter of TIL_RIDDLE. -/
theorem countF_riddle (g : Nat) (s : State) {f : Fld} (hf : f.reg = .TIL_RIDDLE) (n : Nat) :
    OnlyTile g [regAddr .TIL_FLAGS g 0, regAddr .TIL_RIDDLE g 0] s (countF s f g n) ∧
      rdReg (countF s f g n) .TIL_FLAGS g 0 = rdReg s .TIL_FLAGS g 0 := by
  have k : OnlyTile g [regAddr f.reg g 0] s (countF s f g n) := onlyTile_setF g s f _
  have ha : regAddr .TIL_FLAGS g 0 ≠ regAddr f.reg g 0 := by
    rw [hf]
    exact tilAddr_ne g rfl rfl (by decide)
  rw [hf] at k
  exact ⟨k.trans (OnlyTile.refl g [] _) (by simp) (by simp), rdReg_setF_ne s f _ g g 0 _ ha⟩

theorem getF_countF_other (s : State) (f e : Fld) (g n : Nat) (hr : e.reg = f.reg) (h : f.fits) (hd : e.lo + e.w ≤ f.lo ∨ f.lo + f.w ≤ e.lo) :
    getF (countF s f g n) e g = getF s e g := getF_setF_other s f e g _ hr h hd

theorem riddled_count (g : Nat) (s : State) (m i : Nat) :
    Riddled g s (countF (countF s F.TIL_RIDDLE_MISSES g m) F.TIL_RIDDLE_IDLE_PAIRS g i) (tileOf s g) 0 m i := by
  have hm : getF (countF s F.TIL_RIDDLE_MISSES g m) F.TIL_RIDDLE_MISSES g = min (getF s F.TIL_RIDDLE_MISSES g + m) (2 ^ 32 - 1) :=
    getF_countF_same s F.TIL_RIDDLE_MISSES g m (by decide)
  have hi : getF (countF s F.TIL_RIDDLE_MISSES g m) F.TIL_RIDDLE_IDLE_PAIRS g = getF s F.TIL_RIDDLE_IDLE_PAIRS g :=
    getF_countF_other _ _ _ _ _ rfl (by decide) (by decide)
  obtain ⟨o1, f1⟩ := countF_riddle g s (f := F.TIL_RIDDLE_MISSES) rfl m
  have t1 : tileOf (countF s F.TIL_RIDDLE_MISSES g m) g = tileOf s g := tileOf_countF ..
  generalize countF s F.TIL_RIDDLE_MISSES g m = u at hm hi o1 f1 t1 ⊢
  obtain ⟨o2, f2⟩ := countF_riddle g u (f := F.TIL_RIDDLE_IDLE_PAIRS) rfl i
  have hm2 := (getF_countF_other u F.TIL_RIDDLE_IDLE_PAIRS F.TIL_RIDDLE_MISSES g i rfl (by decide) (by decide)).trans hm
  have hi2 := getF_countF_same u F.TIL_RIDDLE_IDLE_PAIRS g i (by decide)
  rw [hi] at hi2
  exact ⟨o1.trans o2 (List.Subset.refl _) (List.Subset.refl _), (tileOf_countF ..).trans t1, by rw [f2, f1]; simp, hm2, hi2⟩

theorem At.counted (q : At g s t) (m i : Nat) : At g (countF (countF s F.TIL_RIDDLE_MISSES g m) F.TIL_RIDDLE_IDLE_PAIRS g i) t := by
  have h := riddled_count g s m i
  obtain ⟨⟨hm, h0, h1, hr, hi⟩, ht⟩ := q
  have hj := h.field F.TIL_MEM_INJ_ARM (tilAddr_ne g rfl rfl (by decide)) (tilAddr_ne g rfl rfl (by decide))
  generalize countF (countF s F.TIL_RIDDLE_MISSES g m) F.TIL_RIDDLE_IDLE_PAIRS g i = u at h hj ⊢
  unfold At Quiet
  rw [h.tile, hj]
  exact ⟨⟨hm, h0, h1, hr, hi⟩, ht⟩

/-- A register other than TIL_STATUS is as before retirement. -/
theorem rdReg_retire (s : State) (g pc : Nat) {r : RegName} (k : regAddr r g 0 ≠ regAddr .TIL_STATUS g 0) :
    rdReg (retire s g pc) r g 0 = rdReg s r g 0 := by
  unfold retire progress moveIssue
  dsimp only
  rw [rdReg_modTile, rdReg_modTile, rdReg_setF_ne _ F.TIL_STATUS_WAITKIND _ _ _ _ _ k, rdReg_modTile]
  split
  · rfl
  · exact rdReg_setF_ne _ F.TIL_STATUS_PC _ _ _ _ _ k

/-- A sparse product that completes, with no op issued behind it, retires. -/
theorem riddle_retires {s₀ : State} {i₀ : TileId} {w : Word} {op : Nat} {body : TileM OpEnd} (hi : Issues s₀ i₀ w op)
    (hn : (tileOf (issued s₀ i₀.gid w) i₀.gid).issue = none) (hb : body (issued s₀ i₀.gid w) = .ok .array v)
    (h : Riddled i₀.gid (issued s₀ i₀.gid w) v t fl m i) (ht : t.issue = none) :
    let u := runOp i₀ w op body s₀
    OpDone (issued s₀ i₀.gid w) u i₀.gid (issueAt (issued s₀ i₀.gid w) i₀.gid + 8) [.TIL_FLAGS, .TIL_RIDDLE] t.arrEnded ∧
      rdReg u .TIL_FLAGS i₀.gid 0 = rdReg v .TIL_FLAGS i₀.gid 0 ∧ rdReg u .TIL_RIDDLE i₀.gid 0 = rdReg v .TIL_RIDDLE i₀.gid 0 := by
  intro u
  have hi' : (tileOf v i₀.gid).issue = none := by rw [h.tile, ht]
  have hf : finishOp s₀ i₀.gid (.ok .array v) = retire (endArr v i₀.gid) i₀.gid (getF v F.TIL_STATUS_PC i₀.gid + 8) :=
    if_neg (by rw [hi']; exact Bool.false_ne_true)
  have hpc : getF v F.TIL_STATUS_PC i₀.gid = issueAt (issued s₀ i₀.gid w) i₀.gid :=
    (h.field F.TIL_STATUS_PC (tilAddr_ne _ rfl rfl (by decide)) (tilAddr_ne _ rfl rfl (by decide))).trans (issueAt_none hn).symm
  have hu : u = retire (modTile v i₀.gid Tile.arrEnded) i₀.gid (issueAt (issued s₀ i₀.gid w) i₀.gid + 8) := by
    rw [← endArr_ahead_none hi', ← hpc, ← hf, ← hb]
    exact runOp_body hi
  have ho : OnlyTile i₀.gid ([RegName.TIL_FLAGS, .TIL_RIDDLE].map (regAddr · i₀.gid 0)) (issued s₀ i₀.gid w) (modTile v i₀.gid Tile.arrEnded) :=
    h.only.trans (onlyTile_modTile _ _ _) (List.Subset.refl _) (List.nil_subset _)
  have hd := retire_done (pc := issueAt (issued s₀ i₀.gid w) i₀.gid + 8) ho
    (h.reg (r := .TIL_STATUS) (tilAddr_ne _ rfl rfl (by decide)) (tilAddr_ne _ rfl rfl (by decide)))
  rw [tileOf_modTile_same, h.tile] at hd
  rw [hu]
  exact ⟨hd, rdReg_retire _ _ _ (tilAddr_ne _ rfl rfl (by decide)), rdReg_retire _ _ _ (tilAddr_ne _ rfl rfl (by decide))⟩
end

/-! ### The maps -/

theorem core_maps {x y : ArrOp} (h : x.core = y.core) : x.maps = y.maps := by
  have k := congrArg ArrOp.maps h
  exact k

/-- The maps that an SPMM takes are popped. -/
theorem popMaps_runs {g : Nat} {w : Word} {s : State} {t : Tile} {x : ArrOp} (a : At g s t) (hf : NoFeeds t) (hx : t.arr = some x)
    (hm : x.maps = []) (hl : spMapEntries w ≤ (queueOf t (getBits w 42 2)).entries.length) :
    Leaves g (popMaps g w .none) s () 0 fun u => Popped t u (getBits w 42 2) ((queueOf t (getBits w 42 2)).entries.drop (spMapEntries w))
      { x with maps := (queueOf t (getBits w 42 2)).entries.take (spMapEntries w) } := by
  unfold popMaps
  refine .checked (tileM_get s) ?_
  have hneed : mapEntries (wCount w) * (wMode w % 2 + wMode w / 2) - (arrOf (tileOf s g)).maps.length = spMapEntries w := by
    rw [a.2, arrOf_some hx, hm]
    rfl
  rw [hneed]
  generalize spMapEntries w = n at hl ⊢
  by_cases h0 : n = 0
  · subst h0
    refine ⟨t, ?_, ?_⟩
    · rw [if_pos rfl]
      exact Runs.pure a ()
    · have k := Popped.refl (getBits w 42 2) hx
      have hx0 : x = { x with maps := [] } := by rw [← hm]
      rw [hx0] at k
      simpa using k
  · rw [if_neg h0]
    obtain ⟨e, es, he⟩ := List.exists_cons_of_ne_nil (List.ne_nil_of_length_pos (Nat.lt_of_lt_of_le (Nat.pos_of_ne_zero h0) hl))
    obtain ⟨u, hu, bu, qu, iu⟩ := peekEntry_runs a he
    obtain ⟨v, ⟨y, hy, by', qy, iy⟩, hp⟩ := popMore_runs (g32 := false) (keep := fun a e => { a with maps := a.maps ++ [e] })
      (rest := (queueOf t (getBits w 42 2)).entries.drop n) (fun a b e hc => by
        have k := core_maps hc
        unfold ArrOp.core at hc ⊢
        cases a; cases b; simp_all) ((queueOf t (getBits w 42 2)).entries.take n) qu hf hx (List.take_append_drop ..).symm (fun h => nomatch h)
    rw [foldl_maps, hm, List.nil_append] at hp
    rw [List.length_take, Nat.min_eq_left hl] at hy
    refine ⟨v, ⟨y, ?_, ?_, qy, ?_⟩, hp⟩
    · rw [tileM_bind_ok hu, tileM_bind_ok (show checkUpset .none u = .ok () u from rfl), hy]
    · have k := bu.trans by'
      rwa [zero_flags] at k
    · rw [iy, bu.2.1, a.2]

/-! ### A block -/

/-- Which pairs of block `b` contribute, and which the maps `ma` and `mb` keep. -/
def pairsWith (a b : KBlock) (ma mb k : Nat) : List (Bool × Bool) :=
  List.zip ((List.range 32).map (contributing a b)) ((List.range 32).map (fun i => Nat.testBit ma (32 * k + i) && Nat.testBit mb (32 * k + i)))

/-- The contributing pairs of a block. -/
def contribs (a b : KBlock) : Nat := (((List.range 32).map (contributing a b)).filter id).length

/-- How many pairs contribute though the maps drop them. -/
def missed (l : List (Bool × Bool)) : Nat := (l.filter (fun e => e.1 && !e.2)).length

/-- How many pairs the maps keep though they do not contribute. -/
def idled (l : List (Bool × Bool)) : Nat := (l.filter (fun e => !e.1 && e.2)).length

/-- What one turn of an SPMM's loop does. -/
def spTurn (g : Nat) (w : Word) (ma mb : Nat) : TileM (ForInStep PUnit) := do
  let _ ← peekEntry g (nextQueue (arrOf (tileOf (← get) g)) w)
  checkUpset .none
  let f := foldOf (tileOf (← get) g) w (getBits w 41 1)
  let b := (arrOf (tileOf (← get) g)).block
  let ks ← popBlocks g w true
  modify (fun s => countF (countF s F.TIL_RIDDLE_MISSES g (missed (pairsWith ks.1 ks.2 ma mb b)))
    F.TIL_RIDDLE_IDLE_PAIRS g (idled (pairsWith ks.1 ks.2 ma mb b)))
  let r := spBlock ks.1 ks.2 (contribs ks.1 ks.2) f
  modArr g (fun a => { a with set := r.1.set, bank := r.1.bank, pairs := r.1.pairs, first := r.1.first })
  raiseFlags g r.2
  pure (ForInStep.yield PUnit.unit)

/-- What the blocks of an SPMM leave of a tile: entries popped from its operand queues, `n` blocks folded into `x`. -/
structure SpLeft (w : Word) (t u : Tile) (ea eb : List QEntry) (n : Nat) (x : SpFold) : Prop where
  left : queueOf u (getBits w 46 2) = { queueOf t (getBits w 46 2) with entries := ea }
  right : queueOf u (getBits w 44 2) = { queueOf t (getBits w 44 2) with entries := eb }
  other : ∀ p, p ≠ getBits w 46 2 → p ≠ getBits w 44 2 → queueOf u p = queueOf t p
  arr : ∃ y, u.arr = some y ∧ y.block = n ∧ y.ea = [] ∧ y.eb = []
  fold : foldOf u w (getBits w 41 1) = x
  rest : { u with queues := t.queues, arr := t.arr } = t

/-- From `s` a body gives `a`, raises `fl`, counts `m` misses and `i` idle pairs, and leaves a tile of which `P` holds. -/
def Riddles {α : Type} (g : Nat) (body : TileM α) (s : State) (a : α) (fl : Flags) (m i : Nat) (P : Tile → Prop) : Prop :=
  ∃ u v, body s = .ok a u ∧ Riddled g s u v fl m i ∧ At g u v ∧ P v

theorem spTurn_runs {g : Nat} {w : Word} {ea eb : List QEntry} {ma mb : Nat} {s : State} {t : Tile} {x : ArrOp}
    (a : At g s t) (hn : NoFeeds t) (hx : t.arr = some x) (hea : x.ea = []) (heb : x.eb = []) (hq : getBits w 46 2 ≠ getBits w 44 2)
    (hqa : (queueOf t (getBits w 46 2)).entries = ea.drop (entriesPer (wFmt w) * x.block))
    (hqb : (queueOf t (getBits w 44 2)).entries = eb.drop (entriesPer (wFmt2 w) * x.block))
    (hla : entriesPer (wFmt w) * (x.block + 1) ≤ ea.length) (hlb : entriesPer (wFmt2 w) * (x.block + 1) ≤ eb.length)
    (hma : ∀ e ∈ blockEntries (wFmt w) x.block ea, e.mark = false) (hmb : ∀ e ∈ blockEntries (wFmt2 w) x.block eb, e.mark = false) :
    let p := spPair w ea eb x.block
    let r := spBlock p.1 p.2 (contribs p.1 p.2) (foldOf t w (getBits w 41 1))
    Riddles g (spTurn g w ma mb) s (.yield ()) r.2 (missed (pairsWith p.1 p.2 ma mb x.block)) (idled (pairsWith p.1 p.2 ma mb x.block))
      (SpLeft w t · (ea.drop (entriesPer (wFmt w) * (x.block + 1))) (eb.drop (entriesPer (wFmt2 w) * (x.block + 1))) (x.block + 1) r.1) := by
  intro p r
  have ha := hqa.trans (blockEntries_append (wFmt w) x.block ea)
  have hb := hqb.trans (blockEntries_append (wFmt2 w) x.block eb)
  have la := blockEntries_length hla
  have lb := blockEntries_length hlb
  obtain ⟨e, es, he⟩ := List.exists_cons_of_ne_nil (List.ne_nil_of_length_pos (l := blockEntries (wFmt w) x.block ea) (by
    rw [la]
    exact entriesPer_pos _))
  have hpeek : (queueOf t (nextQueue x w)).entries = e :: (es ++ ea.drop (entriesPer (wFmt w) * (x.block + 1))) := by
    rw [show nextQueue x w = getBits w 46 2 from if_pos (by rw [hea]; exact entriesPer_pos _), ha, he]
    rfl
  obtain ⟨s1, r1, b1, a1, -⟩ := peekEntry_runs a hpeek
  obtain ⟨t2, ⟨s2, r2, b2, a2, -⟩, p2⟩ := popBlocks_runs (g32 := true) a1 hn hx hea heb hq ha hb la lb (fun _ => hma) (fun _ => hmb)
  have c3 := riddled_count g s2 (missed (pairsWith p.1 p.2 ma mb x.block)) (idled (pairsWith p.1 p.2 ma mb x.block))
  have a3 := a2.counted (missed (pairsWith p.1 p.2 ma mb x.block)) (idled (pairsWith p.1 p.2 ma mb x.block))
  obtain ⟨s4, r4, b4, a4, -⟩ := modify_runs (f := fun t => { t with arr := t.arr.map (fun a =>
    { a with set := r.1.set, bank := r.1.bank, pairs := r.1.pairs, first := r.1.first }) }) a3 (.inl rfl) rfl rfl (.inl rfl) rfl
  obtain ⟨s5, r5, b5, a5, -⟩ := raiseFlags_runs (fl := r.2) a4
  obtain ⟨y, hy, hc⟩ := p2.arr
  have hyb : y.block = x.block + 1 := core_block hc
  have harr : t2.arr.map (fun a => { a with set := r.1.set, bank := r.1.bank, pairs := r.1.pairs, first := r.1.first }) =
      some { y with set := r.1.set, bank := r.1.bank, pairs := r.1.pairs, first := r.1.first } := by
    rw [hy]
    rfl
  refine ⟨s5, _, ?_, ?_, a5, p2.left, p2.right, p2.other, ?_, ?_, ?_⟩
  · unfold spTurn
    rw [tileM_bind_ok (tileM_get s), a.2, arrOf_some hx, tileM_bind_ok r1, tileM_bind_ok (show checkUpset .none s1 = .ok () s1 from rfl),
      tileM_bind_ok (tileM_get s1), a1.2, tileM_bind_ok (tileM_get s1), a1.2, arrOf_some hx, tileM_bind_ok r2, tileM_bind_ok (tileM_modify _ s2)]
    dsimp only
    unfold modArr
    exact (tileM_bind_ok r4).trans (tileM_bind_ok r5)
  · have k := ((b1.trans b2).riddled.trans c3).trans (b4.trans b5).riddled
    simpa only [zero_flags, Nat.zero_add, Nat.add_zero] using k
  · exact ⟨_, harr, hyb, (core_ea hc).trans hea, (core_eb hc).trans heb⟩
  · unfold foldOf
    rw [arrOf_some harr]
    exact if_neg (by rw [hyb]; exact Nat.succ_ne_zero _)
  · exact p2.rest

/-! ### The blocks -/

theorem SpLeft.noFeeds {w : Word} {t u : Tile} {ea eb : List QEntry} {n : Nat} {x : SpFold} (h : SpLeft w t u ea eb n x) (k : NoFeeds t) : NoFeeds u := by
  obtain ⟨hf, hq⟩ := k
  have hr := congrArg Tile.feeds h.rest
  refine ⟨hr.trans hf, fun p => ?_⟩
  by_cases ha : p = getBits w 46 2
  · rw [ha, h.left]
    exact hq _
  · by_cases hb : p = getBits w 44 2
    · rw [hb, h.right]
      exact hq _
    · rw [h.other p ha hb]
      exact hq p

theorem SpLeft.trans {w : Word} {t u v : Tile} {ea eb fa fb : List QEntry} {n m : Nat} {x y : SpFold} (h : SpLeft w t u ea eb n x)
    (k : SpLeft w u v fa fb m y) : SpLeft w t v fa fb m y := by
  refine ⟨by rw [k.left, h.left], by rw [k.right, h.right], fun p ha hb => (k.other p ha hb).trans (h.other p ha hb), k.arr, k.fold, ?_⟩
  have h1 := h.rest
  have k1 := k.rest
  rw [← h1, ← k1]

/-- Pairs missed and idle in the blocks `bs`, under the maps `ma` and `mb`. -/
def missedIn (w : Word) (ea eb : List QEntry) (ma mb : Nat) (bs : List Nat) : Nat :=
  (bs.map (fun b => missed (pairsWith (spPair w ea eb b).1 (spPair w ea eb b).2 ma mb b))).sum
def idledIn (w : Word) (ea eb : List QEntry) (ma mb : Nat) (bs : List Nat) : Nat :=
  (bs.map (fun b => idled (pairsWith (spPair w ea eb b).1 (spPair w ea eb b).2 ma mb b))).sum

theorem spLoop_runs {g : Nat} {w : Word} {ea eb : List QEntry} {ma mb : Nat} (hq : getBits w 46 2 ≠ getBits w 44 2) (l : List Nat) {n : Nat}
    {s : State} {t : Tile} {x : ArrOp} (a : At g s t) (hn : NoFeeds t) (hx : t.arr = some x) (hxb : x.block = n) (hea : x.ea = []) (heb : x.eb = [])
    (hqa : (queueOf t (getBits w 46 2)).entries = ea.drop (entriesPer (wFmt w) * n))
    (hqb : (queueOf t (getBits w 44 2)).entries = eb.drop (entriesPer (wFmt2 w) * n))
    (hla : entriesPer (wFmt w) * (n + l.length) ≤ ea.length) (hlb : entriesPer (wFmt2 w) * (n + l.length) ≤ eb.length)
    (hma : ∀ e ∈ ea.take (entriesPer (wFmt w) * (n + l.length)), e.mark = false)
    (hmb : ∀ e ∈ eb.take (entriesPer (wFmt2 w) * (n + l.length)), e.mark = false) :
    let bs := List.range' n l.length
    let r := spFolded w ea eb bs (foldOf t w (getBits w 41 1))
    Riddles g (forIn l PUnit.unit (fun _ _ => spTurn g w ma mb)) s PUnit.unit r.2 (missedIn w ea eb ma mb bs) (idledIn w ea eb ma mb bs)
      (SpLeft w t · (ea.drop (entriesPer (wFmt w) * (n + l.length))) (eb.drop (entriesPer (wFmt2 w) * (n + l.length))) (n + l.length) r.1) := by
  induction l generalizing s t x n with
  | nil =>
    refine ⟨s, t, rfl, ?_, a, ?_, ?_, fun _ _ _ => rfl, ⟨x, hx, hxb, hea, heb⟩, rfl, rfl⟩
    · have k := (Becomes.refl g s).riddled
      rwa [a.2] at k
    · rw [List.length_nil, Nat.add_zero, ← hqa]
    · rw [List.length_nil, Nat.add_zero, ← hqb]
  | cons j l ih =>
    subst hxb
    have hlen : x.block + (j :: l).length = x.block + 1 + l.length := by
      rw [List.length_cons]
      omega
    rw [hlen] at hla hlb hma hmb ⊢
    have le : ∀ k, k * (x.block + 1) ≤ k * (x.block + 1 + l.length) := fun k => Nat.mul_le_mul_left _ (by omega)
    have marks : ∀ (f : Nat) (es : List QEntry), (∀ e ∈ es.take (entriesPer f * (x.block + 1 + l.length)), e.mark = false) →
        ∀ e ∈ blockEntries f x.block es, e.mark = false := fun f es h e he =>
      h e (List.take_subset_take_left _ (le _) (mem_blockEntries he))
    obtain ⟨s1, t1, r1, c1, a1, l1⟩ := spTurn_runs (ma := ma) (mb := mb) a hn hx hea heb hq hqa hqb ((le _).trans hla) ((le _).trans hlb)
      (marks _ _ hma) (marks _ _ hmb)
    obtain ⟨y, hy, hyb, hya, hye⟩ := l1.arr
    obtain ⟨s2, t2, r2, c2, a2, l2⟩ := ih a1 (l1.noFeeds hn) hy hyb hya hye (by rw [l1.left]) (by rw [l1.right]) hla hlb hma hmb
    rw [l1.fold] at c2 l2
    refine ⟨s2, t2, ?_, c1.trans c2, a2, l1.trans l2⟩
    rw [List.forIn_cons, tileM_bind_ok r1]
    exact r2

/-! ### The size of an accumulator set -/

/-- The set and the bank hold an accumulator for each pair of lanes. -/
def SpFold.Sized (x : SpFold) : Prop := x.set.length = 1024 ∧ x.bank.length = 1024

theorem mergeBank_length {x : SpFold} (h : x.Sized) : (mergeBank x).1.length = 1024 := by
  obtain ⟨hs, hb⟩ := h
  unfold mergeBank
  split
  · exact hs
  · simp [hs, hb]

theorem spBlock_sized {a b : KBlock} (ha : a.length = 32) (hb : b.length = 32) (p : Nat) {x : SpFold} (h : x.Sized) : (spBlock a b p x).1.Sized := by
  have hm : (if decide (1024 < x.pairs + p) = true then mergeBank x else (x.set, flNone)).1.length = 1024 := by
    split
    · exact mergeBank_length h
    · exact h.1
  unfold spBlock
  dsimp only
  generalize (if decide (1024 < x.pairs + p) = true then mergeBank x else (x.set, flNone)) = m at hm ⊢
  generalize (x.first && !decide (1024 < x.pairs + p)) = first
  generalize hsrc : (if first = true then m.1 else if decide (1024 < x.pairs + p) = true then List.replicate 1024 0 else x.bank) = src
  have hl : src.length = 1024 := by
    rw [← hsrc]
    split
    · exact hm
    · split
      · exact List.length_replicate ..
      · exact h.2
  have hy : ((foldSet true 32 a b src).map (·.1)).length = 1024 := by
    rw [List.length_map]
    exact foldSet_length ha hb hl
  cases first with
  | true => exact ⟨hy, h.2⟩
  | false => exact ⟨hm, hy⟩

theorem spFolded_sized {w : Word} {ea eb : List QEntry} (bs : List Nat) (ha : ∀ b ∈ bs, entriesPer (wFmt w) * (b + 1) ≤ ea.length)
    (hb : ∀ b ∈ bs, entriesPer (wFmt2 w) * (b + 1) ≤ eb.length) {x : SpFold} (h : x.Sized) : (spFolded w ea eb bs x).1.Sized := by
  induction bs generalizing x with
  | nil => exact h
  | cons b bs ih =>
    refine ih (fun c hc => ha c (List.mem_cons_of_mem _ hc)) (fun c hc => hb c (List.mem_cons_of_mem _ hc)) (spBlock_sized ?_ ?_ _ h)
    · exact blockOf_length _ _ (blockEntries_length (ha b List.mem_cons_self))
    · exact blockOf_length _ _ (blockEntries_length (hb b List.mem_cons_self))

/-! ### The whole product -/

/-- What the checks of an SPMM give: distinct operand queues, and a map queue of its own where a map is taken. -/
theorem spmmBad_gives {w : Word} (hb : spmmBad w = false) : getBits w 46 2 ≠ getBits w 44 2 ∧
    (wMode w ≠ 0 → getBits w 42 2 ≠ getBits w 46 2 ∧ getBits w 42 2 ≠ getBits w 44 2) := by
  unfold spmmBad at hb
  simp only [Bool.or_eq_false_iff, Bool.and_eq_false_iff, beq_eq_false_iff_ne, bne_eq_false_iff_eq, decide_eq_false_iff_not] at hb
  obtain ⟨⟨⟨⟨-, hq⟩, -⟩, hm⟩, -⟩ := hb
  exact ⟨hq, fun h => hm.resolve_left h⟩

theorem spMapEntries_zero {w : Word} (h : wMode w = 0) : spMapEntries w = 0 := by
  unfold spMapEntries
  rw [h]
  rfl

/-- What an SPMM leaves of a tile. -/
structure SpDone (w : Word) (t u : Tile) (ea eb ec : List QEntry) (acc : List W32) : Prop where
  written : readSet u (getBits w 41 1) = acc
  kept : ∀ y, y ≠ getBits w 41 1 → readSet u y = readSet t y
  left : queueOf u (getBits w 46 2) = { queueOf t (getBits w 46 2) with entries := ea }
  right : queueOf u (getBits w 44 2) = { queueOf t (getBits w 44 2) with entries := eb }
  other : ∀ p, p ≠ getBits w 46 2 → p ≠ getBits w 44 2 → queueOf u p = if p = getBits w 42 2 then { queueOf t p with entries := ec } else queueOf t p
  rest : { u with queues := t.queues, acc := t.acc, arr := t.arr } = t

/-- The fold of an SPMM before its first block. -/
def spStart (t : Tile) (w : Word) : SpFold :=
  ⟨if getBits w 40 1 = 1 then List.replicate 1024 0 else readSet t (getBits w 41 1), List.replicate 1024 0, 0, true⟩

section
variable {g : Nat} {w : Word} {s : State} {t : Tile} (q : At g s t) (hb : spmmBad w = false) (hs : StageTakes s g w)
include q hb hs

theorem opSpmm_empty (hk : wCount w = 0) (x : Upset) : Runs g (opSpmm g w x) s .next t 0 := by
  unfold opSpmm
  refine Runs.checked (Runs.checked ?_ (checkStage_ok hs)) (faultIf_false 1 s hb)
  dsimp only
  rw [if_pos hk]
  exact Runs.pure q _

theorem opSpmm_folds (hk : wCount w ≠ 0) (hf : NoFeeds t) (ha : t.arr = none) {ea eb ec : List QEntry}
    (hea : (queueOf t (getBits w 46 2)).entries = ea) (heb : (queueOf t (getBits w 44 2)).entries = eb)
    (hec : (queueOf t (getBits w 42 2)).entries = ec)
    (hla : entriesPer (wFmt w) * (wCount w / 32) ≤ ea.length) (hlb : entriesPer (wFmt2 w) * (wCount w / 32) ≤ eb.length)
    (hlc : wMode w ≠ 0 → spMapEntries w ≤ ec.length)
    (hma : ∀ e ∈ ea.take (entriesPer (wFmt w) * (wCount w / 32)), e.mark = false)
    (hmb : ∀ e ∈ eb.take (entriesPer (wFmt2 w) * (wCount w / 32)), e.mark = false) :
    let bs := List.range (wCount w / 32)
    let x := spFolded w ea eb bs (spStart t w)
    Riddles g (opSpmm g w .none) s .array (x.2 ||| (mergeBank x.1).2) (spMisses w ea eb ec bs) (spIdle w ea eb ec bs)
      (SpDone w t · (ea.drop (entriesPer (wFmt w) * (wCount w / 32))) (eb.drop (entriesPer (wFmt2 w) * (wCount w / 32)))
        (ec.drop (spMapEntries w)) (mergeBank x.1).1) := by
  intro bs x
  obtain ⟨hq, hqc⟩ := spmmBad_gives hb
  have hlc : spMapEntries w ≤ (queueOf t (getBits w 42 2)).entries.length := by
    by_cases h : wMode w = 0
    · rw [spMapEntries_zero h]
      exact Nat.zero_le _
    · rw [hec]
      exact hlc h
  obtain ⟨u1, h1, b1, q1, -⟩ := beginArr_runs (w := w) q ha
  obtain ⟨u2, h2, b2, q2, -⟩ := refillAll_runs q1 (hf.arrBegun w s.now)
  obtain ⟨t3, ⟨u3, h3, b3, q3, -⟩, p3⟩ := popMaps_runs q2 (hf.arrBegun w s.now) rfl rfl hlc
  obtain ⟨y, hy, hc⟩ := p3.arr
  have hmaps : y.maps = ec.take (spMapEntries w) := by
    rw [← hec]
    exact core_maps hc
  have hkeep : ∀ p, p = getBits w 46 2 ∨ p = getBits w 44 2 → queueOf t3 p = queueOf t p := by
    intro p hp
    by_cases hpc : p = getBits w 42 2
    · have h0 : wMode w = 0 := by
        by_contra h
        obtain ⟨h46, h44⟩ := hqc h
        exact hp.elim (fun e => h46 (hpc.symm.trans e)) fun e => h44 (hpc.symm.trans e)
      have k := p3.here
      rw [spMapEntries_zero h0] at k
      rw [hpc]
      exact k
    · exact p3.other p hpc
  have hread : ∀ i, readSet t3 i = readSet t i := by
    intro i
    have k := congrArg (readSet · i) p3.rest
    exact k
  have hfold : foldOf t3 w (getBits w 41 1) = spStart t w := by
    unfold foldOf spStart
    rw [arrOf_some hy, hread]
    exact if_pos (core_block hc)
  have hqa := (congrArg OpQueue.entries (hkeep _ (.inl rfl))).trans hea
  have hqb := (congrArg OpQueue.entries (hkeep _ (.inr rfl))).trans heb
  have loop := spLoop_runs (ma := (spMaps w ec).1) (mb := (spMaps w ec).2) (ea := ea) (eb := eb) hq (List.range (wCount w / 32)) (n := 0) q3
    (p3.noFeeds (hf.arrBegun w s.now)) hy (core_block hc) (core_ea hc) (core_eb hc) hqa hqb
  simp only [List.length_range, Nat.zero_add, ← List.range_eq_range', hfold] at loop
  obtain ⟨u4, t4, h4, c4, q4, l4⟩ := loop hla hlb hma hmb
  obtain ⟨u5, h5, b5, q5, -⟩ := raiseFlags_runs (fl := (mergeBank x.1).2) q4
  obtain ⟨u6, h6, b6, q6, -⟩ := modify_runs (f := fun t => writeSet t (getBits w 41 1) (mergeBank x.1).1) q5 (.inl rfl) rfl rfl (.inl rfl) rfl
  have hsize : (mergeBank x.1).1.length = 1024 := by
    have le : ∀ k b, b ∈ List.range (wCount w / 32) → k * (b + 1) ≤ k * (wCount w / 32) := fun k b hb =>
      Nat.mul_le_mul_left _ (List.mem_range.mp hb)
    refine mergeBank_length (spFolded_sized _ (fun b hb => (le _ b hb).trans hla) (fun b hb => (le _ b hb).trans hlb) ⟨?_, List.length_replicate ..⟩)
    show (if getBits w 40 1 = 1 then List.replicate 1024 0 else readSet t (getBits w 41 1)).length = 1024
    split
    · exact List.length_replicate ..
    · exact readSet_length ..
  refine ⟨u6, _, ?_, ?_, q6, ?_⟩
  · unfold opSpmm
    dsimp only
    rw [tileM_bind_ok (faultIf_false 1 s hb), tileM_bind_ok (checkStage_ok hs), if_neg hk, tileM_bind_ok h1, tileM_bind_ok h2, tileM_bind_ok h3,
      tileM_bind_ok (tileM_get u3), q3.2, arrOf_some hy, hmaps, tileM_bind_ok (tileM_get u3), q3.2, arrOf_some hy,
      show y.block = 0 from core_block hc, Nat.sub_zero]
    refine (tileM_bind_ok h4).trans ?_
    rw [tileM_bind_ok (tileM_get u4), q4.2, l4.fold]
    exact (tileM_bind_ok h5).trans (tileM_bind_ok h6)
  · have k := ((b1.trans b2).trans b3).riddled.trans (c4.trans (b5.trans b6).riddled)
    simp only [zero_flags, flags_zero, Nat.zero_add, Nat.add_zero] at k
    exact k
  · have hset : ∀ i, readSet t4 i = readSet t i := by
      intro i
      have k := congrArg (readSet · i) l4.rest
      exact k.trans (hread i)
    refine ⟨readSet_writeSet_same _ _ _ hsize, fun i hi => (readSet_writeSet_ne _ _ hsize hi).trans (hset i), ?_, ?_, fun p ha hb => ?_, ?_⟩
    · exact l4.left.trans (by rw [hkeep _ (.inl rfl)])
    · exact l4.right.trans (by rw [hkeep _ (.inr rfl)])
    · refine (l4.other p ha hb).trans ?_
      split
      · next hp =>
        rw [hp, ← hec]
        exact p3.here
      · next hp => exact p3.other p hp
    · have k3 := congrArg (fun z : Tile => ({ z with queues := t.queues, acc := t.acc, arr := t.arr } : Tile)) p3.rest
      have k4 := congrArg (fun z : Tile => ({ z with queues := t.queues, acc := t.acc, arr := t.arr } : Tile)) l4.rest
      exact k4.trans k3
end

/-- Settles O14: the loop over the blocks, and the merge. -/
theorem sparseProductFoldsContributingPairs : Obligations.SparseProductFoldsContributingPairs := by
  unfold Obligations.SparseProductFoldsContributingPairs
  intro s₀ t w q hi hb hs s T qa qb qc set ea eb ec na nb bs
  have q' : At t.gid s T := at_issued w q
  refine ⟨fun hk => (opSpmm_empty q' hb hs hk .none).ends hi, fun hk hf ha hn hla hlb hlc hma hmb => ?_⟩
  intro start x
  obtain ⟨v, tl, hv, hr, -, hd⟩ := opSpmm_folds q' hb hs hk hf ha rfl rfl rfl hla hlb hlc hma hmb
  have htl : tl.issue = none := (congrArg Tile.issue hd.rest).trans hn
  obtain ⟨hdone, hflags, hriddle⟩ := riddle_retires hi hn hv hr htl
  refine ⟨_, tl.arrEnded, rfl, hdone, hflags.trans hr.flags, ?_, ?_, hd.written, hd.kept, hd.left, hd.right, hd.other, ?_⟩
  · refine Eq.trans ?_ hr.misses
    unfold getF getI
    exact congrArg (getBits · 0 32) hriddle
  · refine Eq.trans ?_ hr.idle
    unfold getF getI
    exact congrArg (getBits · 32 32) hriddle
  · have k := congrArg Tile.arrEnded hd.rest
    have hT : T.arrEnded = T := by
      unfold Tile.arrEnded
      rw [← ha, ← hn]
    exact k.trans hT

end Sys2Proof.Machine
end
